-- ==== Sys2Proof/Word.lean ====
section
/-! DEFINITION. Word types and their plainest arithmetic (00 R3, R7; 03 R61, R64). -/

namespace Sys2Proof

/-- One byte of memory (00 R3). -/
abbrev Byte := BitVec 8

/-- A 32-bit register value (03 R61). -/
abbrev Word := BitVec 32

/-- A 64-bit pair value, instruction word or lane mask (03 R61, 02 R25). -/
abbrev Dword := BitVec 64

/-- A 128-bit datum: the widest access of a lane (09 R208). -/
abbrev Quad := BitVec 128

/-- `v[k:k+1]`: register k holds bits [31:0] and register k+1 bits [63:32] (03 R61). -/
def pairOf (lo hi : Word) : Dword := hi ++ lo

/-- Bits [31:0] of a pair. -/
def loWord (x : Dword) : Word := x.extractLsb' 0 32

/-- Bits [63:32] of a pair. -/
def hiWord (x : Dword) : Word := x.extractLsb' 32 32

/-- `Bits(x, h, l)` of the pseudocode, zero-extended to a word (00 R7). -/
def bits {n : Nat} (x : BitVec n) (h l : Nat) : Word :=
  (x.extractLsb' l (h - l + 1)).setWidth 32

/-- A bit as a word: 1 when set. -/
def boolWord (b : Bool) : Word := if b then 1 else 0

end Sys2Proof
end

