-- ==== Sys2Proof/Config.lean ====
section
/-! DEFINITION. The constants of an implementation and the free values: opaque, without a value, so no proof can
rest on one (00 R8, R9; log 3). -/

namespace Sys2Proof

/-- The free bit patterns of undefined values (00 R9), the n-th drawn: `State.free` counts the draws (log 3). -/
opaque Config.freeDword : Nat → Dword

/-- The free choices among listed outcomes (00 R8) and other open choices, the n-th drawn (log 3). -/
opaque Config.freeChoice : Nat → Nat

/-- Candidate results of the special functions, by opcode number and operand bits; used only where they meet the
bound of 03 R81 (log 13). -/
opaque Config.specialCandidate : Nat → Dword → Word

/-- What FSINR (false) and FCOSR (true) return for a finite r outside [−π/4, π/4], before it is bounded by
[−1, 1] (03 R81; log 13). -/
opaque Config.trigOutside : Bool → Dword → Word

/-- VSRAM_LOW of each die, fused into the part (15 R346; log 8). -/
opaque Config.vsramLow : Nat → BitVec 16

/-- Whether an ECDSA signature verifies under a key: 0 Velnal's, 1 the operator key (16 R368; log 8). -/
opaque Config.signatureVerifies : Nat → List Byte → List Byte → Bool

/-- Whether attestation holds an operator key (16 R368; log 8). -/
opaque Config.operatorKeyHeld : Bool

/-- SHA-384 of a byte string, as 48 bytes (19 R418; log 8). -/
opaque Config.sha384Byte : List Byte → Nat → Byte

/-- The root of trust's signature over a report, as 96 bytes (19 R418; log 8). -/
opaque Config.signByte : List Byte → Nat → Byte

/-- The features the part holds, FEAT0 bits [7:0] (19 R415; log 8). -/
opaque Config.features : BitVec 8

/-- What the fields of a fault record hold for which 09 R213 gives no value, by die × 2⁶⁴ + the record's sequence number (log 66). -/
opaque Config.recordFill : Nat → BitVec 64

end Sys2Proof
end

