-- ==== Sys2Proof/Machine/Table.lean ====
section
/-! DEFINITION. Sparse tables in one canonical form: keys strictly rising, no entry equal to what an unlisted key
reads as. Memory, register files, CSRs and every collection by key are such tables. -/

namespace Sys2Proof

/-- A sparse map from natural numbers. What an unlisted key reads as is given by the function `d` that each
operation takes. -/
abbrev Table (α : Type) := List (Nat × α)

/-- The first entry of a key. -/
def Table.look {α : Type} : Table α → Nat → Option α
  | [], _ => none
  | (j, v) :: t, k => if j = k then some v else Table.look t k

/-- The value at a key. -/
def Table.get {α : Type} (d : Nat → α) (t : Table α) (k : Nat) : α := (Table.look t k).getD (d k)

/-- The table without a key. -/
def Table.erase {α : Type} : Table α → Nat → Table α
  | [], _ => []
  | (j, v) :: t, k => if j = k then Table.erase t k else (j, v) :: Table.erase t k

/-- Inserts an entry before the first greater key. -/
def Table.insert {α : Type} : Table α → Nat → α → Table α
  | [], k, v => [(k, v)]
  | (j, w) :: t, k, v => if k < j then (k, v) :: (j, w) :: t else (j, w) :: Table.insert t k v

/-- Writes a key: the entry is removed when the value is what an unlisted key reads as. -/
def Table.set {α : Type} [DecidableEq α] (d : Nat → α) (t : Table α) (k : Nat) (v : α) : Table α :=
  if v = d k then Table.erase t k else Table.insert (Table.erase t k) k v

/-- Applies a function to the value at a key. -/
def Table.update {α : Type} [DecidableEq α] (d : Nat → α) (t : Table α) (k : Nat) (f : α → α) : Table α :=
  Table.set d t k (f (Table.get d t k))

/-- Keys strictly rising, all above a bound. -/
def Table.rising {α : Type} : Table α → Option Nat → Bool
  | [], _ => true
  | (j, _) :: t, lo => (match lo with | none => true | some b => decide (b < j)) && Table.rising t (some j)

/-- The canonical form. -/
def Table.wf {α : Type} [DecidableEq α] (d : Nat → α) (t : Table α) : Bool :=
  Table.rising t none && t.all (fun e => decide (e.2 ≠ d e.1))

/-- The unlisted value of a table of optional records. -/
def noneAt {α : Type} : Nat → Option α := fun _ => none

/-- The unlisted value of a table of flags. -/
def falseAt : Nat → Bool := fun _ => false

/-- The unlisted value of a register file. -/
def zeroWord : Nat → Word := fun _ => 0

/-- The unlisted value of a table of counts. -/
def zeroNat : Nat → Nat := fun _ => 0

/-- The unlisted value of a table of lists. -/
def nilAt {α : Type} : Nat → List α := fun _ => []

end Sys2Proof
end

