-- ==== Sys2Proof/Machine/Num.lean ====
section
/-! DEFINITION. Number formats and exact arithmetic (03 R61–R83): values are exact rationals, rounded once. -/

namespace Sys2Proof

/-- The floating-point formats of 03 R62. -/
inductive Fmt where
  | f64 | f32 | f16 | bf16 | e4m3 | e5m2 | e2m1
  deriving DecidableEq, Repr

/-- The rounding modes of 03 R65, with the random bits of SR where an instruction takes them. -/
inductive RMode where
  | rne | rz | ru | rd
  | sr (k : Nat) (u : Nat)
  deriving DecidableEq, Repr

/-- The value an encoding stands for (03 R62). The sign of a finite value is kept apart, so −0 is a value. -/
inductive Val where
  | nan
  | inf (neg : Bool)
  | fin (neg : Bool) (q : Rat)
  deriving DecidableEq, Repr

/-- Width of the exponent field (03 R62). -/
def Fmt.expBits : Fmt → Nat
  | .f64 => 11 | .f32 => 8 | .f16 => 5 | .bf16 => 8 | .e4m3 => 4 | .e5m2 => 5 | .e2m1 => 2

/-- Width of the fraction field (03 R62). -/
def Fmt.fracBits : Fmt → Nat
  | .f64 => 52 | .f32 => 23 | .f16 => 10 | .bf16 => 7 | .e4m3 => 3 | .e5m2 => 2 | .e2m1 => 1

/-- Exponent bias (03 R62). -/
def Fmt.bias : Fmt → Nat
  | .f64 => 1023 | .f32 => 127 | .f16 => 15 | .bf16 => 127 | .e4m3 => 7 | .e5m2 => 15 | .e2m1 => 1

/-- Width of an encoding in bits. -/
def Fmt.width (f : Fmt) : Nat := 1 + f.expBits + f.fracBits

/-- Position of the sign bit. -/
def Fmt.signBit (f : Fmt) : Nat := f.expBits + f.fracBits

/-- The encoding of the largest finite value (03 R62). -/
def Fmt.maxFinite : Fmt → Nat
  | .f64 => 0x7FEFFFFFFFFFFFFF | .f32 => 0x7F7FFFFF | .f16 => 0x7BFF | .bf16 => 0x7F7F
  | .e4m3 => 0x7E | .e5m2 => 0x7B | .e2m1 => 7

/-- The canonical NaN (03 R69). E2M1 has none: its NaN source converts to +0 (R73). -/
def Fmt.canonicalNaN : Fmt → Nat
  | .f64 => 0x7FF8000000000000 | .f32 => 0x7FC00000 | .f16 => 0x7E00 | .bf16 => 0x7FC0
  | .e4m3 => 0x7F | .e5m2 => 0x7E | .e2m1 => 0

/-- The magnitude bits of infinity, where the format has one (03 R62). -/
def Fmt.infBits : Fmt → Option Nat
  | .f64 => some 0x7FF0000000000000 | .f32 => some 0x7F800000 | .f16 => some 0x7C00 | .bf16 => some 0x7F80
  | .e5m2 => some 0x7C | .e4m3 => none | .e2m1 => none

/-- 2 to an integer power. -/
def pow2 (e : Int) : Rat := if 0 ≤ e then ((2 ^ e.toNat : Nat) : Rat) else 1 / ((2 ^ (-e).toNat : Nat) : Rat)

/-- The value of a finite encoding's exponent and fraction fields (03 R62). -/
def Fmt.magnitude (f : Fmt) (e m : Nat) : Rat :=
  if e = 0 then (m : Rat) * pow2 (1 - (f.bias : Int) - f.fracBits)
  else ((2 ^ f.fracBits + m : Nat) : Rat) * pow2 ((e : Int) - f.bias - f.fracBits)

/-- The value of an encoding (03 R62). -/
def Fmt.decode (f : Fmt) (x : Nat) : Val :=
  let neg := x.testBit f.signBit
  let mag := x % 2 ^ f.signBit
  let e := mag / 2 ^ f.fracBits
  let m := mag % 2 ^ f.fracBits
  match f with
  | .e2m1 => .fin neg ((if neg then -1 else 1) * f.magnitude e m)
  | .e4m3 => if mag = 0x7F then .nan else .fin neg ((if neg then -1 else 1) * f.magnitude e m)
  | _ =>
    if e = 2 ^ f.expBits - 1 then (if m = 0 then .inf neg else .nan)
    else .fin neg ((if neg then -1 else 1) * f.magnitude e m)

/-- floor(log2 (n/d)) for positive n and d. -/
def floorLog2 (n d : Nat) : Int :=
  let l : Int := (Nat.log2 n : Int) - Nat.log2 d
  if (if 0 ≤ l then d * 2 ^ l.toNat ≤ n else d ≤ n * 2 ^ (-l).toNat) then l else l - 1

/-- Whether a magnitude with whole part q and remainder r/d rounds up (03 R67). -/
def roundsUp (mode : RMode) (neg : Bool) (q r d : Nat) : Bool :=
  if r = 0 then false
  else match mode with
    | .rne => decide (2 * r > d) || (decide (2 * r = d) && decide (q % 2 = 1))
    | .rz => false
    | .ru => !neg
    | .rd => neg
    | .sr k u => if neg then !decide (u < (d - r) * 2 ^ k / d) else decide (u < r * 2 ^ k / d)

/-- The encoding of zero with a sign. -/
def Fmt.zero (f : Fmt) (neg : Bool) : Nat := if neg then 2 ^ f.signBit else 0

/-- The result of the overflow case (03 R71). -/
def Fmt.overflow (f : Fmt) (mode : RMode) (sat neg : Bool) : Nat :=
  let s := f.zero neg
  let big := s + f.maxFinite
  if sat then big
  else match f with
    | .e2m1 => big
    | .e4m3 => f.canonicalNaN
    | .e5m2 => s + 0x7C
    | _ =>
      let infinity := s + f.infBits.getD 0
      match mode with
      | .rz => big
      | .ru => if neg then big else infinity
      | .rd => if neg then infinity else big
      | _ => infinity

/-- A nonzero exact value rounded once into the format (03 R67, R71). -/
def Fmt.roundQ (f : Fmt) (mode : RMode) (sat : Bool) (x : Rat) : Nat :=
  let neg := decide (x < 0)
  let n := x.num.natAbs
  let d := x.den
  let emin : Int := 1 - (f.bias : Int)
  let e := max (floorLog2 n d) emin
  let u := e - f.fracBits
  let num := if 0 ≤ u then n else n * 2 ^ (-u).toNat
  let den := if 0 ≤ u then d * 2 ^ u.toNat else d
  let q := num / den
  let m := if roundsUp mode neg q (num % den) den then q + 1 else q
  let mag := if m < 2 ^ f.fracBits then m
    else (e + f.bias).toNat * 2 ^ f.fracBits + (m - 2 ^ f.fracBits)
  if mag > f.maxFinite then f.overflow mode sat neg else f.zero neg + mag

/-- An exact value into the format (03 R67–R71, R73): the one place where a result is rounded. -/
def Fmt.encode (f : Fmt) (mode : RMode) (sat : Bool) : Val → Nat
  | .nan => f.canonicalNaN
  | .inf neg =>
    match f.infBits with
    | some b => if sat then f.zero neg + f.maxFinite else f.zero neg + b
    | none => if f = .e2m1 ∨ sat = true then f.zero neg + f.maxFinite else f.canonicalNaN
  | .fin neg q => if q = 0 then f.zero neg else f.roundQ mode sat q

/-- Sign of a value (NaN counts as positive). -/
def Val.neg : Val → Bool
  | .nan => false | .inf n => n | .fin n _ => n

/-- Whether a value is NaN. -/
def Val.isNaN : Val → Bool
  | .nan => true | _ => false

/-- Whether a value is infinite. -/
def Val.isInf : Val → Bool
  | .inf _ => true | _ => false

/-- Whether a value is a zero. -/
def Val.isZero : Val → Bool
  | .fin _ q => decide (q = 0) | _ => false

/-- The real number of a finite value, 0 otherwise. -/
def Val.real : Val → Rat
  | .fin _ q => q | _ => 0

/-- Negation of a value. -/
def Val.negate : Val → Val
  | .nan => .nan | .inf n => .inf (!n) | .fin n q => .fin (!n) (-q)

/-- Exact sum (03 R70). `rd` is whether the mode is RD, which gives an exact cancellation the sign −. -/
def Val.add (rd : Bool) : Val → Val → Val
  | .nan, _ => .nan
  | _, .nan => .nan
  | .inf a, .inf b => if a = b then .inf a else .nan
  | .inf a, .fin _ _ => .inf a
  | .fin _ _, .inf b => .inf b
  | .fin a p, .fin b q =>
    let s := p + q
    if s = 0 then (if p = 0 ∧ q = 0 ∧ a = b then .fin a 0 else .fin rd 0) else .fin (decide (s < 0)) s

/-- Exact product (03 R70). -/
def Val.mul : Val → Val → Val
  | .nan, _ => .nan
  | _, .nan => .nan
  | .inf a, .inf b => .inf (a != b)
  | .inf a, .fin b q => if q = 0 then .nan else .inf (a != b)
  | .fin a p, .inf b => if p = 0 then .nan else .inf (a != b)
  | .fin a p, .fin b q => .fin (a != b) (p * q)

/-- Exact quotient (03 R70, R79). -/
def Val.div : Val → Val → Val
  | .nan, _ => .nan
  | _, .nan => .nan
  | .inf _, .inf _ => .nan
  | .inf a, .fin b _ => .inf (a != b)
  | .fin a _, .inf b => .fin (a != b) 0
  | .fin a p, .fin b q =>
    if q = 0 then (if p = 0 then .nan else .inf (a != b)) else .fin (a != b) (p / q)

/-- Integer square root, by bits from the top: `fuel` bits remain. -/
def isqrtAux : Nat → Nat → Nat → Nat
  | 0, _, r => r
  | k + 1, n, r => let c := r + 2 ^ k; isqrtAux k n (if c * c ≤ n then c else r)

/-- floor(√n). -/
def isqrt (n : Nat) : Nat := isqrtAux (Nat.log2 n / 2 + 1) n 0

/-- A rational that rounds as √x does in every format: √x itself when rational in the scale used, otherwise a value
strictly between the same two neighbours at 140 bits (03 R79). -/
def sqrtRat (x : Rat) : Rat :=
  let n := x.num.natAbs * x.den
  let k := (140 + Nat.log2 x.den)
  let m := n * 4 ^ k
  let r := isqrt m
  let t : Rat := ((if r * r = m then 2 * r else 2 * r + 1 : Nat) : Rat)
  t / ((2 * 2 ^ k * x.den : Nat) : Rat)

/-- Square root before rounding (03 R70, R79). -/
def Val.sqrt : Val → Val
  | .nan => .nan
  | .inf n => if n then .nan else .inf false
  | .fin n q => if q = 0 then .fin n 0 else if n then .nan else .fin false (sqrtRat q)

/-- Whether a mode is RD. -/
def RMode.isRd : RMode → Bool
  | .rd => true | _ => false

/-- Fused multiply and add, before its one rounding (03 R70, R79). -/
def Val.fma (rd : Bool) (a b c : Val) : Val := Val.add rd (Val.mul a b) c

/-- Numeric order of values with −0 below +0, for the extrema of 03 R72. -/
def Val.below : Val → Val → Bool
  | .nan, _ => false
  | _, .nan => false
  | .inf a, .inf b => a && !b
  | .inf a, .fin _ _ => a
  | .fin _ _, .inf b => !b
  | .fin a p, .fin b q => decide (p < q) || (decide (p = 0 ∧ q = 0) && a && !b)

/-- minimumNumber and maximumNumber on encodings (03 R72): the operand's bits are returned unchanged. -/
def Fmt.extremum (f : Fmt) (isMax : Bool) (x y : Nat) : Nat :=
  let a := f.decode x
  let b := f.decode y
  if a.isNaN && b.isNaN then f.canonicalNaN
  else if a.isNaN then y
  else if b.isNaN then x
  else if isMax then (if a.below b then y else x)
  else (if b.below a then y else x)

/-- An exact value rounded to an integer in a mode (03 R74, 06 R144). -/
def roundInt (mode : RMode) (x : Rat) : Int :=
  let neg := decide (x < 0)
  let n := x.num.natAbs
  let q := n / x.den
  let m : Nat := if roundsUp mode neg q (n % x.den) x.den then q + 1 else q
  if neg then -(m : Int) else m

/-- A value rounded to an integral value of the same format (06 R144): a zero result keeps the sign of the source. -/
def Val.integral (mode : RMode) : Val → Val
  | .fin n q => .fin n (roundInt mode q : Int)
  | v => v

/-- Clamps an integer into a range (03 R74, R82). -/
def clampInt (lo hi x : Int) : Int := if x < lo then lo else if hi < x then hi else x

/-- Float to integer (03 R74): NaN gives 0, and out-of-range values give the nearest bound. -/
def Val.toIntClamp (mode : RMode) (lo hi : Int) : Val → Int
  | .nan => 0
  | .inf n => if n then lo else hi
  | .fin _ q => clampInt lo hi (roundInt mode q)

/-- An integer as an exact value. -/
def Val.ofInt (n : Int) : Val := .fin (decide (n < 0)) (n : Rat)

/-- The value of a block scale (03 R63); `none` is NaN. -/
def scaleExp (s : Nat) : Option Int := if s = 255 then none else some ((s : Int) - 127)

/-- One product of an exact sum: two elements and the sum of their scale exponents. -/
structure Term where
  a : Val
  b : Val
  e : Int
  deriving DecidableEq, Repr

/-- Whether two values multiply to an undefined product. -/
def Term.zeroTimesInf (t : Term) : Bool := (t.a.isInf && t.b.isZero) || (t.a.isZero && t.b.isInf)

/-- ExactSum of 03 R75, as an FP32 encoding. `scaleNaN` is whether some scale is the NaN code. -/
def exactSum (c : Word) (ts : List Term) (scaleNaN : Bool) : Word :=
  let cv := Fmt.f32.decode c.toNat
  let nan : Word := 0x7FC00000
  if cv.isNaN || scaleNaN || ts.any (fun t => t.a.isNaN || t.b.isNaN) then nan
  else if ts.any Term.zeroTimesInf then nan
  else
    let infs := (if cv.isInf then [cv.neg] else []) ++
      (ts.filter (fun t => t.a.isInf || t.b.isInf)).map (fun t => t.a.neg != t.b.neg)
    if infs.contains true && infs.contains false then nan
    else if infs.contains true then 0xFF800000
    else if infs.contains false then 0x7F800000
    else
      let x := cv.real + (ts.map (fun t => t.a.real * t.b.real * pow2 t.e)).sum
      if x = 0 then
        (if cv.isZero && cv.neg && ts.all (fun t => (t.a.isZero || t.b.isZero) && (t.a.neg != t.b.neg))
          then 0x80000000 else 0)
      else BitVec.ofNat 32 (Fmt.f32.roundQ .rne false x)

/-- FP32 value of a word. -/
def f32 (x : Word) : Val := Fmt.f32.decode x.toNat

/-- FP64 value of a pair. -/
def f64 (x : Dword) : Val := Fmt.f64.decode x.toNat

/-- RoundToF32 (00 R7). -/
def toF32 (m : RMode) (v : Val) : Word := BitVec.ofNat 32 (Fmt.f32.encode m false v)

/-- RoundToF64 (00 R7). -/
def toF64 (m : RMode) (v : Val) : Dword := BitVec.ofNat 64 (Fmt.f64.encode m false v)

/-- Element j of width w of a register (03 R61). -/
def element {n : Nat} (x : BitVec n) (w j : Nat) : Nat := (x.toNat / 2 ^ (j * w)) % 2 ^ w

/-- Packs elements of width w, element 0 lowest (03 R61). -/
def packElements (w : Nat) : List Nat → Nat
  | [] => 0
  | x :: xs => x % 2 ^ w + 2 ^ w * packElements w xs

end Sys2Proof
end

