-- ==== Sys2Proof/Machine/Special.lean ====
section
/-! DEFINITION. The special functions (03 R80, R81). Each has the exact results the spec lists; every other result is a
candidate of the implementation (Config.specialCandidate) held to the bound, and the correctly rounded value where the
candidate breaks it (log 13). The real functions are approximated by rationals to about 2^−100. -/

namespace Sys2Proof

/-- The unit of the fixed-point numbers of this file: 2^128. -/
def fxOne : Nat := 2 ^ 128

/-- ln 2 × 2^128, cut. -/
def fxLn2 : Nat := 0xb17217f7d1cf79abc9e3b39803f2f6af

/-- log2 e × 2^128, cut. -/
def fxLog2e : Nat := 0x171547652b82fe1777d0ffda0d23a7d12

/-- π/2 × 2^400, cut. -/
def fxHalfPi : Nat :=
  0x1921fb54442d18469898cc51701b839a252049c1114cf98e804177d4c76273644a29410f31c6809bbdf2a33679a7486366056

/-- Sum of `n` terms of a series of fixed-point numbers; `step k t` is the term after term k. -/
def fxSeries (step : Nat → Nat → Nat) : Nat → Nat → Nat → Nat → Nat
  | 0, _, _, sum => sum
  | n + 1, k, t, sum => fxSeries step n (k + 1) (step k t) (sum + t)

/-- e^z for a fixed-point z in [0, 1). -/
def fxExp (z : Nat) : Nat := fxSeries (fun k t => t * z / fxOne / (k + 1)) 45 0 fxOne 0

/-- ln m for a fixed-point m in [1, 2): 2 artanh((m − 1)/(m + 1)). -/
def fxLn (m : Nat) : Nat :=
  let z := (m - fxOne) * fxOne / (m + fxOne)
  let z2 := z * z / fxOne
  2 * (((List.range 46).foldl (fun (acc : Nat × Nat) k => (acc.1 + acc.2 / (2 * k + 1), acc.2 * z2 / fxOne)) (0, z)).1)

/-- sin z for a fixed-point z in [0, 1). -/
def fxSin (z : Nat) : Nat :=
  let z2 := z * z / fxOne
  let r := (List.range 20).foldl (fun (acc : Int × Nat) k =>
    (acc.1 + (if k % 2 = 0 then (acc.2 : Int) else -(acc.2 : Int)), acc.2 * z2 / fxOne / ((2 * k + 2) * (2 * k + 3))))
    ((0 : Int), z)
  r.1.toNat

/-- cos z for a fixed-point z in [0, 1). -/
def fxCos (z : Nat) : Nat :=
  let z2 := z * z / fxOne
  let r := (List.range 20).foldl (fun (acc : Int × Nat) k =>
    (acc.1 + (if k % 2 = 0 then (acc.2 : Int) else -(acc.2 : Int)), acc.2 * z2 / fxOne / ((2 * k + 1) * (2 * k + 2))))
    ((0 : Int), fxOne)
  r.1.toNat

/-- A fixed-point number as a rational. -/
def fxRat (x : Nat) : Rat := (x : Rat) / (fxOne : Rat)

/-- A nonnegative rational as a fixed-point number, cut. -/
def toFx (q : Rat) : Nat := (q.num.natAbs * fxOne) / q.den

/-- ulp of 03 R80 for FP32. -/
def ulp32 (y : Rat) : Rat :=
  if y = 0 then pow2 (-149) else pow2 (max (floorLog2 y.num.natAbs y.den) (-126) - 23)

/-- |q|. -/
def ratAbs (q : Rat) : Rat := if q < 0 then -q else q

/-- The candidate of an implementation held to a bound of n ulp of y: it is taken when it is finite and within the
bound (or infinite where y exceeds the largest finite value), and otherwise the correctly rounded value stands. -/
def bounded (op : Nat) (operands : Dword) (n : Nat) (y : Rat) (ok : Val → Bool) : Word :=
  let c := Config.specialCandidate op operands
  let good := match f32 c with
    | .nan => false
    | .inf s => decide (340282346638528859811704183484516925440 < ratAbs y) && s == decide (y < 0)
    | .fin _ q => decide (ratAbs (q - y) ≤ n * ulp32 y)
  if good && ok (f32 c) then c else toF32 .rne (.fin (decide (y < 0)) y)

/-- The canonical NaN of FP32. -/
def nan32 : Word := 0x7FC00000

/-- Whether a rational is a power of two, and its exponent. -/
def powerOfTwo (q : Rat) : Option Int :=
  let n := q.num.natAbs
  let e := floorLog2 n q.den
  if q ≠ 0 ∧ pow2 e = ratAbs q then some e else none

/-- FRCP (03 R81). -/
def fnRcp (x : Word) : Word :=
  match f32 x with
  | .nan => nan32
  | .inf n => toF32 .rne (.fin n 0)
  | .fin n q =>
    if q = 0 then toF32 .rne (.inf n)
    else match powerOfTwo q with
      | some e => if -126 ≤ -e ∧ -e ≤ 127 then toF32 .rne (.fin n (1 / q)) else bounded 0x10A (x.setWidth 64) 1 (1 / q)
          (fun _ => true)
      | none => bounded 0x10A (x.setWidth 64) 1 (1 / q) (fun _ => true)

/-- FRSQ (03 R81). -/
def fnRsq (x : Word) : Word :=
  match f32 x with
  | .nan => nan32
  | .inf n => if n then nan32 else 0
  | .fin n q =>
    if q = 0 then toF32 .rne (.inf n)
    else if n then nan32
    else match powerOfTwo q with
      | some e => if e % 2 = 0 then toF32 .rne (.fin false (pow2 (-(e / 2)))) else
          bounded 0x10B (x.setWidth 64) 1 (1 / sqrtRat q) (fun _ => true)
      | none => bounded 0x10B (x.setWidth 64) 1 (1 / sqrtRat q) (fun _ => true)

/-- 2^x for a rational x between −400 and 400. -/
def exp2Rat (x : Rat) : Rat :=
  let n := x.floor
  let f := toFx (x - (n : Rat))
  fxRat (fxExp (f * fxLn2 / fxOne)) * pow2 n

/-- FEXP2 (03 R81). -/
def fnExp2 (x : Word) : Word :=
  match f32 x with
  | .nan => nan32
  | .inf n => if n then 0 else 0x7F800000
  | .fin _ q =>
    if q = 0 then 0x3F800000
    else if q.den = 1 then
      if 128 ≤ q then 0x7F800000 else if q < -200 then 0 else toF32 .rne (.fin false (pow2 q.num))
    else
      let y := if 200 < q then pow2 200 else if q < -300 then pow2 (-300) else exp2Rat q
      bounded 0x10E (x.setWidth 64) 2 y (fun _ => true)

/-- log2 of a positive rational. -/
def log2Rat (q : Rat) : Rat :=
  let e := floorLog2 q.num.natAbs q.den
  (e : Rat) + fxRat (fxLn (toFx (q * pow2 (-e)))) / fxRat fxLn2

/-- FLOG2 (03 R81). -/
def fnLog2 (x : Word) : Word :=
  match f32 x with
  | .nan => nan32
  | .inf n => if n then nan32 else 0x7F800000
  | .fin n q =>
    if q = 0 then 0xFF800000
    else if n then nan32
    else match powerOfTwo q with
      | some e => toF32 .rne (Val.ofInt e)
      | none =>
        let y := log2Rat q
        bounded 0x10F (x.setWidth 64) 2 y (fun v =>
          !(decide (1 / 2 ≤ q) && decide (q ≤ 2)) || decide (ratAbs (v.real - y) ≤ pow2 (-22)))

/-- tanh of a rational; near 0 by its series, which lies below a power of two where tanh does. -/
def tanhRat (q : Rat) : Rat :=
  let a := ratAbs q
  let t := if a < pow2 (-40) then a - a * a * a / 3
    else if 30 < a then 1 - pow2 (-60)
    else
      let e := exp2Rat (2 * a * fxRat fxLog2e)
      (e - 1) / (e + 1)
  if q < 0 then -t else t

/-- FTANH (03 R81): every result lies in [−1, 1]. -/
def fnTanh (x : Word) : Word :=
  match f32 x with
  | .nan => nan32
  | .inf n => toF32 .rne (.fin n (if n then -1 else 1))
  | .fin _ q =>
    if q = 0 then x
    else bounded 0x113 (x.setWidth 64) 2 (tanhRat q) (fun v => decide (ratAbs v.real ≤ 1))

/-- sin (false) and cos (true) of a rational of magnitude below 1; near 0 by their series. -/
def trigRat (cos : Bool) (q : Rat) : Rat :=
  let a := ratAbs q
  if cos then (if a < pow2 (-40) then 1 - a * a / 2 else fxRat (fxCos (toFx a)))
  else
    let t := if a < pow2 (-40) then a - a * a * a / 6 else fxRat (fxSin (toFx a))
    if q < 0 then -t else t

/-- Whether a magnitude is at most π/4. -/
def withinQuarterPi (q : Rat) : Bool := decide (2 * ratAbs q * pow2 400 ≤ (fxHalfPi : Rat))

/-- FSINR (false) and FCOSR (true) of r and a quadrant (03 R81). -/
def fnTrig (cos : Bool) (r quad : Word) : Word :=
  let k := (quad.toNat + if cos then 1 else 0) % 4
  let operands := pairOf r (quad &&& 3)
  match f32 r with
  | .nan => nan32
  | .inf _ => nan32
  | .fin _ q =>
    if withinQuarterPi q then
      let t := trigRat (k % 2 = 1) q
      bounded (if cos then 0x112 else 0x111) operands 1 (if k < 2 then t else -t) (fun _ => true)
    else
      let c := Config.trigOutside cos operands
      match f32 c with
      | .fin _ v => if ratAbs v ≤ 1 then c else 0
      | _ => 0

/-- FRRED (03 R81): r and the quadrant. -/
def fnReduce (x : Word) : Word × Word :=
  match f32 x with
  | .nan => (nan32, 0)
  | .inf _ => (nan32, 0)
  | .fin _ q =>
    if q = 0 ∨ withinQuarterPi q = true then (x, 0)
    else
      let n := ((q * pow2 400) / (fxHalfPi : Rat) + 1 / 2).floor
      let r := q - (n : Rat) * (fxHalfPi : Rat) / pow2 400
      (toF32 .rne (.fin (decide (r < 0)) r), BitVec.ofInt 32 (n % 4))

end Sys2Proof
end

