-- ==== Sys2Proof/Machine/Flags.lean ====
section
/-! DEFINITION. The conditions of compares and branches (04 R102, 05 R131, 06 R141, R145) and FCLASS (06 R144). TLN has no
flags register: a compare writes a mask or a scalar. -/

namespace Sys2Proof.Machine

/-- An integer condition: 0 eq, 1 ne, 2 lt and 3 ge signed, 4 ltn and 5 gen unsigned (05 R131, 06 R141). -/
def intCond {n : Nat} (c : Nat) (a b : BitVec n) : Bool :=
  match c with
  | 0 => a == b
  | 1 => a != b
  | 2 => a.slt b
  | 3 => !a.slt b
  | 4 => a.ult b
  | 5 => !a.ult b
  | _ => false

/-- A floating-point condition (06 R145); −0 equals +0, and NaN is unordered. -/
def floatCond (c : Nat) (a b : Val) : Bool :=
  let un := a.isNaN || b.isNaN
  let lt := match a, b with
    | .inf x, .inf y => x && !y
    | .inf x, .fin _ _ => x
    | .fin _ _, .inf y => !y
    | .fin _ p, .fin _ q => decide (p < q)
    | _, _ => false
  let eq := match a, b with
    | .inf x, .inf y => x == y
    | .fin _ p, .fin _ q => decide (p = q)
    | _, _ => false
  match c with
  | 0 => !un && eq
  | 1 => un || !eq
  | 2 => !un && lt
  | 3 => !un && !lt
  | 4 => !un && (lt || eq)
  | 5 => !un && !(lt || eq)
  | 6 => !un
  | 7 => un
  | _ => false

/-- The condition of BRS on a signed value: 0 eqz, 1 nez, 2 ltz, 3 gez, 4 gtz, 5 lez (04 R102). -/
def branchCond (c : Nat) (x : Word) : Bool :=
  match c with
  | 0 => x == 0
  | 1 => x != 0
  | 2 => x.slt 0
  | 3 => !x.slt 0
  | 4 => (0 : Word).slt x
  | 5 => !(0 : Word).slt x
  | _ => false

/-- FCLASS (06 R144): one bit set. -/
def classOf (x : Word) : Word :=
  let neg := x.getLsbD 31
  let e := field8 x
  let m := x.toNat % 2 ^ 23
  if e = 255 then (if m ≠ 0 then 0x100 else if neg then 0x001 else 0x080)
  else if e = 0 then (if m = 0 then (if neg then 0x008 else 0x010) else if neg then 0x004 else 0x020)
  else if neg then 0x002 else 0x040
where
  /-- The exponent field of FP32. -/
  field8 (x : Word) : Nat := x.toNat / 2 ^ 23 % 256

end Sys2Proof.Machine
end

