-- ==== Sys2Proof/Syntax.lean ====
section
/-! DEFINITION. The whole syntax: stop causes, the fields of every instruction format, messages, and the one
inductive `Instr`, one constructor for each row of the table of operations and events (02 R25–R50, file 95). -/

namespace Sys2Proof

/-- The stop causes of 14 R299. Their codes are given by `StopCause.code`. -/
inductive StopCause where
  | illegalOpcode | illegalEncoding | illegalPair | illegalOperand | privilege
  | fetchSegment | fetchDevice
  | pageNotPresent | pageProtection | privateGrow | misaligned | leaseWrite
  | poisonLoad | poisonRegister
  | fuseTimeout | divergenceSpillLimit | loopStackOverflow | signatureMismatch
  | breakpoint | softwareTrap | debugStep
  | kill | discard | zoneEvacuation | benched
  deriving DecidableEq, Repr

/-- The fields of an F word with the immediate of its LIMM prefix (02 R29, R42). -/
structure FArgs where
  d : BitVec 8
  a : BitVec 8
  b : BitVec 8
  s : BitVec 10
  mod : BitVec 11
  rx : Bool
  g : BitVec 3
  la : Bool
  lb : Bool
  bs : Bool
  limm : Option Word
  deriving DecidableEq, Repr

/-- The fields of an S word (02 R31). -/
structure SArgs where
  d : BitVec 10
  a : BitVec 10
  b : BitVec 10
  imm : BitVec 16
  la : Bool
  lb : Bool
  deriving DecidableEq, Repr

/-- The fields of an SM word (02 R32). -/
structure SmArgs where
  d : BitVec 10
  a : BitVec 10
  scope : BitVec 3
  ord : BitVec 2
  imm : BitVec 16
  la : Bool
  lb : Bool
  deriving DecidableEq, Repr

/-- The fields of a C word (02 R33). -/
structure CArgs where
  t : BitVec 24
  j : BitVec 24
  k : BitVec 3
  p : Bool
  deriving DecidableEq, Repr

/-- The fields of an M word (02 R34). -/
structure MArgs where
  d : BitVec 8
  a : BitVec 8
  b : BitVec 8
  s : BitVec 10
  off : BitVec 7
  scope : BitVec 3
  ord : BitVec 2
  g : BitVec 3
  la : Bool
  ms : Bool
  ef : Bool
  deriving DecidableEq, Repr

/-- The fields of an MX word (02 R35). -/
structure XArgs where
  nsz : BitVec 2
  acc : Bool
  tb : Bool
  ru : Bool
  sa : Bool
  a : BitVec 8
  sc : BitVec 8
  s : BitVec 10
  acc12 : BitVec 12
  la : Bool
  deriving DecidableEq, Repr

/-- One half of a pair frame (02 R36). -/
structure Half where
  pop : BitVec 7
  d : BitVec 8
  a : BitVec 8
  b : BitVec 8
  deriving DecidableEq, Repr

/-- The fields of a REP prefix (02 R41). -/
structure RepArgs where
  count : BitVec 6
  sd : Bool
  sa : Bool
  sb : Bool
  stride : BitVec 3
  deriving DecidableEq, Repr

/-- The fields of an MWB prefix (02 R43). -/
structure Mwb where
  ka : BitVec 3
  ta : BitVec 24
  kb : BitVec 3
  tb : BitVec 24
  deriving DecidableEq, Repr

/-- The sizes of a load, in opcode order (09 R208, 08 R179). -/
inductive LoadSize where
  | n8 | i8 | n16 | i16 | b32 | b64 | b128
  deriving DecidableEq, Repr

/-- The sizes of a store, in opcode order (09 R208, 08 R179). -/
inductive StoreSize where
  | b8 | b16 | b32 | b64 | b128
  deriving DecidableEq, Repr

/-- The sizes of a scalar access; SST has no 128 (09 R210). -/
inductive ScalarSize where
  | b32 | b64 | b128
  deriving DecidableEq, Repr

/-- The F-format opcodes (02 R50), as REP names them. -/
inductive FOp where
  | iadd | isub | imul | imulhi | imulhn | imad | imadwi | imadwn | iadd64 | isub64
  | imin | imax | iminn | imaxn | iabs | ineg | iaddsat | iaddsatn | isubsat | isubsatn
  | vand | vor | vxor | andn | shl | shr | sra | shl64 | shr64 | bfe
  | bfi | popc | clz | brev | icmp | sel | idp4 | lea | mov | mov64
  | vrds | vfree | prmt | fadd | fsub | fmul | ffma | fmin | fmax | fabs
  | fneg | fcmp | frnd | frcp | frsq | fsqrt | fdiv | fexp2 | flog2 | frred
  | fsinr | fcosr | ftanh | fclass | dadd | dsub | dmul | dfma | dmin | dmax
  | dcmp | ddiv | dsqrt | drnd | hadd2 | hmul2 | hfma2 | badd2 | bmul2 | bfma2
  | bmax2 | bmin2 | fdp2b | fdp4q | fdp4w | crxf | rngh | rngf | cvt | cvtpk
  | cvtupk | cvtsr | bscale | shfl | shflv | qswap | qbcast | vote | scan | red
  | laneMatch | ddx | ddy | rdlane | wrlane | emitm | mout | pout | mend | visq
  | hzq | pixout | pixdisc | sample | sampleg | tld | imgst | rayq | rayw | rayacc
  | raycont | rayterm | repack
  deriving DecidableEq, Repr

/-- A link message: one header flit and its payload (19 R411). -/
structure Msg where
  type : BitVec 8
  ctx : BitVec 6
  zero : BitVec 2
  len : BitVec 16
  tag : Word
  args : BitVec 192
  payload : List Byte
  deriving DecidableEq, Repr

/-- The command block chain a block command belongs to: a core and a command of its engine (12 R270). -/
structure ChainRef where
  core : Nat
  cmd : Nat
  deriving DecidableEq, Repr

/-- The common header of a block, less its command byte (12 R270). -/
structure BlockHeader where
  arv : Bool
  waitPrev : Bool
  ef : Bool
  bref : BitVec 16
  deriving DecidableEq, Repr

/-- The fields of SEMWAIT (12 R273). -/
structure SemTest where
  addr : Dword
  cmp : Dword
  test : BitVec 3
  wide : Bool
  onFail : BitVec 2
  space : BitVec 2
  alt : Dword
  deriving DecidableEq, Repr

/-- The fields of REDUCE (12 R275). -/
structure ReduceArgs where
  src : Dword
  dst : Dword
  count : Word
  type : BitVec 4
  op : BitVec 4
  sspace : BitVec 2
  dspace : BitVec 2
  deriving DecidableEq, Repr

/-- What a storage check detected, and whether it could correct it (15 R345). -/
inductive EccReport where
  | vector (core wave reg quad : Nat) (uncorrectable : Bool)
  | scalar (core wave block : Nat) (uncorrectable : Bool)
  | scratch (core group word : Nat) (uncorrectable : Bool)
  | accumulator (core group element : Nat) (uncorrectable : Bool)
  | l1 (core addr : Nat) (uncorrectable : Bool)
  | l2 (die : Nat) (addr : Nat) (uncorrectable : Bool)
  | memory (die : Nat) (addr : Nat) (uncorrectable : Bool)
  deriving DecidableEq, Repr

/-- One zone's sensors and valve position as the CFU reads them (16 R349, R354). -/
structure ZoneReading where
  zone : Nat
  inlet : BitVec 16
  outlet : BitVec 16
  dp : BitVec 12
  flow : BitVec 12
  dry : Bool
  valve : BitVec 8
  deriving DecidableEq, Repr

/-- The operands of a REP repeat, RAYACC, RAYCONT, RAYTERM or PIXDISC. -/
structure Aux where
  rep : Option RepArgs := none
  op : FOp
  f : FArgs
  deriving DecidableEq, Repr

/-- What the occurrence of an event names: the units concerned, a value written, a message, a reading. Events take
these from the state (`State.arg`), as an instruction of the opcode map takes its fields from its word. -/
inductive EventArgs where
  | none
  | at1 (n : Nat)
  | at2 (n k : Nat)
  | at3 (n k j : Nat)
  | at4 (n k j i : Nat)
  | access (core wave op unit : Nat) (fromL1 : Bool)
  | reach (core wave op unit dest : Nat)
  | value (unit : Nat) (v : Word)
  | register (space addr : Nat) (v : Word)
  | command (core wave : Nat) (arg : BitVec 3)
  | outcome (unit : Nat) (pass : Bool)
  | message (port : Nat) (m : Msg)
  | block (core cmd : Nat) (bytes : List Byte)
  | error (e : EccReport)
  | sample (zones : List ZoneReading) (supply : Nat)
  | fetchFault (cause : StopCause) (addr : Dword) (level : Nat) (malformed : Bool) (entry : Dword)
  deriving DecidableEq, Repr

/-- One constructor for each row of spec/opcode_table.json. An instruction of the opcode map carries the fields of
its word. Events carry nothing: what they name stands in the state (`State.arg`). So do the operands of REP_REPEAT, RAYACC,
RAYCONT, RAYTERM and PIXDISC (`Issuer.aux`), because Lean compiles at most 244 constructors with fields. The order of
the constructors has no meaning. -/
inductive Instr where
  /-- PAIR (R38). A pair frame issues both short halves as one instruction, reading all sources before either half writes. -/
  | pair (h0 h1 : Half)
  /-- SMOV (R131). Copies scalar sA to sD. -/
  | smov (a : SArgs)
  /-- SMOVI (R131). Writes the sign-extended 16-bit immediate to sD. -/
  | smovi (a : SArgs)
  /-- SMOVHI (R131). Writes the immediate into the high half of sD and keeps its low half. -/
  | smovhi (a : SArgs)
  /-- SIADD (R131). Scalar 32-bit add modulo 2^32. -/
  | siadd (a : SArgs)
  /-- SIADDI (R131). Scalar add of a sign-extended 16-bit immediate. -/
  | siaddi (a : SArgs)
  /-- SISUB (R131). Scalar 32-bit subtract modulo 2^32. -/
  | sisub (a : SArgs)
  /-- SIMUL (R131). Low 32 bits of the scalar product. -/
  | simul (a : SArgs)
  /-- SIMULHI (R131). High 32 bits of the signed scalar product. -/
  | simulhi (a : SArgs)
  /-- SIMULHN (R131). High 32 bits of the unsigned scalar product. -/
  | simulhn (a : SArgs)
  /-- SAND (R131). Scalar bitwise AND. -/
  | sand (a : SArgs)
  /-- SOR (R131). Scalar bitwise OR. -/
  | sor (a : SArgs)
  /-- SXOR (R131). Scalar bitwise XOR. -/
  | sxor (a : SArgs)
  /-- SANDI (R131). Scalar AND with the zero-extended immediate. -/
  | sandi (a : SArgs)
  /-- SORI (R131). Scalar OR with the zero-extended immediate. -/
  | sori (a : SArgs)
  /-- SXORI (R131). Scalar XOR with the zero-extended immediate. -/
  | sxori (a : SArgs)
  /-- SSHL (R131). Scalar shift left by sB. -/
  | sshl (a : SArgs)
  /-- SSHR (R131). Scalar logical shift right by sB. -/
  | sshr (a : SArgs)
  /-- SSRA (R131). Scalar arithmetic shift right by sB. -/
  | ssra (a : SArgs)
  /-- SSHLI (R131). Scalar shift left by the immediate. -/
  | sshli (a : SArgs)
  /-- SSHRI (R131). Scalar logical shift right by the immediate. -/
  | sshri (a : SArgs)
  /-- SSRAI (R131). Scalar arithmetic shift right by the immediate. -/
  | ssrai (a : SArgs)
  /-- SCMP (R131). Writes 1 or 0 to sD by comparing sA and sB under the condition. -/
  | scmp (a : SArgs)
  /-- SCMPI (R131). Writes 1 or 0 to sD by comparing sA with the immediate. -/
  | scmpi (a : SArgs)
  /-- SSEL (R131). Selects sA or sB by whether s[C] is nonzero. -/
  | ssel (a : SArgs)
  /-- SMIN (R131). Signed scalar minimum. -/
  | smin (a : SArgs)
  /-- SMAX (R131). Signed scalar maximum. -/
  | smax (a : SArgs)
  /-- SMINN (R131). Unsigned scalar minimum. -/
  | sminn (a : SArgs)
  /-- SMAXN (R131). Unsigned scalar maximum. -/
  | smaxn (a : SArgs)
  /-- SPOPC (R131). Scalar population count of a word or pair. -/
  | spopc (a : SArgs)
  /-- SCLZ (R131). Scalar count of leading zeros of a word or pair. -/
  | sclz (a : SArgs)
  /-- SFFS (R131). Index of the lowest set bit of a word or pair. -/
  | sffs (a : SArgs)
  /-- SIADD64 (R131). 64-bit scalar pair add. -/
  | siadd64 (a : SArgs)
  /-- SISUB64 (R131). 64-bit scalar pair subtract. -/
  | sisub64 (a : SArgs)
  /-- SMOV64 (R131). Scalar pair copy. -/
  | smov64 (a : SArgs)
  /-- SSHL64 (R131). 64-bit scalar shift left by sB. -/
  | sshl64 (a : SArgs)
  /-- SSHR64 (R131). 64-bit scalar logical shift right by sB. -/
  | sshr64 (a : SArgs)
  /-- SMRD (R132). Writes a mask register of the issuing split to a scalar pair. -/
  | smrd (a : SArgs)
  /-- SMWR (R132). Writes a scalar pair into mask m1-m7 of the issuing split. -/
  | smwr (a : SArgs)
  /-- SRD (R134). Reads a special register into a scalar or pair. -/
  | srd (a : SArgs)
  /-- SWR (R134). Writes %frm or %prio from a scalar. -/
  | swr (a : SArgs)
  /-- SFREE (R135). Clears the bound bits of a scalar range for the whole wave. -/
  | sfree (a : SArgs)
  /-- VFREE (R135). Unbinds a vector register range under the quad rule. -/
  | vfree (f : FArgs)
  /-- BRA (R102). Unconditional branch of the whole split. -/
  | bra (c : CArgs)
  /-- BRS (R102). Branch of the whole split on a signed scalar condition. -/
  | brs (c : CArgs)
  /-- BRC (R103). Branch on a mask that may diverge, opening a rejoin tag. -/
  | brc (c : CArgs)
  /-- BRM (R103). Multi-target branch on masks with MWB prefixes, opening a rejoin tag. -/
  | brm (c : CArgs) (mwbs : List Mwb)
  /-- CALL (R104). Writes the return pair, raises the call depth and jumps. -/
  | call (c : CArgs)
  /-- CALLI (R105). Indirect call through per-lane targets, which may diverge. -/
  | calli (c : CArgs)
  /-- RET (R106). Returns through per-lane return addresses and lowers the depth. -/
  | ret (c : CArgs)
  /-- FUSE (R107). Forced fuse point, or a miss-pair fuse point at width 4. -/
  | fuse (c : CArgs)
  /-- LOOP (R109). Pushes a loop entry with a count, or skips the body for a count of 0. -/
  | loop (c : CArgs)
  /-- LOOPX (R111). Sends the selected lanes out of the innermost loop, diverging where needed. -/
  | loopx (c : CArgs)
  /-- SIGCHK (R344). Compares the signature with imm32, resets it, and on a mismatch fouls the core and stops the wave. -/
  | sigchk (c : CArgs)
  /-- TRAP (R317). Completes, then stops the wave with SOFTWARE_TRAP. -/
  | trap (c : CArgs)
  /-- CSRRD (R372). A service core reads a CSR of a die or of the hub. -/
  | csrrd (a : SArgs)
  /-- CSRWR (R372). A service core writes a CSR. -/
  | csrwr (a : SArgs)
  /-- CSRSET (R372). A service core ORs bits into a CSR indivisibly and returns the old value. -/
  | csrset (a : SArgs)
  /-- CSRCLR (R372). A service core clears bits of a CSR indivisibly and returns the old value. -/
  | csrclr (a : SArgs)
  /-- WFE (R372). A service core waits for a taken event or a cycle limit. -/
  | wfe (a : SArgs)
  /-- IADD (R139). Lanewise 32-bit add. -/
  | iadd (f : FArgs)
  /-- ISUB (R139). Lanewise 32-bit subtract. -/
  | isub (f : FArgs)
  /-- IMUL (R139). Lanewise low 32 bits of the product. -/
  | imul (f : FArgs)
  /-- IMULHI (R139). Lanewise high 32 bits of the signed product. -/
  | imulhi (f : FArgs)
  /-- IMULHN (R139). Lanewise high 32 bits of the unsigned product. -/
  | imulhn (f : FArgs)
  /-- IMAD (R139). Lanewise low 32 bits of A*B+C. -/
  | imad (f : FArgs)
  /-- IMADWI (R139). Lanewise signed 64-bit A*B plus a 64-bit C. -/
  | imadwi (f : FArgs)
  /-- IMADWN (R139). Lanewise unsigned 64-bit A*B plus a 64-bit C. -/
  | imadwn (f : FArgs)
  /-- IADD64 (R139). Lanewise 64-bit add. -/
  | iadd64 (f : FArgs)
  /-- ISUB64 (R139). Lanewise 64-bit subtract. -/
  | isub64 (f : FArgs)
  /-- IMIN (R139). Lanewise signed minimum. -/
  | imin (f : FArgs)
  /-- IMAX (R139). Lanewise signed maximum. -/
  | imax (f : FArgs)
  /-- IMINN (R139). Lanewise unsigned minimum. -/
  | iminn (f : FArgs)
  /-- IMAXN (R139). Lanewise unsigned maximum. -/
  | imaxn (f : FArgs)
  /-- IABS (R139). Lanewise absolute value modulo 2^32. -/
  | iabs (f : FArgs)
  /-- INEG (R139). Lanewise negation modulo 2^32. -/
  | ineg (f : FArgs)
  /-- IADDSAT (R139). Lanewise signed saturating add. -/
  | iaddsat (f : FArgs)
  /-- IADDSATN (R139). Lanewise unsigned saturating add. -/
  | iaddsatn (f : FArgs)
  /-- ISUBSAT (R139). Lanewise signed saturating subtract. -/
  | isubsat (f : FArgs)
  /-- ISUBSATN (R139). Lanewise unsigned saturating subtract. -/
  | isubsatn (f : FArgs)
  /-- AND (R140). Lanewise bitwise AND. -/
  | vand (f : FArgs)
  /-- OR (R140). Lanewise bitwise OR. -/
  | vor (f : FArgs)
  /-- XOR (R140). Lanewise bitwise XOR. -/
  | vxor (f : FArgs)
  /-- ANDN (R140). Lanewise A AND NOT B. -/
  | andn (f : FArgs)
  /-- SHL (R140). Lanewise shift left. -/
  | shl (f : FArgs)
  /-- SHR (R140). Lanewise logical shift right. -/
  | shr (f : FArgs)
  /-- SRA (R140). Lanewise arithmetic shift right. -/
  | sra (f : FArgs)
  /-- SHL64 (R140). Lanewise 64-bit shift left. -/
  | shl64 (f : FArgs)
  /-- SHR64 (R140). Lanewise 64-bit logical shift right. -/
  | shr64 (f : FArgs)
  /-- BFE (R140). Lanewise bit-field extract. -/
  | bfe (f : FArgs)
  /-- BFI (R140). Lanewise bit-field insert. -/
  | bfi (f : FArgs)
  /-- POPC (R140). Lanewise population count. -/
  | popc (f : FArgs)
  /-- CLZ (R140). Lanewise count of leading zeros. -/
  | clz (f : FArgs)
  /-- BREV (R140). Lanewise bit reversal. -/
  | brev (f : FArgs)
  /-- ICMP (R141). Integer compare of 32- or 64-bit operands, writing a mask. -/
  | icmp (f : FArgs)
  /-- SEL (R142). Lanewise select of A or B by C. -/
  | sel (f : FArgs)
  /-- IDP4 (R142). Lanewise four-way signed byte dot product plus C. -/
  | idp4 (f : FArgs)
  /-- LEA (R142). Lanewise 64-bit address plus a sign-extended offset. -/
  | lea (f : FArgs)
  /-- MOV (R142). Lanewise 32-bit move. -/
  | mov (f : FArgs)
  /-- MOV64 (R142). Lanewise 64-bit move. -/
  | mov64 (f : FArgs)
  /-- PRMT (R142). Lanewise byte permute. -/
  | prmt (f : FArgs)
  /-- VRDS (R143). Reads a special register into each lane. -/
  | vrds (f : FArgs)
  /-- FADD (R144). FP32 add. -/
  | fadd (f : FArgs)
  /-- FSUB (R144). FP32 subtract. -/
  | fsub (f : FArgs)
  /-- FMUL (R144). FP32 multiply. -/
  | fmul (f : FArgs)
  /-- FFMA (R144). FP32 fused multiply-add. -/
  | ffma (f : FArgs)
  /-- FMIN (R144). FP32 minimumNumber. -/
  | fmin (f : FArgs)
  /-- FMAX (R144). FP32 maximumNumber. -/
  | fmax (f : FArgs)
  /-- FABS (R144). Clears the sign bit. -/
  | fabs (f : FArgs)
  /-- FNEG (R144). Inverts the sign bit. -/
  | fneg (f : FArgs)
  /-- FCMP (R145). FP32 compare, writing a mask. -/
  | fcmp (f : FArgs)
  /-- FRND (R144). Rounds to an integral FP32 value. -/
  | frnd (f : FArgs)
  /-- FRCP (R144). FP32 reciprocal within 1 ulp. -/
  | frcp (f : FArgs)
  /-- FRSQ (R144). FP32 reciprocal square root. -/
  | frsq (f : FArgs)
  /-- FSQRT (R144). Correctly rounded FP32 square root. -/
  | fsqrt (f : FArgs)
  /-- FDIV (R144). Correctly rounded FP32 divide. -/
  | fdiv (f : FArgs)
  /-- FEXP2 (R144). FP32 2^x. -/
  | fexp2 (f : FArgs)
  /-- FLOG2 (R144). FP32 log2. -/
  | flog2 (f : FArgs)
  /-- FRRED (R146). Exact argument reduction to r and a quadrant. -/
  | frred (f : FArgs)
  /-- FSINR (R146). Sine of a reduced argument and its quadrant. -/
  | fsinr (f : FArgs)
  /-- FCOSR (R146). Cosine of a reduced argument and its quadrant. -/
  | fcosr (f : FArgs)
  /-- FTANH (R144). FP32 tanh. -/
  | ftanh (f : FArgs)
  /-- FCLASS (R144). Writes the FP32 class as a one-hot word. -/
  | fclass (f : FArgs)
  /-- DADD (R147). FP64 add. -/
  | dadd (f : FArgs)
  /-- DSUB (R147). FP64 subtract. -/
  | dsub (f : FArgs)
  /-- DMUL (R147). FP64 multiply. -/
  | dmul (f : FArgs)
  /-- DFMA (R147). FP64 fused multiply-add. -/
  | dfma (f : FArgs)
  /-- DMIN (R147). FP64 minimumNumber. -/
  | dmin (f : FArgs)
  /-- DMAX (R147). FP64 maximumNumber. -/
  | dmax (f : FArgs)
  /-- DCMP (R147). FP64 compare, writing a mask. -/
  | dcmp (f : FArgs)
  /-- DDIV (R147). Correctly rounded FP64 divide. -/
  | ddiv (f : FArgs)
  /-- DSQRT (R147). Correctly rounded FP64 square root. -/
  | dsqrt (f : FArgs)
  /-- DRND (R147). Rounds to an integral FP64 value. -/
  | drnd (f : FArgs)
  /-- HADD2 (R148). Packed FP16 add. -/
  | hadd2 (f : FArgs)
  /-- HMUL2 (R148). Packed FP16 multiply. -/
  | hmul2 (f : FArgs)
  /-- HFMA2 (R148). Packed FP16 fused multiply-add. -/
  | hfma2 (f : FArgs)
  /-- BADD2 (R148). Packed BF16 add. -/
  | badd2 (f : FArgs)
  /-- BMUL2 (R148). Packed BF16 multiply. -/
  | bmul2 (f : FArgs)
  /-- BFMA2 (R148). Packed BF16 fused multiply-add. -/
  | bfma2 (f : FArgs)
  /-- BMAX2 (R148). Packed BF16 maximumNumber. -/
  | bmax2 (f : FArgs)
  /-- BMIN2 (R148). Packed BF16 minimumNumber. -/
  | bmin2 (f : FArgs)
  /-- FDP2B (R149). Exact BF16 two-way dot product plus C. -/
  | fdp2b (f : FArgs)
  /-- FDP4Q (R149). Exact E4M3 four-way dot product plus C. -/
  | fdp4q (f : FArgs)
  /-- FDP4W (R149). Exact E5M2 four-way dot product plus C. -/
  | fdp4w (f : FArgs)
  /-- CRXF (R150). Camera-relative FP64 to FP32 transform by an exact matrix. -/
  | crxf (f : FArgs)
  /-- RNGH (R152). Writes the Lacerta hash of the seed and the lane counter. -/
  | rngh (f : FArgs)
  /-- RNGF (R152). Writes a uniform FP32 value from the Lacerta hash. -/
  | rngf (f : FArgs)
  /-- CVT (R154). Converts one value between types. -/
  | cvt (f : FArgs)
  /-- CVTPK (R155). Converts n registers into packed elements. -/
  | cvtpk (f : FArgs)
  /-- CVTUPK (R155). Unpacks elements into n registers exactly. -/
  | cvtupk (f : FArgs)
  /-- CVTSR (R156). Converts with stochastic rounding, taking random bits from the destination. -/
  | cvtsr (f : FArgs)
  /-- BSCALE (R157). Computes an E8M0 block scale from a block's largest magnitude. -/
  | bscale (f : FArgs)
  /-- SHFL (R164). Reads a register from an index, up, down or xor source lane. -/
  | shfl (f : FArgs)
  /-- SHFLV (R165). Reads a register through the remap table by virtual lane. -/
  | shflv (f : FArgs)
  /-- QSWAP (R167). Swaps values within a quad by pattern. -/
  | qswap (f : FArgs)
  /-- QBCAST (R167). Broadcasts one quad lane to its quad. -/
  | qbcast (f : FArgs)
  /-- VOTE (R169). Writes an any, all, eq or ballot mask over segment contributors. -/
  | vote (f : FArgs)
  /-- SCAN (R170). Inclusive or exclusive prefix combination over contributors. -/
  | scan (f : FArgs)
  /-- RED (R170). Reduction over a segment's contributors. -/
  | red (f : FArgs)
  /-- MATCH (R171). Writes the mask of contributors with an equal value. -/
  | laneMatch (f : FArgs)
  /-- DDX (R168). Horizontal quad derivative. -/
  | ddx (f : FArgs)
  /-- DDY (R168). Vertical quad derivative. -/
  | ddy (f : FArgs)
  /-- RDLANE (R172). Broadcasts one lane of each segment. -/
  | rdlane (f : FArgs)
  /-- WRLANE (R172). Writes a scalar value into one lane of each segment. -/
  | wrlane (f : FArgs)
  /-- LDG (R209). Global load of every lane of run after the checks of R199. -/
  | ldg (sz : LoadSize) (a : MArgs)
  /-- STG (R209). Global store of every lane of run after the checks of R199. -/
  | stg (sz : StoreSize) (a : MArgs)
  /-- LDP (R209). Private-memory load through the per-lane layout. -/
  | ldp (sz : LoadSize) (a : MArgs)
  /-- STP (R209). Private-memory store through the per-lane layout. -/
  | stp (sz : StoreSize) (a : MArgs)
  /-- SLD (R210). Scalar load, once per issuing split. -/
  | sld (sz : ScalarSize) (a : SmArgs)
  /-- SST (R210). Scalar store, once per issuing split. -/
  | sst (sz : ScalarSize) (a : SmArgs)
  /-- LDS (R180). Scratchpad load, with the range and alignment checks. -/
  | lds (sz : LoadSize) (a : MArgs)
  /-- STS (R180). Scratchpad store, with the range and alignment checks. -/
  | sts (sz : StoreSize) (a : MArgs)
  /-- SAADD (R182). Scratchpad atomic add, returning the old word. -/
  | saadd (a : MArgs)
  /-- SAMIN (R182). Scratchpad atomic signed minimum. -/
  | samin (a : MArgs)
  /-- SAMAX (R182). Scratchpad atomic signed maximum. -/
  | samax (a : MArgs)
  /-- SAAND (R182). Scratchpad atomic AND. -/
  | saand (a : MArgs)
  /-- SAOR (R182). Scratchpad atomic OR. -/
  | saor (a : MArgs)
  /-- SAXOR (R182). Scratchpad atomic XOR. -/
  | saxor (a : MArgs)
  /-- SAXCHG (R182). Scratchpad atomic exchange. -/
  | saxchg (a : MArgs)
  /-- SACAS (R182). Scratchpad atomic compare-and-swap. -/
  | sacas (a : MArgs)
  /-- AADD (R211). Global atomic add at the home L2. -/
  | aadd (wide : Bool) (a : MArgs)
  /-- AMIN (R211). Global atomic signed minimum. -/
  | amin (wide : Bool) (a : MArgs)
  /-- AMAX (R211). Global atomic signed maximum. -/
  | amax (wide : Bool) (a : MArgs)
  /-- AMINN (R211). Global atomic unsigned minimum. -/
  | aminn (wide : Bool) (a : MArgs)
  /-- AMAXN (R211). Global atomic unsigned maximum. -/
  | amaxn (wide : Bool) (a : MArgs)
  /-- AAND (R211). Global atomic AND. -/
  | aand (wide : Bool) (a : MArgs)
  /-- AOR (R211). Global atomic OR. -/
  | aor (wide : Bool) (a : MArgs)
  /-- AXOR (R211). Global atomic XOR. -/
  | axor (wide : Bool) (a : MArgs)
  /-- AXCHG (R211). Global atomic exchange. -/
  | axchg (wide : Bool) (a : MArgs)
  /-- ACAS (R211). Global atomic compare-and-swap. -/
  | acas (wide : Bool) (a : MArgs)
  /-- AFADD (R211). Global atomic FP32 or FP64 add in RNE. -/
  | afadd (wide : Bool) (a : MArgs)
  /-- AFADD2B (R211). Global atomic packed BF16 add. -/
  | afadd2b (a : MArgs)
  /-- FENCE (R226). Memory fence of the given order and scope for each lane of run. -/
  | fence (a : MArgs)
  /-- PREF (R212). Prefetches lines into L2 and L1 without stopping. -/
  | pref (a : MArgs)
  /-- MMA_E4M3 (R246). Enqueues an E4M3 matrix multiply-accumulate and takes a ticket. -/
  | mmaE4m3 (x : XArgs)
  /-- MMA_E5M2 (R246). Enqueues an E5M2 matrix multiply-accumulate. -/
  | mmaE5m2 (x : XArgs)
  /-- MMA_MIX (R246). Enqueues a mixed E4M3 by E5M2 matrix multiply-accumulate. -/
  | mmaMix (x : XArgs)
  /-- MMA_BF16 (R246). Enqueues a BF16 matrix multiply-accumulate. -/
  | mmaBf16 (x : XArgs)
  /-- MMA_F16 (R246). Enqueues an FP16 matrix multiply-accumulate. -/
  | mmaF16 (x : XArgs)
  /-- MMA_E2M1S (R246). Enqueues a block-scaled E2M1 matrix multiply-accumulate. -/
  | mmaE2m1s (x : XArgs)
  /-- MMA_E4M3S (R246). Enqueues a block-scaled E4M3 matrix multiply-accumulate. -/
  | mmaE4m3s (x : XArgs)
  /-- MMA_I8 (R246). Enqueues an INT8 matrix multiply-accumulate. -/
  | mmaI8 (x : XArgs)
  /-- ACCLD (R247). Loads a column slice of an accumulator tile into registers. -/
  | accld (x : XArgs)
  /-- ACCST (R247). Enqueues a store of registers into an accumulator column slice. -/
  | accst (x : XArgs)
  /-- ACCZ (R247). Enqueues the zeroing of an accumulator tile and takes a ticket. -/
  | accz (x : XArgs)
  /-- ACCCVT (R248). Enqueues a scaled conversion of an accumulator tile into scratchpad. -/
  | acccvt (x : XArgs)
  /-- MWAIT (R249). Issues once the ticket, or all tickets, complete, as an acquire. -/
  | mwait (x : XArgs)
  /-- CPY (R256). Hands the engine a linear copy between global and scratchpad. -/
  | cpy (a : MArgs)
  /-- CPYT (R260). Hands the engine a tensor box copy described by a shape record. -/
  | cpyt (a : MArgs)
  /-- CPYM (R257). Hands the engine a multicast copy into cluster ranks' scratchpads. -/
  | cpym (a : MArgs)
  /-- CPYG (R258). Hands the engine a per-lane gather of global rows into scratchpad. -/
  | cpyg (a : MArgs)
  /-- CPYS (R258). Hands the engine a per-lane scatter of scratchpad rows to global. -/
  | cpys (a : MArgs)
  /-- CPYMMA (R263). Hands the engine a copy followed by an MMA, taking a ticket. -/
  | cpymma (a : MArgs)
  /-- CWAIT (R268). Waits until a batch completes, as an acquire at group scope. -/
  | cwait (a : SArgs)
  /-- CBLK (R269). Starts a command-block chain on the engine. -/
  | cblk (a : SArgs)
  /-- BINIT (R189). Sets a named barrier's expected count. -/
  | binit (a : SArgs)
  /-- BARR (R189). Returns a token and arrives on a barrier. -/
  | barr (a : SArgs)
  /-- BWAIT (R189). Waits on a barrier token. -/
  | bwait (a : SArgs)
  /-- BSYNC (R189). Arrives on a barrier and waits for the phase to flip. -/
  | bsync (a : SArgs)
  /-- BQUERY (R189). Reads a barrier's state word. -/
  | bquery (a : SArgs)
  /-- SPAWN (R291). Appends a task to the context's task queue on the die. -/
  | spawn (a : SArgs)
  /-- DQPUSH (R290). Appends an entry at the tail of the launch's deque on the core. -/
  | dqpush (a : SArgs)
  /-- DQPOP (R290). Removes the tail entry of the own deque. -/
  | dqpop (a : SArgs)
  /-- DQSTEAL (R290). Removes the head entry of the launch's deque on another core. -/
  | dqsteal (a : SArgs)
  /-- DQSIZE (R290). Returns a snapshot of a deque's entry count. -/
  | dqsize (a : SArgs)
  /-- LAUNCH (R293). Reads a launch record and offers it to intake. -/
  | launch (a : SArgs)
  /-- FLOWREQ (R359). Requests a coolant class for the wave and returns the core's class. -/
  | flowreq (a : SArgs)
  /-- ICLK (R325). Locks instruction-cache lines of a range. -/
  | iclk (a : SArgs)
  /-- ICUNLK (R325). Unlocks instruction-cache lines of a range. -/
  | icunlk (a : SArgs)
  /-- DGRD (R335). Returns the wave's digest sum once its earlier writes and commands have completed. -/
  | dgrd (a : SArgs)
  /-- EMITM (R377). Opens or finds a pass and appends amplification entries. -/
  | emitm (f : FArgs)
  /-- MOUT (R380). Writes a vertex slot into the mesh block. -/
  | mout (f : FArgs)
  /-- POUT (R380). Writes a primitive entry into the mesh block. -/
  | pout (f : FArgs)
  /-- MEND (R380). Closes the mesh block and passes its primitives to binning. -/
  | mend (f : FArgs)
  /-- VISQ (R387). Tests a bit of a visibility bitmap. -/
  | visq (f : FArgs)
  /-- HZQ (R387). Tests a rectangle against the hierarchical depth. -/
  | hzq (f : FArgs)
  /-- PIXOUT (R386). Records a pixel colour contribution. -/
  | pixout (f : FArgs)
  /-- SAMPLE (R390). Samples a texture using quad derivatives. -/
  | sample (f : FArgs)
  /-- SAMPLEG (R390). Samples a texture with explicit gradients. -/
  | sampleg (f : FArgs)
  /-- TLD (R390). Loads a texel by integer coordinates. -/
  | tld (f : FArgs)
  /-- IMGST (R391). Stores a texel into an image. -/
  | imgst (f : FArgs)
  /-- RAYQ (R404). Starts a nearest-hit ray query for each lane of run. -/
  | rayq (f : FArgs)
  /-- RAYW (R404). Starts a ray query that ends at the first commit. -/
  | rayw (f : FArgs)
  /-- REPACK (R408). Enters the group's repack rendezvous. -/
  | repack (f : FArgs)
  /-- NOP (R31). The all-zero word issues and does nothing. -/
  | nop
  /-- REP_REPEAT (R113). One repeat of a REP-prefixed F instruction issues as a consecutive issue of its split, stepping the marked register fields. -/
  | repRepeat
  /-- EXIT (R108). Marks the live lanes exited, frees the split entry and tests rejoin records. -/
  | exit
  /-- YIELD (R112). Sets YLD so that the split is not chosen for 32 issue cycles. -/
  | yield
  /-- SIGRST (R344). Sets the split's signature to 0. -/
  | sigrst
  /-- BKPT (R318). Stops the wave with BREAKPOINT, leaving the PC at the BKPT. -/
  | bkpt
  /-- EVRET (R372). A service core returns to the saved level, restoring its PC and bank. -/
  | evret
  /-- FENCE_OR (R228). Orders earlier writes before the matrix array's scratchpad reads for later MMAs. -/
  | fenceOr
  /-- RFENCE (R262). Waits for earlier record reads, then empties the context's record-cache entries. -/
  | rfence
  /-- CBATCH (R267). Closes the wave's open commands into a new batch. -/
  | cbatch
  /-- FLOWREL (R359). Releases the wave's coolant request. -/
  | flowrel
  /-- PIXDISC (R386). Discards the lanes' pixels, making them helper lanes. -/
  | pixdisc
  /-- RAYACC (R405). Commits a candidate and continues, or ends with .term. -/
  | rayacc
  /-- RAYCONT (R405). Rejects a candidate and continues the walk. -/
  | raycont
  /-- RAYTERM (R405). Ends a query with status 3. -/
  | rayterm
  /-- SPLIT_ARRIVE (R94). A split reaching its rejoin address at its rejoin depth arrives and fuses, parks or waits. -/
  | splitArrive
  /-- FUSE_TIMER_EXPIRY (R97). A waiting split's fuse timer reaches LIMIT, breaking the record, stopping the wave or dissolving a miss pair. -/
  | fuseTimerExpiry
  /-- REJOIN_TIMER_EXPIRY (R97). A record's timer reaches LIMIT and its parked lanes become a deferred path. -/
  | rejoinTimerExpiry
  /-- YIELD_EXPIRY (R112). 32 issue cycles after YIELD, YLD clears. -/
  | yieldExpiry
  /-- ISSUE_PROMOTION (R287). A split ready for 512 cycles without dispatch becomes promoted. -/
  | issuePromotion
  /-- PAGE_WALK_COMPLETE (R201). A walker ends a page-table walk and fills the TLBs or reports the fault. -/
  | pageWalkComplete
  /-- MEMORY_ACCESS_PERFORM (R220). A lane's access is performed at the home of its address. -/
  | memoryAccessPerform
  /-- LOAD_DATA_RETURN (R209). Load or atomic data returns and is written to the destination registers. -/
  | loadDataReturn
  /-- STOP_REPORT (R301). Once the drain ends the stop frame completes and the fault record is posted and written to the ring. -/
  | stopReport
  /-- WAVE_END (R98). A wave whose lanes have all exited and whose outstanding work has completed ends and frees its resources. -/
  | waveEnd
  /-- LAUNCH_MSG (R279). A LAUNCH message is accepted into intake with a %launchid or rejected with a COMPLETE. -/
  | launchMsg
  /-- WAIT_WORD_READ (R280). The hub reads a waiting launch's wait word and makes it ready when the value suffices. -/
  | waitWordRead
  /-- PLACE_GROUP (R284). The placement unit chooses a candidate under R285 and places it on the lowest core that passes. -/
  | placeGroup
  /-- LEASE_TAKE (R330). The Umpire sets WPL on input pages and waits for the translations to be removed before the group issues. -/
  | leaseTake
  /-- TASK_TAKE (R292). The oldest task is taken into a core's prefetch buffer, its template read, and the task placed or dropped. -/
  | taskTake
  /-- LAUNCH_COMPLETE (R280). When every group has ended, the hub performs the completion add and sends COMPLETE. -/
  | launchComplete
  /-- DISCARD_GO (R296). A write of GO to DISCARD discards the named group if it is IDEM. -/
  | discardGo
  /-- WCMD_RESUME (R305). RESUME replays the queue and returns stopped splits to their prior states. -/
  | wcmdResume
  /-- WCMD_STEP (R319). STEP resumes the wave for one instruction of the named split. -/
  | wcmdStep
  /-- DEBUG_STEP_STOP (R319). After the stepped instruction issues, the wave stops with DEBUG_STEP. -/
  | debugStepStop
  /-- WCMD_KILL (R311). KILL ends a wave, freeing its registers and abandoning the group's barriers. -/
  | wcmdKill
  /-- WCMD_HALT (R319). HALT stops a running wave with DEBUG_STEP. -/
  | wcmdHalt
  /-- WDATALO_READ (R306). A read of WDATALO fetches a window item, latches its high word and advances INDEX. -/
  | wdataloRead
  /-- WDATALO_WRITE (R306). A write of WDATALO stores WDATAHI:WDATALO into the window item and advances INDEX. -/
  | wdataloWrite
  /-- COPY_COMMAND_START (R251). The engine starts a received command whose ranges are clear. -/
  | copyCommandStart
  /-- COPY_CHUNK (R264). The engine moves one 48-byte chunk of a command, suspending it on a failed check. -/
  | copyChunk
  /-- TENSOR_RECORD_ARRIVE (R260). A shape record arrives and is checked, the command running or failing. -/
  | tensorRecordArrive
  /-- COPY_COMMAND_COMPLETE (R251). A command completes, frees its entries and makes any barrier arrival. -/
  | copyCommandComplete
  /-- COPY (R271). Block command: linear copy as CPY. -/
  | chainCopy
  /-- TCOPY (R271). Block command: tensor copy as CPYT. -/
  | chainTcopy
  /-- MCAST (R271). Block command: multicast as CPYM. -/
  | chainMcast
  /-- MMAC (R272). Block command: MMA from scratchpad operands without a ticket. -/
  | chainMmac
  /-- SEMWAIT (R273). Block command: tests a semaphore word and waits, skips, branches or aborts. -/
  | semwait
  /-- SEMWAIT_RETRY (R273). A waiting SEMWAIT reads its word again after at least 64 cycles. -/
  | semwaitRetry
  /-- SEMSIG (R274). Block command: atomic store or add as a device-scope release. -/
  | semsig
  /-- BARARR (R274). Block command: arrives on a barrier once earlier commands complete. -/
  | bararr
  /-- REDUCE (R275). Block command: elementwise reduction of a source into a destination. -/
  | reduce
  /-- LINK (R276). Block command: continues the chain at another block. -/
  | chainLink
  /-- END (R276). Block command: writes the chain status and frees the queue entry. -/
  | chainEnd
  /-- ARRAY_OP_BEGIN (R239). The matrix array takes the next queued operation and reads its operands. -/
  | arrayOpBegin
  /-- ARRAY_OP_COMPLETE (R241). An array operation writes its results and %mdone advances. -/
  | arrayOpComplete
  /-- RAY_QUERY_UPDATE (R402). A ray unit walks a query and writes its eight result words on a status change. -/
  | rayQueryUpdate
  /-- MESH_WAVE_PLACE (R376). An amplification entry's mesh wave is placed when room and chunks allow. -/
  | meshWavePlace
  /-- BIN_BLOCK (R381). The binning unit appends a closed block's primitives to tile lists. -/
  | binBlock
  /-- BINWAIT_EXPIRY (R382). A grow wait lasting BINWAIT cycles acts as a DECLINE. -/
  | binwaitExpiry
  /-- BINPASS_GROW (R382). GROW adds ADD chunks to the pool and binning resumes. -/
  | binpassGrow
  /-- BINPASS_DECLINE (R382). DECLINE refuses to grow, starting a partial render. -/
  | binpassDecline
  /-- BINPASS_RESUME (R393). RESUME takes a pass out of state 5 and retries the failed access. -/
  | binpassResume
  /-- FINAL_RENDER (R383). Once the task launch and all mesh waves are done every tile is rendered and the slot freed. -/
  | finalRender
  /-- TILE_RENDER (R384). A tile engine removes hidden surfaces for one tile, shades and stores depth and colour. -/
  | tileRender
  /-- REPLAY_PLACE (R336). The Umpire places a shadow replay or third run of a sampled group. -/
  | replayPlace
  /-- SELF_TEST_COMPLETE (R340). A benched core's self-test ends and STEST shows its result. -/
  | selfTestComplete
  /-- UMPCTX_ABANDON (R331). ABANDON frees every pending sample of the context and ends its leases. -/
  | umpctxAbandon
  /-- FOUL_UNBENCH (R339). UNBENCH sets COUNT to 0 and clears WATCH and BENCHED. -/
  | foulUnbench
  /-- ECC_ERROR (R345). A storage check detects an error that is corrected and counted, or poisoned with an EVENT. -/
  | eccError
  /-- L2ECC_REQ_WRITE (R346). A write of REQ starts the switch between SEC-DED and DEC-TED. -/
  | l2eccReqWrite
  /-- L2ECC_SWITCH_DONE (R346). Every set is converted and STATUS settles. -/
  | l2eccSwitchDone
  /-- VSRAM_TARGET_WRITE (R347). A TARGET write is accepted or refused. -/
  | vsramTargetWrite
  /-- VSRAM_STEP (R347). Every 1,000 service-core cycles LEVEL moves 5 mV toward TARGET. -/
  | vsramStep
  /-- CFU_SAMPLE (R349). The CFU samples every sensor, raises events and recomputes grants. -/
  | cfuSample
  /-- CAT_WRITE (R351). A write to a CAT word stages it and sets its written flag. -/
  | catWrite
  /-- CAT_COMMIT (R352). CFU.CMD GO commits staged CAT words or is refused over SUPPLYCAP. -/
  | catCommit
  /-- CLOCK_RAISE (R357). When flow reaches 95% of the grant or 200,000 cycles pass, the clock cap rises. -/
  | clockRaise
  /-- POWER_MEASURE (R23). Every 10,000 hub cycles the input draw is measured and one core's power cap stepped. -/
  | powerMeasure
  /-- EVAC_E2 (R364). Once no wave issues, the purge pulses run with neighbours capped. -/
  | evacE2
  /-- EVAC_E3 (R364). After the purge and 50,000 cycles the dry sensor is retested. -/
  | evacE3
  /-- EVAC_E4 (R364). Flow ramps back to the grant and the zone returns to service. -/
  | evacE4
  /-- CPC_QREQ_SET (R366). QREQ removes the cluster's cores from placement and starts draining. -/
  | cpcQreqSet
  /-- CPC_DRAINMODE (R365). DRAINMODE discards the cluster's IDEM, non-PINNED groups while QREQ is set. -/
  | cpcDrainmode
  /-- CPC_QACK (R366). QACK sets once the cluster holds no group and no unit work remains. -/
  | cpcQack
  /-- CPC_RETSAVE (R366). RETSAVE starts saving the cores' state to the retention image. -/
  | cpcRetsave
  /-- CPC_RETDONE (R366). The retention image is written and RETDONE sets. -/
  | cpcRetdone
  /-- CPC_CLKGATE_SET (R366). CLKGATE gates the cluster clock and sets CLKOFF. -/
  | cpcClkgateSet
  /-- CPC_RAILOFF (R366). RAILOFF turns the rail off, setting RAILDOWN. -/
  | cpcRailoff
  /-- CPC_WAKE (R366). WAKE restores the rail, giving STATE 6. -/
  | cpcWake
  /-- CPC_CLKGATE_CLEAR (R366). Clearing CLKGATE ungates the clock. -/
  | cpcClkgateClear
  /-- CPC_RETLOAD (R366). RETLOAD starts reloading the retention image. -/
  | cpcRetload
  /-- CPC_RETLOADED (R438). The image is reloaded, restoring CSRs and %cycle, and RETLOADED sets. -/
  | cpcRetloaded
  /-- CPC_QREQ_CLEAR (R366). Clearing QREQ returns the cluster to placement. -/
  | cpcQreqClear
  /-- SC_EVENT_TAKE (R371). A service core takes the highest pending enabled level, switching bank and jumping to the handler. -/
  | scEventTake
  /-- WFE_TIMEOUT (R372). A WFE's cycle limit expires and it completes with status 1. -/
  | wfeTimeout
  /-- EVPEND_CLEAR (R370). Writing 1 to EVPEND bits clears pending sources. -/
  | evpendClear
  /-- SC_RESTART (R369). RESTART GO restarts a halted service core at its image entry. -/
  | scRestart
  /-- SC_INSTALL (R369). INSTCTL GO reads and verifies an Eft image. -/
  | scInstall
  /-- SC_INSTALL_COMPLETE (R369). Once in-flight instructions complete, the image is copied, the registers cleared and the core restarted. -/
  | scInstallComplete
  /-- MEMRD (R413). A link read request is translated or taken as physical and answered with MEMRSP. -/
  | memrd
  /-- MEMWR (R413). A link write request is performed in port order and answered with MEMRSP. -/
  | memwr
  /-- MEMRSP (R414). A peer's or the control node's response completes a lane's window access. -/
  | memrsp
  /-- ATOMIC_MSG (R412). A peer's ATOMIC request is performed and answered. -/
  | atomicMsg
  /-- CSRRD_MSG (R412). A link CSR read from context 0. -/
  | csrrdMsg
  /-- CSRWR_MSG (R412). A link CSR write from context 0. -/
  | csrwrMsg
  /-- RESUME_MSG (R412). A RESUME message acts as WCMD RESUME on the named wave. -/
  | resumeMsg
  /-- KILLCTX (R312). Kills every wave, launch, queue and sample of a context and makes its abort writes. -/
  | killctx
  /-- UNBENCH_MSG (R412). An UNBENCH message acts as a write of FOUL UNBENCH. -/
  | unbenchMsg
  /-- ATTEST (R418). An ATTEST request is answered with a signed report. -/
  | attest
  /-- STAGE_ADVANCE (R416). ADVANCE moves the module to the next stage once that stage's self-test passes. -/
  | stageAdvance
  /-- ENABLE_WRITE (R415). A write to an ENABLE word takes effect only while no core holds a group. -/
  | enableWrite
  /-- TLBINV_GO (R202). GO starts a translation invalidation of the given kind. -/
  | tlbinvGo
  /-- TLBINV_DONE (R202). An invalidation completes and DONESEQ rises. -/
  | tlbinvDone
  /-- FUSETIME_WRITE (R96). A write of LIMIT takes effect for every fuse timer of the core from the next cycle. -/
  | fusetimeWrite
  /-- POWER_ON_RESET (R416). Power-on reset returns the module to stage S0 with reset values. -/
  | powerOnReset
  /-- REGISTER_WRITE (R4). A write to a CSR with no row of its own, following the access codes. -/
  | registerWrite
  /-- UNASSIGNED_OPC_ISSUE (R28). A fetched word that decodes to no instruction reaches issue and stops the wave. Such a word has frame 0b11, an unassigned OPC, or a fetch that fails its checks. -/
  | unassignedOpcIssue
  /-- LINK_CREDIT_RETURN (R411). The far end of a port takes a message, which restores the sender's credit so that a message waiting for credit may leave. -/
  | linkCreditReturn
  /-- STAGE_SELF_TEST_DONE (R416). The hub's self-test of a stage ends, and the stage advances, or an EVENT with source 10 is sent. -/
  | stageSelfTestDone
  deriving DecidableEq, Repr

end Sys2Proof
end

