-- ==== Sys2Proof/Decode.lean ====
section
/-! DEFINITION. The decoder: frames, prefixes, formats and the opcode map (02 R25–R51), the checks of decoding in
their order (02 R28), and the encoder. -/

namespace Sys2Proof

/-- An S word's fields, all 0. -/
def zeroS : SArgs := { d := 0, a := 0, b := 0, imm := 0, la := false, lb := false }

/-- A C word's fields, all 0. -/
def zeroC : CArgs := { t := 0, j := 0, k := 0, p := false }

/-- An SM word's fields, all 0. -/
def zeroSm : SmArgs := { d := 0, a := 0, scope := 0, ord := 0, imm := 0, la := false, lb := false }

/-- An MX word's fields, all 0. -/
def zeroX : XArgs :=
  { nsz := 0, acc := false, tb := false, ru := false, sa := false, a := 0, sc := 0, s := 0, acc12 := 0, la := false }

/-- The fields of FENCE.OR and RFENCE (10 R228, 12 R262). -/
def fenceArgs : MArgs :=
  { d := 0, a := 0xFF, b := 0, s := 0x3FF, off := 0, scope := 0, ord := 0, g := 0, la := false, ms := false,
    ef := false }

/-! ## The opcode map (02 R50) -/

/-- OPC of an F-format opcode (02 R50). -/
def FOp.code : FOp → BitVec 10
  | .iadd => 0x080 | .isub => 0x081 | .imul => 0x082 | .imulhi => 0x083 | .imulhn => 0x084 | .imad => 0x085
  | .imadwi => 0x086 | .imadwn => 0x087 | .iadd64 => 0x088 | .isub64 => 0x089 | .imin => 0x08A
  | .imax => 0x08B | .iminn => 0x08C | .imaxn => 0x08D | .iabs => 0x08E | .ineg => 0x08F | .iaddsat => 0x090
  | .iaddsatn => 0x091 | .isubsat => 0x092 | .isubsatn => 0x093 | .vand => 0x094 | .vor => 0x095
  | .vxor => 0x096 | .andn => 0x097 | .shl => 0x098 | .shr => 0x099 | .sra => 0x09A | .shl64 => 0x09B
  | .shr64 => 0x09C | .bfe => 0x09D | .bfi => 0x09E | .popc => 0x09F | .clz => 0x0A0 | .brev => 0x0A1
  | .icmp => 0x0A2 | .sel => 0x0A3 | .idp4 => 0x0A4 | .lea => 0x0A5 | .mov => 0x0A6 | .mov64 => 0x0A7
  | .vrds => 0x0A8 | .vfree => 0x0A9 | .prmt => 0x0AA | .fadd => 0x100 | .fsub => 0x101 | .fmul => 0x102
  | .ffma => 0x103 | .fmin => 0x104 | .fmax => 0x105 | .fabs => 0x106 | .fneg => 0x107 | .fcmp => 0x108
  | .frnd => 0x109 | .frcp => 0x10A | .frsq => 0x10B | .fsqrt => 0x10C | .fdiv => 0x10D | .fexp2 => 0x10E
  | .flog2 => 0x10F | .frred => 0x110 | .fsinr => 0x111 | .fcosr => 0x112 | .ftanh => 0x113
  | .fclass => 0x114 | .dadd => 0x118 | .dsub => 0x119 | .dmul => 0x11A | .dfma => 0x11B | .dmin => 0x11C
  | .dmax => 0x11D | .dcmp => 0x11E | .ddiv => 0x11F | .dsqrt => 0x120 | .drnd => 0x121 | .hadd2 => 0x128
  | .hmul2 => 0x129 | .hfma2 => 0x12A | .badd2 => 0x12B | .bmul2 => 0x12C | .bfma2 => 0x12D | .bmax2 => 0x12E
  | .bmin2 => 0x12F | .fdp2b => 0x130 | .fdp4q => 0x131 | .fdp4w => 0x132 | .crxf => 0x138 | .rngh => 0x13C
  | .rngf => 0x13D | .cvt => 0x180 | .cvtpk => 0x181 | .cvtupk => 0x182 | .cvtsr => 0x183 | .bscale => 0x184
  | .shfl => 0x190 | .shflv => 0x191 | .qswap => 0x192 | .qbcast => 0x193 | .vote => 0x194 | .scan => 0x195
  | .red => 0x196 | .laneMatch => 0x197 | .ddx => 0x198 | .ddy => 0x199 | .rdlane => 0x19A | .wrlane => 0x19B
  | .emitm => 0x380 | .mout => 0x381 | .pout => 0x382 | .mend => 0x383 | .visq => 0x384 | .hzq => 0x385
  | .pixout => 0x386 | .pixdisc => 0x387 | .sample => 0x388 | .sampleg => 0x389 | .tld => 0x38A
  | .imgst => 0x38B | .rayq => 0x390 | .rayw => 0x391 | .rayacc => 0x392 | .raycont => 0x393
  | .rayterm => 0x394 | .repack => 0x395

/-- The F-format opcode of an OPC. -/
def fopOf : Nat → Option FOp
  | 0x080 => some .iadd | 0x081 => some .isub | 0x082 => some .imul | 0x083 => some .imulhi
  | 0x084 => some .imulhn | 0x085 => some .imad | 0x086 => some .imadwi | 0x087 => some .imadwn
  | 0x088 => some .iadd64 | 0x089 => some .isub64 | 0x08A => some .imin | 0x08B => some .imax
  | 0x08C => some .iminn | 0x08D => some .imaxn | 0x08E => some .iabs | 0x08F => some .ineg
  | 0x090 => some .iaddsat | 0x091 => some .iaddsatn | 0x092 => some .isubsat | 0x093 => some .isubsatn
  | 0x094 => some .vand | 0x095 => some .vor | 0x096 => some .vxor | 0x097 => some .andn | 0x098 => some .shl
  | 0x099 => some .shr | 0x09A => some .sra | 0x09B => some .shl64 | 0x09C => some .shr64
  | 0x09D => some .bfe | 0x09E => some .bfi | 0x09F => some .popc | 0x0A0 => some .clz | 0x0A1 => some .brev
  | 0x0A2 => some .icmp | 0x0A3 => some .sel | 0x0A4 => some .idp4 | 0x0A5 => some .lea | 0x0A6 => some .mov
  | 0x0A7 => some .mov64 | 0x0A8 => some .vrds | 0x0A9 => some .vfree | 0x0AA => some .prmt
  | 0x100 => some .fadd | 0x101 => some .fsub | 0x102 => some .fmul | 0x103 => some .ffma
  | 0x104 => some .fmin | 0x105 => some .fmax | 0x106 => some .fabs | 0x107 => some .fneg
  | 0x108 => some .fcmp | 0x109 => some .frnd | 0x10A => some .frcp | 0x10B => some .frsq
  | 0x10C => some .fsqrt | 0x10D => some .fdiv | 0x10E => some .fexp2 | 0x10F => some .flog2
  | 0x110 => some .frred | 0x111 => some .fsinr | 0x112 => some .fcosr | 0x113 => some .ftanh
  | 0x114 => some .fclass | 0x118 => some .dadd | 0x119 => some .dsub | 0x11A => some .dmul
  | 0x11B => some .dfma | 0x11C => some .dmin | 0x11D => some .dmax | 0x11E => some .dcmp
  | 0x11F => some .ddiv | 0x120 => some .dsqrt | 0x121 => some .drnd | 0x128 => some .hadd2
  | 0x129 => some .hmul2 | 0x12A => some .hfma2 | 0x12B => some .badd2 | 0x12C => some .bmul2
  | 0x12D => some .bfma2 | 0x12E => some .bmax2 | 0x12F => some .bmin2 | 0x130 => some .fdp2b
  | 0x131 => some .fdp4q | 0x132 => some .fdp4w | 0x138 => some .crxf | 0x13C => some .rngh
  | 0x13D => some .rngf | 0x180 => some .cvt | 0x181 => some .cvtpk | 0x182 => some .cvtupk
  | 0x183 => some .cvtsr | 0x184 => some .bscale | 0x190 => some .shfl | 0x191 => some .shflv
  | 0x192 => some .qswap | 0x193 => some .qbcast | 0x194 => some .vote | 0x195 => some .scan
  | 0x196 => some .red | 0x197 => some .laneMatch | 0x198 => some .ddx | 0x199 => some .ddy
  | 0x19A => some .rdlane | 0x19B => some .wrlane | 0x380 => some .emitm | 0x381 => some .mout
  | 0x382 => some .pout | 0x383 => some .mend | 0x384 => some .visq | 0x385 => some .hzq
  | 0x386 => some .pixout | 0x387 => some .pixdisc | 0x388 => some .sample | 0x389 => some .sampleg
  | 0x38A => some .tld | 0x38B => some .imgst | 0x390 => some .rayq | 0x391 => some .rayw
  | 0x392 => some .rayacc | 0x393 => some .raycont | 0x394 => some .rayterm | 0x395 => some .repack
  | _ => none

/-- The instruction of an F opcode and its fields. -/
def Instr.ofF (f : FArgs) : FOp → Instr
  | .iadd => .iadd f | .isub => .isub f | .imul => .imul f | .imulhi => .imulhi f | .imulhn => .imulhn f
  | .imad => .imad f | .imadwi => .imadwi f | .imadwn => .imadwn f | .iadd64 => .iadd64 f
  | .isub64 => .isub64 f | .imin => .imin f | .imax => .imax f | .iminn => .iminn f | .imaxn => .imaxn f
  | .iabs => .iabs f | .ineg => .ineg f | .iaddsat => .iaddsat f | .iaddsatn => .iaddsatn f
  | .isubsat => .isubsat f | .isubsatn => .isubsatn f | .vand => .vand f | .vor => .vor f | .vxor => .vxor f
  | .andn => .andn f | .shl => .shl f | .shr => .shr f | .sra => .sra f | .shl64 => .shl64 f
  | .shr64 => .shr64 f | .bfe => .bfe f | .bfi => .bfi f | .popc => .popc f | .clz => .clz f
  | .brev => .brev f | .icmp => .icmp f | .sel => .sel f | .idp4 => .idp4 f | .lea => .lea f | .mov => .mov f
  | .mov64 => .mov64 f | .vrds => .vrds f | .vfree => .vfree f | .prmt => .prmt f | .fadd => .fadd f
  | .fsub => .fsub f | .fmul => .fmul f | .ffma => .ffma f | .fmin => .fmin f | .fmax => .fmax f
  | .fabs => .fabs f | .fneg => .fneg f | .fcmp => .fcmp f | .frnd => .frnd f | .frcp => .frcp f
  | .frsq => .frsq f | .fsqrt => .fsqrt f | .fdiv => .fdiv f | .fexp2 => .fexp2 f | .flog2 => .flog2 f
  | .frred => .frred f | .fsinr => .fsinr f | .fcosr => .fcosr f | .ftanh => .ftanh f | .fclass => .fclass f
  | .dadd => .dadd f | .dsub => .dsub f | .dmul => .dmul f | .dfma => .dfma f | .dmin => .dmin f
  | .dmax => .dmax f | .dcmp => .dcmp f | .ddiv => .ddiv f | .dsqrt => .dsqrt f | .drnd => .drnd f
  | .hadd2 => .hadd2 f | .hmul2 => .hmul2 f | .hfma2 => .hfma2 f | .badd2 => .badd2 f | .bmul2 => .bmul2 f
  | .bfma2 => .bfma2 f | .bmax2 => .bmax2 f | .bmin2 => .bmin2 f | .fdp2b => .fdp2b f | .fdp4q => .fdp4q f
  | .fdp4w => .fdp4w f | .crxf => .crxf f | .rngh => .rngh f | .rngf => .rngf f | .cvt => .cvt f
  | .cvtpk => .cvtpk f | .cvtupk => .cvtupk f | .cvtsr => .cvtsr f | .bscale => .bscale f | .shfl => .shfl f
  | .shflv => .shflv f | .qswap => .qswap f | .qbcast => .qbcast f | .vote => .vote f | .scan => .scan f
  | .red => .red f | .laneMatch => .laneMatch f | .ddx => .ddx f | .ddy => .ddy f | .rdlane => .rdlane f
  | .wrlane => .wrlane f | .emitm => .emitm f | .mout => .mout f | .pout => .pout f | .mend => .mend f
  | .visq => .visq f | .hzq => .hzq f | .pixout => .pixout f | .pixdisc => .pixdisc | .sample => .sample f
  | .sampleg => .sampleg f | .tld => .tld f | .imgst => .imgst f | .rayq => .rayq f | .rayw => .rayw f
  | .rayacc => .rayacc | .raycont => .raycont | .rayterm => .rayterm | .repack => .repack f

/-- The F opcode and fields of an F instruction that carries its fields. -/
def Instr.asF : Instr → Option (FOp × FArgs)
  | .iadd f => some (.iadd, f) | .isub f => some (.isub, f) | .imul f => some (.imul, f)
  | .imulhi f => some (.imulhi, f) | .imulhn f => some (.imulhn, f) | .imad f => some (.imad, f)
  | .imadwi f => some (.imadwi, f) | .imadwn f => some (.imadwn, f) | .iadd64 f => some (.iadd64, f)
  | .isub64 f => some (.isub64, f) | .imin f => some (.imin, f) | .imax f => some (.imax, f)
  | .iminn f => some (.iminn, f) | .imaxn f => some (.imaxn, f) | .iabs f => some (.iabs, f)
  | .ineg f => some (.ineg, f) | .iaddsat f => some (.iaddsat, f) | .iaddsatn f => some (.iaddsatn, f)
  | .isubsat f => some (.isubsat, f) | .isubsatn f => some (.isubsatn, f) | .vand f => some (.vand, f)
  | .vor f => some (.vor, f) | .vxor f => some (.vxor, f) | .andn f => some (.andn, f)
  | .shl f => some (.shl, f) | .shr f => some (.shr, f) | .sra f => some (.sra, f)
  | .shl64 f => some (.shl64, f) | .shr64 f => some (.shr64, f) | .bfe f => some (.bfe, f)
  | .bfi f => some (.bfi, f) | .popc f => some (.popc, f) | .clz f => some (.clz, f)
  | .brev f => some (.brev, f) | .icmp f => some (.icmp, f) | .sel f => some (.sel, f)
  | .idp4 f => some (.idp4, f) | .lea f => some (.lea, f) | .mov f => some (.mov, f)
  | .mov64 f => some (.mov64, f) | .vrds f => some (.vrds, f) | .vfree f => some (.vfree, f)
  | .prmt f => some (.prmt, f) | .fadd f => some (.fadd, f) | .fsub f => some (.fsub, f)
  | .fmul f => some (.fmul, f) | .ffma f => some (.ffma, f) | .fmin f => some (.fmin, f)
  | .fmax f => some (.fmax, f) | .fabs f => some (.fabs, f) | .fneg f => some (.fneg, f)
  | .fcmp f => some (.fcmp, f) | .frnd f => some (.frnd, f) | .frcp f => some (.frcp, f)
  | .frsq f => some (.frsq, f) | .fsqrt f => some (.fsqrt, f) | .fdiv f => some (.fdiv, f)
  | .fexp2 f => some (.fexp2, f) | .flog2 f => some (.flog2, f) | .frred f => some (.frred, f)
  | .fsinr f => some (.fsinr, f) | .fcosr f => some (.fcosr, f) | .ftanh f => some (.ftanh, f)
  | .fclass f => some (.fclass, f) | .dadd f => some (.dadd, f) | .dsub f => some (.dsub, f)
  | .dmul f => some (.dmul, f) | .dfma f => some (.dfma, f) | .dmin f => some (.dmin, f)
  | .dmax f => some (.dmax, f) | .dcmp f => some (.dcmp, f) | .ddiv f => some (.ddiv, f)
  | .dsqrt f => some (.dsqrt, f) | .drnd f => some (.drnd, f) | .hadd2 f => some (.hadd2, f)
  | .hmul2 f => some (.hmul2, f) | .hfma2 f => some (.hfma2, f) | .badd2 f => some (.badd2, f)
  | .bmul2 f => some (.bmul2, f) | .bfma2 f => some (.bfma2, f) | .bmax2 f => some (.bmax2, f)
  | .bmin2 f => some (.bmin2, f) | .fdp2b f => some (.fdp2b, f) | .fdp4q f => some (.fdp4q, f)
  | .fdp4w f => some (.fdp4w, f) | .crxf f => some (.crxf, f) | .rngh f => some (.rngh, f)
  | .rngf f => some (.rngf, f) | .cvt f => some (.cvt, f) | .cvtpk f => some (.cvtpk, f)
  | .cvtupk f => some (.cvtupk, f) | .cvtsr f => some (.cvtsr, f) | .bscale f => some (.bscale, f)
  | .shfl f => some (.shfl, f) | .shflv f => some (.shflv, f) | .qswap f => some (.qswap, f)
  | .qbcast f => some (.qbcast, f) | .vote f => some (.vote, f) | .scan f => some (.scan, f)
  | .red f => some (.red, f) | .laneMatch f => some (.laneMatch, f) | .ddx f => some (.ddx, f)
  | .ddy f => some (.ddy, f) | .rdlane f => some (.rdlane, f) | .wrlane f => some (.wrlane, f)
  | .emitm f => some (.emitm, f) | .mout f => some (.mout, f) | .pout f => some (.pout, f)
  | .mend f => some (.mend, f) | .visq f => some (.visq, f) | .hzq f => some (.hzq, f)
  | .pixout f => some (.pixout, f) | .sample f => some (.sample, f) | .sampleg f => some (.sampleg, f)
  | .tld f => some (.tld, f) | .imgst f => some (.imgst, f) | .rayq f => some (.rayq, f)
  | .rayw f => some (.rayw, f) | .repack f => some (.repack, f) | _ => none

/-- The S-format instruction of an OPC (NOP apart). -/
def Instr.ofS (a : SArgs) : Nat → Option Instr
  | 0x001 => some (.smov a) | 0x002 => some (.smovi a) | 0x003 => some (.smovhi a) | 0x004 => some (.siadd a)
  | 0x005 => some (.siaddi a) | 0x006 => some (.sisub a) | 0x007 => some (.simul a)
  | 0x008 => some (.simulhi a) | 0x009 => some (.simulhn a) | 0x00A => some (.sand a)
  | 0x00B => some (.sor a) | 0x00C => some (.sxor a) | 0x00D => some (.sandi a) | 0x00E => some (.sori a)
  | 0x00F => some (.sxori a) | 0x010 => some (.sshl a) | 0x011 => some (.sshr a) | 0x012 => some (.ssra a)
  | 0x013 => some (.sshli a) | 0x014 => some (.sshri a) | 0x015 => some (.ssrai a) | 0x016 => some (.scmp a)
  | 0x017 => some (.scmpi a) | 0x018 => some (.ssel a) | 0x019 => some (.smin a) | 0x01A => some (.smax a)
  | 0x01B => some (.sminn a) | 0x01C => some (.smaxn a) | 0x01D => some (.spopc a) | 0x01E => some (.sclz a)
  | 0x01F => some (.sffs a) | 0x020 => some (.siadd64 a) | 0x021 => some (.sisub64 a)
  | 0x022 => some (.smov64 a) | 0x023 => some (.sshl64 a) | 0x024 => some (.sshr64 a)
  | 0x025 => some (.smrd a) | 0x026 => some (.smwr a) | 0x027 => some (.srd a) | 0x028 => some (.swr a)
  | 0x029 => some (.sfree a) | 0x040 => some (.csrrd a) | 0x041 => some (.csrwr a)
  | 0x042 => some (.csrset a) | 0x043 => some (.csrclr a) | 0x044 => some (.wfe a) | 0x045 => some .evret
  | 0x294 => some .cbatch | 0x295 => some (.cwait a) | 0x296 => some (.cblk a) | 0x300 => some (.binit a)
  | 0x301 => some (.barr a) | 0x302 => some (.bwait a) | 0x303 => some (.bsync a) | 0x304 => some (.bquery a)
  | 0x308 => some (.spawn a) | 0x30C => some (.dqpush a) | 0x30D => some (.dqpop a)
  | 0x30E => some (.dqsteal a) | 0x30F => some (.dqsize a) | 0x310 => some (.launch a)
  | 0x318 => some (.flowreq a) | 0x319 => some .flowrel | 0x31C => some (.iclk a) | 0x31D => some (.icunlk a)
  | 0x320 => some (.dgrd a) | _ => none

/-- OPC and fields of an S-format instruction. -/
def Instr.asS : Instr → Option (BitVec 10 × SArgs)
  | .smov a => some (0x001, a) | .smovi a => some (0x002, a) | .smovhi a => some (0x003, a)
  | .siadd a => some (0x004, a) | .siaddi a => some (0x005, a) | .sisub a => some (0x006, a)
  | .simul a => some (0x007, a) | .simulhi a => some (0x008, a) | .simulhn a => some (0x009, a)
  | .sand a => some (0x00A, a) | .sor a => some (0x00B, a) | .sxor a => some (0x00C, a)
  | .sandi a => some (0x00D, a) | .sori a => some (0x00E, a) | .sxori a => some (0x00F, a)
  | .sshl a => some (0x010, a) | .sshr a => some (0x011, a) | .ssra a => some (0x012, a)
  | .sshli a => some (0x013, a) | .sshri a => some (0x014, a) | .ssrai a => some (0x015, a)
  | .scmp a => some (0x016, a) | .scmpi a => some (0x017, a) | .ssel a => some (0x018, a)
  | .smin a => some (0x019, a) | .smax a => some (0x01A, a) | .sminn a => some (0x01B, a)
  | .smaxn a => some (0x01C, a) | .spopc a => some (0x01D, a) | .sclz a => some (0x01E, a)
  | .sffs a => some (0x01F, a) | .siadd64 a => some (0x020, a) | .sisub64 a => some (0x021, a)
  | .smov64 a => some (0x022, a) | .sshl64 a => some (0x023, a) | .sshr64 a => some (0x024, a)
  | .smrd a => some (0x025, a) | .smwr a => some (0x026, a) | .srd a => some (0x027, a)
  | .swr a => some (0x028, a) | .sfree a => some (0x029, a) | .csrrd a => some (0x040, a)
  | .csrwr a => some (0x041, a) | .csrset a => some (0x042, a) | .csrclr a => some (0x043, a)
  | .wfe a => some (0x044, a) | .evret => some (0x045, zeroS) | .cbatch => some (0x294, zeroS)
  | .cwait a => some (0x295, a) | .cblk a => some (0x296, a) | .binit a => some (0x300, a)
  | .barr a => some (0x301, a) | .bwait a => some (0x302, a) | .bsync a => some (0x303, a)
  | .bquery a => some (0x304, a) | .spawn a => some (0x308, a) | .dqpush a => some (0x30C, a)
  | .dqpop a => some (0x30D, a) | .dqsteal a => some (0x30E, a) | .dqsize a => some (0x30F, a)
  | .launch a => some (0x310, a) | .flowreq a => some (0x318, a) | .flowrel => some (0x319, zeroS)
  | .iclk a => some (0x31C, a) | .icunlk a => some (0x31D, a) | .dgrd a => some (0x320, a) | _ => none

/-- The C-format instruction of an OPC; BRM takes its MWB prefixes. -/
def Instr.ofC (c : CArgs) (mwbs : List Mwb) : Nat → Option Instr
  | 0x030 => some (.bra c) | 0x031 => some (.brc c) | 0x032 => some (.brs c) | 0x033 => some (.brm c mwbs)
  | 0x034 => some (.call c) | 0x035 => some (.calli c) | 0x036 => some (.ret c) | 0x037 => some (.fuse c)
  | 0x038 => some .exit | 0x039 => some (.loop c) | 0x03A => some (.loopx c) | 0x03B => some .sigrst
  | 0x03C => some (.sigchk c) | 0x03D => some (.trap c) | 0x03E => some .bkpt | 0x03F => some .yield
  | _ => none

/-- OPC, fields and MWB prefixes of a C-format instruction. -/
def Instr.asC : Instr → Option (BitVec 10 × CArgs × List Mwb)
  | .bra c => some (0x030, c, []) | .brc c => some (0x031, c, []) | .brs c => some (0x032, c, [])
  | .brm c w => some (0x033, c, w) | .call c => some (0x034, c, []) | .calli c => some (0x035, c, [])
  | .ret c => some (0x036, c, []) | .fuse c => some (0x037, c, []) | .exit => some (0x038, zeroC, [])
  | .loop c => some (0x039, c, []) | .loopx c => some (0x03A, c, []) | .sigrst => some (0x03B, zeroC, [])
  | .sigchk c => some (0x03C, c, []) | .trap c => some (0x03D, c, []) | .bkpt => some (0x03E, zeroC, [])
  | .yield => some (0x03F, zeroC, []) | _ => none

/-- The M-format instruction of an OPC. -/
def Instr.ofM (a : MArgs) : Nat → Option Instr
  | 0x200 => some (.ldg .n8 a) | 0x201 => some (.ldg .i8 a) | 0x202 => some (.ldg .n16 a)
  | 0x203 => some (.ldg .i16 a) | 0x204 => some (.ldg .b32 a) | 0x205 => some (.ldg .b64 a)
  | 0x206 => some (.ldg .b128 a) | 0x208 => some (.stg .b8 a) | 0x209 => some (.stg .b16 a)
  | 0x20A => some (.stg .b32 a) | 0x20B => some (.stg .b64 a) | 0x20C => some (.stg .b128 a)
  | 0x210 => some (.lds .n8 a) | 0x211 => some (.lds .i8 a) | 0x212 => some (.lds .n16 a)
  | 0x213 => some (.lds .i16 a) | 0x214 => some (.lds .b32 a) | 0x215 => some (.lds .b64 a)
  | 0x216 => some (.lds .b128 a) | 0x218 => some (.sts .b8 a) | 0x219 => some (.sts .b16 a)
  | 0x21A => some (.sts .b32 a) | 0x21B => some (.sts .b64 a) | 0x21C => some (.sts .b128 a)
  | 0x220 => some (.ldp .n8 a) | 0x221 => some (.ldp .i8 a) | 0x222 => some (.ldp .n16 a)
  | 0x223 => some (.ldp .i16 a) | 0x224 => some (.ldp .b32 a) | 0x225 => some (.ldp .b64 a)
  | 0x226 => some (.ldp .b128 a) | 0x228 => some (.stp .b8 a) | 0x229 => some (.stp .b16 a)
  | 0x22A => some (.stp .b32 a) | 0x22B => some (.stp .b64 a) | 0x22C => some (.stp .b128 a)
  | 0x238 => some (.aadd false a) | 0x239 => some (.amin false a) | 0x23A => some (.amax false a)
  | 0x23B => some (.aminn false a) | 0x23C => some (.amaxn false a) | 0x23D => some (.aand false a)
  | 0x23E => some (.aor false a) | 0x23F => some (.axor false a) | 0x240 => some (.axchg false a)
  | 0x241 => some (.acas false a) | 0x242 => some (.afadd false a) | 0x243 => some (.afadd2b a)
  | 0x248 => some (.aadd true a) | 0x249 => some (.amin true a) | 0x24A => some (.amax true a)
  | 0x24B => some (.aminn true a) | 0x24C => some (.amaxn true a) | 0x24D => some (.aand true a)
  | 0x24E => some (.aor true a) | 0x24F => some (.axor true a) | 0x250 => some (.axchg true a)
  | 0x251 => some (.acas true a) | 0x252 => some (.afadd true a) | 0x258 => some (.saadd a)
  | 0x259 => some (.samin a) | 0x25A => some (.samax a) | 0x25B => some (.saand a) | 0x25C => some (.saor a)
  | 0x25D => some (.saxor a) | 0x25E => some (.saxchg a) | 0x25F => some (.sacas a)
  | 0x260 => some (.fence a) | 0x261 => some (.fenceOr) | 0x262 => some (.rfence) | 0x264 => some (.pref a)
  | 0x290 => some (.cpy a) | 0x291 => some (.cpyt a) | 0x292 => some (.cpym a) | 0x293 => some (.cpymma a)
  | 0x297 => some (.cpyg a) | 0x298 => some (.cpys a) | _ => none

/-- OPC and fields of an M-format instruction. -/
def Instr.asM : Instr → Option (BitVec 10 × MArgs)
  | .ldg .n8 a => some (0x200, a) | .ldg .i8 a => some (0x201, a) | .ldg .n16 a => some (0x202, a)
  | .ldg .i16 a => some (0x203, a) | .ldg .b32 a => some (0x204, a) | .ldg .b64 a => some (0x205, a)
  | .ldg .b128 a => some (0x206, a) | .stg .b8 a => some (0x208, a) | .stg .b16 a => some (0x209, a)
  | .stg .b32 a => some (0x20A, a) | .stg .b64 a => some (0x20B, a) | .stg .b128 a => some (0x20C, a)
  | .lds .n8 a => some (0x210, a) | .lds .i8 a => some (0x211, a) | .lds .n16 a => some (0x212, a)
  | .lds .i16 a => some (0x213, a) | .lds .b32 a => some (0x214, a) | .lds .b64 a => some (0x215, a)
  | .lds .b128 a => some (0x216, a) | .sts .b8 a => some (0x218, a) | .sts .b16 a => some (0x219, a)
  | .sts .b32 a => some (0x21A, a) | .sts .b64 a => some (0x21B, a) | .sts .b128 a => some (0x21C, a)
  | .ldp .n8 a => some (0x220, a) | .ldp .i8 a => some (0x221, a) | .ldp .n16 a => some (0x222, a)
  | .ldp .i16 a => some (0x223, a) | .ldp .b32 a => some (0x224, a) | .ldp .b64 a => some (0x225, a)
  | .ldp .b128 a => some (0x226, a) | .stp .b8 a => some (0x228, a) | .stp .b16 a => some (0x229, a)
  | .stp .b32 a => some (0x22A, a) | .stp .b64 a => some (0x22B, a) | .stp .b128 a => some (0x22C, a)
  | .aadd false a => some (0x238, a) | .amin false a => some (0x239, a) | .amax false a => some (0x23A, a)
  | .aminn false a => some (0x23B, a) | .amaxn false a => some (0x23C, a) | .aand false a => some (0x23D, a)
  | .aor false a => some (0x23E, a) | .axor false a => some (0x23F, a) | .axchg false a => some (0x240, a)
  | .acas false a => some (0x241, a) | .afadd false a => some (0x242, a) | .afadd2b a => some (0x243, a)
  | .aadd true a => some (0x248, a) | .amin true a => some (0x249, a) | .amax true a => some (0x24A, a)
  | .aminn true a => some (0x24B, a) | .amaxn true a => some (0x24C, a) | .aand true a => some (0x24D, a)
  | .aor true a => some (0x24E, a) | .axor true a => some (0x24F, a) | .axchg true a => some (0x250, a)
  | .acas true a => some (0x251, a) | .afadd true a => some (0x252, a) | .saadd a => some (0x258, a)
  | .samin a => some (0x259, a) | .samax a => some (0x25A, a) | .saand a => some (0x25B, a)
  | .saor a => some (0x25C, a) | .saxor a => some (0x25D, a) | .saxchg a => some (0x25E, a)
  | .sacas a => some (0x25F, a) | .fence a => some (0x260, a) | .fenceOr => some (0x261, fenceArgs)
  | .rfence => some (0x262, fenceArgs) | .pref a => some (0x264, a) | .cpy a => some (0x290, a)
  | .cpyt a => some (0x291, a) | .cpym a => some (0x292, a) | .cpymma a => some (0x293, a)
  | .cpyg a => some (0x297, a) | .cpys a => some (0x298, a) | _ => none

/-- The SM-format instruction of an OPC. -/
def Instr.ofSm (a : SmArgs) : Nat → Option Instr
  | 0x230 => some (.sld .b32 a) | 0x231 => some (.sld .b64 a) | 0x232 => some (.sld .b128 a)
  | 0x234 => some (.sst .b32 a) | 0x235 => some (.sst .b64 a) | _ => none

/-- OPC and fields of an SM-format instruction; SST has no 128-bit form. -/
def Instr.asSm : Instr → Option (BitVec 10 × SmArgs)
  | .sld .b32 a => some (0x230, a) | .sld .b64 a => some (0x231, a) | .sld .b128 a => some (0x232, a)
  | .sst .b32 a => some (0x234, a) | .sst .b64 a => some (0x235, a) | _ => none

/-- The MX-format instruction of an OPC. -/
def Instr.ofX (x : XArgs) : Nat → Option Instr
  | 0x280 => some (.mmaE4m3 x) | 0x281 => some (.mmaE5m2 x) | 0x282 => some (.mmaMix x)
  | 0x283 => some (.mmaBf16 x) | 0x284 => some (.mmaF16 x) | 0x285 => some (.mmaE2m1s x)
  | 0x286 => some (.mmaE4m3s x) | 0x287 => some (.mmaI8 x) | 0x288 => some (.accld x)
  | 0x289 => some (.accst x) | 0x28A => some (.accz x) | 0x28B => some (.acccvt x) | 0x28C => some (.mwait x)
  | _ => none

/-- OPC and fields of an MX-format instruction. -/
def Instr.asX : Instr → Option (BitVec 10 × XArgs)
  | .mmaE4m3 x => some (0x280, x) | .mmaE5m2 x => some (0x281, x) | .mmaMix x => some (0x282, x)
  | .mmaBf16 x => some (0x283, x) | .mmaF16 x => some (0x284, x) | .mmaE2m1s x => some (0x285, x)
  | .mmaE4m3s x => some (0x286, x) | .mmaI8 x => some (0x287, x) | .accld x => some (0x288, x)
  | .accst x => some (0x289, x) | .accz x => some (0x28A, x) | .acccvt x => some (0x28B, x)
  | .mwait x => some (0x28C, x) | _ => none

/-! ## Operand shapes of F words (06 R138, 07 R163, 17 R380–R391, 18 R404–R408) -/

/-- Whether an opcode's D field names a mask destination with a condition in D[7:3]. -/
def FOp.maskDest : FOp → Bool
  | .icmp | .fcmp | .dcmp | .vote => true
  | _ => false

/-- Whether a 64-bit special register is named (05 R133). -/
def wideSpecial (n : Nat) : Bool := n = 0x12 || n = 0x20

/-- Whether a number names a special register (05 R133). -/
def isSpecial (n : Nat) : Bool := n ≤ 0x1A || (0x20 ≤ n && n ≤ 0x24)

/-- Whether a type code of R153 is held in a pair. -/
def wideType (t : Nat) : Bool := t = 6 || t = 7 || t = 11

/-- The number of elements of a packed conversion to or from a type (06 R155). -/
def packCount (t : Nat) : Nat :=
  if t = 8 ∨ t = 9 ∨ t = 2 ∨ t = 3 then 2
  else if t = 12 ∨ t = 13 ∨ t = 0 ∨ t = 1 then 4
  else if t = 14 then 8 else 1

/-- Registers named by D as a destination (0 where D names no register). `b` is the B field. -/
def FOp.dCount (op : FOp) (b : BitVec 8) : Nat :=
  match op with
  | .icmp | .fcmp | .dcmp | .vote | .vfree | .mout | .pout | .mend | .pixout | .pixdisc | .imgst | .repack => 0
  | .imadwi | .imadwn | .iadd64 | .isub64 | .shl64 | .shr64 | .lea | .mov64 | .frred | .dadd | .dsub | .dmul
  | .dfma | .dmin | .dmax | .ddiv | .dsqrt | .drnd | .laneMatch => 2
  | .crxf => 3
  | .vrds => if wideSpecial b.toNat then 2 else 1
  | .cvt => if wideType (b.toNat / 16) then 2 else 1
  | .cvtupk => packCount (b.toNat % 16)
  | .sample | .sampleg | .tld => 4
  | .rayq | .rayw | .rayacc | .raycont | .rayterm => 8
  | _ => 1

/-- Registers named by A (0 where A is unused). -/
def FOp.aCount (op : FOp) (d b : BitVec 8) : Nat :=
  match op with
  | .mov | .mov64 | .vrds | .wrlane | .mend | .pixdisc | .rayacc | .raycont | .rayterm => 0
  | .iadd64 | .isub64 | .shl64 | .shr64 | .lea | .dadd | .dsub | .dmul | .dfma | .dmin | .dmax | .dcmp | .ddiv
  | .dsqrt | .drnd | .fsinr | .fcosr | .emitm | .sample => 2
  | .icmp => if 8 ≤ d.toNat / 8 then 2 else 1
  | .crxf | .sampleg => 6
  | .hzq | .tld | .imgst => 3
  | .pixout => 4
  | .rayq | .rayw => 8
  | .cvt => if wideType (b.toNat % 16) then 2 else 1
  | .cvtpk => packCount (b.toNat / 16)
  | .cvtsr => if b.toNat % 16 = 11 then 2 else packCount (b.toNat / 16)
  | .laneMatch => if b.toNat % 2 = 1 then 2 else 1
  | .repack => b.toNat + 1
  | .vfree => b.toNat - d.toNat
  | _ => 1

/-- Registers named by B where B is a register operand with BS = 0, or the words of the scalar that replaces it. -/
def FOp.bCount (op : FOp) (d : BitVec 8) : Nat :=
  match op with
  | .iadd | .isub | .imul | .imulhi | .imulhn | .imin | .imax | .iminn | .imaxn | .iaddsat | .iaddsatn | .isubsat
  | .isubsatn | .vand | .vor | .vxor | .andn | .shl | .shr | .sra | .bfe | .imad | .bfi | .sel | .prmt | .idp4
  | .imadwi | .imadwn | .shl64 | .shr64 | .lea | .mov | .fadd | .fsub | .fmul | .fdiv | .ffma | .fmin | .fmax
  | .fcmp | .hadd2 | .hmul2 | .badd2 | .bmul2 | .hfma2 | .bfma2 | .bmax2 | .bmin2 | .fdp2b | .fdp4q | .fdp4w
  | .shfl | .shflv => 1
  | .iadd64 | .isub64 | .mov64 | .dadd | .dsub | .dmul | .ddiv | .dfma | .dmin | .dmax | .dcmp | .pout => 2
  | .icmp => if 8 ≤ d.toNat / 8 then 2 else 1
  | .mout | .imgst => 4
  | _ => 0

/-- Registers of the third vector source C, role 1 of R30 (0 for the other roles). -/
def FOp.cCount : FOp → Nat
  | .imad | .bfi | .sel | .prmt | .idp4 | .ffma | .hfma2 | .bfma2 | .fdp2b | .fdp4q | .fdp4w => 1
  | .imadwi | .imadwn | .dfma => 2
  | _ => 0

/-- Scalars named by S in role 2 of R30 (0 for the other roles). -/
def FOp.namedScalars : FOp → Nat
  | .crxf => 18
  | .rngh | .rngf | .emitm | .visq | .rayq | .rayw => 2
  | .mend => 1
  | .hzq => 3
  | .sample | .sampleg | .tld | .imgst => 12
  | _ => 0

/-- Whether B may be replaced by a scalar or an immediate. RDLANE and WRLANE take one in place of no register. -/
def FOp.allowsBs (op : FOp) : Bool :=
  match op with
  | .rdlane | .wrlane => true
  | .mout | .pout | .imgst => false
  | _ => decide (op.bCount 0 ≠ 0)

/-- Whether an opcode rounds, so that RX selects the mode. -/
def FOp.rounds : FOp → Bool
  | .fadd | .fsub | .fmul | .fdiv | .ffma | .frnd | .fsqrt | .dadd | .dsub | .dmul | .ddiv | .dfma | .dsqrt | .drnd
  | .hadd2 | .hmul2 | .badd2 | .bmul2 | .hfma2 | .bfma2 | .cvt | .cvtpk | .ddx | .ddy => true
  | _ => false

/-- Whether MOD gives the operation's segment (02 R47). -/
def FOp.segmented : FOp → Bool
  | .shfl | .shflv | .vote | .scan | .red | .laneMatch | .rdlane | .wrlane => true
  | _ => false

/-- Whether A may carry a source modifier: the vector datapath's opcodes that read A (06 R138). -/
def FOp.modifiable (op : FOp) : Bool := decide (op.code.toNat < 0x190) && op != .vfree && decide (op.aCount 0 0 ≠ 0)

/-- Whether the B field is a conversion selector and LB is SAT (06 R153). -/
def FOp.converts : FOp → Bool
  | .cvt | .cvtpk | .cvtupk | .cvtsr | .bscale => true
  | _ => false

/-- CLASS of MOD (02 R45). -/
def FArgs.cls (f : FArgs) : Nat := f.mod.toNat / 512

/-- LSEG of MOD (02 R45). -/
def FArgs.lseg (f : FArgs) : Nat := f.mod.toNat / 64 % 8

/-- DIST of MOD (02 R45). -/
def FArgs.dist (f : FArgs) : Nat := f.mod.toNat % 64

/-- The condition or operation in D[7:3] of a mask destination. -/
def FArgs.cond (f : FArgs) : Nat := f.d.toNat / 8

/-- C of a three-source opcode: S[7:0] (02 R30). -/
def FArgs.c (f : FArgs) : Nat := f.s.toNat % 256

/-- The packed conversions of R155, as (32-bit type, packed type). -/
def packPair (wide narrow : Nat) : Bool :=
  (wide = 10 && (narrow = 8 || narrow = 9 || narrow = 12 || narrow = 13 || narrow = 14)) ||
  (wide = 4 && (narrow = 0 || narrow = 2)) || (wide = 5 && (narrow = 1 || narrow = 3))

/-- Whether a conversion selector or SAT is one its entry does not allow (06 R154–R157). -/
def badConversion (op : FOp) (sel : Nat) (sat : Bool) : Bool :=
  let tgt := sel / 16
  let src := sel % 16
  match op with
  | .cvt => tgt = 15 || tgt = src || (src = 15 && tgt ≠ 10)
  | .cvtpk => !packPair src tgt
  | .cvtupk => !packPair tgt src || sat
  | .cvtsr => !((src = 10 && (tgt = 8 || tgt = 9 || tgt = 12 || tgt = 13)) || (src = 11 && tgt = 10))
  | _ => !(tgt = 12 || tgt = 13 || tgt = 14) || src ≠ 10 || sat

/-- Values of B and of a mask condition that the opcode's entry marks illegal (06 R141, R145; 07 R163–R171;
17 R386; 18 R404, R405). -/
def badCode (op : FOp) (f : FArgs) : Bool :=
  let b := f.b.toNat
  match op with
  | .icmp => f.cond > 13 || f.cond % 8 > 5
  | .fcmp | .dcmp => f.cond > 7
  | .vote => f.cond > 3
  | .qswap => b = 0 || b > 3
  | .qbcast => b > 3
  | .scan | .red => b / 16 > 5 || b % 16 > 2 || (b % 16 = 2 && b / 16 > 2)
  | .laneMatch | .ddx | .ddy | .pixout | .rayacc => b > 1
  | .raycont | .rayterm => b ≠ 0
  | .rayq | .rayw => b > 7 || b % 4 = 3
  | .mout => f.d.toNat > 3
  | _ => false

/-- DIST bits that the opcode's entry fixes at 0 (07 R163). -/
def badDist (op : FOp) (f : FArgs) : Bool :=
  match op with
  | .shfl => f.dist ≥ 32
  | .shflv => f.dist ≥ 8 || f.lseg ≠ 0
  | .vote | .red | .laneMatch => f.dist ≥ 8
  | .scan => f.dist ≥ 16
  | .rdlane => f.bs && f.dist ≠ 0
  | _ => false

/-- Whether B is a field of the opcode other than a register: a selector, a pattern, a count or a number. -/
def FOp.bIsCode : FOp → Bool
  | .vrds | .cvt | .cvtpk | .cvtupk | .cvtsr | .bscale | .qswap | .qbcast | .scan | .red | .laneMatch | .ddx | .ddy
  | .pixout | .rayq | .rayw | .rayacc | .raycont | .rayterm | .repack | .vfree => true
  | _ => false

/-- Whether MOD breaks R45 or R47 for the opcode, or is nonzero where it is unused. -/
def badMod (op : FOp) (f : FArgs) : Bool :=
  if op.segmented then f.cls ≠ 0 || f.lseg = 7 || badDist op f
  else if op.modifiable then (if f.cls = 0 then f.mod ≠ 0 else f.lseg = 0 || f.lseg = 7)
  else f.mod ≠ 0

/-- Check 6 of R28 on an F word: whether an unused field is nonzero, or a field holds an illegal value. -/
def badFields (op : FOp) (f : FArgs) : Bool :=
  let nb := op.bCount f.d
  (f.bs && !op.allowsBs) || (op = .wrlane && !f.bs) || (f.rx && !op.rounds) || (f.bs && f.lb) ||
  (op.dCount f.b = 0 && !op.maskDest && op != .mout && f.d ≠ 0) ||
  (op.aCount f.d f.b = 0 && op != .vfree && (f.a ≠ 0 || f.la)) ||
  (!op.bIsCode && (nb = 0 || f.bs) && f.b ≠ 0) ||
  (f.lb && !op.converts && (op.bIsCode || nb = 0)) ||
  (decide (op.cCount ≠ 0) && f.s.toNat ≥ 256) ||
  (op.cCount = 0 && op.namedScalars = 0 && !(f.bs && f.limm.isNone) && f.s ≠ 0) ||
  badMod op f || badCode op f || (op.converts && badConversion op f.b.toNat f.lb) ||
  (op = .laneMatch && (254 < f.d.toNat || (f.b = 1 && 254 < f.a.toNat))) ||
  (op = .vfree && (f.g ≠ 0 || f.la || f.lb)) || (op = .mend && f.g ≠ 0) || (op = .repack && f.la)

/-- Check 7 of R28 on an F word whose fields step as the last repeat's do: `sd`, `sa`, `sb` are the steps added. -/
def badOperands (op : FOp) (f : FArgs) (sd sa sb : Nat) : Bool :=
  let nd := op.dCount f.b
  let na := op.aCount f.d f.b
  let nb := op.bCount f.d
  let fits := fun (k n lim : Nat) => n = 0 || k + n ≤ lim
  !(fits (f.d.toNat + sd) nd 256 && (op = .vfree || fits (f.a.toNat + sa) na 256) &&
    (f.bs || fits (f.b.toNat + sb) nb 256) &&
    fits (f.c + sd) op.cCount 256 &&
    (!(f.bs && f.limm.isNone && op.cCount = 0 && op.namedScalars = 0) || fits f.s.toNat (max 1 nb) 1024) &&
    fits f.s.toNat op.namedScalars 1024) ||
  (op.maskDest && f.d.toNat % 8 = 0) ||
  (op.modifiable && f.cls ≠ 0 && f.dist ≥ 2 ^ f.lseg) ||
  ((op = .wrlane || (op = .rdlane && !f.bs)) && f.lseg ≠ 0 && f.dist ≥ 2 ^ f.lseg) ||
  (op = .vrds && !isSpecial f.b.toNat) || (op = .vfree && (f.b.toNat < f.a.toNat || f.b.toNat + sb < f.a.toNat + sa || 256 ≤ f.b.toNat + sb))

/-- The first decoding fault of the fields of a word: check 6, then check 7 (02 R28). -/
def firstFault (encoding operand : Bool) : Option StopCause :=
  if encoding then some .illegalEncoding else if operand then some .illegalOperand else none

/-- What stands wrong with an F word (02 R28). -/
def illegalF (op : FOp) (f : FArgs) : Option StopCause := firstFault (badFields op f) (badOperands op f 0 0 0)

/-- Whether D is a field of the opcode: a register, a mask with its condition, or a number. -/
def FOp.hasD (op : FOp) (f : FArgs) : Bool := decide (op.dCount f.b ≠ 0) || op.maskDest || op = .mout

/-- Whether a REP steps B: it is a field of the opcode, and no scalar or immediate stands for it (02 R41). -/
def stepsB (r : RepArgs) (op : FOp) (f : FArgs) : Bool := r.sb && !f.bs && (op.bIsCode || decide (op.bCount f.d ≠ 0))

/-- Whether a REP steps A (02 R41). -/
def stepsA (r : RepArgs) (op : FOp) (f : FArgs) : Bool := r.sa && (decide (op.aCount f.d f.b ≠ 0) || op = .vfree)

/-- Repeat k of a REP: the fields D, A, B and C of an F word whose step flags are set, moved by k steps (02 R41; log 23). A last-read mark on an
operand that does not step acts at the final repeat. -/
def stepFields (r : RepArgs) (op : FOp) (f : FArgs) (k : Nat) : FArgs :=
  let n : BitVec 8 := BitVec.ofNat 8 (k * 2 ^ r.stride.toNat)
  let final := decide (k = r.count.toNat)
  { f with
    d := if r.sd && op.hasD f then f.d + n else f.d
    s := if r.sd && decide (op.cCount ≠ 0) then f.s + n.setWidth 10 else f.s
    a := if stepsA r op f then f.a + n else f.a
    b := if stepsB r op f then f.b + n else f.b
    la := f.la && (stepsA r op f || final)
    lb := f.lb && (op.converts || stepsB r op f || final) }

/-- Whether a repeat after the first names a register above 255 or takes a field to a value that its entry does not allow (02 R28, R41; log 23). -/
def badSteps (r : RepArgs) (op : FOp) (f : FArgs) : Bool :=
  let n := r.count.toNat * 2 ^ r.stride.toNat
  badOperands op f (if r.sd then n else 0) (if r.sa then n else 0) (if r.sb then n else 0) ||
  (r.sd && op.hasD f && decide (255 < f.d.toNat + n)) || (stepsB r op f && decide (255 < f.b.toNat + n)) ||
  (List.range r.count.toNat).any (fun k =>
    let g := stepFields r op f (k + 1)
    badFields op g || badOperands op g 0 0 0)

/-- What stands wrong with a REP-prefixed F word: operands are judged on every repeat (02 R41). -/
def illegalRep (r : RepArgs) (op : FOp) (f : FArgs) : Option StopCause := firstFault (badFields op f) (badSteps r op f)

/-! ## The other formats -/

/-- Check 6 and 7 of an S word: D, A and B name `d`, `an` and `bn` scalars (0 for none), IMM16 passes `imm`, and
`rest` is any further breach of check 7. -/
def illegalScalars (a : SArgs) (d an bn : Nat) (imm : Bool) (rest : Bool) : Option StopCause :=
  let fits := fun (k : BitVec 10) (n : Nat) => n = 0 || k.toNat + n ≤ 1024
  firstFault
    ((d = 0 && a.d ≠ 0) || (an = 0 && (a.a ≠ 0 || a.la)) || (bn = 0 && (a.b ≠ 0 || a.lb)) || !imm)
    (!(fits a.d d && fits a.a an && fits a.b bn) || rest)

/-- A barrier reference or a count that is a scalar or, with A = 0x3FF, the immediate (08 R186, R189; 12 R268;
13 R289; 16 R359). -/
def illegalRef (a : SArgs) (d bn : Nat) (immOk : Bool) : Option StopCause :=
  if a.a = 0x3FF then
    firstFault ((d = 0 && a.d ≠ 0) || a.la || (bn = 0 && (a.b ≠ 0 || a.lb)) || !immOk)
      (!(d = 0 || a.d.toNat + d ≤ 1024))
  else illegalScalars a d 1 bn (a.imm = 0) false

/-- What stands wrong with an S word, by OPC (05 R131–R135; 08 R189; 12 R267–R269; 13 R289; 14 R325; 15 R335;
16 R359, R372). -/
def illegalS (o : Nat) (a : SArgs) : Option StopCause :=
  let z := a.imm = 0
  let i := a.imm.toNat
  match o with
  | 0x001 => illegalScalars a 1 1 0 z false
  | 0x002 | 0x003 => illegalScalars a 1 0 0 true false
  | 0x005 | 0x00D | 0x00E | 0x00F | 0x013 | 0x014 | 0x015 => illegalScalars a 1 1 0 true false
  | 0x004 | 0x006 | 0x007 | 0x008 | 0x009 | 0x00A | 0x00B | 0x00C | 0x010 | 0x011 | 0x012 | 0x019 | 0x01A | 0x01B
  | 0x01C => illegalScalars a 1 1 1 z false
  | 0x016 => illegalScalars a 1 1 1 (i ≤ 5) false
  | 0x017 => firstFault (a.b.toNat > 5 || a.lb) false
  | 0x018 => illegalScalars a 1 1 1 (i < 1024) false
  | 0x01D | 0x01E | 0x01F => illegalScalars a 1 (1 + i % 2) 0 (i ≤ 1) false
  | 0x020 | 0x021 => illegalScalars a 2 2 2 z false
  | 0x022 => illegalScalars a 2 2 0 z false
  | 0x023 | 0x024 => illegalScalars a 2 2 1 z false
  | 0x025 => illegalScalars a 2 0 0 (i < 8) false
  | 0x026 => illegalScalars a 0 2 0 (i < 8) (i % 8 = 0)
  | 0x027 => illegalScalars a (if wideSpecial i then 2 else 1) 0 0 true (!isSpecial i || i ≤ 2)
  | 0x028 => illegalScalars a 0 1 0 true (!(i = 0x13 || i = 0x1A))
  | 0x029 => firstFault (a.d ≠ 0 || !z || a.la || a.lb) (decide (a.b < a.a))
  | 0x040 => firstFault (a.b ≠ 0 || a.la || a.lb) (!(a.a = 0x3FF || a.a ≤ 4))
  | 0x041 => firstFault (a.d ≠ 0 || a.la) (!(a.a = 0x3FF || a.a ≤ 4))
  | 0x042 | 0x043 => firstFault a.la (!(a.a = 0x3FF || a.a ≤ 4))
  | 0x044 => firstFault (a.a ≠ 0x3FF || !z || a.la) false
  | 0x045 => illegalScalars a 0 0 0 z false
  | 0x294 => illegalScalars a 0 0 0 z false
  | 0x295 => illegalRef a 0 0 true
  | 0x296 =>
    if a.b = 0x3FF then firstFault (a.d ≠ 0 || !z || a.lb) (!decide (a.a.toNat + 2 ≤ 1024))
    else illegalScalars a 0 2 2 z false
  | 0x300 | 0x302 => illegalRef a 1 1 true
  | 0x301 | 0x303 | 0x304 => illegalRef a 1 0 true
  | 0x308 => illegalScalars a 1 2 2 z false
  | 0x30C => illegalScalars a 1 2 0 z false
  | 0x30D => illegalScalars a 3 0 0 z false
  | 0x30E => illegalScalars a 3 1 0 z false
  | 0x30F => illegalRef a 1 0 z
  | 0x310 => illegalScalars a 2 2 0 z false
  | 0x318 => illegalRef a 1 0 (i ≤ 3)
  | 0x319 => illegalScalars a 0 0 0 z false
  | 0x31C | 0x31D => illegalScalars a 1 2 1 z false
  | 0x320 => illegalScalars a 2 0 0 z false
  | _ => none

/-- What stands wrong with an SM word (02 R32, R34; 09 R210). `o` is the OPC. -/
def illegalSm (o : Nat) (a : SmArgs) : Option StopCause :=
  let load := o < 0x234
  let n := if o = 0x232 then 4 else if o % 2 = 1 then 2 else 1
  firstFault
    (a.scope = 7 || (a.ord ≠ 0 && a.scope = 0) || (load && a.ord = 2) || (!load && a.ord = 1) || (load && a.lb) ||
      (a.a = 0x3FF && (!load || a.la)))
    (a.a = 0x3FE || !decide (a.d.toNat + n ≤ 1024))

/-- What stands wrong with a C word, by OPC (02 R33; 04 R101, R109; 15 R344). The fields [27:4] are `j`. -/
def illegalC (o : Nat) (c : CArgs) : Option StopCause :=
  let t := c.t.toNat
  let j := c.j.toNat
  let k := c.k.toNat
  match o with
  | 0x030 => firstFault (j ≠ 0 || k ≠ 0 || c.p) false
  | 0x031 | 0x033 => firstFault (k = 0) (j = 0)
  | 0x032 => firstFault (j % 2 ^ 14 ≠ 0 || k > 5 || c.p) false
  | 0x034 => firstFault (j % 2 ^ 16 ≠ 0 || k ≠ 0 || c.p) (j / 2 ^ 16 = 255)
  | 0x035 => firstFault (t ≠ 0 || j % 256 ≠ 0 || k ≠ 0) (j / 2 ^ 16 = 255 || j / 256 % 256 = 255)
  | 0x036 => firstFault (t ≠ 0 || j / 2 ^ 16 ≠ 0 || j % 256 ≠ 0 || k ≠ 0) (j / 256 % 256 = 255)
  | 0x037 => firstFault (t ≠ 0 || j > 4 || k ≠ 0 || c.p) false
  | 0x039 => firstFault ((j / 2 ^ 14 ≠ 0x3FF && j % 2 ^ 14 ≠ 0) || k ≠ 0 || c.p) (!decide (0 < c.t.toInt))
  | 0x03A => firstFault (t ≠ 0 || j ≠ 0) false
  | 0x03C => firstFault (j % 2 ^ 16 ≠ 0 || k ≠ 0 || c.p) false
  | 0x03D => firstFault (t ≠ 0 || k ≠ 0 || c.p) false
  | _ => firstFault (t ≠ 0 || j ≠ 0 || k ≠ 0 || c.p) false

/-- What stands wrong with an MWB prefix (02 R43). -/
def badMwb (w : Mwb) : Bool :=
  (w.ka = 0 && w.ta ≠ 0) || (w.kb = 0 && w.tb ≠ 0) || (w.ka = 0 && w.kb ≠ 0)

/-- Registers or scalars fit from a first name. -/
def fitsIn (k n lim : Nat) : Bool := k + n ≤ lim

/-- What stands wrong with a memory access word (02 R34; 08 R179–R182; 09 R208–R212): `nd` and `nb` registers of
destination and data, `pair` whether A and S are pairs. -/
def illegalAccess (a : MArgs) (load store scratch priv atom pair : Bool) (nd nb : Nat) : Option StopCause :=
  firstFault
    ((a.a = 0xFF && a.s = 0x3FF) || (a.ord ≠ 0 && a.scope = 0) || a.scope = 7 || (load && a.ord = 2) ||
      (store && a.ord = 1) || (scratch && 3 < a.scope) || (priv && 1 < a.scope) ||
      (a.ms && !(load && !scratch)) || (load && a.b ≠ 0) || (store && a.d ≠ 0) || (a.ef && (scratch || atom)))
    (!((nd = 0 || fitsIn a.d.toNat nd 256) && (nb = 0 || fitsIn a.b.toNat nb 256) &&
      (!pair || ((a.a = 0xFF || fitsIn a.a.toNat 2 256) && (a.s = 0x3FF || fitsIn a.s.toNat 2 1024)))))

/-- Registers a load of a size writes. -/
def LoadSize.regs : LoadSize → Nat
  | .b64 => 2 | .b128 => 4 | _ => 1

/-- Registers a store of a size reads. -/
def StoreSize.regs : StoreSize → Nat
  | .b64 => 2 | .b128 => 4 | _ => 1

/-- Registers of an atomic's data: a compare-and-swap takes the compare and the new value (09 R211, 08 R182). -/
def atomRegs (wide cas : Bool) : Nat := (if wide then 2 else 1) * (if cas then 2 else 1)

/-- Fields of the fences, which form no address (10 R226, R228; 12 R262). -/
def illegalFence (a : MArgs) (plain : Bool) : Option StopCause :=
  firstFault
    (a.d ≠ 0 || a.b ≠ 0 || a.off ≠ 0 || a.la || a.ms || a.ef || a.a ≠ 0xFF || a.s ≠ 0x3FF ||
      (if plain then a.scope = 0 || a.scope = 7 else a.scope ≠ 0 || a.ord ≠ 0 || a.g ≠ 0)) false

/-- Fields of the copy instructions (12 R254): `rows` for CPYG and CPYS, `n` scalars of operands, `dOk` whether D is
one the entry gives. -/
def illegalCopy (a : MArgs) (rows dOk : Bool) (n : Nat) : Option StopCause :=
  firstFault
    (!dOk || a.b ≠ 0 || a.off ≠ 0 || a.scope ≠ 0 || a.ord ≠ 0 || a.ms ||
      (!rows && (a.a ≠ 0xFF || a.g ≠ 0 || a.la)))
    (!fitsIn a.s.toNat n 1024 || (rows && !fitsIn a.a.toNat 2 256))

/-- What stands wrong with an M word, by OPC. -/
def illegalM (o : Nat) (a : MArgs) : Option StopCause :=
  let low := o % 8
  let ld := if low = 5 then 2 else if low = 6 then 4 else 1
  let st := if low = 3 then 2 else if low = 4 then 4 else 1
  if 0x200 ≤ o ∧ o ≤ 0x206 then illegalAccess a true false false false false true ld 0
  else if 0x208 ≤ o ∧ o ≤ 0x20C then illegalAccess a false true false false false true 0 st
  else if 0x210 ≤ o ∧ o ≤ 0x216 then illegalAccess a true false true false false false ld 0
  else if 0x218 ≤ o ∧ o ≤ 0x21C then illegalAccess a false true true false false false 0 st
  else if 0x220 ≤ o ∧ o ≤ 0x226 then illegalAccess a true false false true false false ld 0
  else if 0x228 ≤ o ∧ o ≤ 0x22C then illegalAccess a false true false true false false 0 st
  else if 0x238 ≤ o ∧ o ≤ 0x243 then
    illegalAccess a false false false false true true (atomRegs false false) (atomRegs false (o = 0x241))
  else if 0x248 ≤ o ∧ o ≤ 0x252 then
    illegalAccess a false false false false true true (atomRegs true false) (atomRegs true (o = 0x251))
  else if 0x258 ≤ o ∧ o ≤ 0x25F then
    illegalAccess a false false true false true false 1 (atomRegs false (o = 0x25F))
  else match o with
    | 0x260 => illegalFence a true
    | 0x261 | 0x262 => illegalFence a false
    | 0x264 =>
      firstFault ((a.a = 0xFF && a.s = 0x3FF) || a.d ≠ 0 || a.b ≠ 0 || a.scope ≠ 0 || a.ord ≠ 0 || a.la || a.ms)
        (!((a.a = 0xFF || fitsIn a.a.toNat 2 256) && (a.s = 0x3FF || fitsIn a.s.toNat 2 1024)))
    | 0x290 => illegalCopy a false (a.d = 0 || a.d = 4 || a.d = 1 || a.d = 5) 6
    | 0x291 => illegalCopy a false (a.d ≤ 1) 8
    | 0x292 => illegalCopy a false (a.d = 0) 6
    | 0x293 => illegalCopy a false (a.d = 0) 7
    | 0x297 | 0x298 => illegalCopy a true (a.d = 0) 3
    | _ => none

/-- N of a tile (11 R246). -/
def XArgs.n (x : XArgs) : Nat := 64 * 2 ^ x.nsz.toNat

/-- What stands wrong with the fields of an MMA, less SA (11 R246): `scaled` and `i8` by its form. -/
def illegalMma (x : XArgs) (scaled i8 : Bool) : Option StopCause :=
  firstFault (x.nsz = 3 || (!scaled && !i8 && x.sc ≠ 0) || (i8 && 3 < x.sc)) (!fitsIn x.a.toNat 8 256)

/-- What stands wrong with an MX word as a wave issues it, by OPC (11 R246–R249). -/
def illegalX (o : Nat) (x : XArgs) : Option StopCause :=
  let moved := x.nsz = 3 || x.s ≠ 0 || x.acc || x.tb || x.ru || x.sa
  match o with
  | 0x280 | 0x281 | 0x282 | 0x283 | 0x284 => if x.sa then some .illegalEncoding else illegalMma x false false
  | 0x285 | 0x286 => if x.sa then some .illegalEncoding else illegalMma x true false
  | 0x287 => if x.sa then some .illegalEncoding else illegalMma x false true
  | 0x288 => firstFault (moved || 31 < x.sc || x.la) (!fitsIn x.a.toNat 8 256 || x.n / 8 ≤ x.sc.toNat)
  | 0x289 => firstFault (moved || 31 < x.sc) (!fitsIn x.a.toNat 8 256 || x.n / 8 ≤ x.sc.toNat)
  | 0x28A => firstFault (moved || x.la || x.a ≠ 0 || x.sc ≠ 0) false
  | 0x28B =>
    firstFault (x.nsz = 3 || (x.tb && x.ru) || x.sa || x.la || x.a ≠ 0 || x.sc ≠ 0) (!fitsIn x.s.toNat 2 1024)
  | 0x28C =>
    firstFault (x.nsz ≠ 0 || x.acc || x.tb || x.ru || x.sa || x.la || x.a ≠ 0 || x.sc ≠ 0 || x.s ≠ 0 ||
      x.acc12.toNat ≥ 512 || (x.acc12.toNat ≥ 256 && x.acc12.toNat % 256 ≠ 0)) false
  | _ => none

/-! ## The pair frame (02 R36–R39) -/

/-- The F opcode of POP[5:0]; NOP (0) apart. -/
def popOp : Nat → Option FOp
  | 0x01 => some .iadd | 0x02 => some .isub | 0x03 => some .imul | 0x04 => some .vand | 0x05 => some .vor
  | 0x06 => some .vxor | 0x07 => some .shl | 0x08 => some .shr | 0x09 => some .sra | 0x0A => some .imin
  | 0x0B => some .imax | 0x0C => some .mov | 0x0D => some .imad | 0x10 => some .fadd | 0x11 => some .fsub
  | 0x12 => some .fmul | 0x13 => some .ffma | 0x14 => some .fmin | 0x15 => some .fmax | 0x18 => some .hadd2
  | 0x19 => some .hmul2 | 0x1A => some .hfma2 | 0x1B => some .badd2 | 0x1C => some .bmul2 | 0x1D => some .bfma2
  | _ => none

/-- POP[5:0]. -/
def Half.code (h : Half) : Nat := h.pop.toNat % 64

/-- POP[6]: the B field is an immediate. -/
def Half.isImm (h : Half) : Bool := h.pop.toNat ≥ 64

/-- Whether a half is NOP. -/
def Half.isNop (h : Half) : Bool := h.code = 0

/-- The register sources a half names, D included for the multiply-add halves (02 R39). -/
def Half.reads (h : Half) : List Nat :=
  match popOp h.code with
  | none => []
  | some op =>
    (if op = .mov then [] else [h.a.toNat]) ++ (if h.isImm then [] else [h.b.toNat]) ++
      (if op.cCount ≠ 0 then [h.d.toNat] else [])

/-- Whether a half is reserved, or has a nonzero field that must be 0 (02 R37, R39). -/
def badHalf (h : Half) : Bool :=
  if h.isNop then h.pop ≠ 0 || h.d ≠ 0 || h.a ≠ 0 || h.b ≠ 0
  else match popOp h.code with
    | none => true
    | some op => op = .mov && h.a ≠ 0

/-- Check 5 of R28: a breach of the pair rules (02 R39). -/
def badPair (h0 h1 : Half) : Bool :=
  badHalf h0 || badHalf h1 ||
  (!h0.isNop && !h1.isNop && h0.d.toNat % 4 = h1.d.toNat % 4) ||
  (List.range 4).any (fun k => decide (2 < ((h0.reads ++ h1.reads).filter (fun r => r % 4 = k)).length)) ||
  (!h0.isNop && (h1.reads.contains h0.d.toNat || (!h1.isNop && h1.d = h0.d)))

/-! ## Checks of a whole instruction -/

/-- An instruction with the operands that do not stand in its constructor, and its number of words. -/
structure Decoded where
  instr : Instr
  aux : Option Aux := none
  deriving DecidableEq, Repr

/-- The first of checks 5 to 7 of R28 that an instruction of the opcode map fails. -/
def Decoded.illegal (x : Decoded) : Option StopCause :=
  match x.aux with
  | some { rep := some r, op := op, f := f } => illegalRep r op f
  | some { rep := none, op := op, f := f } => illegalF op f
  | none =>
    match x.instr with
    | .pair h0 h1 => if badPair h0 h1 then some .illegalPair else none
    | i =>
      match i.asF with
      | some (op, f) => illegalF op f
      | none =>
        match i.asS with
        | some (o, a) => illegalS o.toNat a
        | none =>
          match i.asC with
          | some (o, c, _) => illegalC o.toNat c
          | none =>
            match i.asSm with
            | some (o, a) => illegalSm o.toNat a
            | none =>
              match i.asM with
              | some (o, a) => illegalM o.toNat a
              | none =>
                match i.asX with
                | some (o, x) => illegalX o.toNat x
                | none => none

/-- The opcodes a service core executes, by OPC (16 R367). -/
def svcOpc (o : Nat) : Bool :=
  o ≤ 0x024 || o = 0x027 || o = 0x030 || o = 0x032 || o = 0x03D || o = 0x03E || (0x040 ≤ o && o ≤ 0x045) ||
  (0x230 ≤ o && o ≤ 0x235)

/-- Whether a core of the kind executes the opcode: check 4 of R28 (02 R51). -/
def opcHere (svc : Bool) (o : Nat) : Bool := if svc then svcOpc o else !(0x040 ≤ o && o ≤ 0x045)

/-! ## Words -/

/-- Frame kind (02 R26). -/
def frameOf (w : Dword) : Nat := (w.extractLsb' 62 2).toNat

/-- OPC (02 R29). -/
def opcOf (w : Dword) : Nat := (w.extractLsb' 52 10).toNat

/-- A bit of a word. -/
def bitOf (w : Dword) (k : Nat) : Bool := w.getLsbD k

/-- One bit as a field. -/
def bit1 (b : Bool) : BitVec 1 := BitVec.ofBool b

/-- The fields of an F word (02 R29). -/
def fieldsF (w : Dword) (limm : Option Word) : FArgs :=
  { d := w.extractLsb' 44 8, a := w.extractLsb' 36 8, b := w.extractLsb' 28 8, s := w.extractLsb' 18 10,
    mod := w.extractLsb' 7 11, rx := bitOf w 6, g := w.extractLsb' 3 3, la := bitOf w 2, lb := bitOf w 1,
    bs := bitOf w 0, limm := limm }

/-- An F word (02 R29). -/
def wordF (o : BitVec 10) (f : FArgs) : Dword :=
  0#2 ++ o ++ f.d ++ f.a ++ f.b ++ f.s ++ f.mod ++ bit1 f.rx ++ f.g ++ bit1 f.la ++ bit1 f.lb ++ bit1 f.bs

/-- The fields of an S word (02 R31). -/
def fieldsS (w : Dword) : SArgs :=
  { d := w.extractLsb' 42 10, a := w.extractLsb' 32 10, b := w.extractLsb' 22 10, imm := w.extractLsb' 6 16,
    la := bitOf w 2, lb := bitOf w 1 }

/-- An S word (02 R31). -/
def wordS (o : BitVec 10) (a : SArgs) : Dword :=
  0#2 ++ o ++ a.d ++ a.a ++ a.b ++ a.imm ++ 0#3 ++ bit1 a.la ++ bit1 a.lb ++ 0#1

/-- The fields of an SM word (02 R32). -/
def fieldsSm (w : Dword) : SmArgs :=
  { d := w.extractLsb' 42 10, a := w.extractLsb' 32 10, scope := w.extractLsb' 29 3, ord := w.extractLsb' 27 2,
    imm := w.extractLsb' 6 16, la := bitOf w 2, lb := bitOf w 1 }

/-- An SM word (02 R32). -/
def wordSm (o : BitVec 10) (a : SmArgs) : Dword :=
  0#2 ++ o ++ a.d ++ a.a ++ a.scope ++ a.ord ++ 0#5 ++ a.imm ++ 0#3 ++ bit1 a.la ++ bit1 a.lb ++ 0#1

/-- The fields of a C word (02 R33). -/
def fieldsC (w : Dword) : CArgs :=
  { t := w.extractLsb' 28 24, j := w.extractLsb' 4 24, k := w.extractLsb' 1 3, p := bitOf w 0 }

/-- A C word (02 R33). -/
def wordC (o : BitVec 10) (c : CArgs) : Dword := 0#2 ++ o ++ c.t ++ c.j ++ c.k ++ bit1 c.p

/-- The fields of an M word (02 R34). -/
def fieldsM (w : Dword) : MArgs :=
  { d := w.extractLsb' 44 8, a := w.extractLsb' 36 8, b := w.extractLsb' 28 8, s := w.extractLsb' 18 10,
    off := w.extractLsb' 11 7, scope := w.extractLsb' 8 3, ord := w.extractLsb' 6 2, g := w.extractLsb' 3 3,
    la := bitOf w 2, ms := bitOf w 1, ef := bitOf w 0 }

/-- An M word (02 R34). -/
def wordM (o : BitVec 10) (a : MArgs) : Dword :=
  0#2 ++ o ++ a.d ++ a.a ++ a.b ++ a.s ++ a.off ++ a.scope ++ a.ord ++ a.g ++ bit1 a.la ++ bit1 a.ms ++ bit1 a.ef

/-- The fields of an MX word (02 R35). -/
def fieldsX (w : Dword) : XArgs :=
  { nsz := w.extractLsb' 50 2, acc := bitOf w 49, tb := bitOf w 48, ru := bitOf w 47, sa := bitOf w 46,
    a := w.extractLsb' 36 8, sc := w.extractLsb' 28 8, s := w.extractLsb' 18 10, acc12 := w.extractLsb' 6 12,
    la := bitOf w 2 }

/-- An MX word (02 R35). -/
def wordX (o : BitVec 10) (x : XArgs) : Dword :=
  0#2 ++ o ++ x.nsz ++ bit1 x.acc ++ bit1 x.tb ++ bit1 x.ru ++ bit1 x.sa ++ 0#2 ++ x.a ++ x.sc ++ x.s ++ x.acc12 ++
    0#3 ++ bit1 x.la ++ 0#2

/-- A half of a pair frame at a bit position (02 R36). -/
def fieldsHalf (w : Dword) (base : Nat) : Half :=
  { pop := w.extractLsb' (base + 24) 7, d := w.extractLsb' (base + 16) 8, a := w.extractLsb' (base + 8) 8,
    b := w.extractLsb' base 8 }

/-- A pair frame (02 R36). -/
def wordPair (h0 h1 : Half) : Dword :=
  1#2 ++ h0.pop ++ h0.d ++ h0.a ++ h0.b ++ h1.pop ++ h1.d ++ h1.a ++ h1.b

/-- The fields of a REP prefix (02 R41). -/
def fieldsRep (w : Dword) : RepArgs :=
  { count := w.extractLsb' 50 6, sd := bitOf w 49, sa := bitOf w 48, sb := bitOf w 47, stride := w.extractLsb' 44 3 }

/-- A REP prefix (02 R41). -/
def wordRep (r : RepArgs) : Dword :=
  2#2 ++ 1#6 ++ r.count ++ bit1 r.sd ++ bit1 r.sa ++ bit1 r.sb ++ r.stride ++ 0#44

/-- A LIMM prefix (02 R42). -/
def wordLimm (v : Word) : Dword := 2#2 ++ 2#6 ++ v ++ 0#24

/-- The fields of an MWB prefix (02 R43). -/
def fieldsMwb (w : Dword) : Mwb :=
  { ka := w.extractLsb' 53 3, ta := w.extractLsb' 29 24, kb := w.extractLsb' 26 3, tb := w.extractLsb' 2 24 }

/-- An MWB prefix (02 R43). -/
def wordMwb (m : Mwb) : Dword := 2#2 ++ 3#6 ++ m.ka ++ m.ta ++ m.kb ++ m.tb ++ 0#2

/-! ## Prefixes (02 R40–R44) -/

/-- The prefixes gathered before an instruction's last word. -/
structure Prefixes where
  rep : Option RepArgs := none
  limm : Option Word := none
  mwbs : List Mwb := []
  deriving DecidableEq, Repr

/-- Adds one prefix word, in the order REP, LIMM, MWB and within the counts of R44; none is a prefix fault. -/
def Prefixes.add (p : Prefixes) (w : Dword) : Option Prefixes :=
  match (w.extractLsb' 56 6).toNat with
  | 1 => if p.rep.isNone && p.limm.isNone && p.mwbs.isEmpty && w.extractLsb' 0 44 = 0 then
      some { p with rep := some (fieldsRep w) } else none
  | 2 => if p.limm.isNone && p.mwbs.isEmpty && w.extractLsb' 0 24 = 0 then
      some { p with limm := some (w.extractLsb' 24 32) } else none
  | 3 => if p.mwbs.length < 2 && w.extractLsb' 0 2 = 0 && !badMwb (fieldsMwb w) then
      some { p with mwbs := p.mwbs ++ [fieldsMwb w] } else none
  | _ => none

/-- Gathers the prefix words at the head of a list (four at most, 02 R27): the prefixes, whether they are free of
faults, how many there are, and the words left. -/
def takePrefixes : Nat → Prefixes → Bool → Nat → List Dword → Prefixes × Bool × Nat × List Dword
  | 0, p, ok, n, ws => (p, ok, n, ws)
  | _ + 1, p, ok, n, [] => (p, ok, n, [])
  | fuel + 1, p, ok, n, w :: ws =>
    if frameOf w = 2 then
      match p.add w with
      | some q => takePrefixes fuel q ok (n + 1) ws
      | none => takePrefixes fuel p false (n + 1) ws
    else (p, ok, n, w :: ws)

/-- Whether the prefixes may precede the word (check 3 of R28): only a P frame and an assigned OPC are judged. -/
def prefixesFit (p : Prefixes) (w : Dword) : Bool :=
  if frameOf w = 1 then p.rep.isNone && p.limm.isNone && p.mwbs.isEmpty
  else
    match fopOf (opcOf w) with
    | some op =>
      let bs := bitOf w 0
      let roled := decide (op.cCount ≠ 0) || decide (op.namedScalars ≠ 0)
      p.mwbs.isEmpty && (p.limm.isNone || bs || roled) && !(roled && bs && p.limm.isNone) &&
        !(!roled && bs && p.limm.isSome && w.extractLsb' 18 10 ≠ 0)
    | none => p.rep.isNone && p.limm.isNone && (p.mwbs.isEmpty || opcOf w = 0x033)

/-- Whether the bits of an S or SM word that have no field are 0 (02 R31, R32), and those of an MX word (R35). -/
def spareZero (fmt : Nat) (w : Dword) : Bool :=
  match fmt with
  | 0 => w.extractLsb' 3 3 = 0 && w.extractLsb' 0 1 = 0
  | 1 => w.extractLsb' 22 5 = 0 && w.extractLsb' 3 3 = 0 && w.extractLsb' 0 1 = 0
  | _ => w.extractLsb' 44 2 = 0 && w.extractLsb' 3 3 = 0 && w.extractLsb' 0 2 = 0

/-- Whether the opcode map assigns an OPC (02 R50, R51). -/
def opcAssigned (o : Nat) : Bool :=
  o = 0 || (fopOf o).isSome || (Instr.ofS zeroS o).isSome || (Instr.ofC zeroC [] o).isSome ||
  (Instr.ofM fenceArgs o).isSome ||
  (Instr.ofSm zeroSm o).isSome || (Instr.ofX zeroX o).isSome

/-- An instruction unless its fields are illegal. -/
def checked (bad : Option StopCause) (x : Decoded) : Except StopCause Decoded :=
  match bad with
  | some c => .error c
  | none => .ok x

/-- An instruction of a format whose spare bits must be 0. -/
def unlessSpare (spare : Bool) (bad : Option StopCause) (i : Instr) : Except StopCause Decoded :=
  if spare then checked bad { instr := i } else .error .illegalEncoding

/-- The F instruction of an opcode, its fields and its REP prefix. Four leave their operands beside the
constructor. -/
def Decoded.ofF (rep : Option RepArgs) (op : FOp) (f : FArgs) : Decoded :=
  match rep with
  | some r => { instr := .repRepeat, aux := some { rep := some r, op := op, f := f } }
  | none =>
    if (Instr.ofF f op).asF.isSome then { instr := Instr.ofF f op }
    else { instr := Instr.ofF f op, aux := some { op := op, f := f } }

/-- The instruction of a frame-0b00 word and its prefixes, after checks 6 and 7 on its fields. -/
def parseMain (p : Prefixes) (w : Dword) : Except StopCause Decoded :=
  let o := opcOf w
  if o = 0 then (if w = 0 then .ok { instr := .nop } else .error .illegalEncoding)
  else match fopOf o with
    | some op =>
      let f := fieldsF w p.limm
      let bad := match p.rep with
        | some r => illegalRep r op f
        | none => illegalF op f
      checked bad (Decoded.ofF p.rep op f)
    | none =>
      match Instr.ofS (fieldsS w) o with
      | some i => unlessSpare (spareZero 0 w) (illegalS o (fieldsS w)) i
      | none =>
        match Instr.ofC (fieldsC w) p.mwbs o with
        | some i => checked (illegalC o (fieldsC w)) { instr := i }
        | none =>
          match Instr.ofSm (fieldsSm w) o with
          | some i => unlessSpare (spareZero 1 w) (illegalSm o (fieldsSm w)) i
          | none =>
            match Instr.ofM (fieldsM w) o with
            | some i => checked (illegalM o (fieldsM w)) { instr := i }
            | none =>
              match Instr.ofX (fieldsX w) o with
              | some i => unlessSpare (spareZero 2 w) (illegalX o (fieldsX w)) i
              | none => .error .illegalOpcode

/-- Attaches the number of words. -/
def withCount (n : Nat) : Except StopCause Decoded → Except StopCause (Decoded × Nat)
  | .error c => .error c
  | .ok x => .ok (x, n)

/-- The decoder: the instruction of the words from its first word on, and how many words it has; or the decoding
fault that comes first in the order of R28. Running out of words is check 1: they extend past the segment. -/
def decodeOn (svc : Bool) (ws : List Dword) : Except StopCause (Decoded × Nat) :=
  match takePrefixes 4 {} true 0 ws with
  | (_, _, _, []) => .error .fetchSegment
  | (p, ok, n, w :: _) =>
    if 2 ≤ frameOf w then .error .illegalEncoding
    else
      let unassigned := frameOf w = 0 && !opcAssigned (opcOf w)
      if !ok || (!unassigned && !prefixesFit p w) then .error .illegalEncoding
      else if frameOf w = 1 then
        if svc then .error .illegalOpcode
        else
          let h0 := fieldsHalf w 31
          let h1 := fieldsHalf w 0
          withCount (n + 1) (checked (if badPair h0 h1 then some .illegalPair else none) { instr := .pair h0 h1 })
      else if unassigned || !opcHere svc (opcOf w) then .error .illegalOpcode
      else withCount (n + 1) (parseMain p w)

/-- Decoding on an Oltus core. -/
def decode (ws : List Dword) : Except StopCause (Decoded × Nat) := decodeOn false ws

/-! ## The encoder -/

/-- The LIMM prefix of an F word, when it has one. -/
def limmWords (f : FArgs) : List Dword :=
  match f.limm with
  | some v => [wordLimm v]
  | none => []

/-- The words of an instruction of the opcode map; the events of the device's units have none. -/
def encode (x : Decoded) : List Dword :=
  match x.aux with
  | some { rep := some r, op := op, f := f } => wordRep r :: limmWords f ++ [wordF op.code f]
  | some { rep := none, op := op, f := f } => limmWords f ++ [wordF op.code f]
  | none =>
    match x.instr with
    | .nop => [0]
    | .pair h0 h1 => [wordPair h0 h1]
    | i =>
      match i.asF with
      | some (op, f) => limmWords f ++ [wordF op.code f]
      | none =>
        match i.asS with
        | some (o, a) => [wordS o a]
        | none =>
          match i.asC with
          | some (o, c, ms) => ms.map wordMwb ++ [wordC o c]
          | none =>
            match i.asSm with
            | some (o, a) => [wordSm o a]
            | none =>
              match i.asM with
              | some (o, a) => [wordM o a]
              | none =>
                match i.asX with
                | some (o, y) => [wordX o y]
                | none => []

/-! ## Words as bits (the host's table numbering) -/

/-- The 64-bit words of an instruction whose bits are `w`, bit 0 the least significant bit of the first word: five
words, the longest instruction. -/
def tableWords (w : Nat) : List Dword :=
  (List.range 5).map (fun k => BitVec.ofNat 64 (w / 2 ^ (64 * k)))

/-- The instruction the decoder reads from `nbits` bits, the bits above being 0. CSRRD to EVRET are read as a service
core reads them, every other word as an Oltus core does. -/
def decodeTableWord (nbits w : Nat) : Option Instr :=
  let ws := tableWords (w % 2 ^ nbits)
  match decodeOn false ws with
  | .ok (x, _) => some x.instr
  | .error _ =>
    match decodeOn true ws with
    | .ok (x, _) => some x.instr
    | .error _ => none

end Sys2Proof
end

