-- ==== Sys2Proof/Machine/State.lean ====
section
/-! DEFINITION. The state of the module as plain data: waves and their splits, groups, launches, cores, dies, the
hub, the service cores and the link; the machine right after reset. -/

namespace Sys2Proof.Machine

/-- A reason to stop with a fault. The model takes every stop of the spec as a next state (14 R301), so one reason
remains. -/
inductive Fault where
  /-- Raised by no meaning of this model; kept so that the type has an element. Safe. -/
  | stuck
  deriving DecidableEq, Repr

/-- A reason to refuse an instruction. -/
inductive Refusal where
  /-- Raised by the arms of `exec` that have no meaning yet. Safe. -/
  | notModelled (mnemonic : String)
  deriving DecidableEq, Repr

/-- A loop-stack entry (04 R88, R109). -/
structure LoopEntry where
  start : Dword := 0
  stop : Dword := 0
  count : Word := 0
  depth : BitVec 16 := 0
  deriving DecidableEq, Repr

/-- A wait that a split has begun in BWAIT or BSYNC (08 R187, R189): the barrier by its group and place, the token, whether the reference gave
cluster scope, and whether the phase flipped before the barrier was abandoned, so that the wait is complete (08 R191, R192). -/
structure BarWait where
  grp : Nat
  index : Nat
  token : Bool := false
  cluster : Bool := false
  flipped : Bool := false
  deriving DecidableEq, Repr

/-- Who waits for words that it reads one by one (10 R216): a split for a record or templates (13 R293; 17 R374), a lane's query for a structure
(18 R406), a die's task queue for its oldest template (13 R292), a launch for its code object (02 R57), a pass's binning unit, or the tile
engine of a core for a tile of the pass (17 R393). -/
inductive Reader where
  | split (core wave k : Nat)
  | query (core wave lane : Nat)
  | task (die ctx : Nat)
  | code (launch : Nat)
  | bin (die slot : Nat)
  | tile (die slot core : Nat)
  deriving DecidableEq, Repr

/-- What a reader has read so far, by address, and its one access to a window of another device that awaits an answer (19 R414): at which address, or
at which it failed, or whether what it wrote is there. -/
structure Reads where
  words : Table (Option Word) := []
  asked : Option Nat := none
  failed : Option Nat := none
  wrote : Bool := false
  deriving DecidableEq, Repr

/-- A split entry or the context of a deferred path (04 R88, R89). `sseen` lists, for a scalar that several splits have written, the writes
that the split has seen, the last one current (04 R87; 0 is the value from before them). `spare` holds what the state window has written to
loop entries that are not in use (14 R308). `moved` is whether the instruction that issues has moved it, and is
false between steps. -/
structure Split where
  pc : Dword := 0
  lanes : Dword := 0
  depth : BitVec 16 := 0
  tag : Nat := 0
  rejoin : Dword := 0
  rdepth : BitVec 16 := 0
  loops : List LoopEntry := []
  spare : Table LoopEntry := []
  rep : BitVec 6 := 0
  masks : Table Dword := []
  frm : BitVec 3 := 0
  sig : Word := 0
  timer : BitVec 20 := 0
  miss : Option Nat := none
  yld : Bool := false
  yldLeft : Nat := 0
  young : Bool := false
  state : Nat := 0
  before : Nat := 0
  ready : Nat := 0
  promoted : Bool := false
  repRun : Dword := 0
  repFrm : BitVec 3 := 0
  bar : Option BarWait := none
  waitsAt : Bool := false
  missWait : Bool := false
  rayWait : Option Nat := none
  skipBp : Bool := false
  asked : Bool := false
  reads : Reads := {}
  sseen : Table (List Nat) := []
  moved : Bool := false
  deriving DecidableEq, Repr

/-- One group of a divergent instruction: its lanes and its next context (PC set, loop stack unwound). -/
structure Branch where
  lanes : Dword
  next : Split
  deriving DecidableEq, Repr

/-- What an instruction does to its split (04 R91, R108): it diverges, with the group that stays, the parts, the rejoin address where it opens a
tag, the rejoin depth and whether the parts are deferred; or lanes execute EXIT. -/
inductive SplitMove where
  | diverge (stay : Branch) (parts : List Branch) (opens : Option Dword) (rdepth : BitVec 16) (defer : Bool)
  | exit (lanes : Dword)
  deriving DecidableEq, Repr

/-- A deferred path (04 R93). `order` is its creation order; `queued` is whether it is in the queue of 8. -/
structure Path where
  ctx : Split := {}
  order : Nat := 0
  runnable : Bool := true
  queued : Bool := true
  deriving DecidableEq, Repr

/-- A rejoin record (04 R92). -/
structure Record where
  tag : Nat := 0
  rejoin : Dword := 0
  rdepth : BitVec 16 := 0
  members : Dword := 0
  arrived : Dword := 0
  broken : Bool := false
  outerTag : Nat := 0
  outerRejoin : Dword := 0
  outerDepth : BitVec 16 := 0
  timer : BitVec 20 := 0
  inReg : Bool := true
  order : Nat := 0
  parked : List Path := []
  deriving DecidableEq, Repr

/-- The access kinds of a fault record (09 R213). -/
inductive AccKind where
  | fetch | load | store | atomic | scalarLoad | scalarStore | scratchpad | spill | engineRead | engineWrite
  | ray | texture
  deriving DecidableEq, Repr

/-- What a failed check leaves for the fault record (09 R213). `level` is 7 when no walk took place. -/
structure FaultInfo where
  cause : StopCause
  kind : AccKind := .fetch
  lane : Option Nat := none
  addr : Dword := 0
  level : Nat := 7
  malformed : Bool := false
  entry : Dword := 0
  deriving DecidableEq, Repr

/-- A translation held in a TLB (09 R200). -/
structure TlbEntry where
  ctx : Nat := 0
  vbase : Nat := 0
  pbase : Nat := 0
  size : Nat := 4096
  attr : Nat := 0
  pin : Bool := false
  wpl : Bool := false
  dev : Bool := false
  np : Bool := false
  x : Bool := false
  w : Bool := false
  r : Bool := false
  deriving DecidableEq, Repr

/-- Where a walk ends (09 R199 checks 4 and 5, R213): `cause` is none when it found a page. -/
structure Walked where
  cause : Option StopCause := none
  level : Nat := 7
  malformed : Bool := false
  entry : Dword := 0
  entryAddr : Nat := 0
  page : TlbEntry := {}
  deriving DecidableEq, Repr

/-- A page walk that a walker of a die makes, or that waits in the die's walk queue (09 R200, R201), for an operation of a wave. `left` is
how many levels it has still to read, `table` the table it reads next. -/
structure PageWalk where
  core : Nat := 0
  wave : Nat := 0
  op : Nat := 0
  ctx : Nat := 0
  va : Nat := 0
  left : Nat := 5
  table : Nat := 0
  deriving DecidableEq, Repr

/-- An agent and where it stands (10 R214): a lane, by its core and wave; unit k of a core (0 the copy engine, 1 the matrix array, 2 the
ray unit, 3 the tile engine); a service core; a die's binning unit; a port of the link. -/
inductive Post where
  | lane (core wave : Nat)
  | unit (core k : Nat)
  | svc (n : Nat)
  | bin (die : Nat)
  | port (p : Nat)
  deriving DecidableEq, Repr

/-- A sector of a line in an L1 data cache (09 R203, R205). `late` names the agents that have written the sector at its home since it was
filled (10 R224). -/
structure L1Sector where
  bytes : List Byte := []
  poison : Bool := false
  late : List Post := []
  deriving DecidableEq, Repr

/-- A line in an L1 data cache, tagged with its physical line and its context (09 R203), with the sectors that it holds. -/
structure L1Line where
  line : Nat := 0
  ctx : Nat := 0
  sectors : Table (Option L1Sector) := []
  deriving DecidableEq, Repr

/-- A line in a die's L2: its number holds its home die; `ctx` is the context on whose behalf it was filled (09 R203, R204). -/
structure L2Line where
  line : Nat := 0
  ctx : Nat := 0
  deriving DecidableEq, Repr

/-- The atomic operations of 09 R211 and 08 R182. -/
inductive AtomOp where
  | add | min | max | minn | maxn | and | or | xor | xchg | cas | fadd | fadd2b
  deriving DecidableEq, Repr

/-- The address space of an operation. -/
inductive Space where
  | global | priv | scratch
  deriving DecidableEq, Repr

/-- The destination of an operation's data: registers or scalars, first and count. -/
inductive Dest where
  | none
  | vec (d n : Nat)
  | scal (d n : Nat)
  deriving DecidableEq, Repr

/-- The instructions that act on a queue, a deque, intake or the locked lines once they are performed (13 R289–R293; 14 R301, R325). -/
inductive AsyncOp where
  | spawn | dqpush | dqpop | dqsteal | dqsize | launch | iclk | icunlk
  deriving DecidableEq, Repr

/-- What an outstanding operation does (09 R209–R212, 08 R180–R182, 10 R226, 17 R390, R391; 14 R301). `move` is an instruction whose access to the
divergence spill area has faulted, and that replays (04 R93). -/
inductive OpKind where
  | load | store | atomic (o : AtomOp)
  | fence (ord : BitVec 2)
  | texture (op : FOp)
  | async (o : AsyncOp)
  | move (m : SplitMove)
  deriving DecidableEq, Repr

/-- One single-copy atomic part of an operation (10 R216): bytes off .. off+len−1 of a lane's data at virtual address
va and physical address pa (for scratchpad, the offset in group `grp`). `sent` is whether a store stands in its core's
staging buffer, or a window access awaits its answer; `stamp` orders the staged ones, and `reached` lists the other cores at which a
staged one is seen (10 R222). `undef` is the draw of its values where it breaks 04 R93 or 09 R206 (00 R1). -/
structure AccUnit where
  lane : Nat := 0
  off : Nat := 0
  len : Nat := 0
  va : Nat := 0
  pa : Nat := 0
  attr : Nat := 0
  dev : Bool := false
  grp : Nat := 0
  done : Bool := false
  sent : Bool := false
  stamp : Nat := 0
  reached : List Nat := []
  undef : Option Nat := none
  deriving DecidableEq, Repr

/-- An outstanding memory operation, or an entry of the replay queue (14 R301–R304). `desc` and `coords` are the scalars and the
lanes' operands of a texture read or a bitmap or depth test (17 R387–R390), or the words of a launch record (13 R293). `replay` is whether
RESUME performs it (14 R305). `walked` holds how the walks made for it ended, by 4 KiB page. -/
structure MemOp where
  id : Nat := 0
  split : Nat := 0
  pc : Dword := 0
  words : List Dword := []
  rep : BitVec 6 := 0
  kind : OpKind := .load
  access : AccKind := .load
  space : Space := .global
  size : Nat := 4
  signed : Bool := false
  run : Dword := 0
  live : Dword := 0
  addrs : Table Dword := []
  data : Table Quad := []
  desc : List Word := []
  coords : Table (List Word) := []
  scope : BitVec 3 := 0
  ord : BitVec 2 := 0
  ef : Bool := false
  ms : Bool := false
  dst : Dest := .none
  passed : Bool := false
  fault : Option FaultInfo := none
  walked : List (Nat × Walked) := []
  units : List AccUnit := []
  got : Table Quad := []
  status : Nat := 0
  doneMask : Dword := 0
  skipBp : Bool := false
  replay : Bool := false
  count : Word := 0
  deriving DecidableEq, Repr

/-- Whether a wave issues, and what a halt found (14 R300, R301). -/
inductive RunState where
  | running | draining | stopped | parked
  deriving DecidableEq, Repr

/-- The cause of a halt (14 R301). -/
structure Halt where
  info : FaultInfo
  pc : Dword := 0
  split : Nat := 0
  engine : Bool := false
  deriving DecidableEq, Repr

/-- The A latch of a wave (11 R245): the eight A registers and SC of every lane. -/
structure Latch where
  a : BitVec 8 := 0
  sc : BitVec 8 := 0
  fmt : Nat := 0
  held : Bool := false
  regs : Table Word := []
  scales : Table Word := []
  deriving DecidableEq, Repr

/-- The window between an MMA's issue and its MWAIT, in which its operands must stay untouched (10 R230). `done` is whether the
MMA has completed, `undef` whether the window was broken before that. -/
structure MmaWindow where
  ticket : Nat := 0
  a : Nat := 0
  sc : Option Nat := none
  latched : Bool := false
  grp : Nat := 0
  blo : Nat := 0
  bhi : Nat := 0
  dlo : Nat := 0
  dhi : Nat := 0
  count : Word := 0
  done : Bool := false
  undef : Bool := false
  deriving DecidableEq, Repr

/-- A candidate or committed hit (18 R401–R403): exact t, b1 and b2; the primitive data, instance ID, and word D+7 less HIT. -/
structure Hit where
  t : Rat := 0
  b1 : Rat := 0
  b2 : Rat := 0
  prim : Dword := 0
  inst : Word := 0
  flags : Word := 0
  deriving DecidableEq, Repr

/-- An instance that a walk is in: the transformed origin and direction, its ID and flags (18 R399, R403). -/
structure RayInstance where
  o : List Rat := []
  d : List Rat := []
  id : Word := 0
  flags : BitVec 3 := 0
  deriving DecidableEq, Repr

/-- An entry of a ray walk's stack (18 R397, R402): kind 1 a node, 2 triangles, 3 an instance; `near` is te. -/
structure WalkItem where
  kind : Nat := 1
  addr : Dword := 0
  count : Nat := 1
  near : Val := .inf true
  inst : Option RayInstance := none
  deriving DecidableEq, Repr

/-- A ray query of one lane (18 R395–R405). `ray` is origin, tmin, direction, tmax; `waiting` is status 2; `flags` is OPAQUE,
NOOPAQUE, CULLBACK. -/
structure Query where
  d : Nat := 0
  unit : Nat := 0
  any : Bool := false
  ray : List Word := []
  flags : BitVec 3 := 0
  stack : List WalkItem := []
  best : Option Hit := none
  cand : Option Hit := none
  waiting : Bool := false
  fault : Option FaultInfo := none
  pc : Dword := 0
  split : Nat := 0
  reads : Reads := {}
  deriving DecidableEq, Repr

/-- What a wave is besides its launch: a grid or task wave, a mesh wave of a block, or a pixel wave of a tile
(13 R283, 17 R378). -/
inductive WaveKind where
  | grid
  | task
  | mesh (die slot seq : Nat)
  | pixel (die slot tile : Nat)
  deriving DecidableEq, Repr

/-- The vector registers and scalars that the instruction of a split named as written, at the wave's `count`-th issue (14 R321). -/
structure Named where
  count : Word := 0
  split : Nat := 0
  vw : List Nat := []
  sw : List Nat := []
  deriving DecidableEq, Repr

/-- A resident wave. `written` numbers the writes that other splits may see late: `hist` keeps what they overwrote in a lane of a vector
register (07 R160), `swrites` what they wrote to a scalar, and the value before as number 0 (04 R87); `together` keeps up to which number
the lanes of a mask stood in one split. `counts` is what the state window has written over the frame's counts (14 R308). -/
structure Wave where
  group : Nat := 0
  index : Nat := 0
  ctx : Nat := 0
  width : Nat := 4
  slot : Nat := 0
  qbase : Nat := 0
  kind : WaveKind := .grid
  order : Nat := 0
  prio : Nat := 0
  prioMax : Nat := 0
  klass : Nat := 2
  debug : Bool := false
  vres : Nat := 0
  vmax : Nat := 0
  sres : Nat := 0
  smax : Nat := 0
  vregs : Table Word := []
  vbound : Table Bool := []
  vspilled : Table Bool := []
  vpoison : Table Bool := []
  vused : Table Nat := []
  stamp : Nat := 0
  written : Nat := 0
  together : List (Nat × Dword) := []
  hist : Table (List (Nat × Word)) := []
  swrites : Table (List (Nat × Word)) := []
  sregs : Table Word := []
  sbound : Table Bool := []
  sspilled : Table Bool := []
  spoison : Table Bool := []
  sused : Table Nat := []
  exited : Dword := 0
  splits : Table (Option Split) := []
  paths : List Path := []
  records : List Record := []
  made : Nat := 0
  remap : Table Nat := []
  remapInvalid : Table Bool := []
  vlid : Table Nat := []
  helper : Dword := 0
  batch : BitVec 16 := 0
  cbdone : BitVec 16 := 0
  rfence : Bool := false
  mticket : BitVec 8 := 0
  mdone : BitVec 8 := 0
  mdoneSet : List Nat := []
  bhist : Table (List Word) := []
  latch : Latch := {}
  windows : List MmaWindow := []
  nextOp : Nat := 0
  ops : List MemOp := []
  queue : List MemOp := []
  run : RunState := .running
  halt : Option Halt := none
  frame : List Dword := []
  frameCause : Nat := 0
  counts : Option Dword := none
  stepping : Option (BitVec 3) := none
  stepped : Bool := false
  queries : Table (Option Query) := []
  repack : Option (Nat × Nat × BitVec 3) := none
  flow : Nat := 0
  depth : Nat := 0
  issued : Word := 0
  loghead : Word := 0
  loglost : Bool := false
  named : Named := {}
  mendDone : Bool := false
  quadOf : Table (Option Nat) := []
  colour : Table (Option (Bool × Quad)) := []
  digest : Dword := 0
  deriving DecidableEq, Repr

/-- A named barrier (08 R185). -/
structure Barrier where
  abandoned : Bool := false
  isDefault : Bool := true
  phase : Bool := false
  count : BitVec 12 := 0
  expected : BitVec 12 := 1
  deriving DecidableEq, Repr

/-- A region leased or stored under the Umpire: base and length (15 R330, R333). -/
structure Region where
  base : Dword := 0
  len : Word := 0
  deriving DecidableEq, Repr

/-- A resident group (13 R280, 08 R173, 15 R329). `leasing` is whether its pages are leased and `leased` whether accesses from before have been
performed (15 R330). -/
structure Group where
  launch : Nat := 0
  core : Nat := 0
  ctx : Nat := 0
  linear : Nat := 0
  gx : Word := 0
  gy : Word := 0
  gz : Word := 0
  crank : Nat := 0
  cluster : Nat := 0
  waves : Nat := 1
  live : List Nat := []
  order : Nat := 0
  scratch : Table Byte := []
  scratchPoison : Table Bool := []
  acc : Table Word := []
  accPoison : Table Bool := []
  barriers : List Barrier := []
  shadow : Option (Nat × Nat) := none
  sampled : Bool := false
  leased : Bool := false
  leasing : Bool := false
  digest : Dword := 0
  emitted : Bool := false
  ending : Bool := false
  deriving DecidableEq, Repr

/-- The stage of a launch (13 R280). -/
inductive LaunchStage where
  | waiting | ready | finished
  deriving DecidableEq, Repr

/-- What a launch record describes: a launch of the link or of LAUNCH, a task's template (13 R292), or the mesh or
pixel template of a pass (17 R373). -/
inductive LaunchKind where
  | plain | task | mesh | pixel
  deriving DecidableEq, Repr

/-- An accepted launch, or a template that groups are placed from (13 R277–R280). `age` is its place, or its task's, in the order of acceptance
(R285, R292); `discarded` lists the groups of each discarded cluster (R297); `ran` lists the cores that its groups have stood on. -/
structure Launch where
  kind : LaunchKind := .plain
  launchid : Word := 0
  ctx : Nat := 0
  port : Option Nat := none
  tag : Word := 0
  words : List Word := []
  stage : LaunchStage := .ready
  nextGroup : Nat := 0
  discarded : List (List Nat) := []
  ended : Nat := 0
  segments : Option (List (Nat × Nat × Nat)) := none
  payload : Dword := 0
  depth : Nat := 0
  age : Nat := 0
  replayFault : Bool := false
  asked : Bool := false
  ran : List Nat := []
  reads : Reads := {}
  deriving DecidableEq, Repr

/-- A task record of a task queue (13 R291). -/
structure Task where
  template : Dword := 0
  payload : Dword := 0
  depth : Nat := 0
  ctx : Nat := 0
  launchid : Word := 0
  order : Nat := 0
  launch : Nat := 0
  reads : Reads := {}
  deriving DecidableEq, Repr

/-- A deque (13 R288). -/
structure Deque where
  launch : Option Nat := none
  entries : List Dword := []
  lost : Word := 0
  deriving DecidableEq, Repr

/-- The commands of the copy engine (12 R256–R260, R263, R269, R274, R275). -/
inductive CmdKind where
  | linear | multicast | gather | scatter | tensor | mma | chain | reduce | signal
  deriving DecidableEq, Repr

/-- A byte range of a group's scratchpad (space 1) or accumulator storage (space 2) that an engine command or array operation
holds in the range scoreboard (12 R253). `kind` is 0 read, 1 write, 2 update. -/
structure CmdRange where
  space : Nat := 0
  grp : Nat := 0
  lo : Nat := 0
  hi : Nat := 0
  kind : Nat := 0
  deriving DecidableEq, Repr

/-- A row of a command: `len` bytes to move from a source to a destination (12 R264). Spaces are 0 global and 1 scratchpad,
with the groups whose scratchpads they are; `fill` is a byte pattern in place of a source. `joined` marks a row that goes on in
the chunk of the row before it, as the parts of a tensor box's row do. -/
structure Chunk where
  sspace : Nat := 0
  src : Nat := 0
  sgrp : Nat := 0
  dspace : Nat := 0
  dst : Nat := 0
  dgrps : List Nat := []
  len : Nat := 0
  fill : Option (List Byte) := none
  joined : Bool := false
  deriving DecidableEq, Repr

/-- The state of a command-block chain (12 R270–R276): the next block, the status address, a SEMWAIT that waits and when it may
read again, and the status to be written. -/
structure Chain where
  next : Dword := 0
  statusAt : Option Dword := none
  waiting : Option SemTest := none
  retryAt : Nat := 0
  status : Option Nat := none
  deriving DecidableEq, Repr

/-- The MMA of a CPYMMA: its OPC and word, B's offset, A's offset for SA = 1, and A from the latch otherwise (12 R263). -/
structure CmdMma where
  kind : Nat := 0
  x : XArgs
  bAddr : Nat := 0
  aAddr : Nat := 0
  aRegs : Table Word := []
  scRegs : Table Word := []
  ticket : Nat := 0
  deriving DecidableEq, Repr

/-- A command in the copy engine (12 R250–R265). `row` and `off` say how far it has come; `awaiting`, `reply`, `phase`
and `hold` follow an access to a window of another device. -/
structure Cmd where
  id : Nat := 0
  seq : Nat := 0
  kind : CmdKind := .linear
  wave : Option Nat := none
  group : Nat := 0
  ctx : Nat := 0
  pc : Dword := 0
  split : Nat := 0
  chainOf : Option Nat := none
  arrive : List (Nat × Nat) := []
  batch : Option Nat := none
  started : Bool := false
  recordWait : Bool := false
  recAddr : Dword := 0
  record : List Word := []
  coords : List Word := []
  storeDir : Bool := false
  spBase : Nat := 0
  sgrp : Nat := 0
  rows : List Chunk := []
  row : Nat := 0
  off : Nat := 0
  ranges : List CmdRange := []
  suspended : Bool := false
  awaiting : Bool := false
  reply : Option (List Byte) := none
  phase : Nat := 0
  hold : List Byte := []
  moves : List (Option Byte × Bool) := []
  askAt : Option (Nat × Bool) := none
  reduceArgs : Option ReduceArgs := none
  signal : Option (Bool × Bool × Dword) := none
  mma : Option CmdMma := none
  chain : Chain := {}
  deriving DecidableEq, Repr

/-- A shape record held in a record cache (12 R261). -/
structure CachedRecord where
  ctx : Nat := 0
  addr : Dword := 0
  words : List Word := []
  deriving DecidableEq, Repr

/-- An operation of the matrix array's queue (11 R239). `kind` is its OPC, `seq` its place in the arbiter's order; `aRegs` and
`scRegs` are A and SC where they are at hand, `rows` the rows that ACCST writes; `lost` is whether a kill has dropped its scratchpad
writes (R237). -/
structure ArrayOp where
  id : Nat := 0
  seq : Nat := 0
  wave : Option Nat := none
  group : Nat := 0
  kind : Nat := 0
  x : XArgs
  ticket : Option Nat := none
  pc : Dword := 0
  split : Nat := 0
  bAddr : Nat := 0
  sScale : Word := 0
  aAddr : Nat := 0
  latched : Bool := false
  aRegs : Table Word := []
  scRegs : Table Word := []
  rows : Dword := 0
  begun : Bool := false
  lost : Bool := false
  bBytes : List Byte := []
  bPoison : List Nat := []
  cmd : Option Nat := none
  arrive : List (Nat × Nat) := []
  ranges : List CmdRange := []
  deriving DecidableEq, Repr

/-- A line of 128 bytes in an L1 instruction cache, tagged with its virtual line and its context (14 R324). `words` holds, by word of the line, the
values that the core may still issue: what it fetched last, and what it fetched before (10 R216). -/
structure ILine where
  ctx : Nat := 0
  line : Nat := 0
  words : Table (List Dword) := []
  deriving DecidableEq, Repr

/-- The service state of a core that the clock and coolant rules give (16 R355–R364; 01 R23). -/
structure CoreFlow where
  klass : Nat := 0
  capClass : Nat := 0
  rise : Bool := false
  powerCap : Nat := 40
  riseAt : Nat := 0
  overtemp : Bool := false
  neighbour : Nat := 0
  evac : Bool := false
  slow : Bool := false
  deriving DecidableEq, Repr

/-- What RETSAVE takes of a core for its retention image (16 R366; 01 R20). -/
structure Retained where
  fusetime : Word := 0
  clkset : Word := 0
  foul : Word := 0
  cycle : BitVec 64 := 0
  deriving DecidableEq, Repr

/-- A compute core. `l1` holds the sets of the L1 data cache, each with the most recently used line first (09 R203), and `icache` those of the
L1 instruction cache (14 R324); `locked` lists its locked lines by context. -/
structure Core where
  cycle : BitVec 64 := 0
  tlb : List TlbEntry := []
  l1 : Table (List L1Line) := []
  icache : Table (List ILine) := []
  locked : List (Nat × Nat) := []
  deques : List Deque := [{}, {}, {}, {}]
  prefetch : List Task := []
  nextCmd : Nat := 0
  cmds : List Cmd := []
  waitq : List (Nat × Nat × Dword × Bool) := []
  records : List CachedRecord := []
  nextArray : Nat := 0
  nextSeq : Nat := 0
  array : List ArrayOp := []
  flow : CoreFlow := {}
  retained : Retained := {}
  werr : Bool := false
  deriving DecidableEq, Repr

/-- One run of a sampled group that the Umpire holds (15 R329–R338). -/
structure Sample where
  group : Nat := 0
  launch : Nat := 0
  linear : Nat := 0
  cores : List Nat := []
  digests : List (Dword × Bool) := []
  pages : List Dword := []
  placed : Nat := 0
  runs : Nat := 1
  running : Bool := true
  deriving DecidableEq, Repr

/-- A mesh block of a pass (17 R379, R380): `first` is its block number. -/
structure MeshBlock where
  seq : Nat := 0
  first : Nat := 0
  verts : Nat := 0
  prims : Nat := 0
  closed : Bool := false
  deriving DecidableEq, Repr

/-- An amplification entry (17 R376). -/
structure AmpEntry where
  slot : Nat := 0
  seq : Nat := 0
  payload : Word := 0
  deriving DecidableEq, Repr

/-- A quad of pixels to be shaded for a primitive (17 R385): its first pixel, the pixels to shade, and for each of the four its
depth and barycentrics. -/
structure QuadJob where
  ref : Dword := 0
  object : Word := 0
  x : Nat := 0
  y : Nat := 0
  mask : BitVec 4 := 0
  values : List (Word × Word × Word) := []
  deriving DecidableEq, Repr

/-- A write that a binning unit or a tile engine has still to make (17 R393): n bytes at an address, or bits to set there. -/
structure UnitWrite where
  addr : Nat := 0
  n : Nat := 4
  value : Nat := 0
  setBits : Bool := false
  deriving DecidableEq, Repr

/-- A tile that the tile engine of a core renders (17 R384): what it does (`stage`: 0 it reads, 1 it sets bits of the bitmap, 2 its pixel waves
run, 3 it stores), depth and colour of its 64 × 64 pixels, its quads in the order of their contributions, how many stand in waves or have,
its pixel waves that run, and what PIXOUT left, by 4 × quad + pixel. -/
structure TileJob where
  tile : Nat := 0
  depth : List Word := []
  colour : List Dword := []
  quads : List QuadJob := []
  stage : Nat := 0
  reads : Reads := {}
  writes : List UnitWrite := []
  waves : Nat := 0
  placed : Nat := 0
  results : Table (Option (Bool × Quad)) := []
  deriving DecidableEq, Repr

/-- A pass of a die (17 R373–R384, R393). `cleared` counts the pages of the bitmap written to zeros, `used` the chunks taken,
`lists` and `refs` each tile's list chunks and references, `todo` the tiles of the render that runs and no engine has taken, `jobs` the tile
of each core's engine. -/
structure Pass where
  launch : Nat := 0
  ctx : Nat := 0
  recAddr : Dword := 0
  words : List Word := []
  meshLaunch : Nat := 0
  pixelLaunch : Nat := 0
  state : Nat := 1
  back : Nat := 1
  cleared : Nat := 0
  nextSeq : Nat := 0
  binSeq : Nat := 0
  binPrim : Nat := 0
  binTile : Nat := 0
  total : Nat := 0
  used : List Nat := []
  blocks : List MeshBlock := []
  lists : Table (List Nat) := []
  refs : Table Nat := []
  meshWaves : Nat := 0
  growAt : Nat := 0
  todo : List Nat := []
  rendered : List Nat := []
  jobs : Table (Option TileJob) := []
  reads : Reads := {}
  writes : List UnitWrite := []
  deriving DecidableEq, Repr

/-- A compute die's shared units. `l2` holds the sets of its L2, by 2048 × slice + set, each with the most recently used line first
(09 R194, R203); `walks` the walks that its walkers make, and `walkQueue` those that wait (09 R201). -/
structure Die where
  tlb : List TlbEntry := []
  l2 : Table (List L2Line) := []
  walks : List PageWalk := []
  walkQueue : List PageWalk := []
  tasks : Table (List Task) := []
  taken : Table Word := []
  samples : List Sample := []
  passes : Table (Option Pass) := []
  amps : List AmpEntry := []
  faultSeq : Nat := 0
  deriving DecidableEq, Repr

/-- A service core (16 R367–R372). Registers s960–s1023 are banked by level; `saved` holds, by level taken, the PC and level that it
pre-empted. `image` is bytes 0x00–0x3F of the installed image and its code, `installing` one that awaits its install. `waiting` is the
cycle at which a WFE ends by itself, 0 for never. `asked` and `got` follow an access to a window of another device. -/
structure SvcCore where
  regs : Table Word := []
  banks : Table Word := []
  pc : Dword := 0
  level : Nat := 0
  saved : Table (Option (Dword × Nat)) := []
  halted : Bool := true
  waiting : Option Nat := none
  wfeDest : Nat := 0
  cycle : BitVec 64 := 0
  sram : Table Byte := []
  image : Option (List Byte) := none
  installing : Option (List Byte) := none
  asked : Bool := false
  got : Option (List Byte) := none
  deriving DecidableEq, Repr

/-- A request this module made of a peer or of the control node and that awaits its MEMRSP (19 R414): by a unit of a wave's
operation, by a split that reads a launch record, by the engine command `op`, or by the hub for the launch `op` (its wait word,
its completion add, that of a task, and a digest store, as cores 64, 65, 66 and 71), by a `reader`, by a link request whose port and tag are `link` (core 68), service core n (core
80 + n); core 70 awaits nothing. `order` is the wave's, `va` the access's address, `bytes` the length of the data awaited. -/
structure PeerReq where
  port : Nat := 0
  tag : Word := 0
  core : Nat := 0
  wave : Nat := 0
  op : Nat := 0
  unit : Nat := 0
  engine : Bool := false
  split : Option Nat := none
  order : Nat := 0
  va : Dword := 0
  bytes : Nat := 0
  link : Option (Nat × Word) := none
  reader : Option Reader := none
  deriving DecidableEq, Repr

/-- The split that issues, and its instruction's place: `iaddr` its first word, `caddr` its last word, `next` the
word after it. -/
structure Issuer where
  core : Nat := 0
  wave : Nat := 0
  split : Nat := 0
  iaddr : Dword := 0
  caddr : Dword := 0
  next : Dword := 0
  words : List Dword := []
  aux : Option Aux := none
  svc : Option Nat := none
  deriving DecidableEq, Repr

/-- What acts next (log 2): one split's issue, an issue slot's cycle, a service core, a chain, an event, the passing of a cycle of a
core (domain 0) or of a service core (domain 1), a prefetch of code for a split, a CSR's answer to a unit, or the bench drain of a core just benched. -/
inductive Turn where
  | issue (core wave split : Nat)
  | slot (core slot : Nat)
  | svc (n : Nat)
  | chain (core cmd : Nat)
  | event (e : Instr) (a : EventArgs)
  | pass (domain n : Nat)
  | prefetch (core wave split a : Nat)
  | unitCsr (r : Reader) (ctx va space a n : Nat) (data : List Byte)
  | benchDrain
  deriving DecidableEq, Repr

/-- The module. `tlbinvOf` is the KIND, context and address of the TLB invalidation in progress (09 R202); `zoneAt` and `railAt` the service cores'
cycles at which a step of a zone's evacuation, and the 1,000 cycles of a die's SRAM rail, began (16 R364; 15 R347). -/
structure State where
  mem : Table Byte := []
  memPoison : Table Bool := []
  csr : Table Word := []
  catStaged : Table (Option Word) := []
  cores : Table Core := []
  dies : Table Die := []
  waves : Table (Option Wave) := []
  groups : Table (Option Group) := []
  launches : Table (Option Launch) := []
  nextLaunchid : Word := 0
  nextLaunch : Nat := 0
  nextGroup : Nat := 0
  nextOrder : Nat := 0
  svcs : Table SvcCore := []
  out : Table (List Msg) := []
  peerReqs : List PeerReq := []
  peerTag : Word := 0
  supply : Nat := 4000
  zoneLow : Table Nat := []
  zoneStuck : Table Nat := []
  zoneAt : Table Nat := []
  railAt : Table Nat := []
  zoneWas : Table Nat := []
  lowered : List Nat := []
  tlbinvPending : Bool := false
  tlbinvOf : Nat × Nat × Nat := (0, 0, 0)
  stageTest : Bool := false
  agenda : List Turn := []
  cur : Issuer := {}
  arg : EventArgs := .none
  free : Nat := 0
  last : Nat := 0
  deriving DecidableEq, Repr

/-- The value of a CSR after power-on reset (the Reset column of each CSR's chapter; 0 where none differs). Keys are
space × 0x1_0000 + address, with spaces 0–3 the dies and 4 the hub. -/
def csrReset (k : Nat) : Word :=
  let space := k / 0x10000
  let a := k % 0x10000
  if space < 4 then
    if a = 0x0100 then 0xFFFF                                   -- PLACE.MASK (13 R286)
    else if a = 0x0610 then 0x03200320                          -- VSRAM LEVEL and TARGET, 800 mV (15 R347)
    else if 0x0800 ≤ a ∧ a < 0x0880 ∧ a % 0x20 = 4 then 0x10     -- CPC STS.RAILGOOD (16 R365)
    else if 0x0900 ≤ a ∧ a < 0x0940 then 0x2222                  -- CLKSET (16 R358)
    else if a = 0x0E00 then 1000000                             -- BINWAIT (17 R375)
    else if 0x1000 ≤ a ∧ a < 0x1400 ∧ a % 0x40 = 0x18 then 0x2000 -- FUSETIME (04 R96)
    else 0
  else if space = 4 then
    if 0x3000 ≤ a ∧ a < 0x3400 ∧ a % 0x10 = 8 then 16            -- WALKLIM (09 R195)
    else if 0x3400 ≤ a ∧ a < 0x3800 ∧ a % 0x10 = 0 then 16       -- WEIGHT (13 R281)
    else if 0x4000 ≤ a ∧ a < 0x5000 ∧ a % 0x10 = 8 then 0x300    -- IGN (14 R315)
    else if 0x5000 ≤ a ∧ a < 0x5400 ∧ a % 0x10 = 8 then 8        -- LOGN (14 R320)
    else if 0x6000 ≤ a ∧ a < 0x6540 ∧ a % 0x10 = 8 then 0xF00    -- ZSENS ESTEP (16 R349)
    else if a = 0x6610 then 0x03C0CFA0                          -- CFU.LIM (16 R350)
    else if 0x6800 ≤ a ∧ a < 0x6AA0 then                        -- CAT: CEIL, PRI, OWNER (16 R351)
      if a % 8 = 0 then 0x00FFF000
      else if (a - 0x6800) / 8 < 80 ∧ (a - 0x6800) / 8 % 20 < 16 then 0x80 else 0x880
    else 0
  else 0

/-- The machine right after power-on reset (19 R416): stage S0, no launch, memory with nothing listed, every CSR at
its reset value. Values the spec does not give are named in logs 1, 6, 9 and 12. -/
def State.reset : State := {}

end Sys2Proof.Machine
end

