-- ==== Sys2Proof/Machine/Base.lean ====
section
/-! DEFINITION. The named operations over the state's tables: lanes, cores, waves and splits, CSRs, memory, messages out,
free values, the program counter. -/

namespace Sys2Proof.Machine

/-! ## Lanes -/

/-- The lanes of a mask in ascending order. -/
def lanesOf (m : Dword) : List Nat := (List.range 64).filter (fun i => m.getLsbD i)

/-- The mask of one lane. -/
def laneBit (i : Nat) : Dword := 1#64 <<< i

/-- The mask of the lanes for which a test holds. -/
def maskWhere (p : Nat → Bool) : Dword := (List.range 64).foldl (fun m i => if p i then m ||| laneBit i else m) 0

/-- The W low bits set. -/
def lowLanes (w : Nat) : Dword := maskWhere (fun i => decide (i < w))

/-- The quads that hold a lane of a mask (04 R86). -/
def quadsOf (m : Dword) : List Nat :=
  (List.range 16).filter (fun q => (List.range 4).any (fun k => m.getLsbD (4 * q + k)))

/-! ## Order -/

/-- Inserts an element before the first that it may precede. -/
def insertBy {α : Type} (before : α → α → Bool) (x : α) : List α → List α
  | [] => [x]
  | y :: ys => if before x y then x :: y :: ys else y :: insertBy before x ys

/-- A list in order; elements that may precede each other keep their order. -/
def sortBy {α : Type} (before : α → α → Bool) : List α → List α
  | [] => []
  | x :: xs => insertBy before x (sortBy before xs)

/-! ## The state's tables -/

/-- A core; the ones never used hold their power-on values. -/
def State.core (s : State) (c : Nat) : Core := Table.get (fun _ => {}) s.cores c

/-- Replaces a core. -/
def State.setCore (s : State) (c : Nat) (x : Core) : State := { s with cores := Table.set (fun _ => {}) s.cores c x }

/-- Changes a core. -/
def State.onCore (s : State) (c : Nat) (f : Core → Core) : State := s.setCore c (f (s.core c))

/-- Changes every core; `f` leaves one that was never used as it is. -/
def State.onCores (s : State) (f : Core → Core) : State := s.cores.foldl (fun s e => s.onCore e.1 f) s

/-- A die's shared units. -/
def State.die (s : State) (d : Nat) : Die := Table.get (fun _ => {}) s.dies d

/-- Changes a die's shared units. -/
def State.onDie (s : State) (d : Nat) (f : Die → Die) : State :=
  { s with dies := Table.set (fun _ => {}) s.dies d (f (s.die d)) }

/-- Changes every die's shared units; `f` leaves those never used as they are. -/
def State.onDies (s : State) (f : Die → Die) : State := s.dies.foldl (fun s e => s.onDie e.1 f) s

/-- The die of a core (01 R11). -/
def dieOf (c : Nat) : Nat := c / 16

/-- The key of a wave: its core and wave-table index (04 R85). -/
def waveKey (c w : Nat) : Nat := c * 512 + w

/-- A resident wave. -/
def State.wave (s : State) (c w : Nat) : Option Wave := Table.get noneAt s.waves (waveKey c w)

/-- Replaces a wave's entry. -/
def State.setWave (s : State) (c w : Nat) (x : Option Wave) : State :=
  { s with waves := Table.set noneAt s.waves (waveKey c w) x }

/-- Changes a resident wave. -/
def State.onWave (s : State) (c w : Nat) (f : Wave → Wave) : State :=
  match s.wave c w with
  | some x => s.setWave c w (some (f x))
  | none => s

/-- A resident group. -/
def State.group (s : State) (g : Nat) : Option Group := Table.get noneAt s.groups g

/-- Changes a resident group. -/
def State.onGroup (s : State) (g : Nat) (f : Group → Group) : State :=
  match s.group g with
  | some x => { s with groups := Table.set noneAt s.groups g (some (f x)) }
  | none => s

/-- An accepted launch or a template. -/
def State.launch (s : State) (l : Nat) : Option Launch := Table.get noneAt s.launches l

/-- Changes a launch. -/
def State.onLaunch (s : State) (l : Nat) (f : Launch → Launch) : State :=
  match s.launch l with
  | some x => { s with launches := Table.set noneAt s.launches l (some (f x)) }
  | none => s

/-- A service core. -/
def State.svc (s : State) (n : Nat) : SvcCore := Table.get (fun _ => {}) s.svcs n

/-- Changes a service core. -/
def State.onSvc (s : State) (n : Nat) (f : SvcCore → SvcCore) : State :=
  { s with svcs := Table.set (fun _ => {}) s.svcs n (f (s.svc n)) }

/-- The waves resident on a core, by wave-table index. -/
def State.wavesOn (s : State) (c : Nat) : List (Nat × Wave) :=
  s.waves.filterMap (fun e => if e.1 / 512 = c then e.2.map (fun w => (e.1 % 512, w)) else none)

/-- The groups resident on a core, by number. -/
def State.groupsOn (s : State) (c : Nat) : List (Nat × Group) :=
  s.groups.filterMap (fun e => match e.2 with
    | some g => if g.core = c then some (e.1, g) else none
    | none => none)

/-! ## Control and status registers -/

/-- The key of a CSR: spaces 0–3 are the dies, 4 the hub (09 R193). -/
def csrKey (space addr : Nat) : Nat := space * 0x10000 + addr

/-- The stored word of a CSR. -/
def State.csrAt (s : State) (space addr : Nat) : Word := Table.get csrReset s.csr (csrKey space addr)

/-- Stores a CSR's word as it stands. -/
def State.setCsr (s : State) (space addr : Nat) (v : Word) : State :=
  { s with csr := Table.set csrReset s.csr (csrKey space addr) v }

/-- Changes a CSR's word. -/
def State.onCsr (s : State) (space addr : Nat) (f : Word → Word) : State :=
  s.setCsr space addr (f (s.csrAt space addr))

/-- A field of a word. -/
def field (v : Word) (h l : Nat) : Nat := (bits v h l).toNat

/-- A word with a field replaced. -/
def setField (v : Word) (h l : Nat) (x : Nat) : Word :=
  let m : Word := BitVec.ofNat 32 ((2 ^ (h - l + 1) - 1) * 2 ^ l)
  (v &&& ~~~m) ||| (BitVec.ofNat 32 (x * 2 ^ l) &&& m)

/-- A word with some bits set or cleared by a mask. -/
def setBits (v m : Word) (on : Bool) : Word := if on then v ||| m else v &&& ~~~m

/-! ## Free values -/

/-- Draws a free bit pattern (00 R9). -/
def State.freeDword (s : State) : Dword × State := (Config.freeDword s.free, { s with free := s.free + 1 })

/-- Draws a free choice (00 R8). -/
def State.freeChoice (s : State) : Nat × State := (Config.freeChoice s.free, { s with free := s.free + 1 })

/-! ## Memory -/

/-- What a byte of module memory that nothing has written reads as (log 1). -/
def memDefault : Nat → Byte := fun _ => 0

/-- A byte of memory. -/
def State.byte (s : State) (a : Nat) : Byte := Table.get memDefault s.mem a

/-- Writes a byte of memory. -/
def State.setByte (s : State) (a : Nat) (v : Byte) : State := { s with mem := Table.set memDefault s.mem a v }

/-- The n bytes from an address on. -/
def State.bytes (s : State) (a n : Nat) : List Byte := (List.range n).map (fun k => s.byte (a + k))

/-- Writes bytes from an address on. -/
def State.setBytes (s : State) (a : Nat) : List Byte → State
  | [] => s
  | b :: bs => State.setBytes (s.setByte a b) (a + 1) bs

/-- Little-endian value of bytes (00 R3). -/
def leNat : List Byte → Nat
  | [] => 0
  | b :: bs => b.toNat + 256 * leNat bs

/-- The n low bytes of a number, little-endian (00 R3). -/
def leBytes : Nat → Nat → List Byte
  | 0, _ => []
  | n + 1, x => BitVec.ofNat 8 x :: leBytes n (x / 256)

/-- The 64-bit word at a physical address. -/
def State.dwordAt (s : State) (a : Nat) : Dword := BitVec.ofNat 64 (leNat (s.bytes a 8))

/-- The 32-bit word at a physical address. -/
def State.wordAt (s : State) (a : Nat) : Word := BitVec.ofNat 32 (leNat (s.bytes a 4))

/-- The 48-byte sector of a physical address of module memory (09 R194). -/
def sectorOf (a : Nat) : Nat := a / 2 ^ 37 * 2 ^ 32 + a % 2 ^ 37 / 48

/-- The first byte of a sector. -/
def sectorBase (k : Nat) : Nat := k / 2 ^ 32 * 2 ^ 37 + k % 2 ^ 32 * 48

/-- The byte after a sector: those at the end of a die's range are cut there (09 R194). -/
def sectorEnd (k : Nat) : Nat := min (sectorBase k + 48) ((k / 2 ^ 32 + 1) * 2 ^ 37)

/-- Whether some byte of a range lies in a poisoned sector (09 R205). -/
def State.poisoned (s : State) (a n : Nat) : Bool :=
  (List.range n).any (fun k => Table.get falseAt s.memPoison (sectorOf (a + k)))

/-- The poison after a write of n bytes: a sector all of whose bytes are written is clear (09 R205). -/
def State.clearPoison (s : State) (a n : Nat) : State :=
  { s with memPoison := (List.range n).foldl (fun t k =>
      let sec := sectorOf (a + k)
      if a ≤ sectorBase sec ∧ sectorEnd sec ≤ a + n then Table.set falseAt t sec false else t) s.memPoison }

/-- The unlisted value of a table of 16-byte data. -/
def zeroQuad : Nat → Quad := fun _ => 0

/-! ## Messages out (19 R411, R412) -/

/-- Control-node ports are ports 0 and 1, and peer port p is port p + 2. -/
def peerPort (p : Nat) : Nat := p + 2

/-- The number of 256-bit flits of a payload. -/
def flits (n : Nat) : Nat := (n + 31) / 32

/-- Places a message at the end of a port's outgoing line. The first 64 are in flight, and the rest wait for
credit. -/
def State.send (s : State) (port : Nat) (m : Msg) : State :=
  { s with out := Table.update nilAt s.out port (fun l => l ++ [m]) }

/-- A message this module sends. -/
def mkMsg (type : BitVec 8) (ctx : Nat) (tag : Word) (args : BitVec 192) (payload : List Byte) : Msg :=
  { type := type, ctx := BitVec.ofNat 6 ctx, zero := 0, len := BitVec.ofNat 16 (flits payload.length), tag := tag,
    args := args, payload := payload }

/-- EVENT (19 R412): its source, die, core and ARGS [95:32]. It leaves on control-node port 0. -/
def State.event (s : State) (source die core : Nat) (rest : Nat) (payload : List Byte) : State :=
  s.send 0 (mkMsg 0x0D 0 0 (BitVec.ofNat 192 (source + 16 * die + 128 * core + 2 ^ 32 * rest)) payload)

/-- COMPLETE (19 R412). -/
def State.complete (s : State) (port : Option Nat) (ctx : Nat) (tag launchid : Word) (status : Nat) (intake : Bool) :
    State :=
  s.send (port.getD 0) (mkMsg 0x0B ctx tag
    (BitVec.ofNat 192 (launchid.toNat + 2 ^ 32 * status + (if intake then 2 ^ 40 else 0))) [])

/-- Counts a link error in LINKERR (19 R413). -/
def State.linkErr (s : State) : State := s.onCsr 4 0x7C00 (· + 1)

/-! ## Splits -/

/-- A split entry of a wave (04 R88). -/
def Wave.split (w : Wave) (k : Nat) : Option Split := Table.get noneAt w.splits k

/-- Replaces a split entry. -/
def Wave.setSplit (w : Wave) (k : Nat) (x : Option Split) : Wave := { w with splits := Table.set noneAt w.splits k x }

/-- Changes a split that an entry holds. -/
def Wave.onSplit (w : Wave) (k : Nat) (f : Split → Split) : Wave :=
  match w.split k with
  | some x => w.setSplit k (some (f x))
  | none => w

/-- Changes a split in its place in the table. -/
def Wave.inSplit (w : Wave) (k : Nat) (f : Split → Split) : Wave :=
  { w with splits := w.splits.map (fun e => (e.1, if e.1 = k then e.2.map f else e.2)) }

/-- The splits in entries, lowest ID first. -/
def Wave.live4 (w : Wave) : List (Nat × Split) :=
  (List.range 4).filterMap (fun k => (w.split k).map (fun x => (k, x)))

/-- Live(split): its lanes that have not executed EXIT (00 R7). -/
def Wave.liveOf (w : Wave) (sp : Split) : Dword := sp.lanes &&& ~~~w.exited

/-- The wave's lanes that have not executed EXIT. -/
def Wave.liveLanes (w : Wave) : Dword := lowLanes w.width &&& ~~~w.exited

/-- A mask register m1–m7 of a split; m0 is Live(split) (05 R132). -/
def Wave.mask (w : Wave) (sp : Split) (k : Nat) : Dword :=
  if k = 0 then w.liveOf sp else Table.get (fun _ => 0) sp.masks k

/-- Guard(g): all ones for 0 (00 R7). -/
def Split.guard (sp : Split) (g : Nat) : Dword := if g = 0 then BitVec.allOnes 64 else Table.get (fun _ => 0) sp.masks g

/-- Writes a mask register m1–m7; m0 cannot be written (05 R132). -/
def Split.setMask (sp : Split) (k : Nat) (v : Dword) : Split :=
  if k = 0 then sp else { sp with masks := Table.set (fun _ => 0) sp.masks k v }

/-- The split that issues and its wave. -/
def State.issuing (s : State) : Option (Wave × Split) :=
  match s.wave s.cur.core s.cur.wave with
  | some w => (w.split s.cur.split).map (fun sp => (w, sp))
  | none => none

/-- Changes the issuing wave. -/
def State.onIssuer (s : State) (f : Wave → Wave) : State := s.onWave s.cur.core s.cur.wave f

/-- Changes the issuing split. -/
def State.onIssuingSplit (s : State) (f : Split → Split) : State :=
  s.onIssuer (fun w => w.onSplit s.cur.split f)

/-! ## The program counter (04 R101, R110) -/

/-- After a transfer of control, the loop entries the new PC has left are popped (04 R101). -/
def unwind (depth : BitVec 16) (pc : Dword) : List LoopEntry → List LoopEntry
  | [] => []
  | e :: es =>
    if (e.depth = depth ∧ (pc < e.start ∨ e.stop < pc)) ∨ depth < e.depth then unwind depth pc es else e :: es

/-- A split sent to another address. -/
def Split.jump (sp : Split) (pc : Dword) : Split := { sp with pc := pc, loops := unwind sp.depth pc sp.loops }

/-- The loop end that acts after an instruction whose last word is at `last` (04 R110): the stack and whether the PC
goes back, to where. -/
def loopEnd (depth : BitVec 16) (last : Dword) : List LoopEntry → List LoopEntry × Option Dword
  | [] => ([], none)
  | e :: es =>
    if e.stop = last ∧ e.depth = depth then
      if 1 < e.count then ({ e with count := e.count - 1 } :: es, some e.start) else loopEnd depth last es
    else (e :: es, none)

/-- The class of the cap in force, which %thermclass reads (16 R357, R363, R364). -/
def CoreFlow.capNow (f : CoreFlow) : Nat :=
  if f.evac || f.slow then 0 else if f.overtemp || f.neighbour ≠ 0 then min 1 f.capClass else f.capClass

/-- The split after an instruction that does not transfer control: its PC moves to the next instruction, or to the
start of a loop that its last word ends. -/
def Split.advance (sp : Split) (last next : Dword) : Split :=
  let (ls, back) := loopEnd sp.depth last sp.loops
  { sp with pc := back.getD next, loops := ls, rep := 0, waitsAt := false, missWait := false, skipBp := false,
            ready := 0, promoted := false, young := false, asked := false, reads := {}, rayWait := none, moved := true }

/-- The split after an instruction that sends it to an address; `next` is that of the next instruction, where no loop entry is left
(04 R101). -/
def Split.goto (sp : Split) (next pc : Dword) : Split :=
  let sp := if pc = next then { sp with pc := pc } else sp.jump pc
  { sp with rep := 0, waitsAt := false, missWait := false, skipBp := false, ready := 0, promoted := false, young := false,
            asked := false, reads := {}, rayWait := none, moved := true }

/-- A split after one issue of its instruction: a REP that has repeats left keeps its PC (04 R113). Each repeat is an issue (04 R112;
13 R287). -/
def Split.retire (sp : Split) (aux : Option Aux) (last next : Dword) : Split :=
  match aux with
  | some { rep := some r, op := _, f := _ } =>
    if sp.rep < r.count then { sp with rep := sp.rep + 1, ready := 0, promoted := false, young := false, asked := false,
                                       reads := {}, rayWait := none, moved := true } else sp.advance last next
  | _ => sp.advance last next

/-- Moves the issuing split or service core past its instruction. -/
def State.advance (s : State) : State :=
  match s.cur.svc with
  | some n => s.onSvc n (fun c => { c with pc := s.cur.next })
  | none => s.onIssuingSplit (fun sp => sp.retire s.cur.aux s.cur.caddr s.cur.next)

end Sys2Proof.Machine
end

