-- ==== Sys2Proof/Machine/Walk.lean ====
section
/-! DEFINITION. Translation and the checks on an access (09 R193–R201): the physical map, page walks, the TLBs. -/

namespace Sys2Proof.Machine

/-- What lies at a physical address (09 R193). -/
inductive Place where
  | memory
  | csr (space addr : Nat)
  | peer (p : Nat) (off : Nat)
  | control (off : Nat)
  | reserved
  deriving DecidableEq, Repr

/-- The physical map (09 R193). -/
def placeOf (pa : Nat) : Place :=
  if pa < 0x8000000000 then .memory
  else if pa < 0x8000000000 + 5 * 0x10000 then
    .csr ((pa - 0x8000000000) / 0x10000) ((pa - 0x8000000000) % 0x10000)
  else if 0x100000000000 ≤ pa ∧ pa < 0x100000000000 + 16 * 0x8000000000 then
    .peer ((pa - 0x100000000000) / 0x8000000000) ((pa - 0x100000000000) % 0x8000000000)
  else if 0x200000000000 ≤ pa ∧ pa < 0x300000000000 then .control (pa - 0x200000000000)
  else .reserved

/-- The index of a virtual address at a level of the table (09 R196). -/
def pageIndex (level va : Nat) : Nat := va / 2 ^ (12 + 9 * level) % (if level = 4 then 256 else 512)

/-- The log2 sizes of a page in entries that a level allows (09 R197). -/
def contigAllowed (level c : Nat) : Bool :=
  match level with
  | 0 => c = 0 || c = 2 || c = 4 || c = 6 || c = 8
  | 1 => c = 3 || c = 8
  | 2 => c = 4
  | _ => false

/-- Whether a valid entry is malformed (09 R196, R198). -/
def entryMalformed (level : Nat) (e : Dword) : Bool :=
  let attr := (e.extractLsb' 48 8).toNat
  if e.getLsbD 1 then
    e.extractLsb' 56 8 ≠ 0 || decide (2 < attr) || decide (3 ≤ level) ||
      !contigAllowed level (e.extractLsb' 10 4).toNat || (e.getLsbD 6 && attr ≠ 2)
  else level = 0 || e &&& 0xFFFF000000003FFE ≠ 0

/-- The translation a leaf entry gives (09 R196, R197). -/
def leafEntry (ctx va level : Nat) (e : Dword) : TlbEntry :=
  let size := 2 ^ (12 + 9 * level + (e.extractLsb' 10 4).toNat)
  let frame := (e.extractLsb' 14 34).toNat * 4096
  { ctx := ctx, vbase := va / size * size, pbase := frame / size * size, size := size,
    attr := (e.extractLsb' 48 8).toNat, pin := e.getLsbD 8, wpl := e.getLsbD 7, dev := e.getLsbD 6, np := e.getLsbD 5,
    x := e.getLsbD 4, w := e.getLsbD 3, r := e.getLsbD 2 }

/-- The index and CONTIG of each valid leaf that module memory holds in a table from entry `base` on, `n` entries (09 R197); one of zeros
is no leaf. -/
def State.leavesIn (s : State) (table base n : Nat) : List (Nat × Nat) :=
  let at_ := s.mem.filterMap (fun e =>
    if table + 8 * base ≤ e.1 ∧ e.1 < table + 8 * (base + n) ∧ e.1 % 8 = table % 8 ∧ e.2.getLsbD 0 ∧ e.2.getLsbD 1
    then some ((e.1 - table) / 8) else none)
  at_.map (fun k => (k, ((s.dwordAt (table + 8 * k)).extractLsb' 10 4).toNat))

/-- The entries of which a walk may act on any one at an index (09 R197): the one there, and those of every page that covers it, as some
leaf of theirs gives its size. -/
def State.entryChoices (s : State) (table level i : Nat) : List Nat :=
  let largest := (List.range 9).foldl (fun m c => if contigAllowed level c then c else m) 0
  let block := fun (c : Nat) => i / 2 ^ c * 2 ^ c
  let sizes := ((s.leavesIn table (block largest) (2 ^ largest)).filterMap (fun x =>
    if contigAllowed level x.2 ∧ x.1 / 2 ^ x.2 = i / 2 ^ x.2 then some x.2 else none)).eraseDups
  let c := sizes.foldl max 0
  if c = 0 then [i] else (List.range (2 ^ c)).map (block c + ·)

/-- The entry a walk acts on at an index: a free choice where those that it may act on differ (09 R197; log 3). -/
def State.walkEntry (s : State) (table level va : Nat) : Nat × Dword :=
  let i := pageIndex level va
  let ks := s.entryChoices table level i
  let own := s.dwordAt (table + 8 * i)
  if ks.all (fun k => decide (s.dwordAt (table + 8 * k) = own)) then (table + 8 * i, own)
  else
    let a := table + 8 * ks.getD (Config.freeChoice s.free % ks.length) i
    (a, s.dwordAt a)

/-- What the read of one entry leads to: the walk goes on at a table, or ends. -/
inductive WalkRead where
  | on (table : Nat)
  | done (w : Walked)
  deriving DecidableEq, Repr

/-- A walk reads the entry of an address in a table of a level (09 R196, R198). -/
def State.walkRead (s : State) (ctx va level table : Nat) : WalkRead :=
  let (a, e) := s.walkEntry table level va
  if !e.getLsbD 0 then
    .done { cause := some (if e.getLsbD 9 then .privateGrow else .pageNotPresent), level := level, entry := e, entryAddr := a }
  else if entryMalformed level e then
    .done { cause := some .pageNotPresent, level := level, malformed := true, entry := e, entryAddr := a }
  else if e.getLsbD 1 then .done { level := level, entry := e, entryAddr := a, page := leafEntry ctx va level e }
  else .on ((e.extractLsb' 14 34).toNat * 4096)

/-- The walk from a level down (09 R196). `level` is `fuel − 1`. -/
def State.walkFrom (s : State) (ctx va : Nat) : Nat → Nat → Walked
  | 0, _ => { cause := some .pageNotPresent }
  | level + 1, table =>
    match s.walkRead ctx va level table with
    | .on next => State.walkFrom s ctx va level next
    | .done w => w

/-- Whether a context may be placed and may translate (09 R195). -/
def State.ctxValid (s : State) (ctx : Nat) : Bool := (s.csrAt 4 (0x3000 + 0x10 * ctx + 8)).getLsbD 31

/-- The physical address of a context's top table (09 R195). -/
def State.topTable (s : State) (ctx : Nat) : Nat :=
  (s.csrAt 4 (0x3000 + 0x10 * ctx)).toNat / 4096 * 4096 + 2 ^ 32 * field (s.csrAt 4 (0x3000 + 0x10 * ctx + 4)) 13 0

/-- A walk of a context's table (09 R195, R196). -/
def State.walk (s : State) (ctx va : Nat) : Walked :=
  if s.ctxValid ctx then s.walkFrom ctx va 5 (s.topTable ctx) else { cause := some .pageNotPresent }

/-- Whether a TLB entry serves an address of a context (09 R200). -/
def TlbEntry.serves (e : TlbEntry) (ctx va : Nat) : Bool := e.ctx = ctx && e.vbase ≤ va && va < e.vbase + e.size

/-- The translation a core finds without a walk: in its L1 TLB, or in its die's (09 R200). -/
def State.tlbLook (s : State) (core ctx va : Nat) : Option TlbEntry :=
  match (s.core core).tlb.find? (fun e => e.serves ctx va) with
  | some e => some e
  | none => (s.die (dieOf core)).tlb.find? (fun e => e.serves ctx va)

/-- A list less its last element for which a test holds. -/
def dropLastWhere {α : Type} (p : α → Bool) (l : List α) : List α := (l.reverse.eraseP p).reverse

/-- An L1 TLB with a translation most recently used; the least recently used leaves (09 R200). -/
def l1Fill (l : List TlbEntry) (e : TlbEntry) : List TlbEntry :=
  (e :: l.filter (fun x => decide (x ≠ e))).take 512

/-- A die TLB with a translation most recently used. PIN entries are replaced only by PIN entries, and only when 4,096
are held (09 R201). -/
def dieFill (l : List TlbEntry) (e : TlbEntry) : List TlbEntry :=
  let rest := l.filter (fun x => decide (x ≠ e))
  let held := (rest.filter (fun x => x.pin)).length
  let rest := if e.pin && decide (4096 ≤ held) then dropLastWhere (fun x => x.pin) rest else rest
  let rest := if 32768 ≤ rest.length then dropLastWhere (fun x => !x.pin) rest else rest
  e :: rest

/-- Fills a translation into a core's L1 TLB and its die's TLB (09 R200). -/
def State.tlbFill (s : State) (core : Nat) (e : TlbEntry) : State :=
  (s.onCore core (fun c => { c with tlb := l1Fill c.tlb e })).onDie (dieOf core)
    (fun d => { d with tlb := dieFill d.tlb e })

/-- A hit makes a translation the most recently used: of its core's L1 TLB, or else of its die's TLB, whence it comes into the core's
(09 R200). -/
def State.tlbTouch (s : State) (core ctx va : Nat) : State :=
  match (s.core core).tlb.find? (fun e => e.serves ctx va) with
  | some e => s.onCore core (fun c => { c with tlb := l1Fill c.tlb e })
  | none => match (s.die (dieOf core)).tlb.find? (fun e => e.serves ctx va) with
    | some e => (s.onCore core (fun c => { c with tlb := l1Fill c.tlb e })).onDie (dieOf core)
        (fun d => { d with tlb := e :: d.tlb.filter (fun x => decide (x ≠ e)) })
    | none => s

/-- Removes the translations of a test from every TLB (09 R202). -/
def State.tlbDrop (s : State) (p : TlbEntry → Bool) : State :=
  (s.onCores (fun c => { c with tlb := c.tlb.filter (fun x => !p x) })).onDies (fun d => { d with tlb := d.tlb.filter (fun x => !p x) })

/-- A translation: cached, or by a walk, which counts in WALKED (09 R204). -/
def State.resolve (s : State) (core ctx va : Nat) : Walked :=
  match s.tlbLook core ctx va with
  | some e => { page := e }
  | none => s.walk ctx va

/-- What an access is, for checks 6 to 8 of R199. `plain` is a plain load or store of 32 or 64 bits with EF and MS
0. -/
structure Want where
  read : Bool := false
  write : Bool := false
  exec : Bool := false
  plain : Bool := false
  deriving DecidableEq, Repr

/-- Checks 6, 7 and 8 of R199 on a translation, in order: the cause of the first that fails. -/
def pageFault (e : TlbEntry) (want : Want) : Option StopCause :=
  if (want.read && !e.r) || (want.write && !e.w) || (want.exec && !e.x) then some .pageProtection
  else if e.dev && want.exec then some .fetchDevice
  else if e.dev && !want.plain then some .pageProtection
  else if want.write && e.wpl then some .leaseWrite
  else none

/-- Check 10 of R199. -/
def check10 (e : TlbEntry) (pa : Nat) : Bool :=
  match placeOf pa with
  | .reserved => false
  | .csr _ _ => e.dev
  | _ => true

/-- Checks 6, 7, 8 and 10 of R199 on a translation, in order: the cause, or the physical address. -/
def pageCheck (e : TlbEntry) (va : Nat) (want : Want) : Except StopCause Nat :=
  let pa := e.pbase + (va - e.vbase)
  match pageFault e want with
  | some c => .error c
  | none => if check10 e pa then .ok pa else .error .pageProtection

/-- Checks 1, 2 and 4 to 8 of R199 on one access of `size` bytes whose translation is `w`: a fault, or the physical address and the
translation. -/
def checkTo8 (w : Walked) (va : Dword) (size : Nat) (kind : AccKind) (want : Want) : Except FaultInfo (Nat × TlbEntry) :=
  if 2 ^ 56 ≤ va.toNat then .error { cause := .pageProtection, kind := kind, addr := va }
  else if va.toNat % size ≠ 0 then .error { cause := .misaligned, kind := kind, addr := va }
  else match w.cause with
    | some c => .error { cause := c, kind := kind, addr := va, level := w.level, malformed := w.malformed, entry := w.entry }
    | none => match pageFault w.page want with
      | some c => .error { cause := c, kind := kind, addr := va, level := w.level, entry := w.entry }
      | none => .ok (w.page.pbase + (va.toNat - w.page.vbase), w.page)

/-- Checks 1, 2, 4 to 8 and 10 of R199 on one access of `size` bytes whose translation is `w`: a fault, or the physical
address and the translation. -/
def checkWalked (w : Walked) (va : Dword) (size : Nat) (kind : AccKind) (want : Want) :
    Except FaultInfo (Nat × TlbEntry) :=
  match checkTo8 w va size kind want with
  | .error e => .error e
  | .ok (pa, e) =>
    if check10 e pa then .ok (pa, e)
    else .error { cause := .pageProtection, kind := kind, addr := va, level := w.level, entry := w.entry }

/-- The checks of R199 on an access from a core. -/
def State.check (s : State) (core ctx : Nat) (va : Dword) (size : Nat) (kind : AccKind) (want : Want) :
    Except FaultInfo (Nat × TlbEntry) := checkWalked (s.resolve core ctx va.toNat) va size kind want

/-- The checks of R199 on an access of the hub or of a link agent, which holds no translations. -/
def State.hubCheck (s : State) (ctx : Nat) (va : Dword) (size : Nat) (want : Want) :
    Except FaultInfo (Nat × TlbEntry) := checkWalked (s.walk ctx va.toNat) va size .load want

/-- WALKLIM of a context (09 R195). -/
def State.walkLim (s : State) (ctx : Nat) : Nat := field (s.csrAt 4 (0x3000 + 0x10 * ctx + 8)) 6 0

/-- The walkers that a context holds on a die (09 R204). -/
def State.walksOf (s : State) (die ctx : Nat) : Nat := ((s.die die).walks.filter (fun x => decide (x.ctx = ctx))).length

/-- Whether a walker of a die is free for a context (09 R201). -/
def State.walkerFree (s : State) (die ctx : Nat) : Bool :=
  decide ((s.die die).walks.length < 64) && decide (s.walksOf die ctx < s.walkLim ctx)

/-- Whether a core has a translation of an address, or may walk for it in one step (09 R200, R201). -/
def State.mayTranslate (s : State) (core ctx va : Nat) : Bool :=
  (s.tlbLook core ctx va).isSome || !s.ctxValid ctx || s.walkerFree (dieOf core) ctx

/-- Counts a walk that has ended in WALKED (09 R204). -/
def State.countWalk (s : State) (die ctx : Nat) : State := s.onCsr die (0xA000 + 0x10 * ctx + 0xC) (· + 1)

/-- As `State.check`; a hit makes the translation the most recently used, and one that a walk found comes into the TLBs (09 R200). -/
def State.checkFill (s : State) (core ctx : Nat) (va : Dword) (size : Nat) (kind : AccKind) (want : Want) :
    Except FaultInfo (Nat × TlbEntry) × State :=
  let r := s.check core ctx va size kind want
  let s := if 2 ^ 56 ≤ va.toNat ∨ va.toNat % size ≠ 0 then s
    else if (s.tlbLook core ctx va.toNat).isSome then s.tlbTouch core ctx va.toNat
    else
      let w := s.walk ctx va.toNat
      let s := { s with free := s.free + 1 }
      let s := if s.ctxValid ctx then s.countWalk (dieOf core) ctx else s
      if w.cause.isNone then s.tlbFill core w.page else s
  (r, s)

/-- A request for a walk: a walker takes it, or it waits in the die's queue of 256, or it must be made again (09 R201). -/
def State.requestWalk (s : State) (x : PageWalk) : State :=
  let d := dieOf x.core
  if s.walkerFree d x.ctx then s.onDie d (fun k => { k with walks := k.walks ++ [{ x with table := s.topTable x.ctx }] })
  else if (s.die d).walkQueue.length < 256 then s.onDie d (fun k => { k with walkQueue := k.walkQueue ++ [x] })
  else s

/-- Free walkers take the oldest requests of a die's queue whose contexts hold fewer than their limit (09 R201). -/
def State.takeWalks (s : State) (die : Nat) : State :=
  let q := (s.die die).walkQueue
  q.foldl (fun s x => s.requestWalk x) (s.onDie die (fun k => { k with walkQueue := [] }))

/-- Whether a walk for an operation and a 4 KiB page is under way or waits. -/
def State.walking (s : State) (core wave op page : Nat) : Bool :=
  let d := s.die (dieOf core)
  (d.walks ++ d.walkQueue).any (fun x => x.core = core && x.wave = wave && x.op = op && x.va / 4096 = page)

/-- Starts every walk of a test again from the top (09 R202). -/
def State.restartWalks (s : State) (p : PageWalk → Bool) : State :=
  s.onDies (fun d => { d with walks := d.walks.map (fun x => if p x then { x with left := 5, table := s.topTable x.ctx } else x) })

/-- The addresses of the entries that map a page: 2^CONTIG of them (09 R197). -/
def Walked.entries (w : Walked) : List Nat :=
  let n := 2 ^ (w.entry.extractLsb' 10 4).toNat
  (List.range n).map (fun k => w.entryAddr / (8 * n) * (8 * n) + 8 * k)

/-- Removes the translations that a test names, and makes the walks and the outstanding checks of contexts begin afresh (09 R202). -/
def State.forget (s : State) (entry : TlbEntry → Bool) (hits : Nat → Bool) : State :=
  let s := (s.tlbDrop entry).restartWalks (fun x => hits x.ctx)
  { s with waves := s.waves.map (fun e => (e.1, e.2.map (fun w : Wave =>
      if hits w.ctx then { w with ops := w.ops.map (fun o => if o.passed then o else { o with walked := [] }) } else w))) }

/-- Sets or clears WPL in every entry of the page holding an address, and removes its translations (15 R330). -/
def State.setWpl (s : State) (ctx va : Nat) (on : Bool) : State :=
  let w := s.walk ctx va
  if w.cause.isSome then s
  else
    let s := w.entries.foldl (fun s a =>
      let e := s.dwordAt a
      s.setBytes a (leBytes 8 (if on then e ||| 0x80 else e &&& ~~~0x80#64).toNat)) s
    s.forget (fun e => e.serves ctx va) (fun c => c = ctx)

/-! ## Requests to other devices (19 R412, R414) -/

/-- ARGS of MEMRD and MEMWR. -/
def memArgs (off n : Nat) : BitVec 192 := BitVec.ofNat 192 (off + 2 ^ 64 * n)

/-- ARGS of ATOMIC: the low byte of an OPC of R211, and the operands. -/
def atomArgs (off opc operands : Nat) : BitVec 192 := BitVec.ofNat 192 (off + 2 ^ 56 * (opc % 256) + 2 ^ 64 * operands)

/-- Sends a request on a port and notes who awaits its answer. -/
def State.ask (s : State) (port : Nat) (type : BitVec 8) (ctx : Nat) (args : BitVec 192) (payload : List Byte)
    (req : PeerReq) : State :=
  let n := if type = 0x02 then (args.extractLsb' 64 16).toNat else 0
  { s.send port (mkMsg type ctx s.peerTag args payload) with
    peerReqs := s.peerReqs ++ [{ req with port := port, tag := s.peerTag, bytes := n }], peerTag := s.peerTag + 1 }

/-- The far side of a place in a window: the port and the offset. -/
def windowOf (pa : Nat) : Option (Nat × Nat) :=
  match placeOf pa with
  | .peer p off => some (peerPort p, off)
  | .control off => some (0, off)
  | _ => none

end Sys2Proof.Machine
end

