-- ==== Sys2Proof/Machine/Cache.lean ====
section
/-! DEFINITION. The caches (09 R194, R203–R205) and who lies within a scope of whom (10 R214, R215): the lines that L1 and L2 hold, writes at
their home, stores on their way there (the store staging buffer), and what a release waits for (10 R219, R222). -/

namespace Sys2Proof.Machine

/-! ## Scopes (10 R215) -/

/-- The core at which an agent stands. -/
def Post.core : Post → Option Nat
  | .lane c _ | .unit c _ => some c
  | _ => none

/-- The compute die on which an agent stands: SC4 is on the hub, and ports are beyond it. -/
def Post.die : Post → Option Nat
  | .lane c _ | .unit c _ => some (dieOf c)
  | .svc n => if n < 4 then some n else none
  | .bin d => some d
  | .port _ => none

/-- Whether an agent is one of the module. -/
def Post.inModule : Post → Bool
  | .port _ => false
  | _ => true

/-- Whether two agents both stand at a place, and the same one. -/
def sameSome (a b : Option Nat) : Bool := a.isSome && a = b

/-- Whether agent y lies within scope `scope` of agent x (10 R215). -/
def inScope (scope : Nat) (x y : Post) : Bool :=
  x = y || (match scope with
    | 2 => sameSome x.core y.core
    | 3 => sameSome (x.core.map (· / 4)) (y.core.map (· / 4))
    | 4 => sameSome x.die y.die
    | 5 => x.inModule && y.inModule
    | 6 => true
    | _ => false)

/-! ## Lines (09 R194) -/

/-- The line of a physical address: its home die × 2³² + its index Ln. -/
def lineOf (pa : Nat) : Nat := pa / 2 ^ 37 * 2 ^ 32 + pa % 2 ^ 37 / 192

/-- The first byte of a line. -/
def lineBase (n : Nat) : Nat := n / 2 ^ 32 * 2 ^ 37 + n % 2 ^ 32 * 192

/-- Whether an address is one of the last 128 bytes of a die's range, which form no line. -/
def noLine (pa : Nat) : Bool := decide (2 ^ 37 - 128 ≤ pa % 2 ^ 37)

/-- The channel of a line, which is also its L2 slice on its home die. -/
def lineSlice (n : Nat) : Nat :=
  let k := n % 2 ^ 32
  (k % 16) ^^^ (k / 16 % 16) ^^^ (k / 256 % 16)

/-- The set of a line in an L2, by 2048 × slice + set. -/
def l2Set (n : Nat) : Nat := 2048 * lineSlice n + n % 2 ^ 32 / 16 % 2048

/-- The set of a line in an L1 data cache (09 R203). -/
def l1Set (n : Nat) : Nat := lineBase n / 192 % 340

/-- The attribute by which the caches treat an access (09 R194, R204): the last bytes of a die's range and DEV pages as ATTR 2. -/
def cacheAttr (attr : Nat) (dev : Bool) (pa : Nat) : Nat := if dev || noLine pa || decide (2 ^ 39 ≤ pa) then 2 else attr

/-! ## The L1 data cache (09 R203) -/

/-- The ways of every set of a core's L1 that the spill reserve leaves to data lines (05 R115). -/
def State.l1Ways (s : State) (core : Nat) : Nat :=
  16 - (field (s.csrAt (dieOf core) (0x1010 + 0x40 * (core % 16))) 27 21 * 16384 + 65279) / 65280

/-- A line that a core holds for a context. -/
def State.l1Line (s : State) (core ctx line : Nat) : Option L1Line :=
  (Table.get nilAt (s.core core).l1 (l1Set line)).find? (fun x => x.line = line && x.ctx = ctx)

/-- A sector that a core holds for a context. -/
def State.l1Sector (s : State) (core ctx pa : Nat) : Option L1Sector :=
  match s.l1Line core ctx (lineOf pa) with
  | some x => Table.get noneAt x.sectors (sectorOf pa % 4)
  | none => none

/-- Puts a line in a set: first, or in last place of the ways when `low`. -/
def placeLine {α : Type} (ways : Nat) (low : Bool) (x : α) (rest : List α) : List α :=
  if low then rest.take (ways - 1) ++ [x] else (x :: rest).take ways

/-- Changes one set of a core's L1. -/
def State.onL1Set (s : State) (core set : Nat) (f : List L1Line → List L1Line) : State :=
  s.onCore core (fun c => { c with l1 := Table.update nilAt c.l1 set f })

/-- A hit makes a line the most recently used of its set. -/
def State.touchL1 (s : State) (core ctx pa : Nat) : State :=
  match s.l1Line core ctx (lineOf pa) with
  | some x => s.onL1Set core (l1Set x.line) (fun l => x :: l.filter (fun y => decide (y ≠ x)))
  | none => s

/-- Fills the sector of an address from its home into a core's L1, with its poison (09 R203, R205); with EF = 1 a line that was not
there comes in as the least recently used (R204). -/
def State.fillL1 (s : State) (core ctx pa : Nat) (ef : Bool) : State :=
  if noLine pa then s
  else
    let line := lineOf pa
    let base := sectorBase (sectorOf pa)
    let sec : L1Sector := { bytes := s.bytes base 48, poison := Table.get falseAt s.memPoison (sectorOf pa) }
    let old := s.l1Line core ctx line
    let x := old.getD { line := line, ctx := ctx }
    let x := { x with sectors := Table.set noneAt x.sectors (sectorOf pa % 4) (some sec) }
    s.onL1Set core (l1Set line) (fun l =>
      placeLine (s.l1Ways core) (ef && old.isNone) x (l.filter (fun y => !(y.line = line && y.ctx = ctx))))

/-- Changes the sectors of every line of a core's L1; a line left without sectors goes. -/
def Core.onSectors (c : Core) (f : Nat → L1Sector → Option L1Sector) : Core :=
  { c with l1 := c.l1.filterMap (fun e =>
      let l := (e.2.map (fun x => { x with sectors := x.sectors.filterMap (fun y =>
        match y.2 with
        | some z => (f (4 * x.line + y.1) z).map (fun z => (y.1, some z))
        | none => none) })).filter (fun x => !x.sectors.isEmpty)
      if l.isEmpty then none else some (e.1, l)) }

/-- The sectors, by 4 × line + number, that n bytes touch. -/
def sectorSpan (pa n : Nat) (k : Nat) : Bool := decide (sectorOf pa ≤ k) && decide (k ≤ sectorOf (pa + n - 1))

/-- Removes a core's L1 copies of the sectors that bytes lie in. -/
def State.dropSectors (s : State) (core pa n : Nat) : State :=
  s.onCore core (fun c => c.onSectors (fun k z => if sectorSpan pa n k then none else some z))

/-- Removes a core's L1 copies of the lines that bytes lie in (12 R251). -/
def State.dropLines (s : State) (core pa n : Nat) : State :=
  s.onCore core (fun c => c.onSectors (fun k z =>
    if lineOf pa ≤ k / 4 ∧ k / 4 ≤ lineOf (pa + n - 1) then none else some z))

/-- Removes every line of a core's L1 that a test on its context names. -/
def Core.dropCtx (c : Core) (p : Nat → Bool) : Core :=
  { c with l1 := c.l1.filterMap (fun e =>
      let l := e.2.filter (fun x => !p x.ctx)
      if l.isEmpty then none else some (e.1, l)) }

/-- The lines of a core's L1 beyond the ways left to data leave it (05 R115). -/
def State.trimL1 (s : State) (core : Nat) : State :=
  s.onCore core (fun c => { c with l1 := c.l1.map (fun e => (e.1, e.2.take (s.l1Ways core))) })

/-! ## The L1 instruction cache (10 R216; 14 R324) -/

/-- The words that a core may issue for an address of a context, of those it holds. -/
def Core.iwords (c : Core) (ctx a : Nat) : List Dword :=
  (((Table.get nilAt c.icache (a / 128 % 128)).find? (fun x => x.ctx = ctx && x.line = a / 128)).map (fun x =>
    Table.get nilAt x.words (a / 8 % 16))).getD []

/-- Puts a line first in its set; where that has 16 others, the least recently used that is not locked leaves it (14 R324). -/
def Core.putLine (c : Core) (x : ILine) : Core :=
  { c with icache := Table.update nilAt c.icache (x.line % 128) (fun l =>
      let rest := l.filter (fun y => !(y.ctx = x.ctx && y.line = x.line))
      if rest.length < 16 then x :: rest
      else match (rest.reverse.find? (fun y => !c.locked.contains (y.ctx, y.line))) with
        | some out => x :: rest.filter (fun y => decide (y ≠ out))
        | none => rest) }

/-- A core keeps words that it has fetched of a line, by their places in it. -/
def Core.keepWords (c : Core) (ctx line : Nat) (ws : List (Nat × Dword)) : Core :=
  let old := ((Table.get nilAt c.icache (line % 128)).find? (fun x => x.ctx = ctx && x.line = line)).getD { ctx := ctx, line := line }
  c.putLine { old with words := ws.foldl (fun t x => Table.update nilAt t x.1 (fun l => x.2 :: l.filter (fun v => decide (v ≠ x.2)))) old.words }

/-- A core drops its instruction lines of a context (14 R319); those locked stay so, and are fetched again. -/
def Core.flushLines (c : Core) (ctx : Nat) : Core :=
  { c with icache := c.icache.filterMap (fun e =>
      let l := e.2.filter (fun x => decide (x.ctx ≠ ctx))
      if l.isEmpty then none else some (e.1, l)) }

/-- The words of a line that lie within code segments (14 R323), as memory holds them; `pa` is the line's first byte there. -/
def State.lineWords (s : State) (segs : List (Nat × Nat × Nat)) (line pa : Nat) : List (Nat × Dword) :=
  ((List.range 16).filter (fun k => segs.any (fun x => x.1 ≤ 128 * line + 8 * k && 128 * line + 8 * k + 8 ≤ x.1 + x.2.1))).map (fun k =>
    (k, s.dwordAt (pa + 8 * k)))

/-! ## The L2 (09 R203) -/

/-- The ways of a die's L2 that hold data: 14 while the DEC-TED mode has or takes ways 14 and 15 (15 R346). -/
def State.l2Ways (s : State) (die : Nat) : Nat := if field (s.csrAt die 0x0604) 1 0 = 0 then 16 else 14

/-- Fills a line into a die's L2 on behalf of a context, or makes it the most recently used there. -/
def State.fillL2Die (s : State) (die ctx line : Nat) (ef : Bool) : State :=
  s.onDie die (fun d => { d with l2 := Table.update nilAt d.l2 (l2Set line) (fun l =>
    let old := l.find? (fun x => decide (x.line = line))
    placeLine (s.l2Ways die) (ef && old.isNone) (old.getD { line := line, ctx := ctx })
      (l.filter (fun x => decide (x.line ≠ line)))) })

/-- The line of an address comes into the L2 of its home die, and of the die that asks (09 R203; log 10). -/
def State.fillL2 (s : State) (die ctx pa : Nat) (ef : Bool) : State :=
  if noLine pa then s
  else
    let home := pa / 2 ^ 37
    let s := s.fillL2Die home ctx (lineOf pa) ef
    if die = home then s else s.fillL2Die die ctx (lineOf pa) ef

/-- The lines of a die's L2 beyond the ways that hold data leave it (15 R346). -/
def State.trimL2 (s : State) (die : Nat) : State :=
  s.onDie die (fun d => { d with l2 := d.l2.map (fun e => (e.1, e.2.take (s.l2Ways die))) })

/-! ## Writes at their home -/

/-- Writes bytes of module memory and the poison that follows (09 R205). -/
def State.putMem (s : State) (pa : Nat) (bs : List Byte) : State := (s.setBytes pa bs).clearPoison pa bs.length

/-- A write of an agent performed at its home: the cores named lose their L1 copies of its sectors, and other cores' copies are late by it
(10 R224). -/
def State.writeHome (s : State) (who : Post) (near : List Nat) (pa : Nat) (bs : List Byte) : State :=
  let mark : Nat → L1Sector → Option L1Sector := fun k z =>
    if sectorSpan pa bs.length k then some { z with late := if z.late.contains who then z.late else z.late ++ [who] } else some z
  let s := s.putMem pa bs
  s.cores.foldl (fun s e =>
    if e.2.l1.isEmpty then s
    else if near.contains e.1 then s.dropSectors e.1 pa bs.length else s.onCore e.1 (fun c => c.onSectors mark)) s

/-- What an acquire does to its core's L1 data cache: at cluster scope or wider no older value is returned (10 R224). -/
def State.acquireAt (s : State) (core scope : Nat) : State :=
  if scope < 3 then s else s.onCore core (fun c => { c with l1 := [] })

/-! ## Stores on their way (09 R203; 10 R219, R222) -/

/-- A part of a store that stands in its core's staging buffer: whose it is, where, its data. -/
structure Staged where
  core : Nat
  wave : Nat
  op : Nat
  k : Nat
  part : AccUnit
  bytes : List Byte
  deriving DecidableEq, Repr

/-- Sixteen free bytes. -/
def freeBytes (k : Nat) : List Byte := leBytes 8 (Config.freeDword k).toNat ++ leBytes 8 (Config.freeDword (k + 1)).toNat

/-- The data that a part stores. -/
def MemOp.bytesOf (o : MemOp) (u : AccUnit) : List Byte :=
  match u.undef with
  | some k => (freeBytes k).take u.len
  | none => ((leBytes 16 (Table.get zeroQuad o.data u.lane).toNat).drop u.off).take u.len

/-- Whether a part of an operation of a core stands staged. -/
def AccUnit.staged (u : AccUnit) : Bool := u.sent && !u.done && placeOf u.pa = .memory

/-- Whether a staged part is seen at a core: at its own, `home`, and where it has come since (10 R222). -/
def AccUnit.seenAt (u : AccUnit) (home core : Nat) : Bool := core = home || u.reached.contains core

/-- The staged parts of the module, in the order in which they were staged. -/
def State.stagedAll (s : State) : List Staged :=
  sortBy (fun a b => decide (a.part.stamp ≤ b.part.stamp)) (s.waves.flatMap (fun e => match e.2 with
    | none => []
    | some w => w.ops.flatMap (fun o => if o.space = .scratch then [] else
        (o.units.zipIdx.filter (fun u => u.1.staged)).map (fun u =>
          { core := e.1 / 512, wave := e.1 % 512, op := o.id, k := u.2, part := u.1, bytes := o.bytesOf u.1 }))))

/-- The staged parts that a core sees, the oldest first. -/
def State.staged (s : State) (core : Nat) : List Staged := s.stagedAll.filter (fun x => x.part.seenAt x.core core)

/-- Whether two byte ranges meet. -/
def meets (a n b m : Nat) : Bool := decide (a < b + m) && decide (b < a + n)

/-- Whether a part of an operation of core `home` is performed as far as the agents within a scope of that core go: at its home, or, up to
cluster scope, where each of their cores sees it (10 R219, R222). -/
def AccUnit.covers (u : AccUnit) (home scope core : Nat) : Bool :=
  u.done || (u.staged && decide (scope < 4) &&
    (if scope < 3 then [core] else (List.range 4).map (core / 4 * 4 + ·)).all (fun c => u.seenAt home c))

/-- Whether the staged stores of agents within a release's scope, which the releasing agent may have read, are performed as far as that
scope goes (10 R222); part `k` of an operation is not among them. -/
def State.releaseReady (s : State) (core wave scope : Nat) (less : Option (Nat × Nat)) : Bool :=
  (s.staged core).all (fun x => (x.core = core && x.wave = wave && less = some (x.op, x.k)) ||
    !inScope scope (.lane core wave) (.lane x.core x.wave) || x.part.covers x.core scope core)

/-- The n bytes from an address on as a core sees them: staged stores over those of module memory. -/
def State.coreBytes (s : State) (core pa n : Nat) : List Byte :=
  let st := s.staged core
  (List.range n).map (fun k =>
    match (st.filter (fun e => e.part.pa ≤ pa + k && pa + k < e.part.pa + e.part.len)).getLast? with
    | some e => e.bytes.getD (pa + k - e.part.pa) 0
    | none => s.byte (pa + k))

/-- Whether no staged store that a core sees touches n bytes. -/
def State.noStagedAt (s : State) (core pa n : Nat) : Bool := (s.staged core).all (fun e => !meets e.part.pa e.part.len pa n)

/-- What a core finds of n bytes without going to their home. -/
inductive Near where
  | none
  | bytes (l : List Byte)
  | poison
  deriving DecidableEq, Repr

/-- A byte that a load of a scope finds in its core: of the youngest staged store, else of the L1 line of its context, unless an agent within
the scope has written the sector since it was filled (09 R203; 10 R224). -/
def State.nearByte (s : State) (core wave ctx scope : Nat) (st : List Staged) (a : Nat) : Near :=
  match (st.filter (fun e => e.part.pa ≤ a && a < e.part.pa + e.part.len)).getLast? with
  | some e => .bytes [e.bytes.getD (a - e.part.pa) 0]
  | none => match s.l1Sector core ctx a with
    | some z =>
      if z.late.any (fun y => inScope scope (.lane core wave) y) then .none
      else if z.poison then .poison
      else .bytes [z.bytes.getD (a - sectorBase (sectorOf a)) 0]
    | none => .none

/-- What a load of a scope finds of n bytes in its core; poison where one of them is, and all are there. -/
def State.nearBytes (s : State) (core wave ctx scope pa n : Nat) : Near :=
  let st := s.staged core
  (List.range n).foldl (fun acc k => match acc, s.nearByte core wave ctx scope st (pa + k) with
    | .none, _ | _, .none => .none
    | .poison, _ | _, .poison => .poison
    | .bytes l, .bytes m => .bytes (l ++ m)) (.bytes [])

/-- A staged part goes to its home. -/
def State.drainPart (s : State) (x : Staged) : State :=
  (s.writeHome (.lane x.core x.wave) (x.core :: x.part.reached) x.part.pa x.bytes).onWave x.core x.wave (fun w =>
    { w with ops := w.ops.map (fun o => if o.id = x.op then
        { o with units := o.units.zipIdx.map (fun u => if u.2 = x.k then { u.1 with done := true, sent := false } else u.1) } else o) })

/-- Before an engine of a core writes n bytes, the staged stores on them that the core sees go to their homes, and with them all that were
staged before them (10 R219). -/
def State.drainAt (s : State) (core pa n : Nat) : State :=
  match ((s.staged core).filter (fun e => meets e.part.pa e.part.len pa n)).getLast? with
  | none => s
  | some y => (s.stagedAll.filter (fun x => decide (x.part.stamp ≤ y.part.stamp))).foldl State.drainPart s

/-- A write of unit k of a core to module memory (10 R214): its core loses its L1 copies of the lines written (12 R251; 10 R231). -/
def State.unitPut (s : State) (core k pa : Nat) (bs : List Byte) : State :=
  ((s.drainAt core pa bs.length).dropLines core pa bs.length).writeHome (.unit core k) [core] pa bs

/-- Before a wave goes, its staged stores, which others may have read, go to their homes, and with them all that were staged before them
(10 R220, R233). -/
def State.drainWave (s : State) (core wave : Nat) : State :=
  let all := s.stagedAll
  match (all.filter (fun x => x.core = core && x.wave = wave)).getLast? with
  | none => s
  | some y => (all.filter (fun x => decide (x.part.stamp ≤ y.part.stamp))).foldl State.drainPart s

end Sys2Proof.Machine
end

