-- ==== Sys2Proof/Machine/Offer.lean ====
section
/-! DEFINITION. What the bring-up stage and the ENABLE words offer (19 R415, R416). -/

namespace Sys2Proof.Machine

/-- The stage (19 R416). -/
def State.stage (s : State) : Nat := field (s.csrAt 4 0x7B00) 1 0

/-- FEAT of a word: the features the part holds show from stage S3 on (19 R415). -/
def State.feat (s : State) (k : Nat) : Word := if k = 0 ∧ s.stage = 3 then Config.features.setWidth 32 else 0

/-- ENABLE of a word: a bit whose FEAT bit is 0 reads 0 (19 R415). -/
def State.enable (s : State) (k : Nat) : Word := s.csrAt 4 (0x7A10 + 4 * k) &&& s.feat k

/-- Whether a feature is enabled (19 R415). -/
def State.feature (s : State) (k : Nat) : Bool := (s.enable 0).getLsbD k

/-- Whether an OPC lies in a range. -/
def opcIn (lo hi o : Nat) : Bool := lo ≤ o && o ≤ hi

/-- The opcodes that S1 offers (19 R416). -/
def offeredS1 (o : Nat) : Bool :=
  opcIn 0x000 0x029 o || opcIn 0x030 0x03F o || opcIn 0x080 0x19B o || opcIn 0x200 0x20C o || opcIn 0x220 0x235 o ||
    o = 0x260

/-- The opcodes that S2 refuses (19 R416). -/
def refusedS2 (o : Nat) : Bool := (opcIn 0x280 0x287 o && o ≠ 0x283) || opcIn 0x380 0x38B o || opcIn 0x390 0x395 o

/-- Whether the stage and the features offer an opcode to a wave: otherwise it stops with PRIVILEGE (02 R28). A pair frame is
asked about as OPC 0x080, since its halves are lanewise opcodes. -/
def State.offers (s : State) (o : Nat) : Bool :=
  match s.stage with
  | 3 =>
    if opcIn 0x280 0x287 o && o ≠ 0x283 && o ≠ 0x284 then s.feature 0
    else if opcIn 0x380 0x38B o then s.feature 5
    else if opcIn 0x390 0x395 o then s.feature 6
    else true
  | 2 => !refusedS2 o
  | _ => offeredS1 o

end Sys2Proof.Machine
end

