-- ==== Sys2Proof/Machine/Record.lean ====
section
/-! DEFINITION. The fields of a launch record (13 R277). -/

namespace Sys2Proof.Machine

/-! ## Launch records (13 R277) -/

/-- Word k of a launch's record. -/
def Launch.w (l : Launch) (k : Nat) : Word := l.words.getD k 0

/-- Words k and k+1 of a launch's record as 64 bits. -/
def Launch.pair (l : Launch) (k : Nat) : Dword := pairOf (l.w k) (l.w (k + 1))

/-- A flag of w1: 0 IDEM, 1 PINNED, 2 REPLAY, 3 VISGATE, 4 DEBUG, 5 CLUSTER, 6 EXCL, 7 DEQUE. -/
def Launch.flag (l : Launch) (k : Nat) : Bool := (l.w 1).getLsbD k

/-- CLASS of a launch. -/
def Launch.klass (l : Launch) : Nat := field (l.w 0) 23 16

/-- PRIO of a launch. -/
def Launch.prio (l : Launch) : Nat := field (l.w 0) 31 24

/-- CSIZE of a launch. -/
def Launch.csize (l : Launch) : Nat := field (l.w 5) 19 16

/-- WAVES of a launch. -/
def Launch.nwaves (l : Launch) : Nat := field (l.w 5) 15 8

/-- W of a launch. -/
def Launch.width (l : Launch) : Nat := 2 ^ field (l.w 5) 2 0

/-- The number of groups of a launch. -/
def Launch.groups (l : Launch) : Nat := (l.w 6).toNat * (l.w 7).toNat * (l.w 8).toNat

end Sys2Proof.Machine
end

