-- ==== Sys2Proof/Machine/Coolant.lean ====
section
/-! DEFINITION. Coolant zones, the allocation table, grants, and the class and clock of a core (16 R348–R358, R361; 01 R23). -/

namespace Sys2Proof.Machine

/-! ## Zones (16 R348) -/

/-- The zone that cools a core. -/
def coreZone (c : Nat) : Nat := c / 16 * 20 + c % 16

/-- The core that a zone cools, if it is a core zone. -/
def zoneCore (z : Nat) : Option Nat := if z < 80 ∧ z % 20 < 16 then some (z / 20 * 16 + z % 20) else none

/-- The neighbours of a core's zone, as cores. -/
def neighbourCores (c : Nat) : List Nat :=
  (if c % 16 = 0 then [] else [c - 1]) ++ (if c % 16 = 15 then [] else [c + 1])

/-! ## The allocation table (16 R351) -/

/-- The low word of a zone's entry: GRANT [7:0], CEIL, GUAR. -/
def State.catLo (s : State) (z : Nat) : Word := s.csrAt 4 (0x6800 + 8 * z)

/-- The high word of a zone's entry: VALVE, OWNER, STATE, PRI, GRANT [11:8]. -/
def State.catHi (s : State) (z : Nat) : Word := s.csrAt 4 (0x6800 + 8 * z + 4)

/-- Changes the low word of a zone's entry. -/
def State.onCatLo (s : State) (z : Nat) (f : Word → Word) : State := s.onCsr 4 (0x6800 + 8 * z) f

/-- Changes the high word of a zone's entry. -/
def State.onCatHi (s : State) (z : Nat) (f : Word → Word) : State := s.onCsr 4 (0x6800 + 8 * z + 4) f

/-- GUAR. -/
def State.guar (s : State) (z : Nat) : Nat := field (s.catLo z) 11 0

/-- CEIL. -/
def State.ceil (s : State) (z : Nat) : Nat := field (s.catLo z) 23 12

/-- GRANT. -/
def State.grant (s : State) (z : Nat) : Nat := field (s.catLo z) 31 24 + 256 * field (s.catHi z) 3 0

/-- PRI. -/
def State.pri (s : State) (z : Nat) : Nat := field (s.catHi z) 7 4

/-- STATE: 0 idle, 1 active, 2 evacuating, 3 failed, 4 closed. -/
def State.zoneState (s : State) (z : Nat) : Nat := field (s.catHi z) 10 8

/-- OWNER. -/
def State.owner (s : State) (z : Nat) : Nat := field (s.catHi z) 15 11

/-- Sets GRANT. -/
def State.setGrant (s : State) (z g : Nat) : State :=
  if s.grant z = g then s
  else (s.onCatLo z (fun v => setField v 31 24 (g % 256))).onCatHi z (fun v => setField v 3 0 (g / 256 % 16))

/-- Sets STATE. -/
def State.setZoneState (s : State) (z st : Nat) : State := s.onCatHi z (fun v => setField v 10 8 st)

/-- SUPPLYCAP, at most 4,000 (16 R350). -/
def State.supplyCap (s : State) : Nat := min 4000 (field (s.csrAt 4 0x6610) 11 0)

/-- GUARSUM: the guarantees that count (16 R351, R352). -/
def State.guarSum (s : State) : Nat :=
  ((List.range 84).map (fun z => if 3 ≤ s.zoneState z then 0 else s.guar z)).sum

/-- The guarantee of a class (16 R353). -/
def classGuar (k : Nat) : Nat :=
  match k with | 0 => 4 | 1 => 20 | 2 => 45 | _ => 60

/-- Zones in state 1, by highest PRI and then lowest number (16 R354). -/
def State.surplusOrder (s : State) : List Nat :=
  (List.range 16).flatMap (fun k => (List.range 84).filter (fun z => s.zoneState z = 1 && s.pri z = 15 - k))

/-- Recomputes every grant (16 R354). The CFU sets GUAR of a core zone with OWNER 0 from its class (R351). -/
def State.regrant (s : State) : State :=
  let s := (List.range 64).foldl (fun s c =>
    let z := coreZone c
    let g := classGuar (s.core c).flow.klass
    if s.owner z = 0 ∧ s.guar z ≠ g then s.onCatLo z (fun v => setField v 11 0 g) else s) s
  let base := fun (z : Nat) => if 3 ≤ s.zoneState z then 0 else if s.zoneState z = 2 then s.ceil z else s.guar z
  let supply := min s.supply s.supplyCap
  let s := (List.range 84).foldl (fun s z => s.setGrant z (base z)) s
  let left := supply - ((List.range 84).map base).sum
  let s := (s.surplusOrder.foldl (fun (x : State × Nat) z =>
    let extra := min x.2 (x.1.ceil z - x.1.grant z)
    (x.1.setGrant z (x.1.grant z + extra), x.2 - extra)) (s, left)).1
  (List.range 84).foldl (fun s z =>
    if s.grant z = 0 ∧ field (s.catHi z) 23 16 ≠ 0 then s.onCatHi z (fun v => setField v 23 16 0) else s) s

/-! ## Classes and clocks (16 R355–R358) -/

/-- Changes the flow state of a core. -/
def State.onFlow (s : State) (c : Nat) (f : CoreFlow → CoreFlow) : State := s.onCore c (fun x => { x with flow := f x.flow })

/-- The setting that a class's cap allows (16 R353, R358; 19 R415). -/
def State.capSetting (s : State) (k : Nat) : Nat :=
  match k with
  | 0 => 8
  | 1 | 2 => 34
  | _ => if s.feature 1 then 40 else 34

/-- The setting in force (16 R358); 0.40 GHz in stage S1 and during an evacuation (19 R416, 16 R364). -/
def State.effective (s : State) (c : Nat) : Nat :=
  let f := (s.core c).flow
  let target := field (s.csrAt (dieOf c) (0x0900 + 4 * (c % 16))) 5 0
  if s.stage = 1 || f.evac || f.slow then 0 else min target (min (s.capSetting f.capNow) f.powerCap)

/-- Shows the setting in force in CLKSET. -/
def State.refreshClock (s : State) (c : Nat) : State :=
  let e := s.effective c
  if field (s.csrAt (dieOf c) (0x0900 + 4 * (c % 16))) 13 8 = e then s
  else s.onCsr (dieOf c) (0x0900 + 4 * (c % 16)) (fun v => setField v 13 8 e)

/-- The class that a core's groups and requests ask for (16 R355). -/
def State.wantClass (s : State) (c : Nat) : Nat :=
  let therm := (s.groupsOn c).foldl (fun m g => max m (((s.launch g.2.launch).map (fun l => field (l.w 15) 3 0)).getD 0)) 0
  (s.wavesOn c).foldl (fun m w => max m w.2.flow) therm

/-- Whether a core's class may rise to k now (16 R355, R356). -/
def State.mayRise (s : State) (c k : Nat) : Bool :=
  let z := coreZone c
  if k ≤ (s.core c).flow.klass then true
  else if s.owner z = 1 then decide (classGuar k ≤ s.guar z)
  else decide (s.guarSum - (if 3 ≤ s.zoneState z then 0 else s.guar z) + classGuar k ≤ s.supplyCap)

/-- Sets the class of a core: a rise changes the flow first and the cap later, a fall the cap first (16 R355, R357). -/
def State.setClass (s : State) (c k : Nat) : State :=
  let f := (s.core c).flow
  if f.klass < k then
    if s.mayRise c k then
      (s.onFlow c (fun f => { f with klass := k, rise := true, riseAt := (s.svc 4).cycle.toNat })).regrant
    else s
  else if k < f.klass then
    ((s.onFlow c (fun f => { f with klass := k, capClass := min f.capClass k, rise := decide (f.capClass < k) })).refreshClock
      c).regrant
  else s

/-- Applies R355 to a core: STATE is 1 while it holds a group, and its class is what its groups and requests ask for. A core that
SUPPLY_DROP has lowered does not rise (R361). -/
def State.applyClass (s : State) (c : Nat) : State :=
  let z := coreZone c
  let st := if (s.groupsOn c).isEmpty then 0 else 1
  let s := if s.zoneState z ≤ 1 ∧ s.zoneState z ≠ st then (s.setZoneState z st).regrant else s
  let want := s.wantClass c
  s.setClass c (if s.lowered.contains c then min want (s.core c).flow.klass else want)

end Sys2Proof.Machine
end

