-- ==== Sys2Proof/Machine/Life.lean ====
section
/-! DEFINITION. How waves, groups and launches leave: the fault record (09 R213, 14 R306), the ends of waves and groups
(04 R98; 08 R177, R188; 13 R280), kill (14 R310, R311), discard (13 R297), and the Umpire's bookkeeping at those
moments (15 R329–R340). -/

namespace Sys2Proof.Machine

/-! ## Groups and launches -/

/-- The launch of a group. -/
def State.launchOf (s : State) (g : Nat) : Option Launch :=
  match s.group g with
  | some x => s.launch x.launch
  | none => none

/-- Whether a wave runs in shadow mode (15 R337). -/
def State.shadowOf (s : State) (g : Nat) : Bool := ((s.group g).map (fun x => x.shadow.isSome)).getD false

/-- Whether a group may be discarded as far as IDEM goes (13 R294; 15 R336). -/
def State.groupIdem (s : State) (g : Nat) : Bool :=
  match s.group g with
  | some x => x.shadow.isSome || ((s.launch x.launch).map (fun l => l.flag 0)).getD false
  | none => false

/-- Whether a group is pinned; a replay never is (13 R294). -/
def State.groupPinned (s : State) (g : Nat) : Bool :=
  match s.group g with
  | some x => x.shadow.isNone && ((s.launch x.launch).map (fun l => l.flag 1)).getD false
  | none => false

/-- The groups of a group's cluster, itself included. -/
def State.clusterOf (s : State) (g : Nat) : List (Nat × Group) :=
  match s.group g with
  | some x => s.groups.filterMap (fun e => match e.2 with
    | some y => if y.cluster = x.cluster then some (e.1, y) else none
    | none => none)
  | none => []

/-- Whether a group is one that triggers discard with its cluster: IDEM and not PINNED (13 R294), and none that has issued an EMITM and not ended
(17 R376). -/
def State.discardable (s : State) (g : Nat) : Bool :=
  s.groupIdem g && !s.groupPinned g && (s.clusterOf g).all (fun y => !y.2.emitted || y.2.ending)

/-! ## Codes -/

/-- The code of a cause (14 R299). -/
def causeCode : StopCause → Nat
  | .illegalOpcode => 0x01 | .illegalEncoding => 0x02 | .illegalPair => 0x03 | .illegalOperand => 0x04
  | .privilege => 0x05 | .fetchSegment => 0x08 | .fetchDevice => 0x09 | .pageNotPresent => 0x10
  | .pageProtection => 0x11 | .privateGrow => 0x12 | .misaligned => 0x13 | .leaseWrite => 0x14 | .poisonLoad => 0x18
  | .poisonRegister => 0x19 | .fuseTimeout => 0x20 | .divergenceSpillLimit => 0x21 | .loopStackOverflow => 0x22
  | .signatureMismatch => 0x23 | .breakpoint => 0x28 | .softwareTrap => 0x29 | .debugStep => 0x2A | .kill => 0x30
  | .discard => 0x31 | .zoneEvacuation => 0x32 | .benched => 0x33

/-- The code of an access kind (09 R213). -/
def kindCode : AccKind → Nat
  | .fetch => 0 | .load => 1 | .store => 2 | .atomic => 3 | .scalarLoad => 4 | .scalarStore => 5 | .scratchpad => 6
  | .spill => 7 | .engineRead => 8 | .engineWrite => 9 | .ray => 10 | .texture => 11

/-! ## Fault records -/

/-- The six 64-bit words of a fault record (09 R213). -/
def faultRecord (info : FaultInfo) (ctx split : Nat) (launchid : Word) (core replay wave : Nat) (pc seq fill : Dword) :
    List Dword :=
  let b3 := info.level * 32 + (if info.malformed then 16 else 0) + split % 4
  let lane := match info.lane with
    | some l => l
    | none => if info.kind ∈ [.scalarLoad, .scalarStore, .engineRead, .engineWrite, .ray] then 0x3F else (fill.extractLsb' 0 6).toNat
  [BitVec.ofNat 64 (causeCode info.cause + 2 ^ 8 * kindCode info.kind + 2 ^ 16 * ctx + 2 ^ 24 * b3 +
      2 ^ 32 * launchid.toNat),
    BitVec.ofNat 64 (core + 2 ^ 8 * replay + 2 ^ 16 * wave + 2 ^ 32 * lane),
    pc, info.addr, seq, info.entry]

/-- What fills the fields that 09 R213 gives no value in the next record of a die. -/
def State.recordFill (s : State) (die : Nat) : Dword := Config.recordFill (die * 2 ^ 64 + (s.die die).faultSeq)

/-- The fault record of a service core or of a unit of a die, which no wave's split has made (16 R367, 17 R393). -/
def State.unitRecord (s : State) (info : FaultInfo) (die ctx : Nat) (launchid : Word) (core : Nat) (pc : Dword) : List Dword :=
  let fill := s.recordFill die
  faultRecord info ctx (fill.extractLsb' 6 2).toNat launchid core 0xFF (fill.extractLsb' 8 16).toNat pc
    (BitVec.ofNat 64 (s.die die).faultSeq) fill

/-- The bytes of 64-bit words, little-endian. -/
def dwordBytes : List Dword → List Byte
  | [] => []
  | x :: xs => leBytes 8 x.toNat ++ dwordBytes xs

/-- Sets source i pending at the service core of a space (16 R370). -/
def State.pend (s : State) (space i : Nat) : State := s.onCsr space 0x0A00 (fun v => v ||| BitVec.ofNat 32 (2 ^ i))

/-- Takes the next sequence number of a die's records and writes a record into the die's ring (14 R306). -/
def State.ringRecord (s : State) (die : Nat) (record : List Dword) : State :=
  let seq := (s.die die).faultSeq
  let base := 0x1C00 + 0x30 * (seq % 16)
  let s := (List.range 6).foldl (fun s k =>
    let x := record.getD k 0
    (s.setCsr die (base + 8 * k) (loWord x)).setCsr die (base + 8 * k + 4) (hiWord x)) s
  s.onDie die (fun d => { d with faultSeq := d.faultSeq + 1 })

/-- The record of a stop of a wave of a group. -/
def State.recordOf (s : State) (core wave ctx : Nat) (g : Nat) (info : FaultInfo) (pc : Dword) (split replay : Nat) :
    List Dword :=
  let launchid := ((s.launchOf g).map (fun l => l.launchid)).getD 0
  faultRecord info ctx split launchid core replay wave pc (BitVec.ofNat 64 (s.die (dieOf core)).faultSeq) (s.recordFill (dieOf core))

/-- Posts a fault record: STOPNOTE on the port its launch came in on, the die's ring, and event source 6 (14 R301,
R306; 16 R370). -/
def State.postRecord (s : State) (core ctx g : Nat) (record : List Dword) : State :=
  let port := match s.launchOf g with
    | some l => l.port.getD 0
    | none => 0
  let s := s.send port (mkMsg 0x0C ctx 0 0 (dwordBytes record))
  (s.ringRecord (dieOf core) record).pend (dieOf core) 6

/-! ## The digest of a write (15 R332, R333) -/

/-- H64 of 15 R332. -/
def h64 (key : Dword) (word : Word) : Dword :=
  let x := (key * 0x8F3A61D5C27B0E49#64) ^^^ word.setWidth 64
  let x := x ^^^ (x >>> 31)
  let x := x * 0xB46D19E75A03C8F1#64
  let x := x ^^^ (x >>> 29)
  let x := x * 0xE71C4B923D86A05B#64
  x ^^^ (x >>> 32)

/-- The contributions of a write of bytes at a virtual address: one for each aligned word it touches (15 R333). -/
def contribution (va : Nat) (bs : List Byte) : Dword :=
  let first := va / 4
  let last := (va + bs.length - 1) / 4
  if bs = [] then 0
  else (List.range (last - first + 1)).foldl (fun sum k =>
    let base := (first + k) * 4
    let at4 := (List.range 4).map (fun j => if va ≤ base + j ∧ base + j < va + bs.length
      then some (bs.getD (base + j - va) 0) else none)
    let mask := (List.range 4).foldl (fun m j => if ((at4.getD j none).isSome) then m + 2 ^ j else m) 0
    sum + h64 (BitVec.ofNat 64 (base + mask * 2 ^ 56))
      (BitVec.ofNat 32 (leNat (at4.map (fun b => b.getD 0))))) 0

/-! ## Foul counts (15 R339, R340) -/

/-- Benches a core: BENCHED is set, its self-test runs, and an event names it (15 R340). -/
def State.bench (s : State) (core : Nat) : State :=
  ((s.onCsr (dieOf core) (0x0200 + 4 * (core % 16)) (fun v => setField (v ||| 0x20000) 19 18 1)).event 7 (dieOf core) core 0
    []).pend (dieOf core) 7

/-- One indivisible change of a core's foul count, with WATCH, BENCHED and the event that names the core. The bench
drain itself is `State.benchDrain`. -/
def State.foulStep (s : State) (core : Nat) (f : Nat → Nat) : State :=
  let die := dieOf core
  let a := 0x0200 + 4 * (core % 16)
  let v := s.csrAt die a
  let n := min 255 (f (field v 7 0))
  let benched := v.getLsbD 17
  let v := setField (setBits v 0x10000 (decide (8 ≤ n))) 7 0 n
  if 16 ≤ n ∧ benched = false then (s.setCsr die a v).bench core else s.setCsr die a v

/-- Whether a core is benched. -/
def State.benched (s : State) (core : Nat) : Bool := (s.csrAt (dieOf core) (0x0200 + 4 * (core % 16))).getLsbD 17

/-! ## The Umpire's samples (15 R329–R338) -/

/-- A counter of UMPSTAT (15 R341). -/
def State.umpCount (s : State) (die k : Nat) : State := s.onCsr die (0x0280 + 4 * k) (· + 1)

/-- Whether some sample of a context holds a lease on the page at an address. -/
def State.leased (s : State) (ctx : Nat) (p : Dword) : Bool :=
  s.dies.any (fun d => d.2.samples.any (fun x =>
    x.pages.contains p && ((s.launch x.launch).map (fun l => decide (l.ctx = ctx))).getD false))

/-- The sample of a group index of a launch on some die. -/
def State.sampleOf (s : State) (launch linear : Nat) : Option (Nat × Sample) :=
  s.dies.findSome? (fun d =>
    (d.2.samples.find? (fun x => x.launch = launch ∧ x.linear = linear)).map (fun x => (d.1, x)))

/-- Changes the sample of a group index. -/
def State.onSample (s : State) (die launch linear : Nat) (f : Sample → Sample) : State :=
  s.onDie die (fun d =>
    { d with samples := d.samples.map (fun x => if x.launch = launch ∧ x.linear = linear then f x else x) })

/-- Frees a sample's entry and ends its leases: WPL is cleared on a page when its last lease ends (15 R330). -/
def State.freeSample (s : State) (die launch linear : Nat) : State :=
  match (s.die die).samples.find? (fun x => x.launch = launch ∧ x.linear = linear) with
  | none => s
  | some x =>
    let ctx := ((s.launch launch).map (fun l => l.ctx)).getD 0
    let s := s.onDie die (fun d =>
      { d with samples := d.samples.filter (fun y => !(y.launch = launch && y.linear = linear)) })
    let s := x.pages.foldl (fun s p => if s.leased ctx p then s else s.setWpl ctx p.toNat false) s
    s.onCsr die 0x0280 (· - 1)

/-- EVENT with source 11: an unresolved sample (15 R338; 19 R412). -/
def State.unresolved (s : State) (die : Nat) (launch linear core : Nat) : State :=
  let id := ((s.launch launch).map (fun l => l.launchid)).getD 0
  (s.event 11 die core (id.toNat + 2 ^ 32 * linear) []).umpCount die 4

/-- The decision on a sample whose runs have ended (15 R338): after two runs, after three. -/
def State.decideSample (s : State) (die : Nat) (x : Sample) : State :=
  let lose := fun (s : State) c => s.foulStep c (fun n => n - 1)
  let d := fun k => (x.digests.getD k (0, false)).1
  let c := fun k => x.cores.getD k 0
  if x.digests.length = 2 then
    if d 0 = d 1 then ((lose (lose s (c 0)) (c 1)).umpCount die 1).freeSample die x.launch x.linear
    else (s.umpCount die 2).onSample die x.launch x.linear (fun y => { y with runs := 3, running := false })
  else if x.digests.length = 3 then
    let s :=
      if d 2 = d 0 then s.foulStep (c 1) (· + 4)
      else if d 2 = d 1 then s.foulStep (c 0) (· + 4)
      else (((s.foulStep (c 0) (· + 2)).foulStep (c 1) (· + 2)).foulStep (c 2) (· + 2)).unresolved die x.launch x.linear
        (c 0)
    s.freeSample die x.launch x.linear
  else s

/-- A state after a change of foul counts, with the bench drain as its next turn where the change has benched a core (15 R340). -/
def State.drainTurn (s t : State) : State :=
  if (List.range 64).any (fun c => t.benched c && !s.benched c) then { t with agenda := t.agenda ++ [.benchDrain] } else t

/-- Records the digest of an ended run of a sample and decides where that is due; a group that ends its primary run
has its replay placed next (15 R336, R338). -/
def State.runEnded (s : State) (launch linear : Nat) (digest : Dword) : State :=
  match s.sampleOf launch linear with
  | none => s
  | some (die, x) =>
    let x : Sample := { x with digests := x.digests ++ [(digest, true)], running := false, runs := max 2 x.runs }
    s.drainTurn ((s.onSample die launch linear (fun _ => x)).decideSample die x)

/-! ## Dropping work of a group or wave (12 R265, 11 R237) -/

/-- Drops the engine commands and the unbegun array operations that a test names on every core. -/
def State.dropWork (s : State) (cmd : Cmd → Bool) (op : ArrayOp → Bool) : State :=
  s.onCores (fun c => { c with cmds := c.cmds.filter (fun x => !cmd x), array := c.array.filter (fun x => x.begun || !op x) })

/-- Ends the walks for a wave's operations, and frees their walkers (09 R201). -/
def State.dropWalks (s : State) (core wave : Nat) : State :=
  let other := fun (x : PageWalk) => !(x.core = core && x.wave = wave)
  let d := s.die (dieOf core)
  if (d.walks ++ d.walkQueue).all other then s
  else (s.onDie (dieOf core) (fun d => { d with walks := d.walks.filter other, walkQueue := d.walkQueue.filter other })).takeWalks
    (dieOf core)

/-- Removes a wave's table entry, once its staged stores have gone to their homes; the context's locked lines go with its last wave on the core (14 R324), and the core's class
follows (16 R359). -/
def State.removeWave (s : State) (core wave : Nat) : State :=
  match s.wave core wave with
  | none => s
  | some w =>
    let s := ((s.drainWave core wave).dropWalks core wave).setWave core wave none
    let s := if w.flow = 0 then s else s.applyClass core
    if (s.wavesOn core).any (fun x => decide (x.2.ctx = w.ctx)) then s
    else s.onCore core (fun c => { c with locked := c.locked.filter (fun x => decide (x.1 ≠ w.ctx)) })

/-- Frees the deques of a launch with no group left on a core (13 R288). -/
def State.releaseDeques (s : State) (core launch : Nat) : State :=
  if (s.groupsOn core).any (fun g => decide (g.2.launch = launch) && !g.2.ending) then s
  else s.onCore core (fun c => { c with deques := c.deques.map (fun q =>
    if q.launch = some launch then { q with launch := none, entries := [],
                                            lost := q.lost + BitVec.ofNat 32 q.entries.length } else q) })

/-- Removes a group; its context's record-cache entries go with its last group on the core (12 R261), and the core's class follows
(16 R355). -/
def State.removeGroup (s : State) (g : Nat) : State :=
  match s.group g with
  | none => s
  | some x =>
    let s := ({ s with groups := Table.set noneAt s.groups g none }.applyClass x.core).releaseDeques x.core x.launch
    if (s.groupsOn x.core).any (fun y => decide (y.2.ctx = x.ctx)) then s
    else s.onCore x.core (fun c => { c with records := c.records.filter (fun r => decide (r.ctx ≠ x.ctx)) })

/-! ## Ends -/

/-- The completion add of a record (13 R280): `none` when a check fails; whether it is done, or asked for at the far end of a window,
where `core` and the launch say who awaits the answer. -/
def State.completionAdd (s : State) (ctx : Nat) (addr add : Dword) (core launch : Nat) : Option (Bool × State) :=
  match s.hubCheck ctx addr 8 { read := true, write := true } with
  | .error _ => none
  | .ok (pa, _) =>
    match placeOf pa, windowOf pa with
    | .memory, _ =>
      if s.poisoned pa 8 then none
      else some (true, s.writeHome (.svc 4) [] pa (leBytes 8 (s.dwordAt pa + add).toNat))
    | _, some (port, off) =>
      some (false, s.ask port 0x05 ctx (atomArgs off 0x48 add.toNat) [] { core := core, op := launch })
    | _, _ => none

/-- The staged stores that a core sees go to their homes, and with them all that were staged before them (10 R222). -/
def State.drainCore (s : State) (core : Nat) : State :=
  match (s.staged core).getLast? with
  | none => s
  | some y => (s.stagedAll.filter (fun x => decide (x.part.stamp ≤ y.part.stamp))).foldl State.drainPart s

/-- The digest store of a REPLAY group that ends (15 R334). In a window of another device it is done with its answer. -/
def State.digestStore (s : State) (l : Launch) (launch : Nat) (x : Group) : State :=
  let table := l.pair 42
  if l.flag 2 = false ∨ table = 0 then s
  else
    let s := s.drainCore x.core
    let at_ := table + BitVec.ofNat 64 (8 * x.linear)
    match s.hubCheck l.ctx at_ 8 { write := true, plain := true } with
    | .error _ => s.onLaunch launch (fun l => { l with replayFault := true })
    | .ok (pa, _) =>
      let bs := leBytes 8 x.digest.toNat
      match placeOf pa, windowOf pa with
      | .csr space a, _ => { s with agenda := s.agenda ++ [.unitCsr (.code launch) l.ctx at_.toNat space a 8 bs] }
      | _, some (port, off) => s.ask port 0x03 l.ctx (memArgs off 8) bs { core := 71, op := launch }
      | _, none => s.writeHome (.svc 4) [] pa bs

/-- The turns in which the wait words of launches are read again, after a completion add (13 R280). -/
def State.waitTurns (s : State) : List Turn :=
  s.launches.filterMap (fun e => match e.2 with
    | some l => if l.stage = .waiting then some (.event .waitWordRead (.at1 e.1)) else none
    | none => none)

/-- The end of a task: its completion add, after which wait words are read again (13 R280, R292). -/
def State.taskEnd (s : State) (n core : Nat) (l : Launch) : State :=
  let s := if l.pair 22 = 0 then s
    else match (s.drainCore core).completionAdd l.ctx (l.pair 22) (l.pair 24) 66 0 with
      | some (true, t) => { t with agenda := t.agenda ++ t.waitTurns }
      | some (false, t) => t
      | none => s
  { s with launches := Table.set noneAt s.launches n none }

/-- The end of a group whose waves have all ended (04 R98; 13 R280; 15 R334, R336): its launch counts it, and the
cluster's allotments go when its last group ends (08 R177). -/
def State.endGroup (s : State) (g : Nat) : State :=
  match s.group g with
  | none => s
  | some x =>
    let s := s.onGroup g (fun y => { y with ending := true })
    let s := s.releaseDeques x.core x.launch
    let s :=
      if x.shadow.isSome then s.runEnded x.launch x.linear x.digest
      else match s.launch x.launch with
        | none => s
        | some l =>
          let s := s.digestStore l x.launch x
          let s := if x.sampled then s.runEnded x.launch x.linear x.digest else s
          match l.kind with
          | .task => s.taskEnd x.launch x.core l
          | _ => s.onLaunch x.launch (fun y => { y with ended := y.ended + 1 })
    if (s.clusterOf g).all (fun y => y.2.ending) then
      (s.clusterOf g).foldl (fun s y => s.removeGroup y.1) s
    else s

/-- The effect of a wave's end on its group's default barriers (08 R188). -/
def Barrier.waveEnd (b : Barrier) : Barrier :=
  if b.isDefault then
    let e : BitVec 12 := if b.expected ≤ 1 then 1 else b.expected - 1
    if e ≤ b.count && !b.abandoned then { b with expected := e, phase := !b.phase, count := 0 } else { b with expected := e }
  else b

/-- A pass of a die. -/
def State.passAt (s : State) (die slot : Nat) : Option Pass := Table.get noneAt (s.die die).passes slot

/-- Replaces a pass. -/
def State.setPass (s : State) (die slot : Nat) (p : Option Pass) : State :=
  s.onDie die (fun d => { d with passes := Table.set noneAt d.passes slot p })

/-- Changes a pass. -/
def State.onPass (s : State) (die slot : Nat) (f : Pass → Pass) : State :=
  match s.passAt die slot with
  | some p => s.setPass die slot (some (f p))
  | none => s

/-- The five chunks of a mesh block. -/
def blockChunks (first : Nat) : List Nat := (List.range 5).map (first + ·)

/-- A pass without its block of a mesh wave that ended before MEND (17 R380). -/
def Pass.dropOpen (p : Pass) (seq : Nat) : Pass :=
  match p.blocks.find? (fun b => decide (b.seq = seq) && !b.closed) with
  | none => p
  | some b => { p with blocks := p.blocks.filter (fun x => decide (x.seq ≠ seq)),
                       used := p.used.filter (fun c => !(blockChunks b.first).contains c) }

/-- The pixel waves of a pass that run. -/
def Pass.pixelWaves (p : Pass) : Nat := (p.jobs.map (fun e => (e.2.map (fun j => j.waves)).getD 0)).sum

/-- Changes the render of a tile of a pass, if some core's engine is at it. -/
def Pass.onTile (p : Pass) (tile : Nat) (f : TileJob → TileJob) : Pass :=
  { p with jobs := p.jobs.map (fun e => (e.1, e.2.map (fun j => if j.tile = tile then f j else j))) }

/-- A pass loses one of its mesh or pixel waves; what PIXOUT left of its lanes goes to the tile (17 R380, R386). -/
def State.passWaveGone (s : State) (w : Wave) : State :=
  match w.kind with
  | .mesh die slot seq => s.onPass die slot (fun p => { p.dropOpen seq with meshWaves := p.meshWaves - 1 })
  | .pixel die slot tile => s.onPass die slot (fun p =>
      let put := fun (t : Table (Option (Bool × Quad))) (e : Nat × Option Nat) => match e.2 with
        | some k => Table.set noneAt t k (Table.get noneAt w.colour e.1)
        | none => t
      p.onTile tile (fun j => { j with waves := j.waves - 1, results := w.quadOf.foldl put j.results }))
  | _ => s

/-- A wave ends: its table entry is freed, its group's barriers are adjusted, and the group ends with its last wave
(04 R98, 08 R188). -/
def State.waveGone (s : State) (core wave : Nat) : State :=
  match s.wave core wave with
  | none => s
  | some w =>
    let s := (s.removeWave core wave).passWaveGone w
    let s := s.onGroup w.group (fun g =>
      { g with live := g.live.filter (fun k => decide (k ≠ wave)), barriers := g.barriers.map Barrier.waveEnd })
    match s.group w.group with
    | some g => if g.live = [] then s.endGroup w.group else s
    | none => s

/-! ## Discard (13 R297) -/

/-- The sample of a discarded run waits for its next placement (15 R329, R336); a group's own run begins afresh, even where it had ended. -/
def State.sampleBack (s : State) (y : Group) : State :=
  if !y.sampled && y.shadow.isNone then s
  else match s.sampleOf y.launch y.linear with
    | some (die, _) => s.onSample die y.launch y.linear (fun x =>
        if y.shadow.isSome then { x with running := false, cores := x.cores.take x.digests.length }
        else { x with running := false, cores := [], digests := [], runs := 1 })
    | none => s

/-- A cluster's groups return to the head of their launch's order, those that have ended among them. -/
def Launch.takeBack (l : Launch) (members : List Group) : Launch :=
  let c := sortBy (fun a b => decide (a ≤ b)) (members.map (fun y => y.linear))
  { l with ended := l.ended - (members.filter (fun y => y.ending)).length
           discarded := sortBy (fun a b => decide (a.headD 0 ≤ b.headD 0)) (l.discarded ++ [c]) }

/-- Discards a group and the rest of its cluster, in one step. -/
def State.discardCluster (s : State) (g : Nat) : State :=
  let members := s.clusterOf g
  let ids := members.map (fun y => y.1)
  let s := s.dropWork (fun c => ids.contains c.group) (fun o => ids.contains o.group)
  let s := members.foldl (fun s y =>
    let s := y.2.live.foldl (fun s k => match s.wave y.2.core k with
      | some w => (s.removeWave y.2.core k).passWaveGone w
      | none => s) s
    ((s.removeGroup y.1).onCsr (dieOf y.2.core) (0xA400 + 0x10 * (y.2.ctx % 64) + 0xC) (· + 1)).sampleBack y.2) s
  match members with
  | y :: _ => if y.2.shadow.isSome then s else s.onLaunch y.2.launch (fun l => l.takeBack (members.map (fun y => y.2)))
  | [] => s

/-! ## The end of an invalid replay (15 R337, R338) -/

/-- Removes the groups of a replay with no trace in its launch. -/
def State.dropShadow (s : State) (g : Nat) : State :=
  let members := s.clusterOf g
  let ids := members.map (fun y => y.1)
  let s := s.dropWork (fun c => ids.contains c.group) (fun o => ids.contains o.group)
  members.foldl (fun s y => (y.2.live.foldl (fun s k => s.removeWave y.2.core k) s).removeGroup y.1) s

/-- The sample of an invalid run: INVALID rises, the entry is freed, the leases end; a third run leaves the group unresolved. -/
def State.sampleInvalid (s : State) (x : Group) : State :=
  match s.sampleOf x.launch x.linear with
  | none => s
  | some (die, y) =>
    let s := s.umpCount die 3
    let s := if y.digests.length = 2 then s.unresolved die x.launch x.linear x.core else s
    s.freeSample die x.launch x.linear

/-- A replay found invalid ends at once, with the other groups of its cluster that have not ended (log 88). -/
def State.invalidReplay (s : State) (g : Nat) : State :=
  ((s.clusterOf g).filter (fun y => !y.2.ending)).foldl (fun s y => s.sampleInvalid y.2) (s.dropShadow g)

/-- Abandons the samples of a context (15 R331): ABANDONED rises for each, leases end, replays are discarded. -/
def State.abandonSamples (s : State) (ctx : Nat) : State :=
  let mine := fun (x : Sample) => ((s.launch x.launch).map (fun l => decide (l.ctx = ctx))).getD false
  s.dies.foldl (fun t d => (d.2.samples.filter mine).foldl (fun t x =>
    let t := t.groups.foldl (fun t e => match e.2 with
      | some g => if g.shadow.isSome ∧ g.launch = x.launch ∧ g.linear = x.linear then t.discardCluster e.1
          else if g.launch = x.launch ∧ g.linear = x.linear then t.onGroup e.1 (fun g => { g with sampled := false })
          else t
      | none => t) t
    (t.umpCount d.1 6).freeSample d.1 x.launch x.linear) t) s

/-- A split that waits on a barrier of a group, when the barriers are abandoned: a wait whose phase has flipped is complete (08 R187, R192). -/
def Split.abandonWait (g : Nat) (bars : List Barrier) (sp : Split) : Split :=
  match sp.bar with
  | some x =>
    if x.grp = g && ((bars[x.index]?).map (fun b => !b.abandoned && b.phase ≠ x.token)).getD false
    then { sp with bar := some { x with flipped := true } } else sp
  | none => sp

/-- Every barrier of a group enters ABANDONED, in one step (08 R192). -/
def State.abandonBarriers (s : State) (g : Nat) : State :=
  match s.group g with
  | none => s
  | some x =>
    let t := (s.clusterOf g).foldl (fun t y => y.2.live.foldl (fun t k => t.onWave y.2.core k (fun w =>
      { w with splits := w.splits.map (fun e => (e.1, e.2.map (Split.abandonWait g x.barriers))) })) t) s
    t.onGroup g (fun y => { y with barriers := y.barriers.map (fun b => { b with abandoned := true }) })

/-! ## Kill (14 R310, R311) -/

/-- A kill that is not upgraded (R311). `info.cause` is KILL or the cause that killed. -/
def State.killWave (s : State) (core wave : Nat) (info : FaultInfo) (pc : Dword) (split : Nat) : State :=
  match s.wave core wave with
  | none => s
  | some w =>
    let s := s.dropWork (fun c => decide (c.wave = some wave) && decide (c.group = w.group))
      (fun o => decide (o.wave = some wave) && decide (o.group = w.group))
    let s := s.onCore core (fun c => { c with array := c.array.map (fun o =>
      if o.begun && o.kind = 0x28B && o.wave = some wave && o.group = w.group then { o with lost := true } else o) })
    let s := s.abandonBarriers w.group
    let s := s.postRecord core w.ctx w.group (s.recordOf core wave w.ctx w.group info pc split 0xFF)
    s.waveGone core wave

/-- A kill: invalid for a replay, a discard for a group that is IDEM and not PINNED, otherwise the kill (R310). -/
def State.killOrDiscard (s : State) (core wave : Nat) (info : FaultInfo) (pc : Dword) (split : Nat) : State :=
  match s.wave core wave with
  | none => s
  | some w =>
    if s.shadowOf w.group then s.invalidReplay w.group
    else if s.discardable w.group then
      let up : FaultInfo := { cause := .discard, addr := BitVec.ofNat 64 (causeCode info.cause) }
      (s.postRecord core w.ctx w.group (s.recordOf core wave w.ctx w.group up pc split 0xFF)).discardCluster w.group
    else s.killWave core wave info pc split

end Sys2Proof.Machine
end

