-- ==== Sys2Proof/Machine/Ops.lean ====
section
/-! DEFINITION. Taking a stop (14 R299–R304, R310), the shared operation behind every exception of a wave; the return from
one (14 R305); the halt of a service core (16 R367); the bench drain (15 R340). -/

namespace Sys2Proof.Machine

/-- What becomes of a wave that meets a cause (14 R300). -/
inductive Fate where
  | stop | park | kill
  deriving DecidableEq, Repr

/-- The fate of a cause (14 R299). POISON_LOAD kills on scratchpad and accumulator storage and parks on memory. -/
def fateOf (c : StopCause) (k : AccKind) : Fate :=
  match c with
  | .pageNotPresent | .privateGrow | .leaseWrite | .zoneEvacuation | .benched => .park
  | .poisonLoad => if k = .scratchpad then .kill else .park
  | .poisonRegister | .kill | .discard => .kill
  | _ => .stop

/-- Takes a stop of a wave (14 R301 step 1). `pc` is the address of the instruction concerned; the split's own PC is
placed by the caller, as the Split PC column of R299 gives. From here on no split of the wave issues; STOP_REPORT makes
the frame once the drain is done. A replay is invalid instead (15 R337); a kill acts at once. -/
def State.takeStop (s : State) (core wave split : Nat) (info : FaultInfo) (pc : Dword) (engine : Bool := false) :
    State :=
  match s.wave core wave with
  | none => s
  | some w =>
    if s.shadowOf w.group then s.invalidReplay w.group
    else match fateOf info.cause info.kind with
      | .kill => s.killOrDiscard core wave info pc split
      | _ =>
        match w.run with
        | .running =>
          s.setWave core wave (some { w with run := .draining,
                                             halt := some { info := info, pc := pc, split := split, engine := engine } })
        | _ =>
          if engine then
            s.postRecord core w.ctx w.group (s.recordOf core wave w.ctx w.group info pc split 0xFF)
          else s

/-- The operations of a list that may be performed as far as faults go (14 R302): those that have passed their checks and
share no lane with an older one that has not. -/
def clearOps (blocked : Dword) : List MemOp → List MemOp
  | [] => []
  | o :: os =>
    if o.passed && o.fault.isNone && o.live &&& blocked = 0 then o :: clearOps blocked os
    else clearOps (blocked ||| o.live) os

/-- Whether an operation is one on a queue, a deque, intake or the locked lines (14 R301). -/
def MemOp.isAsync (o : MemOp) : Bool :=
  match o.kind with
  | .async _ => true
  | _ => false

/-- Whether a stop's drain waits for an operation that has passed its checks: a memory-class one (14 R301 step 2). -/
def MemOp.drains (o : MemOp) : Bool :=
  match o.kind with
  | .fence _ | .async _ | .move _ => false
  | _ => true

/-- An operation as an entry of the replay queue (14 R304); a fence and one without an access keep their parts (10 R233). -/
def MemOp.toEntry (cause : Option Nat) (o : MemOp) : MemOp :=
  let status := if cause = some o.id then 1 else if o.doneMask ≠ 0 then 2 else 0
  match o.kind with
  | .fence _ | .async _ | .move _ => { o with status := status, fault := none }
  | _ => { o with status := status, passed := false, fault := none, walked := [], units := []
                  got := if o.doneMask = 0 then [] else o.got }

/-- A split that a stop halts takes STATE 3 or 4 and keeps the one it had. -/
def Split.halted (st : Nat) (sp : Split) : Split :=
  if sp.state ≤ 2 then { sp with before := sp.state, state := st } else sp

/-- The address in the frame of a stop (14 R299): the PC of the lowest valid split for DEBUG_STEP, 0 for the parks that
no instruction causes. -/
def Halt.address (h : Halt) (w : Wave) : Dword :=
  match h.info.cause with
  | .debugStep => ((w.live4.head?).map (fun x => x.2.pc)).getD 0
  | _ => h.info.addr

/-- The report of a stop (14 R301 step 3), when the drain is done: the frame's cause is that of the oldest instruction
that met one, the operations that have not completed form the replay queue in issue order, and the record is posted. -/
def State.reportStop (s : State) (core wave : Nat) : State :=
  match s.wave core wave with
  | none => s
  | some w =>
    match w.run, w.halt with
    | .draining, some h =>
      if (clearOps 0 w.ops).any MemOp.drains || w.ops.any (fun o => o.units.any (fun u => u.sent)) then s
      else
        let left := w.ops
        let op := if h.engine then none else left.find? (fun o => o.fault.isSome)
        let info := match op with
          | some o => o.fault.getD h.info
          | none => { h.info with addr := h.address w }
        let pc := match op with
          | some o => o.pc
          | none => match h.info.cause with
            | .debugStep | .zoneEvacuation | .benched => ((w.live4.head?).map (fun x => x.2.pc)).getD 0
            | _ => h.pc
        let split := match op with
          | some o => o.split
          | none => h.split
        let index := match op with
          | some o => left.findIdx (fun x => decide (x.id = o.id))
          | none => 0xFF
        let park := decide (fateOf info.cause info.kind = .park)
        let record := s.recordOf core wave w.ctx w.group info pc split index
        let w : Wave := { w with
          ops := [], queue := left.map (MemOp.toEntry (op.map (fun o => o.id))),
          run := if park then .parked else .stopped, halt := none, frame := record, frameCause := causeCode info.cause,
          stepping := none, stepped := false,
          splits := w.splits.map (fun e => (e.1, e.2.map (Split.halted (if park then 3 else 4)))) }
        (s.setWave core wave (some w)).postRecord core w.ctx w.group record
    | _, _ => s

/-- A split after RESUME: the STATE it held before, its fuse timer 0 (14 R305). -/
def Split.resumed (skip : Bool) (sp : Split) : Split :=
  { sp with state := if 3 ≤ sp.state then sp.before else sp.state, timer := 0, skipBp := skip }

/-- Whether entries of the replay queue have still to be performed after RESUME: until then no split issues (14 R305). -/
def Wave.replaying (w : Wave) : Bool := w.ops.any (fun o => o.replay)

/-- The return from a stop (14 R305): the replay queue's entries, less those the driver cancelled, are performed again
in issue order, timers restart, and issue continues at each split's PC. `skip` is SKIPBP (R316). -/
def Wave.resumed (w : Wave) (skip : Bool) : Wave :=
  { w with
    ops := (w.queue.filter (fun o => decide (o.status ≠ 3))).map (fun o =>
      { o with status := 0, skipBp := skip, replay := true }),
    queue := [], counts := none, named := {}, run := .running, halt := none, stepping := none, stepped := false,
    queries := w.queries.map (fun e => (e.1, e.2.map (fun q => { q with fault := none }))),
    splits := w.splits.map (fun e => (e.1, e.2.map (Split.resumed skip))),
    paths := w.paths.map (fun p => { p with ctx := { p.ctx with timer := 0 } }),
    records := w.records.map (fun r => { r with timer := 0 }) }

/-- Resumes a stopped or parked wave and its suspended engine commands (12 R264); FLUSHI invalidates the core's instruction lines of the context (14 R319). -/
def State.resumeWave (s : State) (core wave : Nat) (skip flush : Bool) : State :=
  match s.wave core wave with
  | none => s
  | some w =>
    let s := s.setWave core wave (some (w.resumed skip))
    let s := s.onCore core (fun c => { c with cmds := c.cmds.map (fun x =>
      if x.wave = some wave then { x with suspended := false } else x) })
    if flush then s.onCore core (fun c => c.flushLines w.ctx) else s

/-- The halt of a service core (16 R367): its fault record leaves in an EVENT with source 6. -/
def State.svcHalt (s : State) (n : Nat) (info : FaultInfo) (pc : Dword) : State :=
  let record := s.unitRecord info n 0xFF ((s.recordFill n).extractLsb' 32 32) (0x40 + n) pc
  let s := s.onSvc n (fun c => { c with halted := true, waiting := none })
  let s := if n < 4 then (s.ringRecord n record).pend n 6
    else s.onDie n (fun d => { d with faultSeq := d.faultSeq + 1 })
  s.event 6 n (0x40 + n) 0 (dwordBytes record)

/-- Stops the wave or service core that issues, with its PC where it stands. -/
def State.stopWith (s : State) (info : FaultInfo) : State :=
  match s.cur.svc with
  | some n => s.svcHalt n info s.cur.iaddr
  | none => s.takeStop s.cur.core s.cur.wave s.cur.split info s.cur.iaddr

/-- Stops at the instruction with a cause whose address is the instruction's (14 R299). -/
def State.stopHere (s : State) (c : StopCause) : State := s.stopWith { cause := c, addr := s.cur.iaddr }

/-- The bench drain (15 R340): on a benched core, groups that may be discarded are, and the other waves park. -/
def State.benchDrain (s : State) : State :=
  let hit := fun (c : Nat) => s.benched c
  let s := s.groups.foldl (fun t e => match e.2 with
    | some g => if hit g.core && t.discardable e.1 then t.discardCluster e.1 else t
    | none => t) s
  s.waves.foldl (fun t e =>
    let c := e.1 / 512
    if hit c then t.takeStop c (e.1 % 512) 0 { cause := .benched } 0 else t) s

end Sys2Proof.Machine
end

