-- ==== Sys2Proof/Machine/Splits.lean ====
section
/-! DEFINITION. Splits: divergence, deferred paths, rejoin records, fusing, forced fuses and their timers (04 R88–R100,
R108). -/

namespace Sys2Proof.Machine

/-! ## The wave's split entries, paths and records -/

/-- The lowest free split entry (04 R88). -/
def Wave.freeEntry (w : Wave) : Option Nat := (List.range 4).find? (fun k => (w.split k).isNone)

/-- Free entries. -/
def Wave.freeEntries (w : Wave) : Nat := ((List.range 4).filter (fun k => (w.split k).isNone)).length

/-- Entries of the spill area in use: deferred paths and rejoin records (04 R93). -/
def Wave.spillUsed (w : Wave) : Nat :=
  (w.paths.filter (fun p => !p.queued)).length + (w.records.filter (fun r => !r.inReg)).length

/-- Rejoin-mask registers in use (04 R92). -/
def Wave.regsUsed (w : Wave) : Nat := (w.records.filter (fun r => r.inReg)).length

/-- Deferred-path queue entries in use (04 R93). -/
def Wave.queueUsed (w : Wave) : Nat := (w.paths.filter (fun p => p.queued)).length

/-- Places left for records and paths (04 R91). -/
def Wave.roomLeft (w : Wave) : Nat := (8 - w.regsUsed) + (8 - w.queueUsed) + (64 - w.spillUsed)

/-- Lanes that deferred paths and parked parts of records hold, less the exited ones. -/
def Wave.heldAway (w : Wave) : Dword :=
  ((w.paths.foldl (fun m p => m ||| p.ctx.lanes) 0) |||
    (w.records.foldl (fun m r => r.parked.foldl (fun m p => m ||| p.ctx.lanes) m) 0)) &&& ~~~w.exited

/-- Whether a split holds the wave's only live lanes (04 R99). -/
def Wave.soleSplit (w : Wave) (k : Nat) : Bool :=
  w.live4.all (fun x => x.1 = k || w.liveOf x.2 = 0) && w.heldAway = 0

/-- Whether the wave's live lanes are in one place. -/
def Wave.sole (w : Wave) : Bool :=
  decide ((w.live4.filter (fun x => w.liveOf x.2 ≠ 0)).length ≤ 1) && w.heldAway = 0

/-- Forgets what lanes of other splits may still read, once the wave's lanes stand in one split (07 R160). -/
def Wave.settle (w : Wave) : Wave := if w.sole then { w with hist := [], together := [] } else w

/-- Notes that the lanes of a split have stood together until now (07 R160). -/
def Wave.part (w : Wave) (lanes : Dword) : Wave := { w.settle with together := (w.written, lanes) :: w.settle.together }

/-- Pushes a deferred path: into the queue, or when it is full into a spill entry (04 R93). -/
def Wave.pushPath (w : Wave) (ctx : Split) (runnable : Bool := true) : Wave :=
  { w with paths := w.paths ++ [{ ctx := ctx, order := w.made, runnable := runnable, queued := decide (w.queueUsed < 8) }],
           made := w.made + 1 }

/-- The youngest runnable path by creation order. -/
def youngest (ps : List Path) : Option Path :=
  ps.foldl (fun best p => if !p.runnable then best else match best with
    | none => some p
    | some b => if b.order < p.order then some p else best) none

/-- A path that waited at a forced fuse becomes runnable when it is the only holder of live lanes (04 R99). -/
def Wave.wakePaths (w : Wave) : Wave :=
  if w.live4.all (fun x => w.liveOf x.2 = 0) ∧
      (w.paths.filter (fun p => p.ctx.lanes &&& ~~~w.exited ≠ 0)).length = 1 ∧
      w.records.all (fun r => r.parked.all (fun p => p.ctx.lanes &&& ~~~w.exited = 0)) then
    { w with paths := w.paths.map (fun p => { p with runnable := true }) }
  else w

/-- An entry has become free: the youngest runnable path, if there is one, moves into it as a running split (04 R93). -/
def Wave.fill (k : Nat) (w : Wave) : Wave :=
  match w.split k, youngest w.wakePaths.paths with
  | none, some p =>
    let w := w.wakePaths
    { w with paths := w.paths.filter (fun q => decide (q.order ≠ p.order)) }.setSplit k (some { p.ctx with state := 0, timer := 0 })
  | _, _ => w

/-- As `fill`, for each of the entries that have become free. -/
def Wave.fillAll (ks : List Nat) (w : Wave) : Wave := ks.foldl (fun w k => w.fill k) w

/-- Miss pairs whose partner is gone are dissolved, and a part that waited for it at FUSE or a barrier goes on alone (04 R97, R100; log 69). -/
def Wave.fixMiss (w : Wave) : Wave :=
  w.live4.foldl (fun w x => match x.2.miss with
    | some p => if ((w.split p).map (fun y => decide (y.miss = some x.1))).getD false then w
        else w.onSplit x.1 (fun sp => if sp.missWait then
            { sp with miss := none, missWait := false, waitsAt := false, state := 0, timer := 0 } else { sp with miss := none })
    | none => w) w

/-! ## Records (04 R92) -/

/-- The record of a tag. -/
def Wave.record (w : Wave) (tag : Nat) : Option Record := w.records.find? (fun r => r.tag = tag)

/-- Changes the record of a tag. -/
def Wave.onRecord (w : Wave) (tag : Nat) (f : Record → Record) : Wave :=
  { w with records := w.records.map (fun r => if r.tag = tag then f r else r) }

/-- The oldest record held in a register. -/
def Wave.oldestReg (w : Wave) : Option Record :=
  (w.records.filter (fun r => r.inReg)).foldl (fun best r => match best with
    | none => some r
    | some b => if r.order < b.order then some r else best) none

/-- Makes room in the rejoin-mask registers: with all eight taken, the oldest record goes to a spill entry. -/
def Wave.freeReg (w : Wave) : Wave :=
  if w.regsUsed < 8 then w
  else match w.oldestReg with
    | some r => w.onRecord r.tag (fun r => { r with inReg := false })
    | none => w

/-- The lowest tag number that no record holds. -/
def Wave.freeTag (w : Wave) : Nat := (((List.range 72).map (· + 1)).find? (fun t => (w.record t).isNone)).getD 0

/-- Whether a split, a deferred path or a parked lane carries a tag. -/
def Wave.carried (w : Wave) (tag : Nat) : Bool :=
  w.live4.any (fun x => x.2.tag = tag) || w.paths.any (fun p => p.ctx.tag = tag) ||
    w.records.any (fun r => r.parked.any (fun p => p.ctx.tag = tag))

/-- Frees the records whose members are empty and whose tag nothing carries. -/
def Wave.freeRecords (w : Wave) : Wave :=
  { w with records := w.records.filter (fun r => !(r.members = 0 && !w.carried r.tag)) }

/-! ## Divergence (04 R91) -/

/-- Diverges a split: `stay` goes on in its entry, the other branches become splits or deferred paths. `none` is
DIVERGENCE_SPILL_LIMIT. The branches' contexts carry everything but lanes and tag. -/
def Wave.diverge (w : Wave) (k : Nat) (sp : Split) (stay : Branch) (parts : List Branch) (open? : Option Dword)
    (rdepth : BitVec 16) (defer : Bool) : Option Wave :=
  let need := (if open?.isSome then 1 else 0) + (if defer then parts.length else parts.length - w.freeEntries)
  if w.roomLeft < need then none
  else
    let w := w.part sp.lanes
    let (w, tagged) : Wave × (Split → Split) := match open? with
      | none => (w, fun x => x)
      | some rejoin =>
        let w := w.freeReg
        let tag := w.freeTag
        let r : Record := { tag := tag, rejoin := rejoin, rdepth := rdepth, members := w.liveOf sp, outerTag := sp.tag,
                            outerRejoin := sp.rejoin, outerDepth := sp.rdepth, order := w.made }
        ({ w with records := w.records ++ [r], made := w.made + 1 },
          fun x => { x with tag := tag, rejoin := rejoin, rdepth := rdepth })
    let w := parts.foldl (fun w b =>
      let ctx := { tagged b.next with lanes := b.lanes, timer := 0 }
      match (if defer then none else w.freeEntry) with
      | some e => w.setSplit e (some { ctx with state := 0 })
      | none => w.pushPath ctx) w
    some (w.setSplit k (some { tagged stay.next with lanes := stay.lanes }))

/-! ## The divergence spill area (04 R93; 09 R206) -/

/-- Z of 09 R206: the size of a wave's slot of the private region. -/
def privSlot (hw width : Nat) : Nat := (8192 + hw * width + 4095) / 4096 * 4096

/-- WB of 09 R206: where a wave's slot starts. -/
def State.privBase (s : State) (core wave : Nat) (w : Wave) : Nat :=
  match s.launchOf w.group with
  | some l => (l.pair 26).toNat + (core * 512 + wave) * privSlot (l.w 28).toNat w.width
  | none => 0

/-- The deferred paths and records that stand in spill entries (04 R93). -/
def Wave.spilledPaths (w : Wave) : List Nat := (w.paths.filter (fun p => !p.queued)).map (fun p => p.order)

/-- The tags of the records that stand in spill entries (04 R92). -/
def Wave.spilledTags (w : Wave) : List Nat := (w.records.filter (fun r => !r.inReg)).map (fun r => r.tag)

/-- How many spill entries a change of a wave's splits reads: what stood in one and stands in one no more, but for records that are freed. -/
def Wave.spillReads (w after : Wave) : Nat :=
  (w.spilledPaths.filter (fun o => !after.spilledPaths.contains o)).length +
    (w.spilledTags.filter (fun t => (after.records.any (fun r => r.tag = t && r.inReg)))).length

/-- How many it writes. -/
def Wave.spillWrites (w after : Wave) : Nat :=
  (after.spilledPaths.filter (fun o => !w.spilledPaths.contains o)).length +
    (after.spilledTags.filter (fun t => !w.spilledTags.contains t)).length

/-- The entries that a change reads, the last ones taken, and those that it writes, after them. -/
def Wave.spillTouched (w after : Wave) : List Nat :=
  let base := w.spillUsed - w.spillReads after
  (List.range (w.spillReads after + w.spillWrites after)).map (base + ·)

/-- The check of an access to a spill entry: it faults as any access does, with the access kind "divergence spill". -/
def State.spillFault (s : State) (core wave : Nat) (w : Wave) (entry : Nat) : Option FaultInfo :=
  match s.check core w.ctx (BitVec.ofNat 64 (s.privBase core wave w + 128 * entry)) 8 .spill
      { read := true, write := true } with
  | .error i => some { i with kind := .spill }
  | .ok _ => none

/-- Writes a spill entry, whose layout the device alone defines: its 128 bytes are free values (log 28). -/
def State.spillEntry (core wave : Nat) (w : Wave) (s : State) (entry : Nat) : State :=
  match s.check core w.ctx (BitVec.ofNat 64 (s.privBase core wave w + 128 * entry)) 8 .spill { read := true, write := true } with
  | .ok (pa, _) =>
    if placeOf pa = .memory then
      ({ s with free := s.free + 16 } : State).writeHome (.lane core wave) [core] pa
        ((List.range 16).flatMap (fun k => leBytes 8 (Config.freeDword (s.free + k)).toNat))
    else s
  | .error _ => s

/-- Replaces a wave by one whose splits, paths and records have changed: what a spill entry takes is written there. The fault of a spill entry
that is read or written parks the wave, with nothing changed: the wave does the same again when it resumes (04 R93; log 28). -/
def State.putSplits (s : State) (core wave split : Nat) (pc : Dword) (w w' : Wave) : State :=
  match (w.spillTouched w').findSome? (s.spillFault core wave w) with
  | some i => s.takeStop core wave split i pc
  | none => (((w.spillTouched w').drop (w.spillReads w')).foldl (State.spillEntry core wave w) s).setWave core wave (some w')

/-! ## Fusing (04 R90) -/

/-- The context of fused parts, the lowest-ranking first; tag, rejoin and depth come with `tagged`. Of a scalar that several splits have
written, it has seen what any part has, and sees what the first part does (04 R87; log 70). -/
def fuseSplits (parts : List Split) (tagged : Split → Split) : Split :=
  match parts with
  | [] => {}
  | base :: _ =>
    let masks := (List.range 7).foldl (fun t j =>
      let of := fun (p : Split) => Table.get (fun _ => (0 : Dword)) p.masks (j + 1)
      let union := parts.foldl (fun m p => m ||| p.lanes) 0
      let v := parts.foldl (fun v p => v ||| (of p &&& p.lanes)) (of base &&& ~~~union)
      Table.set (fun _ => (0 : Dword)) t (j + 1) v) []
    let seen := parts.foldl (fun t p => p.sseen.foldl (fun t e =>
      Table.update nilAt t e.1 (fun l => e.2.filter (fun x => !l.contains x) ++ l)) t) base.sseen
    tagged { base with sseen := seen, lanes := parts.foldl (fun m p => m ||| p.lanes) 0, masks := masks, timer := 0, miss := none,
                       missWait := false, yld := false, yldLeft := 0, state := 0, waitsAt := false }

/-- The outer tag context of a record. -/
def Record.outer (r : Record) (sp : Split) : Split :=
  { sp with tag := r.outerTag, rejoin := r.outerRejoin, rdepth := r.outerDepth }

/-- Whether a record's tag is complete: every member that has not exited has arrived (04 R94). -/
def Wave.complete (w : Wave) (r : Record) : Bool := (r.members &&& ~~~w.exited) &&& ~~~r.arrived = 0

/-- Fuses the waiting splits of a tag, the split `also` if any, and the record's parked lanes; the record is freed. The
fused split takes the lowest entry of the parts; with none, a free entry, or it becomes the youngest path (04 R94,
R108). -/
def Wave.fuseTag (w : Wave) (r : Record) (also : Option Nat) : Wave :=
  let inEntry := w.live4.filter (fun x =>
    also = some x.1 || (x.2.tag = r.tag && x.2.state = 1 && !x.2.waitsAt))
  let parts := inEntry.map (fun x => x.2) ++ r.parked.map (fun p => p.ctx)
  let fused := fuseSplits parts r.outer
  let freed := (inEntry.drop 1).map (fun x => x.1)
  let w := inEntry.foldl (fun w x => w.setSplit x.1 none) w
  let w : Wave := { w with records := w.records.filter (fun x => decide (x.tag ≠ r.tag)) }
  let w := if parts = [] then w
    else match inEntry.head? with
      | some x => w.setSplit x.1 (some fused)
      | none => match w.freeEntry with
        | some e => w.setSplit e (some fused)
        | none => w.pushPath fused
  ((w.freeRecords.fillAll freed).fixMiss).settle

/-- A split arrives at its rejoin address (04 R94). -/
def Wave.arrive (w : Wave) (k : Nat) : Wave :=
  match w.split k with
  | none => w
  | some sp =>
    match w.record sp.tag with
    | none => w
    | some r0 =>
      let w := if r0.inReg then w else w.freeReg.onRecord r0.tag (fun r => { r with inReg := true })
      if r0.broken then
        let w := (w.onRecord r0.tag (fun r => { r with members := r.members &&& ~~~sp.lanes })).setSplit k
          (some { r0.outer sp with state := 0, timer := 0 })
        w.freeRecords
      else
        let w := w.onRecord r0.tag (fun r => { r with arrived := r.arrived ||| sp.lanes })
        match w.record r0.tag with
        | none => w
        | some r =>
          if w.complete r then w.fuseTag r (some k)
          else if w.paths.any (fun p => p.ctx.tag = r.tag) ||
              (w.freeEntry.isNone && w.paths.any (fun p => p.runnable)) then
            let w := w.onRecord r.tag (fun r => { r with
              parked := r.parked ++ [{ ctx := { sp with timer := 0 }, order := w.made }] })
            (({ w with made := w.made + 1 }.setSplit k none).fill k).fixMiss
          else w.setSplit k (some { sp with state := 1, timer := 0, waitsAt := false })

/-- Whether a split stands at its rejoin address (04 R94). -/
def Split.atRejoin (sp : Split) : Bool :=
  sp.tag ≠ 0 && sp.state = 0 && sp.pc = sp.rejoin && sp.depth = sp.rdepth && sp.rep = 0

/-! ## EXIT (04 R108) -/

/-- Tests every record for completion after lanes have left (04 R94, R108). -/
def Wave.completeAll (w : Wave) : Wave :=
  w.records.foldl (fun w r0 => match w.record r0.tag with
    | some r =>
      if !r.broken && w.complete r && (r.parked ≠ [] || w.live4.any (fun x =>
          x.2.tag = r.tag && x.2.state = 1 && !x.2.waitsAt)) then w.fuseTag r none else w
    | none => w) w

/-- Lanes execute EXIT: they leave every mask and record, their queries end (18 R401), their split's entry is freed. -/
def Wave.exitLanes (w : Wave) (k : Nat) (lanes : Dword) : Wave :=
  let w : Wave := { w with exited := w.exited ||| lanes,
                           queries := w.queries.filter (fun e => !lanes.getLsbD e.1) }
  let w := ((w.setSplit k none).fixMiss).fill k
  let w : Wave := { w with records := w.records.map (fun r => { r with members := r.members &&& ~~~lanes }) }
  ((w.freeRecords.completeAll).fill k).settle

/-! ## What an instruction does to its split -/

/-- A wave after what an instruction does to its split k; none is DIVERGENCE_SPILL_LIMIT (04 R91). -/
def Wave.moved (w : Wave) (k : Nat) (m : SplitMove) : Option Wave :=
  match m, w.split k with
  | .diverge stay parts opens rdepth defer, some sp => w.diverge k sp stay parts opens rdepth defer
  | .exit lanes, some _ => some (w.exitLanes k lanes)
  | _, none => none

/-- Places an operation behind the wave's others and moves the split past its instruction. -/
def State.pushOp (s : State) (o : MemOp) : State :=
  (s.onIssuer (fun w =>
    { w with ops := w.ops ++ [{ o with id := w.nextOp, split := s.cur.split, pc := s.cur.iaddr, words := s.cur.words,
                                       rep := ((w.split s.cur.split).map (fun x => x.rep)).getD 0, count := w.issued,
                                       skipBp := ((w.split s.cur.split).map (fun x => x.skipBp)).getD false }],
             nextOp := w.nextOp + 1 })).advance

/-- Does what an instruction does to its split, from the wave `w'` with what it writes besides, or stops at it for the limit (04 R91). When an
access to the spill area faults, the wave parks past the instruction, which is in the replay queue (04 R93; 14 R299); with 16 operations
outstanding it waits (14 R303). -/
def State.putMove (s : State) (w w' : Wave) (m : SplitMove) : State :=
  match w'.moved s.cur.split m with
  | none => s.stopHere .divergenceSpillLimit
  | some x => match (w.spillTouched x).findSome? (s.spillFault s.cur.core s.cur.wave w) with
    | none => s.putSplits s.cur.core s.cur.wave s.cur.split s.cur.iaddr w x
    | some i =>
      if 16 ≤ w.ops.length then s
      else
        let lanes := ((w.split s.cur.split).map w.liveOf).getD 0
        ((s.setWave s.cur.core s.cur.wave (some w')).pushOp
          { kind := .move m, access := .spill, space := .scratch, run := lanes, live := lanes, passed := true, fault := some i,
            units := [{}] }).takeStop s.cur.core s.cur.wave s.cur.split i s.cur.iaddr

/-- What an instruction that replays does to its split as it stands then: the targets are those of its issue (14 R304). -/
def SplitMove.now (m : SplitMove) (sp : Split) : SplitMove :=
  let b := fun (x : Branch) => ({ x with next := { sp with pc := x.next.pc, loops := x.next.loops, depth := x.next.depth } } : Branch)
  match m with
  | .diverge stay parts opens rdepth defer => .diverge (b stay) (parts.map b) opens rdepth defer
  | .exit lanes => .exit lanes

/-- The replay of an instruction whose access to the spill area had faulted: it acts, or its wave parks again (04 R93; 14 R305). -/
def State.replayMove (s : State) (core wave : Nat) (w : Wave) (o : MemOp) (m : SplitMove) : State :=
  match (w.split o.split).bind (fun sp => w.moved o.split (m.now sp)) with
  | none => s
  | some x => match (w.spillTouched x).findSome? (s.spillFault core wave w) with
    | none => s.putSplits core wave o.split o.pc w { x with ops := x.ops.filter (fun p => decide (p.id ≠ o.id)) }
    | some i =>
      (s.setWave core wave (some { w with ops := w.ops.map (fun p => if p.id = o.id then { p with fault := some i } else p) })).takeStop core wave
        o.split i o.pc

/-! ## Forced fuses and miss pairs (04 R99, R100) -/

/-- Whether a split waits at a forced fuse point at a PC and depth. -/
def Split.waitsHere (sp : Split) (pc : Dword) (depth : BitVec 16) : Bool :=
  sp.state = 1 && sp.waitsAt && sp.pc = pc && sp.depth = depth

/-- A tag and the tags outward of it. -/
def Wave.chain : Nat → Wave → Nat → List Nat
  | 0, _, _ => []
  | n + 1, w, tag => if tag = 0 then [] else match w.record tag with
    | some r => tag :: Wave.chain n w r.outerTag
    | none => [tag]

/-- Fuses a split that stands at a forced fuse point with the splits and held paths that wait at the same PC and depth
(04 R99), and gives the entry of the result. Records outside its tag chain lose the fused lanes. -/
def Wave.fuseHere (w : Wave) (k : Nat) : Wave × Nat :=
  match w.split k with
  | none => (w, k)
  | some sp =>
    let peers := w.live4.filter (fun x => x.1 ≠ k && x.2.waitsHere sp.pc sp.depth)
    let away := w.paths.filter (fun p => !p.runnable && p.ctx.pc = sp.pc && p.ctx.depth = sp.depth)
    if peers = [] ∧ away = [] then (w, k)
    else
      let inEntry := w.live4.filter (fun x => x.1 = k || x.2.waitsHere sp.pc sp.depth)
      let fused := fuseSplits (inEntry.map (fun x => x.2) ++ away.map (fun p => p.ctx)) (fun x => x)
      let e := ((inEntry.head?).map (fun x => x.1)).getD k
      let freed := (inEntry.map (fun x => x.1)).filter (fun x => decide (x ≠ e))
      let w := inEntry.foldl (fun w x => w.setSplit x.1 none) w
      let w : Wave := { w with paths := w.paths.filter (fun p => !(away.any (fun q => q.order = p.order))) }
      let w := w.setSplit e (some fused)
      let keep := Wave.chain 72 w fused.tag
      let w : Wave := { w with records := w.records.map (fun r =>
        if keep.contains r.tag then r else { r with members := r.members &&& ~~~fused.lanes }) }
      (((w.freeRecords.fillAll freed).fixMiss).settle, e)

/-- A split waits at a forced fuse point. When it holds an entry, none is free and a runnable path exists, it moves to
the queue as a path that cannot run (04 R99). -/
def Wave.waitForced (w : Wave) (k : Nat) (miss : Bool) : Wave :=
  match w.split k with
  | none => w
  | some sp =>
    let sp := if sp.state = 1 then sp else { sp with state := 1, waitsAt := true, missWait := miss, timer := 0 }
    if !miss && w.freeEntry.isNone && w.paths.any (fun p => p.runnable) then
      ((w.setSplit k none).pushPath sp false).fill k
    else w.setSplit k (some sp)

/-- What repeat 0 of a REP reads for every repeat: the active mask under the guard, and %frm (04 R113). -/
def State.captureRep (s : State) : State :=
  match s.cur.aux, s.issuing with
  | some { rep := some _, op := _, f := f }, some (w, sp) =>
    if sp.rep = 0 then
      s.onIssuingSplit (fun x => { x with repRun := w.liveOf sp &&& sp.guard f.g.toNat, repFrm := sp.frm })
    else s
  | _, _ => s

/-- An instruction that acts only from the wave's sole live split: until then its split waits to fuse (04 R99). -/
def State.forceFuse (s : State) (act : State → State) : State :=
  match s.issuing with
  | none => s
  | some (w, sp) =>
    if 0 < sp.rep.toNat then act s
    else
      let (x, e) := w.fuseHere s.cur.split
      let there := { s with cur := { s.cur with split := e } }
      if x.soleSplit e then match (w.spillTouched x).findSome? (s.spillFault s.cur.core s.cur.wave w) with
        | some i => s.takeStop s.cur.core s.cur.wave s.cur.split i s.cur.iaddr
        | none => act (there.setWave s.cur.core s.cur.wave
            (some (x.onSplit e (fun x => { x with state := 0, waitsAt := false, missWait := false, timer := 0 })))).captureRep
      else there.putSplits s.cur.core s.cur.wave s.cur.split s.cur.iaddr w (x.waitForced e false)

/-- An instruction of minimum width `width` (02 R48): at 8 or more it acts only from the wave's sole live split (04 R99). -/
def State.forced (s : State) (width : Nat) (act : State → State) : State :=
  match s.issuing with
  | none => s
  | some (w, _) => if min width w.width < 8 then act s else s.forceFuse act

/-- A fuse point of a miss pair, at FUSE: the part waits for its partner and fuses with it at the same PC and depth
(04 R100). -/
def State.missFuse (s : State) (act : State → State) : State :=
  match s.issuing with
  | none => s
  | some (w, sp) =>
    match sp.miss with
    | none => act (s.onIssuingSplit (fun x => { x with state := 0, waitsAt := false, missWait := false, timer := 0 }))
    | some p =>
      match w.split p with
      | some q =>
        if q.waitsHere sp.pc sp.depth then
          let e := min p s.cur.split
          let fused := fuseSplits (if p < s.cur.split then [q, sp] else [sp, q]) (fun x => x)
          let x := (((w.setSplit p none).setSplit s.cur.split none).setSplit e (some fused)).fill (max p s.cur.split)
          match (w.spillTouched x).findSome? (s.spillFault s.cur.core s.cur.wave w) with
          | some i => s.takeStop s.cur.core s.cur.wave s.cur.split i s.cur.iaddr
          | none => act ({ s with cur := { s.cur with split := e } }.setWave s.cur.core s.cur.wave (some x.settle))
        else s.setWave s.cur.core s.cur.wave (some (w.waitForced s.cur.split true))
      | none => act (s.onIssuingSplit (fun x => { x with miss := none, state := 0, waitsAt := false, missWait := false }))

/-! ## Fuse timers (04 R96, R97) -/

/-- LIMIT of FUSETIME of a core. -/
def State.fuseLimit (s : State) (core : Nat) : Nat := field (s.csrAt (dieOf core) (0x1018 + 0x40 * (core % 16))) 19 0

/-- The split ID in the record of a stop that no split in an entry makes: 09 R213 gives none (log 66). -/
def State.noSplit (s : State) (core : Nat) : Nat := (s.recordFill (dieOf core)).toNat % 4

/-- The timer of a split that waits at a forced fuse point in the deferred-path queue reaches the limit (04 R97, R99). -/
def State.pathExpiry (s : State) (core wave order : Nat) : State :=
  match (s.wave core wave).bind (fun w => w.paths.find? (fun p => p.order = order && !p.runnable)) with
  | none => s
  | some p =>
    let limit := s.fuseLimit core
    if limit = 0 ∨ p.ctx.timer.toNat < limit then s
    else s.takeStop core wave (s.noSplit core) { cause := .fuseTimeout, addr := p.ctx.pc } p.ctx.pc

/-- A waiting split's timer reaches the limit (04 R97). Numbers from 4 on name a deferred path, by its creation order. -/
def State.fuseExpiry (s : State) (core wave k : Nat) : State :=
  if 4 ≤ k then s.pathExpiry core wave (k - 4)
  else match s.wave core wave with
  | none => s
  | some w =>
    match w.split k with
    | none => s
    | some sp =>
      let limit := s.fuseLimit core
      if sp.state ≠ 1 ∨ limit = 0 ∨ sp.timer.toNat < limit then s
      else if sp.missWait then
        s.setWave core wave (some (((w.setSplit k (some { sp with miss := none, missWait := false, waitsAt := false,
                                                                  state := 0, timer := 0 })).fixMiss)))
      else if sp.waitsAt then
        s.takeStop core wave k { cause := .fuseTimeout, addr := sp.pc } sp.pc
      else
        let x := (w.onRecord sp.tag (fun r => { r with broken := true })).onSplit k (fun x => { x with state := 0 })
        s.putSplits core wave k sp.pc w (x.arrive k)

/-- A record's timer reaches the limit (04 R97): the parked lanes become the youngest deferred path. -/
def State.rejoinExpiry (s : State) (core wave tag : Nat) : State :=
  match s.wave core wave with
  | none => s
  | some w =>
    match w.record tag with
    | none => s
    | some r =>
      let limit := s.fuseLimit core
      if r.parked = [] ∨ limit = 0 ∨ r.timer.toNat < limit then s
      else
        let ctx := fuseSplits (r.parked.map (fun p => p.ctx)) r.outer
        let x := w.onRecord tag (fun r => { r with broken := true, parked := [], timer := 0,
                                                   members := r.members &&& ~~~ctx.lanes })
        s.putSplits core wave (s.noSplit core) r.rejoin w (x.freeRecords.pushPath ctx)

end Sys2Proof.Machine
end

