-- ==== Sys2Proof/Machine/Operands.lean ====
section
/-! DEFINITION. Operand forms: reading and writing registers and scalars, binding, reserve and spill (05 R118–R127), source
modifiers (02 R45, R46; 07 R159, R160), the shapes of F words (06 R138), and the issue of an instruction that names
registers. -/

namespace Sys2Proof.Machine

/-- Names k to k + n − 1. -/
def regs (k n : Nat) : List Nat := (List.range n).map (k + ·)

/-! ## Reading (05 R119) -/

/-- A vector register in a lane; a name that is not bound reads 0. -/
def Wave.v (w : Wave) (r i : Nat) : Word := Table.get zeroWord w.vregs (64 * r + i)

/-- A pair of vector registers in a lane. -/
def Wave.v2 (w : Wave) (r i : Nat) : Dword := pairOf (w.v r i) (w.v (r + 1) i)

/-- A scalar; one that is not bound reads 0. -/
def Wave.s (w : Wave) (n : Nat) : Word := Table.get zeroWord w.sregs n

/-- A scalar pair. -/
def Wave.s2 (w : Wave) (n : Nat) : Dword := pairOf (w.s n) (w.s (n + 1))

/-- Whether a vector register is bound in a quad. -/
def Wave.bound (w : Wave) (r q : Nat) : Bool := Table.get falseAt w.vbound (16 * r + q)

/-- Whether a scalar is bound. -/
def Wave.sboundAt (w : Wave) (n : Nat) : Bool := Table.get falseAt w.sbound n

/-! ## Binding and writing (05 R118) -/

/-- Keeps a value that lanes of other splits may still read (07 R160). -/
def Wave.keepOld (w : Wave) (r i : Nat) : Wave :=
  if w.sole then w
  else { w with written := w.written + 1, hist := Table.update nilAt w.hist (64 * r + i) (fun l => (w.written + 1, w.v r i) :: l) }

/-- Writes one lane of a register that is bound. -/
def Wave.putLane (w : Wave) (r i : Nat) (x : Word) : Wave :=
  let w := w.keepOld r i
  { w with vregs := Table.set zeroWord w.vregs (64 * r + i) x }

/-- Binds a register in quads; a place newly taken holds 0 (R118). -/
def Wave.bind (w : Wave) (quads : List Nat) (r : Nat) : Wave :=
  { w with vbound := quads.foldl (fun t q => Table.set falseAt t (16 * r + q) true) w.vbound }

/-- Clears the poison of the quad-registers all four of whose lanes are written (R127). -/
def Wave.clearPoison (w : Wave) (r : Nat) (run : Dword) : Wave :=
  let whole := fun (q : Nat) => (List.range 4).all (fun k => run.getLsbD (4 * q + k))
  let t := (List.range 16).foldl (fun t q => if whole q then Table.set falseAt t (16 * r + q) false else t) w.vpoison
  { w with vpoison := t }

/-- Writes a register in the lanes of `run`, binding it in `quads` (R118, 06 R137). -/
def Wave.writeV (w : Wave) (quads : List Nat) (run : Dword) (r : Nat) (f : Nat → Word) : Wave :=
  ((lanesOf run).foldl (fun w i => w.putLane r i (f i)) (w.bind quads r)).clearPoison r run

/-- Writes the n registers from r on, lane i of register k with element k of `f i`. -/
def Wave.writeVs (w : Wave) (quads : List Nat) (run : Dword) (r n : Nat) (f : Nat → List Word) : Wave :=
  let vals := (lanesOf run).map (fun i => (i, f i))
  (List.range n).foldl (fun w k =>
    (vals.foldl (fun w x => w.putLane (r + k) x.1 (x.2.getD k 0)) (w.bind quads (r + k))).clearPoison (r + k) run) w

/-- Records a split's write of a scalar, while the wave's lanes stand apart (04 R87): the split has seen it, and others may. A write by the
wave's only split leaves none but itself to be seen. -/
def Wave.noteScalar (w : Wave) (split n : Nat) (x : Word) : Wave :=
  if w.sole then { w with swrites := Table.set nilAt w.swrites n [] }
  else
    let l := Table.get nilAt w.swrites n
    let l := if l = [] then [(0, w.s n)] else l
    { w with written := w.written + 1, swrites := Table.set nilAt w.swrites n (l ++ [(w.written + 1, x)]) }.inSplit split
      (fun sp => { sp with sseen := Table.update nilAt sp.sseen n (fun m => m ++ [w.written + 1]) })

/-- Writes a scalar, binding it (R118). -/
def Wave.writeS (w : Wave) (split n : Nat) (x : Word) : Wave :=
  let w := w.noteScalar split n x
  { w with sregs := Table.set zeroWord w.sregs n x, sbound := Table.set falseAt w.sbound n true }

/-- Writes scalars from n on; a write of all four of a block clears its poison (R127). -/
def Wave.writeSs (w : Wave) (split n : Nat) (xs : List Word) : Wave :=
  let w := (List.range xs.length).foldl (fun w k => w.writeS split (n + k) (xs.getD k 0)) w
  if n % 4 = 0 ∧ xs.length = 4 then { w with spoison := Table.set falseAt w.spoison (n / 4) false } else w

/-- Unbinds a register in a quad (R120): it reads 0, and its poison clears. -/
def Wave.unbindV (w : Wave) (r q : Nat) : Wave :=
  let w := (List.range 4).foldl (fun w k => w.putLane r (4 * q + k) 0) w
  let w : Wave := { w with vbound := Table.set falseAt w.vbound (16 * r + q) false,
                           vpoison := Table.set falseAt w.vpoison (16 * r + q) false }
  if (List.range 16).any (fun q => w.bound r q) then w
  else { w with vspilled := Table.set falseAt w.vspilled r false, vused := Table.set zeroNat w.vused r 0 }

/-- Clears the bound bit of a scalar (R120); a block with none bound is freed. -/
def Wave.unbindS (w : Wave) (n : Nat) : Wave :=
  let w : Wave := { w with sregs := Table.set zeroWord w.sregs n 0, sbound := Table.set falseAt w.sbound n false,
                           swrites := Table.set nilAt w.swrites n [] }
  if (List.range 4).any (fun k => w.sboundAt (n / 4 * 4 + k)) then w
  else { w with sspilled := Table.set falseAt w.sspilled (n / 4) false,
                spoison := Table.set falseAt w.spoison (n / 4) false,
                sused := Table.set zeroNat w.sused (n / 4) 0 }

/-- The quads of a split in which a last-read mark takes effect: those whose live lanes all belong to it (R120). -/
def Wave.ownQuads (w : Wave) (sp : Split) : List Nat :=
  (quadsOf sp.lanes).filter (fun q => (List.range 4).all (fun k =>
    !w.liveLanes.getLsbD (4 * q + k) || sp.lanes.getLsbD (4 * q + k)))

/-! ## What an instruction names -/

/-- The registers and scalars an instruction reads, writes and marks as last read. `wide` is whether it fetches from
lanes other than those of its own split's quads. -/
structure Uses where
  vr : List Nat := []
  vw : List Nat := []
  sr : List Nat := []
  sw : List Nat := []
  vfree : List Nat := []
  sfree : List Nat := []
  wide : Bool := false
  deriving DecidableEq, Repr

/-- The vector names an instruction names. -/
def Uses.vnames (u : Uses) : List Nat := (u.vr ++ u.vw).eraseDups

/-- The scalar blocks an instruction names. -/
def Uses.blocks (u : Uses) : List Nat := ((u.sr ++ u.sw).map (· / 4)).eraseDups

/-- The quads an instruction reads its sources in. -/
def Wave.readQuads (w : Wave) (sp : Split) (u : Uses) : List Nat :=
  if u.wide then List.range (w.width / 4) else quadsOf (w.liveOf sp)

/-- Whether a register of some is poisoned in a quad of some. -/
def Wave.poisonIn (w : Wave) (rs quads : List Nat) : Bool :=
  rs.any (fun r => quads.any (fun q => Table.get falseAt w.vpoison (16 * r + q)))

/-- Whether an instruction reads a poisoned place (R127). What one that fetches from other lanes reads of the vector registers, `farPoison`
tells. -/
def Wave.readsPoison (w : Wave) (sp : Split) (u : Uses) : Bool :=
  (!u.wide && w.poisonIn u.vr (w.readQuads sp u)) || u.sr.any (fun n => Table.get falseAt w.spoison (n / 4))

/-! ## Reserve, float and spill (05 R121–R124) -/

/-- Vector names bound in some quad. -/
def Wave.vnamesBound (w : Wave) : List Nat := (w.vbound.map (fun e => e.1 / 16)).eraseDups

/-- The scalar blocks of loads that are outstanding or in the replay queue. -/
def Wave.blocksComing (w : Wave) : List Nat :=
  (w.ops ++ w.queue).flatMap (fun o => match o.dst with
    | .scal d n => (regs d n).map (· / 4)
    | _ => [])

/-- Scalar blocks bound, and those that a load in flight takes (R123, R124). -/
def Wave.blocksBound (w : Wave) : List Nat := ((w.sbound.map (fun (e : Nat × Bool) => e.1 / 4)) ++ w.blocksComing).eraseDups

/-- Places of a quad's bank that a wave holds on core. -/
def Wave.onCoreV (w : Wave) (q : Nat) : Nat :=
  (w.vbound.filter (fun e => e.1 % 16 = q && !Table.get falseAt w.vspilled (e.1 / 16))).length

/-- Scalar blocks that a wave holds on core. -/
def Wave.onCoreS (w : Wave) : Nat := (w.blocksBound.filter (fun b => !Table.get falseAt w.sspilled b)).length

/-- Places of a wave's quad q that it may hold: its bank's, less what other waves hold or have reserved (R117, R122). -/
def State.roomV (s : State) (core wave : Nat) (w : Wave) (q : Nat) : Nat :=
  let total := field (s.csrAt (dieOf core) (0x1010 + 0x40 * (core % 16))) 6 0 * 240
  let bank := w.qbase + q
  let others := (s.wavesOn core).foldl (fun n x =>
    if x.1 = wave ∨ bank < x.2.qbase ∨ x.2.qbase + x.2.width / 4 ≤ bank then n
    else n + max x.2.vres (x.2.onCoreV (bank - x.2.qbase))) 0
  max w.vres (total - others)

/-- Scalar blocks that a wave may hold. -/
def State.roomS (s : State) (core wave : Nat) (w : Wave) : Nat :=
  let total := field (s.csrAt (dieOf core) (0x1010 + 0x40 * (core % 16))) 6 0 * 256
  let others := (s.wavesOn core).foldl (fun n x =>
    if x.1 = wave then n else n + max ((x.2.sres + 3) / 4) x.2.onCoreS) 0
  max ((w.sres + 3) / 4) (total - others)

/-- The least recently used of some names by a table of stamps; ties go to the lowest name (R124). -/
def leastUsed (used : Table Nat) (names : List Nat) : Option Nat :=
  names.foldl (fun best n => match best with
    | none => some n
    | some b => if Table.get zeroNat used n < Table.get zeroNat used b then some n else best) none

/-- Spills vector names until quads have room for `need` more places each (R124). -/
def Wave.makeRoomV (room : Nat → Nat) (need : Nat → Nat) (keep : List Nat) : Nat → Wave → Wave
  | 0, w => w
  | n + 1, w =>
    if (List.range (w.width / 4)).all (fun q => w.onCoreV q + need q ≤ room q) then w
    else match leastUsed w.vused (w.vnamesBound.filter (fun r =>
        !keep.contains r && !Table.get falseAt w.vspilled r)) with
      | none => w
      | some r => Wave.makeRoomV room need keep n { w with vspilled := Table.set falseAt w.vspilled r true }

/-- Spills scalar blocks until there is room for `need` more (R124). -/
def Wave.makeRoomS (room need : Nat) (keep : List Nat) : Nat → Wave → Wave
  | 0, w => w
  | n + 1, w =>
    if w.onCoreS + need ≤ room then w
    else match leastUsed w.sused (w.blocksBound.filter (fun b =>
        !keep.contains b && !Table.get falseAt w.sspilled b)) with
      | none => w
      | some b => Wave.makeRoomS room need keep n { w with sspilled := Table.set falseAt w.sspilled b true }

/-- Reloads the spilled names an instruction names (R124). -/
def State.reload (s : State) (core wave : Nat) (w : Wave) (u : Uses) : Wave :=
  let back := u.vnames.filter (fun r => Table.get falseAt w.vspilled r)
  let w := if back = [] then w
    else
      let need := fun q => (back.filter (fun r => w.bound r q)).length
      let w := Wave.makeRoomV (s.roomV core wave w) need u.vnames 256 w
      { w with vspilled := back.foldl (fun t r => Table.set falseAt t r false) w.vspilled }
  let sback := u.blocks.filter (fun b => Table.get falseAt w.sspilled b)
  if sback = [] then w
  else
    let w := Wave.makeRoomS (s.roomS core wave w) sback.length u.blocks 256 w
    { w with sspilled := sback.foldl (fun t b => Table.set falseAt t b false) w.sspilled }

/-- Makes places for the names an instruction binds anew in the split's quads (R124). -/
def State.makeRoom (s : State) (core wave : Nat) (w : Wave) (quads : List Nat) (u : Uses) : Wave :=
  let need := fun q => if quads.contains q then (u.vw.eraseDups.filter (fun r => !w.bound r q)).length else 0
  let w := if u.vw = [] then w else Wave.makeRoomV (s.roomV core wave w) need u.vnames 256 w
  let fresh := ((u.sw.map (· / 4)).eraseDups.filter (fun b => !w.blocksBound.contains b)).length
  if fresh = 0 then w else Wave.makeRoomS (s.roomS core wave w) fresh u.blocks 256 w

/-- The wave ready for an instruction's writes, or the stop it meets at issue (R120, R123, R124, R127): limits on what it
names, poison read, spilled names reloaded, last-read marks, limits on what it binds, places made. -/
def State.prepare (s : State) (core wave : Nat) (w : Wave) (sp : Split) (u : Uses) : Except StopCause Wave :=
  if (w.vres < w.vmax ∧ w.vres < u.vnames.length) ∨ (w.sres < w.smax ∧ (w.sres + 3) / 4 < u.blocks.length) then
    .error .illegalOperand
  else if w.readsPoison sp u then .error .poisonRegister
  else
    let w := s.reload core wave w u
    let w := (w.ownQuads sp).foldl (fun w q => u.vfree.foldl (fun w r => w.unbindV r q) w) w
    let w := u.sfree.foldl (fun w n => w.unbindS n) w
    if (u.vw ≠ [] ∧ w.vmax < (w.vnamesBound ++ u.vw).eraseDups.length) ∨
        (u.sw ≠ [] ∧ (w.smax + 3) / 4 < (w.blocksBound ++ u.sw.map (· / 4)).eraseDups.length) then
      .error .illegalOperand
    else
      let w := s.makeRoom core wave w (quadsOf sp.lanes) u
      .ok { w with
        stamp := w.stamp + 1
        named := { count := w.issued, split := s.cur.split, vw := u.vw, sw := u.sw }
        vused := u.vnames.foldl (fun t r => Table.set zeroNat t r (w.stamp + 1)) w.vused
        sused := u.blocks.foldl (fun t b => Table.set zeroNat t b (w.stamp + 1)) w.sused }

/-! ## Reading as a split sees it -/

/-- The writes of a scalar that a split may see now: the one it saw last, or that from before them, and those it has not seen (04 R87). -/
def Wave.scalarChoices (w : Wave) (sp : Split) (n : Nat) : List (Nat × Word) :=
  let l := Table.get nilAt w.swrites n
  let old := Table.get nilAt sp.sseen n
  let current := ((l.filter (fun e => old.contains e.1)).map (fun e => e.1)).foldl
    (fun (c : Nat) e => if old.idxOf c < old.idxOf e || c = 0 then e else c) 0
  l.filter (fun e => e.1 = current || (e.1 ≠ 0 && !old.contains e.1))

/-- What a split reads of a scalar that several have written, as the k-th draw chooses: the write. -/
def Wave.scalarRead (w : Wave) (sp : Split) (k n : Nat) : Option (Nat × Word) :=
  let l := w.scalarChoices sp n
  l[Config.freeChoice (k + n) % l.length]?

/-- The wave as a split reads it at draw k: a scalar that several splits have written reads as any value that the split may see (04 R87). -/
def Wave.seen (w : Wave) (sp : Split) (k : Nat) : Wave :=
  { w with sregs := w.swrites.foldl (fun t e =>
      match w.scalarRead sp k e.1 with
      | some x => Table.set zeroWord t e.1 x.2
      | none => t) w.sregs }

/-- What a split has seen, once it has read the scalars `names` at draw k. -/
def Wave.sawAt (w : Wave) (sp : Split) (k : Nat) (names : List Nat) : Table (List Nat) :=
  names.foldl (fun t n => match w.scalarRead sp k n with
    | some x => if x.1 = 0 || (Table.get nilAt t n).contains x.1 then t else Table.update nilAt t n (fun m => m ++ [x.1])
    | none => t) sp.sseen

/-- A split that has read scalars at draw k has seen the writes whose values it read. -/
def Wave.noteSeen (w : Wave) (split k : Nat) (names : List Nat) : Wave :=
  if w.swrites = [] then w else w.inSplit split (fun sp => { sp with sseen := w.sawAt sp k names })

/-- The region of accumulator storage from byte `lo` to `hi` takes undefined values (10 R230). -/
def State.loseAcc (s : State) (g lo hi : Nat) : State :=
  let n := (hi - lo) / 4
  { s.onGroup g (fun x => { x with acc := (List.range n).foldl (fun t k =>
      Table.set zeroWord t (lo / 4 + k) (loWord (Config.freeDword (s.free + k)))) x.acc }) with free := s.free + n }

/-- What breaks the windows of a wave's MMAs that a test names (10 R230): the D region of each takes undefined values, at once
or when the MMA completes. -/
def State.breakWindows (s : State) (core wave : Nat) (p : MmaWindow → Bool) : State :=
  match s.wave core wave with
  | none => s
  | some w =>
    let late := w.windows.filter (fun x => p x && x.done)
    let s := s.onWave core wave (fun w =>
      { w with windows := w.windows.map (fun x => if p x && !x.done then { x with undef := true } else x) })
    late.foldl (fun s x => s.loseAcc x.grp x.dlo x.dhi) s

/-- Breaks the windows of MMAs whose B lies where n bytes of a group's scratchpad are written, of every wave and as far as a test on core,
wave and window goes (10 R230). -/
def State.breakB (s : State) (g off n : Nat) (p : Nat → Nat → MmaWindow → Bool) : State :=
  let hit := fun (x : MmaWindow) => x.grp = g && meets off n x.blo (x.bhi - x.blo)
  s.waves.foldl (fun s e =>
    if (e.2.map (fun w => w.windows.any hit)).getD false then
      s.breakWindows (e.1 / 512) (e.1 % 512) (fun x => hit x && p (e.1 / 512) (e.1 % 512) x)
    else s) s

/-- Writing or freeing registers that an MMA may still read (10 R230, 05 R135). -/
def MmaWindow.hit (x : MmaWindow) (rs : List Nat) : Bool :=
  !x.latched && rs.any (fun r => (x.a ≤ r && r < x.a + 8) || x.sc = some r)

/-- Whether an outstanding write stands against an instruction (R130): of a load, an atomic or a texture read to a register or scalar
that it names, or of a lane's query that walks (18 R404). -/
def Wave.busy (w : Wave) (sp : Split) (u : Uses) : Bool :=
  let rq := w.readQuads sp u
  let wq := quadsOf sp.lanes
  let against := fun (d n : Nat) (quads : List Nat) =>
    let inside := fun (r : Nat) => d ≤ r && decide (r < d + n)
    (u.vr.any inside && quads.any rq.contains) || ((u.vw ++ u.vfree).any inside && quads.any wq.contains)
  w.ops.any (fun o => match o.dst with
    | .none => false
    | .vec d n => against d n (quadsOf o.run)
    | .scal d n => (u.sr ++ u.sw ++ u.sfree).any (fun r => d ≤ r && decide (r < d + n))) ||
  w.queries.any (fun e => match e.2 with
    | some q => !q.waiting && against q.d 8 [e.1 / 4]
    | none => false)

/-- The state in which an instruction's writes take place: its marks have acted and its places are made (`w'`), and it has broken the
windows of MMAs whose registers it writes or frees. -/
def State.readied (s : State) (u : Uses) (w w' : Wave) : State :=
  let t := (s.setWave s.cur.core s.cur.wave (some (w'.noteSeen s.cur.split s.free u.sr))).breakWindows s.cur.core s.cur.wave (fun x => x.hit (u.vw ++ u.vfree))
  if w.swrites = [] then t else { t with free := t.free + 1024 }

/-- Issues an instruction that names registers and scalars, once no outstanding write stands against it: `act` takes the wave and
split as they are read, and the state in which its marks have acted and its places are made. A stop leaves everything as it was. -/
def State.issueWith (s : State) (u : Uses) (act : Wave → Split → State → State) : State :=
  match s.issuing with
  | none => s
  | some (w, sp) =>
    if w.busy sp u then s
    else match s.prepare s.cur.core s.cur.wave w sp u with
    | .error .poisonRegister => s.stopWith { cause := .poisonRegister }
    | .error c => s.stopHere c
    | .ok w' => act (w.seen sp s.free) sp (s.readied u w w')

/-- An instruction whose checks read registers acts on a state once it may issue there: no outstanding write stands against what it names,
and it meets no limit and no poison (05 R123, R127, R130). -/
def State.whenIssuable (s : State) (u : Uses) (act : State → State) : State := s.issueWith u (fun _ _ _ => act s)

/-! ## Lanes that act -/

/-- run of 06 R137: the split's live lanes under the guard, as repeat 0 of a REP found them (04 R113). -/
def Wave.runOf (w : Wave) (sp : Split) (g : BitVec 3) : Dword :=
  if sp.rep = 0 then w.liveOf sp &&& sp.guard g.toNat else sp.repRun

/-- Mode(rx) of 03 R66: the split's rounding mode, read at repeat 0 of a REP; SR rounds in RNE where an instruction takes
no random bits. -/
def Split.mode (sp : Split) (rx : Bool) : RMode :=
  let m := if sp.rep = 0 then sp.frm else sp.repFrm
  if !rx then .rne else match m.toNat with
    | 1 => .rz | 2 => .ru | 3 => .rd | _ => .rne

/-- The number of the last write before the point at which two lanes last stood in one split (07 R160). -/
def Wave.parted (w : Wave) (i j : Nat) : Nat :=
  ((w.together.find? (fun e => e.2.getLsbD i && e.2.getLsbD j)).map (fun e => e.1)).getD 0

/-- What lane i of a split reads of a register in lane j (07 R159, R160): 0 beyond W and in exited lanes; in another split,
any value the lane has held since the two lanes stood in one split. `n` is the draw. -/
def Wave.fetch (w : Wave) (sp : Split) (n r i j : Nat) : Word :=
  if w.width ≤ j ∨ w.exited.getLsbD j then 0
  else if sp.lanes.getLsbD j then w.v r j
  else
    let p := w.parted i j
    let l := w.v r j :: ((Table.get nilAt w.hist (64 * r + j)).filter (fun e => decide (p < e.1))).map (fun e => e.2)
    l.getD (Config.freeChoice n % l.length) (w.v r j)

end Sys2Proof.Machine

namespace Sys2Proof

open Sys2Proof.Machine

/-! ## The operands of F words -/

/-- The lane a source modifier reads for lane i (02 R46). -/
def FArgs.modLane (f : FArgs) (i : Nat) : Nat :=
  let seg := 2 ^ f.lseg
  let base := i - i % seg
  match f.cls with
  | 1 => base + (i - base + f.dist) % seg
  | 2 => Nat.xor i f.dist
  | 3 => base + f.dist
  | _ => i

/-- Word k of the A operand in lane i, the source modifier applied (02 R45, R46). -/
def FArgs.srcA (f : FArgs) (w : Wave) (sp : Split) (n i k : Nat) : Word :=
  if f.cls = 0 then w.v (f.a.toNat + k) i else w.fetch sp (n + 8 * i + k) (f.a.toNat + k) i (f.modLane i)

/-- The A operand as a pair. -/
def FArgs.srcA2 (f : FArgs) (w : Wave) (sp : Split) (n i : Nat) : Dword :=
  pairOf (f.srcA w sp n i 0) (f.srcA w sp n i 1)

/-- The 32-bit B operand in lane i (06 R137). -/
def FArgs.srcB (f : FArgs) (w : Wave) (i : Nat) : Word :=
  if f.bs then f.limm.getD (w.s f.s.toNat) else w.v f.b.toNat i

/-- The 64-bit integer B operand in lane i; a LIMM immediate is sign-extended (02 R42). -/
def FArgs.srcB2 (f : FArgs) (w : Wave) (i : Nat) : Dword :=
  if f.bs then match f.limm with
    | some x => x.signExtend 64
    | none => w.s2 f.s.toNat
  else w.v2 f.b.toNat i

/-- The FP64 B operand in lane i; a LIMM immediate is FP32, widened exactly (02 R42). -/
def FArgs.srcBd (f : FArgs) (w : Wave) (i : Nat) : Dword :=
  if f.bs then match f.limm with
    | some x => toF64 .rne (f32 x)
    | none => w.s2 f.s.toNat
  else w.v2 f.b.toNat i

/-- The C operand in lane i. -/
def FArgs.srcC (f : FArgs) (w : Wave) (i : Nat) : Word := w.v f.c i

/-- The C operand as a pair. -/
def FArgs.srcC2 (f : FArgs) (w : Wave) (i : Nat) : Dword := w.v2 f.c i

/-- What an F word names (06 R138). -/
def FOp.uses (op : FOp) (f : FArgs) : Uses :=
  let a := regs f.a.toNat (op.aCount f.d f.b)
  let b := if f.bs then [] else regs f.b.toNat (op.bCount f.d)
  let d := regs f.d.toNat (op.dCount f.b)
  { vr := a ++ b ++ regs f.c op.cCount ++ (if op = .cvtsr then d else [])
    vw := d
    sr := (if f.bs ∧ f.limm = none ∧ op.cCount = 0 ∧ op.namedScalars = 0 then regs f.s.toNat (max 1 (op.bCount f.d))
      else []) ++ regs f.s.toNat op.namedScalars
    vfree := (if f.la then a else []) ++ (if f.lb && !op.converts then b else [])
    wide := f.cls ≠ 0 }

/-- The minimum width a source modifier gives an F word (02 R48). -/
def FArgs.width (f : FArgs) : Nat := if f.cls = 0 then 1 else 2 ^ f.lseg

end Sys2Proof

namespace Sys2Proof.Machine

/-! ## Lanewise instructions (06 R137) -/

/-- Whether an F instruction whose lanes read A from the lanes `from_` reads a poisoned place (05 R127; 07 R159). A lane beyond W or that has
exited is not read. -/
def Wave.farPoison (w : Wave) (op : FOp) (f : FArgs) (sp : Split) (from_ : List Nat) : Bool :=
  let a := regs f.a.toNat (op.aCount f.d f.b)
  w.poisonIn a ((from_.filter (fun j => decide (j < w.width) && !w.exited.getLsbD j)).map (· / 4)) ||
    w.poisonIn ((op.uses f).vr.drop a.length) (quadsOf (w.liveOf sp))

/-- Issues an F instruction whose lanes read A from the lanes that `from_` names, in whatever split they stand. -/
def State.issueFar (s : State) (u : Uses) (op : FOp) (f : FArgs) (from_ : Wave → Split → List Nat)
    (act : Wave → Split → State → State) : State :=
  s.issueWith u (fun w sp t =>
    if w.farPoison op f sp (from_ w sp) then s.stopWith { cause := .poisonRegister } else act w sp t)

/-- Issues a lanewise F instruction, with or without a source modifier (02 R46). -/
def State.issueF (s : State) (op : FOp) (f : FArgs) (act : Wave → Split → State → State) : State :=
  if f.cls = 0 then s.issueWith (op.uses f) act
  else s.issueFar (op.uses f) op f (fun w sp => (lanesOf (w.runOf sp f.g)).map f.modLane) act

/-- A lanewise instruction with register results (06 R137): `f` gives lane i's result words. -/
def State.lanewise (s : State) (op : FOp) (f : FArgs) (res : Wave → Split → Nat → Nat → List Word) : State :=
  s.forced f.width (fun s => s.issueF op f (fun w sp s =>
    let run := w.runOf sp f.g
    let n := s.free
    let s := s.onIssuer (fun x => x.writeVs (quadsOf sp.lanes) run f.d.toNat (op.dCount f.b) (res w sp n))
    (if f.cls = 0 then s else { s with free := s.free + 512 }).advance))

/-- A lanewise instruction with a mask result (06 R137): bits of lanes outside run are cleared. -/
def State.lanemask (s : State) (op : FOp) (f : FArgs) (res : Wave → Split → Nat → Nat → Bool) : State :=
  s.forced f.width (fun s => s.issueF op f (fun w sp s =>
    let run := w.runOf sp f.g
    let n := s.free
    let m := maskWhere (fun i => run.getLsbD i && res w sp n i)
    let s := s.onIssuingSplit (fun x => x.setMask (f.d.toNat % 8) m)
    (if f.cls = 0 then s else { s with free := s.free + 512 }).advance))

/-- A lanewise instruction of one 32-bit source A and one result. -/
def State.lane1 (s : State) (op : FOp) (f : FArgs) (g : Word → Word) : State :=
  s.lanewise op f (fun w sp n i => [g (f.srcA w sp n i 0)])

/-- A lanewise instruction of 32-bit sources A and B and one result. -/
def State.lane2 (s : State) (op : FOp) (f : FArgs) (g : Word → Word → Word) : State :=
  s.lanewise op f (fun w sp n i => [g (f.srcA w sp n i 0) (f.srcB w i)])

/-- A lanewise instruction of 32-bit sources A, B and C and one result. -/
def State.lane3 (s : State) (op : FOp) (f : FArgs) (g : Word → Word → Word → Word) : State :=
  s.lanewise op f (fun w sp n i => [g (f.srcA w sp n i 0) (f.srcB w i) (f.srcC w i)])

/-- A 64-bit result as two words, low first. -/
def words2 (x : Dword) : List Word := [loWord x, hiWord x]

/-- As `lane1`, rounding in the mode of RX. -/
def State.lane1r (s : State) (op : FOp) (f : FArgs) (g : RMode → Word → Word) : State :=
  s.lanewise op f (fun w sp n i => [g (sp.mode f.rx) (f.srcA w sp n i 0)])

/-- As `lane2`, rounding in the mode of RX. -/
def State.lane2r (s : State) (op : FOp) (f : FArgs) (g : RMode → Word → Word → Word) : State :=
  s.lanewise op f (fun w sp n i => [g (sp.mode f.rx) (f.srcA w sp n i 0) (f.srcB w i)])

/-- As `lane3`, rounding in the mode of RX. -/
def State.lane3r (s : State) (op : FOp) (f : FArgs) (g : RMode → Word → Word → Word → Word) : State :=
  s.lanewise op f (fun w sp n i => [g (sp.mode f.rx) (f.srcA w sp n i 0) (f.srcB w i) (f.srcC w i)])

/-- A lanewise FP64 instruction of pairs A and B, rounding in the mode of RX. -/
def State.lane2d (s : State) (op : FOp) (f : FArgs) (g : RMode → Dword → Dword → Dword) : State :=
  s.lanewise op f (fun w sp n i => words2 (g (sp.mode f.rx) (f.srcA2 w sp n i) (f.srcBd w i)))

/-! ## Scalars, of a wave or of a service core -/

/-- A scalar of a service core: s960–s1023 are banked by level (16 R371). -/
def SvcCore.s (c : SvcCore) (n : Nat) : Word :=
  if n < 960 then Table.get zeroWord c.regs n else Table.get zeroWord c.banks (64 * c.level + (n - 960))

/-- Writes a scalar of a service core. -/
def SvcCore.writeS (c : SvcCore) (n : Nat) (x : Word) : SvcCore :=
  if n < 960 then { c with regs := Table.set zeroWord c.regs n x }
  else { c with banks := Table.set zeroWord c.banks (64 * c.level + (n - 960)) x }

/-- Unbinding a scalar of a service core leaves it reading 0 (05 R119). -/
def SvcCore.unbindS (c : SvcCore) (n : Nat) : SvcCore := c.writeS n 0

/-- Issues a scalar instruction: `act` takes the scalars as they are read and the state to write. -/
def State.scalarIssue (s : State) (u : Uses) (act : (Nat → Word) → State → State) : State :=
  match s.cur.svc with
  | some n =>
    let c := s.svc n
    act c.s (s.onSvc n (fun c => u.sfree.foldl (fun c k => c.unbindS k) c))
  | none => s.issueWith u (fun w _ s => act w.s s)

/-- Writes the scalars from n on, of whichever core issues. -/
def State.putScalars (s : State) (n : Nat) (xs : List Word) : State :=
  match s.cur.svc with
  | some c => s.onSvc c (fun c => (List.range xs.length).foldl (fun c k => c.writeS (n + k) (xs.getD k 0)) c)
  | none => s.onIssuer (fun w => w.writeSs s.cur.split n xs)

/-- A scalar instruction that reads `an` scalars from A, `bn` from B and writes `dn` from D (05 R131). `more` are scalars
read besides. -/
def State.scalar (s : State) (a : SArgs) (dn an bn : Nat) (more : List Nat) (res : (Nat → Word) → List Word) : State :=
  let ar := regs a.a.toNat an
  let br := regs a.b.toNat bn
  s.scalarIssue { sr := ar ++ br ++ more, sw := regs a.d.toNat dn,
                  sfree := (if a.la then ar else []) ++ (if a.lb then br else []) }
    (fun r s => (s.putScalars a.d.toNat (res r)).advance)

end Sys2Proof.Machine
end

