-- ==== Sys2Proof/Machine/Vector.lean ====
section
/-! DEFINITION. The integer instructions of the vector datapath (06 R139–R143), RNGH and RNGF (06 R151, R152), and VRDS
(06 R143). -/

namespace Sys2Proof.Machine

/-- What a meaning answers. -/
abbrev Out := Host.Outcome State Fault Refusal

/-! ## Integer operations (03 R82) -/

/-- Bits [63:32] of the signed product. -/
def mulHi (a b : Word) : Word := hiWord (a.signExtend 64 * b.signExtend 64)

/-- Bits [63:32] of the unsigned product. -/
def mulHiN (a b : Word) : Word := hiWord (a.setWidth 64 * b.setWidth 64)

/-- Signed minimum. -/
def minS {n : Nat} (a b : BitVec n) : BitVec n := if b.slt a then b else a

/-- Signed maximum. -/
def maxS {n : Nat} (a b : BitVec n) : BitVec n := if a.slt b then b else a

/-- Unsigned minimum. -/
def minU {n : Nat} (a b : BitVec n) : BitVec n := if b.ult a then b else a

/-- Unsigned maximum. -/
def maxU {n : Nat} (a b : BitVec n) : BitVec n := if a.ult b then b else a

/-- A signed exact value clamped to 32 bits. -/
def satS (x : Int) : Word := BitVec.ofInt 32 (clampInt (-2147483648) 2147483647 x)

/-- An exact value clamped to 32 unsigned bits. -/
def satU (x : Int) : Word := BitVec.ofInt 32 (clampInt 0 4294967295 x)

/-- Left shift by an unsigned amount; the width or more gives 0. -/
def shiftL {n : Nat} (a : BitVec n) (b : Word) : BitVec n := if n ≤ b.toNat then 0 else a <<< b.toNat

/-- Logical right shift by an unsigned amount; the width or more gives 0. -/
def shiftR {n : Nat} (a : BitVec n) (b : Word) : BitVec n := if n ≤ b.toNat then 0 else a >>> b.toNat

/-- Arithmetic right shift by an unsigned amount; the width or more gives copies of the sign. -/
def shiftA {n : Nat} (a : BitVec n) (b : Word) : BitVec n := a.sshiftRight (min b.toNat (n - 1))

/-- BFE (06 R140). -/
def fieldExtract (a b : Word) : Word :=
  let pos := b.toNat % 256
  let len := b.toNat / 256 % 256
  let l := min len (32 - pos)
  if len = 0 ∨ 32 ≤ pos then 0
  else
    let x := a.toNat / 2 ^ pos % 2 ^ l
    if b.getLsbD 16 && x.testBit (l - 1) then BitVec.ofNat 32 (x + (2 ^ 32 - 2 ^ l)) else BitVec.ofNat 32 x

/-- BFI (06 R140). -/
def fieldInsert (a b c : Word) : Word :=
  let pos := b.toNat % 256
  let len := b.toNat / 256 % 256
  let l := min len (32 - pos)
  if len = 0 ∨ 32 ≤ pos then c
  else
    let m : Word := BitVec.ofNat 32 ((2 ^ l - 1) * 2 ^ pos)
    (c &&& ~~~m) ||| ((a <<< pos) &&& m)

/-- The number of set bits. -/
def popCount {n : Nat} (a : BitVec n) : Word :=
  BitVec.ofNat 32 ((List.range n).foldl (fun k i => if a.getLsbD i then k + 1 else k) 0)

/-- The number of leading zeros; the width for 0. -/
def leadingZeros {n : Nat} (a : BitVec n) : Word :=
  BitVec.ofNat 32 (if a = 0 then n else n - 1 - Nat.log2 a.toNat)

/-- The lowest set bit; all ones for 0 (05 R131). -/
def lowestSet {n : Nat} (a : BitVec n) : Word :=
  match (List.range n).find? (fun i => a.getLsbD i) with
  | some i => BitVec.ofNat 32 i
  | none => 0xFFFFFFFF

/-- IDP4 (06 R142). -/
def dot4 (a b c : Word) : Word :=
  let e := fun (x : Word) k => (x.extractLsb' (8 * k) 8).toInt
  BitVec.ofInt 32 (c.toInt + ((List.range 4).map (fun k => e a k * e b k)).sum)

/-- PRMT (06 R142). -/
def permute (a b c : Word) : Word :=
  let pool := b.toNat * 2 ^ 32 + a.toNat
  BitVec.ofNat 32 (packElements 8 ((List.range 4).map (fun k =>
    let n := c.toNat / 2 ^ (4 * k) % 16
    let x := pool / 2 ^ (8 * (n % 8)) % 256
    if n < 8 then x else if 128 ≤ x then 255 else 0)))

/-- One round of the Lacerta hash (06 R151). -/
def lacertaRound : Nat → Word → Word → Word → Word
  | 0, x, _, _ => x
  | n + 1, x, k0, k1 =>
    let x := (x ^^^ k0) * 0xD2B74407
    let x := x ^^^ (x >>> 16)
    let x := (x + k1) * 0x8F1BC6E5
    let x := x ^^^ (x >>> 13)
    lacertaRound n x (k0 + 0x7A3D2B59) (k1.rotateLeft 9 + 0x5B1E9A0D)

/-- The Lacerta hash (06 R151). -/
def lacerta (seed : Dword) (ctr : Word) : Word :=
  let x := lacertaRound 4 ctr (loWord seed) (hiWord seed)
  x ^^^ (x >>> 16)

/-- RNGF's value (06 R152): the hash's top 24 bits × 2^−24, exact in FP32. -/
def unitFloat (h : Word) : Word :=
  let n := h.toNat / 256
  if n = 0 then 0 else toF32 .rne (.fin false ((n : Rat) * pow2 (-24)))

/-! ## Special registers (05 R133) -/

/-- The value of a special register as a lane of a split sees it; 64-bit values fill a pair. -/
def State.special (s : State) (w : Wave) (sp : Split) (i : Nat) (n : Nat) : Dword :=
  let l := (s.launchOf w.group).getD {}
  let g := (s.group w.group).getD {}
  let grid := fun (k : Nat) => match w.kind with
    | .grid => if l.kind = .plain then (l.w (6 + k)).setWidth 64 else 1
    | _ => 1
  let place := fun (x : Word) => match w.kind with
    | .grid => if l.kind = .plain then x.setWidth 64 else (0 : Dword)
    | _ => 0
  let lc := fun (k : Nat) => ((sp.loops.getD k {}).count).setWidth 64
  let num := fun (k : Nat) => BitVec.ofNat 64 k
  match n with
  | 0x00 => num i
  | 0x01 => num (Table.get (fun k => k) w.vlid i)
  | 0x02 => num (i / 4)
  | 0x03 => num w.width
  | 0x04 => num s.cur.wave
  | 0x05 => place g.gx
  | 0x06 => place g.gy
  | 0x07 => place g.gz
  | 0x08 => grid 0
  | 0x09 => grid 1
  | 0x0A => grid 2
  | 0x0B => l.launchid.setWidth 64
  | 0x0C => num s.cur.core
  | 0x0D => num (dieOf s.cur.core)
  | 0x0E => num g.crank
  | 0x0F => num w.ctx
  | 0x10 => num s.cur.split
  | 0x11 => sp.depth.setWidth 64
  | 0x12 => w.liveOf sp
  | 0x13 => sp.frm.setWidth 64
  | 0x14 => lc 0
  | 0x15 => lc 1
  | 0x16 => lc 2
  | 0x17 => lc 3
  | 0x18 => sp.sig.setWidth 64
  | 0x19 => num (s.core s.cur.core).flow.capNow
  | 0x1A => num w.prio
  | 0x20 => (s.core s.cur.core).cycle
  | 0x21 => w.batch.setWidth 64
  | 0x22 => w.cbdone.setWidth 64
  | 0x23 => w.mticket.setWidth 64
  | 0x24 => w.mdone.setWidth 64
  | _ => 0

/-- Whether a register is one that rule 6 of 15 R326 forbids a replayed group to read. -/
def timingRegister (n : Nat) : Bool :=
  n = 0x20 || n = 0x0C || n = 0x0D || n = 0x04 || n = 0x19 || n = 0x24 || n = 0x22

/-! ## The instructions -/

/-- IADD: A + B modulo 2^32 (06 R139). -/
def execIadd (f : FArgs) (s : State) : Out := .next (s.lane2 .iadd f (· + ·))

/-- ISUB: A − B modulo 2^32 (06 R139). -/
def execIsub (f : FArgs) (s : State) : Out := .next (s.lane2 .isub f (· - ·))

/-- IMUL: the low 32 bits of the product (06 R139). -/
def execImul (f : FArgs) (s : State) : Out := .next (s.lane2 .imul f (· * ·))

/-- IMULHI: bits [63:32] of the signed product (06 R139). -/
def execImulhi (f : FArgs) (s : State) : Out := .next (s.lane2 .imulhi f mulHi)

/-- IMULHN: bits [63:32] of the unsigned product (06 R139). -/
def execImulhn (f : FArgs) (s : State) : Out := .next (s.lane2 .imulhn f mulHiN)

/-- IMAD: the low 32 bits of A × B + C (06 R139). -/
def execImad (f : FArgs) (s : State) : Out := .next (s.lane3 .imad f (fun a b c => a * b + c))

/-- IMADWI: the signed 64-bit product plus a 64-bit C (06 R139). -/
def execImadwi (f : FArgs) (s : State) : Out := .next (s.lanewise .imadwi f (fun w sp n i =>
  words2 ((f.srcA w sp n i 0).signExtend 64 * (f.srcB w i).signExtend 64 + f.srcC2 w i)))

/-- IMADWN: the unsigned 64-bit product plus a 64-bit C (06 R139). -/
def execImadwn (f : FArgs) (s : State) : Out := .next (s.lanewise .imadwn f (fun w sp n i =>
  words2 ((f.srcA w sp n i 0).setWidth 64 * (f.srcB w i).setWidth 64 + f.srcC2 w i)))

/-- IADD64: the 64-bit sum (06 R139). -/
def execIadd64 (f : FArgs) (s : State) : Out := .next (s.lanewise .iadd64 f (fun w sp n i =>
  words2 (f.srcA2 w sp n i + f.srcB2 w i)))

/-- ISUB64: the 64-bit difference (06 R139). -/
def execIsub64 (f : FArgs) (s : State) : Out := .next (s.lanewise .isub64 f (fun w sp n i =>
  words2 (f.srcA2 w sp n i - f.srcB2 w i)))

/-- IMIN: signed minimum (06 R139). -/
def execImin (f : FArgs) (s : State) : Out := .next (s.lane2 .imin f minS)

/-- IMAX: signed maximum (06 R139). -/
def execImax (f : FArgs) (s : State) : Out := .next (s.lane2 .imax f maxS)

/-- IMINN: unsigned minimum (06 R139). -/
def execIminn (f : FArgs) (s : State) : Out := .next (s.lane2 .iminn f minU)

/-- IMAXN: unsigned maximum (06 R139). -/
def execImaxn (f : FArgs) (s : State) : Out := .next (s.lane2 .imaxn f maxU)

/-- IABS: |A| modulo 2^32 (06 R139). -/
def execIabs (f : FArgs) (s : State) : Out := .next (s.lane1 .iabs f (fun a => if a.slt 0 then -a else a))

/-- INEG: −A modulo 2^32 (06 R139). -/
def execIneg (f : FArgs) (s : State) : Out := .next (s.lane1 .ineg f (fun a => -a))

/-- IADDSAT: the signed sum, clamped (06 R139). -/
def execIaddsat (f : FArgs) (s : State) : Out := .next (s.lane2 .iaddsat f (fun a b => satS (a.toInt + b.toInt)))

/-- IADDSATN: the unsigned sum, clamped (06 R139). -/
def execIaddsatn (f : FArgs) (s : State) : Out := .next (s.lane2 .iaddsatn f (fun a b => satU ((a.toNat : Int) + b.toNat)))

/-- ISUBSAT: the signed difference, clamped (06 R139). -/
def execIsubsat (f : FArgs) (s : State) : Out := .next (s.lane2 .isubsat f (fun a b => satS (a.toInt - b.toInt)))

/-- ISUBSATN: the unsigned difference, clamped (06 R139). -/
def execIsubsatn (f : FArgs) (s : State) : Out := .next (s.lane2 .isubsatn f (fun a b => satU ((a.toNat : Int) - b.toNat)))

/-- AND (06 R140). -/
def execVand (f : FArgs) (s : State) : Out := .next (s.lane2 .vand f (· &&& ·))

/-- OR (06 R140). -/
def execVor (f : FArgs) (s : State) : Out := .next (s.lane2 .vor f (· ||| ·))

/-- XOR (06 R140). -/
def execVxor (f : FArgs) (s : State) : Out := .next (s.lane2 .vxor f (· ^^^ ·))

/-- ANDN: A AND NOT B (06 R140). -/
def execAndn (f : FArgs) (s : State) : Out := .next (s.lane2 .andn f (fun a b => a &&& ~~~b))

/-- SHL: A shifted left by B (06 R140). -/
def execShl (f : FArgs) (s : State) : Out := .next (s.lane2 .shl f shiftL)

/-- SHR: A shifted right by B (06 R140). -/
def execShr (f : FArgs) (s : State) : Out := .next (s.lane2 .shr f shiftR)

/-- SRA: A shifted right by B, arithmetically (06 R140). -/
def execSra (f : FArgs) (s : State) : Out := .next (s.lane2 .sra f shiftA)

/-- SHL64: the pair shifted left by B (06 R140). -/
def execShl64 (f : FArgs) (s : State) : Out := .next (s.lanewise .shl64 f (fun w sp n i =>
  words2 (shiftL (f.srcA2 w sp n i) (f.srcB w i))))

/-- SHR64: the pair shifted right by B (06 R140). -/
def execShr64 (f : FArgs) (s : State) : Out := .next (s.lanewise .shr64 f (fun w sp n i =>
  words2 (shiftR (f.srcA2 w sp n i) (f.srcB w i))))

/-- BFE: field extract (06 R140). -/
def execBfe (f : FArgs) (s : State) : Out := .next (s.lane2 .bfe f fieldExtract)

/-- BFI: field insert (06 R140). -/
def execBfi (f : FArgs) (s : State) : Out := .next (s.lane3 .bfi f fieldInsert)

/-- POPC: the number of set bits (06 R140). -/
def execPopc (f : FArgs) (s : State) : Out := .next (s.lane1 .popc f popCount)

/-- CLZ: the number of leading zeros (06 R140). -/
def execClz (f : FArgs) (s : State) : Out := .next (s.lane1 .clz f leadingZeros)

/-- BREV: bit reversal (06 R140). -/
def execBrev (f : FArgs) (s : State) : Out := .next (s.lane1 .brev f BitVec.reverse)

/-- ICMP: a mask from a comparison of registers or, at conditions 8 to 13, of pairs (06 R141). -/
def execIcmp (f : FArgs) (s : State) : Out := .next (s.lanemask .icmp f (fun w sp n i =>
  if f.cond < 8 then intCond f.cond (f.srcA w sp n i 0) (f.srcB w i)
  else intCond (f.cond - 8) (f.srcA2 w sp n i) (f.srcB2 w i)))

/-- SEL: A where C is not 0, otherwise B (06 R142). -/
def execSel (f : FArgs) (s : State) : Out := .next (s.lane3 .sel f (fun a b c => if c ≠ 0 then a else b))

/-- IDP4: C plus the sum of four signed byte products (06 R142). -/
def execIdp4 (f : FArgs) (s : State) : Out := .next (s.lane3 .idp4 f dot4)

/-- LEA: the pair plus B sign-extended (06 R142). -/
def execLea (f : FArgs) (s : State) : Out := .next (s.lanewise .lea f (fun w sp n i =>
  words2 (f.srcA2 w sp n i + (f.srcB w i).signExtend 64)))

/-- MOV: B (06 R142). -/
def execMov (f : FArgs) (s : State) : Out := .next (s.lanewise .mov f (fun w _ _ i => [f.srcB w i]))

/-- MOV64: the 64-bit B (06 R142). -/
def execMov64 (f : FArgs) (s : State) : Out := .next (s.lanewise .mov64 f (fun w _ _ i => words2 (f.srcB2 w i)))

/-- PRMT: byte permute (06 R142). -/
def execPrmt (f : FArgs) (s : State) : Out := .next (s.lane3 .prmt f permute)

/-- VRDS: a special register as each lane sees it (06 R143). A replay that reads a register of 15 R326 rule 6 is invalid
(15 R337). -/
def execVrds (f : FArgs) (s : State) : Out := .next (
  let t := s.lanewise .vrds f (fun w sp _ i => words2 (s.special w sp i f.b.toNat))
  match s.issuing with
  | some (w, _) => if timingRegister f.b.toNat && s.shadowOf w.group then s.invalidReplay w.group else t
  | none => t)

/-- RNGH: the Lacerta hash of the scalar seed and A (06 R152). -/
def execRngh (f : FArgs) (s : State) : Out := .next (s.lanewise .rngh f (fun w sp n i =>
  [lacerta (w.s2 f.s.toNat) (f.srcA w sp n i 0)]))

/-- RNGF: the hash as a value of [0, 1) (06 R152). -/
def execRngf (f : FArgs) (s : State) : Out := .next (s.lanewise .rngf f (fun w sp n i =>
  [unitFloat (lacerta (w.s2 f.s.toNat) (f.srcA w sp n i 0))]))

/-- VFREE: unbinds v(a) to v(b) in each quad whose live lanes all belong to the split (05 R135, R120). -/
def execVfree (f : FArgs) (s : State) : Out := .next (
  s.issueWith { vfree := regs f.a.toNat (f.b.toNat - f.a.toNat + 1) } (fun _ _ s => s.advance))

end Sys2Proof.Machine
end

