-- ==== Sys2Proof/Machine/Float.lean ====
section
/-! DEFINITION. The FP32 and FP64 instructions and the camera-relative transform (06 R144–R147, R150). -/

namespace Sys2Proof.Machine

/-- An FP32 result of two operands, rounded once (03 R67, R79). -/
def f32Op2 (g : Bool → Val → Val → Val) (m : RMode) (a b : Word) : Word := toF32 m (g m.isRd (f32 a) (f32 b))

/-- An FP64 result of two operands, rounded once. -/
def f64Op2 (g : Bool → Val → Val → Val) (m : RMode) (a b : Dword) : Dword := toF64 m (g m.isRd (f64 a) (f64 b))

/-- Exact difference. -/
def Val.minus (rd : Bool) (a b : Val) : Val := Val.add rd a b.negate

/-- minimumNumber or maximumNumber of FP32 encodings (03 R72). -/
def f32Extremum (isMax : Bool) (a b : Word) : Word := BitVec.ofNat 32 (Fmt.f32.extremum isMax a.toNat b.toNat)

/-- minimumNumber or maximumNumber of FP64 encodings. -/
def f64Extremum (isMax : Bool) (a b : Dword) : Dword := BitVec.ofNat 64 (Fmt.f64.extremum isMax a.toNat b.toNat)

/-- Rounding to an integral value; NaN gives the canonical NaN (06 R144). -/
def integral32 (m : RMode) (a : Word) : Word := toF32 m ((f32 a).integral m)

/-- The row sums of CRXF for a lane: the three positions relative to the origin, then ExactSum of each row (06 R150). -/
def cameraRows (p : Nat → Dword) (c : Nat → Dword) (mat : Nat → Nat → Word) : List Word :=
  let rel := fun j => toF32 .rne (f64 (toF64 .rne (Val.minus false (f64 (p j)) (f64 (c j)))))
  (List.range 3).map (fun row =>
    exactSum (mat row 3) ((List.range 3).map (fun k => { a := f32 (mat row k), b := f32 (rel k), e := 0 })) false)

/-! ## FP32 -/

/-- FADD: A + B, rounded once in the mode of RX (06 R144). -/
def execFadd (f : FArgs) (s : State) : Out := .next (s.lane2r .fadd f (f32Op2 Val.add))

/-- FSUB: A − B, rounded once in the mode of RX (06 R144). -/
def execFsub (f : FArgs) (s : State) : Out := .next (s.lane2r .fsub f (f32Op2 Val.minus))

/-- FMUL: A × B, rounded once in the mode of RX (06 R144). -/
def execFmul (f : FArgs) (s : State) : Out := .next (s.lane2r .fmul f (f32Op2 (fun _ => Val.mul)))

/-- FFMA: A × B + C with one rounding (06 R144). -/
def execFfma (f : FArgs) (s : State) : Out := .next (s.lane3r .ffma f (fun m a b c => toF32 m (Val.fma m.isRd (f32 a) (f32 b) (f32 c))))

/-- FMIN: minimumNumber (06 R144; 03 R72). -/
def execFmin (f : FArgs) (s : State) : Out := .next (s.lane2 .fmin f (f32Extremum false))

/-- FMAX: maximumNumber (06 R144; 03 R72). -/
def execFmax (f : FArgs) (s : State) : Out := .next (s.lane2 .fmax f (f32Extremum true))

/-- FABS: bit 31 cleared (06 R144). -/
def execFabs (f : FArgs) (s : State) : Out := .next (s.lane1 .fabs f (fun a => a &&& 0x7FFFFFFF))

/-- FNEG: bit 31 inverted (06 R144). -/
def execFneg (f : FArgs) (s : State) : Out := .next (s.lane1 .fneg f (fun a => a ^^^ 0x80000000))

/-- FCMP: a mask from a comparison (06 R145). -/
def execFcmp (f : FArgs) (s : State) : Out := .next (s.lanemask .fcmp f (fun w sp n i =>
  floatCond f.cond (f32 (f.srcA w sp n i 0)) (f32 (f.srcB w i))))

/-- FRND: rounded to an integral value (06 R144). -/
def execFrnd (f : FArgs) (s : State) : Out := .next (s.lane1r .frnd f integral32)

/-- FRCP (06 R144; 03 R81). -/
def execFrcp (f : FArgs) (s : State) : Out := .next (s.lane1 .frcp f fnRcp)

/-- FRSQ (06 R144; 03 R81). -/
def execFrsq (f : FArgs) (s : State) : Out := .next (s.lane1 .frsq f fnRsq)

/-- FSQRT: the square root, correctly rounded (06 R144). -/
def execFsqrt (f : FArgs) (s : State) : Out := .next (s.lane1r .fsqrt f (fun m a => toF32 m (f32 a).sqrt))

/-- FDIV: A / B, correctly rounded (06 R144). -/
def execFdiv (f : FArgs) (s : State) : Out := .next (s.lane2r .fdiv f (f32Op2 (fun _ => Val.div)))

/-- FEXP2 (06 R144; 03 R81). -/
def execFexp2 (f : FArgs) (s : State) : Out := .next (s.lane1 .fexp2 f fnExp2)

/-- FLOG2 (06 R144; 03 R81). -/
def execFlog2 (f : FArgs) (s : State) : Out := .next (s.lane1 .flog2 f fnLog2)

/-- FRRED: r and the quadrant (06 R146; 03 R81). -/
def execFrred (f : FArgs) (s : State) : Out := .next (s.lanewise .frred f (fun w sp n i =>
  let x := fnReduce (f.srcA w sp n i 0)
  [x.1, x.2]))

/-- FSINR: sin(r + q·π/2) (06 R146; 03 R81). -/
def execFsinr (f : FArgs) (s : State) : Out := .next (s.lanewise .fsinr f (fun w sp n i =>
  [fnTrig false (f.srcA w sp n i 0) (f.srcA w sp n i 1)]))

/-- FCOSR: cos(r + q·π/2) (06 R146; 03 R81). -/
def execFcosr (f : FArgs) (s : State) : Out := .next (s.lanewise .fcosr f (fun w sp n i =>
  [fnTrig true (f.srcA w sp n i 0) (f.srcA w sp n i 1)]))

/-- FTANH (06 R144; 03 R81). -/
def execFtanh (f : FArgs) (s : State) : Out := .next (s.lane1 .ftanh f fnTanh)

/-- FCLASS: the class of A, one bit set (06 R144). -/
def execFclass (f : FArgs) (s : State) : Out := .next (s.lane1 .fclass f classOf)

/-! ## FP64 -/

/-- DADD: A + B, rounded once (06 R147). -/
def execDadd (f : FArgs) (s : State) : Out := .next (s.lane2d .dadd f (f64Op2 Val.add))

/-- DSUB: A − B, rounded once (06 R147). -/
def execDsub (f : FArgs) (s : State) : Out := .next (s.lane2d .dsub f (f64Op2 Val.minus))

/-- DMUL: A × B, rounded once (06 R147). -/
def execDmul (f : FArgs) (s : State) : Out := .next (s.lane2d .dmul f (f64Op2 (fun _ => Val.mul)))

/-- DFMA: A × B + C with one rounding (06 R147). -/
def execDfma (f : FArgs) (s : State) : Out := .next (s.lanewise .dfma f (fun w sp n i =>
  let m := sp.mode f.rx
  words2 (toF64 m (Val.fma m.isRd (f64 (f.srcA2 w sp n i)) (f64 (f.srcBd w i)) (f64 (f.srcC2 w i))))))

/-- DMIN: minimumNumber (06 R147). -/
def execDmin (f : FArgs) (s : State) : Out := .next (s.lane2d .dmin f (fun _ => f64Extremum false))

/-- DMAX: maximumNumber (06 R147). -/
def execDmax (f : FArgs) (s : State) : Out := .next (s.lane2d .dmax f (fun _ => f64Extremum true))

/-- DCMP: a mask from a comparison of pairs (06 R145, R147). -/
def execDcmp (f : FArgs) (s : State) : Out := .next (s.lanemask .dcmp f (fun w sp n i =>
  floatCond f.cond (f64 (f.srcA2 w sp n i)) (f64 (f.srcBd w i))))

/-- DDIV: A / B, correctly rounded (06 R147). -/
def execDdiv (f : FArgs) (s : State) : Out := .next (s.lane2d .ddiv f (f64Op2 (fun _ => Val.div)))

/-- DSQRT: the square root, correctly rounded (06 R147). -/
def execDsqrt (f : FArgs) (s : State) : Out := .next (s.lanewise .dsqrt f (fun w sp n i =>
  words2 (toF64 (sp.mode f.rx) (f64 (f.srcA2 w sp n i)).sqrt)))

/-- DRND: rounded to an integral value (06 R147). -/
def execDrnd (f : FArgs) (s : State) : Out := .next (s.lanewise .drnd f (fun w sp n i =>
  words2 (toF64 (sp.mode f.rx) ((f64 (f.srcA2 w sp n i)).integral (sp.mode f.rx)))))

/-! ## CRXF -/

/-- CRXF: the camera-relative transform (06 R150). -/
def execCrxf (f : FArgs) (s : State) : Out := .next (s.lanewise .crxf f (fun w sp n i =>
  let b := f.s.toNat
  cameraRows (fun j => pairOf (f.srcA w sp n i (2 * j)) (f.srcA w sp n i (2 * j + 1))) (fun j => w.s2 (b + 2 * j))
    (fun row k => w.s (b + 6 + 4 * row + k))))

end Sys2Proof.Machine
end

