-- ==== Sys2Proof/Machine/Convert.lean ====
section
/-! DEFINITION. Packed halves, dot products, the pair frame and the conversions (02 R36–R39; 06 R148, R149, R153–R157). -/

namespace Sys2Proof.Machine

/-! ## Packed halves (06 R148) -/

/-- A result on each of the two 16-bit elements. -/
def each2 (g : Nat → Nat → Nat → Nat) (a b c : Word) : Word :=
  BitVec.ofNat 32 (packElements 16 ((List.range 2).map (fun j => g (element a 16 j) (element b 16 j) (element c 16 j))))

/-- A rounded result on each element of a 16-bit format. -/
def packed (fm : Fmt) (g : Bool → Val → Val → Val → Val) (m : RMode) (a b c : Word) : Word :=
  each2 (fun x y z => fm.encode m false (g m.isRd (fm.decode x) (fm.decode y) (fm.decode z))) a b c

/-- Packed sum. -/
def packedAdd (fm : Fmt) (m : RMode) (a b : Word) : Word := packed fm (fun rd x y _ => Val.add rd x y) m a b 0

/-- Packed product. -/
def packedMul (fm : Fmt) (m : RMode) (a b : Word) : Word := packed fm (fun _ x y _ => Val.mul x y) m a b 0

/-- Packed fused multiply and add. -/
def packedFma (fm : Fmt) (m : RMode) (a b c : Word) : Word := packed fm Val.fma m a b c

/-- Packed extrema of BF16. -/
def packedExtremum (isMax : Bool) (a b : Word) : Word := each2 (fun x y _ => Fmt.bf16.extremum isMax x y) a b 0

/-- A dot product of packed elements of a format added to C (06 R149). -/
def dotProduct (fm : Fmt) (a b c : Word) : Word :=
  exactSum c ((List.range (32 / fm.width)).map (fun k =>
    { a := fm.decode (element a fm.width k), b := fm.decode (element b fm.width k), e := 0 })) false

/-! ## Conversions (06 R153–R157) -/

/-- The floating-point type of a type code (R153). -/
def floatType : Nat → Option Fmt
  | 8 => some .f16 | 9 => some .bf16 | 10 => some .f32 | 11 => some .f64 | 12 => some .e4m3 | 13 => some .e5m2
  | 14 => some .e2m1 | _ => none

/-- Bounds of the integer type of a code (R153). -/
def intBounds : Nat → Int × Int
  | 0 => (-128, 127) | 1 => (0, 255) | 2 => (-32768, 32767) | 3 => (0, 65535)
  | 4 => (-2147483648, 2147483647) | 5 => (0, 4294967295)
  | 6 => (-9223372036854775808, 9223372036854775807) | _ => (0, 18446744073709551615)

/-- Width in bits of a type. -/
def typeWidth : Nat → Nat
  | 0 => 8 | 1 => 8 | 2 => 16 | 3 => 16 | 4 => 32 | 5 => 32 | 6 => 64 | 7 => 64 | 8 => 16 | 9 => 16 | 10 => 32
  | 11 => 64 | 12 => 8 | 13 => 8 | 14 => 4 | _ => 8

/-- The integer an encoding of an integer type stands for. -/
def intValue (t x : Nat) : Int :=
  let w := typeWidth t
  let y := x % 2 ^ w
  if t % 2 = 0 ∧ y.testBit (w - 1) then (y : Int) - 2 ^ w else y

/-- An integer as the bits of an integer type, wrapped or clamped to it, extended to 32 or 64 bits (R153, R154). -/
def intBits (t : Nat) (sat : Bool) (x : Int) : Nat :=
  let w := typeWidth t
  let (lo, hi) := intBounds t
  let y := if sat then clampInt lo hi x else intValue t (x % (2 ^ w : Int)).toNat
  (y % (2 ^ (max 32 w) : Int)).toNat

/-- The value of an encoding of a type. -/
def typeValue (t x : Nat) : Val :=
  match floatType t with
  | some fm => fm.decode (x % 2 ^ fm.width)
  | none =>
    if t = 15 then match scaleExp (x % 256) with
      | some e => .fin false (pow2 e)
      | none => .nan
    else Val.ofInt (intValue t x)

/-- One conversion (R154): the result's bits, in 32 bits or 64. -/
def convert (tgt src : Nat) (sat : Bool) (m : RMode) (x : Nat) : Nat :=
  match floatType tgt with
  | some fm => fm.encode m sat (typeValue src x)
  | none =>
    if src < 8 then intBits tgt sat (intValue src x)
    else
      let (lo, hi) := intBounds tgt
      intBits tgt true ((typeValue src x).toIntClamp m lo hi)

/-- BSCALE: the block scale of a magnitude (R157). -/
def blockScale (tgt : Nat) (x : Word) : Word :=
  let emax : Int := if tgt = 12 then 8 else if tgt = 13 then 15 else 2
  match f32 x with
  | .nan => 0xFF
  | .inf _ => 0xFF
  | .fin _ q =>
    if q = 0 then 0x7F
    else BitVec.ofInt 32 (clampInt 0 254 (floorLog2 q.num.natAbs q.den - emax + 127))

/-! ## The instructions -/

/-- HADD2: packed sum (06 R148). -/
def execHadd2 (f : FArgs) (s : State) : Out := .next (s.lane2r .hadd2 f (packedAdd .f16))

/-- HMUL2: packed product (06 R148). -/
def execHmul2 (f : FArgs) (s : State) : Out := .next (s.lane2r .hmul2 f (packedMul .f16))

/-- HFMA2: packed multiply-add, one rounding (06 R148). -/
def execHfma2 (f : FArgs) (s : State) : Out := .next (s.lane3r .hfma2 f (packedFma .f16))

/-- BADD2: packed sum (06 R148). -/
def execBadd2 (f : FArgs) (s : State) : Out := .next (s.lane2r .badd2 f (packedAdd .bf16))

/-- BMUL2: packed product (06 R148). -/
def execBmul2 (f : FArgs) (s : State) : Out := .next (s.lane2r .bmul2 f (packedMul .bf16))

/-- BFMA2: packed multiply-add, one rounding (06 R148). -/
def execBfma2 (f : FArgs) (s : State) : Out := .next (s.lane3r .bfma2 f (packedFma .bf16))

/-- BMAX2: packed maximumNumber (06 R148). -/
def execBmax2 (f : FArgs) (s : State) : Out := .next (s.lane2 .bmax2 f (packedExtremum true))

/-- BMIN2: packed minimumNumber (06 R148). -/
def execBmin2 (f : FArgs) (s : State) : Out := .next (s.lane2 .bmin2 f (packedExtremum false))

/-- FDP2B: two BF16 products and C, one rounding (06 R149). -/
def execFdp2b (f : FArgs) (s : State) : Out := .next (s.lane3 .fdp2b f (dotProduct .bf16))

/-- FDP4Q: four E4M3 products and C, one rounding (06 R149). -/
def execFdp4q (f : FArgs) (s : State) : Out := .next (s.lane3 .fdp4q f (dotProduct .e4m3))

/-- FDP4W: four E5M2 products and C, one rounding (06 R149). -/
def execFdp4w (f : FArgs) (s : State) : Out := .next (s.lane3 .fdp4w f (dotProduct .e5m2))

/-- CVT: one conversion (06 R154). -/
def execCvt (f : FArgs) (s : State) : Out := .next (s.lanewise .cvt f (fun w sp n i =>
  words2 (BitVec.ofNat 64 (convert (f.b.toNat / 16) (f.b.toNat % 16) f.lb (sp.mode f.rx) (f.srcA2 w sp n i).toNat))))

/-- CVTPK: n registers converted and packed (06 R155). -/
def execCvtpk (f : FArgs) (s : State) : Out := .next (s.lanewise .cvtpk f (fun w sp n i =>
  let tgt := f.b.toNat / 16
  [BitVec.ofNat 32 (packElements (typeWidth tgt) ((List.range (packCount tgt)).map (fun j =>
    convert tgt (f.b.toNat % 16) f.lb (sp.mode f.rx) (f.srcA w sp n i j).toNat)))]))

/-- CVTUPK: packed elements converted to n registers, exactly (06 R155). -/
def execCvtupk (f : FArgs) (s : State) : Out := .next (s.lanewise .cvtupk f (fun w sp n i =>
  let src := f.b.toNat % 16
  (List.range (packCount src)).map (fun j =>
    BitVec.ofNat 32 (convert (f.b.toNat / 16) src false .rne (element (f.srcA w sp n i 0) (typeWidth src) j)))))

/-- CVTSR: stochastic rounding with random bits from vD (06 R156). -/
def execCvtsr (f : FArgs) (s : State) : Out := .next (s.lanewise .cvtsr f (fun w sp n i =>
  let tgt := f.b.toNat / 16
  let r := (w.v f.d.toNat i).toNat
  if f.b.toNat % 16 = 11 then [BitVec.ofNat 32 (convert 10 11 f.lb (.sr 32 r) (f.srcA2 w sp n i).toNat)]
  else
    let k := 32 / packCount tgt
    [BitVec.ofNat 32 (packElements (typeWidth tgt) ((List.range (packCount tgt)).map (fun j =>
      convert tgt 10 f.lb (.sr k (r / 2 ^ (j * k) % 2 ^ k)) (f.srcA w sp n i j).toNat)))]))

/-- BSCALE: the block scale of A (06 R157). -/
def execBscale (f : FArgs) (s : State) : Out := .next (s.lane1 .bscale f (blockScale (f.b.toNat / 16)))

/-! ## The pair frame (02 R36–R39) -/

/-- The immediate of a half as the B operand of its operation (02 R38). -/
def halfImm (h : Half) : Word :=
  let e := Fmt.e4m3.decode h.b.toNat
  let twice := fun (fm : Fmt) => BitVec.ofNat 32 (packElements 16 [fm.encode .rne false e, fm.encode .rne false e])
  let k := h.code
  if k < 0x10 then h.b.signExtend 32
  else if k < 0x18 then toF32 .rne e
  else if k < 0x1B then twice .f16
  else twice .bf16

/-- The result of a half in a lane (02 R37, R38): what the F opcode of its name computes in RNE; C is D. -/
def halfResult (k : Nat) (a b c : Word) : Word :=
  match k with
  | 0x01 => a + b | 0x02 => a - b | 0x03 => a * b | 0x04 => a &&& b | 0x05 => a ||| b | 0x06 => a ^^^ b
  | 0x07 => shiftL a b | 0x08 => shiftR a b | 0x09 => shiftA a b | 0x0A => minS a b | 0x0B => maxS a b | 0x0C => b
  | 0x0D => a * b + c
  | 0x10 => f32Op2 Val.add .rne a b | 0x11 => f32Op2 Val.minus .rne a b | 0x12 => f32Op2 (fun _ => Val.mul) .rne a b
  | 0x13 => toF32 .rne (Val.fma false (f32 a) (f32 b) (f32 c))
  | 0x14 => f32Extremum false a b | 0x15 => f32Extremum true a b
  | 0x18 => packedAdd .f16 .rne a b | 0x19 => packedMul .f16 .rne a b | 0x1A => packedFma .f16 .rne a b c
  | 0x1B => packedAdd .bf16 .rne a b | 0x1C => packedMul .bf16 .rne a b | 0x1D => packedFma .bf16 .rne a b c
  | _ => 0

/-- A half's result in a lane of a wave. -/
def halfValue (h : Half) (w : Wave) (i : Nat) : Word :=
  halfResult h.code (w.v h.a.toNat i) (if h.isImm then halfImm h else w.v h.b.toNat i) (w.v h.d.toNat i)

/-- What a half names as its destination. -/
def halfWrites (h : Half) : List Nat := if h.isNop then [] else [h.d.toNat]

/-- Writes a half's result. -/
def halfPut (h : Half) (old : Wave) (quads : List Nat) (run : Dword) (w : Wave) : Wave :=
  if h.isNop then w else w.writeV quads run h.d.toNat (fun i => halfValue h old i)

/-- PAIR: both halves, all sources read before either writes (02 R38). -/
def execPair (h0 h1 : Half) (s : State) : Out := .next (
  s.issueWith { vr := h0.reads ++ h1.reads, vw := halfWrites h0 ++ halfWrites h1 } (fun w sp s =>
    (s.onIssuer (fun x =>
      halfPut h1 w (quadsOf sp.lanes) (w.liveOf sp) (halfPut h0 w (quadsOf sp.lanes) (w.liveOf sp) x))).advance))

end Sys2Proof.Machine
end

