-- ==== Sys2Proof/Machine/Atomic.lean ====
section
/-! DEFINITION. What an atomic operation leaves (09 R211, 08 R182; 03 R78), and its OPC in an ATOMIC message (19 R412). -/

namespace Sys2Proof.Machine

/-- The integer operations of an atomic on n bits. -/
def atomInt {n : Nat} (o : AtomOp) (old b new : BitVec n) : BitVec n :=
  match o with
  | .add => old + b
  | .min => if old.slt b then old else b
  | .max => if old.slt b then b else old
  | .minn => if old < b then old else b
  | .maxn => if old < b then b else old
  | .and => old &&& b
  | .or => old ||| b
  | .xor => old ^^^ b
  | .xchg => b
  | .cas => if old = b then new else old
  | .fadd | .fadd2b => old

/-- The new value of an atomic on 32 bits: `b` is the operand, or the compare value of ACAS whose new value is `new`. -/
def atomNew32 (o : AtomOp) (old b new : Word) : Word :=
  match o with
  | .fadd => f32Op2 Val.add .rne old b
  | .fadd2b => packedAdd .bf16 .rne old b
  | _ => atomInt o old b new

/-- The new value of an atomic on 64 bits. -/
def atomNew64 (o : AtomOp) (old b new : Dword) : Dword :=
  match o with
  | .fadd => f64Op2 Val.add .rne old b
  | _ => atomInt o old b new

/-- The operands of an atomic in `data`, the operand or compare value lowest, and what it leaves of `old`, both little-endian
numbers. -/
def atomNew (o : AtomOp) (wide : Bool) (old data : Nat) : Nat :=
  if wide then (atomNew64 o (BitVec.ofNat 64 old) (BitVec.ofNat 64 data) (BitVec.ofNat 64 (data / 2 ^ 64))).toNat
  else (atomNew32 o (BitVec.ofNat 32 old) (BitVec.ofNat 32 data) (BitVec.ofNat 32 (data / 2 ^ 32))).toNat

/-- The place of an operation in the opcode map: its 32-bit OPC less 0x238 (09 R211). -/
def atomIndex : AtomOp → Nat
  | .add => 0 | .min => 1 | .max => 2 | .minn => 3 | .maxn => 4 | .and => 5 | .or => 6 | .xor => 7 | .xchg => 8 | .cas => 9
  | .fadd => 10 | .fadd2b => 11

/-- The OPC of an operation (09 R211). -/
def atomOpc (o : AtomOp) (wide : Bool) : Nat := (if wide then 0x248 else 0x238) + atomIndex o

/-- The operation of the low byte of an OPC, and whether it is the 64-bit one. -/
def atomOfByte (b : Nat) : Option (AtomOp × Bool) :=
  let all : List AtomOp := [.add, .min, .max, .minn, .maxn, .and, .or, .xor, .xchg, .cas, .fadd, .fadd2b]
  if 0x38 ≤ b ∧ b ≤ 0x43 then all[b - 0x38]?.map (fun o => (o, false))
  else if 0x48 ≤ b ∧ b ≤ 0x52 then all[b - 0x48]?.map (fun o => (o, true))
  else none

end Sys2Proof.Machine
end

