-- ==== Sys2Proof/Machine/Control.lean ====
section
/-! DEFINITION. Control flow (04 R101–R112), NOP (02 R31), signatures (15 R343, R344), TRAP and BKPT (14 R317, R318). -/

namespace Sys2Proof.Machine

/-- A word offset from the issuing instruction's last word (04 R101). -/
def State.offset (s : State) (t : BitVec 24) : Dword := s.cur.caddr + t.signExtend 64 * 8

/-- An instruction that transfers control (04 R101): at the end address of the top loop entry it stops. -/
def State.transfer (s : State) (act : Wave → Split → State) : State :=
  match s.issuing with
  | none => s
  | some (w, sp) =>
    if ((sp.loops.head?).map (fun e => decide (e.stop = s.cur.caddr))).getD false then s.stopHere .illegalOperand
    else act w sp

/-- The lowest lane of a mask; 64 for none. -/
def lowest (m : Dword) : Nat := (lanesOf m).headD 64

/-- The order of parts: by lowest lane (04 R91). -/
def Branch.before (a b : Branch) : Bool := lowest a.lanes ≤ lowest b.lanes

/-- Sends a split's groups on their ways (04 R91): one group is no divergence, with more the others become parts. `w` is
the wave as it stood, `w'` with what the instruction writes besides. -/
def State.sendGroups (s : State) (w w' : Wave) (sp : Split) (stay : Branch) (parts : List Branch)
    (open? : Option (Dword × BitVec 16)) (defer : Bool) : State :=
  if parts.isEmpty then
    s.setWave s.cur.core s.cur.wave (some (w'.setSplit s.cur.split (some { stay.next with lanes := sp.lanes })))
  else
    s.putMove w w' (.diverge stay (sortBy Branch.before parts) (open?.map (fun o => o.1)) ((open?.map (fun o => o.2)).getD 0) defer)

/-- The groups of a branch on masks (04 R103): the fall-through group stays, or else the first target's. -/
def State.branchOn (s : State) (w : Wave) (sp : Split) (targets : List (Dword × Dword)) (rejoin : Dword)
    (defer : Bool) : State :=
  let (rest, taken) := targets.foldl (fun (acc : Dword × List Branch) t =>
    let here := acc.1 &&& t.1
    (acc.1 &&& ~~~t.1, acc.2 ++ [{ lanes := here, next := sp.goto s.cur.next t.2 }])) (w.liveOf sp, [])
  let groups := ((⟨rest, sp.advance s.cur.caddr s.cur.next⟩ : Branch) :: taken).filter (fun b => decide (b.lanes ≠ 0))
  match groups with
  | [] => s.advance
  | stay :: parts => s.sendGroups w w sp stay parts (some (rejoin, sp.depth)) defer

/-- BRA: the whole split goes to the target (04 R102). -/
def execBra (c : CArgs) (s : State) : Out := .next (
  match s.cur.svc with
  | some n => s.onSvc n (fun x => { x with pc := s.offset c.t })
  | none => s.transfer (fun _ _ => s.onIssuingSplit (fun sp => sp.goto s.cur.next (s.offset c.t))))

/-- BRS: the whole split goes to the target when the condition holds on the scalar (04 R102). -/
def execBrs (c : CArgs) (s : State) : Out := .next (
  let k := c.j.toNat / 2 ^ 14
  match s.cur.svc with
  | some n =>
    if branchCond c.k.toNat ((s.svc n).s k) then s.onSvc n (fun x => { x with pc := s.offset c.t }) else s.advance
  | none => s.transfer (fun _ _ => s.issueWith { sr := [k] } (fun w _ s =>
      if branchCond c.k.toNat (w.s k) then s.onIssuingSplit (fun sp => sp.goto s.cur.next (s.offset c.t)) else s.advance)))

/-- BRC: the live lanes in the mask go to the target, the others fall through (04 R103). -/
def execBrc (c : CArgs) (s : State) : Out := .next (
  s.transfer (fun w sp =>
    s.branchOn w sp [(w.mask sp c.k.toNat, s.offset c.t)] (s.offset c.j) c.p))

/-- The targets of BRM after its own (02 R43): an MWB's mask 0 names no target. -/
def Mwb.targets (m : Mwb) : List (BitVec 3 × BitVec 24) :=
  (if m.ka = 0 then [] else [(m.ka, m.ta)]) ++ (if m.kb = 0 then [] else [(m.kb, m.tb)])

/-- BRM: each live lane goes to the first target whose mask holds it (04 R103). -/
def execBrm (c : CArgs) (mwbs : List Mwb) (s : State) : Out := .next (
  s.transfer (fun w sp =>
    let ts := (c.k, c.t) :: mwbs.flatMap Mwb.targets
    s.branchOn w sp (ts.map (fun t => (w.mask sp t.1.toNat, s.offset t.2))) (s.offset c.j) c.p))

/-- The wave with a return address written in every live lane (04 R104). -/
def Wave.writeReturn (w : Wave) (sp : Split) (d : Nat) (addr : Dword) : Wave :=
  w.writeVs (quadsOf sp.lanes) (w.liveOf sp) d 2 (fun _ => words2 addr)

/-- CALL: the return address to every live lane, depth + 1, to the target (04 R104). -/
def execCall (c : CArgs) (s : State) : Out := .next (
  let d := c.j.toNat / 2 ^ 16
  s.transfer (fun _ sp =>
    if sp.depth = 0xFFFF then s.stopHere .illegalOperand
    else s.issueWith { vw := regs d 2 } (fun _ sp s =>
      (s.onIssuer (fun w => w.writeReturn sp d s.cur.next)).onIssuingSplit (fun x =>
        { x with depth := x.depth + 1 }.goto s.cur.next (s.offset c.t)))))

/-- The groups of an indirect transfer: the lanes of each distinct address, the lowest lane's first. -/
def addressGroups (live : Dword) (target : Nat → Dword) : List (Dword × Dword) :=
  (lanesOf live).foldl (fun gs i =>
    if gs.any (fun g => decide (g.1 = target i)) then
      gs.map (fun g => if g.1 = target i then (g.1, g.2 ||| laneBit i) else g)
    else gs ++ [(target i, laneBit i)]) []

/-- CALLI: each lane to its own target, which may diverge and then opens a tag (04 R105). -/
def execCalli (c : CArgs) (s : State) : Out := .next (
  let d := c.j.toNat / 2 ^ 16
  let a := c.j.toNat / 2 ^ 8 % 256
  s.transfer (fun _ sp =>
    if sp.depth = 0xFFFF then s.stopHere .illegalOperand
    else s.issueWith { vr := regs a 2, vw := regs d 2 } (fun r sp s =>
      match s.wave s.cur.core s.cur.wave with
      | none => s
      | some w =>
        let groups := (addressGroups (w.liveOf sp) (r.v2 a)).map (fun g =>
          (⟨g.2, { sp with depth := sp.depth + 1 }.goto s.cur.next g.1⟩ : Branch))
        match groups with
        | [] => s
        | stay :: parts =>
          s.sendGroups w (w.writeReturn sp d s.cur.next) sp stay parts (some (s.cur.next, sp.depth)) c.p)))

/-- RET: each lane to its return address, depth − 1; no tag opens (04 R106). -/
def execRet (c : CArgs) (s : State) : Out := .next (
  let a := c.j.toNat / 2 ^ 8 % 256
  s.transfer (fun _ sp =>
    if sp.depth = 0 then s.stopHere .illegalOperand
    else s.issueWith { vr := regs a 2 } (fun r sp s =>
      match s.wave s.cur.core s.cur.wave with
      | none => s
      | some w =>
        let groups := (addressGroups (w.liveOf sp) (r.v2 a)).map (fun g =>
          (⟨g.2, { sp with depth := sp.depth - 1, loops := unwind (sp.depth - 1) g.1 sp.loops }.goto s.cur.next g.1⟩ : Branch))
        match groups with
        | [] => s
        | stay :: parts => s.sendGroups w w sp stay parts none c.p)))

/-- FUSE: a forced fuse point at a width of 8 or more, a miss pair's fuse point at 4 (04 R107). -/
def execFuse (c : CArgs) (s : State) : Out := .next (
  match s.issuing with
  | none => s
  | some (w, _) =>
    let e := min (2 ^ (c.j.toNat + 2)) w.width
    if 8 ≤ e then s.forced e State.advance else s.missFuse State.advance)

/-- LOOP: pushes a loop entry, or skips the body for a count of 0 (04 R109). -/
def execLoop (c : CArgs) (s : State) : Out := .next (
  let k := c.j.toNat / 2 ^ 14
  let stop := s.offset c.t
  let go := fun (n : Word) (s : State) => match s.issuing with
    | none => s
    | some (_, sp) =>
      if n = 0 then s.onIssuingSplit (fun x => x.goto s.cur.next (stop + 8))
      else if 4 ≤ sp.loops.length then s.stopHere .loopStackOverflow
      else s.onIssuingSplit (fun x =>
        let x := x.goto s.cur.next s.cur.next
        { x with loops := { start := s.cur.next, stop := stop, count := n, depth := x.depth } :: x.loops })
  s.transfer (fun _ _ =>
    if k = 0x3FF then go (BitVec.ofNat 32 (c.j.toNat % 2 ^ 14)) s
    else s.issueWith { sr := [k] } (fun w _ s => go (w.s k) s)))

/-- LOOPX: the selected lanes leave the innermost loop (04 R111). -/
def execLoopx (c : CArgs) (s : State) : Out := .next (
  s.transfer (fun w sp =>
    match sp.loops with
    | [] => s.stopHere .illegalOperand
    | e :: rest =>
      if e.depth ≠ sp.depth then s.stopHere .illegalOperand
      else
        let live := w.liveOf sp
        let sel := if c.k = 0 then live else live &&& w.mask sp c.k.toNat
        let out := { sp with loops := rest }.goto s.cur.next (e.stop + 8)
        if sel = live then s.onIssuingSplit (fun _ => { out with lanes := sp.lanes })
        else if sel = 0 then s.advance
        else s.sendGroups w w sp ⟨live &&& ~~~sel, sp.advance s.cur.caddr s.cur.next⟩ [⟨sel, out⟩]
          (some (e.stop + 8, sp.depth)) c.p))

/-- EXIT: the live lanes leave (04 R108). -/
def execExit (s : State) : Out := .next (
  match s.issuing with
  | none => s
  | some (w, sp) => s.putMove w w (.exit (w.liveOf sp)))

/-- YIELD: the split is not chosen for the next 32 issue cycles of its slot (04 R112). -/
def execYield (s : State) : Out := .next (
  (s.advance).onIssuingSplit (fun sp => { sp with yld := true, yldLeft := 32 }))

/-- NOP (02 R31). -/
def execNop (s : State) : Out := .next s.advance

/-- SIGRST: the split's signature becomes 0 (15 R344). -/
def execSigrst (s : State) : Out := .next (
  (s.onIssuingSplit (fun sp => { sp with sig := 0 })).advance)

/-- SIGCHK: compares the signature with the immediate and sets it to 0; on a difference the core's foul count rises by 2
and the wave stops after the SIGCHK (15 R344, R339). -/
def execSigchk (c : CArgs) (s : State) : Out := .next (
  match s.issuing with
  | none => s
  | some (_, sp) =>
    let imm : Word := c.t ++ c.j.extractLsb' 16 8
    let s := (s.onIssuingSplit (fun x => { x with sig := 0 })).advance
    if sp.sig = imm then s
    else ((s.stopHere .signatureMismatch).foulStep s.cur.core (· + 2)).benchDrain)

/-- TRAP: completes, then stops with SOFTWARE_TRAP and the code as its address (14 R317). -/
def execTrap (c : CArgs) (s : State) : Out := .next (
  s.advance.stopWith { cause := .softwareTrap, addr := c.j.setWidth 64 })

/-- BKPT: stops with BREAKPOINT, the PC at the BKPT (14 R318). -/
def execBkpt (s : State) : Out := .next (s.stopHere .breakpoint)

end Sys2Proof.Machine
end

