-- ==== Sys2Proof/Machine/CrossLane.lean ====
section
/-! DEFINITION. The cross-lane opcodes (07 R158–R172). -/

namespace Sys2Proof

/-- The encoded segment of a cross-lane opcode: W when LSEG is 0 (07 R163). -/
def FArgs.seg (f : FArgs) (width : Nat) : Nat := if f.lseg = 0 then width else 2 ^ f.lseg

/-- The first lane of a lane's segment (07 R163). -/
def FArgs.base (f : FArgs) (width i : Nat) : Nat := i - i % f.seg width

end Sys2Proof

namespace Sys2Proof.Machine

/-! ## Shared operations -/

/-- Issues a cross-lane opcode of minimum width `width`; `act` takes what the split sees, run, and the number of the
first draw for reads of other splits' lanes. `from_` names the lanes that a run reads A from. -/
def State.cross (s : State) (op : FOp) (f : FArgs) (width : Nat) (from_ : Wave → Split → Dword → List Nat)
    (act : Wave → Split → Dword → Nat → State → State) : State :=
  s.forced width (fun s => s.issueFar { op.uses f with wide := true } op f (fun w sp => from_ w sp (w.runOf sp f.g)) (fun w sp s =>
    (act w sp (w.runOf sp f.g) s.free { s with free := s.free + 512 }).advance))

/-- The minimum width of an opcode of the map entry "seg": LSEG 0 stands for W, 64 being no less (02 R48). -/
def segWidth (f : FArgs) : Nat := if f.lseg = 0 then 64 else 2 ^ f.lseg

/-- Register v[A] of source lane j as a split reads it (07 R159, R160). -/
def laneA (f : FArgs) (w : Wave) (sp : Split) (n i j : Nat) : Word := w.fetch sp (n + i) f.a.toNat i j

/-- Writes D in the lanes of run (06 R137). -/
def State.putD (s : State) (sp : Split) (run : Dword) (f : FArgs) (x : Nat → Word) : State :=
  s.onIssuer (fun w => w.writeV (quadsOf sp.lanes) run f.d.toNat x)

/-- A cross-lane opcode whose lane i receives v[A] of one source lane. -/
def State.gatherLane (s : State) (op : FOp) (f : FArgs) (width : Nat) (source : Wave → Nat → Nat) : State :=
  s.cross op f width (fun w _ run => (lanesOf run).map (source w))
    (fun w sp run n s => s.putD sp run f (fun i => laneA f w sp n i (source w i)))

/-- Cset of 07 R163: run, less helper lanes, ANDed with the member mask. -/
def Wave.contributors (w : Wave) (sp : Split) (f : FArgs) (run : Dword) : Dword :=
  run &&& sp.guard (f.dist % 8) &&& ~~~w.helper

/-- The contributors of a lane's segment, in ascending order. -/
def inSegment (f : FArgs) (width : Nat) (cset : Dword) (i : Nat) : List Nat :=
  (lanesOf cset).filter (fun j => decide (f.base width j = f.base width i))

/-! ## SHFL and SHFLV (07 R164–R166) -/

/-- The source lane of SHFL (07 R164). -/
def shflLane (f : FArgs) (width i : Nat) (b : Nat) : Nat :=
  let seg := f.seg width
  let base := f.base width i
  match f.dist / 8 % 4 with
  | 0 => base + b % seg
  | 1 => if base + b ≤ i then i - b else i
  | 2 => if i + b < base + seg then i + b else i
  | _ => base + Nat.xor (i - base) (b % seg)

/-- Whether the status bit is set for a source lane (07 R166). -/
def shflStatus (w : Wave) (sp : Split) (j : Nat) : Bool :=
  decide (w.width ≤ j) || w.exited.getLsbD j || !sp.lanes.getLsbD j

/-- Writes the status mask, when the status field names one (07 R166). -/
def State.putStatus (s : State) (f : FArgs) (m : Dword) : State :=
  s.onIssuingSplit (fun x => x.setMask (f.dist % 8) m)

/-- SHFL (07 R164, R166). -/
def execShfl (f : FArgs) (s : State) : Out := .next (
  s.cross .shfl f (segWidth f) (fun w _ run => (lanesOf run).map (fun i => shflLane f w.width i (f.srcB w i).toNat)) (fun w sp run n s =>
    let j := fun i => shflLane f w.width i (f.srcB w i).toNat
    (s.putD sp run f (fun i => laneA f w sp n i (j i))).putStatus f
      (maskWhere (fun i => run.getLsbD i && shflStatus w sp (j i)))))

/-- Entry v of the remap table: the physical lane it names, when it is valid (07 R165). -/
def Wave.remapped (w : Wave) (v : Nat) : Option Nat :=
  if w.width ≤ v ∨ Table.get falseAt w.remapInvalid v then none else some (Table.get (fun k => k) w.remap v)

/-- SHFLV: through the remap table; an invalid entry gives 0 (07 R165, R166). -/
def execShflv (f : FArgs) (s : State) : Out := .next (
  s.cross .shflv f 64 (fun w _ run => (lanesOf run).filterMap (fun i => w.remapped ((f.srcB w i).toNat % 64))) (fun w sp run n s =>
    let j := fun i => w.remapped ((f.srcB w i).toNat % 64)
    (s.putD sp run f (fun i => match j i with
      | some k => laneA f w sp n i k
      | none => 0)).putStatus f
      (maskWhere (fun i => run.getLsbD i && ((j i).map (shflStatus w sp)).getD true))))

/-! ## Quad operations and derivatives (07 R167, R168) -/

/-- QSWAP: lane i XOR the pattern (07 R167). -/
def execQswap (f : FArgs) (s : State) : Out := .next (
  s.gatherLane .qswap f 4 (fun _ i => Nat.xor i f.b.toNat))

/-- QBCAST: one lane of the quad (07 R167). -/
def execQbcast (f : FArgs) (s : State) : Out := .next (
  s.gatherLane .qbcast f 4 (fun _ i => i - i % 4 + f.b.toNat))

/-- A derivative: the difference of two lanes of the quad, rounded once (07 R168). -/
def State.derivative (s : State) (op : FOp) (f : FArgs) (hi lo : Nat → Nat) : State :=
  s.cross op f 4 (fun _ _ run => (lanesOf run).flatMap (fun i => [i - i % 4 + hi i, i - i % 4 + lo i])) (fun w sp run n s => s.putD sp run f (fun i =>
    let m := sp.mode f.rx
    let q := i - i % 4
    let a := f32 (w.fetch sp (n + 2 * i) f.a.toNat i (q + hi i))
    let b := f32 (w.fetch sp (n + 2 * i + 1) f.a.toNat i (q + lo i))
    toF32 m (Val.add m.isRd a b.negate)))

/-- DDX (07 R168). -/
def execDdx (f : FArgs) (s : State) : Out := .next (
  let y := fun (i : Nat) => if f.b.toNat % 2 = 1 then 0 else i % 4 / 2
  s.derivative .ddx f (fun i => 2 * y i + 1) (fun i => 2 * y i))

/-- DDY (07 R168). -/
def execDdy (f : FArgs) (s : State) : Out := .next (
  let x := fun (i : Nat) => if f.b.toNat % 2 = 1 then 0 else i % 2
  s.derivative .ddy f (fun i => 2 + x i) (fun i => x i))

/-! ## VOTE, SCAN, RED and MATCH (07 R169–R171) -/

/-- VOTE (07 R169). -/
def execVote (f : FArgs) (s : State) : Out := .next (
  s.cross .vote f (segWidth f) (fun w sp run => lanesOf (w.contributors sp f run)) (fun w sp run _ s =>
    let cset := w.contributors sp f run
    let p := fun (j : Nat) => w.v f.a.toNat j ≠ 0
    let bit := fun (i : Nat) =>
      let xs := inSegment f w.width cset i
      match f.cond with
      | 0 => xs.any (fun j => decide (p j))
      | 1 => xs.all (fun j => decide (p j))
      | 2 => xs.all (fun j => decide (p j)) || xs.all (fun j => !decide (p j))
      | _ => cset.getLsbD i && decide (p i)
    s.onIssuingSplit (fun x => x.setMask (f.d.toNat % 8) (maskWhere (fun i => run.getLsbD i && bit i)))))

/-- The integer combinations of SCAN and RED (07 R170): identity and operation of an op and a type. -/
def scanOp (op ty : Nat) : Word × (Word → Word → Word) :=
  match op, ty with
  | 1, 0 => (0x7FFFFFFF, minS)
  | 1, _ => (0xFFFFFFFF, minU)
  | 2, 0 => (0x80000000, maxS)
  | 2, _ => (0, maxU)
  | 3, _ => (0xFFFFFFFF, (· &&& ·))
  | 4, _ => (0, (· ||| ·))
  | 5, _ => (0, (· ^^^ ·))
  | _, _ => (0, (· + ·))

/-- The combination of some values in order (07 R170): the identity for none; for f32 add an exact sum rounded once, and
for f32 minimum and maximum those of 03 R72, where a lone NaN gives the canonical NaN (03 R69; log 19). -/
def combine (op ty : Nat) (xs : List Word) : Word :=
  if ty = 2 then
    if op = 0 then exactSum 0x80000000 (xs.map (fun x => ⟨f32 x, .fin false 1, 0⟩)) false
    else match xs with
      | [] => if op = 1 then 0x7F800000 else 0xFF800000
      | x :: _ => BitVec.ofNat 32 (xs.foldl (fun a b => Fmt.f32.extremum (decide (op = 2)) a b.toNat) x.toNat)
  else xs.foldl (scanOp op ty).2 (scanOp op ty).1

/-- SCAN: a prefix combination, in the contributors only (07 R170). -/
def execScan (f : FArgs) (s : State) : Out := .next (
  s.cross .scan f (segWidth f) (fun w sp run => lanesOf (w.contributors sp f run)) (fun w sp run _ s =>
    let cset := w.contributors sp f run
    let excl := decide (8 ≤ f.dist)
    s.putD sp cset f (fun i =>
      let xs := (inSegment f w.width cset i).filter (fun j => if excl then decide (j < i) else decide (j ≤ i))
      combine (f.b.toNat / 16) (f.b.toNat % 16) (xs.map (w.v f.a.toNat)))))

/-- RED: the combination of a segment, in every lane of run (07 R170). -/
def execRed (f : FArgs) (s : State) : Out := .next (
  s.cross .red f (segWidth f) (fun w sp run => lanesOf (w.contributors sp f run)) (fun w sp run _ s =>
    let cset := w.contributors sp f run
    s.putD sp run f (fun i =>
      combine (f.b.toNat / 16) (f.b.toNat % 16) ((inSegment f w.width cset i).map (w.v f.a.toNat)))))

/-- MATCH: the contributors whose value equals the lane's own (07 R171). -/
def execLaneMatch (f : FArgs) (s : State) : Out := .next (
  s.cross .laneMatch f (segWidth f) (fun w sp run => lanesOf (w.contributors sp f run ||| run)) (fun w sp run _ s =>
    let cset := w.contributors sp f run
    let wide := decide (f.b.toNat % 2 = 1)
    let key := fun (j : Nat) => if wide then w.v2 f.a.toNat j else (w.v f.a.toNat j).setWidth 64
    s.onIssuer (fun x => x.writeVs (quadsOf sp.lanes) run f.d.toNat 2 (fun i =>
      words2 (((inSegment f w.width cset i).filter (fun j => decide (key j = key i))).foldl
        (fun m j => m ||| laneBit j) 0)))))

/-! ## RDLANE and WRLANE (07 R172) -/

/-- The index of an opcode with a literal index, checked against the segment (07 R172; check 7 of 02 R28). -/
def State.indexed (s : State) (f : FArgs) (act : State) : State :=
  match s.issuing with
  | none => s
  | some (w, _) => if f.seg w.width ≤ f.dist then s.stopHere .illegalOperand else act

/-- RDLANE: one lane of each segment to every lane of run (07 R172). -/
def execRdlane (f : FArgs) (s : State) : Out := .next (
  let idx := fun (w : Wave) => if f.bs then (f.srcB w 0).toNat % 64 % f.seg w.width else f.dist
  let t := s.cross .rdlane f (segWidth f) (fun w _ run => (lanesOf run).map (fun i => f.base w.width i + idx w))
    (fun w sp run n s => s.putD sp run f (fun i => laneA f w sp n i (f.base w.width i + idx w)))
  if f.bs then t else s.indexed f t)

/-- WRLANE: a scalar to one lane of each segment (07 R172). -/
def execWrlane (f : FArgs) (s : State) : Out := .next (
  s.indexed f (s.cross .wrlane f (segWidth f) (fun _ _ _ => []) (fun w sp run _ s =>
    s.putD sp (maskWhere (fun i => run.getLsbD i && decide (i = f.base w.width i + f.dist))) f
      (fun _ => f.srcB w 0))))

end Sys2Proof.Machine
end

