-- ==== Sys2Proof/Machine/Texture.lean ====
section
/-! DEFINITION. Textures and images (17 R389–R391) and the bitmap and depth tests (17 R387) as functions of their operands: which
words of memory are read, with which weights, and what the results are. -/

namespace Sys2Proof.Machine

/-! ## Descriptors (17 R389) -/

/-- Bytes of a texel of a format. -/
def texelSize (fmt : Nat) : Nat := match fmt with | 0 => 4 | 1 => 8 | 2 => 4 | _ => 16

/-- A texture descriptor. -/
structure Descriptor where
  base : Nat
  width : Nat
  height : Nat
  levels : Nat
  fmt : Nat
  flags : Nat
  pitch : Nat
  stride : Nat
  bias : Val
  deriving DecidableEq, Repr

/-- The fields of a descriptor's twelve words. -/
def descriptorOf (d : List Word) : Descriptor :=
  let w := fun k => d.getD k 0
  { base := (pairOf (w 0) (w 1)).toNat, width := field (w 2) 15 0, height := field (w 2) 31 16,
    levels := field (w 3) 7 0, fmt := field (w 3) 15 8, flags := field (w 3) 23 16, pitch := (w 4).toNat,
    stride := (pairOf (w 6) (w 7)).toNat, bias := f32 (w 8) }

/-- Whether a descriptor is well formed. -/
def descriptorOk (d : List Word) : Bool :=
  let w := fun k => d.getD k 0
  let t := descriptorOf d
  t.base % 16 = 0 && 1 ≤ t.width && t.width ≤ 16384 && 1 ≤ t.height && t.height ≤ 16384 && 1 ≤ t.levels && t.levels ≤ 15 &&
    t.fmt ≤ 3 && field (w 3) 31 24 = 0 && t.flags / 8 % 2 = 0 && t.flags / 16 % 4 < 2 && t.flags / 64 < 2 &&
    t.pitch % 16 = 0 && t.width * texelSize t.fmt ≤ t.pitch && w 5 = 0 && t.stride % 16 = 0 &&
    t.pitch * t.height ≤ t.stride && !t.bias.isNaN && !t.bias.isInf && w 9 = 0 && w 10 = 0 && w 11 = 0

/-- Width of a level. -/
def Descriptor.w (t : Descriptor) (l : Nat) : Nat := max 1 (t.width / 2 ^ l)

/-- Height of a level. -/
def Descriptor.h (t : Descriptor) (l : Nat) : Nat := max 1 (t.height / 2 ^ l)

/-- The address of a texel. -/
def Descriptor.addr (t : Descriptor) (x y l : Nat) : Dword :=
  BitVec.ofNat 64 (t.base + l * t.stride + y * t.pitch + x * texelSize t.fmt)

/-- The address of the texel at integer coordinates, when they are in range. -/
def Descriptor.texel (t : Descriptor) (c : List Word) : Option Dword :=
  let x := (c.getD 0 0).toNat
  let y := (c.getD 1 0).toNat
  let l := (c.getD 2 0).toNat
  if l < t.levels ∧ x < t.w l ∧ y < t.h l then some (t.addr x y l) else none

/-! ## Levels and filters (17 R390) -/

/-- Compares a^n with 2^e × b^n. -/
def comparePow (a b n : Nat) (e : Int) : Ordering :=
  if 0 ≤ e then compare (a ^ n) (2 ^ e.toNat * b ^ n) else compare (a ^ n * 2 ^ (-e).toNat) (b ^ n)

/-- Whether 128 log2 q + 256 bias rounds, RNE, to k or more, for k ≥ 1. -/
def lodAtLeast (q bias : Rat) (k : Nat) : Bool :=
  let e : Int := (2 * k - 1) * bias.den - 512 * bias.num
  match comparePow q.num.toNat q.den (256 * bias.den) e with
  | .gt => true
  | .eq => decide (k % 2 = 0)
  | .lt => false

/-- 256 L: the level of detail in steps of 1/256, clamped to [0, 256 (levels − 1)]. -/
def lodSteps (q bias : Rat) (levels : Nat) : Nat :=
  if q ≤ 0 then 0
  else
    let top := 256 * (levels - 1)
    (List.range 12).foldl (fun k b =>
      let c := k + 2 ^ (11 - b)
      if c ≤ top ∧ lodAtLeast q bias c then c else k) 0

/-- A coordinate brought into [0, n): wrap or clamp. -/
def addressMode (mode : Nat) (n : Nat) (x : Int) : Nat :=
  if mode = 0 then (x % (n : Int)).toNat else (clampInt 0 ((n : Int) - 1) x).toNat

/-- The texel coordinates along an axis, with their weights. -/
def axisTaps (linear : Bool) (mode n : Nat) (u : Rat) : List (Nat × Rat) :=
  if linear then
    let s := roundInt .rne (256 * (u * n - 1 / 2))
    let f : Rat := ((s % 256 : Int) : Rat) / 256
    [(addressMode mode n (s / 256), 1 - f), (addressMode mode n (s / 256 + 1), f)]
  else [(addressMode mode n (u * n).floor, 1)]

/-- The texels of a level, with their weights. -/
def Descriptor.levelTaps (t : Descriptor) (linear : Bool) (u v : Rat) (l : Nat) (weight : Rat) : List (Dword × Rat) :=
  (axisTaps linear (t.flags / 64 % 4) (t.h l) v).flatMap (fun y =>
    (axisTaps linear (t.flags / 16 % 4) (t.w l) u).map (fun x => (t.addr x.1 y.1 l, weight * x.2 * y.2)))

/-- The real number of a finite FP32 word. -/
def finite? (x : Word) : Option Rat := if (f32 x).isNaN || (f32 x).isInf then none else some (f32 x).real

/-- The texels a sample takes, with their weights; none where a coordinate or gradient is not finite, for which R390 states no
result (log 27). The coordinates are u, v, du/dx, dv/dx, du/dy, dv/dy. -/
def Descriptor.taps (t : Descriptor) (c : List Word) : Option (List (Dword × Rat)) :=
  match (c.mapM finite?) with
  | some [u, v, ux, vx, uy, vy] =>
    let sq := fun (x : Rat) => x * x
    let rx := sq (t.width * ux) + sq (t.height * vx)
    let ry := sq (t.width * uy) + sq (t.height * vy)
    let n := lodSteps (if rx < ry then ry else rx) t.bias.real t.levels
    let linear := if n = 0 then decide (t.flags % 2 = 1) else decide (t.flags / 2 % 2 = 1)
    if t.flags / 4 % 2 = 1 then
      let f : Rat := ((n % 256 : Nat) : Rat) / 256
      let l := n / 256
      some (t.levelTaps linear u v l (1 - f) ++ (if l + 1 < t.levels then t.levelTaps linear u v (l + 1) f else []))
    else some (t.levelTaps linear u v ((n + 128) / 256) 1)
  | _ => none

/-! ## Texels (17 R390, R391, R386) -/

/-- A number as little-endian bytes give it. -/
def bytesNat (l : List Byte) : Nat := leNat l

/-- The four channels of a texel, exactly in FP32. -/
def channels (fmt : Nat) (b : List Byte) : List Word :=
  match fmt with
  | 0 => (List.range 4).map (fun k => toF32 .rne (.fin false (((bytesNat ((b.drop k).take 1) : Nat) : Rat) / 255)))
  | 1 => (List.range 4).map (fun k => toF32 .rne (Fmt.f16.decode (bytesNat ((b.drop (2 * k)).take 2))))
  | 2 => [BitVec.ofNat 32 (bytesNat (b.take 4)), 0, 0, 0x3F800000]
  | _ => (List.range 4).map (fun k => BitVec.ofNat 32 (bytesNat ((b.drop (4 * k)).take 4)))

/-- A channel as an unorm byte: clamped to [0, 1], then RNE of 255 times it; NaN gives 0. -/
def unormByte (x : Val) : Nat :=
  match x with
  | .nan => 0
  | .inf neg => if neg then 0 else 255
  | .fin _ r => (clampInt 0 255 (roundInt .rne (255 * (if r < 0 then 0 else if 1 < r then 1 else r)))).toNat

/-- A colour in a texel format (17 R386, R391): `exact` gives the words of the FP32 formats. -/
def texelBytes (fmt : Nat) (c : List Val) (exact_ : List Word) : List Byte :=
  match fmt with
  | 0 => c.map (fun x => BitVec.ofNat 8 (unormByte x))
  | 1 => c.flatMap (fun x => leBytes 2 (Fmt.f16.encode .rne false x))
  | 2 => leBytes 4 (exact_.getD 0 0).toNat
  | _ => exact_.flatMap (fun x => leBytes 4 x.toNat)

/-- The weighted sum of a channel over texels, rounded once; a NaN gives the canonical NaN. -/
def blend (terms : List (Word × Rat)) : Word :=
  toF32 .rne ((terms.map (fun x => Val.mul (f32 x.1) (.fin false x.2))).foldl (Val.add false) (.fin false 0))

/-! ## What an operation of a lane reads -/

/-- The blocks of the hierarchical depth that a rectangle overlaps, as their addresses (17 R387). -/
def hzBlocks (desc coords : List Word) : List Dword :=
  let base := pairOf (desc.getD 0 0) (desc.getD 1 0)
  let row := (desc.getD 2 0).toNat
  let p0 := coords.getD 0 0
  let p1 := coords.getD 1 0
  let (x0, y0) := (field p0 15 0, field p0 31 16)
  let (x1, y1) := (field p1 15 0, field p1 31 16)
  if x1 < x0 ∨ y1 < y0 then []
  else (List.range (y1 / 8 - y0 / 8 + 1)).flatMap (fun j =>
    ((List.range (x1 / 8 - x0 / 8 + 1)).filter (fun i => decide (x0 / 8 + i < row))).map (fun i =>
      base + BitVec.ofNat 64 (4 * ((y0 / 8 + j) * row + x0 / 8 + i))))

/-- The addresses and sizes of what a lane reads: of SAMPLE, SAMPLEG and TLD the texels, of VISQ a byte, of HZQ the blocks' words. -/
def texelReads (op : FOp) (desc coords : List Word) : List (Dword × Nat) :=
  let t := descriptorOf desc
  match op with
  | .visq => [(pairOf (desc.getD 0 0) (desc.getD 1 0) + BitVec.ofNat 64 (field (coords.getD 0 0) 19 0 / 8), 1)]
  | .hzq => if (f32 (coords.getD 2 0)).isNaN then [] else (hzBlocks desc coords).map (fun a => (a, 4))
  | .tld => (t.texel coords).toList.map (fun a => (a, texelSize t.fmt))
  | _ => ((t.taps coords).getD []).map (fun x => (x.1, texelSize t.fmt))

/-- The single-copy atomic parts of what a lane reads (10 R216): offset, length and address, 16 bytes of offset to a read. -/
def texelParts (op : FOp) (desc coords : List Word) : List (Nat × Nat × Dword) :=
  ((texelReads op desc coords).zipIdx).flatMap (fun x =>
    if x.1.2 = 16 then [(16 * x.2, 8, x.1.1), (16 * x.2 + 8, 8, x.1.1 + 8)] else [(16 * x.2, x.1.2, x.1.1)])

/-- The result words of a lane, of the bytes of each read; none where the spec states none. -/
def texelResult (op : FOp) (desc coords : List Word) (got : Nat → List Byte) : Option (List Word) :=
  let t := descriptorOf desc
  match op with
  | .visq => some [boolWord ((BitVec.ofNat 8 (bytesNat ((got 0).take 1)) : Byte).getLsbD (field (coords.getD 0 0) 2 0))]
  | .hzq =>
    let z := f32 (coords.getD 2 0)
    let n := (texelReads .hzq desc coords).length
    let near := fun k => match z, Fmt.f32.decode (bytesNat ((got k).take 4)) with
      | .nan, _ => true
      | _, .nan => false
      | a, b => !Val.below b a || decide (a.isZero = true ∧ b.isZero = true)
    some [boolWord (z.isNaN || (List.range n).any near)]
  | .tld => match t.texel coords with
    | some _ => some (channels t.fmt ((got 0).take (texelSize t.fmt)))
    | none => some [0, 0, 0, 0]
  | _ => (t.taps coords).map (fun taps =>
      let texels := taps.zipIdx.map (fun x => (channels t.fmt ((got x.2).take (texelSize t.fmt)), x.1.2))
      (List.range 4).map (fun k => blend (texels.map (fun x => (x.1.getD k 0, x.2)))))

end Sys2Proof.Machine
end

