-- ==== Sys2Proof/Machine/Memory.lean ====
section
/-! DEFINITION. The issue of memory operations: addresses (08 R174, R180; 09 R206, R209–R212), their checks (09 R199), data
breakpoints (14 R316), miss splits (04 R100), fences (10 R226, R228), PREF (09 R212). The operations are performed by the
events of Access.lean. -/

namespace Sys2Proof.Machine

/-! ## What an operation is -/

/-- Whether an operation names registers and accesses of its own lanes, not of its split. -/
def MemOp.scalar (o : MemOp) : Bool := o.access = .scalarLoad || o.access = .scalarStore || o.access = .spill || o.isAsync

/-- Whether an operation reads what it accesses, or returns a status. -/
def MemOp.reads (o : MemOp) : Bool :=
  match o.kind with
  | .load | .atomic _ | .texture _ | .async _ => true
  | _ => false

/-- Whether an operation writes what it accesses, or hands something on. -/
def MemOp.writes (o : MemOp) : Bool :=
  match o.kind with
  | .store | .atomic _ | .async .spawn | .async .dqpush | .async .launch => true
  | _ => false

/-- Whether an operation is an acquire (10 R217). -/
def MemOp.acquires (o : MemOp) : Bool := o.reads && o.ord.getLsbD 0

/-- Whether an operation is a release (10 R217). -/
def MemOp.releases (o : MemOp) : Bool := o.writes && o.ord.getLsbD 1

/-- What an operation asks of a page (09 R199 checks 6 and 7). -/
def MemOp.want (o : MemOp) (ms : Bool) : Want :=
  { read := o.reads, write := o.writes,
    plain := (o.kind = .load || o.kind = .store) && o.access ≠ .texture && (o.size = 4 || o.size = 8) && !o.ef && !ms }

/-- A cause with its lane and address. -/
def MemOp.info (o : MemOp) (c : StopCause) (i : Nat) (a : Dword) : FaultInfo :=
  { cause := c, kind := o.access, lane := if o.scalar then none else some i, addr := a }

/-! ## Private and scratchpad addresses -/

/-- PrivAddr of 09 R206. -/
def State.privAddr (s : State) (core wave : Nat) (w : Wave) (o l : Nat) : Dword :=
  BitVec.ofNat 64 (s.privBase core wave w + 8192 + o / 4 * 4 * w.width + l * 4 + o % 4)

/-- The high-water mark of a wave's launch (09 R206). -/
def State.highWater (s : State) (w : Wave) : Nat := ((s.launchOf w.group).map (fun l => (l.w 28).toNat)).getD 0

/-- The rounded scratchpad allotment of a group (08 R173). -/
def State.scratchSize (s : State) (g : Nat) : Nat :=
  ((s.launchOf g).map (fun l => ((l.w 11).toNat + 1023) / 1024 * 1024)).getD 0

/-- The group that a rank field names from a group: its own for 0, else a cluster rank below the cluster size (08 R174,
R186). -/
def State.rankGroup (s : State) (g rankp1 : Nat) : Option Nat :=
  if rankp1 = 0 then some g
  else if rankp1 ≤ max 1 (((s.launchOf g).map (fun l => l.csize)).getD 1) then
    ((s.clusterOf g).find? (fun x => decide (x.2.crank = rankp1 - 1))).map (fun x => x.1)
  else none

/-- A scratchpad address of a group: the group named and the offset, when `n` bytes pass the range check (08 R174). -/
def State.scratchPlace (s : State) (g : Nat) (a : Word) (n : Nat) : Option (Nat × Nat) :=
  if field a 27 21 ≠ 0 then none
  else match s.rankGroup g (field a 31 28) with
    | none => none
    | some h => if field a 20 0 + n ≤ s.scratchSize h then some (h, field a 20 0) else none

/-! ## The checks of an operation -/

/-- The bounds of an access's single-copy atomic parts (10 R216): offset and length in the lane's data. -/
def MemOp.parts (o : MemOp) : List (Nat × Nat) :=
  if o.space = .priv then
    if o.size ≤ 4 then [(0, o.size)] else (List.range (o.size / 4)).map (fun j => (4 * j, 4))
  else if o.size = 16 then [(0, 8), (8, 8)] else [(0, o.size)]

/-- The address that an operation formed for a lane. -/
def MemOp.addr (o : MemOp) (i : Nat) : Dword := Table.get (fun _ => 0) o.addrs i

/-- The virtual address and length of each part of a lane's access. -/
def State.partAddrs (s : State) (core wave : Nat) (w : Wave) (o : MemOp) (i : Nat) : List (Nat × Nat × Dword) :=
  match o.kind with
  | .texture op => texelParts op o.desc (Table.get nilAt o.coords i)
  | _ => o.parts.map (fun p => (p.1, p.2,
      if o.space = .priv then s.privAddr core wave w ((o.addr i).toNat + p.1) i else o.addr i + BitVec.ofNat 64 p.1))

/-- The breakpoints of a context that a data access of a debug wave matches (14 R315, R316). -/
def State.dataBreaks (s : State) (w : Wave) (o : MemOp) (va : Dword) (n : Nat) : List Nat :=
  if !w.debug || o.skipBp || o.space = .scratch || o.access = .texture || o.desc ≠ [] then []
  else (List.range 4).filter (fun b =>
    let base := 0x4000 + 0x40 * w.ctx + 0x10 * b
    let ctl := s.csrAt 4 (base + 8)
    let ign := field ctl 12 8
    let addr := (s.csrAt 4 base).toNat + 2 ^ 32 * field (s.csrAt 4 (base + 4)) 23 0
    let kind := field ctl 1 0
    ctl.getLsbD 31 && (kind = 3 || (kind = 1 && o.reads) || (kind = 2 && o.writes)) &&
      (List.range n).any (fun j => decide ((va.toNat + j) / 2 ^ ign = addr / 2 ^ ign)))

/-- The regions of a REPLAY launch (13 R277): input or output. -/
def Launch.regions (l : Launch) (output : Bool) : List (Nat × Nat) :=
  let n := if output then field (l.w 29) 7 4 else field (l.w 29) 3 0
  (List.range (min n 2)).map (fun k =>
    let b := (if output then 36 else 30) + 3 * k
    ((l.pair b).toNat, (l.w (b + 2)).toNat))

/-- Whether a shadow run may make an access by rules 1 to 3 of 15 R326. -/
def State.shadowAllows (s : State) (w : Wave) (va : Nat) (n : Nat) (write : Bool) : Bool :=
  let inside := fun (r : Nat × Nat) => r.1 ≤ va && va + n ≤ r.1 + r.2
  match s.launchOf w.group with
  | none => true
  | some l =>
    if write then (l.regions true).any inside
    else (l.regions false).any inside || inside ((l.pair 16).toNat, 4096) ||
      (l.segments.getD []).any (fun x => inside (x.1, x.2.1))

/-- How the translation of an address ends for an operation: as the walk made for it did, or from the TLBs (09 R200). -/
def State.opResolve (s : State) (core ctx : Nat) (o : MemOp) (va : Nat) : Walked :=
  match o.walked.find? (fun x => x.1 = va / 4096) with
  | some x => x.2
  | none => s.resolve core ctx va

/-- The checks of R199 on one lane's access, and the data breakpoints (14 R316), which a match on an access that passes check 8 meets before
check 10. -/
def State.laneCheck (s : State) (core wave : Nat) (w : Wave) (o : MemOp) (i : Nat) : Except FaultInfo (List AccUnit) :=
  let parts := s.partAddrs core wave w o i
  let each : Except FaultInfo (List AccUnit) → (Nat → Dword → Except FaultInfo (Nat × TlbEntry)) →
      Except FaultInfo (List AccUnit) := fun init one => parts.foldl (fun acc p => match acc with
      | .error e => .error e
      | .ok us => match one p.2.1 p.2.2 with
        | .error e => .error e
        | .ok (pa, e) => .ok (us ++ [{ lane := i, off := p.1, len := p.2.1, va := p.2.2.toNat, pa := pa, attr := e.attr,
                                        dev := e.dev }])) init
  let one : Nat → Dword → Except FaultInfo (Nat × TlbEntry) := fun size va =>
    match checkTo8 (s.opResolve core w.ctx o va.toNat) va size o.access (o.want o.ms) with
    | .error e => .error { e with lane := if o.scalar then none else some i }
    | .ok (pa, e) =>
      if s.dataBreaks w o va size ≠ [] then .error (o.info .breakpoint i va)
      else if check10 e pa then .ok (pa, e)
      else
        let r := s.opResolve core w.ctx o va.toNat
        .error { cause := .pageProtection, kind := o.access, lane := if o.scalar then none else some i, addr := va,
                 level := r.level, entry := r.entry }
  match o.space with
  | .scratch =>
    match s.scratchPlace w.group (loWord (o.addr i)) o.size with
    | none => .error (o.info .pageProtection i (o.addr i))
    | some (g, off) => .ok (parts.map (fun p => { lane := i, off := p.1, len := p.2.1, pa := off + p.1, grp := g }))
  | .global =>
    if let .texture _ := o.kind then each (.ok []) one
    else match one o.size (o.addr i) with
    | .error e => .error e
    | .ok (pa, e) => .ok (parts.map (fun p =>
        { lane := i, off := p.1, len := p.2.1, va := p.2.2.toNat, pa := pa + p.1, attr := e.attr, dev := e.dev }))
  | .priv =>
    let off := (o.addr i).toNat
    if 2 ^ 56 ≤ (s.privAddr core wave w off i).toNat then .error (o.info .pageProtection i (s.privAddr core wave w off i))
    else if off % o.size ≠ 0 then .error (o.info .misaligned i (s.privAddr core wave w off i))
    else if s.highWater w < off + o.size then .error (o.info .pageProtection i (s.privAddr core wave w off i))
    else each (.ok []) one

/-- The checks of every lane of an operation (09 R209, 08 R180): the units to perform, or the fault of the lowest lane that
fails. -/
def State.opCheck (s : State) (core wave : Nat) (w : Wave) (o : MemOp) : Except FaultInfo (List AccUnit) :=
  let todo := lanesOf (o.run &&& ~~~o.doneMask)
  let scan : Except FaultInfo (List AccUnit) := todo.foldl (fun acc i => match acc with
    | .error e => .error e
    | .ok us => match s.laneCheck core wave w o i with
      | .error e => .error e
      | .ok vs => .ok (us ++ vs)) (.ok [])
  match scan with
  | .error e => .error e
  | .ok us =>
    match o.space, todo.find? (fun i => (o.addr i).toNat % o.size ≠ 0) with
    | .scratch, some i => .error (o.info .misaligned i (o.addr i))
    | _, _ => .ok us

/-- The addresses whose translations an operation's checks need: those that pass checks 1 to 3 (09 R199). -/
def State.opNeeds (s : State) (core wave : Nat) (w : Wave) (o : MemOp) : List Nat :=
  if o.space = .scratch then [] else
  (lanesOf (o.run &&& ~~~o.doneMask)).flatMap (fun i =>
    let off := (o.addr i).toNat
    if o.space = .priv && (decide (off % o.size ≠ 0) || decide (s.highWater w < off + o.size)) then []
    else ((s.partAddrs core wave w o i).filter (fun p => decide (p.2.2.toNat < 2 ^ 56) && decide (p.2.2.toNat % p.2.1 = 0))).map
      (fun p => p.2.2.toNat))

/-- The addresses, one of each 4 KiB page, whose translations an operation's checks still await: no TLB holds them, and no walk for it has
ended. -/
def State.opMissing (s : State) (core wave : Nat) (w : Wave) (o : MemOp) : List Nat :=
  if !s.ctxValid w.ctx then []
  else ((s.opNeeds core wave w o).filter (fun a =>
    (s.tlbLook core w.ctx a).isNone && !o.walked.any (fun x => decide (x.1 = a / 4096)))).map (fun a => a / 4096 * 4096) |>.eraseDups

/-- Whether every translation that an operation's checks need is at hand. -/
def State.opKnown (s : State) (core wave : Nat) (w : Wave) (o : MemOp) : Bool := (s.opMissing core wave w o).isEmpty

/-- Asks for the walks that an operation awaits and that no walker has been asked for (09 R201). -/
def State.requestWalks (s : State) (core wave : Nat) (w : Wave) (o : MemOp) : State :=
  (s.opMissing core wave w o).foldl (fun s a =>
    if s.walking core wave o.id (a / 4096) then s
    else s.requestWalk { core := core, wave := wave, op := o.id, ctx := w.ctx, va := a }) s

/-- Changes an operation of a wave. -/
def Wave.onOp (w : Wave) (id : Nat) (f : MemOp → MemOp) : Wave :=
  { w with ops := w.ops.map (fun o => if o.id = id then f o else o) }

/-- An operation of a wave. -/
def Wave.op (w : Wave) (id : Nat) : Option MemOp := w.ops.find? (fun o => decide (o.id = id))

/-- Counts the matches of the breakpoints of a stop (14 R316). -/
def State.countHits (s : State) (core wave : Nat) (w : Wave) (o : MemOp) : State :=
  let hits := (lanesOf o.run).flatMap (fun i => (s.partAddrs core wave w o i).flatMap (fun p => s.dataBreaks w o p.2.2 p.2.1))
  hits.eraseDups.foldl (fun s b => s.onCsr 4 (0x4000 + 0x40 * w.ctx + 0x10 * b + 0xC) (· + 1)) s

/-- Whether an access of n bytes breaks 04 R93 or 09 R206: it writes a live wave's divergence spill area, or reaches the private offsets of a
lane of a live wave that is not one it acts for. -/
def State.trespasses (s : State) (ctx va n : Nat) (write : Bool) (mine : Nat → Nat → Nat → Bool) : Bool :=
  s.waves.any (fun e => match e.2 with
    | none => false
    | some v =>
      let base := s.privBase (e.1 / 512) (e.1 % 512) v
      let size := privSlot (s.highWater v) v.width
      decide (v.ctx = ctx) && (List.range n).any (fun j =>
        decide (base ≤ va + j) && decide (va + j < base + size) &&
          (let off := va + j - base
          if off < 8192 then write
          else decide (off < 8192 + s.highWater v * v.width) && !mine (e.1 / 512) (e.1 % 512) ((off - 8192) / 4 % v.width))))

/-- The parts of an operation, with a draw for each that trespasses: what it reads and what it writes is undefined (00 R1). -/
def State.markTrespass (s : State) (core wave : Nat) (w : Wave) (o : MemOp) (us : List AccUnit) : List AccUnit :=
  if o.space ≠ .global then us
  else us.zipIdx.map (fun x =>
    let lanes := if o.scalar then o.live else laneBit x.1.lane
    if s.trespasses w.ctx x.1.va x.1.len o.writes (fun c k l => c = core && k = wave && lanes.getLsbD l)
    then { x.1 with undef := some (s.free + 4 * x.2) } else x.1)

/-- Makes the checks of an operation: it passes, or the wave stops (09 R209). A shadow run that breaks rules 1 to 3 of 15
R326 is invalid. -/
def State.checkOp (s : State) (core wave id : Nat) : State :=
  match s.wave core wave with
  | none => s
  | some w =>
    match w.op id with
    | none => s
    | some o =>
      if o.passed || o.fault.isSome then s
      else
        let t := (s.opNeeds core wave w o).foldl (fun s a => s.tlbTouch core w.ctx a) s
        match s.opCheck core wave w o with
        | .error e =>
          let s := if e.cause = .breakpoint then t.countHits core wave w o else t
          (s.setWave core wave (some (w.onOp id (fun o => { o with fault := some e })))).takeStop core wave o.split e o.pc
        | .ok us =>
          if s.shadowOf w.group && ((o.space = .global && (!(us.all (fun u =>
              s.shadowAllows w u.va u.len o.writes)) || (o.reads && o.writes))) ||
              (o.space ≠ .scratch && us.any (fun u => (windowOf u.pa).isSome))) then t.invalidReplay w.group
          else
            let us := s.markTrespass core wave w o us
            let t := if us.any (fun u => u.undef.isSome) then { t with free := t.free + 4 * us.length } else t
            t.setWave core wave (some (w.onOp id (fun o => { o with passed := true, units := us })))

/-! ## Issue -/

/-- Issues a memory operation: it waits while 16 are outstanding (14 R303); an empty run makes no access, but binds what it names (05 R118); checks whose
translations are at hand are made at once. -/
def State.issueOp (s : State) (u : Uses) (mk : Wave → Split → MemOp) : State :=
  match s.issuing with
  | none => s
  | some (w0, _) =>
    if 16 ≤ w0.ops.length then s
    else s.issueWith u (fun w sp s =>
      let o := mk w sp
      let s := s.onIssuer (fun x => match o.dst with
        | .vec d n => (regs d n).foldl (fun x r => x.bind (quadsOf sp.lanes) r) x
        | _ => x)
      if o.run = 0 then s.advance
      else
        let s := s.pushOp o
        match s.wave s.cur.core s.cur.wave with
        | none => s
        | some x =>
          let o := (x.ops.getLast?).getD o
          if o.passed then s
          else if s.opKnown s.cur.core s.cur.wave x o then s.checkOp s.cur.core s.cur.wave o.id
          else s.requestWalks s.cur.core s.cur.wave x o)

/-- Issues an instruction that acts once it is performed, on a queue, a deque, intake or the locked lines (13 R289; 14 R301): `mk` gives its
operands, as a replay finds them (14 R304; log 72); it writes n scalars from d on. At device scope it is an acquire or a release by `ord`. -/
def State.asyncIssue (s : State) (op : AsyncOp) (u : Uses) (ord : BitVec 2) (d n : Nat) (mk : Wave → MemOp → MemOp) : State :=
  s.issueOp u (fun w sp => mk w
    { kind := .async op, space := .scratch, size := 16, run := 1, live := w.liveOf sp, scope := 5, ord := ord, dst := .scal d n,
      passed := true, units := [{}] })

/-- An operation with an address and data operands in lane 0's place. -/
def MemOp.withOperands (o : MemOp) (addr : Dword) (data : Quad) : MemOp :=
  { o with addrs := Table.set (fun _ => (0 : Dword)) [] 0 addr, data := Table.set zeroQuad [] 0 data }

/-- The data operand of lane 0, low 64 bits. -/
def MemOp.operand (o : MemOp) : Dword := (Table.get zeroQuad o.data 0).setWidth 64

/-- The vector and scalar names of an address (02 R34): one of each, or a pair of each. -/
def baseUses (a : MArgs) (n : Nat) : Uses :=
  let ar := if a.a = 0xFF then [] else regs a.a.toNat n
  { vr := ar, sr := if a.s = 0x3FF then [] else regs a.s.toNat n, vfree := if a.la then ar else [] }

/-- The 64-bit address of a lane (09 R209). -/
def wideAddr (a : MArgs) (w : Wave) (size i : Nat) : Dword :=
  (if a.a = 0xFF then 0 else w.v2 a.a.toNat i) + (if a.s = 0x3FF then 0 else w.s2 a.s.toNat) +
    a.off.signExtend 64 * BitVec.ofNat 64 size

/-- The 32-bit offset of a lane (08 R180, 09 R209). -/
def narrowAddr (a : MArgs) (w : Wave) (size i : Nat) : Word :=
  (if a.a = 0xFF then 0 else w.v a.a.toNat i) + (if a.s = 0x3FF then 0 else w.s a.s.toNat) +
    a.off.signExtend 32 * BitVec.ofNat 32 size

/-- A table of a value for each lane of a mask. -/
def laneTable {α : Type} [DecidableEq α] (d : Nat → α) (m : Dword) (f : Nat → α) : Table α :=
  (lanesOf m).foldl (fun t i => Table.set d t i (f i)) []

/-- Up to four words as 16 bytes, the first lowest. -/
def quadOfWords (l : List Word) : Quad := l.getD 3 0 ++ l.getD 2 0 ++ l.getD 1 0 ++ l.getD 0 0

/-- What a vector access of a memory instruction is, less its kind: `n` data registers from B. -/
def vecOp (a : MArgs) (space : Space) (size n : Nat) (w : Wave) (sp : Split) : MemOp :=
  let run := w.runOf sp a.g
  { space := space, size := size, run := run, live := run,
    addrs := laneTable (fun _ => (0 : Dword)) run (fun i =>
      if space = .global then wideAddr a w size i else (narrowAddr a w size i).setWidth 64),
    data := laneTable zeroQuad run (fun i => quadOfWords ((regs a.b.toNat n).map (fun r => w.v r i))),
    scope := a.scope, ord := a.ord, ef := a.ef, ms := a.ms }

/-- The bytes of a load (09 R208, 08 R179). -/
def loadBytes : LoadSize → Nat
  | .n8 | .i8 => 1 | .n16 | .i16 => 2 | .b32 => 4 | .b64 => 8 | .b128 => 16

/-- The bytes of a store. -/
def storeBytes : StoreSize → Nat
  | .b8 => 1 | .b16 => 2 | .b32 => 4 | .b64 => 8 | .b128 => 16

/-- Registers an address names: a pair for global forms, one otherwise (09 R208). -/
def Space.names (sp : Space) : Nat := if sp = .global then 2 else 1

/-- A vector load's issue. -/
def State.vecLoad (s : State) (space : Space) (kind : AccKind) (sz : LoadSize) (a : MArgs) : State :=
  let u := baseUses a space.names
  s.issueOp { u with vw := regs a.d.toNat sz.regs } (fun w sp =>
    { vecOp a space (loadBytes sz) 0 w sp with
      kind := .load, access := kind, signed := sz = .i8 || sz = .i16, dst := .vec a.d.toNat sz.regs })

/-- A vector store's issue. Helper lanes store nothing (17 R385). -/
def State.vecStore (s : State) (space : Space) (kind : AccKind) (sz : StoreSize) (a : MArgs) : State :=
  let u := baseUses a space.names
  s.issueOp { u with vr := u.vr ++ regs a.b.toNat sz.regs } (fun w sp =>
    let o := vecOp a space (storeBytes sz) sz.regs w sp
    { o with kind := .store, access := kind, run := o.run &&& ~~~w.helper })

/-- An atomic's issue: `nb` data registers and `nd` result registers. A helper lane makes no access and takes 0 (17 R385). -/
def State.atomIssue (s : State) (space : Space) (kind : AccKind) (op : AtomOp) (wide : Bool) (a : MArgs) : State :=
  let u := baseUses a space.names
  let nd := if wide then 2 else 1
  let nb := atomRegs wide (op = .cas)
  s.issueOp { u with vr := u.vr ++ regs a.b.toNat nb, vw := regs a.d.toNat nd } (fun w sp =>
    let o := vecOp a space (4 * nd) nb w sp
    { o with kind := .atomic op, access := kind, dst := .vec a.d.toNat nd, doneMask := o.run &&& w.helper })

/-! ## Miss splits (04 R100) -/

/-- Whether a core holds an access's translation in its L1 TLB and its bytes in its L1 data cache. -/
def State.hitsL1 (s : State) (core ctx : Nat) (va : Dword) (n : Nat) : Bool :=
  match (s.core core).tlb.find? (fun e => e.serves ctx va.toNat) with
  | none => false
  | some e =>
    let pa := e.pbase + (va.toNat - e.vbase)
    (List.range n).all (fun k => (s.l1Sector core ctx (pa + k)).isSome)

/-- The lanes of the quads in which some active lane's access of the youngest operation misses. -/
def State.missLanes (s : State) (core wave : Nat) (w : Wave) (o : MemOp) (sp : Split) : Dword :=
  let missing := (quadsOf sp.lanes).filter (fun q => (List.range 4).any (fun k =>
    o.run.getLsbD (4 * q + k) &&
      !((s.partAddrs core wave w o (4 * q + k)).all (fun p => s.hitsL1 core w.ctx p.2.2 p.2.1))))
  maskWhere (fun i => sp.lanes.getLsbD i && missing.contains (i / 4))

/-- An operation's part for some of its lanes. -/
def MemOp.onLanes (o : MemOp) (m : Dword) : MemOp :=
  { o with run := o.run &&& m, live := o.live &&& m
           addrs := o.addrs.filter (fun e => m.getLsbD e.1)
           units := o.units.filter (fun u => m.getLsbD u.lane) }

/-- A load with MS = 1 that has issued and its miss split: the lanes of the missing quads become a split of their own, and each part
has its own share of the load, so that the hitting quads go on (04 R100). A part of an earlier pair leaves that pair (log 69). -/
def State.missSplit (before after : State) : State :=
  match before.issuing, after.issuing with
  | some (w0, sp0), some (w, sp) =>
    match w.ops.getLast? with
    | none => after
    | some o =>
      let miss := before.missLanes before.cur.core before.cur.wave w o sp0
      match w.freeEntry with
      | none => after
      | some e =>
        if w.nextOp = w0.nextOp || o.ms = false || before.cur.aux.isSome || miss = 0 || miss = sp.lanes || sp0.rep ≠ 0
        then after
        else
          let k := before.cur.split
          let part : Split := { sp with lanes := miss, miss := some k, timer := 0 }
          let stay : Split := { sp with lanes := sp.lanes &&& ~~~miss, miss := some e }
          let hits := { o.onLanes stay.lanes with id := w.nextOp }
          let w := w.part sp.lanes
          let w : Wave := { w with ops := w.ops.dropLast ++ (if hits.run = 0 then [] else [hits]) ++ [{ o.onLanes miss with split := e }],
                                   nextOp := w.nextOp + 1 }
          (after.setWave before.cur.core before.cur.wave
            (some (((w.setSplit e (some part)).setSplit k (some stay)).fixMiss)))
  | _, _ => after

/-! ## The instructions -/

/-- LDG (09 R208, R209; 04 R100). -/
def execLdg (sz : LoadSize) (a : MArgs) (s : State) : Out := .next (
  let t := s.vecLoad .global .load sz a
  if a.ms then s.missSplit t else t)

/-- STG (09 R208, R209). -/
def execStg (sz : StoreSize) (a : MArgs) (s : State) : Out := .next (s.vecStore .global .store sz a)

/-- LDP (09 R206, R208, R209). -/
def execLdp (sz : LoadSize) (a : MArgs) (s : State) : Out := .next (
  let t := s.vecLoad .priv .load sz a
  if a.ms then s.missSplit t else t)

/-- STP (09 R206, R208, R209). -/
def execStp (sz : StoreSize) (a : MArgs) (s : State) : Out := .next (s.vecStore .priv .store sz a)

/-- LDS (08 R179, R180). -/
def execLds (sz : LoadSize) (a : MArgs) (s : State) : Out := .next (s.vecLoad .scratch .scratchpad sz a)

/-- STS (08 R179, R180). -/
def execSts (sz : StoreSize) (a : MArgs) (s : State) : Out := .next (s.vecStore .scratch .scratchpad sz a)

/-- A wave's SLD (09 R210). -/
def State.scalarLoad (s : State) (sz : ScalarSize) (a : SmArgs) : State :=
  let n := match sz with | .b32 => 1 | .b64 => 2 | .b128 => 4
  let ar := if a.a = 0x3FF then [] else regs a.a.toNat 2
  s.issueOp { sr := ar, sw := regs a.d.toNat n, sfree := if a.la then ar else [] } (fun w sp =>
    { kind := .load, access := .scalarLoad, space := .global, size := 4 * n, run := 1, live := w.liveOf sp,
      addrs := Table.set (fun _ => (0 : Dword)) [] 0
        (if a.a = 0x3FF then s.cur.iaddr + a.imm.signExtend 64 * BitVec.ofNat 64 (4 * n)
         else w.s2 a.a.toNat + a.imm.signExtend 64),
      scope := a.scope, ord := a.ord, dst := .scal a.d.toNat n })

/-- A wave's SST (09 R210). -/
def State.scalarStore (s : State) (sz : ScalarSize) (a : SmArgs) : State :=
  let n := match sz with | .b32 => 1 | _ => 2
  let ar := regs a.a.toNat 2
  let dr := regs a.d.toNat n
  s.issueOp { sr := ar ++ dr, sfree := (if a.la then ar else []) ++ (if a.lb then dr else []) } (fun w sp =>
    { kind := .store, access := .scalarStore, space := .global, size := 4 * n, run := 1, live := w.liveOf sp,
      addrs := Table.set (fun _ => (0 : Dword)) [] 0
        (w.s2 a.a.toNat + a.imm.signExtend 64),
      data := Table.set zeroQuad [] 0 (quadOfWords (dr.map w.s)), scope := a.scope, ord := a.ord })

/-- SAADD (08 R182). -/
def execSaadd (a : MArgs) (s : State) : Out := .next (s.atomIssue .scratch .scratchpad .add false a)
/-- SAMIN (08 R182). -/
def execSamin (a : MArgs) (s : State) : Out := .next (s.atomIssue .scratch .scratchpad .min false a)
/-- SAMAX (08 R182). -/
def execSamax (a : MArgs) (s : State) : Out := .next (s.atomIssue .scratch .scratchpad .max false a)
/-- SAAND (08 R182). -/
def execSaand (a : MArgs) (s : State) : Out := .next (s.atomIssue .scratch .scratchpad .and false a)
/-- SAOR (08 R182). -/
def execSaor (a : MArgs) (s : State) : Out := .next (s.atomIssue .scratch .scratchpad .or false a)
/-- SAXOR (08 R182). -/
def execSaxor (a : MArgs) (s : State) : Out := .next (s.atomIssue .scratch .scratchpad .xor false a)
/-- SAXCHG (08 R182). -/
def execSaxchg (a : MArgs) (s : State) : Out := .next (s.atomIssue .scratch .scratchpad .xchg false a)
/-- SACAS (08 R182). -/
def execSacas (a : MArgs) (s : State) : Out := .next (s.atomIssue .scratch .scratchpad .cas false a)

/-- AADD (09 R211). -/
def execAadd (wide : Bool) (a : MArgs) (s : State) : Out := .next (s.atomIssue .global .atomic .add wide a)
/-- AMIN (09 R211). -/
def execAmin (wide : Bool) (a : MArgs) (s : State) : Out := .next (s.atomIssue .global .atomic .min wide a)
/-- AMAX (09 R211). -/
def execAmax (wide : Bool) (a : MArgs) (s : State) : Out := .next (s.atomIssue .global .atomic .max wide a)
/-- AMINN (09 R211). -/
def execAminn (wide : Bool) (a : MArgs) (s : State) : Out := .next (s.atomIssue .global .atomic .minn wide a)
/-- AMAXN (09 R211). -/
def execAmaxn (wide : Bool) (a : MArgs) (s : State) : Out := .next (s.atomIssue .global .atomic .maxn wide a)
/-- AAND (09 R211). -/
def execAand (wide : Bool) (a : MArgs) (s : State) : Out := .next (s.atomIssue .global .atomic .and wide a)
/-- AOR (09 R211). -/
def execAor (wide : Bool) (a : MArgs) (s : State) : Out := .next (s.atomIssue .global .atomic .or wide a)
/-- AXOR (09 R211). -/
def execAxor (wide : Bool) (a : MArgs) (s : State) : Out := .next (s.atomIssue .global .atomic .xor wide a)
/-- AXCHG (09 R211). -/
def execAxchg (wide : Bool) (a : MArgs) (s : State) : Out := .next (s.atomIssue .global .atomic .xchg wide a)
/-- ACAS (09 R211). -/
def execAcas (wide : Bool) (a : MArgs) (s : State) : Out := .next (s.atomIssue .global .atomic .cas wide a)
/-- AFADD (09 R211). -/
def execAfadd (wide : Bool) (a : MArgs) (s : State) : Out := .next (s.atomIssue .global .atomic .fadd wide a)
/-- AFADD2B (09 R211). -/
def execAfadd2b (a : MArgs) (s : State) : Out := .next (s.atomIssue .global .atomic .fadd2b false a)

/-! ## Fences -/

/-- FENCE (10 R226): one operation whose lanes are those of run; ORD 3 is an acquire part (unit 0) and a release part
(unit 1). At wave scope every ORD acts as 0, and the split must be the wave's only live one. -/
def execFence (a : MArgs) (s : State) : Out := .next (
  let ord : BitVec 2 := if a.scope = 1 then 0 else a.ord
  (fun act => if a.scope = 1 then s.forceFuse act else act s) (fun s =>
    match s.issuing with
    | none => s
    | some (w, sp) =>
      let run := w.runOf sp a.g
      if 16 ≤ w.ops.length then s
      else if run = 0 then s.advance
      else s.pushOp { kind := .fence ord, scope := a.scope, ord := ord, run := run, live := run, passed := true,
                      units := if ord = 3 then [{ off := 0 }, { off := 1 }] else [{ off := 0 }] }))

/-- Whether the operations of a wave have been performed as far as a scope goes: loads and atomics at their homes, stores also where each core
of the scope sees them (10 R219). -/
def Wave.opsCovered (w : Wave) (core scope : Nat) : Bool :=
  w.ops.all (fun o => o.passed && o.units.all (fun u => u.covers core scope core))

/-- Whether every earlier memory operation of the issuing wave has been performed at its home. -/
def State.opsDone (s : State) : Bool :=
  match s.issuing with
  | none => false
  | some (w, _) => w.ops.all (fun o => o.units.all (fun u => u.done) && o.passed)

/-- Whether a release of the issuing wave at a scope may be performed (10 R219, R222): its earlier accesses are, as far as the scope goes,
and so are the staged stores of agents of the scope that its core sees. -/
def State.mayRelease (s : State) (scope : Nat) : Bool :=
  match s.issuing with
  | none => false
  | some (w, _) => w.opsCovered s.cur.core scope && s.releaseReady s.cur.core s.cur.wave scope none

/-- FENCE.OR (10 R228): issues once the wave's earlier accesses have been performed, and forgets the scratchpad values that
the array could still have read in their place. -/
def execFenceOr (s : State) : Out := .next (
  if s.opsDone then (s.onIssuer (fun w => { w with bhist := [] })).advance else s)

/-! ## PREF -/

/-- The sectors of the line of an address, by their first bytes. -/
def lineSectors (pa : Nat) : List Nat := (List.range 4).map (fun k => lineBase (lineOf pa) + 48 * k)

/-- PREF (09 R212): the line of each lane's address comes into L2, and into L1 unless EF is set or the page is ATTR 1; lanes that would fail
a check, or whose page is NP, DEV, ATTR 2 or reserved, do nothing. A lane whose translation finds no walker does nothing either. -/
def execPref (a : MArgs) (s : State) : Out := .next (
  s.issueWith (baseUses a 2) (fun w sp s =>
    let s := (lanesOf (w.runOf sp a.g)).foldl (fun s i =>
      let va := wideAddr a w 1 i
      if !s.mayTranslate s.cur.core w.ctx va.toNat then s
      else
        let (r, s) := s.checkFill s.cur.core w.ctx va 1 .load { read := true, plain := true }
        match r with
        | .error _ => s
        | .ok (pa, e) =>
          if placeOf pa = .memory ∧ e.np = false ∧ cacheAttr e.attr e.dev pa ≠ 2 ∧ s.poisoned pa 1 = false then
            let s := s.fillL2 (dieOf s.cur.core) w.ctx pa a.ef
            if a.ef || e.attr = 1 then s else (lineSectors pa).foldl (fun s b => s.fillL1 s.cur.core w.ctx b false) s
          else s) s
    s.advance))

end Sys2Proof.Machine
end

