-- ==== Sys2Proof/Machine/Barrier.lean ====
section
/-! DEFINITION. Named barriers: references, arrivals and waits (08 R184–R192). -/

namespace Sys2Proof.Machine

/-- A barrier of a group. -/
def State.barrier (s : State) (g k : Nat) : Option Barrier :=
  match s.group g with
  | some x => x.barriers[k]?
  | none => none

/-- Changes a barrier. -/
def State.onBarrier (s : State) (g k : Nat) (f : Barrier → Barrier) : State :=
  s.onGroup g (fun x => { x with barriers := x.barriers.modify k f })

/-- The state word of a barrier (08 R185). -/
def Barrier.word (b : Barrier) : Word :=
  BitVec.ofBool b.abandoned ++ BitVec.ofBool b.isDefault ++ BitVec.ofBool b.phase ++ 0#5 ++ b.count ++ b.expected

/-- Arrive (08 R187). -/
def Barrier.arrive (b : Barrier) : Barrier :=
  if b.abandoned then b
  else if b.expected ≤ b.count + 1 then { b with phase := !b.phase, count := 0 }
  else { b with count := b.count + 1 }

/-- The status of a wait on a token that may complete: true for abandonment, false for a flip (08 R187, R192). -/
def Barrier.waited (b : Barrier) (token : Bool) : Option Bool :=
  if b.abandoned then some true else if b.phase ≠ token then some false else none

/-- The barrier that a reference names from a group (08 R186). -/
def State.barrierRef (s : State) (g : Nat) (ref : Word) : Option (Nat × Nat) :=
  if field ref 31 16 ≠ 0 ∨ field ref 11 10 ≠ 0 then none
  else match s.rankGroup g (field ref 15 12) with
    | none => none
    | some h => if (s.barrier h (field ref 9 0)).isSome then some (h, field ref 9 0) else none

/-- The scope of a reference: group for the own group's barriers, cluster otherwise (08 R186). -/
def refScope (ref : Word) : Nat := if field ref 15 12 = 0 then 2 else 3

/-- The scalars a barrier instruction names: the reference, B when it reads one, and D. -/
def barrierUses (a : SArgs) (b : Bool) : Uses :=
  let ar := if a.a = 0x3FF then [] else [a.a.toNat]
  let br := if b then [a.b.toNat] else []
  { sr := ar ++ br, sw := [a.d.toNat], sfree := (if a.la then ar else []) ++ (if a.lb then br else []) }

/-- The reference that an instruction gives. -/
def refOf (a : SArgs) (r : Nat → Word) : Word := if a.a = 0x3FF then a.imm.setWidth 32 else r a.a.toNat

/-- Issues a barrier instruction on a legal reference: `act` takes the scalars, the barrier and its place. A reference that
R186 rejects stops the wave with nothing changed. One that arrives waits until the release at the barrier's scope may be performed
(08 R190). -/
def State.withBarrier (s : State) (a : SArgs) (b arrives : Bool)
    (act : (Nat → Word) → Nat × Nat → Barrier → Nat → State → State) : State :=
  s.whenIssuable (barrierUses a b) (fun s => match s.issuing with
    | none => s
    | some (w0, sp0) =>
      let ref := refOf a (w0.seen sp0 s.free).s
      match s.barrierRef w0.group ref with
      | none => s.stopHere .illegalOperand
      | some p =>
        match s.barrier p.1 p.2 with
        | none => s.stopHere .illegalOperand
        | some bar =>
          if arrives && !s.mayRelease (refScope ref) then s
          else s.issueWith (barrierUses a b) (fun w _ s => act w.s p bar (refScope ref) s))

/-- BARR, BWAIT and BSYNC issue only from the wave's sole live split, and a miss pair meets there (04 R99, R100; 08 R189). -/
def State.atBarrier (s : State) (act : State → State) : State :=
  match s.issuing with
  | none => s
  | some (_, sp) => if sp.state = 2 then act s else s.forceFuse act

/-- Writes the status of a completed wait to D and goes on (08 R189, R190). -/
def State.endWait (s : State) (a : SArgs) (scope : Nat) (abandoned : Bool) : State :=
  s.issueWith { sw := [a.d.toNat] } (fun _ _ s =>
    let s := ((s.onIssuingSplit (fun sp => { sp with state := 0, bar := none })).putScalars a.d.toNat [boolWord abandoned]).advance
    if abandoned then s else s.acquireAt s.cur.core scope)

/-- A split that waits on a barrier tests it again, or begins to wait on a token (08 R187, R189). -/
def State.waitOn (s : State) (a : SArgs) (x : BarWait) : State :=
  let scope := if x.cluster then 3 else 2
  if x.flipped then s.endWait a scope false
  else match s.barrier x.grp x.index with
  | none => s.endWait a scope true
  | some b => match b.waited x.token with
    | some abandoned => s.endWait a scope abandoned
    | none => s.onIssuingSplit (fun sp => { sp with state := 2, bar := some x })

/-- A wait that a split has begun, if any. -/
def State.resumeWait (s : State) (a : SArgs) (begin_ : State → State) : State :=
  match s.issuing with
  | none => s
  | some (_, sp) =>
    match sp.bar with
    | some x => s.waitOn a x
    | none => begin_ s

/-- BINIT (08 R189). -/
def execBinit (a : SArgs) (s : State) : Out := .next (
  s.whenIssuable (barrierUses a true) (fun s => match s.issuing with
    | none => s
    | some (w, sp0) =>
      let r := (w.seen sp0 s.free).s
      let n := r a.b.toNat
      if n = 0 ∨ 4095 < n.toNat ∨ field (refOf a r) 15 12 ≠ 0 then s.stopHere .illegalOperand
      else s.withBarrier a true false (fun r p bar _ s =>
        let s := if bar.abandoned then s
          else s.onBarrier p.1 p.2 (fun b =>
            { b with expected := (r a.b.toNat).extractLsb' 0 12, count := 0, isDefault := false })
        (s.putScalars a.d.toNat [boolWord bar.abandoned]).advance)))

/-- BARR: the token to D, then an arrival, once the release may be performed (08 R189, R190). -/
def execBarr (a : SArgs) (s : State) : Out := .next (
  s.atBarrier (fun s =>
    s.withBarrier a false true (fun _ p bar _ s =>
      let token : Word := (if bar.abandoned then 0x80000000 else 0) ||| boolWord bar.phase
      ((s.putScalars a.d.toNat [token]).onBarrier p.1 p.2 Barrier.arrive).advance)))

/-- BWAIT (08 R189). -/
def execBwait (a : SArgs) (s : State) : Out := .next (
  s.atBarrier (fun s => s.resumeWait a (fun s =>
    s.withBarrier a true false (fun r p _ scope s =>
      s.waitOn a { grp := p.1, index := p.2, token := (r a.b.toNat).getLsbD 0, cluster := scope = 3 }))))

/-- BSYNC: arrives, then waits on the phase before its arrival (08 R189, R190). -/
def execBsync (a : SArgs) (s : State) : Out := .next (
  s.atBarrier (fun s => s.resumeWait a (fun s =>
    s.withBarrier a false true (fun _ p bar scope s =>
      (s.onBarrier p.1 p.2 Barrier.arrive).waitOn a { grp := p.1, index := p.2, token := bar.phase, cluster := scope = 3 }))))

/-- BQUERY: the state word (08 R189). It is forbidden in a replay (15 R326 rule 3, R337). -/
def execBquery (a : SArgs) (s : State) : Out := .next (
  match s.issuing with
  | none => s
  | some (w, _) =>
    if s.shadowOf w.group then s.invalidReplay w.group
    else s.withBarrier a false false (fun _ _ bar _ s => (s.putScalars a.d.toNat [bar.word]).advance))

end Sys2Proof.Machine
end

