-- ==== Sys2Proof/Machine/Matrix.lean ====
section
/-! DEFINITION. The matrix array and accumulator storage (11 R234–R249): issue, tickets, the latch, the array's events. -/

namespace Sys2Proof.Machine

/-! ## Scratchpad and accumulator storage -/

/-- The bytes of a group's scratchpad. -/
def State.scratchBytes (s : State) (g off n : Nat) : List Byte :=
  match s.group g with
  | some x => (List.range n).map (fun k => Table.get memDefault x.scratch (off + k))
  | none => List.replicate n 0

/-- Writes bytes of a group's scratchpad; a word all four of whose bytes are written is no longer poisoned (08 R181), whoever writes it
(log 68). -/
def Group.putScratch (x : Group) (off : Nat) (bs : List Byte) : Group :=
  let put := (bs.zipIdx).foldl (fun t e => Table.set memDefault t (off + e.2) e.1) x.scratch
  let clear := (List.range (bs.length / 4 + 1)).foldl (fun t k =>
    let word := (off + 3) / 4 + k
    if word * 4 + 4 ≤ off + bs.length then Table.set falseAt t word false else t) x.scratchPoison
  { x with scratch := put, scratchPoison := clear }

/-- Whether some word of a range of scratchpad is poisoned. -/
def State.scratchBad (s : State) (g off n : Nat) : Bool :=
  match s.group g with
  | some x => (List.range ((off + n + 3) / 4 - off / 4)).any (fun k => Table.get falseAt x.scratchPoison (off / 4 + k))
  | none => false

/-- The scratchpad bytes that an engine or the array reads: those of a poisoned word are undefined (08 R181). -/
def State.engineScratch (s : State) (g off n : Nat) : List Byte :=
  if s.scratchBad g off n then
    (List.range n).map (fun k => if s.scratchBad g (off + k) 1 then (Config.freeDword (s.free + k)).extractLsb' 0 8
      else (s.scratchBytes g (off + k) 1).headD 0)
  else s.scratchBytes g off n

/-- Writes a group's scratchpad; a group that is gone drops the write (08 R177). -/
def State.putScratch (s : State) (g off : Nat) (bs : List Byte) : State := s.onGroup g (fun x => x.putScratch off bs)

/-- A write of scratchpad by an engine, the array or the driver, which breaks the windows of MMAs whose B it writes (10 R230). -/
def State.storeScratch (s : State) (g off : Nat) (bs : List Byte) : State :=
  (s.breakB g off bs.length (fun _ _ _ => true)).putScratch g off bs

/-- The accumulator allotment of a group in bytes (11 R234). -/
def State.accSize (s : State) (g : Nat) : Nat := ((s.launchOf g).map (fun l => (l.w 12).toNat * 1024)).getD 0

/-! ## Forms (11 R242) -/

/-- The element formats of A and B of a floating-point form, by OPC; none for MMA.I8. -/
def mmaFormats (kind : Nat) : Option (Fmt × Fmt) :=
  match kind with
  | 0x280 => some (.e4m3, .e4m3)
  | 0x281 => some (.e5m2, .e5m2)
  | 0x282 => some (.e4m3, .e5m2)
  | 0x283 => some (.bf16, .bf16)
  | 0x284 => some (.f16, .f16)
  | 0x285 => some (.e2m1, .e2m1)
  | 0x286 => some (.e4m3, .e4m3)
  | _ => none

/-- The width in bits of an element. -/
def mmaWidth (kind : Nat) : Nat := if kind = 0x283 ∨ kind = 0x284 then 16 else if kind = 0x285 then 4 else 8

/-- The element format of A as a number, for the latch match (11 R245). -/
def mmaAFormat (kind : Nat) : Nat :=
  match kind with
  | 0x280 | 0x282 | 0x286 => 0 | 0x281 => 1 | 0x283 => 2 | 0x284 => 3 | 0x285 => 4 | _ => 5

/-- Scale bytes per row of A and per column of B. -/
def mmaScales (kind : Nat) : Nat := if kind = 0x285 then 2 else if kind = 0x286 then 1 else 0

/-- The bytes of B with its scales (11 R244). -/
def mmaBBytes (kind n : Nat) : Nat := (32 + mmaScales kind) * n

/-- The tile of an operation in accumulator bytes (11 R235). -/
def tileLo (x : XArgs) : Nat := x.acc12.toNat * 1024

/-- The end of the tile. -/
def tileHi (x : XArgs) : Nat := tileLo x + 256 * x.n

/-! ## The range scoreboard (12 R253) -/

/-- Whether a range must wait for one that an earlier operation holds. -/
def CmdRange.waitsFor (r e : CmdRange) : Bool :=
  r.space = e.space && r.grp = e.grp && r.lo < e.hi && e.lo < r.hi &&
    (match r.kind with
      | 0 => e.kind ≠ 0
      | 1 => e.kind ≠ 1
      | _ => true)

/-- Every range held on a core, with its holder's place in the arbiter's order. -/
def Core.held (c : Core) : List (Nat × CmdRange) :=
  c.cmds.flatMap (fun x => x.ranges.map (fun r => (x.seq, r))) ++ c.array.flatMap (fun x => x.ranges.map (fun r => (x.seq, r)))

/-- Whether ranges of an operation are clear of every earlier one. -/
def Core.clear (c : Core) (seq : Nat) (rs : List CmdRange) : Bool :=
  rs.all (fun r => c.held.all (fun e => !(decide (e.1 < seq) && r.waitsFor e.2)))

/-! ## Issue -/

/-- Tickets outstanding (11 R241). -/
def Wave.tickets (w : Wave) : Nat := (w.mticket - w.mdone).toNat

/-- Whether a ticket is outstanding (11 R241). -/
def Wave.outstanding (w : Wave) (t : BitVec 8) : Bool := (w.mticket - t).toNat < w.tickets

/-- A ticketed operation of a wave completes: %mdone advances over completed tickets in order (11 R241). -/
def Wave.finishTicket : Nat → Wave → Wave
  | 0, w => w
  | n + 1, w =>
    let next := (w.mdone + 1).toNat
    if w.tickets ≠ 0 ∧ w.mdoneSet.contains next then
      Wave.finishTicket n { w with mdone := w.mdone + 1, mdoneSet := w.mdoneSet.filter (fun t => decide (t ≠ next)) }
    else w

/-- An MX instruction of minimum width 64 (11 R239): W must be 64, and the split the wave's sole live one. -/
def State.mx (s : State) (act : Wave → Split → State → State) : State :=
  match s.issuing with
  | none => s
  | some (w, _) =>
    if w.width ≠ 64 then s.stopHere .illegalOperand
    else s.forced 64 (fun s => match s.issuing with
      | none => s
      | some (w, sp) => act w sp s)

/-- Whether a copy of a CPYMMA of the issuing wave is pending (12 R263). -/
def State.copyPending (s : State) : Bool :=
  (s.core s.cur.core).cmds.any (fun c => c.mma.isSome && c.wave = some s.cur.wave)

/-- Whether the array queue takes an operation of the issuing wave now (11 R239; 12 R263). -/
def State.arrayRoom (s : State) : Bool := decide ((s.core s.cur.core).array.length < 32) && !s.copyPending

/-! ## Admission (12 R250, R253) -/

/-- The entries of a core's command queue in use: a block command takes none of its own. -/
def Core.queueUsed (c : Core) (p : Cmd → Bool) : Nat := (c.cmds.filter (fun x => x.chainOf.isNone && p x)).length

/-- Whether a waiting instruction still waits: its wave issues, and its split stands where it stood. -/
def State.stillWaits (s : State) (core : Nat) (x : Nat × Nat × Dword × Bool) : Bool :=
  match s.wave core x.1 with
  | some w => decide (w.run = .running) && ((w.split x.2.1).map (fun sp => decide (sp.pc = x.2.2.1))).getD false
  | none => false

/-- The context of a waiting instruction. -/
def State.waiterCtx (s : State) (core : Nat) (x : Nat × Nat × Dword × Bool) : Nat := ((s.wave core x.1).map (fun w => w.ctx)).getD 64

/-- Whether a waiting copy instruction must let another context's go first. -/
def State.yieldsTo (s : State) (core : Nat) (q : List (Nat × Nat × Dword × Bool)) (x : Nat × Nat × Dword × Bool) : Bool :=
  let ctx := s.waiterCtx core x
  x.2.2.2 && decide (48 ≤ (s.core core).queueUsed (fun c => decide (c.ctx = ctx))) &&
    q.any (fun y => decide (s.waiterCtx core y ≠ ctx))

/-- Admits the issuing instruction with `n` scoreboard entries, and a place of the command queue where it is a copy instruction, or has it
wait behind the older ones. -/
def State.letIn (s : State) (n : Nat) (copy : Bool) : Bool × State :=
  let core := s.cur.core
  let c := s.core core
  let me := (s.cur.wave, s.cur.split, s.cur.iaddr, copy)
  let q := c.waitq.filter (s.stillWaits core)
  let q := if q.contains me then q else q ++ [me]
  let first := q.find? (fun x => !s.yieldsTo core q x)
  if first = some me ∧ (copy = true → c.queueUsed (fun _ => true) < 64) ∧ c.held.length + n ≤ 32 then
    (true, s.onCore core (fun c => { c with waitq := q.filter (fun x => decide (x ≠ me)) }))
  else (false, s.onCore core (fun c => { c with waitq := q }))

/-- Acts once the issuing instruction is admitted. -/
def State.admitted (s : State) (n : Nat) (copy : Bool) (act : State → State) : State :=
  let (yes, s) := s.letIn n copy
  if yes then act s else s

/-- Places an operation in the array queue of a core, in the order the arbiter received it. -/
def Core.insertOp (c : Core) (o : ArrayOp) : Core :=
  { c with array := c.array.takeWhile (fun y => y.begun || decide (y.seq < o.seq)) ++ [{ o with id := c.nextArray }] ++
      c.array.dropWhile (fun y => y.begun || decide (y.seq < o.seq)), nextArray := c.nextArray + 1 }

/-- Places a new operation at the end of a core's array queue: it keeps the PC and the split of the instruction that issues. -/
def State.enqueue (s : State) (core : Nat) (o : ArrayOp) : State :=
  s.onCore core (fun c => { c.insertOp { o with pc := s.cur.iaddr, split := s.cur.split, seq := c.nextSeq } with nextSeq := c.nextSeq + 1 })

/-- The ticket that the issuing wave takes (11 R241). -/
def Wave.nextTicket (w : Wave) : Nat := (w.mticket + 1).toNat

/-- Takes a ticket. -/
def State.takeTicket (s : State) : State := s.onIssuer (fun w => { w with mticket := w.mticket + 1 })

/-- The check of a scratchpad region of the own group for the array: whole within the allotment, and aligned to `align`: 32 bytes for B and
for what ACCCVT writes (11 R244, R248), nothing of its own for A (12 R263, R272). -/
def State.arrayRegion (s : State) (g : Nat) (a : Word) (n align : Nat) : Except StopCause Nat :=
  if field a 31 28 ≠ 0 then .error .pageProtection
  else match s.scratchPlace g a n with
    | none => .error .pageProtection
    | some (_, off) => if a.toNat % align ≠ 0 then .error .misaligned else .ok off

/-- Stops at an issue check on a scratchpad address. -/
def State.stopScratch (s : State) (c : StopCause) (a : Word) : State :=
  s.stopWith { cause := c, kind := .scratchpad, addr := a.setWidth 64 }

/-- Whether a latch does not match an MMA (11 R245). -/
def Latch.differs (l : Latch) (kind : Nat) (x : XArgs) : Bool :=
  l.held && (l.a ≠ x.a || l.sc ≠ x.sc || l.fmt ≠ mmaAFormat kind)

/-- The rows of A as a wave's registers hold them: eight words a lane, exited lanes +0 (11 R243). -/
def Wave.rowsA (w : Wave) (a : Nat) : Table Word :=
  (lanesOf w.liveLanes).foldl (fun t i => (List.range 8).foldl (fun t k =>
    Table.set zeroWord t (8 * i + k) (w.v (a + k) i)) t) []

/-- The unlisted value of a table of scale registers: scales of 1.0. -/
def oneScale : Nat → Word := fun _ => 0x7F7F

/-- The scales of the rows of A; an exited lane's are 0x7F (11 R243). -/
def Wave.rowScales (w : Wave) (sc : Nat) : Table Word :=
  (lanesOf w.liveLanes).foldl (fun t i => Table.set oneScale t i (w.v sc i)) []

/-- The ranges of an MMA with B in scratchpad (12 R253). -/
def mmaRanges (g kind : Nat) (x : XArgs) (b : Nat) : List CmdRange :=
  [{ space := 1, grp := g, lo := b, hi := b + mmaBBytes kind x.n, kind := 0 },
   { space := 2, grp := g, lo := tileLo x, hi := tileHi x, kind := if x.acc then 2 else 1 }]

/-- An MMA that a wave issues (11 R246). -/
def State.mma (s : State) (kind : Nat) (x : XArgs) : State :=
  s.mx (fun w sp0 s =>
    let l := w.latch
    let scaled := decide (mmaScales kind ≠ 0)
    let ar := regs x.a.toNat 8 ++ (if scaled then [x.sc.toNat] else [])
    let latched := l.held || x.ru
    let u : Uses := { vr := if l.held then [] else ar, sr := [x.s.toNat],
                      vfree := if x.la && latched then regs x.a.toNat 8 else [] }
    s.whenIssuable u (fun s =>
    let b := (w.seen sp0 s.free).s x.s.toNat
    if s.accSize w.group < tileHi x then s.stopHere .illegalOperand
    else match s.arrayRegion w.group b (mmaBBytes kind x.n) 32 with
      | .error c => s.stopScratch c b
      | .ok off =>
        if l.differs kind x then s.stopHere .illegalOperand
        else if !s.arrayRoom || 64 ≤ w.tickets then s
        else s.admitted 2 false (fun s =>
          s.issueWith u (fun w _ s =>
            let l : Latch := if l.held then l
              else { a := x.a, sc := x.sc, fmt := mmaAFormat kind, held := true, regs := w.rowsA x.a.toNat,
                     scales := if scaled then w.rowScales x.sc.toNat else [] }
            let t := w.nextTicket
            let s := s.takeTicket.onIssuer (fun y =>
              { y with latch := if x.ru then l else {},
                       windows := y.windows ++ [{ ticket := t, a := x.a.toNat,
                                                  sc := if scaled then some x.sc.toNat else none, latched := latched,
                                                  grp := w.group, blo := off, bhi := off + mmaBBytes kind x.n,
                                                  dlo := tileLo x, dhi := tileHi x, count := w.issued }] })
            (s.enqueue s.cur.core { wave := some s.cur.wave, group := w.group, kind := kind, x := x, ticket := some t,
                                    bAddr := off, latched := latched, aRegs := if latched then l.regs else [],
                                    scRegs := if latched then l.scales else [],
                                    ranges := mmaRanges w.group kind x off }).advance))))

/-- MMA.E4M3 (11 R242, R246). -/
def execMmaE4m3 (x : XArgs) (s : State) : Out := .next (s.mma 0x280 x)
/-- MMA.E5M2 (11 R242, R246). -/
def execMmaE5m2 (x : XArgs) (s : State) : Out := .next (s.mma 0x281 x)
/-- MMA.MIX (11 R242, R246). -/
def execMmaMix (x : XArgs) (s : State) : Out := .next (s.mma 0x282 x)
/-- MMA.BF16 (11 R242, R246). -/
def execMmaBf16 (x : XArgs) (s : State) : Out := .next (s.mma 0x283 x)
/-- MMA.F16 (11 R242, R246). -/
def execMmaF16 (x : XArgs) (s : State) : Out := .next (s.mma 0x284 x)
/-- MMA.E2M1S (11 R242, R246). -/
def execMmaE2m1s (x : XArgs) (s : State) : Out := .next (s.mma 0x285 x)
/-- MMA.E4M3S (11 R242, R246). -/
def execMmaE4m3s (x : XArgs) (s : State) : Out := .next (s.mma 0x286 x)
/-- MMA.I8 (11 R242, R246). -/
def execMmaI8 (x : XArgs) (s : State) : Out := .next (s.mma 0x287 x)

/-! ## Moving, clearing, converting, awaiting (11 R247–R249) -/

/-- The element of a tile at a row and a column, as an index of 4-byte elements (11 R235). -/
def tileIndex (x : XArgs) (i n : Nat) : Nat := x.acc12.toNat * 256 + i * x.n + n

/-- ACCLD: eight columns of the tile to eight registers, once the wave's earlier ACCST and ACCZ have completed; elements of the D
region of an MMA not yet awaited are undefined (11 R247, 10 R230). -/
def execAccld (x : XArgs) (s : State) : Out := .next (
  s.mx (fun w _ s =>
    if s.accSize w.group < tileHi x then s.stopHere .illegalOperand
    else if (s.core s.cur.core).array.any (fun o => o.wave = some s.cur.wave && (o.kind = 0x289 || o.kind = 0x28A)) then s
    else
      let g := (s.group w.group).getD {}
      let c0 := 8 * x.sc.toNat
      let live := lanesOf w.liveLanes
      match live.findSome? (fun i => (List.range 8).findSome? (fun j =>
          let e := tileIndex x i (c0 + j)
          if Table.get falseAt g.accPoison e then some e else none)) with
      | some e => s.stopWith { cause := .poisonLoad, kind := .scratchpad, addr := BitVec.ofNat 64 (4 * e) }
      | none => s.issueWith { vw := regs x.a.toNat 8 } (fun w sp s =>
          let lost := fun (e : Nat) => w.windows.any (fun y => decide (y.grp = w.group) && y.dlo ≤ 4 * e && 4 * e < y.dhi)
          let n := s.free
          let s := s.onIssuer (fun y => y.writeVs (quadsOf sp.lanes) (w.liveOf sp) x.a.toNat 8 (fun i =>
            (List.range 8).map (fun j =>
              let e := tileIndex x i (c0 + j)
              if lost e then loWord (Config.freeDword (n + 8 * i + j)) else Table.get zeroWord g.acc e)))
          { s with free := n + 512 }.advance)))

/-- ACCST: eight registers into eight columns of the tile (11 R247). -/
def execAccst (x : XArgs) (s : State) : Out := .next (
  s.mx (fun w _ s =>
    if s.accSize w.group < tileHi x then s.stopHere .illegalOperand
    else if !s.arrayRoom then s
    else s.admitted 1 false (fun s =>
      let ar := regs x.a.toNat 8
      s.issueWith { vr := ar, vfree := if x.la then ar else [] } (fun w sp s =>
        (s.enqueue s.cur.core { wave := some s.cur.wave, group := w.group, kind := 0x289, x := x,
                                aRegs := w.rowsA x.a.toNat, rows := w.liveOf sp,
                                ranges := [{ space := 2, grp := w.group, lo := tileLo x, hi := tileHi x, kind := 1 }] }).advance))))

/-- ACCZ: the tile becomes +0 (11 R247). -/
def execAccz (x : XArgs) (s : State) : Out := .next (
  s.mx (fun w _ s =>
    if s.accSize w.group < tileHi x then s.stopHere .illegalOperand
    else if !s.arrayRoom || 64 ≤ w.tickets then s
    else s.admitted 1 false (fun s =>
      (s.takeTicket.enqueue s.cur.core { wave := some s.cur.wave, group := w.group, kind := 0x28A, x := x,
                                         ticket := some w.nextTicket,
                                         ranges := [{ space := 2, grp := w.group, lo := tileLo x, hi := tileHi x,
                                                      kind := 1 }] }).advance)))

/-- The target format of ACCCVT: FMT stands in TB and RU (11 R248). -/
def cvtTarget (x : XArgs) : Fmt :=
  match x.tb, x.ru with
  | false, false => .bf16
  | false, true => .e4m3
  | true, _ => .e5m2

/-- The bytes that ACCCVT writes. -/
def cvtBytes (x : XArgs) : Nat := 64 * x.n * (cvtTarget x).width / 8

/-- ACCCVT: the tile scaled and converted into scratchpad (11 R248). -/
def execAcccvt (x : XArgs) (s : State) : Out := .next (
  s.mx (fun w sp0 s => s.whenIssuable { sr := regs x.s.toNat 2 } (fun s =>
    let r := (w.seen sp0 s.free).s
    let b := r x.s.toNat
    if s.accSize w.group < tileHi x then s.stopHere .illegalOperand
    else match s.arrayRegion w.group b (cvtBytes x) 32 with
      | .error c => s.stopScratch c b
      | .ok off =>
        if !s.arrayRoom || 64 ≤ w.tickets then s
        else s.admitted 2 false (fun s => s.issueWith { sr := regs x.s.toNat 2 } (fun w _ s =>
          (s.takeTicket.enqueue s.cur.core { wave := some s.cur.wave, group := w.group, kind := 0x28B, x := x,
                                             ticket := some w.nextTicket, bAddr := off, sScale := w.s (x.s.toNat + 1),
                                             ranges := [{ space := 1, grp := w.group, lo := off, hi := off + cvtBytes x,
                                                          kind := 1 },
                                                        { space := 2, grp := w.group, lo := tileLo x, hi := tileHi x,
                                                          kind := 0 }] }).advance)))))

/-- MWAIT: issues once the ticket, or every ticket, has completed; the windows it ends close (11 R249, 10 R230). -/
def execMwait (x : XArgs) (s : State) : Out := .next (
  let t : BitVec 8 := x.acc12.extractLsb' 0 8
  let all := x.acc12.getLsbD 8
  s.mx (fun w _ s =>
    if (if all then w.tickets ≠ 0 else w.outstanding t = true) then s
    else (s.onIssuer (fun w =>
      { w with windows := w.windows.filter (fun y => !all && y.ticket ≠ t.toNat &&
          (w.outstanding (BitVec.ofNat 8 y.ticket) || decide ((t - BitVec.ofNat 8 y.ticket).toNat ≥ 128))) })).advance))

/-! ## The array (11 R239–R246) -/

/-- The A operand of an element of a row, from eight words or 32 bytes. -/
def rowElement (width : Nat) (words : List Word) (k : Nat) : Nat := element (words.getD (k * width / 32) 0) width (k % (32 / width))

/-- Element j of a packed array of bytes. -/
def packedElement (width : Nat) (bs : List Byte) (j : Nat) : Nat :=
  leNat ((bs.drop (j * width / 8)).take ((width + 7) / 8)) / 2 ^ (j * width % 8) % 2 ^ width

/-- The value of a signed or unsigned byte. -/
def byteInt (unsigned : Bool) (x : Nat) : Int := if unsigned || x < 128 then x else (x : Int) - 256

/-- The element (i, n) that an MMA writes (11 R243, R244, R246; 03 R75, R76). -/
def ArrayOp.element (o : ArrayOp) (c : Word) (i n : Nat) : Word :=
  let width := mmaWidth o.kind
  let kk := 256 / width
  let row := (List.range 8).map (fun k => Table.get zeroWord o.aRegs (8 * i + k))
  let a := fun (k : Nat) => rowElement width row k
  let b := fun (k : Nat) => packedElement width o.bBytes (if o.x.tb then k * o.x.n + n else n * kk + k)
  match mmaFormats o.kind with
  | none =>
    let s := ((List.range kk).map (fun k => byteInt (o.x.sc.getLsbD 0) (a k) * byteInt (o.x.sc.getLsbD 1) (b k))).sum
    BitVec.ofInt 32 ((if o.x.acc then c.toInt else 0) + s)
  | some (fa, fb) =>
    let blocks := mmaScales o.kind
    let sa := fun (k : Nat) => if blocks = 0 then 0x7F else (Table.get oneScale o.scRegs i).toNat / 256 ^ (k / 32) % 256
    let sb := fun (k : Nat) =>
      if blocks = 0 then 0x7F else ((o.bBytes.drop (32 * o.x.n + n * blocks + k / 32)).headD 0).toNat
    let terms := (List.range kk).map (fun k =>
      (⟨fa.decode (a k), fb.decode (b k), (scaleExp (sa k)).getD 0 + (scaleExp (sb k)).getD 0⟩ : Term))
    exactSum (if o.x.acc then c else 0x80000000) terms
      ((List.range kk).any (fun k => (scaleExp (sa k)).isNone || (scaleExp (sb k)).isNone))

/-- The bytes of scratchpad that the array reads for a wave's MMA: of each word that the wave has written since its last
FENCE.OR, any value the word has held since (10 R230). -/
def State.arrayBytes (s : State) (core : Nat) (o : ArrayOp) (off n : Nat) : List Byte :=
  let hist := match o.wave, o.ticket with
    | some k, some _ => ((s.wave core k).map (fun w => w.bhist)).getD []
    | _, _ => []
  let now := s.scratchBytes o.group off n
  if hist = [] then now
  else (List.range (n / 4)).flatMap (fun k =>
    let word := (now.drop (4 * k)).take 4
    match Table.get nilAt hist (off / 4 + k) with
    | [] => word
    | l => leBytes 4 ((BitVec.ofNat 32 (leNat word) :: l).getD (Config.freeChoice (s.free + k) % (l.length + 1)) 0).toNat)

/-- Array cycles (11 R239) of an operation, for a thermal class. -/
def ArrayOp.cycles (o : ArrayOp) (klass : Nat) : Nat :=
  if o.kind = 0x289 then 1 else o.x.n / 64 * (if klass = 0 then 4 else if klass = 1 then 2 else 1)

/-- Changes an operation of a core's array. -/
def State.onArray (s : State) (core id : Nat) (f : ArrayOp → ArrayOp) : State :=
  s.onCore core (fun c => { c with array := c.array.map (fun o => if o.id = id then f o else o) })

/-- The operation with its operands: A from registers or scratchpad where it was not at hand, and B. -/
def State.fetchOperands (s : State) (core : Nat) (o : ArrayOp) : ArrayOp :=
  if 0x288 ≤ o.kind then o
  else
    let scaled := decide (mmaScales o.kind ≠ 0)
    let o : ArrayOp :=
      if o.latched then o
      else if o.x.sa then
        let rows := s.engineScratch o.group o.aAddr 2048
        let scales := ({ s with free := s.free + 2048 } : State).engineScratch o.group (o.aAddr + 2048) 128
        { o with
          aRegs := (List.range 512).foldl (fun t k =>
            Table.set zeroWord t k (BitVec.ofNat 32 (leNat ((rows.drop (4 * k)).take 4)))) []
          scRegs := if scaled then (List.range 64).foldl (fun t i =>
            Table.set oneScale t i (BitVec.ofNat 32 (leNat ((scales.drop (2 * i)).take 2)))) [] else [] }
      else match o.wave with
        | some k => match s.wave core k with
          | some w => { o with aRegs := w.rowsA o.x.a.toNat,
                               scRegs := if scaled then w.rowScales o.x.sc.toNat else [] }
          | none => o
        | none => o
    let n := mmaBBytes o.kind o.x.n
    let kk := 256 / mmaWidth o.kind
    let bad := fun (col : Nat) => (List.range kk).any (fun k =>
      s.scratchBad o.group (o.bAddr + (if o.x.tb then k * o.x.n + col else col * kk + k) * mmaWidth o.kind / 8) 1) ||
      (List.range (mmaScales o.kind)).any (fun j => s.scratchBad o.group (o.bAddr + 32 * o.x.n + col * mmaScales o.kind + j) 1)
    { o with bBytes := s.arrayBytes core o o.bAddr n,
             bPoison := if s.scratchBad o.group o.bAddr n then (List.range o.x.n).filter bad else [] }

/-- ARRAY_OP_BEGIN (11 R239): the array, idle, takes its queue's first operation once the range scoreboard lets it, and reads
the operands. Reading A from a poisoned register kills the wave (R238); the mark on A acts in the quads that are then the issuing split's
(05 R120). -/
def execArrayOpBegin (s : State) : Out := .next (
  match s.arg with
  | .at1 core =>
    let c := s.core core
    match c.array with
    | [] => s
    | o :: _ =>
      if o.begun || !c.clear o.seq o.ranges then s
      else
        let ctx := ((s.group o.group).map (fun g => g.ctx)).getD 0
        let late := decide (o.kind < 0x288) && !o.latched && !o.x.sa
        let poisoned := match o.wave with
          | some k => match s.wave core k with
            | some w => late && (regs o.x.a.toNat 8 ++ (if mmaScales o.kind ≠ 0 then [o.x.sc.toNat] else [])).any (fun r =>
                (quadsOf w.liveLanes).any (fun q => Table.get falseAt w.vpoison (16 * r + q)))
            | none => false
          | none => false
        match poisoned, o.wave with
        | true, some k => s.takeStop core k o.split { cause := .poisonRegister } o.pc
        | _, _ =>
          let x := s.fetchOperands core o
          let s := s.onArray core o.id (fun _ => { x with begun := true })
          let s := { s with free := s.free + 4096 + 8192 }
          let s := s.onCsr (dieOf core) (0xC000 + 0x100 * (core % 16) + 4 * ctx)
            (· + BitVec.ofNat 32 (o.cycles c.flow.capNow))
          match late && o.x.la, o.wave with
          | true, some k => s.onWave core k (fun w => match w.split o.split with
              | some sp => (w.ownQuads sp).foldl (fun w q => (regs o.x.a.toNat 8).foldl (fun w r => w.unbindV r q) w) w
              | none => w)
          | _, _ => s
  | _ => s)

/-- What an operation leaves in accumulator storage and scratchpad (11 R238, R246–R248). -/
def Group.afterArray (g : Group) (o : ArrayOp) : Group :=
  let n := o.x.n
  let each := fun (g : Group) (f : Group → Nat → Nat → Group) =>
    (List.range 64).foldl (fun g i => (List.range n).foldl (fun g k => f g i k) g) g
  let put := fun (g : Group) (e : Nat) (x : Word) (p : Bool) =>
    { g with acc := Table.set zeroWord g.acc e x, accPoison := Table.set falseAt g.accPoison e p }
  match o.kind with
  | 0x289 =>
    (lanesOf o.rows).foldl (fun g i => (List.range 8).foldl (fun g j =>
      put g (tileIndex o.x i (8 * o.x.sc.toNat + j)) (Table.get zeroWord o.aRegs (8 * i + j)) false) g) g
  | 0x28A => each g (fun g i k => put g (tileIndex o.x i k) 0 false)
  | 0x28B =>
    let fm := cvtTarget o.x
    let bytes := fm.width / 8
    each g (fun g' i k =>
      let e := tileIndex o.x i k
      let v := Val.mul (f32 (Table.get zeroWord g.acc e)) (f32 o.sScale)
      let off := o.bAddr + (i * n + k) * bytes
      let g' := g'.putScratch off (leBytes bytes (fm.encode .rne o.x.acc v))
      if Table.get falseAt g.accPoison e then
        { g' with scratchPoison := Table.set falseAt g'.scratchPoison (off / 4) true }
      else g')
  | _ => each g (fun g' i k =>
      let e := tileIndex o.x i k
      put g' e (o.element (Table.get zeroWord g.acc e) i k)
        ((o.x.acc && Table.get falseAt g.accPoison e) || o.bPoison.contains k))

/-- ARRAY_OP_COMPLETE (11 R241, R246): the operation's results are written, its ticket completes, and its entries are freed. An MMA
whose window was broken leaves undefined values (10 R230). -/
def execArrayOpComplete (s : State) : Out := .next (
  match s.arg with
  | .at1 core =>
    match (s.core core).array with
    | [] => s
    | o :: rest =>
      if !o.begun then s
      else
        let s := s.onCore core (fun c => { c with array := rest })
        let s := if o.lost then s else s.onGroup o.group (fun g => g.afterArray o)
        let s := o.arrive.foldl (fun s a => s.onBarrier a.1 a.2 Barrier.arrive) s
        match o.wave, o.ticket with
        | some k, some t =>
          match s.wave core k with
          | none => s
          | some w =>
            if w.group ≠ o.group then s
            else
              let broken := w.windows.any (fun x => decide (x.ticket = t) && !x.done && x.undef)
              let w : Wave := { w with mdoneSet := t :: w.mdoneSet,
                                       windows := w.windows.map (fun x => if x.ticket = t then { x with done := true } else x) }
              let s := s.setWave core k (some (Wave.finishTicket 64 w))
              if broken then s.loseAcc o.group (tileLo o.x) (tileHi o.x) else s
        | _, _ => s
  | _ => s)

end Sys2Proof.Machine
end

