-- ==== Sys2Proof/Machine/Engine.lean ====
section
/-! DEFINITION. The copy engine's queue and the instructions that hand it commands (12 R250–R263, R267–R269; 15 R335): checks at
issue, admission, batches. -/

namespace Sys2Proof.Machine

/-! ## The queue (12 R250) -/

/-- Places a command behind a core's others. -/
def State.pushCmd (s : State) (core : Nat) (c : Cmd) : State :=
  s.onCore core (fun x => { x with cmds := x.cmds ++ [{ c with id := x.nextCmd, seq := x.nextSeq }], nextCmd := x.nextCmd + 1,
                                   nextSeq := x.nextSeq + 1 })

/-- Issues a command (12 R254): the operands are read and checked; the instruction waits until the
release at group scope that its issue is may be performed (10 R229), and until it is admitted. `finish` acts with the command. -/
def State.issueCmd (s : State) (u : Uses) (mk : Wave → Split → Except FaultInfo Cmd)
    (finish : Wave → Split → Cmd → State → State) : State :=
  s.issueWith u (fun w sp t =>
    match mk w sp with
    | .error i => s.stopWith i
    | .ok c =>
      if !s.mayRelease 2 then s
      else
        let (yes, s') := s.letIn c.ranges.length true
        if !yes then s'
        else
          let t := t.onCore s.cur.core (fun x => { x with waitq := (s'.core s.cur.core).waitq })
          let t := t.pushCmd s.cur.core { c with wave := some s.cur.wave, group := w.group, ctx := w.ctx, pc := s.cur.iaddr,
                                                 split := s.cur.split }
          (finish w sp c t).advance)

/-! ## Checks at issue (12 R254, R255) -/

/-- A failure with an engine's address. -/
def engineFault (c : StopCause) (k : AccKind) (a : Dword) : FaultInfo := { cause := c, kind := k, addr := a }

/-- The arrivals of an arrival word, or `none` when it fails (R255). -/
def State.arrivalOf (s : State) (g : Nat) (x : Word) : Option (List (Nat × Nat)) :=
  if field x 31 17 ≠ 0 then none
  else if x.getLsbD 16 then (s.barrierRef g (x &&& 0xFFFF)).map (fun p => [p])
  else if field x 15 0 ≠ 0 then none
  else some []

/-- The barrier count of a group. -/
def State.barrierCount (s : State) (g : Nat) : Nat := ((s.group g).map (fun x => x.barriers.length)).getD 0

/-- An end of a copy: 0 global, 1 scratchpad of a group at an offset (checks 3 of R254). -/
def State.endPlace (s : State) (g space : Nat) (a : Dword) (n : Nat) : Except FaultInfo (Nat × Nat) :=
  if space = 0 then .ok (g, a.toNat)
  else if hiWord a ≠ 0 then .error (engineFault .pageProtection .scratchpad a)
  else if n = 0 then .ok (g, field (loWord a) 20 0)
  else match s.scratchPlace g (loWord a) n with
    | some p => .ok p
    | none => .error (engineFault .pageProtection .scratchpad a)

/-- The access kind of an end. -/
def endKind (space : Nat) (write : Bool) : AccKind :=
  if space = 1 then .scratchpad else if write then .engineWrite else .engineRead

/-- Checks 4 and 5 of R254 on a list of addresses with their spaces and directions. -/
def addressFault (align : Nat) (l : List (Nat × Bool × Dword)) : Option FaultInfo :=
  match l.find? (fun x => decide (x.2.2.toNat % align ≠ 0)) with
  | some x => some (engineFault .misaligned (endKind x.1 x.2.1) x.2.2)
  | none => match l.find? (fun x => x.1 = 0 && decide (2 ^ 56 ≤ x.2.2.toNat)) with
    | some x => some (engineFault .pageProtection (endKind x.1 x.2.1) x.2.2)
    | none => none

/-- A scoreboard range for an end in the issuing group's own scratchpad (R253). -/
def ownRange (g : Nat) (p : Nat × Nat) (n kind : Nat) : List CmdRange :=
  if p.1 = g ∧ n ≠ 0 then [{ space := 1, grp := g, lo := p.2, hi := p.2 + n, kind := kind }] else []

/-- An ILLEGAL_OPERAND at an instruction (check 2 of R254). -/
def operandFault (iaddr : Dword) : FaultInfo := { cause := .illegalOperand, addr := iaddr }

/-- A linear copy (R256), as CPY and COPY give it. -/
def State.mkLinear (s : State) (g : Nat) (iaddr src dst : Dword) (len : Word) (arv : Option (List (Nat × Nat)))
    (ss ds : Nat) : Except FaultInfo Cmd :=
  match arv with
  | none => .error (operandFault iaddr)
  | some arrive =>
    let n := len.toNat
    if n % 4 ≠ 0 ∨ 2 ^ 24 < n then .error (operandFault iaddr)
    else match s.endPlace g ss src n, s.endPlace g ds dst n with
      | .error i, _ => .error i
      | _, .error i => .error i
      | .ok p, .ok q => match addressFault 4 [(ss, false, src), (ds, true, dst)] with
        | some i => .error i
        | none => .ok
          { kind := .linear, arrive := arrive,
            rows := if n = 0 then [] else [{ sspace := ss, src := p.2, sgrp := p.1, dspace := ds, dst := q.2, dgrps := [q.1],
                                             len := n }],
            ranges := (if ss = 1 then ownRange g p n 0 else []) ++ (if ds = 1 then ownRange g q n 1 else []) }

/-- The barriers that a multicast arrives on, for the ranks of its mask (R257). -/
def State.multiArrivals (s : State) (g : Nat) (x : Word) (members : List Nat) : Option (List (Nat × Nat)) :=
  if field x 31 17 ≠ 0 ∨ field x 15 10 ≠ 0 then none
  else if x.getLsbD 16 then
    if field x 9 0 < s.barrierCount g then some (members.map (fun h => (h, field x 9 0))) else none
  else if field x 15 0 ≠ 0 then none
  else some []

/-- A multicast (R257), as CPYM and MCAST give it. -/
def State.mkMulticast (s : State) (g : Nat) (iaddr src : Dword) (off mask len arv : Word) : Except FaultInfo Cmd :=
  let ranks := (List.range 4).filter (fun r => mask.getLsbD r)
  let members := ranks.filterMap (fun r => s.rankGroup g (r + 1))
  let n := len.toNat
  if field mask 31 4 ≠ 0 ∨ ranks = [] ∨ members.length ≠ ranks.length ∨ n % 4 ≠ 0 ∨ n < 4 ∨ 2 ^ 21 < n then
    .error (operandFault iaddr)
  else match s.multiArrivals g arv members with
    | none => .error (operandFault iaddr)
    | some arrive =>
      if field off 31 28 ≠ 0 ∨ members.any (fun h => (s.scratchPlace h off n).isNone) then
        .error (engineFault .pageProtection .scratchpad (off.setWidth 64))
      else match addressFault 4 [(0, false, src), (1, true, off.setWidth 64)] with
        | some i => .error i
        | none => .ok
          { kind := .multicast, arrive := arrive,
            rows := [{ src := src.toNat, dspace := 1, dst := field off 20 0, dgrps := members, len := n }],
            ranges := if members.contains g then ownRange g (g, field off 20 0) n 1 else [] }

/-! ## Tensor shape records (12 R259, R260) -/

/-- A tensor shape record. -/
structure Tensor where
  e : Nat
  rank : Nat
  base : Dword
  extent : List Nat
  stride : List Nat
  box : List Nat
  pitch : Nat
  fill : List Byte
  deriving DecidableEq, Repr

/-- The record of 192 bytes; `none` when it is malformed (R259). -/
def Tensor.parse (bs : List Byte) : Option Tensor :=
  let at_ := fun (o n : Nat) => leNat ((bs.drop o).take n)
  let e := 2 ^ at_ 2 1
  let rank := at_ 3 1
  let extent := (List.range 4).map (fun k => at_ (0x10 + 4 * k) 4)
  let stride := e :: (List.range 3).map (fun k => at_ (0x20 + 8 * k) 8)
  let box := (List.range 4).map (fun k => at_ (0x40 + 4 * k) 4)
  let pitch := at_ 0x50 4
  let points := ((List.range rank).map (fun k => box.getD k 1)).foldl (· * ·) 1
  let ok := bs.length = 192 && at_ 0 2 = 0x5452 && at_ 2 1 ≤ 3 && 1 ≤ rank && rank ≤ 4 && at_ 4 1 ≤ 1 && at_ 5 3 = 0 &&
    at_ 8 8 % e = 0 && at_ 8 8 < 2 ^ 56 &&
    (List.range 4).all (fun k =>
      let x := extent.getD k 0
      let b := box.getD k 0
      if k < rank then 1 ≤ x && x < 2 ^ 31 && 1 ≤ b && b ≤ 256 else x = 0 && b = 0) &&
    (List.range 3).all (fun k =>
      let t := stride.getD (k + 1) 0
      if k + 1 < rank then t % e = 0 else t = 0) &&
    at_ 0x38 8 = 0 && (pitch = 0 || (pitch % 4 = 0 && box.getD 0 0 * e ≤ pitch)) && at_ 0x54 4 = 0 && at_ 0x60 96 = 0 &&
    points * e ≤ 2 ^ 21 && (at_ 4 1 = 1 || at_ 0x58 8 = 0)
  if ok then some { e := e, rank := rank, base := BitVec.ofNat 64 (at_ 8 8), extent := extent, stride := stride,
                    box := box.map (fun b => max 1 b),
                    pitch := if pitch = 0 then box.getD 0 0 * e else pitch, fill := (bs.drop 0x58).take e }
  else none

/-- The scratchpad bytes from the first box point to the end of the last (R260). -/
def Tensor.footprint (t : Tensor) : Nat :=
  let b := fun k => t.box.getD k 1
  (b 0 - 1) * t.e + (b 1 - 1) * t.pitch + (b 2 - 1) * t.pitch * b 1 + (b 3 - 1) * t.pitch * b 1 * b 2 + t.e

/-- The parts of one row of the box (R260): j1 to j3 fixed. -/
def Tensor.boxRow (t : Tensor) (store : Bool) (c : List Int) (h sp j1 j2 j3 : Nat) : List Chunk :=
  let b := fun k => t.box.getD k 1
  let x := fun (k j : Nat) => (c.getD k 0) + (j : Int)
  let inside := fun (k j : Nat) => decide (t.rank ≤ k) || (decide (0 ≤ x k j) && decide (x k j < t.extent.getD k 0))
  let sa := sp + j1 * t.pitch + j2 * t.pitch * b 1 + j3 * t.pitch * b 1 * b 2
  let n := b 0
  let c0 := c.getD 0 0
  let lo := if inside 1 j1 && inside 2 j2 && inside 3 j3 then min n (0 - c0).toNat else n
  let hi := if lo < n then max lo (min n ((t.extent.getD 0 0 : Int) - c0).toNat) else n
  let dim := fun (k j : Nat) => if t.rank ≤ k then (0 : Int) else x k j * (t.stride.getD k 0 : Int)
  let ga := ((t.base.toNat : Int) + (c0 + lo) * t.e + dim 1 j1 + dim 2 j2 + dim 3 j3).toNat
  let filled := fun (p q : Nat) => if p < q && !store then
    [{ dspace := 1, dst := sa + p * t.e, dgrps := [h], len := (q - p) * t.e, fill := some t.fill}]
    else ([] : List Chunk)
  let moved : List Chunk :=
    if hi ≤ lo then []
    else if store then [{ sspace := 1, src := sa + lo * t.e, sgrp := h, dst := ga, len := (hi - lo) * t.e }]
    else [{ src := ga, dspace := 1, dst := sa + lo * t.e, dgrps := [h], len := (hi - lo) * t.e }]
  filled 0 lo ++ moved ++ (if lo < n then filled hi n else [])

/-- Marks the rows that adjoin the one before them at the destination: a chunk may go on into such a row (R264). -/
def joinRows (l : List Chunk) : List Chunk :=
  l.zipIdx.map (fun e => { e.1 with joined := e.2 ≠ 0 && ((l[e.2 - 1]?).map (fun p => decide (p.dst + p.len = e.1.dst))).getD false })

/-- The rows of a tensor copy, in ascending order of destination (R260, R264). -/
def Tensor.rows (t : Tensor) (store : Bool) (c : List Int) (h sp : Nat) : List Chunk :=
  joinRows (sortBy (fun a b => decide (a.dst ≤ b.dst)) <| (List.range (t.box.getD 3 1)).flatMap (fun j3 => (List.range (t.box.getD 2 1)).flatMap (fun j2 =>
    (List.range (t.box.getD 1 1)).flatMap (fun j1 => t.boxRow store c h sp j1 j2 j3))))

/-- The checks that need the record (checks 3 and 4 of R254): where the box lies, or the cause. -/
def State.tensorPlace (s : State) (g : Nat) (t : Tensor) (sp : Word) : Except StopCause (Nat × Nat) :=
  match s.scratchPlace g sp t.footprint with
  | none => .error .pageProtection
  | some p => if sp.toNat % t.e ≠ 0 then .error .misaligned else .ok p

/-- A tensor copy with its record at hand. -/
def Cmd.withTensor (c : Cmd) (t : Tensor) (p : Nat × Nat) : Cmd :=
  { c with recordWait := false, record := [], hold := [],
           rows := t.rows c.storeDir (c.coords.map (fun x => x.toInt)) p.1 p.2,
           ranges := ownRange c.group p t.footprint (if c.storeDir then 0 else 1) }

/-- The record cached for a context at an address, unless a copy that differs from memory is passed over (R261): a free choice. -/
def State.cachedRecord (s : State) (core ctx : Nat) (a : Dword) : Option (List Word) :=
  match (s.core core).records.find? (fun r => decide (r.ctx = ctx) && decide (r.addr = a)) with
  | none => none
  | some r =>
    match s.check core ctx a 64 .engineRead { read := true } with
    | .error _ => some r.words
    | .ok (pa, _) =>
      let now := (List.range 48).map (fun k => s.wordAt (pa + 4 * k))
      if now ≠ r.words ∧ Config.freeChoice s.free % 2 = 1 then none else some r.words

/-- A tensor copy whose record has not been read (R260). While it is awaited, its range is what lies from its scratchpad address to
the end of the allotment. -/
def State.mkTensor (s : State) (g : Nat) (iaddr record : Dword) (sp : Word) (arv : Option (List (Nat × Nat))) (store : Bool)
    (coords : List Word) : Except FaultInfo Cmd :=
  match arv with
  | none => .error (operandFault iaddr)
  | some arrive =>
    if record.toNat % 64 ≠ 0 then .error (engineFault .misaligned .engineRead record)
    else if 2 ^ 56 ≤ record.toNat then .error (engineFault .pageProtection .engineRead record)
    else
      let range := match s.scratchPlace g sp 1 with
        | some p => ownRange g p (s.scratchSize p.1 - p.2) (if store then 0 else 1)
        | none => []
      .ok { kind := .tensor, arrive := arrive, recordWait := true, recAddr := record, coords := coords, storeDir := store,
            spBase := sp.toNat, ranges := range }

/-- A tensor copy as CPYT issues it: with a cached record, the checks that need one are made at once. -/
def State.tensorAtIssue (s : State) (core ctx g : Nat) (c : Cmd) : Except FaultInfo Cmd :=
  match s.cachedRecord core ctx c.recAddr with
  | none => .ok c
  | some ws =>
    let c : Cmd := { c with ctx := ctx }
    match Tensor.parse (ws.flatMap (fun x => leBytes 4 x.toNat)) with
    | none => .ok { c with record := ws }
    | some t =>
      let sp := BitVec.ofNat 32 c.spBase
      match s.tensorPlace g t sp with
      | .error e => .error (engineFault e .scratchpad (sp.setWidth 64))
      | .ok p => .ok ({ c with group := g }.withTensor t p)

/-- A record cache with a record most recently used; 32 are held (R261). -/
def Core.cacheRecord (c : Core) (r : CachedRecord) : Core :=
  { c with records := (r :: c.records.filter (fun x => !(x.ctx = r.ctx && x.addr = r.addr))).take 32 }

/-- Marks the record that a tensor copy found in the cache as used. -/
def State.touchRecord (s : State) (core : Nat) (c : Cmd) : State :=
  if c.recordWait && c.record = [] then s
  else s.onCore core (fun k => match k.records.find? (fun r => decide (r.ctx = c.ctx) && decide (r.addr = c.recAddr)) with
    | some r => k.cacheRecord r
    | none => k)

/-! ## The instructions -/

/-- The names a copy instruction reads (R254). -/
def copyUses (a : MArgs) (n : Nat) (rows : Bool) : Uses :=
  let ar := if rows then regs a.a.toNat 2 else []
  { vr := ar, sr := regs a.s.toNat n, vfree := if a.la then ar else [] }

/-- CPY (12 R256). -/
def execCpy (a : MArgs) (s : State) : Out := .next (
  let k := a.s.toNat
  s.issueCmd (copyUses a 6 false) (fun w _ =>
    s.mkLinear w.group s.cur.iaddr (w.s2 k) (w.s2 (k + 2)) (w.s (k + 4)) (s.arrivalOf w.group (w.s (k + 5)))
      (a.d.toNat % 4) (a.d.toNat / 4)) (fun _ _ _ s => s))

/-- CPYM (12 R257). -/
def execCpym (a : MArgs) (s : State) : Out := .next (
  let k := a.s.toNat
  s.issueCmd (copyUses a 6 false) (fun w _ =>
    s.mkMulticast w.group s.cur.iaddr (w.s2 k) (w.s (k + 2)) (w.s (k + 3)) (w.s (k + 4)) (w.s (k + 5))) (fun _ _ _ s => s))

/-- The command of a CPYG (`scatter` false) or CPYS (12 R258); rows of helper lanes are skipped (17 R385). -/
def State.mkRows (s : State) (w : Wave) (sp : Split) (a : MArgs) (scatter : Bool) : Except FaultInfo Cmd :=
  let k := a.s.toNat
  let base := w.s k
  let n := (w.s (k + 1)).toNat
  let lanes := lanesOf (w.runOf sp a.g &&& ~~~w.helper)
  match s.arrivalOf w.group (w.s (k + 2)) with
  | none => .error (operandFault s.cur.iaddr)
  | some arrive =>
    if n % 4 ≠ 0 ∨ n < 4 ∨ 4096 < n then .error (operandFault s.cur.iaddr)
    else
      let at_ := fun (i : Nat) => base + BitVec.ofNat 32 (i * n)
      match lanes.find? (fun i => (s.scratchPlace w.group (at_ i) n).isNone) with
      | some i => .error (engineFault .pageProtection .scratchpad ((at_ i).setWidth 64))
      | none =>
        match addressFault 4 ((1, !scatter, base.setWidth 64) :: lanes.map (fun i => (0, scatter, w.v2 a.a.toNat i))) with
        | some i => .error i
        | none =>
          let rows := lanes.filterMap (fun i => (s.scratchPlace w.group (at_ i) n).map (fun p =>
            let far := (w.v2 a.a.toNat i).toNat
            if scatter then ({ sspace := 1, src := p.2, sgrp := p.1, dst := far, len := n } : Chunk)
            else { src := far, dspace := 1, dst := p.2, dgrps := [p.1], len := n }))
          let range := match lanes.head?, lanes.getLast? with
            | some i, some j => match s.scratchPlace w.group (at_ i) n with
              | some p => ownRange w.group p ((j - i) * n + n) (if scatter then 0 else 1)
              | none => []
            | _, _ => []
          .ok { kind := if scatter then .scatter else .gather, arrive := arrive, rows := rows, ranges := range }

/-- CPYG (12 R258). -/
def execCpyg (a : MArgs) (s : State) : Out := .next (
  s.issueCmd (copyUses a 3 true) (fun w sp => s.mkRows w sp a false) (fun _ _ _ s => s))

/-- CPYS (12 R258). -/
def execCpys (a : MArgs) (s : State) : Out := .next (
  s.issueCmd (copyUses a 3 true) (fun w sp => s.mkRows w sp a true) (fun _ _ _ s => s))

/-- Completes a pending RFENCE of a wave once its earlier CPYT and CBLK commands have read their records (12 R262): the records of
its context leave the cache. -/
def State.tryRfence (s : State) (core wave : Nat) : State :=
  match s.wave core wave with
  | none => s
  | some w =>
    if w.rfence && !(s.core core).cmds.any (fun c => c.wave = some wave && (c.recordWait || c.kind = .chain)) then
      (s.onWave core wave (fun w => { w with rfence := false })).onCore core (fun c =>
        { c with records := c.records.filter (fun r => decide (r.ctx ≠ w.ctx)) })
    else s

/-- Runs an instruction that a pending RFENCE of its wave holds back (12 R262). -/
def State.afterRfence (s : State) (act : State → State) : State :=
  let s := s.tryRfence s.cur.core s.cur.wave
  match s.issuing with
  | none => s
  | some (w, _) => if w.rfence then s else act s

/-- CPYT (12 R260, R261). -/
def execCpyt (a : MArgs) (s : State) : Out := .next (
  let k := a.s.toNat
  s.afterRfence (fun s => { s.issueCmd (copyUses a 8 false) (fun w _ =>
    match s.mkTensor w.group s.cur.iaddr (w.s2 k) (w.s (k + 2)) (s.arrivalOf w.group (w.s (k + 3))) (a.d.getLsbD 0)
        ((List.range 4).map (fun j => w.s (k + 4 + j))) with
    | .error i => .error i
    | .ok c => s.tensorAtIssue s.cur.core w.ctx w.group c) (fun _ _ c s => s.touchRecord s.cur.core c) with free := s.free + 1025 }))

/-- RFENCE (12 R262). -/
def execRfence (s : State) : Out := .next (
  ((s.onIssuer (fun w => { w with rfence := true })).tryRfence s.cur.core s.cur.wave).advance)

/-! ## CPYMMA (12 R263) -/

/-- What stands wrong with the MX word of a CPYMMA or MMAC, field by field. -/
def badCopyMma (x : Dword) (sOk : Bool) : Option StopCause :=
  let o := opcOf x
  let f := fieldsX x
  if frameOf x ≠ 0 ∨ o < 0x280 ∨ 0x287 < o ∨ spareZero 2 x = false then some .illegalEncoding
  else if (f.sa && (f.a ≠ 0 || f.sc ≠ 0 || f.ru || f.la)) || (!sOk && f.s ≠ 0) then some .illegalEncoding
  else illegalMma f (mmaScales o ≠ 0) (o = 0x287)

/-- The bytes of A in scratchpad for SA = 1, with its scales (R263). -/
def mmaABytes (kind : Nat) : Nat := if mmaScales kind = 0 then 2048 else 2176

/-- The ranges of an MMA with both operands in scratchpad, or of one with A at hand (12 R253). -/
def copyMmaRanges (g kind : Nat) (x : XArgs) (b a : Nat) : List CmdRange :=
  mmaRanges g kind x b ++
    (if x.sa then [{ space := 1, grp := g, lo := a, hi := a + mmaABytes kind, kind := 0 }] else [])

/-- The command of a CPYMMA: the copy, and the MMA that follows it. -/
def State.mkCopyMma (s : State) (w : Wave) (k : Nat) : Except FaultInfo Cmd :=
  let g := w.group
  let word := w.s2 (k + 4)
  let kind := opcOf word
  let x := fieldsX word
  let n := (w.s (k + 3)).toNat
  let dst := w.s (k + 2)
  let here := fun (c : StopCause) => ({ cause := c, addr := s.cur.iaddr } : FaultInfo)
  if n < 4 ∨ 2 ^ 21 < n then .error (operandFault s.cur.iaddr)
  else match s.mkLinear g s.cur.iaddr (w.s2 k) (dst.setWidth 64) (w.s (k + 3)) (s.arrivalOf g (w.s (k + 6))) 0 1 with
    | .error i => .error i
    | .ok c =>
      if field dst 31 28 ≠ 0 then .error (engineFault .pageProtection .scratchpad (dst.setWidth 64))
      else match badCopyMma word true with
        | some e => .error (here e)
        | none =>
          let b := w.s x.s.toNat
          if !s.offers kind then .error (here .privilege)
          else if s.accSize g < tileHi x then .error (here .illegalOperand)
          else match s.arrayRegion g b (mmaBBytes kind x.n) 32 with
            | .error e => .error (engineFault e .scratchpad (b.setWidth 64))
            | .ok off =>
              match (if x.sa then s.arrayRegion g dst (mmaABytes kind) 1 else .ok 0) with
              | .error e => .error (engineFault e .scratchpad (dst.setWidth 64))
              | .ok a =>
                if !x.sa && (!w.latch.held || w.latch.differs kind x) then .error (here .illegalOperand)
                else .ok { c with
                  kind := .mma, ranges := c.ranges ++ copyMmaRanges g kind x off a,
                  mma := some { kind := kind, x := x, bAddr := off, aAddr := a, ticket := w.nextTicket,
                                aRegs := if x.sa then [] else w.latch.regs, scRegs := if x.sa then [] else w.latch.scales } }

/-- CPYMMA (12 R263): takes a ticket, and waits while a copy of another is pending. -/
def execCpymma (a : MArgs) (s : State) : Out := .next (
  let k := a.s.toNat
  s.mx (fun w0 sp0 s =>
    let r := (w0.seen sp0 s.free).s
    let x := fieldsX (pairOf (r (k + 4)) (r (k + 5)))
    if s.copyPending || 64 ≤ w0.tickets then s
    else
      let u := copyUses a 7 false
      s.issueCmd { u with sr := u.sr ++ [x.s.toNat], vfree := if x.la && !x.sa then regs x.a.toNat 8 else [] }
        (fun w _ => s.mkCopyMma w k) (fun w _ c s =>
          match c.mma with
          | none => s
          | some m => s.takeTicket.onIssuer (fun y =>
            { y with latch := if m.x.sa || m.x.ru then y.latch else {},
                     windows := y.windows ++ [{ ticket := m.ticket, a := m.x.a.toNat, latched := true, grp := w.group,
                                                blo := m.bAddr, bhi := m.bAddr + mmaBBytes m.kind m.x.n, dlo := tileLo m.x,
                                                dhi := tileHi m.x, count := w.issued }] }))))

/-! ## Batches (12 R267, R268) -/

/-- Batches outstanding: Ob. -/
def Wave.openBatches (w : Wave) : Nat := (w.batch - w.cbdone).toNat

/-- %cbdone passes the batches whose commands have all completed. -/
def State.batchDone (s : State) (core wave : Nat) : Nat → State
  | 0 => s
  | n + 1 =>
    match s.wave core wave with
    | none => s
    | some w =>
      let next := (w.cbdone + 1).toNat
      if w.openBatches = 0 ∨ (s.core core).cmds.any (fun c => c.wave = some wave && c.batch = some next) then s
      else (s.onWave core wave (fun w => { w with cbdone := w.cbdone + 1 })).batchDone core wave n

/-- CBATCH (12 R267). -/
def execCbatch (s : State) : Out := .next (
  match s.issuing with
  | none => s
  | some (w, _) =>
    if w.openBatches = 255 then s
    else
      let b := (w.batch + 1).toNat
      let s := s.onCore s.cur.core (fun c => { c with cmds := c.cmds.map (fun x =>
        if x.wave = some s.cur.wave && x.chainOf.isNone && x.batch.isNone then { x with batch := some b } else x) })
      ((s.onIssuer (fun w => { w with batch := w.batch + 1 })).batchDone s.cur.core s.cur.wave 256).advance)

/-- CWAIT (12 R268). -/
def execCwait (a : SArgs) (s : State) : Out := .next (
  match s.issuing with
  | none => s
  | some (w, sp0) =>
    let n : BitVec 16 := if a.a = 0x3FF then a.imm else ((w.seen sp0 s.free).s a.a.toNat).extractLsb' 0 16
    if (w.batch - n).toNat < w.openBatches then s
    else
      let ar := if a.a = 0x3FF then [] else [a.a.toNat]
      s.issueWith { sr := ar, sfree := if a.la then ar else [] } (fun _ _ s => (s.acquireAt s.cur.core 2).advance))

/-- CBLK (12 R269): starts a command-block chain. -/
def execCblk (a : SArgs) (s : State) : Out := .next (
  let br := if a.b = 0x3FF then [] else regs a.b.toNat 2
  let ar := regs a.a.toNat 2
  s.afterRfence (fun s =>
    s.issueCmd { sr := ar ++ br, sfree := (if a.la then ar else []) ++ (if a.lb then br else []) } (fun w _ =>
      let block := w.s2 a.a.toNat
      let status := w.s2 a.b.toNat
      if block.toNat % 64 ≠ 0 then .error (engineFault .misaligned .engineRead block)
      else if a.b ≠ 0x3FF ∧ status.toNat % 8 ≠ 0 then .error (engineFault .misaligned .engineWrite status)
      else .ok { kind := .chain, started := true,
                 chain := { next := block, statusAt := if a.b = 0x3FF then none else some status } })
      (fun _ _ _ s => s)))

/-- DGRD (15 R335): once the wave's earlier global stores and its commands have completed, its digest. -/
def execDgrd (a : SArgs) (s : State) : Out := .next (
  match s.issuing with
  | none => s
  | some (w, _) =>
    let stores := w.ops.any (fun o => o.kind = .store && o.space = .global)
    if stores || (s.core s.cur.core).cmds.any (fun c => c.wave = some s.cur.wave) then s
    else
      let replay := ((s.launchOf w.group).map (fun l => l.flag 2)).getD false
      let v : Dword := if replay then w.digest else 0
      s.issueWith { sw := regs a.d.toNat 2 } (fun _ _ s => (s.putScalars a.d.toNat [loWord v, hiWord v]).advance))

end Sys2Proof.Machine
end

