-- ==== Sys2Proof/Machine/Copy.lean ====
section
/-! DEFINITION. The copy engine at work (12 R251, R260–R266): its reads and writes, chunks, shape records, the start and the
completion of commands. -/

namespace Sys2Proof.Machine

/-! ## Writes of a group under the digest (15 R333, R337) -/

/-- Counts a global write of a REPLAY launch's group, made for one of its waves, in the digests (15 R333). -/
def State.countWrite (s : State) (core : Nat) (wave : Option Nat) (g va : Nat) (bs : List Byte) : State :=
  if ((s.launchOf g).map (fun l => l.flag 2)).getD false then
    let d := contribution va bs
    let s := s.onGroup g (fun x => { x with digest := x.digest + d })
    match wave with
    | some k => s.onWave core k (fun w => { w with digest := w.digest + d })
    | none => s
  else s

/-- Whether a global access of an engine breaks the rules of a shadow run (15 R326, R337). -/
def State.shadowBreach (s : State) (core : Nat) (wave : Option Nat) (g va n : Nat) (write : Bool) : Bool :=
  s.shadowOf g && (match wave with
    | some k => match s.wave core k with
      | some w => !s.shadowAllows w va n write
      | none => false
    | none => false)

/-! ## The engine's accesses (12 R251, R264) -/

/-- The outcome of an engine access: bytes read, or none for a write done; a place in another device's window; a fault; or
a breach of a shadow run's rules. -/
inductive Moved where
  | bytes (l : List Byte)
  | window (port off : Nat)
  | fault (i : FaultInfo)
  | breach
  deriving DecidableEq, Repr

/-- Changes a command of a core's engine. -/
def State.onCmd (s : State) (core id : Nat) (f : Cmd → Cmd) : State :=
  s.onCore core (fun c => { c with cmds := c.cmds.map (fun x => if x.id = id then f x else x) })

/-- A command of a core's engine. -/
def State.cmd (s : State) (core id : Nat) : Option Cmd := (s.core core).cmds.find? (fun x => decide (x.id = id))

/-- The bytes that the engine moves at an address: free ones where the access trespasses (00 R1; 04 R93; 09 R206). -/
def State.engineBytes (s : State) (core : Nat) (c : Cmd) (va : Nat) (bs : List Byte) (write : Bool) : List Byte × State :=
  if s.trespasses c.ctx va bs.length write (fun k i _ => k = core && c.wave = some i) then
    ((List.range bs.length).map (fun j => (Config.freeDword (s.free + j)).extractLsb' 0 8), { s with free := s.free + bs.length })
  else (bs, s)

/-- Reads n bytes of global memory, which lie in one page (12 R251, R264). -/
def State.engineRead (s : State) (core : Nat) (c : Cmd) (va n : Nat) : Moved × State :=
  if s.shadowBreach core c.wave c.group va n false then (.breach, s)
  else
    let (r, s) := s.checkFill core c.ctx (BitVec.ofNat 64 va) 1 .engineRead { read := true }
    match r with
    | .error i => (.fault i, s)
    | .ok (pa, _) => match windowOf pa with
      | some (port, off) => (if s.shadowOf c.group then .breach else .window port off, s)
      | none =>
        if s.poisoned pa n then (.fault (engineFault .poisonLoad .engineRead (BitVec.ofNat 64 va)), s)
        else
          let (bs, s) := s.engineBytes core c va (s.coreBytes core pa n) false
          (.bytes bs, s)

/-- Counts bytes that the engine writes for a context: CPYUSE (12 R252). -/
def State.countEngine (s : State) (core ctx n : Nat) : State :=
  s.onCsr (dieOf core) (0xE000 + 0x200 * (core % 16) + 8 * ctx + 4) (· + BitVec.ofNat 32 n)

/-- Writes bytes of global memory, which lie in one page. A shadow run performs nothing, and may reach no window (15 R326, R337). -/
def State.engineWrite (s : State) (core : Nat) (c : Cmd) (va : Nat) (bs : List Byte) : Moved × State :=
  if s.shadowBreach core c.wave c.group va bs.length true then (.breach, s)
  else
    let (r, s) := s.checkFill core c.ctx (BitVec.ofNat 64 va) 1 .engineWrite { write := true }
    match r with
    | .error i => (.fault i, s)
    | .ok (pa, _) =>
      let (bs, s) := s.engineBytes core c va bs true
      match s.shadowOf c.group, windowOf pa with
      | true, some _ => (.breach, s)
      | true, none => (.bytes [], s)
      | false, some (port, off) => (.window port off, s)
      | false, none => (.bytes [], s.unitPut core 0 pa bs)

/-! ## Chunks (12 R264) -/

/-- The bytes to the end of a 4 KiB page. -/
def toPageEnd (a : Nat) : Nat := 4096 - a % 4096

/-- The bytes of a row from an offset on that one chunk may move. -/
def Chunk.room (k : Chunk) (off : Nat) : Nat :=
  let n := k.len - off
  let n := if k.sspace = 0 && k.fill.isNone then min n (toPageEnd (k.src + off)) else n
  if k.dspace = 0 then min n (toPageEnd (k.dst + off)) else n

/-- `n` bytes of a row from an offset on. -/
def Chunk.part (k : Chunk) (off n : Nat) : Chunk :=
  { k with src := k.src + off, dst := k.dst + off, len := n,
           fill := k.fill.map (fun p => (List.range n).map (fun j => p.getD ((off + j) % max 1 p.length) 0)) }

/-- The parts of the next chunk: at most 48 bytes, of one row or of joined rows. -/
def chunkParts : Nat → List Chunk → Nat → Nat → List Chunk
  | 0, _, _, _ => []
  | _ + 1, [], _, _ => []
  | f + 1, k :: ks, off, budget =>
    let n := min budget (k.room off)
    k.part off n :: (match ks with
      | k2 :: _ => if off + n = k.len && k2.joined && decide (n < budget) then chunkParts f ks 0 (budget - n) else []
      | [] => [])

/-- The parts of a command's next chunk. -/
def Cmd.parts (c : Cmd) : List Chunk := chunkParts 4 (c.rows.drop c.row) c.off 48

/-- A command past n bytes of its current row. -/
def Cmd.past (c : Cmd) (n : Nat) : Cmd :=
  if ((c.rows.getD c.row {}).len) ≤ c.off + n then { c with row := c.row + 1, off := 0 } else { c with off := c.off + n }

/-- A command past a chunk. -/
def Cmd.pastParts (c : Cmd) (ps : List Chunk) : Cmd :=
  { ps.foldl (fun c p => c.past p.len) c with phase := 0, reply := none, hold := [], moves := [], askAt := none }

/-- What a chunk has read from windows so far: what it kept, and the answer that has come. -/
def Cmd.fetched (c : Cmd) : List Byte := if c.phase = 0 then c.hold ++ c.reply.getD [] else []

/-- Reads the parts of a chunk. `have_` holds what windows of other devices have answered, in order. -/
def State.readParts (s : State) (core : Nat) (c : Cmd) (have_ : List Byte) :
    List Chunk → Except (Moved × Nat) (List (List Byte)) × State
  | [] => (.ok [], s)
  | p :: ps =>
    let (r, s) : Moved × State := match p.fill with
      | some bs => (.bytes bs, s)
      | none => if p.sspace = 1 then (.bytes (s.engineScratch p.sgrp p.src p.len), s)
        else s.engineRead core c p.src p.len
    let go := fun (l rest : List Byte) => match State.readParts s core c rest ps with
      | (.ok ls, s) => ((.ok (l :: ls) : Except (Moved × Nat) (List (List Byte))), s)
      | e => e
    match r with
    | .bytes l => go l have_
    | .window _ _ =>
      if p.len ≤ have_.length then go (have_.take p.len) (have_.drop p.len) else (.error (r, p.len), s)
    | _ => (.error (r, p.len), s)

/-- Suspends a command whose access fails a check, and stops its wave (12 R264). -/
def State.suspend (s : State) (core : Nat) (c : Cmd) (i : FaultInfo) : State :=
  let s := s.onCmd core c.id (fun x => { x with
      suspended := true, awaiting := false, phase := 0, reply := none,
      hold := [], moves := [], askAt := none })
  match c.wave with
  | some k => s.takeStop core k c.split { i with lane := none } c.pc (engine := true)
  | none => s

/-- Acts on an access that did not simply succeed. `req` asks at a window. -/
def State.onMoved (s : State) (core : Nat) (c : Cmd) (r : Moved) (req : Nat → Nat → State → State) : State :=
  match r with
  | .bytes _ => s
  | .window port off => (req port off s).onCmd core c.id (fun x => { x with awaiting := true, reply := none })
  | .fault i => s.suspend core c i
  | .breach => s.invalidReplay c.group

/-- Who awaits an answer for an engine command. -/
def Cmd.req (c : Cmd) (core : Nat) : PeerReq := { core := core, wave := c.wave.getD 0, op := c.id, engine := true }

/-- The bytes of a chunk: each with its part and its place in it. -/
def chunkBytes (ps : List Chunk) : List (Chunk × Nat) := ps.flatMap (fun p => (List.range p.len).map (fun j => (p, j)))

/-- The aligned 4-byte word that a byte of a chunk comes from: space, group, number; none where the engine fills it. -/
def srcWord (x : Chunk × Nat) : Option (Nat × Nat × Nat) :=
  if x.1.fill.isSome then none else some (x.1.sspace, if x.1.sspace = 1 then x.1.sgrp else 0, (x.1.src + x.2) / 4)

/-- The aligned 4-byte word that a byte of a chunk goes to. -/
def dstWord (x : Chunk × Nat) : Nat × List Nat × Nat := (x.1.dspace, x.1.dgrps, (x.1.dst + x.2) / 4)

/-- The places of a list where a test holds. -/
def placesOf {α : Type} (l : List α) (p : α → Bool) : List Nat := (l.zipIdx.filter (fun e => p e.1)).map (fun e => e.2)

/-- The next moves of an open chunk: for each word still to be read, and each whose bytes have all been read and are still to be written, its
first byte's place and whether it is a write. They are made in any order (10 R216, R229; 12 R266). -/
def nextMoves (bs : List (Chunk × Nat)) (ms : List (Option Byte × Bool)) : List (Nat × Bool) :=
  let l := bs.zip ms
  let unread := placesOf l (fun e => e.2.1.isNone)
  let unwritten := placesOf l (fun e => !e.2.2)
  let key := fun (k : Nat) => bs.getD k ({}, 0)
  let reads := unread.filter (fun k => unread.all (fun j => k ≤ j || decide (srcWord (key j) ≠ srcWord (key k))))
  let writes := unwritten.filter (fun k => unwritten.all (fun j => decide (dstWord (key j) ≠ dstWord (key k)) ||
    (decide (k ≤ j) && ((ms.getD j (none, true)).1).isSome)))
  reads.map (fun k => (k, false)) ++ writes.map (fun k => (k, true))

/-- Notes the bytes that a chunk's places have been read as. -/
def fillMoves (ms : List (Option Byte × Bool)) (l : List (Nat × Byte)) : List (Option Byte × Bool) :=
  l.foldl (fun ms e => ms.modify e.1 (fun m => (some e.2, m.2))) ms

/-- Notes that a chunk's places have been written. -/
def endMoves (ms : List (Option Byte × Bool)) (l : List Nat) : List (Option Byte × Bool) :=
  l.foldl (fun ms k => ms.modify k (fun m => (m.1, true))) ms

/-- The checks of a chunk's global ends, before any of it is moved (12 R264). -/
def State.openChunk (s : State) (core : Nat) (c : Cmd) : List Chunk → Option FaultInfo × State
  | [] => (none, s)
  | p :: ps =>
    let look := fun (s : State) (a : Nat) (k : AccKind) (need : Want) =>
      let (r, s) := s.checkFill core c.ctx (BitVec.ofNat 64 a) 1 k need
      match r with
      | .error i => (some i, s)
      | .ok _ => (none, s)
    let (i, s) := if p.sspace = 0 && p.fill.isNone then look s p.src .engineRead { read := true } else (none, s)
    let (j, s) := if i.isNone && p.dspace = 0 then look s p.dst .engineWrite { write := true } else (i, s)
    if j.isSome then (j, s) else s.openChunk core c ps

/-- The places of a chunk's bytes that belong to the part of byte k. -/
def partPlaces (bs : List (Chunk × Nat)) (k : Nat) : List Nat := placesOf bs (fun x => x.1 = (bs.getD k ({}, 0)).1)

/-- Reads the word of a chunk that byte k comes from, or asks for the part that it belongs to in a window. -/
def State.readMove (s : State) (core : Nat) (c : Cmd) (bs : List (Chunk × Nat)) (k : Nat) : State :=
  let x := bs.getD k ({}, 0)
  let ks := placesOf bs (fun y => srcWord y = srcWord x)
  let word := (x.1.src + x.2) / 4 * 4
  let at_ := fun (j : Nat) => let y := bs.getD j ({}, 0); y.1.src + y.2
  let first := ks.foldl (fun m j => min m (at_ j)) (at_ k)
  let last := ks.foldl (fun m j => max m (at_ j)) (at_ k)
  let done := fun (s : State) (lo : Nat) (l : List Byte) => s.onCmd core c.id (fun c => { c with
    moves := fillMoves c.moves (ks.map (fun j => (j, l.getD (at_ j - lo) 0))) })
  if x.1.sspace = 1 then done { s with free := s.free + 4 } word (s.engineScratch x.1.sgrp word 4)
  else
    let (r, s) := s.engineRead core c first (last + 1 - first)
    match r with
    | .bytes l => done s first l
    | r => s.onMoved core c r (fun port off s =>
        (s.ask port 0x02 c.ctx (memArgs (off - (first - x.1.src)) x.1.len) [] (c.req core)).onCmd core c.id
          (fun c => { c with askAt := some (k, false) }))

/-- Writes the word of a chunk that byte k goes to, or sends the part that it belongs to, once all read, to a window. -/
def State.writeMove (s : State) (core : Nat) (c : Cmd) (bs : List (Chunk × Nat)) (k : Nat) : State :=
  let x := bs.getD k ({}, 0)
  let ks := placesOf bs (fun y => dstWord y = dstWord x)
  let byteOf := fun (j : Nat) => ((c.moves.getD j (none, false)).1).getD 0
  let data := ks.map byteOf
  let first := x.1.dst + x.2
  let done := fun (s : State) (ks : List Nat) => s.onCmd core c.id (fun c => { c with moves := endMoves c.moves ks })
  if x.1.dspace = 1 then
    done ((x.1.dgrps.foldl (fun s g => s.storeScratch g first data) s).countEngine core c.ctx (data.length * x.1.dgrps.length)) ks
  else
    let (r, s) := s.engineWrite core c first data
    match r with
    | .bytes _ => done (s.countEngine core c.ctx data.length) ks
    | r =>
      let part := partPlaces bs k
      match r, part.find? (fun j => ((c.moves.getD j (none, false)).1).isNone) with
      | .window _ _, some j => s.readMove core c bs j
      | r, _ => s.onMoved core c r (fun port off s =>
          (s.ask port 0x03 c.ctx (memArgs (off - (first - x.1.dst)) x.1.len) (part.map byteOf) (c.req core)).onCmd core c.id
            (fun c => { c with askAt := some (k, true) }))

/-- Counts the global words that a chunk has written in the digests, each word once, however often the chunk was begun (15 R333). -/
def State.countChunk (s : State) (core : Nat) (c : Cmd) (bs : List (Chunk × Nat)) : State :=
  let key := fun (k : Nat) => bs.getD k ({}, 0)
  let all := placesOf bs (fun x => x.1.dspace = 0)
  let heads := all.filter (fun k => all.all (fun j => decide (k ≤ j) || decide (dstWord (key j) ≠ dstWord (key k))))
  heads.foldl (fun s k => s.countWrite core c.wave c.group ((key k).1.dst + (key k).2)
    ((placesOf bs (fun y => dstWord y = dstWord (key k))).map (fun j => ((c.moves.getD j (none, false)).1).getD 0))) s

/-- One access of a copy's chunk (10 R216; 12 R264): a chunk is opened once its checks pass; then its words are read and written, each when
its bytes are at hand, in a free order. A chunk's parts in a window of another device move whole, by a request. Chunks follow one another
in their order (log 71). -/
def State.moveChunk (s : State) (core : Nat) (c : Cmd) : State :=
  let ps := c.parts
  let bs := chunkBytes ps
  if c.moves = [] then
    match s.openChunk core c ps with
    | (some i, s) => s.suspend core c i
    | (none, s) => s.onCmd core c.id (fun c => { c with
        moves := bs.map (fun x => (x.1.fill.map (fun l => l.getD x.2 0), false)) })
  else match c.askAt, c.reply with
    | some (k, write), some l =>
      let part := partPlaces bs k
      let s := if write then s.countEngine core c.ctx (bs.getD k ({}, 0)).1.len else s
      s.onCmd core c.id (fun c => { c with
        askAt := none, reply := none,
        moves := if write then endMoves c.moves part else fillMoves c.moves (part.zip l) })
    | _, _ =>
      let next := nextMoves bs c.moves
      match next[Config.freeChoice s.free % next.length]? with
      | none => (s.countChunk core c bs).onCmd core c.id (fun x => x.pastParts ps)
      | some (k, write) =>
        let s := { s with free := s.free + 1 }
        if write then s.writeMove core c bs k else s.readMove core c bs k

/-! ## The start of commands (12 R251, R253) -/

/-- Whether a command runs on the engine's lines: a chain does not, its block commands do. -/
def Cmd.active (c : Cmd) : Bool := c.started && c.kind ≠ .chain

/-- Whether a received command may start: its record is read and its ranges are clear. -/
def Core.mayStart (k : Core) (c : Cmd) : Bool := !c.recordWait && k.clear c.seq c.ranges

/-- COPY_COMMAND_START (12 R251): in the order received, the held-back ones passed over, and at most eight at once. -/
def execCopyCommandStart (s : State) : Out := .next (
  match s.arg with
  | .at2 core id =>
    match s.cmd core id with
    | none => s
    | some c =>
      let k := s.core core
      if c.started || 8 ≤ (k.cmds.filter Cmd.active).length || !k.mayStart c ||
          k.cmds.any (fun x => !x.started && decide (x.seq < c.seq) && k.clear x.seq x.ranges) then s
      else s.onCmd core id (fun x => { x with started := true })
  | _ => s)

/-! ## Completion (12 R251, R255, R267) -/

/-- Removes a completed command and moves %cbdone (12 R250, R267). -/
def State.retireCmd (s : State) (core : Nat) (c : Cmd) : State :=
  let s := s.onCore core (fun k => { k with cmds := k.cmds.filter (fun x => decide (x.id ≠ c.id)) })
  match c.wave with
  | some k => (s.batchDone core k 256).tryRfence core k
  | none => s

/-- The arrivals of a command (12 R255). -/
def State.arriveAll (s : State) (l : List (Nat × Nat)) : State := l.foldl (fun s a => s.onBarrier a.1 a.2 Barrier.arrive) s

/-- Writes the status of a chain that has ended and completes its CBLK (12 R276). -/
def State.finishChain (s : State) (core : Nat) (c : Cmd) : State :=
  match c.chain.status, c.chain.statusAt with
  | some _, none => s.retireCmd core c
  | some st, some a =>
    if c.phase = 1 ∧ c.reply.isSome then (s.countEngine core c.ctx 8).retireCmd core c
    else
      let (r, s) := s.engineWrite core c a.toNat (leBytes 8 st)
      match r with
      | .bytes _ => (s.countEngine core c.ctx 8).retireCmd core c
      | r =>
        let s := s.onCmd core c.id (fun x => { x with phase := 1 })
        s.onMoved core c r (fun port off s => s.ask port 0x03 c.ctx (memArgs off 8) (leBytes 8 st) (c.req core))
  | none, _ => s

/-- Ends a chain with a status, which is written at once (12 R276). -/
def State.endChain (s : State) (core id st : Nat) : State :=
  let s := s.onCmd core id (fun x => { x with chain := { x.chain with waiting := none, status := some st }, phase := 0,
                                              reply := none, awaiting := false })
  match s.cmd core id with
  | some c => s.finishChain core c
  | none => s

/-- The array operation that a CPYMMA's copy ends with (12 R263). -/
def Cmd.toArray (c : Cmd) (m : CmdMma) : ArrayOp :=
  { seq := c.seq, wave := c.wave, group := c.group, kind := m.kind, x := m.x, ticket := some m.ticket, bAddr := m.bAddr,
    aAddr := m.aAddr, latched := !m.x.sa, aRegs := m.aRegs, scRegs := m.scRegs,
    ranges := copyMmaRanges c.group m.kind m.x m.bAddr m.aAddr }

/-- COPY_COMMAND_COMPLETE (12 R251): every write performed, the MMA of a CPYMMA in the array queue; then the arrivals. For a chain
that has ended, its status is written. -/
def execCopyCommandComplete (s : State) : Out := .next (
  match s.arg with
  | .at2 core id =>
    match s.cmd core id with
    | none => s
    | some c =>
      if c.suspended || c.awaiting || !c.started then s
      else if c.kind = .chain then s.finishChain core c
      else if c.row < c.rows.length then s
      else match c.mma with
        | some m =>
          if 32 ≤ (s.core core).array.length then s
          else ((s.onCore core (fun k => k.insertOp (c.toArray m))).retireCmd core c).arriveAll c.arrive
        | none => (s.retireCmd core c).arriveAll c.arrive
  | _ => s)

/-! ## Shape records (12 R260, R261) -/

/-- Reads the rest of a record, a line's worth of 64 bytes at a time. -/
def State.readRecord (s : State) (core : Nat) (c : Cmd) : Nat → List Byte → Moved × List Byte × State
  | 0, got => (.bytes [], got, s)
  | n + 1, got =>
    if 192 ≤ got.length then (.bytes [], got, s)
    else
      let (r, s) := s.engineRead core c (c.recAddr.toNat + got.length) 64
      match r with
      | .bytes l => State.readRecord s core c n (got ++ l)
      | r => (r, got, s)

/-- A record is at hand: the command runs, or it fails, and its wave stops or its chain ends (12 R260, R271). -/
def State.recordArrived (s : State) (core : Nat) (c : Cmd) (bs : List Byte) : State :=
  let words := (List.range 48).map (fun k => BitVec.ofNat 32 (leNat ((bs.drop (4 * k)).take 4)))
  let s := s.onCore core (fun k => k.cacheRecord { ctx := c.ctx, addr := c.recAddr, words := words })
  let r : Except StopCause Cmd := match Tensor.parse bs with
    | none => .error .illegalOperand
    | some t => match s.tensorPlace c.group t (BitVec.ofNat 32 c.spBase) with
      | .error e => .error e
      | .ok p => .ok (c.withTensor t p)
  match r with
  | .ok x =>
    let s := s.onCmd core c.id (fun _ => x)
    match c.wave with
    | some k => s.tryRfence core k
    | none => s
  | .error e =>
    let s := s.retireCmd core c
    match c.chainOf with
    | some k => s.endChain core k 2
    | none => match c.wave with
      | some k => s.takeStop core k c.split (engineFault e .engineRead c.recAddr) c.pc (engine := true)
      | none => s

/-- TENSOR_RECORD_ARRIVE (12 R260, R261). -/
def execTensorRecordArrive (s : State) : Out := .next (
  match s.arg with
  | .at2 core id =>
    match s.cmd core id with
    | none => s
    | some c =>
      if !c.recordWait || c.suspended || c.awaiting then s
      else if c.record ≠ [] then s.recordArrived core c (c.record.flatMap (fun x => leBytes 4 x.toNat))
      else
        let got := c.hold ++ c.reply.getD []
        let (r, got, s) := s.readRecord core c 3 got
        match r with
        | .bytes _ => s.recordArrived core c got
        | r =>
          let s := s.onCmd core id (fun x => { x with hold := got, reply := none })
          s.onMoved core c r (fun port off s => s.ask port 0x02 c.ctx (memArgs off 64) [] (c.req core))
  | _ => s)

end Sys2Proof.Machine
end

