-- ==== Sys2Proof/Machine/Block.lean ====
section
/-! DEFINITION. Command blocks (12 R269–R276): the chain, its commands, semaphores, reductions. -/

namespace Sys2Proof.Machine

/-! ## Blocks (12 R270) -/

/-- A little-endian field of a block. -/
def blockField (bs : List Byte) (o n : Nat) : Nat := leNat ((bs.drop o).take n)

/-- Whether the bytes of a block from `o` to `e` are 0. -/
def blockZero (bs : List Byte) (o e : Nat) : Bool := ((bs.drop o).take (e - o)).all (fun b => decide (b = 0))

/-- The header of a block; `none` when it is malformed. `own` is whether the command uses the barrier reference itself. -/
def blockHeader (bs : List Byte) (own : Bool) : Option BlockHeader :=
  let f := blockField bs 1 1
  let h : BlockHeader := { arv := f % 2 = 1, waitPrev := f / 2 % 2 = 1, ef := f / 4 % 2 = 1,
                           bref := BitVec.ofNat 16 (blockField bs 2 2) }
  if bs.length ≠ 64 ∨ 8 ≤ f ∨ blockZero bs 4 8 = false ∨ (!h.arv && !own && h.bref ≠ 0) = true then none else some h

/-- Whether every earlier command of a chain has started, and none is suspended: a fault of one suspends the chain (12 R270). -/
def Core.chainStarted (k : Core) (id : Nat) : Bool := k.cmds.all (fun c => c.chainOf ≠ some id || (c.started && !c.suspended))

/-- Whether every earlier command of a chain has completed. -/
def Core.chainIdle (k : Core) (id : Nat) : Bool :=
  k.cmds.all (fun c => decide (c.chainOf ≠ some id)) && k.array.all (fun o => decide (o.cmd ≠ some id))

/-- Whether a chain can take its next block. -/
def Cmd.takesBlock (c : Cmd) (k : Core) : Bool :=
  c.kind = .chain && !c.suspended && !c.awaiting && c.chain.waiting.isNone && c.chain.status.isNone && k.chainStarted c.id

/-- The commands that act as if WAITPREV were set: SEMSIG, BARARR, END. -/
def alwaysWaits (b : Nat) : Bool := b = 0x06 || b = 0x07 || b = 0x0A

/-- The chain goes on at a block. -/
def State.chainTo (s : State) (core id : Nat) (next : Dword) : State :=
  s.onCmd core id (fun x => { x with chain := { x.chain with next := next, waiting := none } })

/-- The chain goes on at the next block. -/
def State.chainOn (s : State) (core id : Nat) : State :=
  s.onCmd core id (fun x => { x with chain := { x.chain with next := x.chain.next + 64, waiting := none } })

/-- The arrivals that a header asks for; `none` when its reference fails. -/
def State.headerArrivals (s : State) (g : Nat) (h : BlockHeader) : Option (List (Nat × Nat)) :=
  if h.arv then (s.barrierRef g (h.bref.setWidth 32)).map (fun p => [p]) else some []

/-- Acts on a block command of kind `code`: `act` takes the chain, the block's bytes and its header, and answers `none` for a
malformed block, which ends the chain with status 2. -/
def State.onBlock (s : State) (code : Nat) (act : Nat → Cmd → List Byte → BlockHeader → Option State) : State :=
  match s.arg with
  | .block core id bs =>
    match s.cmd core id with
    | none => s
    | some c =>
      if !c.takesBlock (s.core core) || decide (blockField bs 0 1 ≠ code) then s
      else match blockHeader bs (code = 0x07) with
        | none => s.endChain core id 2
        | some h =>
          if (h.waitPrev || alwaysWaits code) && !(s.core core).chainIdle id then s
          else (act core c bs h).getD (s.endChain core id 2)
  | _ => s

/-- Places a block command behind the engine's others, once the scoreboard has room for it (R253), and moves the chain on. -/
def State.pushBlock (s : State) (core : Nat) (chain : Cmd) (r : Except FaultInfo Cmd) : Option State :=
  match r with
  | .error _ => none
  | .ok c =>
    if 32 < (s.core core).held.length + c.ranges.length then some s
    else some ((s.pushCmd core { c with wave := chain.wave, group := chain.group, ctx := chain.ctx, pc := chain.pc,
                                        split := chain.split, chainOf := some chain.id }).chainOn core chain.id)

/-- COPY (12 R271). -/
def execChainCopy (s : State) : Out := .next (
  s.onBlock 0x01 (fun core c bs h =>
    let sp := blockField bs 0x1C 4
    if 16 ≤ sp ∨ 2 ≤ sp % 4 ∨ 8 ≤ sp ∨ blockZero bs 0x20 64 = false then none
    else s.pushBlock core c (s.mkLinear c.group c.pc (BitVec.ofNat 64 (blockField bs 8 8)) (BitVec.ofNat 64 (blockField bs 16 8))
      (BitVec.ofNat 32 (blockField bs 24 4)) (s.headerArrivals c.group h) (sp % 4) (sp / 4))))

/-- TCOPY (12 R271): with a cached record, what a record decides is decided at once. -/
def execChainTcopy (s : State) : Out := .next (
  s.onBlock 0x02 (fun core c bs h =>
    let store := blockField bs 0x14 4
    if 2 ≤ store ∨ blockZero bs 0x28 64 = false then none
    else
      let coords := (List.range 4).map (fun k => BitVec.ofNat 32 (blockField bs (0x18 + 4 * k) 4))
      let r := match s.mkTensor c.group c.pc (BitVec.ofNat 64 (blockField bs 8 8)) (BitVec.ofNat 32 (blockField bs 16 4))
          (s.headerArrivals c.group h) (store = 1) coords with
        | .error i => .error i
        | .ok t => s.tensorAtIssue core c.ctx c.group t
      (s.pushBlock core c r).map (fun t => match r with
        | .ok t' => ({ t with free := t.free + 1 } : State).touchRecord core { t' with ctx := c.ctx }
        | .error _ => t)))

/-- MCAST (12 R271). -/
def execChainMcast (s : State) : Out := .next (
  s.onBlock 0x03 (fun core c bs h =>
    if blockZero bs 0x1C 64 = false then none
    else
      let w := fun o => BitVec.ofNat 32 (blockField bs o 4)
      let arv : Word := (if h.arv then 0x10000 else 0) ||| h.bref.setWidth 32
      s.pushBlock core c (s.mkMulticast c.group c.pc (BitVec.ofNat 64 (blockField bs 8 8)) (w 0x10) (w 0x14) (w 0x18) arv)))

/-- MMAC (12 R272): an MMA from scratchpad operands into the array queue, without a ticket. -/
def execChainMmac (s : State) : Out := .next (
  s.onBlock 0x04 (fun core c bs h =>
    let word : Dword := BitVec.ofNat 64 (blockField bs 8 8)
    let kind := opcOf word
    let x := fieldsX word
    let b : Word := BitVec.ofNat 32 (blockField bs 0x10 4)
    let a : Word := BitVec.ofNat 32 (blockField bs 0x14 4)
    if blockZero bs 0x18 64 = false ∨ (badCopyMma word false).isSome ∨ x.sa = false ∨ s.offers kind = false ∨
        s.accSize c.group < tileHi x then none
    else match s.arrayRegion c.group b (mmaBBytes kind x.n) 32, s.arrayRegion c.group a (mmaABytes kind) 1,
        s.headerArrivals c.group h with
      | .ok bo, .ok ao, some arrive =>
        let ranges := copyMmaRanges c.group kind x bo ao
        if 32 ≤ (s.core core).array.length ∨ 32 < (s.core core).held.length + ranges.length then some s
        else some ((s.enqueue core { wave := c.wave, group := c.group, kind := kind, x := x, bAddr := bo, aAddr := ao, cmd := some c.id,
                                     arrive := arrive, ranges := ranges }).chainOn core c.id)
      | _, _, _ => none))

/-! ## Semaphores (12 R273, R274) -/

end Sys2Proof.Machine

namespace Sys2Proof

/-- Whether a semaphore's word passes a test. -/
def SemTest.holds (t : SemTest) (x : Nat) : Bool :=
  let c := if t.wide then t.cmp.toNat else (loWord t.cmp).toNat
  match t.test.toNat with
  | 0 => decide (x = c)
  | 1 => decide (x ≠ c)
  | 2 => decide (c ≤ x)
  | _ => decide (x < c)

/-- The bytes of a semaphore's word. -/
def SemTest.bytes (t : SemTest) : Nat := if t.wide then 8 else 4

end Sys2Proof

namespace Sys2Proof.Machine

/-- A read of a semaphore's word and what follows from it (12 R273). -/
def State.semTry (s : State) (core : Nat) (c : Cmd) (t : SemTest) : State :=
  let n := t.bytes
  let (r, s) : Moved × State :=
    if t.space = 1 then match s.scratchPlace c.group (loWord t.addr) n with
      | some p => (.bytes (s.engineScratch p.1 p.2 n), { s with free := s.free + 8 })
      | none => (.bytes (List.replicate n 0), s)
    else match c.reply with
      | some l => (.bytes l, s)
      | none => s.engineRead core c t.addr.toNat n
  let s := s.onCmd core c.id (fun x => { x with reply := none, chain := { x.chain with waiting := some t } })
  match r with
  | .bytes l =>
    let x := leNat (l.take n)
    let on := (s.arriveAll c.arrive).onCmd core c.id (fun x => { x with arrive := [] })
    if x = 2 ^ (8 * n) - 1 then s.endChain core c.id 1
    else if t.holds x then (on.acquireAt core 5).chainOn core c.id
    else match t.onFail.toNat with
      | 0 => s.onCmd core c.id (fun y => { y with chain := { y.chain with
          retryAt := (s.core core).cycle.toNat + 64 } })
      | 1 => on.chainOn core c.id
      | _ => on.chainTo core c.id t.alt
  | r => s.onMoved core c r (fun port off s => s.ask port 0x02 c.ctx (memArgs off n) [] (c.req core))

/-- SEMWAIT (12 R273). -/
def execSemwait (s : State) : Out := .next (
  s.onBlock 0x05 (fun core c bs h =>
    let f := blockField bs 0x18 1
    let t : SemTest := { addr := BitVec.ofNat 64 (blockField bs 8 8), cmp := BitVec.ofNat 64 (blockField bs 16 8),
                         test := BitVec.ofNat 3 f, wide := f / 8 % 2 = 1, onFail := BitVec.ofNat 2 (f / 16),
                         space := BitVec.ofNat 2 (f / 64), alt := BitVec.ofNat 64 (blockField bs 0x20 8) }
    let ones := if t.wide then decide (t.cmp = BitVec.allOnes 64) else decide (loWord t.cmp = BitVec.allOnes 32)
    let place := if t.space = 1 then hiWord t.addr = 0 && (s.scratchPlace c.group (loWord t.addr) t.bytes).isSome
      else decide (t.addr.toNat < 2 ^ 56)
    let bad := blockField bs 0x19 7 ≠ 0 || !blockZero bs 0x28 64 || 4 ≤ t.test.toNat || t.onFail = 3 || 2 ≤ t.space.toNat ||
      (if t.onFail = 2 then decide (t.alt.toNat % 64 ≠ 0) else t.alt ≠ 0) || ones || !place ||
      decide (t.addr.toNat % t.bytes ≠ 0) || (!t.wide && hiWord t.cmp ≠ 0)
    if bad then none
    else (s.headerArrivals c.group h).map (fun arrive =>
      let s := s.onCmd core c.id (fun x => { x with arrive := arrive })
      match s.cmd core c.id with
      | some c => s.semTry core c t
      | none => s)))

/-- SEMWAIT_RETRY (12 R273): no sooner than 64 core cycles after the last read. -/
def execSemwaitRetry (s : State) : Out := .next (
  match s.arg with
  | .at2 core id =>
    match s.cmd core id with
    | none => s
    | some c => match c.chain.waiting with
      | none => s
      | some t =>
        if c.suspended || c.awaiting || decide ((s.core core).cycle.toNat < c.chain.retryAt) then s else s.semTry core c t
  | _ => s)

/-- SEMSIG (12 R274): a command of its own that stores or adds once. -/
def execSemsig (s : State) : Out := .next (
  s.onBlock 0x06 (fun core c bs h =>
    let f := blockField bs 0x18 1
    let addr : Dword := BitVec.ofNat 64 (blockField bs 8 8)
    let wide := f / 2 % 2 = 1
    let n := if wide then 8 else 4
    let space := f / 4 % 4
    if 16 ≤ f ∨ 2 ≤ space ∨ blockZero bs 0x19 64 = false ∨ addr.toNat % n ≠ 0 ∨
        (!wide && decide (2 ^ 32 ≤ blockField bs 16 8)) = true then none
    else match s.endPlace c.group space addr n, s.headerArrivals c.group h with
      | .ok p, some arrive =>
        if space = 0 ∧ 2 ^ 56 ≤ addr.toNat then none
        else s.pushBlock core c (.ok
          { kind := .signal, arrive := arrive, signal := some (f % 2 = 1, wide, BitVec.ofNat 64 (blockField bs 16 8)),
            rows := [{ dspace := space, dst := p.2, dgrps := [p.1], len := n }] })
      | _, _ => none))

/-- BARARR (12 R274): an arrival on the header's reference. -/
def execBararr (s : State) : Out := .next (
  s.onBlock 0x07 (fun core c bs h =>
    if blockZero bs 8 64 = false then none
    else (s.barrierRef c.group (h.bref.setWidth 32)).map (fun p =>
      (s.onBarrier p.1 p.2 Barrier.arrive).chainOn core c.id)))

/-! ## Reductions (12 R275) -/

/-- The bytes that one step of a reduction updates. -/
def reduceUnit (r : ReduceArgs) : Nat := if r.type = 4 then 8 else 4

/-- What a step leaves of a destination word. -/
def reduceWord (r : ReduceArgs) (old src : Nat) : Nat :=
  let a := BitVec.ofNat 32 old
  let b := BitVec.ofNat 32 src
  let isMax := decide (r.op = 2)
  match r.type.toNat with
  | 0 => (if r.op = 0 then a + b else atomInt (if isMax then .max else .min) a b 0).toNat
  | 1 => (if r.op = 0 then a + b else atomInt (if isMax then .maxn else .minn) a b 0).toNat
  | 2 => (if r.op = 0 then f32Op2 Val.add .rne a b else f32Extremum isMax a b).toNat
  | 3 => (if r.op = 0 then packedAdd .bf16 .rne a b else packedExtremum isMax a b).toNat
  | _ =>
    let a := BitVec.ofNat 64 old
    let b := BitVec.ofNat 64 src
    (if r.op = 0 then f64Op2 Val.add .rne a b else f64Extremum isMax a b).toNat

/-- The atomic operation that makes a step at the far end of a window; without one, a compare-and-swap does. -/
def reduceAtom (r : ReduceArgs) : Option AtomOp :=
  match r.type.toNat, r.op.toNat with
  | 0, 0 | 1, 0 => some .add
  | 0, 1 => some .min
  | 0, _ => some .max
  | 1, 1 => some .minn
  | 1, _ => some .maxn
  | 2, 0 | 4, 0 => some .fadd
  | 3, 0 => some .fadd2b
  | _, _ => none

/-- REDUCE (12 R275). -/
def execReduce (s : State) : Out := .next (
  s.onBlock 0x08 (fun core c bs h =>
    let f := blockField bs 0x1C 4
    let r : ReduceArgs := { src := BitVec.ofNat 64 (blockField bs 8 8), dst := BitVec.ofNat 64 (blockField bs 16 8),
                            count := BitVec.ofNat 32 (blockField bs 24 4), type := BitVec.ofNat 4 f,
                            op := BitVec.ofNat 4 (f / 16), sspace := BitVec.ofNat 2 (f / 256),
                            dspace := BitVec.ofNat 2 (f / 1024) }
    let n := r.count.toNat
    let unit := reduceUnit r
    let len := if r.type = 3 then 2 * n else unit * n
    if 4096 ≤ f ∨ blockZero bs 0x20 64 = false ∨ 5 ≤ r.type.toNat ∨ 3 ≤ r.op.toNat ∨ 2 ≤ r.sspace.toNat ∨ 2 ≤ r.dspace.toNat ∨
        n = 0 ∨ 2 ^ 22 < n ∨ (r.type = 3 ∧ n % 2 = 1) then none
    else match s.endPlace c.group r.sspace.toNat r.src len, s.endPlace c.group r.dspace.toNat r.dst len,
        addressFault unit [(r.sspace.toNat, false, r.src), (r.dspace.toNat, true, r.dst)], s.headerArrivals c.group h with
      | .ok p, .ok q, none, some arrive => s.pushBlock core c (.ok
          { kind := .reduce, arrive := arrive, reduceArgs := some r,
            rows := [{ sspace := r.sspace.toNat, src := p.2, sgrp := p.1, dspace := r.dspace.toNat, dst := q.2, dgrps := [q.1],
                       len := len }],
            ranges := (if r.sspace = 1 then ownRange c.group p len 0 else []) ++
              (if r.dspace = 1 then ownRange c.group q len 2 else []) })
      | _, _, _, _ => none))

/-- An update of n bytes at a destination in one step: in scratchpad, at a global address's home, or in a window, where `ask` sends
the requests. A shadow run makes none. -/
def State.updateAt (s : State) (core : Nat) (c : Cmd) (p : Chunk) (f : Nat → Nat) (ask : Nat → Nat → State → State) : State :=
  let n := p.len
  let finish := fun (s : State) => (s.countEngine core c.ctx n).onCmd core c.id (fun x => x.pastParts [p])
  if p.dspace = 1 then
    let old := s.engineScratch (p.dgrps.headD 0) p.dst n
    finish ({ s with free := s.free + 8 }.storeScratch (p.dgrps.headD 0) p.dst (leBytes n (f (leNat old))))
  else if s.shadowOf c.group then s.invalidReplay c.group
  else
    let (r, s) := s.checkFill core c.ctx (BitVec.ofNat 64 p.dst) 1 .engineWrite { read := true, write := true }
    match r with
    | .error i => s.suspend core c i
    | .ok (pa, _) => match windowOf pa with
      | some (port, off) => ask port off s
      | none =>
        if s.poisoned pa n then s.suspend core c (engineFault .poisonLoad .engineRead (BitVec.ofNat 64 p.dst))
        else
          let s := s.drainAt core pa n
          finish (s.unitPut core 0 pa (leBytes n (f (leNat (s.bytes pa n)))))

/-- One step of a REDUCE. In a window, an operation that no atomic makes takes a read and then compare-and-swaps until one
succeeds. -/
def State.reduceStep (s : State) (core : Nat) (c : Cmd) (r : ReduceArgs) : State :=
  let n := reduceUnit r
  let wide := decide (n = 8)
  let p := (c.rows.getD c.row {}).part c.off n
  let wait := fun (s : State) (ph : Nat) (hold : List Byte) =>
    s.onCmd core c.id (fun x => { x with phase := ph, hold := hold, reply := none, awaiting := true })
  let cas := fun (port off : Nat) (src old : Nat) (s : State) =>
    wait (s.ask port 0x05 c.ctx (atomArgs off (atomOpc .cas wide) (old + 2 ^ (8 * n) * reduceWord r old src)) [] (c.req core)) 3
      (leBytes n src ++ leBytes n old)
  let after := fun (s : State) => (s.countEngine core c.ctx n).onCmd core c.id (fun x => x.pastParts [p])
  if c.phase = 1 ∧ c.reply.isSome then after s
  else
    let (got, s) : Except (Moved × Nat) (List Byte) × State :=
      if 2 ≤ c.phase then (.ok (c.hold.take n), s)
      else match s.readParts core c c.fetched [p] with
        | (.ok ls, s) => (.ok ls.flatten, s)
        | (.error e, s) => (.error e, s)
    match got with
    | .error (e, m) => s.onMoved core c e (fun port off s => s.ask port 0x02 c.ctx (memArgs off m) [] (c.req core))
    | .ok bs =>
      let src := leNat bs
      s.updateAt core c p (fun old => reduceWord r old src) (fun port off s =>
        match reduceAtom r with
        | some o => wait (s.ask port 0x05 c.ctx (atomArgs off (atomOpc o wide) src) [] (c.req core)) 1 bs
        | none => match c.phase, c.reply with
          | 2, some l => cas port off src (leNat (l.take n)) s
          | 3, some l =>
            if l.take n = c.hold.drop n then after s else cas port off src (leNat (l.take n)) s
          | _, _ => wait (s.ask port 0x02 c.ctx (memArgs off n) [] (c.req core)) 2 bs)

/-- The one step of a SEMSIG. -/
def State.signalStep (s : State) (core : Nat) (c : Cmd) (add wide : Bool) (v : Dword) : State :=
  let p := c.rows.getD 0 {}
  let n := if wide then 8 else 4
  if c.phase = 1 ∧ c.reply.isSome then (s.countEngine core c.ctx n).onCmd core c.id (fun x => x.pastParts [p])
  else if add then
    s.updateAt core c p (fun old => atomNew .add wide old v.toNat) (fun port off s =>
      (s.ask port 0x05 c.ctx (atomArgs off (atomOpc .add wide) v.toNat) [] (c.req core)).onCmd core c.id
        (fun x => { x with phase := 1, awaiting := true, reply := none }))
  else if p.dspace = 1 then
    ((s.storeScratch (p.dgrps.headD 0) p.dst (leBytes n v.toNat)).countEngine core c.ctx n).onCmd core c.id (fun x => x.pastParts [p])
  else
    let (r, s) := s.engineWrite core c p.dst (leBytes n v.toNat)
    match r with
    | .bytes _ => (s.countEngine core c.ctx n).onCmd core c.id (fun x => x.pastParts [p])
    | r =>
      let s := s.onCmd core c.id (fun x => { x with phase := 1 })
      s.onMoved core c r (fun port off s => s.ask port 0x03 c.ctx (memArgs off n) (leBytes n v.toNat) (c.req core))

/-- COPY_CHUNK (12 R264, R274, R275). -/
def execCopyChunk (s : State) : Out := .next (
  match s.arg with
  | .at2 core id =>
    match s.cmd core id with
    | none => s
    | some c =>
      if !c.active || c.suspended || c.awaiting || c.recordWait || decide (c.rows.length ≤ c.row) then s
      else match c.reduceArgs, c.signal with
        | some r, _ => s.reduceStep core c r
        | none, some (add, wide, v) => s.signalStep core c add wide v
        | none, none => s.moveChunk core c
  | _ => s)

/-! ## Links and ends (12 R276) -/

/-- LINK (12 R276). -/
def execChainLink (s : State) : Out := .next (
  s.onBlock 0x09 (fun core c bs h =>
    let next : Dword := BitVec.ofNat 64 (blockField bs 8 8)
    if blockZero bs 16 64 = false ∨ next.toNat % 64 ≠ 0 then none
    else (s.headerArrivals c.group h).map (fun arrive => (s.arriveAll arrive).chainTo core c.id next)))

/-- END (12 R276): status 0, and the arrivals that its header asks for. -/
def execChainEnd (s : State) : Out := .next (
  s.onBlock 0x0A (fun core c bs h =>
    if blockZero bs 8 64 = false then none
    else (s.headerArrivals c.group h).map (fun arrive => (s.endChain core c.id 0).arriveAll arrive)))

/-! ## Fetching a block (12 R270) -/

/-- The constructor of a block's command byte. -/
def blockInstr (b : Nat) : Option Instr :=
  match b with
  | 0x01 => some .chainCopy | 0x02 => some .chainTcopy | 0x03 => some .chainMcast | 0x04 => some .chainMmac
  | 0x05 => some .semwait | 0x06 => some .semsig | 0x07 => some .bararr | 0x08 => some .reduce | 0x09 => some .chainLink
  | 0x0A => some .chainEnd | _ => none

/-- A chain's turn: its next block is read, and gives the command to carry out, which the state's argument holds. A reserved
command ends the chain with status 2. -/
def State.chainTurn (s : State) (core id : Nat) : Option Instr × State :=
  match s.cmd core id with
  | none => (none, s)
  | some c =>
    if !c.takesBlock (s.core core) then (none, s)
    else
      let (r, s) : Moved × State := match c.reply with
        | some l => (.bytes l, s)
        | none => if 2 ^ 56 ≤ c.chain.next.toNat then
            (.fault (engineFault .pageProtection .engineRead c.chain.next), s)
          else s.engineRead core c c.chain.next.toNat 64
      match r with
      | .bytes bs =>
        let s := s.onCmd core id (fun x => { x with reply := none })
        match blockInstr (blockField bs 0 1) with
        | none => (none, s.endChain core id 2)
        | some i => (some i, { s with arg := .block core id bs })
      | r => (none, s.onMoved core c r (fun port off s => s.ask port 0x02 c.ctx (memArgs off 64) [] (c.req core)))

end Sys2Proof.Machine
end

