-- ==== Sys2Proof/Machine/Unit.lean ====
section
/-! DEFINITION. Units that read and write memory word by word (10 R214, R216; 17 R393; 18 R406): the words read so far, accesses to CSRs and to
windows of other devices and their answers (19 R414), and the reads of records, templates and code objects (02 R57; 13 R292, R293). -/

namespace Sys2Proof.Machine

/-! ## Who reads -/

/-- What a reader has read. -/
def State.readsOf (s : State) : Reader → Reads
  | .split c i k => (((s.wave c i).bind (fun w => w.split k)).map (fun sp => sp.reads)).getD {}
  | .query c i l => (((s.wave c i).bind (fun w => Table.get noneAt w.queries l)).map (fun q => q.reads)).getD {}
  | .task d x => (((Table.get nilAt (s.die d).tasks x).head?).map (fun t => t.reads)).getD {}
  | .code n => ((s.launch n).map (fun l => l.reads)).getD {}
  | .bin d k => ((s.passAt d k).map (fun p => p.reads)).getD {}
  | .tile d k c => (((s.passAt d k).bind (fun p => Table.get noneAt p.jobs c)).map (fun j => j.reads)).getD {}

/-- Changes what a reader has read. -/
def State.onReads (s : State) (r : Reader) (f : Reads → Reads) : State :=
  let query := fun (q : Option Query) => q.map (fun q => { q with reads := f q.reads })
  let head := fun (l : List Task) => match l with
    | t :: ts => { t with reads := f t.reads } :: ts
    | [] => []
  let job := fun (j : Option TileJob) => j.map (fun j => { j with reads := f j.reads })
  match r with
  | .split c i k => s.onWave c i (fun w => w.onSplit k (fun sp => { sp with reads := f sp.reads }))
  | .query c i l => s.onWave c i (fun w => { w with queries := Table.update noneAt w.queries l query })
  | .task d x => s.onDie d (fun k => { k with tasks := Table.update nilAt k.tasks x head })
  | .code n => s.onLaunch n (fun l => { l with reads := f l.reads })
  | .bin d k => s.onPass d k (fun p => { p with reads := f p.reads })
  | .tile d k c => s.onPass d k (fun p => { p with jobs := Table.update noneAt p.jobs c job })

/-- The kind of a reader's accesses in a fault record (09 R213; 17 R393; 18 R406). -/
def Reader.kind (r : Reader) (write : Bool) : AccKind :=
  match r with
  | .query .. => .ray
  | .bin .. | .tile .. => if write then .engineWrite else .engineRead
  | _ => .load

/-- The core whose translations a reader uses; the binning unit has none. -/
def Reader.core (r : Reader) (core : Nat) : Option Nat :=
  match r with
  | .bin .. => none
  | _ => some core

/-- What keeps an access of a unit from going on: a failed check, or a wait. -/
inductive UnitStop where
  | fault (i : FaultInfo)
  | wait
  deriving DecidableEq, Repr

/-! ## CSRs, and windows of other devices -/

/-- The answer to a reader's access, which may have been dropped with the reader: data, the end of a write, or a failure. -/
def State.readerAnswer (s : State) (r : Reader) (va n : Nat) (ok : Bool) (bs : List Byte) : State :=
  s.onReads r (fun q =>
    if q.asked ≠ some va then q
    else if !ok then { q with asked := none, failed := some va }
    else if n = 0 then { q with asked := none, wrote := true }
    else { q with asked := none, words := Table.set noneAt q.words va (some (BitVec.ofNat 32 (leNat bs))) })

/-- An access of a reader to a CSR or a window that waits for its answer, or that failed there. A CSR answers in a turn of its own. -/
def State.farStop (s : State) (r : Reader) (ctx : Nat) (write : Bool) (va pa n : Nat) (data : List Byte) : UnitStop × State :=
  let q := s.readsOf r
  if q.failed = some va then
    (.fault { cause := .pageProtection, kind := r.kind write, addr := BitVec.ofNat 64 va }, s.onReads r (fun q => { q with failed := none }))
  else if q.asked.isSome then (.wait, s)
  else
    let s := s.onReads r (fun q => { q with asked := some va, failed := none })
    match placeOf pa, windowOf pa with
    | .csr space a, _ => (.wait, { s with agenda := s.agenda ++ [.unitCsr r ctx va space a n data] })
    | _, some (port, off) =>
      (.wait, s.ask port (if write then 0x03 else 0x02) ctx (memArgs off n) data { core := 69, va := BitVec.ofNat 64 va, reader := some r })
    | _, none => (.wait, s)

/-- The checks of 09 R199 on an access of a reader, from a core or from none. -/
def State.readerCheck (s : State) (r : Reader) (core ctx : Nat) (va : Dword) (n : Nat) (write : Bool) :
    Except FaultInfo (Nat × TlbEntry) × State :=
  let want : Want := { read := !write, write := write, plain := true }
  match r.core core with
  | some c => s.checkFill c ctx va n (r.kind write) want
  | none => ((s.hubCheck ctx va n want).mapError (fun e => { e with kind := r.kind write }), s)

/-! ## Reads -/

/-- Reads n words from an address on for a reader of a core, each with the checks of R199; words in windows of other devices are asked for one
by one. -/
def State.readWords (s : State) (r : Reader) (core ctx : Nat) (va : Dword) : Nat → Except UnitStop (List Byte) × State
  | 0 => (.ok [], s)
  | n + 1 =>
    match State.readWords s r core ctx va n with
    | (.error e, s) => (.error e, s)
    | (.ok l, s) =>
      let a := va + BitVec.ofNat 64 (4 * n)
      match Table.get noneAt (s.readsOf r).words a.toNat with
      | some x => (.ok (l ++ leBytes 4 x.toNat), s)
      | none =>
        match s.readerCheck r core ctx a 4 false with
        | (.error e, s) => (.error (.fault e), s)
        | (.ok (pa, _), s) =>
          if placeOf pa ≠ .memory then
            let (e, s) := s.farStop r ctx false a.toNat pa 4 []
            (.error e, s)
          else if s.poisoned pa 4 then (.error (.fault { cause := .poisonLoad, kind := r.kind false, addr := a }), s)
          else (.ok (l ++ s.bytes pa 4), s)

/-- What a unit of a core finds of a word of module memory by a read that is strong at group scope (10 R231): the bytes that its core holds,
where it holds them, or those at their home under the stores that the core sees, which its L1 then holds; poison where it meets it. The k-th
draw chooses. -/
def State.unitWord (s : State) (core ctx k pa attr : Nat) : Option (List Byte) × State :=
  let near := if attr = 2 then Near.none else s.nearBytes core 0 ctx 2 pa 4
  match near with
  | .poison => (none, s)
  | .bytes l =>
    if Config.freeChoice k % 2 = 0 then (some l, s.touchL1 core ctx pa)
    else if s.poisoned pa 4 then (none, s) else (some (s.coreBytes core pa 4), s)
  | .none =>
    if s.poisoned pa 4 then (none, s)
    else (some (s.coreBytes core pa 4), if attr = 0 then s.fillL1 core ctx pa false else s)

/-- What a reader finds of a word of module memory: the binning unit, which is at no core, what its home holds. -/
def State.readerWord (s : State) (r : Reader) (core ctx k pa attr : Nat) : Option (List Byte) × State :=
  match r.core core with
  | some c => s.unitWord c ctx k pa attr
  | none => (if s.poisoned pa 4 then none else some (s.bytes pa 4), s)

/-- The replay that a reader reads for, if any: it may reach no window of another device (15 R326, R337). -/
def State.shadowReader (s : State) : Reader → Option Nat
  | .query c i _ => (s.wave c i).bind (fun w => if s.shadowOf w.group then some w.group else none)
  | _ => none

/-- One read of a reader, of the k-th of the words that it still needs, as the draw chooses (10 R216): a stop, or nothing. -/
def State.readNext (s : State) (r : Reader) (core ctx : Nat) (need : List Nat) : Option FaultInfo × State :=
  let k := s.free
  let s := { s with free := s.free + 1 }
  let va := need.getD (Config.freeChoice k % need.length) 0
  let keep := fun (x : Word) (s : State) => s.onReads r (fun q => { q with words := Table.set noneAt q.words va (some x) })
  match s.readerCheck r core ctx (BitVec.ofNat 64 va) 4 false with
  | (.error e, s) => (some e, s)
  | (.ok (pa, e), s) =>
    if placeOf pa = .memory then match s.readerWord r core ctx s.free pa (cacheAttr e.attr e.dev pa) with
      | (some bs, s) => (none, { keep (BitVec.ofNat 32 (leNat bs)) s with free := s.free + 1 })
      | (none, s) => (some { cause := .poisonLoad, kind := r.kind false, addr := BitVec.ofNat 64 va }, s)
    else match (if (windowOf pa).isSome then s.shadowReader r else none) with
      | some g => (none, s.invalidReplay g)
      | none => match s.farStop r ctx false va pa 4 [] with
        | (.fault e, s) => (some e, s)
        | (.wait, s) => (none, s)

/-- A word that a reader has read, or its address. -/
def Reads.word (q : Reads) (a : Nat) : Except Nat Word :=
  match Table.get noneAt q.words a with
  | some x => .ok x
  | none => .error a

/-- Eight bytes that a reader has read. -/
def Reads.dword (q : Reads) (a : Nat) : Except Nat Dword := do
  let lo ← q.word a
  let hi ← q.word (a + 4)
  pure (pairOf lo hi)

/-! ## Writes -/

/-- A write of a unit, at a place of module memory. -/
def State.unitStore (s : State) (r : Reader) (pa : Nat) (bs : List Byte) : State :=
  match r with
  | .tile _ _ core => s.unitPut core 3 pa bs
  | .bin d _ => s.writeHome (.bin d) [] pa bs
  | _ => s

/-- Makes one write of a binning unit or a tile engine. One to a CSR or a window is made once that has answered. -/
def State.unitWrite (s : State) (r : Reader) (core ctx : Nat) (x : UnitWrite) : Option UnitStop × State :=
  if (s.readsOf r).wrote then (none, s.onReads r (fun q => { q with wrote := false, words := Table.set noneAt q.words x.addr none }))
  else match s.readerCheck r core ctx (BitVec.ofNat 64 x.addr) x.n true with
    | (.error e, s) => (some (.fault e), s)
    | (.ok (pa, _), s) =>
      if placeOf pa = .memory then
        (none, s.unitStore r pa (leBytes x.n (if x.setBits then Nat.lor (leNat (s.bytes pa x.n)) x.value else x.value)))
      else
        let (e, s) := match x.setBits, Table.get noneAt (s.readsOf r).words x.addr with
          | true, none => s.farStop r ctx false x.addr pa x.n []
          | true, some old => s.farStop r ctx true x.addr pa x.n (leBytes x.n (Nat.lor old.toNat x.value))
          | false, _ => s.farStop r ctx true x.addr pa x.n (leBytes x.n x.value)
        (some e, s)

/-- Makes writes in order, until one stops: what is left, and what stopped it. -/
def State.unitWrites (s : State) (r : Reader) (core ctx : Nat) : List UnitWrite → List UnitWrite × Option UnitStop × State
  | [] => ([], none, s)
  | x :: xs => match s.unitWrite r core ctx x with
    | (none, s) => State.unitWrites s r core ctx xs
    | (some e, s) => (x :: xs, some e, s)

end Sys2Proof.Machine
end

