-- ==== Sys2Proof/Machine/Intake.lean ====
section
/-! DEFINITION. Launch intake (13 R277–R281, R293), code objects (02 R56, R57), wait words, completion. -/

namespace Sys2Proof.Machine

/-! ## Seats (04 R84) -/

/-- A place in the issue slots: slot, first quad slice, quads. -/
structure Seat where
  slot : Nat
  base : Nat
  quads : Nat
  deriving DecidableEq, Repr

/-- Whether each of q slices from b on has a free one of its 16 quad contexts. -/
def seatFree (occ : List Seat) (slot b q : Nat) : Bool :=
  (List.range q).all (fun j => (occ.filter (fun o =>
    decide (o.slot = slot) && o.base ≤ b + j && b + j < o.base + o.quads)).length < 16)

/-- The lowest slot, and in it the lowest multiple of q, at which q slices are free. -/
def findSeat (occ : List Seat) (q : Nat) : Option Seat :=
  (List.range 8).findSome? (fun slot =>
    (((List.range (16 / q)).map (· * q)).find? (fun b => seatFree occ slot b q)).map (fun b =>
      { slot := slot, base := b, quads := q }))

/-- Seats for n waves of q quads. -/
def findSeats (q : Nat) : Nat → List Seat → Option (List Seat)
  | 0, _ => some []
  | n + 1, occ =>
    match findSeat occ q with
    | none => none
    | some x => (findSeats q n (occ ++ [x])).map (x :: ·)

/-- The places of a register bank that seats need, at `v` a quad. -/
def bankNeed (seats : List Seat) (v bank : Nat) : Nat :=
  (seats.filter (fun x => x.base ≤ bank && bank < x.base + x.quads)).length * v

/-! ## Fields of a record -/

/-- Vr. -/
def Launch.vres (l : Launch) : Nat := field (l.w 9) 8 0

/-- Vm. -/
def Launch.vmax (l : Launch) : Nat := field (l.w 9) 17 9

/-- Sr. -/
def Launch.sres (l : Launch) : Nat := field (l.w 10) 10 0

/-- Sm. -/
def Launch.smax (l : Launch) : Nat := field (l.w 10) 21 11

/-- Scratchpad granules of 1 KiB (08 R173). -/
def Launch.granules (l : Launch) : Nat := ((l.w 11).toNat + 1023) / 1024

/-- Accumulator KiB (11 R234). -/
def Launch.acc (l : Launch) : Nat := (l.w 12).toNat

/-- The barrier count. -/
def Launch.bars (l : Launch) : Nat := field (l.w 13) 10 0

/-- REG of a partition word (05 R114). -/
def partReg (p : Word) : Nat := field p 6 0

/-- SCR of a partition word. -/
def partScr (p : Word) : Nat := field p 13 7

/-- ACC of a partition word. -/
def partAcc (p : Word) : Nat := field p 20 14

/-- SPILL of a partition word. -/
def partSpill (p : Word) : Nat := field p 27 21

/-- The spill slots of a wave in bytes (05 R121). -/
def spillNeed (width vm vr sm sr : Nat) : Nat := (vm - vr) * (width / 4) * 16 + ((sm + 3) / 4 - (sr + 3) / 4) * 16

/-- Whether a partition word obeys R115. -/
def partOk (p : Word) : Bool :=
  partReg p + partScr p + partAcc p = 96 && 32 ≤ partReg p && partReg p ≤ 96 && partScr p ≤ 32 && partAcc p ≤ 32 &&
    partSpill p ≤ 32 && field p 31 28 = 0

/-- Whether a group of a launch fits an empty core under its own partition word (13 R278). -/
def Launch.fitsEmpty (l : Launch) : Bool :=
  let p := l.w 14
  match findSeats (l.width / 4) l.nwaves [] with
  | none => false
  | some seats =>
    (List.range 16).all (fun b => decide (bankNeed seats l.vres b ≤ partReg p * 240)) &&
      l.nwaves * ((l.sres + 3) / 4) ≤ partReg p * 256 &&
      l.nwaves * spillNeed l.width l.vmax l.vres l.smax l.sres ≤ partSpill p * 16384 &&
      l.granules ≤ partScr p * 64 && l.acc ≤ partAcc p * 64

/-- Whether the fields of a record keep to R277 and the rules it names (13 R278 status 1), features apart. -/
def Launch.fieldsOk (l : Launch) : Bool :=
  let w := l.w
  let lw := field (w 5) 2 0
  field (w 0) 15 0 = 0x4C41 && l.klass ≤ 3 && l.prio ≤ 7 && field (w 1) 31 8 = 0 && (l.pair 2).toNat % 4096 = 0 &&
    (w 4).toNat % 8 = 0 && field (w 5) 31 20 = 0 && field (w 5) 7 3 = 0 && 1 ≤ l.csize && l.csize ≤ 4 && 1 ≤ l.nwaves &&
    l.nwaves ≤ 16 && 2 ≤ lw && lw ≤ 6 && w 6 ≠ 0 && w 7 ≠ 0 && w 8 ≠ 0 && l.groups ≤ 2 ^ 32 &&
    field (w 9) 31 18 = 0 && field (w 10) 31 22 = 0 && l.vres ≤ l.vmax && l.vmax ≤ 256 && l.sres ≤ l.smax &&
    l.smax ≤ 1024 && !(l.vres = 0 && 0 < l.vmax) && !(l.sres = 0 && 0 < l.smax) && (w 11).toNat ≤ 2 ^ 21 &&
    l.granules ≤ partScr (w 14) * 64 && l.acc ≤ 2048 && l.acc ≤ partAcc (w 14) * 64 && field (w 13) 31 11 = 0 &&
    l.bars ≤ 1024 && partOk (w 14) && field (w 15) 31 16 = 0 && field (w 15) 7 4 = 0 && field (w 15) 3 0 ≤ 3 &&
    (l.pair 18).toNat % 8 = 0 && (l.pair 22).toNat % 8 = 0 && (l.pair 26).toNat % 65536 = 0 && (w 28).toNat % 16 = 0 &&
    decide ((l.pair 26).toNat + 32768 * privSlot (w 28).toNat l.width ≤ 2 ^ 56) &&
    field (w 29) 31 8 = 0 && field (w 29) 3 0 ≤ 2 && field (w 29) 7 4 ≤ 2 && field (w 44) 31 4 = 0 && field (w 44) 3 0 ≠ 0 &&
    w 45 = 0 && w 46 = 0 && w 47 = 0 && (l.flag 5 == decide (1 < l.csize)) && (w 6).toNat % l.csize = 0 &&
    (l.flag 2 || w 29 = 0)

/-- Whether a record is bad for intake: its fields, a group that fits no empty core, or a feature that is not enabled (13 R278,
19 R415). -/
def State.badRecord (s : State) (l : Launch) : Bool :=
  l.words.length ≠ 48 || !l.fieldsOk || !l.fitsEmpty || (l.flag 2 && !s.feature 2) || (l.flag 4 && !s.feature 3)

/-- Whether a record asks for what its context may not (13 R278 status 3). -/
def State.deniedRecord (s : State) (l : Launch) : Bool :=
  let sched := s.csrAt 4 (0x3400 + 0x10 * l.ctx)
  (l.flag 1 && l.ctx ≠ 0 && !sched.getLsbD 8) || (l.flag 6 && !sched.getLsbD 9)

/-! ## Intake (13 R279) -/

/-- Accepted launches that are not yet complete, of a context or of all. -/
def State.pendingLaunches (s : State) (p : Launch → Bool) : Nat :=
  (s.launches.filter (fun e => match e.2 with
    | some l => l.kind = .plain && l.stage ≠ .finished && p l
    | none => false)).length

/-- A wait word of CSRs, which answer word by word in turns of their own (13 R280; 19 R419). -/
def State.waitCsr (s : State) (n : Nat) (l : Launch) (pa : Nat) : State :=
  let r : Reader := .code n
  let va := (l.pair 18).toNat
  match Table.get noneAt l.reads.words va, Table.get noneAt l.reads.words (va + 4) with
  | some lo, some hi => s.onLaunch n (fun l => { l with
      reads := {}, stage := if l.pair 20 ≤ pairOf lo hi then .ready else l.stage })
  | none, _ => (s.farStop r l.ctx false va pa 4 []).2
  | _, none => (s.farStop r l.ctx false (va + 4) (pa + 4) 4 []).2

/-- Reads a waiting launch's wait word (13 R280): ready at a value at or above WAITVAL, status 7 at a fault. A word in a window of
another device is asked for. -/
def State.waitRead (s : State) (n : Nat) : State :=
  match s.launch n with
  | none => s
  | some l =>
    let ends := (s.complete l.port l.ctx l.tag l.launchid 7 false).onLaunch n (fun l => { l with stage := .finished })
    if l.stage ≠ .waiting then s
    else match s.hubCheck l.ctx (l.pair 18) 8 { read := true, plain := true } with
      | .error _ => ends
      | .ok (pa, _) => match placeOf pa, windowOf pa with
        | .memory, _ =>
          if s.poisoned pa 8 then ends
          else if l.pair 20 ≤ s.dwordAt pa then s.onLaunch n (fun l => { l with stage := .ready })
          else s
        | .csr _ _, _ => s.waitCsr n l pa
        | _, some (port, off) =>
          if l.asked then s
          else (s.ask port 0x02 l.ctx (memArgs off 8) [] { core := 64, op := n }).onLaunch n (fun l => { l with asked := true })
        | _, none => s

/-- Offers a record to intake (13 R278, R279): the status and the state; an accepted launch (status 0) takes the next number and
%launchid. -/
def State.intake (s : State) (l : Launch) : Nat × State :=
  if s.stage = 0 then (1, s)
  else if 4096 ≤ s.pendingLaunches (fun _ => true) ∨ 512 ≤ s.pendingLaunches (fun x => decide (x.ctx = l.ctx)) then (6, s)
  else if s.badRecord l then (1, s)
  else if s.deniedRecord l then (3, s)
  else
    let n := s.nextLaunch
    let l : Launch := { l with launchid := s.nextLaunchid, age := s.nextOrder, stage := if l.pair 18 = 0 then .ready else .waiting }
    let s := { s with launches := Table.set noneAt s.launches n (some l), nextLaunch := n + 1,
                      nextLaunchid := s.nextLaunchid + 1, nextOrder := s.nextOrder + 1 }
    (0, s.waitRead n)

/-- The words of a record from its bytes. -/
def recordWords (bs : List Byte) : List Word := (List.range 48).map (fun k => BitVec.ofNat 32 (leNat ((bs.drop (4 * k)).take 4)))

/-- LAUNCH_MSG (13 R278, R279; 19 R411, R412): a launch message is accepted, or rejected with a COMPLETE. A malformed message is
a bad record; one on a peer port is dropped and counted. -/
def execLaunchMsg (s : State) : Out := .next (
  match s.arg with
  | .message port m =>
    if 2 ≤ port ∨ m.type ≠ 0x01 then s.linkErr
    else
      let l : Launch := { ctx := m.ctx.toNat, port := some port, tag := m.tag, words := recordWords m.payload }
      let l : Launch := if m.len = 6 ∧ m.args = 0 ∧ m.zero = 0 ∧ m.payload.length = 192 then l else { l with words := [] }
      match s.intake l with
      | (0, s) => s
      | (st, s) => s.complete (some port) m.ctx.toNat m.tag 0 st true
  | _ => s)

/-- WAIT_WORD_READ (13 R280). -/
def execWaitWordRead (s : State) : Out := .next (
  match s.arg with
  | .at1 n => s.waitRead n
  | _ => s)

/-- Reads every waiting launch's wait word again, as after a completion add (13 R280). -/
def State.waitReadAll (s : State) : State := s.launches.foldl (fun s e => s.waitRead e.1) s

/-- Ends a launch: its COMPLETE leaves, and its entry goes unless a sample still names it. -/
def State.launchDone (s : State) (n : Nat) (l : Launch) (st : Nat) : State :=
  let s := s.complete l.port l.ctx l.tag l.launchid st false
  if s.dies.any (fun d => d.2.samples.any (fun x => decide (x.launch = n))) then
    s.onLaunch n (fun l => { l with stage := .finished })
  else { s with launches := Table.set noneAt s.launches n none }

/-- LAUNCH_COMPLETE (13 R278, R280): every group has ended, and the final render of its pass is done (17 R383); the completion add,
then COMPLETE, once its digest stores and the stores that its cores see have been performed (10 R222, R232). -/
def execLaunchComplete (s : State) : Out := .next (
  match s.arg with
  | .at1 n =>
    match s.launch n with
    | none => s
    | some l =>
      if l.kind ≠ .plain ∨ l.stage ≠ .ready ∨ l.asked = true ∨ l.nextGroup < l.groups ∨ l.discarded ≠ [] ∨
          l.ended < l.groups ∨ s.peerReqs.any (fun r => decide (r.core = 71 ∧ r.op = n)) ∨ l.ran.any (fun c => !(s.staged c).isEmpty) ∨
          s.dies.any (fun d => d.2.passes.any (fun p =>
            (p.2.map (fun p => decide (p.launch = n))).getD false)) then s
      else if l.replayFault then s.launchDone n l 7
      else if l.pair 22 = 0 then s.launchDone n l 0
      else match s.completionAdd l.ctx (l.pair 22) (l.pair 24) 65 n with
        | none => s.launchDone n l 7
        | some (true, s) => (s.launchDone n l 0).waitReadAll
        | some (false, s) => s.onLaunch n (fun l => { l with asked := true })
  | _ => s)

/-! ## LAUNCH (13 R293) -/

/-- LAUNCH: the record is read by 48 reads of a word, in CSRs and windows of other devices by requests, and the operation
that offers it to intake is issued. -/
def execLaunch (a : SArgs) (s : State) : Out := .next (
  match s.issuing with
  | none => s
  | some (w, sp) =>
    if s.shadowOf w.group then s.invalidReplay w.group
    else if !s.mayRelease 5 then s
    else
      let ar := regs a.a.toNat 2
      let u : Uses := { sr := ar, sw := regs a.d.toNat 2, sfree := if a.la then ar else [] }
      s.whenIssuable u (fun s =>
      let addr := (w.seen sp s.free).s2 a.a.toNat
      if addr.toNat % 64 ≠ 0 then s.stopWith { cause := .misaligned, kind := .load, addr := addr }
      else
        let r : Reader := .split s.cur.core s.cur.wave s.cur.split
        match s.readWords r s.cur.core w.ctx addr 48 with
        | (.error (.fault e), s) => (s.onReads r (fun _ => {})).stopWith e
        | (.error .wait, s) => s
        | (.ok bs, s) => s.asyncIssue .launch u 2 a.d.toNat 2 (fun _ o => { o.withOperands addr 0 with desc := recordWords bs })))

/-! ## Code objects (02 R56, R57) -/

/-- The code segments of a code object whose header and segment table are given: start, size and kind of each, at their virtual
addresses; `none` for a bad one. -/
def codeSegments (base : Nat) (head table : List Byte) : Option (List (Nat × Nat × Nat)) :=
  let n := blockField head 8 2
  let entry := fun (k : Nat) => (table.drop (32 * k)).take 32
  let kind := fun (k : Nat) => blockField (entry k) 16 1
  let align := fun (k : Nat) => blockField (entry k) 17 1
  let code := fun (k : Nat) => kind k = 0
  let ok := fun (k : Nat) => kind k ≤ 3 && blockField (entry k) 0 8 % 2 ^ min 64 (align k) = 0 &&
    (kind k ≠ 0 || blockField (entry k) 8 8 % 8 = 0) && ((kind k ≠ 0 && kind k ≠ 3) || 3 ≤ align k) &&
    blockField (entry k) 18 2 = 0 && blockField (entry k) 24 8 = 0
  if blockField head 0 4 = 0x4E4C5431 ∧ blockField head 4 2 = 1 ∧ blockField head 6 2 = 0 ∧ 1 ≤ n ∧ n ≤ 32 ∧
      blockField head 0x3C 4 = 0 ∧ (List.range n).all ok ∧ ((List.range n).filter (fun k => code k)).length ≤ 16 ∧
      ((List.range n).filter (fun k => kind k = 3)).length ≤ 1 then
    some (((List.range n).filter (fun k => code k)).map (fun k =>
      (base + blockField (entry k) 0 8, blockField (entry k) 8 8, 0)))
  else none

/-- Reads the code object of launch n (R57): none while it waits for another device, and then its code segments, or none for a bad one. The
table may start at any offset, and is read by aligned words. -/
def State.readCode (s : State) (n core ctx : Nat) (base : Dword) : Option (Option (List (Nat × Nat × Nat))) × State :=
  let r : Reader := .code n
  let ends := fun (x : Option (List (Nat × Nat × Nat))) (s : State) => (some x, s.onReads r (fun _ => {}))
  match s.readWords r core ctx base 16 with
  | (.error .wait, s) => (none, s)
  | (.error (.fault _), s) => ends none s
  | (.ok head, s) =>
    let n := blockField head 8 2
    let at_ := base.toNat + blockField head 0x10 8
    if n = 0 ∨ 32 < n then ends none s
    else match s.readWords r core ctx (BitVec.ofNat 64 (at_ / 4 * 4)) (8 * n + (if at_ % 4 = 0 then 0 else 1)) with
      | (.error .wait, s) => (none, s)
      | (.error (.fault _), s) => ends none s
      | (.ok t, s) => ends (codeSegments base.toNat head (t.drop (at_ % 4))) s

end Sys2Proof.Machine
end

