-- ==== Sys2Proof/Machine/Place.lean ====
section
/-! DEFINITION. Placement (13 R281–R286, R292, R295; 04 R84, R85, R89; 05 R116, R121; 15 R329, R330, R336). -/

namespace Sys2Proof.Machine

/-! ## The fit test (13 R284) -/

/-- The seats taken on a core. -/
def State.seatsOn (s : State) (c : Nat) : List Seat :=
  (s.wavesOn c).map (fun x => { slot := x.2.slot, base := x.2.qbase, quads := x.2.width / 4 })

/-- Whether a core is empty (05 R116). -/
def State.coreEmpty (s : State) (c : Nat) : Bool :=
  (s.groupsOn c).isEmpty && (s.core c).cmds.isEmpty && (s.core c).array.isEmpty && (s.wavesOn c).isEmpty

/-- The partition word of a core. -/
def State.partition (s : State) (c : Nat) : Word := s.csrAt (dieOf c) (0x1010 + 0x40 * (c % 16))

/-- STATE of a core's cluster power controller (16 R365). -/
def State.cpcState (s : State) (c : Nat) : Nat := field (s.csrAt (dieOf c) (0x0804 + 0x20 * (c % 16 / 4))) 11 8

/-- Whether a launch of urgent frames is pending on a die: accepted, with groups yet to be placed (13 R295). -/
def State.urgentPending (s : State) (d : Nat) : Bool :=
  s.launches.any (fun e => match e.2 with
    | some l => l.kind = .plain && l.stage ≠ .finished && l.klass = 0 && (l.w 44).getLsbD d &&
        (decide (l.nextGroup < l.groups) || !l.discarded.isEmpty)
    | none => false)

/-- Check 1 of R284: the mask, DIES, the stage, evacuation and the cluster power controller. -/
def State.coreOpen (s : State) (l : Launch) (c : Nat) : Bool :=
  let d := dieOf c
  (s.csrAt d 0x0100).getLsbD (c % 16) && (l.w 44).getLsbD d && (s.stage ≠ 1 || decide (c < 4)) && s.stage ≠ 0 &&
    !(s.core c).flow.evac && s.cpcState c = 0

/-- Checks 3 to 6 of R284 on a core with a partition word: seats, registers, spill slots, scratchpad, accumulators, barriers. -/
def State.roomOn (s : State) (l : Launch) (c : Nat) (p : Word) : Bool :=
  let ws := s.wavesOn c
  let gs := s.groupsOn c
  let sumOf := fun (gs : List (Nat × Group)) (f : Launch → Nat) => (gs.map (fun g => ((s.launch g.2.launch).map f).getD 0)).sum
  let of := sumOf gs
  match findSeats (l.width / 4) l.nwaves (s.seatsOn c) with
  | none => false
  | some seats =>
    ws.length + l.nwaves ≤ 512 &&
    (List.range 16).all (fun b =>
      decide ((ws.map (fun x => if x.2.qbase ≤ b ∧ b < x.2.qbase + x.2.width / 4
        then max x.2.vres (x.2.onCoreV (b - x.2.qbase)) else 0)).sum + bankNeed seats l.vres b ≤ partReg p * 240)) &&
    (ws.map (fun x => max ((x.2.sres + 3) / 4) x.2.onCoreS)).sum + l.nwaves * ((l.sres + 3) / 4) ≤ partReg p * 256 &&
    (ws.map (fun x => spillNeed x.2.width x.2.vmax x.2.vres x.2.smax x.2.sres)).sum +
      l.nwaves * spillNeed l.width l.vmax l.vres l.smax l.sres ≤ partSpill p * 16384 &&
    of Launch.granules + l.granules ≤ partScr p * 64 && sumOf (gs.filter (fun g => !g.2.ending)) Launch.acc + l.acc ≤ partAcc p * 64 &&
    of Launch.bars + l.bars ≤ 1024

/-- The deque of a core that a launch has or could take (13 R288). -/
def Core.dequeFor (c : Core) (n : Nat) : Option Nat :=
  let own := c.deques.findIdx (fun q => decide (q.launch = some n))
  if own < c.deques.length then some own
  else
    let free := c.deques.findIdx (fun q => q.launch.isNone)
    if free < c.deques.length then some free else none

/-! ## New waves and groups (13 R282, R283) -/

/-- Scalars that a wave starts with. -/
def Wave.startScalars (w : Wave) (l : List (Nat × Word)) : Wave :=
  { w with sregs := l.foldl (fun t e => Table.set zeroWord t e.1 e.2) w.sregs,
           sbound := l.foldl (fun t e => Table.set falseAt t e.1 true) w.sbound }

/-- A pair of scalars. -/
def scalarPair (k : Nat) (x : Dword) : List (Nat × Word) := [(k, loWord x), (k + 1, hiWord x)]

/-- A wave as it starts (13 R282, 04 R89). `low` is CLASS 3 and PRIO 0, of a replay (15 R336). -/
def freshWave (l : Launch) (g index order : Nat) (seat : Seat) (kind : WaveKind) (low : Bool)
    (scalars : List (Nat × Word)) : Wave :=
  let w : Wave :=
    { group := g, index := index, ctx := l.ctx, width := l.width, slot := seat.slot, qbase := seat.base, kind := kind,
      order := order, prio := if low then 0 else l.prio, prioMax := if low then 0 else l.prio,
      klass := if low then 3 else l.klass, debug := l.flag 4, vres := l.vres, vmax := l.vmax, sres := l.sres, smax := l.smax,
      depth := l.depth,
      splits := Table.set noneAt [] 0 (some { pc := l.pair 2 + (l.w 4).setWidth 64, lanes := lowLanes l.width }) }
  w.startScalars (scalarPair 0 (l.pair 16) ++ scalars)

/-- The lowest free wave-table index of a core (04 R85). -/
def State.freeWaveId (s : State) (c : Nat) : Nat := ((List.range 512).find? (fun k => (s.wave c k).isNone)).getD 0

/-- Places the waves of a group on a core, in order. -/
def State.addWaves (s : State) (l : Launch) (g c : Nat) (kind : WaveKind) (low : Bool) (scalars : List (Nat × Word)) :
    Nat → List Seat → State
  | _, [] => s
  | k, seat :: seats =>
    let id := s.freeWaveId c
    let s := s.setWave c id (some (freshWave l g k s.nextOrder seat kind low scalars))
    let s := ({ s with nextOrder := s.nextOrder + 1 }).onGroup g (fun x => { x with live := x.live ++ [id] })
    State.addWaves s l g c kind low scalars (k + 1) seats

/-- Places one group of launch n on a core: its state is fresh, and the core's partition, deque and class follow (13 R282, R288;
05 R116; 08 R173, R185; 11 R234; 16 R355). The wave starts with an acquire (13 R291, 10 R232). -/
def State.addGroup (s : State) (n : Nat) (l : Launch) (c linear crank cluster : Nat) (shadow sampled leased : Bool)
    (kind : WaveKind) (scalars : List (Nat × Word)) : State :=
  let g := s.nextGroup
  let x := (l.w 6).toNat
  let y := (l.w 7).toNat
  let s := if s.coreEmpty c ∧ s.partition c ≠ l.w 14 then (s.setCsr (dieOf c) (0x1010 + 0x40 * (c % 16)) (l.w 14)).trimL1 c else s
  let group : Group :=
    { launch := n, core := c, ctx := l.ctx, linear := linear, gx := BitVec.ofNat 32 (linear % x),
      gy := BitVec.ofNat 32 (linear / x % y), gz := BitVec.ofNat 32 (linear / x / y), crank := crank, cluster := cluster,
      waves := l.nwaves, order := s.nextOrder,
      barriers := List.replicate l.bars { expected := BitVec.ofNat 12 l.nwaves },
      shadow := if shadow then some (n, linear) else none, sampled := sampled, leased := leased && shadow, leasing := leased && !shadow }
  let seats := (findSeats (l.width / 4) l.nwaves (s.seatsOn c)).getD []
  let s := { s with groups := Table.set noneAt s.groups g (some group), nextGroup := g + 1, nextOrder := s.nextOrder + 1 }
  let s := s.onLaunch n (fun l => { l with ran := if l.ran.contains c then l.ran else l.ran ++ [c] })
  let s := if l.flag 7 then s.onCore c (fun k => match k.dequeFor n with
      | some q => { k with deques := k.deques.modify q (fun d => { d with launch := some n }) }
      | none => k)
    else s
  ((s.addWaves l g c kind shadow scalars 0 seats).acquireAt c 6).applyClass c

/-- The cores of a die. -/
def coresOf (d : Nat) : List Nat := (List.range 16).map (16 * d + ·)

/-! ## Fitting on cores -/

/-- A core of a die on which a group of a template has room under checks 3 to 6 of R284. -/
def State.templateRoom (s : State) (l : Launch) (d : Nat) : Option Nat :=
  (coresOf d).find? (fun c =>
    (s.coreEmpty c || decide (s.partition c = l.w 14)) && s.roomOn l c (l.w 14))

/-- Whether k more groups of one wave of a template have room on a die; the state with them placed. -/
def State.roomForMore (s : State) (n : Nat) (l : Launch) (d : Nat) : Nat → Option State
  | 0 => some s
  | k + 1 => match s.templateRoom l d with
    | none => none
    | some c => State.roomForMore (s.addGroup n l c 0 0 s.nextGroup false false false .grid []) n l d k

/-- Whether a group of a pass's task launch, placed on a core, leaves room for MESHRES mesh waves and one pixel wave of the pass on
the pass's die (17 R376). -/
def State.keepsPassRoom (s : State) (n : Nat) (l : Launch) (c : Nat) : Bool :=
  (s.die (dieOf c)).passes.all (fun e => match e.2 with
    | none => true
    | some p =>
      if p.launch ≠ n then true
      else match s.launch p.meshLaunch with
        | none => true
        | some m =>
          let t := s.addGroup n l c 0 0 s.nextGroup false false false .grid []
          match t.roomForMore p.meshLaunch m (dieOf c) (field (l.w 15) 15 8 - p.meshWaves) with
          | none => false
          | some t => match s.launch p.pixelLaunch with
            | none => true
            | some x => (t.roomForMore p.pixelLaunch x (dieOf c) (1 - p.pixelWaves)).isSome)

/-- Whether a group of launch n passes R284 on a core. -/
def State.passes (s : State) (n : Nat) (l : Launch) (c : Nat) (shadow : Bool) : Bool :=
  let p := if s.coreEmpty c then l.w 14 else s.partition c
  let others := s.groupsOn c
  let excl := fun (g : Nat × Group) => g.2.ctx ≠ l.ctx && ((s.launch g.2.launch).map (fun x => x.flag 6)).getD false
  s.coreOpen l c && !s.benched c && p = l.w 14 && s.roomOn l c p && (!l.flag 7 || ((s.core c).dequeFor n).isSome) &&
    s.mayRise c (max (field (l.w 15) 3 0) (s.core c).flow.klass) &&
    !(l.flag 6 && others.any (fun g => decide (g.2.ctx ≠ l.ctx))) && !others.any excl &&
    (!l.flag 1 || shadow || !s.urgentPending (dieOf c) || !(s.csrAt (dieOf c) 0x0104).getLsbD (c % 16)) && s.ctxValid l.ctx &&
    s.keepsPassRoom n l c

/-- The cores for the groups of a launch's next cluster, in rank order, among those of a test: the lowest core, or the lowest
core cluster with enough. -/
def State.coresFor (s : State) (n : Nat) (l : Launch) (shadow : Bool) (among : List Nat) : Option (List Nat) :=
  let ok := among.filter (fun c => s.passes n l c shadow)
  if l.csize = 1 then ok.head?.map (fun c => [c])
  else (List.range 16).findSome? (fun k =>
    let here := ok.filter (fun c => decide (c / 4 = k))
    if l.csize ≤ here.length then some (here.take l.csize) else none)

/-! ## Sampling (15 R329) -/

/-- Whether a group is selected by its seed or by its core's WATCH. -/
def State.selects (s : State) (l : Launch) (linear c : Nat) : Bool :=
  let rate := field (s.csrAt 4 (0x5800 + 0x10 * l.ctx)) 16 0
  let salt := s.csrAt 4 (0x5800 + 0x10 * l.ctx + 4)
  decide (field (lacerta (pairOf l.launchid salt) (BitVec.ofNat 32 linear)) 15 0 < rate) ||
    (s.csrAt (dieOf c) (0x0200 + 4 * (c % 16))).getLsbD 16

/-- The Umpire's part in a placement: a kept selection moves to the new core; a new one takes an entry of the die's list. The
answer is whether the group is sampled, and whether its leases are already held. -/
def State.sampleAt (s : State) (n : Nat) (l : Launch) (linear c : Nat) (chosen : Bool) : Bool × Bool × State :=
  if !l.flag 2 then (false, false, s)
  else match s.sampleOf n linear with
    | some (d, x) => (true, x.pages ≠ [], s.onSample d n linear (fun x => { x with cores := [c], digests := [], runs := 1, running := true }))
    | none =>
      if !chosen then (false, false, s)
      else
        let d := dieOf c
        let s := s.onCsr 4 (0x5800 + 0x10 * l.ctx + 0xC) (· + 1)
        if 4096 ≤ (s.die d).samples.length then (false, false, s.umpCount d 5)
        else (true, false, (s.onDie d (fun x => { x with samples := x.samples ++
          [{ launch := n, linear := linear, cores := [c], group := s.nextGroup }] })).umpCount d 0)

/-! ## Placing a launch's next groups -/

/-- The head cluster of a launch: the linear indices of its groups. -/
def Launch.head (l : Launch) : Option (List Nat) :=
  match l.discarded with
  | c :: _ => some c
  | [] => if l.nextGroup < l.groups then some ((List.range l.csize).map (l.nextGroup + ·)) else none

/-- A launch whose head cluster is taken. -/
def Launch.takeHead (l : Launch) : Launch :=
  match l.discarded with
  | _ :: cs => { l with discarded := cs }
  | [] => { l with nextGroup := l.nextGroup + l.csize }

/-- A task that is placed, or that ends, leaves its buffer (13 R292). -/
def State.untask (s : State) (n : Nat) (l : Launch) : State :=
  if l.kind = .task then s.onCores (fun k => { k with prefetch := k.prefetch.filter (fun t => decide (t.launch ≠ n)) }) else s

/-- Reads the code object at the first placement, or ends the launch with status 2 (02 R57). -/
def State.withCode (s : State) (n : Nat) (l : Launch) (c : Nat) (act : Launch → State → State) : State :=
  match l.segments with
  | some _ => act l s
  | none =>
    match s.readCode n c l.ctx (l.pair 2) with
    | (none, s) => s
    | (some none, s) => (s.untask n l).launchDone n l 2
    | (some (some segs), s) =>
      let l : Launch := { l with segments := some segs }
      act l (s.onLaunch n (fun _ => l))

/-- Whether a group of a VISGATE launch is skipped (17 R388): its object's bit is read and clear. None while a word comes from another
device. -/
def State.gatedOut (s : State) (n c : Nat) (l : Launch) (g : Nat) : Option Bool × State :=
  let read := fun (s : State) (a k : Nat) (act : Nat → State → Option Bool × State) =>
    match s.readWords (.code n) c l.ctx (BitVec.ofNat 64 a) k with
    | (.error .wait, s) => (none, s)
    | (.error (.fault _), s) => (some false, s)
    | (.ok bs, s) => act (leNat bs) s
  if !l.flag 3 then (some false, s)
  else read s (l.pair 16).toNat 4 (fun x s =>
    let bitmap := x % 2 ^ 64
    let table := x / 2 ^ 64
    let bit := fun (o : Nat) (s : State) =>
      let a := bitmap + o / 8
      read s (a / 4 * 4) 1 (fun b s => (some (decide (b / 2 ^ (8 * (a % 4) + o % 8) % 2 = 0)), s))
    if table = 0 then bit g s else read s (table + 4 * g) 1 (fun x s => bit (x % 2 ^ 20) s))

/-- Which groups of a cluster are skipped; none while a word comes from another device. -/
def State.gates (s : State) (n c : Nat) (l : Launch) : List Nat → Option (List Nat) × State
  | [] => (some [], s)
  | g :: gs => match s.gatedOut n c l g with
    | (none, s) => (none, s)
    | (some out, s) => match State.gates s n c l gs with
      | (none, s) => (none, s)
      | (some l, s) => (some (if out then g :: l else l), s)

/-- Where a wave of a launch's own groups stands in its table. -/
def Launch.waveKind (l : Launch) : WaveKind := if l.kind = .task then .task else .grid

/-- The scalars with which a wave of a task starts beside ARGS (13 R282). -/
def Launch.taskScalars (l : Launch) : List (Nat × Word) :=
  if l.kind = .task then scalarPair 2 l.payload ++ [(4, BitVec.ofNat 32 l.depth)] else []

/-- Places the head cluster of launch n on cores, in rank order; a gated group counts as ended and places nothing. -/
def State.placeHead (s : State) (n : Nat) (l : Launch) (cores : List Nat) : State :=
  match l.head, cores with
  | some members, c0 :: _ =>
    s.withCode n l c0 (fun l s => match s.gates n c0 l members with
      | (none, s) => s
      | (some out, s) =>
        let s := (s.onReads (.code n) (fun _ => {})).untask n l
        let s := s.onLaunch n (fun l => { l.takeHead with ended := l.ended + out.length })
        let chosen := l.flag 2 && s.selects l (members.headD 0 / l.csize * l.csize) c0
        let cluster := s.nextGroup
        (members.filter (fun g => !out.contains g)).foldl (fun s g =>
          let c := cores.getD (g % l.csize) c0
          let (sampled, leased, s) := s.sampleAt n l g c chosen
          s.addGroup n l c g (g % l.csize) cluster false sampled leased l.waveKind l.taskScalars) s)
  | _, _ => s

/-! ## Choice (13 R285) -/

/-- A group that could be placed now. -/
structure Candidate where
  launch : Nat
  klass : Nat
  prio : Nat
  ctx : Nat
  age : Nat
  cores : List Nat
  deriving DecidableEq, Repr

/-- WEIGHT of a context. -/
def State.weight (s : State) (ctx : Nat) : Nat := field (s.csrAt 4 (0x3400 + 0x10 * ctx)) 7 0

/-- DEF of a context on a die. -/
def State.deficit (s : State) (d ctx : Nat) : Int := (s.csrAt d (0xA404 + 0x10 * ctx)).toInt

/-- The tasks in the buffers of a die's cores that are the oldest of their contexts (13 R292). -/
def State.oldestTasks (s : State) (d : Nat) : List Task :=
  let all := (coresOf d).flatMap (fun c => (s.core c).prefetch)
  all.filter (fun t => all.all (fun u => u.ctx ≠ t.ctx || t.order ≤ u.order))

/-- The launches whose head groups a die's placement unit considers: those that are ready, tasks that were discarded, and of each context its
oldest task (13 R285, R297). -/
def State.heads (s : State) (d : Nat) : List (Nat × Launch) :=
  s.launches.filterMap (fun e => match e.2 with
    | some l =>
      if ((l.kind = .plain ∧ l.stage = .ready) ∨ (l.kind = .task ∧ l.discarded ≠ [])) ∧ s.weight l.ctx ≠ 0 ∧ l.head.isSome then some (e.1, l)
      else none
    | none => none) ++
  (s.oldestTasks d).filterMap (fun t => match s.launch t.launch with
    | some l => if s.weight l.ctx ≠ 0 then some (t.launch, l) else none
    | none => none)

/-- The candidates of a die: the head groups that pass R284 on some core of it. -/
def State.candidates (s : State) (d : Nat) : List Candidate :=
  (s.heads d).filterMap (fun x => (s.coresFor x.1 x.2 false (coresOf d)).map (fun cs =>
    { launch := x.1, klass := x.2.klass, prio := x.2.prio, ctx := x.2.ctx, age := x.2.age, cores := cs }))

/-- Whether a candidate ranks before another. -/
def State.ranksBefore (s : State) (d : Nat) (a b : Candidate) : Bool :=
  let da := s.deficit d a.ctx
  let db := s.deficit d b.ctx
  decide (a.klass < b.klass) || (a.klass = b.klass &&
    (decide (db < da) || (da = db &&
      (decide (b.prio < a.prio) || (a.prio = b.prio &&
        (decide (a.age < b.age) || (a.age = b.age && decide (a.ctx < b.ctx))))))))

/-- The refill of DEF, when every context with a candidate has none left. -/
def State.refill (s : State) (d : Nat) (cs : List Candidate) : State :=
  if cs.all (fun c => decide (s.deficit d c.ctx ≤ 0)) then
    (List.range 64).foldl (fun s n =>
      let w := s.weight n
      if w = 0 then s
      else s.setCsr d (0xA404 + 0x10 * n) (BitVec.ofInt 32 (min (s.deficit d n + w * 1024) (w * 1024)))) s
  else s

/-- The choice among candidates. -/
def State.choose (s : State) (d : Nat) (cs : List Candidate) : Option Candidate :=
  cs.foldl (fun best c => match best with
    | none => some c
    | some b => if s.ranksBefore d c b then some c else best) none

/-- The sublists whose sizes add up to k, in the order of the list. -/
def choices {α : Type} (size : α → Nat) : Nat → List α → List (List α)
  | 0, _ => [[]]
  | _ + 1, [] => []
  | k + 1, x :: xs =>
    (if size x ≤ k + 1 then (choices size (k + 1 - size x) xs).map (x :: ·) else []) ++ choices size (k + 1) xs

/-- The groups of a die that may be discarded, by highest CLASS, lowest PRIO, youngest placement (13 R295). -/
def State.victims (s : State) (d : Nat) : List Nat :=
  let all := s.groups.filterMap (fun e => match e.2 with
    | some g =>
      if dieOf g.core = d ∧ s.discardable e.1 then
        let l := (s.launch g.launch).getD {}
        let shadow := g.shadow.isSome
        some (e.1, (if shadow then 3 else l.klass), (if shadow then 0 else l.prio), g.order)
      else none
    | none => none)
  (sortBy (fun a b => decide (b.2.1 < a.2.1) || (a.2.1 = b.2.1 &&
    (decide (a.2.2.1 < b.2.2.1) || (a.2.2.1 = b.2.2.1 && decide (b.2.2.2 ≤ a.2.2.2))))) all).map (fun x => x.1)

/-- The clusters of a list of groups, each by its first group there. -/
def State.firstOfClusters (s : State) : List Nat → List Nat
  | [] => []
  | g :: gs => g :: (State.firstOfClusters s gs).filter (fun h => !(s.clusterOf g).any (fun y => decide (y.1 = h)))

/-- The fewest groups whose discard, with their clusters, lets an urgent head pass on a die, after their discard (13 R295). -/
def State.makeWay (s : State) (d n : Nat) (l : Launch) : Option State :=
  let vs := s.firstOfClusters (s.victims d)
  let size := fun (g : Nat) => (s.clusterOf g).length
  (List.range (vs.map size).sum).findSome? (fun k => (choices size (k + 1) vs).findSome? (fun set =>
    let t := set.foldl State.discardCluster s
    if (t.coresFor n l false (coresOf d)).isSome then some t else none))

/-- The urgent-frame groups that wait for a place on a die: heads, and a die's next mesh and pixel waves (13 R294; 17 R376). -/
def State.urgentHeads (s : State) (d : Nat) : List (Nat × Launch) :=
  let template := fun (n : Nat) => (s.launch n).map (fun l => (n, l))
  let mesh := match (s.die d).amps with
    | e :: _ => ((s.passAt d e.slot).bind (fun p => if p.state = 1 then template p.meshLaunch else none)).toList
    | [] => []
  let pixel := (s.die d).passes.filterMap (fun e => e.2.bind (fun p =>
    if p.jobs.any (fun j => (j.2.map (fun j => j.stage = 2 && decide (j.placed < j.quads.length))).getD false) then template p.pixelLaunch
    else none))
  (s.heads d ++ mesh ++ pixel).filter (fun x => x.2.klass = 0 && (x.2.w 44).getLsbD d)

/-- The discard for the oldest urgent-frame group that passes nowhere on the die (13 R294, R295). -/
def State.clearForUrgent (s : State) (d : Nat) : State :=
  ((s.urgentHeads d).findSome? (fun x =>
    if (s.coresFor x.1 x.2 false (coresOf d)).isSome then none else s.makeWay d x.1 x.2)).getD s

/-- PLACE_GROUP (13 R284, R285, R295): a die's placement unit places one cluster, group or task. -/
def execPlaceGroup (s : State) : Out := .next (
  match s.arg with
  | .at1 d =>
    let s := s.clearForUrgent d
    let cs := s.candidates d
    if cs = [] ∨ 4 ≤ d then s
    else
      let s := s.refill d cs
      match s.choose d cs with
      | none => s
      | some c => match s.launch c.launch with
        | none => s
        | some l => s.placeHead c.launch l c.cores
  | _ => s)

/-! ## Leases (15 R330) -/

/-- The pages that overlap a range, by walks: `none` when one is not mapped. -/
def State.pagesOf (s : State) (ctx : Nat) (stop : Nat) : Nat → Nat → Option (List Dword)
  | 0, _ => some []
  | n + 1, a =>
    if stop ≤ a then some []
    else
      let w := s.walk ctx a
      if w.cause.isSome then none
      else (State.pagesOf s ctx stop n (w.page.vbase + w.page.size)).map (BitVec.ofNat 64 w.page.vbase :: ·)

/-- Whether a store that passed its checks before pages were leased has still to be performed (15 R330). -/
def State.storesTo (s : State) (ctx : Nat) (pages : List Dword) : Bool :=
  s.waves.any (fun e => (e.2.map (fun w => decide (w.ctx = ctx) && w.ops.any (fun o =>
    o.passed && o.writes && o.space ≠ .scratch && o.units.any (fun u =>
      !u.done && pages.contains (BitVec.ofNat 64 (s.walk ctx u.va).page.vbase))))).getD false)

/-- LEASE_TAKE (15 R330): the input pages of a selected group are leased, and its first wave issues once the stores that had passed their
checks before have been performed; a page that is not mapped abandons the sample. -/
def execLeaseTake (s : State) : Out := .next (
  match s.arg with
  | .at1 g =>
    match s.group g with
    | none => s
    | some x =>
      if !x.sampled || x.leased then s
      else match s.launch x.launch, s.sampleOf x.launch x.linear with
        | some l, some (d, y) =>
          if x.leasing then
            if s.storesTo x.ctx y.pages then s else s.onGroup g (fun y => { y with leased := true, leasing := false })
          else
          let pages := (l.regions false).foldl (fun acc r => match acc, s.pagesOf x.ctx (r.1 + r.2) (r.2 / 4096 + 2) r.1 with
            | some a, some b => some (a ++ b)
            | _, _ => (none : Option (List Dword))) (some [])
          match pages with
          | none => ((s.onGroup g (fun y => { y with sampled := false })).freeSample d x.launch x.linear).umpCount d 6
          | some ps =>
            let s := ps.foldl (fun s p => s.setWpl x.ctx p.toNat true) s
            (s.onSample d x.launch x.linear (fun y => { y with pages := ps })).onGroup g (fun y => { y with leasing := true })
        | _, _ => s.onGroup g (fun y => { y with sampled := false })
  | _ => s)

/-! ## Replays (15 R336) -/

/-- The linear indices of a group's cluster. -/
def Launch.clusterLinears (l : Launch) (g : Nat) : List Nat := (List.range l.csize).map (g / l.csize * l.csize + ·)

/-- REPLAY_PLACE (15 R336, R338): places the replay, or the third run, of the k-th sample of a die, with its whole cluster, on
another die if it can be. -/
def execReplayPlace (s : State) : Out := .next (
  match s.arg with
  | .at2 d k =>
    match (s.die d).samples[k]? with
    | none => s
    | some x =>
      match s.launch x.launch with
      | none => s
      | some l =>
        let members := l.clusterLinears x.linear
        let entries := members.filterMap (fun g => s.sampleOf x.launch g)
        let resident := s.groups.any (fun e => (e.2.map (fun y =>
          decide (y.launch = x.launch) && y.shadow.isNone && members.contains y.linear)).getD false)
        if x.running || x.digests = [] || resident || entries.any (fun e => e.2.running) then s
        else
          let used := entries.flatMap (fun e => e.2.cores)
          let home := dieOf (x.cores.headD 0)
          let far := (List.range 64).filter (fun c => decide (dieOf c ≠ home) && !used.contains c)
          let near := (List.range 64).filter (fun c => !used.contains c)
          match (s.coresFor x.launch l true far).or (s.coresFor x.launch l true near) with
          | none => s
          | some cores =>
            let cluster := s.nextGroup
            (members.zip cores).zipIdx.foldl (fun s m =>
              let (g, c) := m.1
              let s := match s.sampleOf x.launch g with
                | some (e, _) => s.onSample e x.launch g (fun y => { y with cores := y.cores ++ [c], running := true })
                | none => s
              s.addGroup x.launch l c g m.2 cluster true false true .grid []) s
  | _ => s)

/-! ## Discard (13 R296) -/

/-- DISCARD_GO (13 R296): a write of DISCARD with GO. -/
def execDiscardGo (s : State) : Out := .next (
  match s.arg with
  | .value d v =>
    let s := s.setCsr d 0x0108 (v &&& 0x3DFF)
    if v.getLsbD 31 = false then s
    else match s.wave (16 * d + field v 13 10) (field v 8 0) with
      | none => s
      | some w => if s.discardable w.group then s.discardCluster w.group else s
  | _ => s)

end Sys2Proof.Machine
end

