-- ==== Sys2Proof/Machine/Scalar.lean ====
section
/-! DEFINITION. The scalar ALU, mask and special-register moves, and SFREE (05 R131–R135), on Oltus cores and service
cores (16 R367). -/

namespace Sys2Proof.Machine

/-- IMM16 sign-extended. -/
def immS (a : SArgs) : Word := a.imm.signExtend 32

/-- IMM16 zero-extended. -/
def immN (a : SArgs) : Word := a.imm.setWidth 32

/-- A scalar instruction of one source and one result. -/
def State.scalar1 (s : State) (a : SArgs) (g : Word → Word) : State :=
  s.scalar a 1 1 0 [] (fun r => [g (r a.a.toNat)])

/-- A scalar instruction of two sources and one result. -/
def State.scalar2 (s : State) (a : SArgs) (g : Word → Word → Word) : State :=
  s.scalar a 1 1 1 [] (fun r => [g (r a.a.toNat) (r a.b.toNat)])

/-- A pair as the scalar file gives it. -/
def pairAt (r : Nat → Word) (k : Nat) : Dword := pairOf (r k) (r (k + 1))

/-- A scalar instruction of pairs A and B and a pair result. -/
def State.scalar64 (s : State) (a : SArgs) (g : Dword → Dword → Dword) : State :=
  s.scalar a 2 2 2 [] (fun r => words2 (g (pairAt r a.a.toNat) (pairAt r a.b.toNat)))

/-- A scalar instruction of a pair A, a scalar B and a pair result. -/
def State.scalarShift (s : State) (a : SArgs) (g : Dword → Word → Dword) : State :=
  s.scalar a 2 2 1 [] (fun r => words2 (g (pairAt r a.a.toNat) (r a.b.toNat)))

/-- A count of a scalar, or with IMM16[0] of a pair. -/
def State.scalarCount (s : State) (a : SArgs) (g : Word → Word) (g64 : Dword → Word) : State :=
  if a.imm.getLsbD 0 then s.scalar a 1 2 0 [] (fun r => [g64 (pairAt r a.a.toNat)])
  else s.scalar1 a g

/-- SMOV: a copy (05 R131). -/
def execSmov (a : SArgs) (s : State) : Out := .next (s.scalar1 a (fun x => x))

/-- SMOVI: the immediate, sign-extended. -/
def execSmovi (a : SArgs) (s : State) : Out := .next (s.scalar a 1 0 0 [] (fun _ => [immS a]))

/-- SMOVHI: the immediate as the high half, D's low half kept. -/
def execSmovhi (a : SArgs) (s : State) : Out := .next (
  s.scalar a 1 0 0 [a.d.toNat] (fun r => [(immN a <<< 16) ||| (r a.d.toNat &&& 0xFFFF)]))

/-- SIADD: A + B. -/
def execSiadd (a : SArgs) (s : State) : Out := .next (s.scalar2 a (· + ·))

/-- SIADDI: A plus the sign-extended immediate. -/
def execSiaddi (a : SArgs) (s : State) : Out := .next (s.scalar1 a (· + immS a))

/-- SISUB: A − B. -/
def execSisub (a : SArgs) (s : State) : Out := .next (s.scalar2 a (· - ·))

/-- SIMUL: the low 32 bits of the product. -/
def execSimul (a : SArgs) (s : State) : Out := .next (s.scalar2 a (· * ·))

/-- SIMULHI: the high 32 bits of the signed product. -/
def execSimulhi (a : SArgs) (s : State) : Out := .next (s.scalar2 a mulHi)

/-- SIMULHN: the high 32 bits of the unsigned product. -/
def execSimulhn (a : SArgs) (s : State) : Out := .next (s.scalar2 a mulHiN)

/-- SAND. -/
def execSand (a : SArgs) (s : State) : Out := .next (s.scalar2 a (· &&& ·))

/-- SOR. -/
def execSor (a : SArgs) (s : State) : Out := .next (s.scalar2 a (· ||| ·))

/-- SXOR. -/
def execSxor (a : SArgs) (s : State) : Out := .next (s.scalar2 a (· ^^^ ·))

/-- SANDI. -/
def execSandi (a : SArgs) (s : State) : Out := .next (s.scalar1 a (· &&& immN a))

/-- SORI. -/
def execSori (a : SArgs) (s : State) : Out := .next (s.scalar1 a (· ||| immN a))

/-- SXORI. -/
def execSxori (a : SArgs) (s : State) : Out := .next (s.scalar1 a (· ^^^ immN a))

/-- SSHL: A shifted left by B. -/
def execSshl (a : SArgs) (s : State) : Out := .next (s.scalar2 a shiftL)

/-- SSHR: A shifted right by B. -/
def execSshr (a : SArgs) (s : State) : Out := .next (s.scalar2 a shiftR)

/-- SSRA: A shifted right by B, arithmetically. -/
def execSsra (a : SArgs) (s : State) : Out := .next (s.scalar2 a shiftA)

/-- SSHLI: A shifted left by the immediate. -/
def execSshli (a : SArgs) (s : State) : Out := .next (s.scalar1 a (fun x => shiftL x (immN a)))

/-- SSHRI: A shifted right by the immediate. -/
def execSshri (a : SArgs) (s : State) : Out := .next (s.scalar1 a (fun x => shiftR x (immN a)))

/-- SSRAI: A shifted right by the immediate, arithmetically. -/
def execSsrai (a : SArgs) (s : State) : Out := .next (s.scalar1 a (fun x => shiftA x (immN a)))

/-- SCMP: 1 when the condition of IMM16[3:0] holds. -/
def execScmp (a : SArgs) (s : State) : Out := .next (
  s.scalar2 a (fun x y => boolWord (intCond (a.imm.toNat % 16) x y)))

/-- SCMPI: as SCMP against the sign-extended immediate; the condition is in B[3:0]. -/
def execScmpi (a : SArgs) (s : State) : Out := .next (
  s.scalar1 a (fun x => boolWord (intCond (a.b.toNat % 16) x (immS a))))

/-- SSEL: A where the C scalar is not 0, otherwise B. -/
def execSsel (a : SArgs) (s : State) : Out := .next (
  let c := a.imm.toNat % 1024
  s.scalar a 1 1 1 [c] (fun r => [if r c ≠ 0 then r a.a.toNat else r a.b.toNat]))

/-- SMIN: signed minimum. -/
def execSmin (a : SArgs) (s : State) : Out := .next (s.scalar2 a minS)

/-- SMAX: signed maximum. -/
def execSmax (a : SArgs) (s : State) : Out := .next (s.scalar2 a maxS)

/-- SMINN: unsigned minimum. -/
def execSminn (a : SArgs) (s : State) : Out := .next (s.scalar2 a minU)

/-- SMAXN: unsigned maximum. -/
def execSmaxn (a : SArgs) (s : State) : Out := .next (s.scalar2 a maxU)

/-- SPOPC: population count of a word or pair. -/
def execSpopc (a : SArgs) (s : State) : Out := .next (s.scalarCount a popCount popCount)

/-- SCLZ: leading zeros of a word or pair. -/
def execSclz (a : SArgs) (s : State) : Out := .next (s.scalarCount a leadingZeros leadingZeros)

/-- SFFS: index of the lowest set bit of a word or pair. -/
def execSffs (a : SArgs) (s : State) : Out := .next (s.scalarCount a lowestSet lowestSet)

/-- SIADD64: the 64-bit sum. -/
def execSiadd64 (a : SArgs) (s : State) : Out := .next (s.scalar64 a (· + ·))

/-- SISUB64: the 64-bit difference. -/
def execSisub64 (a : SArgs) (s : State) : Out := .next (s.scalar64 a (· - ·))

/-- SMOV64: a pair copy. -/
def execSmov64 (a : SArgs) (s : State) : Out := .next (
  s.scalar a 2 2 0 [] (fun r => words2 (pairAt r a.a.toNat)))

/-- SSHL64: the pair shifted left by B. -/
def execSshl64 (a : SArgs) (s : State) : Out := .next (s.scalarShift a shiftL)

/-- SSHR64: the pair shifted right by B. -/
def execSshr64 (a : SArgs) (s : State) : Out := .next (s.scalarShift a shiftR)

/-! ## Masks (05 R132) -/

/-- SMRD: all 64 bits of the issuing split's mask to a pair; m0 is Live(split). -/
def execSmrd (a : SArgs) (s : State) : Out := .next (
  s.issueWith { sw := regs a.d.toNat 2 } (fun w sp s =>
    (s.putScalars a.d.toNat (words2 (w.mask sp (a.imm.toNat % 8)))).advance))

/-- SMWR: a pair to m1–m7 of the issuing split. -/
def execSmwr (a : SArgs) (s : State) : Out := .next (
  let ar := regs a.a.toNat 2
  s.issueWith { sr := ar, sfree := if a.la then ar else [] } (fun w _ s =>
    (s.onIssuingSplit (fun x => x.setMask (a.imm.toNat % 8) (w.s2 a.a.toNat))).advance))

/-! ## Special registers (05 R134) -/

/-- SRD: the issuing split's view of a special register to a scalar or pair. A service core reads %coreid and %cycle only
(16 R367). A replay that reads a register of 15 R326 rule 6 is invalid (15 R337). -/
def execSrd (a : SArgs) (s : State) : Out := .next (
  let n := a.imm.toNat
  let words := fun (x : Dword) => if wideSpecial n then words2 x else [loWord x]
  match s.cur.svc with
  | some k =>
    if n = 0x0C then (s.putScalars a.d.toNat [BitVec.ofNat 32 (0x40 + k)]).advance
    else if n = 0x20 then (s.putScalars a.d.toNat (words2 (s.svc k).cycle)).advance
    else s.stopHere .illegalOperand
  | none =>
    match s.issuing with
    | none => s
    | some (w, _) =>
      if timingRegister n && s.shadowOf w.group then s.invalidReplay w.group
      else s.issueWith { sw := regs a.d.toNat (words 0).length } (fun w sp t =>
        (t.putScalars a.d.toNat (words (s.special w sp 0 n))).advance))

/-- A value written to %frm: 5 to 7 leave it unchanged (03 R65). -/
def Split.setFrm (sp : Split) (x : Word) : Split := if 4 < field x 2 0 then sp else { sp with frm := x.extractLsb' 0 3 }

/-- SWR: %frm of the issuing split, or %prio of the wave clamped to its launch's priority (05 R134, 03 R65). -/
def execSwr (a : SArgs) (s : State) : Out := .next (
  let ar := [a.a.toNat]
  s.issueWith { sr := ar, sfree := if a.la then ar else [] } (fun w _ s =>
    let x := w.s a.a.toNat
    if a.imm.toNat = 0x13 then (s.onIssuingSplit (fun sp => sp.setFrm x)).advance
    else (s.onIssuer (fun y => { y with prio := min (field x 2 0) y.prioMax })).advance))

/-- SFREE: clears the bound bits of sA to sB for the whole wave (05 R135). -/
def execSfree (a : SArgs) (s : State) : Out := .next (
  s.issueWith { sfree := regs a.a.toNat (a.b.toNat - a.a.toNat + 1) } (fun _ _ s => s.advance))

end Sys2Proof.Machine
end

