-- ==== Sys2Proof/Machine/Queue.lean ====
section
/-! DEFINITION. Deques (13 R288–R290), tasks (13 R291, R292), coolant requests (16 R359), instruction-line locks (14 R324,
R325), and the events of a wave's splits and of its end (04 R94–R98, R112; 13 R287; 14 R301). -/

namespace Sys2Proof.Machine

/-! ## Deques -/

/-- The launch of the issuing wave's group. -/
def State.ownLaunch (s : State) (w : Wave) : Nat := ((s.group w.group).map (fun g => g.launch)).getD 0

/-- The deque that a launch holds on a core. -/
def Core.dequeOf (c : Core) (n : Nat) : Option Nat :=
  let i := c.deques.findIdx (fun q => decide (q.launch = some n))
  if i < c.deques.length then some i else none

/-- The entries of a launch's deque on a core; none when it holds none there. -/
def State.dequeEntries (s : State) (core n : Nat) : List Dword :=
  match (s.core core).dequeOf n with
  | some i => (((s.core core).deques[i]?).map (fun q => q.entries)).getD []
  | none => []

/-- Replaces the entries of a launch's deque on a core. -/
def State.setEntries (s : State) (core n : Nat) (l : List Dword) : State :=
  match (s.core core).dequeOf n with
  | some i => s.onCore core (fun c => { c with deques := c.deques.modify i (fun q => { q with entries := l }) })
  | none => s

/-- A deque instruction of a wave that is no replay (15 R326 rule 3, R337). -/
def State.queueOp (s : State) (act : Wave → Split → State → State) : State :=
  match s.issuing with
  | none => s
  | some (w, sp) => if s.shadowOf w.group then s.invalidReplay w.group else act w sp s

/-- Whether the launch of a wave has a deque (w1 DEQUE). -/
def State.hasDeque (s : State) (w : Wave) : Bool := ((s.launchOf w.group).map (fun l => l.flag 7)).getD false

/-- DQPUSH (13 R290): appends at the tail, as a release at device scope. -/
def execDqpush (a : SArgs) (s : State) : Out := .next (
  s.queueOp (fun w _ s =>
    if !s.hasDeque w then s.stopHere .illegalOperand
    else
      let ar := regs a.a.toNat 2
      s.asyncIssue .dqpush { sr := ar, sw := [a.d.toNat], sfree := if a.la then ar else [] } 2 a.d.toNat 1 (fun r o =>
        o.withOperands 0 ((r.s2 a.a.toNat).setWidth 128))))

/-- DQPOP (13 R290): removes the tail entry, as an acquire at device scope. -/
def execDqpop (a : SArgs) (s : State) : Out := .next (
  s.queueOp (fun w _ s =>
    if !s.hasDeque w then s.stopHere .illegalOperand
    else s.asyncIssue .dqpop { sw := regs a.d.toNat 3 } 1 a.d.toNat 3 (fun _ o => o.withOperands 0 0)))

/-- DQSTEAL (13 R290): removes the head entry of the launch's deque on another core, as an acquire at device scope. -/
def execDqsteal (a : SArgs) (s : State) : Out := .next (
  s.queueOp (fun w sp0 s =>
    let ar := [a.a.toNat]
    let u : Uses := { sr := ar, sw := regs a.d.toNat 3, sfree := if a.la then ar else [] }
    s.whenIssuable u (fun s =>
      let v := ((w.seen sp0 s.free).s a.a.toNat).toNat
      if 63 < v then s.stopHere .illegalOperand
      else s.asyncIssue .dqsteal u 1 a.d.toNat 3 (fun _ o => o.withOperands 0 (BitVec.ofNat 128 v)))))

/-- DQSIZE (13 R290): the entries of the launch's deque on the named core, or 0. -/
def execDqsize (a : SArgs) (s : State) : Out := .next (
  s.queueOp (fun _ _ s =>
    let own := a.a = 0x3FF
    let ar := if own then [] else [a.a.toNat]
    s.asyncIssue .dqsize { sr := ar, sw := [a.d.toNat], sfree := if a.la then ar else [] } 0 a.d.toNat 1 (fun r o =>
      o.withOperands 0 (if own then BitVec.ofNat 128 s.cur.core else (r.s a.a.toNat).setWidth 128))))

/-! ## Tasks -/

/-- The tasks in a context's queue on a die. -/
def State.taskQueue (s : State) (die ctx : Nat) : List Task := Table.get nilAt (s.die die).tasks ctx

/-- Replaces the tasks in a context's queue on a die. -/
def State.setTaskQueue (s : State) (die ctx : Nat) (l : List Task) : State :=
  s.onDie die (fun d => { d with tasks := Table.set nilAt d.tasks ctx l })

/-- SPAWN (13 R291): appends a task, as a release at device scope. -/
def execSpawn (a : SArgs) (s : State) : Out := .next (
  s.queueOp (fun _ _ s =>
    let ar := regs a.a.toNat 2
    let br := regs a.b.toNat 2
    s.asyncIssue .spawn { sr := ar ++ br, sw := [a.d.toNat],
                          sfree := (if a.la then ar else []) ++ (if a.lb then br else []) } 2 a.d.toNat 1 (fun r o =>
      o.withOperands (r.s2 a.a.toNat) ((r.s2 a.b.toNat).setWidth 128))))

/-- Whether a template keeps to R277 and the further conditions of R292. -/
def State.goodTemplate (s : State) (l : Launch) : Bool :=
  !s.badRecord l && l.w 6 = 1 && l.w 7 = 1 && l.w 8 = 1 && l.nwaves = 1 && l.csize = 1 && l.pair 18 = 0 &&
    !l.flag 1 && !l.flag 2 && !l.flag 3 && !l.flag 5 && !l.flag 7

/-- A taken task with the bytes of its template: it enters the core's buffer, or is dropped with status 5. -/
def State.taskRead (s : State) (core : Nat) (t : Task) (bs : List Byte) : State :=
  let l : Launch := { kind := .task, launchid := t.launchid, ctx := t.ctx, words := recordWords bs, payload := t.payload,
                      depth := t.depth, age := t.order }
  if bs.length = 192 ∧ t.template.toNat % 64 = 0 ∧ s.goodTemplate l then
    let n := s.nextLaunch
    let s := { s with launches := Table.set noneAt s.launches n (some l), nextLaunch := n + 1 }
    s.onCore core (fun c => { c with prefetch := c.prefetch ++ [{ t with launch := n, reads := {} }] })
  else
    let root := s.launch t.launch
    s.complete ((root.map (fun l => l.port)).getD none) t.ctx ((root.map (fun l => l.tag)).getD 0) t.launchid 5 false

/-- TASK_TAKE (13 R292): the oldest task of a queue enters a core's buffer, its template read. -/
def execTaskTake (s : State) : Out := .next (
  match s.arg with
  | .at3 die ctx core =>
    match s.taskQueue die ctx with
    | [] => s
    | t :: ts =>
      if 2 ≤ (s.core core).prefetch.length ∨ s.weight ctx = 0 ∨ dieOf core ≠ die then s
      else
        let take := fun (s : State) =>
          (s.setTaskQueue die ctx ts).onDie die (fun d => { d with taken := Table.update zeroWord d.taken ctx (· + 1) })
        if t.template.toNat % 64 ≠ 0 then (take s).taskRead core t []
        else match s.readWords (.task die ctx) core ctx t.template 48 with
          | (.error .wait, s) => s
          | (.error (.fault _), s) => (take s).taskRead core t []
          | (.ok bs, s) => (take s).taskRead core t bs
  | _ => s)

/-! ## Coolant requests -/

/-- FLOWREQ (16 R359): the wave's request; it completes once a rise of the class has reached the cap. -/
def execFlowreq (a : SArgs) (s : State) : Out := .next (
  let ar := if a.a = 0x3FF then [] else [a.a.toNat]
  let finish := fun (s : State) =>
    s.issueWith { sr := ar, sw := [a.d.toNat], sfree := if a.la then ar else [] } (fun _ _ s =>
      (s.putScalars a.d.toNat [BitVec.ofNat 32 (s.core s.cur.core).flow.klass]).advance)
  match s.issuing with
  | none => s
  | some (_, sp) =>
    if sp.asked then (if (s.core s.cur.core).flow.rise then s else finish s)
    else s.issueWith { sr := ar } (fun w _ s =>
      let core := s.cur.core
      let c := if a.a = 0x3FF then a.imm.toNat else (w.s a.a.toNat).toNat % 4
      let before := (s.core core).flow.klass
      let s := (s.onIssuer (fun w => { w with flow := c })).applyClass core
      if before < (s.core core).flow.klass then s.onIssuingSplit (fun sp => { sp with asked := true }) else finish s))

/-- FLOWREL (16 R359): the wave's request becomes 0. -/
def execFlowrel (s : State) : Out := .next (
  ((s.onIssuer (fun w => { w with flow := 0 })).applyClass s.cur.core).advance)

/-! ## Locked instruction lines -/

/-- The place of a line in memory, where it lies in a code segment of a wave's launch and its page may be fetched from, with NP and DEV 0. -/
def State.lineOk (s : State) (core : Nat) (w : Wave) (segs : List (Nat × Nat × Nat)) (line : Nat) : Option Nat :=
  if segs.any (fun x => x.1 ≤ 128 * line && 128 * line + 128 ≤ x.1 + x.2.1) then
    match s.check core w.ctx (BitVec.ofNat 64 (128 * line)) 8 .fetch { exec := true } with
    | .ok (pa, e) => if e.np || e.dev then none else some pa
    | .error _ => none
  else none

/-- Locks a line, which comes into the cache where it is not there. -/
def State.lockLine (s : State) (core ctx : Nat) (segs : List (Nat × Nat × Nat)) (line pa : Nat) : State :=
  let here := (s.core core).iwords ctx (128 * line) ≠ [] || decide (placeOf pa ≠ .memory)
  let s := s.onCore core (fun c => { c with locked := c.locked ++ [(ctx, line)] })
  if here then s else s.onCore core (fun c => c.keepWords ctx line (s.lineWords segs line pa))

/-- Whether a core has room for one more locked line (14 R324). -/
def Core.lockRoom (c : Core) (line : Nat) : Bool :=
  c.locked.length < 512 && (c.locked.filter (fun x => decide (x.2 % 128 = line % 128))).length < 8

/-- Locks n lines from a line on; stops at the first that fails. The count, and the core's locks. -/
def State.lockLines (s : State) (core : Nat) (w : Wave) (segs : List (Nat × Nat × Nat)) : Nat → Nat → Nat × State
  | 0, _ => (0, s)
  | n + 1, line =>
    if (s.core core).locked.contains (w.ctx, line) then
      let r := State.lockLines s core w segs n (line + 1)
      (r.1 + 1, r.2)
    else match s.lineOk core w segs line with
      | some pa =>
        if (s.core core).lockRoom line then
          let r := State.lockLines (s.lockLine core w.ctx segs line pa) core w segs n (line + 1)
          (r.1 + 1, r.2)
        else (0, s)
      | none => (0, s)

/-- The first line of a range and the number of its lines (14 R325). -/
def lineRange (addr : Dword) (len : Word) : Nat × Nat :=
  (addr.toNat / 128, if len = 0 then 0 else (addr.toNat + len.toNat - 1) / 128 - addr.toNat / 128 + 1)

/-- Issues ICLK or ICUNLK. -/
def State.lineOp (s : State) (op : AsyncOp) (a : SArgs) : State :=
  let ar := regs a.a.toNat 2
  s.asyncIssue op { sr := ar ++ [a.b.toNat], sw := [a.d.toNat],
                    sfree := (if a.la then ar else []) ++ (if a.lb then [a.b.toNat] else []) } 0 a.d.toNat 1 (fun w o =>
    o.withOperands (w.s2 a.a.toNat) ((w.s a.b.toNat).setWidth 128))

/-- ICLK (14 R325). -/
def execIclk (a : SArgs) (s : State) : Out := .next (s.lineOp .iclk a)

/-- ICUNLK (14 R325). -/
def execIcunlk (a : SArgs) (s : State) : Out := .next (s.lineOp .icunlk a)

/-! ## What these operations do when they are performed -/

/-- SPAWN (13 R291): the status. -/
def State.spawn (s : State) (core : Nat) (w : Wave) (o : MemOp) : List Word × State :=
  let die := dieOf core
  let q := s.taskQueue die w.ctx
  if 15 ≤ w.depth then ([2], s)
  else if 4096 ≤ q.length then ([1], s)
  else
    let t : Task := { template := o.addr 0, payload := o.operand, depth := w.depth + 1, ctx := w.ctx,
                      launchid := ((s.launchOf w.group).map (fun l => l.launchid)).getD 0, order := s.nextOrder,
                      launch := s.ownLaunch w }
    ([0], { s.setTaskQueue die w.ctx (q ++ [t]) with nextOrder := s.nextOrder + 1 })

/-- DQPUSH (13 R290). -/
def State.dqPush (s : State) (core : Nat) (w : Wave) (o : MemOp) : List Word × State :=
  let l := s.dequeEntries core (s.ownLaunch w)
  if 256 ≤ l.length then ([1], s) else ([0], s.setEntries core (s.ownLaunch w) (l ++ [o.operand]))

/-- DQPOP (13 R290): the tail entry. -/
def State.dqPop (s : State) (core : Nat) (w : Wave) : List Word × State :=
  let l := s.dequeEntries core (s.ownLaunch w)
  match l.getLast? with
  | none => ([1, 0, 0], s)
  | some e => ([0, loWord e, hiWord e], (s.setEntries core (s.ownLaunch w) l.dropLast).acquireAt core 5)

/-- DQSTEAL (13 R290): the head entry of the launch's deque on the victim core. -/
def State.dqSteal (s : State) (core : Nat) (w : Wave) (o : MemOp) : List Word × State :=
  match s.dequeEntries o.operand.toNat (s.ownLaunch w) with
  | [] => ([1, 0, 0], s)
  | e :: es => ([0, loWord e, hiWord e], (s.setEntries o.operand.toNat (s.ownLaunch w) es).acquireAt core 5)

/-- DQSIZE (13 R290). -/
def State.dqSize (s : State) (w : Wave) (o : MemOp) : List Word × State :=
  let core := o.operand.toNat
  ([BitVec.ofNat 32 (if core < 64 then (s.dequeEntries core (s.ownLaunch w)).length else 0)], s)

/-- LAUNCH (13 R293), with the record that was read: the status and the result. -/
def State.launchFrom (s : State) (w : Wave) (o : MemOp) : List Word × State :=
  match s.intake { ctx := w.ctx, words := o.desc } with
  | (0, t) => ([0, s.nextLaunchid], t)
  | (6, t) => ([1, 6], t)
  | (k, t) => ([2, BitVec.ofNat 32 k], t)

/-- ICLK (14 R325): the lines locked. At most 512 lines can be locked, so no more than 513 are looked at. -/
def State.lockRange (s : State) (core : Nat) (w : Wave) (o : MemOp) : List Word × State :=
  let r := lineRange (o.addr 0) (loWord o.operand)
  let (n, s) := s.lockLines core w (((s.launchOf w.group).bind (fun l => l.segments)).getD []) (min r.2 513) r.1
  ([BitVec.ofNat 32 n], s)

/-- ICUNLK (14 R325): the lines freed. -/
def State.unlockRange (s : State) (core : Nat) (w : Wave) (o : MemOp) : List Word × State :=
  let r := lineRange (o.addr 0) (loWord o.operand)
  let mine := fun (x : Nat × Nat) => decide (x.1 = w.ctx) && r.1 ≤ x.2 && x.2 < r.1 + r.2
  let c := s.core core
  ([BitVec.ofNat 32 (c.locked.filter mine).length], s.setCore core { c with locked := c.locked.filter (fun x => !mine x) })

/-- What such an operation of a wave does: the words of its destination. -/
def State.doAsync (s : State) (core : Nat) (w : Wave) (o : MemOp) (op : AsyncOp) : List Word × State :=
  match op with
  | .spawn => s.spawn core w o
  | .dqpush => s.dqPush core w o
  | .dqpop => s.dqPop core w
  | .dqsteal => s.dqSteal core w o
  | .dqsize => s.dqSize w o
  | .launch => s.launchFrom w o
  | .iclk => s.lockRange core w o
  | .icunlk => s.unlockRange core w o

/-! ## Events of splits -/

/-- A running wave whose replay is done (14 R305). -/
def State.running (s : State) (core wave : Nat) : Option Wave :=
  match s.wave core wave with
  | some w => if w.run = .running ∧ w.replaying = false then some w else none
  | none => none

/-- SPLIT_ARRIVE (04 R94). -/
def execSplitArrive (s : State) : Out := .next (
  match s.arg with
  | .at3 core wave k =>
    match s.running core wave with
    | none => s
    | some w =>
      if ((w.split k).map Split.atRejoin).getD false then
        s.putSplits core wave k (((w.split k).map (fun sp => sp.pc)).getD 0) w (w.arrive k)
      else s
  | _ => s)

/-- FUSE_TIMER_EXPIRY (04 R97). -/
def execFuseTimerExpiry (s : State) : Out := .next (
  match s.arg with
  | .at3 core wave k => if (s.running core wave).isSome then s.fuseExpiry core wave k else s
  | _ => s)

/-- REJOIN_TIMER_EXPIRY (04 R97). -/
def execRejoinTimerExpiry (s : State) : Out := .next (
  match s.arg with
  | .at3 core wave tag => if (s.running core wave).isSome then s.rejoinExpiry core wave tag else s
  | _ => s)

/-- YIELD_EXPIRY (04 R112): 32 issue cycles after YIELD. -/
def execYieldExpiry (s : State) : Out := .next (
  match s.arg with
  | .at3 core wave k => s.onWave core wave (fun w => w.onSplit k (fun sp =>
      if sp.yld && decide (sp.yldLeft = 0) then { sp with yld := false, young := true } else sp))
  | _ => s)

/-- ISSUE_PROMOTION (13 R287): ready for 512 cycles without dispatch. -/
def execIssuePromotion (s : State) : Out := .next (
  match s.arg with
  | .at3 core wave k => s.onWave core wave (fun w => w.onSplit k (fun sp =>
      if 512 ≤ sp.ready then { sp with promoted := true } else sp))
  | _ => s)

/-! ## The end of a stop's drain, and of a wave -/

/-- STOP_REPORT (14 R301). -/
def execStopReport (s : State) : Out := .next (
  match s.arg with
  | .at2 core wave => s.reportStop core wave
  | _ => s)

/-- Whether a wave's lanes have all exited and no work of it is outstanding (04 R98). -/
def State.waveOver (s : State) (core wave : Nat) : Bool :=
  match s.wave core wave with
  | none => false
  | some w =>
    decide (w.run = .running) && decide (w.liveLanes = 0) && w.ops.isEmpty && w.queries.isEmpty && w.repack.isNone &&
      (s.core core).cmds.all (fun c => decide (c.wave ≠ some wave)) &&
      (s.core core).array.all (fun o => decide (o.wave ≠ some wave))

/-- WAVE_END (04 R98). -/
def execWaveEnd (s : State) : Out := .next (
  match s.arg with
  | .at2 core wave => if s.waveOver core wave then s.waveGone core wave else s
  | _ => s)

end Sys2Proof.Machine
end

