-- ==== Sys2Proof/Machine/Raster.lean ====
section
/-! DEFINITION. Pass records (17 R373) and the exact rasterisation of a primitive (17 R379), as functions of their operands; the
colour of a pixel from its contributions (17 R386). -/

namespace Sys2Proof.Machine

/-! ## Pass records -/

/-- A pass record. -/
structure PassRecord where
  visonly : Bool
  clearDepth : Bool
  clearColour : Bool
  half : Bool
  width : Nat
  height : Nat
  meshAt : Dword
  pixelAt : Dword
  depthAt : Nat
  colourAt : Nat
  depthPitch : Nat
  colourPitch : Nat
  pool : Nat
  chunks : Nat
  depth0 : Word
  bitmap : Nat
  hz : Nat
  colour0 : Dword
  deriving DecidableEq, Repr

/-- The fields of a pass record's words. -/
def passRecordOf (l : List Word) : PassRecord :=
  let w := fun k => l.getD k 0
  let p := fun k => pairOf (w k) (w (k + 1))
  { visonly := (w 0).getLsbD 16, clearDepth := (w 0).getLsbD 17, clearColour := (w 0).getLsbD 18, half := (w 0).getLsbD 19,
    width := field (w 1) 15 0, height := field (w 1) 31 16, meshAt := p 2, pixelAt := p 4, depthAt := (p 6).toNat,
    colourAt := (p 8).toNat, depthPitch := (w 10).toNat, colourPitch := (w 11).toNat, pool := (p 12).toNat,
    chunks := (w 14).toNat, depth0 := w 15, bitmap := (p 16).toNat, hz := (p 18).toNat, colour0 := p 20 }

/-- Bytes of a pixel's colour. -/
def PassRecord.pixel (r : PassRecord) : Nat := if r.half then 8 else 4

/-- Whether a pass record is well formed (17 R373). -/
def passRecordOk (l : List Word) : Bool :=
  let w := fun k => l.getD k 0
  let r := passRecordOf l
  l.length = 48 && field (w 0) 15 0 = 0x5350 && field (w 0) 31 20 = 0 && 1 ≤ r.width && r.width ≤ 16384 && 1 ≤ r.height &&
    r.height ≤ 16384 && (!r.visonly || (r.pixelAt = 0 && r.colourAt = 0)) && r.depthPitch % 64 = 0 &&
    r.colourPitch % 64 = 0 && 4 * r.width ≤ r.depthPitch && r.pixel * r.width ≤ r.colourPitch && r.pool % 4096 = 0 &&
    16 ≤ r.chunks && r.chunks ≤ 2 ^ 24 && r.bitmap % 4096 = 0 && r.hz % 64 = 0 &&
    (List.range 26).all (fun k => decide (w (22 + k) = 0))

/-- Tiles in a row of a pass. -/
def PassRecord.across (r : PassRecord) : Nat := (r.width + 63) / 64

/-- Tiles of a pass. -/
def PassRecord.tiles (r : PassRecord) : Nat := r.across * ((r.height + 63) / 64)

/-! ## Snapping and culling -/

/-- A vertex on the grid of 1/256 pixel, with its depth and w. -/
structure Corner where
  x : Int := 0
  y : Int := 0
  z : Word := 0
  w : Rat := 1
  deriving DecidableEq, Repr

/-- The snapped vertex of a clip position; none where it culls its primitive. -/
def PassRecord.corner (r : PassRecord) (pos : List Word) : Option Corner :=
  match pos.map f32 with
  | [.fin _ x, .fin _ y, .fin zn z, .fin _ w] =>
    if w ≤ 0 then none
    else
      let sx := roundInt .rne (256 * (x / w + 1) * r.width / 2)
      let sy := roundInt .rne (256 * (1 - y / w) * r.height / 2)
      if 2 ^ 23 ≤ sx.natAbs ∨ 2 ^ 23 ≤ sy.natAbs then none
      else some { x := sx, y := sy, z := toF32 .rne (.fin zn (z / w)), w := w }
  | _ => none

/-- A primitive entry's vertex index. -/
def primIndex (e : Dword) (k : Nat) : Nat := (e.extractLsb' (8 * k) 8).toNat

/-- Object ID of a primitive entry. -/
def primObject (e : Dword) : Word := (e.extractLsb' 24 20).setWidth 32

/-- A primitive that is not culled. -/
structure Tri where
  a : Corner := {}
  b : Corner := {}
  c : Corner := {}
  object : Word := 0
  solid : Bool := false
  deriving DecidableEq, Repr

/-- Twice the signed area of three points. -/
def cross (ax ay bx b_y cx cy : Int) : Int := (bx - ax) * (cy - ay) - (b_y - ay) * (cx - ax)

/-- A of R379. -/
def Tri.area (t : Tri) : Int := cross t.a.x t.a.y t.b.x t.b.y t.c.x t.c.y

/-- The primitive of an entry and its vertices' positions, with the vertex count of MEND; none when it is culled. -/
def PassRecord.tri (r : PassRecord) (verts : Nat) (e : Dword) (pos : Nat → List Word) : Option Tri :=
  if (List.range 3).any (fun k => decide (verts ≤ primIndex e k)) then none
  else match r.corner (pos 0), r.corner (pos 1), r.corner (pos 2) with
    | some a, some b, some c =>
      let t : Tri := { a := a, b := b, c := c, object := primObject e, solid := e.getLsbD 44 }
      if t.area = 0 ∨ (e.getLsbD 45 = true ∧ t.area < 0) then none else some t
    | _, _, _ => none

/-- The tiles that a primitive's bounding box touches, in ascending order. -/
def PassRecord.touched (r : PassRecord) (t : Tri) : List Nat :=
  let lo := fun (p q k : Int) => min p (min q k)
  let hi := fun (p q k : Int) => max p (max q k)
  let x0 := lo t.a.x t.b.x t.c.x / 16384
  let x1 := hi t.a.x t.b.x t.c.x / 16384
  let y0 := lo t.a.y t.b.y t.c.y / 16384
  let y1 := hi t.a.y t.b.y t.c.y / 16384
  let within := fun (l h : Int) (n : Nat) => decide (l ≤ (n : Int)) && decide ((n : Int) ≤ h)
  (List.range r.tiles).filter (fun k => within x0 x1 (k % r.across) && within y0 y1 (k / r.across))

/-! ## Coverage, depth, barycentrics -/

/-- The edge functions opposite to the three vertices at a pixel's sample point, times the sign of the area. -/
def Tri.edges (t : Tri) (x y : Nat) : Int × Int × Int :=
  let px : Int := 256 * x + 128
  let py : Int := 256 * y + 128
  let f : Int := if t.area < 0 then -1 else 1
  (f * cross t.b.x t.b.y t.c.x t.c.y px py, f * cross t.c.x t.c.y t.a.x t.a.y px py,
    f * cross t.a.x t.a.y t.b.x t.b.y px py)

/-- Whether an edge is top-left when the vertices stand in the order of positive area. -/
def topLeft (rev : Bool) (p q : Corner) : Bool :=
  let (p, q) := if rev then (q, p) else (p, q)
  decide (q.y < p.y) || (decide (q.y = p.y) && decide (p.x < q.x))

/-- Whether a primitive covers a pixel, its depth apart. -/
def Tri.inside (t : Tri) (x y : Nat) : Bool :=
  let (ea, eb, ec) := t.edges x y
  let rev := decide (t.area < 0)
  let ok := fun (e : Int) (p q : Corner) => decide (0 < e) || (decide (e = 0) && topLeft rev p q)
  ok ea t.b t.c && ok eb t.c t.a && ok ec t.a t.b

/-- The exact barycentrics of a pixel. -/
def Tri.lambda (t : Tri) (x y : Nat) : List Rat :=
  let (ea, eb, ec) := t.edges x y
  let n : Rat := (t.area.natAbs : Nat)
  [(ea : Rat) / n, (eb : Rat) / n, (ec : Rat) / n]

/-- A real number as a value to round. -/
def valOf (r : Rat) : Val := .fin (decide (r < 0)) r

/-- A pixel's depth; none where a vertex's depth is not finite, when no sum exists (log 36). -/
def Tri.depth (t : Tri) (x y : Nat) : Option Word :=
  match finite? t.a.z, finite? t.b.z, finite? t.c.z, t.lambda x y with
  | some za, some zb, some zc, [la, lb, lc] => some (toF32 .rne (valOf (la * za + lb * zb + lc * zc)))
  | _, _, _, _ => none

/-- A pixel's depth where the primitive covers it. -/
def Tri.covers (t : Tri) (x y : Nat) : Option Word :=
  if !t.inside x y then none
  else match t.depth x y with
    | some z =>
      if Val.below (f32 z) (.fin false 0) || Val.below (.fin false 1) (f32 z) || (f32 z).isNaN then none else some z
    | none => none

/-- b1 and b2 of a pixel; none where their denominator is 0. -/
def Tri.weights (t : Tri) (x y : Nat) : Option (Word × Word) :=
  match t.lambda x y with
  | [la, lb, lc] =>
    let n := la / t.a.w + lb / t.b.w + lc / t.c.w
    if n = 0 then none
    else some (toF32 .rne (valOf (lb / t.b.w / n)), toF32 .rne (valOf (lc / t.c.w / n)))
  | _ => none

/-! ## Colours -/

/-- The channels of a stored colour. -/
def storedChannels (half : Bool) (c : Dword) : List Val :=
  if half then (List.range 4).map (fun k => Fmt.f16.decode (element c 16 k))
  else (List.range 4).map (fun k => .fin false ((element c 8 k : Nat) / 255 : Rat))

/-- A contribution applied to a stored colour (17 R386). -/
def contribute (half : Bool) (dst : Dword) (blended : Bool) (src : Quad) : Dword :=
  let words := (List.range 4).map (fun k => BitVec.ofNat 32 (element src 32 k))
  let c := words.map f32
  let keep := Val.add false (.fin false 1) (Val.negate (c.getD 3 .nan))
  let out := if blended then (c.zip (storedChannels half dst)).map (fun x => Val.add false x.1 (Val.mul x.2 keep)) else c
  BitVec.ofNat 64 (leNat (texelBytes (if half then 1 else 0) out words))

end Sys2Proof.Machine
end

