-- ==== Sys2Proof/Machine/Pass.lean ====
section
/-! DEFINITION. Passes (17 R373–R386, R393): EMITM, mesh output, binning, the chunk pool, tile rendering, pixel waves. -/

namespace Sys2Proof.Machine

/-- A failed check of a unit: the pass enters state 5, and a fault record is posted. -/
def State.passFault (s : State) (die slot core : Nat) (info : FaultInfo) : State :=
  match s.passAt die slot with
  | none => s
  | some p =>
    let s := s.onPass die slot (fun p => { p with back := (if p.state = 5 then p.back else p.state), state := 5 })
    let l := (s.launch p.launch).getD {}
    let record := s.unitRecord info die p.ctx l.launchid core 0
    let s := s.send (l.port.getD 0) (mkMsg 0x0C p.ctx 0 0 (dwordBytes record))
    (s.ringRecord die record).pend die 6

/-! ## Opening a pass (17 R374) -/

/-- The record of a pass. -/
def Pass.record (p : Pass) : PassRecord := passRecordOf p.words

/-- The slot of the pass of a record on a die. -/
def Die.passOf (d : Die) (ctx : Nat) (a : Dword) : Option Nat :=
  d.passes.findSome? (fun e => e.2.bind (fun p => if p.ctx = ctx ∧ p.recAddr = a then some e.1 else none))

/-- Writes pages of the bitmap to zeros, as many as are left and go on at once. -/
def State.clearBitmap (s : State) (die slot : Nat) : Nat → State
  | 0 => s
  | n + 1 =>
    match s.passAt die slot with
    | none => s
    | some p =>
      if p.state = 5 ∨ 32 ≤ p.cleared then s
      else match s.unitWrite (.bin die slot) 0 p.ctx { addr := p.record.bitmap + 4096 * p.cleared, n := 4096 } with
        | (some (.fault e), s) => s.passFault die slot 0xFF e
        | (some .wait, s) => s
        | (none, s) => State.clearBitmap (s.onPass die slot (fun p => { p with cleared := p.cleared + 1 })) die slot n

/-- Reads a mesh or pixel template for a split that opens a pass; none where it fails the conditions of R292 and R374. -/
def State.passTemplate (s : State) (r : Reader) (core : Nat) (kind : LaunchKind) (task : Launch) (a : Dword) :
    Except UnitStop (Option Launch) × State :=
  match s.readWords r core task.ctx a 48 with
  | (.error .wait, s) => (.error .wait, s)
  | (.error (.fault _), s) => (.ok none, s)
  | (.ok bs, s) =>
    let l : Launch := { kind := kind, launchid := task.launchid, ctx := task.ctx, port := task.port, tag := task.tag,
                        words := recordWords bs }
    (.ok (if a.toNat % 64 = 0 && s.goodTemplate l && !l.flag 0 && !l.flag 6 then some l else none), s)

/-- Adds a template to the launches. -/
def State.addTemplate (s : State) (l : Launch) : State :=
  { s with launches := Table.set noneAt s.launches s.nextLaunch (some l), nextLaunch := s.nextLaunch + 1 }

/-- Opens or finds the pass of a record for an EMITM of launch n: its slot, none when the die has none free, or the stop, or a wait for words
in a window of another device. -/
def State.openPass (s : State) (r : Reader) (core n : Nat) (a : Dword) : Except UnitStop (Option Nat) × State :=
  let die := dieOf core
  let bad : Except UnitStop (Option Nat) := .error (.fault { cause := .illegalOperand, addr := a })
  match s.launch n with
  | none => (bad, s)
  | some l =>
    match (s.die die).passOf l.ctx a with
    | some slot => (.ok (some slot), s)
    | none =>
      let held := s.dies.any (fun d => (d.2.passOf l.ctx a).isSome || d.2.passes.any (fun e =>
        (e.2.map (fun p => decide (p.launch = n))).getD false))
      if held || a.toNat % 64 ≠ 0 || field (l.w 15) 15 8 = 0 then (bad, s)
      else match s.readWords r core l.ctx a 48 with
        | (.error e, s) => (.error e, s)
        | (.ok bs, s) =>
          let words := recordWords bs
          let p := passRecordOf words
          if !passRecordOk words then (bad, s)
          else match s.passTemplate r core .mesh l p.meshAt with
            | (.error e, s) => (.error e, s)
            | (.ok none, s) => (bad, s)
            | (.ok (some m), s) =>
              match (if p.visonly then (.ok (some { m with kind := .pixel }), s) else s.passTemplate r core .pixel l p.pixelAt) with
              | (.error e, s) => (.error e, s)
              | (.ok none, s) => (bad, s)
              | (.ok (some x), s) => match (List.range 16).find? (fun k => (s.passAt die k).isNone) with
                | none => (.ok none, s)
                | some slot =>
                  let k := s.nextLaunch
                  let t := ((s.addTemplate m).addTemplate x).setPass die slot (some
                    { launch := n, ctx := l.ctx, recAddr := a, words := words, meshLaunch := k, pixelLaunch := k + 1,
                      total := p.chunks })
                  (.ok (some slot), t.clearBitmap die slot 32)

/-! ## EMITM (17 R377) -/

/-- The counts that lanes get, and the payloads they append, of the requests in ascending lane order. -/
def emitted (req : Nat → Nat) (payload : Nat → Word) : List Nat → Nat → List (Nat × Nat) × List Word
  | [], _ => ([], [])
  | i :: is, free =>
    let n := min (min (req i) 4096) free
    let (counts, rest) := emitted req payload is (free - n)
    ((i, n) :: counts, (List.range n).map (fun j => payload i + BitVec.ofNat 32 j) ++ rest)

/-- EMITM (17 R374, R377): a release at device scope. It waits for words of the record or a template in a window of another device. -/
def execEmitm (f : FArgs) (s : State) : Out := .next (
  s.forced 64 (fun s => match s.issuing with
    | none => s
    | some (w, _) =>
      if s.shadowOf w.group then s.invalidReplay w.group
      else match w.kind with
        | .mesh _ _ _ | .pixel _ _ _ => s.stopHere .illegalOperand
        | _ =>
          if !s.mayRelease 5 then s
          else s.issueWith (FOp.uses .emitm f) (fun r sp t =>
            let die := dieOf s.cur.core
            let a := r.s2 f.s.toNat
            let who : Reader := .split s.cur.core s.cur.wave s.cur.split
            match t.openPass who s.cur.core (s.ownLaunch w) a with
            | (.error (.fault e), _) => s.stopWith e
            | (.error .wait, _) => (s.openPass who s.cur.core (s.ownLaunch w) a).2
            | (.ok slot, t) =>
              let free := if slot.isSome then 4096 - (t.die die).amps.length else 0
              let (counts, payloads) : List (Nat × Nat) × List Word := emitted (fun i => (r.v f.a.toNat i).toNat) (r.v (f.a.toNat + 1))
                (lanesOf (r.runOf sp f.g)) free
              let t := match slot with
                | none => t
                | some k =>
                  let base := ((t.passAt die k).map Pass.nextSeq).getD 0
                  (t.onPass die k (fun (p : Pass) => { p with nextSeq := p.nextSeq + payloads.length })).onDie die (fun d =>
                    { d with amps := d.amps ++ payloads.zipIdx.map (fun (x : Word × Nat) =>
                        ({ slot := k, seq := base + x.2, payload := x.1 } : AmpEntry)) })
              let t := t.onGroup w.group (fun g => { g with emitted := true })
              (t.onIssuer (fun x => x.writeVs (quadsOf sp.lanes) (r.runOf sp f.g) f.d.toNat 1 (fun i =>
                [BitVec.ofNat 32 (((counts.find? (fun (c : Nat × Nat) => decide (c.1 = i))).map Prod.snd).getD 0)]))).advance)))

/-! ## Chunks (17 R379, R382) -/

/-- Whether a chunk of the pool is free. -/
def Pass.chunkFree (p : Pass) (c : Nat) : Bool := decide (c < p.total) && !p.used.contains c

/-- The free chunks. -/
def Pass.freeChunks (p : Pass) : List Nat := (List.range p.total).filter (fun c => !p.used.contains c)

/-- A grow wait: the die's service core and the driver are told (17 R382). -/
def State.growWait (s : State) (die slot : Nat) : State :=
  ((s.onPass die slot (fun p => { p with state := 2, growAt := (s.svc die).cycle.toNat })).event 6 die slot 0 []).pend die 6

/-! ## Mesh waves (17 R376, R378) -/

/-- Places the mesh wave of an entry on a core, with its block among the possible ones. -/
def State.meshPlaced (s : State) (die : Nat) (e : AmpEntry) (p : Pass) (l : Launch) (c : Nat) (starts : List Nat) : State :=
  let (n, s) := s.freeChoice
  let block := starts.getD (n % starts.length) 0
  let s := s.onLaunch p.meshLaunch (fun _ => l)
  let s := s.onPass die e.slot (fun p =>
    { p with used := p.used ++ blockChunks block, blocks := p.blocks ++ [{ seq := e.seq, first := block }],
             meshWaves := p.meshWaves + 1 })
  s.addGroup p.meshLaunch l c 0 0 s.nextGroup false false false (.mesh die e.slot e.seq)
    (scalarPair 2 p.recAddr ++ [(4, e.payload), (5, BitVec.ofNat 32 e.seq), (6, BitVec.ofNat 32 block)])

/-- MESH_WAVE_PLACE (17 R376): the head entry of a die's queue, with five chunks for its block and eight more free. -/
def execMeshWavePlace (s : State) : Out := .next (
  match s.arg with
  | .at1 die =>
    match (s.die die).amps with
    | [] => s
    | e :: es =>
      match s.passAt die e.slot with
      | none => s
      | some p =>
        if p.cleared < 32 then s.clearBitmap die e.slot 32
        else if p.state ≠ 1 then s
        else
          let starts := p.freeChunks.filter (fun c => (blockChunks c).all p.chunkFree)
          if starts = [] ∨ p.total < p.used.length + 13 then (if p.writes = [] then s.growWait die e.slot else s)
          else match s.launch p.meshLaunch with
            | none => s
            | some l => match s.coresFor p.meshLaunch l false (coresOf die) with
              | some (c :: _) =>
                let taken := fun (s : State) => s.onDie die (fun d => { d with amps := es })
                match l.segments, s.readCode p.meshLaunch c l.ctx (l.pair 2) with
                | some _, _ => State.meshPlaced (taken s) die e p l c starts
                | none, (none, s) => s
                | none, (some none, s) => (taken s).complete l.port l.ctx l.tag l.launchid 2 false
                | none, (some (some segs), s) => State.meshPlaced (taken s) die e p { l with segments := some segs } c starts
              | _ => s
  | _ => s)

/-! ## Mesh output (17 R380) -/

/-- An instruction of a mesh wave that has not issued its MEND: its die, slot, pass and block. -/
def State.inMesh (s : State) (act : Nat → Nat → Pass → MeshBlock → State) : State :=
  match s.issuing with
  | none => s
  | some (w, _) => match w.kind with
    | .mesh die slot seq =>
      if w.mendDone then s.stopHere .illegalOperand
      else match s.passAt die slot with
        | none => s
        | some p => match p.blocks.find? (fun b => decide (b.seq = seq)) with
          | none => s
          | some b => act die slot p b
    | _ => s.stopHere .illegalOperand

/-- Stores of the lanes of run into the wave's block, relaxed and in lane order (17 R380; 10 R218): `n` bytes each, at the offset that `at_` gives
for an index below a limit. -/
def State.meshWrite (s : State) (op : FOp) (f : FArgs) (limit n : Nat) (at_ : Nat → Nat) (data : Wave → Nat → Nat) : State :=
  s.inMesh (fun _ _ p b => match s.issuing with
    | none => s
    | some (w0, sp0) =>
      if (lanesOf (w0.runOf sp0 f.g)).any (fun i => decide (limit ≤ (w0.v f.a.toNat i).toNat)) then
        s.whenIssuable (op.uses f) (fun s => s.stopHere .illegalOperand)
      else s.issueOp (op.uses f) (fun w sp =>
        let run := w.runOf sp f.g
        { kind := .store, access := .store, size := n, run := run, live := run,
          addrs := laneTable (fun _ => (0 : Dword)) run (fun i =>
            BitVec.ofNat 64 (p.record.pool + 4096 * b.first + at_ (w.v f.a.toNat i).toNat)),
          data := laneTable zeroQuad run (fun i => BitVec.ofNat 128 (data w i)) }))

/-- MOUT (17 R380). -/
def execMout (f : FArgs) (s : State) : Out := .next (
  s.meshWrite .mout f 256 16 (fun v => 64 * v + 16 * (f.d.toNat % 4)) (fun w i =>
    (w.v2 f.b.toNat i).toNat + 2 ^ 64 * (w.v2 (f.b.toNat + 2) i).toNat))

/-- POUT (17 R380). -/
def execPout (f : FArgs) (s : State) : Out := .next (
  s.meshWrite .pout f 512 8 (fun n => 16384 + 8 * n) (fun w i =>
    field (w.v f.b.toNat i) 23 0 + 2 ^ 24 * field (w.v (f.b.toNat + 1) i) 21 0))

/-- MEND (17 R380): closes the block, as a release at device scope, from the wave's sole live split (02 R48). -/
def execMend (f : FArgs) (s : State) : Out := .next (
  s.forced 64 (fun s => s.inMesh (fun die slot _ b =>
    if !s.mayRelease 5 then s
    else s.issueWith (FOp.uses .mend f) (fun w _ t =>
      let nv := field (w.s f.s.toNat) 8 0
      let np := field (w.s f.s.toNat) 25 16
      if 256 < nv ∨ 512 < np then s.stopHere .illegalOperand
      else
        let t := t.onPass die slot (fun p => { p with blocks := p.blocks.map (fun x =>
          if x.seq = b.seq then { x with verts := nv, prims := np, closed := true } else x) })
        (t.onIssuer (fun w => { w with mendDone := true })).advance))))

/-! ## Pixel output (17 R386) -/

/-- PIXOUT: the colour of each lane of run that is no helper. -/
def execPixout (f : FArgs) (s : State) : Out := .next (
  match s.issuing with
  | none => s
  | some (w, _) => match w.kind with
    | .pixel _ _ _ => s.issueWith (FOp.uses .pixout f) (fun r sp s =>
        let put := fun (t : Table (Option (Bool × Quad))) (i : Nat) =>
          Table.set noneAt t i (some (f.b.getLsbD 0, quadOfWords ((regs f.a.toNat 4).map (fun k => r.v k i))))
        (s.onIssuer (fun w => { w with
          colour := (lanesOf (r.runOf sp f.g &&& ~~~w.helper)).foldl put w.colour })).advance)
    | _ => s.stopHere .illegalOperand)

/-- PIXDISC: each lane of run becomes a helper lane and contributes no colour. -/
def execPixdisc (s : State) : Out := .next (
  match s.issuing, s.cur.aux with
  | some (w, sp), some x => match w.kind with
    | .pixel _ _ _ =>
      let run := w.runOf sp x.f.g
      (s.onIssuer (fun w => { w with
        helper := w.helper ||| run,
        colour := (lanesOf run).foldl (fun t i => Table.set noneAt t i none) w.colour })).advance
    | _ => s.stopHere .illegalOperand
  | _, _ => s)

/-! ## Reading blocks -/

/-- A reference (17 R381). -/
def trefOf (block prim : Nat) : Dword := BitVec.ofNat 64 (block * 2 ^ 40 + prim * 2 ^ 31)

/-- Block of a reference. -/
def refBlock (r : Dword) : Nat := (r.extractLsb' 40 24).toNat

/-- Primitive of a reference. -/
def refPrim (r : Dword) : Nat := (r.extractLsb' 31 9).toNat

/-- The clip position of a vertex of a block, from what a reader has read. -/
def Pass.readPosition (p : Pass) (q : Reads) (block v : Nat) : Except Nat (List Word) :=
  (List.range 4).mapM (fun k => q.word (p.record.pool + 4096 * block + 64 * v + 4 * k))

/-- The primitive of a reference; none when it is culled. -/
def Pass.readTri (p : Pass) (q : Reads) (r : Dword) : Except Nat (Option Tri) := do
  let verts := ((p.blocks.find? (fun b => decide (b.first = refBlock r))).map (fun b => b.verts)).getD 0
  let e ← q.dword (p.record.pool + 4096 * refBlock r + 16384 + 8 * refPrim r)
  let a ← p.readPosition q (refBlock r) (primIndex e 0)
  let b ← p.readPosition q (refBlock r) (primIndex e 1)
  let c ← p.readPosition q (refBlock r) (primIndex e 2)
  pure (p.record.tri verts e (fun k => [a, b, c].getD k []))

/-! ## Binning (17 R381, R382) -/

/-- Chunks of a tile's list. -/
def Pass.list (p : Pass) (t : Nat) : List Nat := Table.get nilAt p.lists t

/-- References in a tile's list. -/
def Pass.count (p : Pass) (t : Nat) : Nat := Table.get zeroNat p.refs t

/-- Byte address of a slot of a chunk. -/
def Pass.slotAt (p : Pass) (chunk k : Nat) : Nat := p.record.pool + 4096 * chunk + 8 * k

/-- Appends a reference to a tile's list: the writes that put it there, and the pass when they are made. -/
def State.appendRef (s : State) (die slot : Nat) (p : Pass) (t : Nat) (r : Dword) : State :=
  let n := p.count t
  let put := fun (p : Pass) (s : State) (writes : List UnitWrite) =>
    s.setPass die slot (some { p with refs := Table.set zeroNat p.refs t (n + 1), binTile := p.binTile + 1, writes := writes })
  let at_ := fun (c k v : Nat) => ({ addr := p.slotAt c k, n := 8, value := v } : UnitWrite)
  if n % 511 ≠ 0 then put p s [at_ ((p.list t).getLastD 0) (n % 511) r.toNat]
  else
    let free := p.freeChunks
    if free = [] then s.growWait die slot
    else
      let c := free.getD (Config.freeChoice s.free % free.length) 0
      let link := match (p.list t).getLast? with
        | some last => [at_ last 511 (c + 1)]
        | none => []
      put { p with used := p.used ++ [c], lists := Table.set nilAt p.lists t (p.list t ++ [c]) }
        { s with free := s.free + 1 } (at_ c 511 0 :: at_ c 0 r.toNat :: link)

/-- The writes that a binning unit has still to make. -/
def State.binWrites (s : State) (die slot : Nat) (p : Pass) : State :=
  match s.unitWrites (.bin die slot) 0 p.ctx p.writes with
  | (l, x, s) =>
    let s := s.onPass die slot (fun p => { p with writes := l })
    match x with
    | some (.fault e) => s.passFault die slot 0xFF e
    | _ => s

/-- BIN_BLOCK (17 R381): one step of the binning unit on a pass: pages of the bitmap still to be cleared; a word of the next primitive in
submission order is read, or its next tile takes a reference. -/
def execBinBlock (s : State) : Out := .next (
  match s.arg with
  | .at2 die slot =>
    match s.passAt die slot with
    | none => s
    | some p =>
      let held := (s.die die).amps.any (fun e => decide (e.slot = slot ∧ e.seq = p.binSeq))
      if p.state ≠ 5 ∧ p.cleared < 32 then s.clearBitmap die slot 32
      else if p.state ≠ 1 then s
      else if p.writes ≠ [] then s.binWrites die slot p
      else if p.nextSeq ≤ p.binSeq ∨ held = true then s
      else
        let skip := s.setPass die slot (some { p with binSeq := p.binSeq + 1, binPrim := 0, binTile := 0 })
        let next := { p with binPrim := p.binPrim + 1, binTile := 0, reads := {} }
        match p.blocks.find? (fun b => decide (b.seq = p.binSeq)) with
        | none => skip
        | some b =>
          if !b.closed then s
          else if b.prims ≤ p.binPrim then skip
          else match p.readTri p.reads (trefOf b.first p.binPrim) with
            | .error a => match s.readNext (.bin die slot) 0 p.ctx [a] with
              | (some e, s) => s.passFault die slot 0xFF e
              | (none, s) => s
            | .ok none => (s.setPass die slot (some next)).onCsr die (0x0C1C + 0x20 * slot) (· + 1)
            | .ok (some t) => match (p.record.touched t)[p.binTile]? with
              | none => s.setPass die slot (some next)
              | some tile => s.appendRef die slot p tile (trefOf b.first p.binPrim)
  | _ => s)

/-- A partial render begins (17 R382). -/
def State.declinePass (s : State) (die slot : Nat) : State :=
  s.onPass die slot (fun p => if p.state ≠ 2 then p
    else { p with state := 3, todo := (List.range p.record.tiles).filter (fun t => decide (p.count t ≠ 0)) })

/-- BINWAIT_EXPIRY (17 R375). -/
def execBinwaitExpiry (s : State) : Out := .next (
  match s.arg with
  | .at2 die slot =>
    let n := (s.csrAt die 0x0E00).toNat
    match s.passAt die slot with
    | none => s
    | some p => if n ≠ 0 ∧ n ≤ (s.svc die).cycle.toNat - p.growAt then s.declinePass die slot else s
  | _ => s)

/-- BINPASS_GROW (17 R375, R382): ADD chunks more; a grow wait ends. -/
def execBinpassGrow (s : State) : Out := .next (
  match s.arg with
  | .at3 die slot add => s.onPass die slot (fun p =>
      if 2 ^ 24 < p.total + add then p
      else { p with total := p.total + add, state := if p.state = 2 then 1 else p.state })
  | _ => s)

/-- BINPASS_DECLINE (17 R382). -/
def execBinpassDecline (s : State) : Out := .next (
  match s.arg with
  | .at2 die slot => s.declinePass die slot
  | _ => s)

/-- BINPASS_RESUME (17 R393): the failed access is made again by the step that made it. -/
def execBinpassResume (s : State) : Out := .next (
  match s.arg with
  | .at2 die slot => s.onPass die slot (fun p => if p.state = 5 then { p with state := p.back } else p)
  | _ => s)

/-- Whether every group of a pass's task launch has ended. -/
def State.taskOver (s : State) (p : Pass) : Bool :=
  match s.launch p.launch with
  | none => true
  | some l => decide (l.groups ≤ l.nextGroup) && l.discarded.isEmpty && decide (l.groups ≤ l.ended)

/-- FINAL_RENDER (17 R383): begins, once the task launch's groups, the entries and the mesh waves are done and all is binned. -/
def execFinalRender (s : State) : Out := .next (
  match s.arg with
  | .at2 die slot =>
    match s.passAt die slot with
    | none => s
    | some p =>
      if p.state = 1 ∧ s.taskOver p = true ∧ (s.die die).amps.all (fun e => decide (e.slot ≠ slot)) = true ∧
          p.meshWaves = 0 ∧ p.nextSeq ≤ p.binSeq ∧ 32 ≤ p.cleared ∧ p.writes = [] then
        s.setPass die slot (some { p with state := 4, todo := List.range p.record.tiles })
      else s
  | _ => s)

/-! ## Rendering a tile (17 R384, R385) -/

/-- The pixel of a tile at a local index. -/
def PassRecord.pixelOf (r : PassRecord) (t k : Nat) : Nat × Nat := (t % r.across * 64 + k % 64, t / r.across * 64 + k / 64)

/-- Whether a pixel lies in the image. -/
def PassRecord.within (r : PassRecord) (xy : Nat × Nat) : Bool := decide (xy.1 < r.width) && decide (xy.2 < r.height)

/-- Address of a pixel's depth. -/
def PassRecord.depthOf (r : PassRecord) (xy : Nat × Nat) : Nat := r.depthAt + xy.2 * r.depthPitch + 4 * xy.1

/-- Address of a pixel's colour. -/
def PassRecord.colourOf (r : PassRecord) (xy : Nat × Nat) : Nat := r.colourAt + xy.2 * r.colourPitch + r.pixel * xy.1

/-- The quads of a primitive in a tile: those with a pixel to shade. `free` gives the values the spec states none for. -/
def PassRecord.quads (r : PassRecord) (t : Nat) (ref : Dword) (tri : Tri) (shade : Nat → Bool) (free : Nat → Word) :
    List QuadJob :=
  (List.range 1024).filterMap (fun q =>
    let corner := q / 32 * 128 + q % 32 * 2
    let at_ := fun (j : Nat) => corner + j / 2 * 64 + j % 2
    let mask := (List.range 4).foldl (fun (m : BitVec 4) j => if shade (at_ j) then m ||| (1#4 <<< j) else m) 0
    if mask = 0 then none
    else
      let (x, y) := r.pixelOf t corner
      some { ref := ref, object := tri.object, x := x, y := y, mask := mask, values := (List.range 4).map (fun j =>
        let p := r.pixelOf t (at_ j)
        let n := 3 * at_ j
        let b := (tri.weights p.1 p.2).getD (free (n + 1), free (n + 2))
        ((tri.depth p.1 p.2).getD (free n), b.1, b.2)) })

/-- The writes that set an object's bit in the bitmap: in the word that holds it. -/
def Pass.objectBit (p : Pass) (o : Word) : UnitWrite :=
  { addr := p.record.bitmap + o.toNat / 32 * 4, value := 2 ^ (o.toNat % 32), setBits := true }

/-- Steps 1, 2 and the coverage of 4 of R384 on a tile, from what the engine has read: its depth and colour, the quads to shade in the order of
their contributions, and the bits to set. `free` numbers the free values. -/
def Pass.tileStart (p : Pass) (q : Reads) (free t : Nat) : Except Nat TileJob := do
  let r := p.record
  let first := !p.rendered.contains t
  let pixels := (List.range 4096).map (r.pixelOf t)
  let depth ← pixels.mapM (fun xy =>
    if !r.within xy then pure (0 : Word)
    else if first && r.clearDepth then pure r.depth0
    else q.word (r.depthOf xy))
  let colour ← pixels.mapM (fun xy =>
    if !r.within xy || r.visonly then pure (0 : Dword)
    else if first && r.clearColour then pure (BitVec.ofNat 64 (r.colour0.toNat % 2 ^ (8 * r.pixel)))
    else if r.pixel = 8 then q.dword (r.colourOf xy)
    else (q.word (r.colourOf xy)).map (fun x => x.setWidth 64))
  let refs ← (List.range (p.count t)).mapM (fun k => q.dword (p.slotAt ((p.list t).getD (k / 511) 0) (k % 511)))
  let tris ← refs.mapM (fun ref => (p.readTri q ref).map (fun x => (ref, x)))
  let known : List (Nat × Dword × Tri) := tris.zipIdx.filterMap (fun x => x.1.2.map (fun y => (x.2, x.1.1, y)))
  let solid := known.filter (fun x => x.2.2.solid)
  let won : List (Word × Option Nat) := (pixels.zip depth).map (fun x =>
    if !r.within x.1 then (x.2, none)
    else solid.foldl (fun best y => match y.2.2.covers x.1.1 x.1.2 with
      | some z => if Val.below (f32 z) (f32 best.1) then (z, some y.1) else best
      | none => best) (x.2, none))
  let shades := fun (y : Nat × Dword × Tri) (k : Nat) =>
    let xy := r.pixelOf t k
    if y.2.2.solid then decide ((won.getD k (0, none)).2 = some y.1)
    else r.within xy && (match y.2.2.covers xy.1 xy.2 with
      | some z => Val.below (f32 z) (f32 (won.getD k (0, none)).1)
      | none => false)
  let order := solid ++ known.filter (fun x => !x.2.2.solid)
  let jobs := order.flatMap (fun y => r.quads t y.2.1 y.2.2 (shades y) (fun n =>
    loWord (Config.freeDword (free + 16384 * y.1 + n))))
  pure { tile := t, depth := won.map (fun x => x.1), colour := colour, quads := if r.visonly then [] else jobs, stage := 1,
         writes := ((jobs.map (fun q => q.object)).eraseDups).map p.objectBit }

/-- Starts a pixel wave as it is filled from quads (17 R378, R385). -/
def Wave.fillPixels (w : Wave) (quads : List (QuadJob × Nat)) : Wave :=
  let lanes := quads.zipIdx.flatMap (fun x => (List.range 4).map (fun j => (4 * x.2 + j, x.1.1, x.1.2, j)))
  let filled := maskWhere (fun i => decide (i < 4 * quads.length))
  let helper := maskWhere (fun i => lanes.any (fun l => decide (l.1 = i) && !l.2.1.mask.getLsbD l.2.2.2))
  let words := fun (q : QuadJob) (j : Nat) =>
    let v := q.values.getD j (0, 0, 0)
    [BitVec.ofNat 32 (q.x + j % 2 + 2 ^ 16 * (q.y + j / 2)), v.1, v.2.1, v.2.2, loWord q.ref, hiWord q.ref, q.object]
  let w := lanes.foldl (fun (w : Wave) l => ((words l.2.1 l.2.2.2).zipIdx).foldl (fun w x =>
    w.putLane x.2 l.1 x.1) w) ((List.range 7).foldl (fun w r => w.bind (List.range quads.length) r) w)
  { w with
    exited := ~~~filled, helper := helper
    quadOf := lanes.foldl (fun t l => Table.set noneAt t l.1 (some (4 * l.2.2.1 + l.2.2.2))) []
    splits := w.splits.map (fun e => (e.1, e.2.map (fun sp => sp.setMask 7 helper))) }

/-- Changes the tile at which the engine of a core is. -/
def State.onJob (s : State) (die slot core : Nat) (f : TileJob → Option TileJob) : State :=
  s.onPass die slot (fun p => { p with jobs := Table.update noneAt p.jobs core (fun j => j.bind f) })

/-- Places the next pixel wave of an engine's tile on a core of the die. -/
def State.pixelPlace (s : State) (die slot core : Nat) (p : Pass) (j : TileJob) : State :=
  match s.launch p.pixelLaunch with
  | none => s
  | some l => match s.coresFor p.pixelLaunch l false (coresOf die) with
    | some (c :: _) =>
      let n := l.width / 4
      let take := (j.quads.zipIdx.drop j.placed).take n
      let moved := fun (s : State) (k : Nat) => s.onJob die slot core (fun j =>
        some { j with waves := j.waves + k, placed := j.placed + take.length })
      let place := fun (l : Launch) (s : State) =>
        let s := s.onLaunch p.pixelLaunch (fun _ => l)
        let id := s.freeWaveId c
        let s := s.addGroup p.pixelLaunch l c 0 0 s.nextGroup false false false (.pixel die slot j.tile)
          (scalarPair 2 p.recAddr ++ [(4, BitVec.ofNat 32 j.tile)])
        moved (s.onWave c id (fun w => w.fillPixels take)) 1
      match l.segments with
      | some _ => place l s
      | none => match s.readCode p.pixelLaunch c l.ctx (l.pair 2) with
        | (none, s) => s
        | (some none, s) => moved (s.complete l.port l.ctx l.tag l.launchid 2 false) 0
        | (some (some segs), s) => place { l with segments := some segs } s
    | _ => s

/-- A tile's pixels with their contributions applied. -/
def TileJob.finalColour (j : TileJob) (half : Bool) (k : Nat) (x y : Nat) : Dword :=
  j.quads.zipIdx.foldl (fun dst q =>
    if q.1.x ≤ x ∧ x < q.1.x + 2 ∧ q.1.y ≤ y ∧ y < q.1.y + 2 then
      match Table.get noneAt j.results (4 * q.2 + (y - q.1.y) * 2 + (x - q.1.x)) with
      | some c => contribute half dst c.1 c.2
      | none => dst
    else dst) (j.colour.getD k 0)

/-- Step 5 of R384: the words of depth, colour and hierarchical depth that are stored. -/
def TileJob.stores (j : TileJob) (r : PassRecord) : List UnitWrite :=
  let inside := (List.range 4096).filter (fun k => r.within (r.pixelOf j.tile k))
  let depths := inside.map (fun k => ({ addr := r.depthOf (r.pixelOf j.tile k), value := (j.depth.getD k 0).toNat } : UnitWrite))
  let colours := if r.visonly then [] else inside.flatMap (fun k =>
    let xy := r.pixelOf j.tile k
    let v := (j.finalColour r.half k xy.1 xy.2).toNat
    (List.range (r.pixel / 4)).map (fun i => ({ addr := r.colourOf xy + 4 * i, value := v / 2 ^ (32 * i) % 2 ^ 32 } : UnitWrite)))
  let blocks := (List.range 64).filterMap (fun b =>
    let here := inside.filter (fun k => decide (k / 512 = b / 8 ∧ k % 64 / 8 = b % 8))
    match here with
    | [] => none
    | k :: ks =>
      let far := ks.foldl (fun z i => Fmt.f32.extremum true z (j.depth.getD i 0).toNat) (j.depth.getD k 0).toNat
      let xy := r.pixelOf j.tile k
      some ({ addr := r.hz + 4 * (xy.2 / 8 * ((r.width + 7) / 8) + xy.1 / 8), value := far } : UnitWrite))
  depths ++ colours ++ blocks

/-- The end of a render: a partial one frees chunks and binning goes on; the final one frees the slot (17 R382, R383). -/
def State.renderDone (s : State) (die slot : Nat) (p : Pass) : State :=
  if p.state = 3 then
    let (binned, left) := p.blocks.partition (fun b => decide (b.seq < p.binSeq))
    let gone := p.lists.flatMap (fun e => e.2) ++ binned.flatMap (fun b => blockChunks b.first)
    (s.setPass die slot (some { p with
      state := 1, lists := [], refs := [], blocks := left, used := p.used.filter (fun c => !gone.contains c) })).onCsr die
      (0x0C18 + 0x20 * slot) (· + 1)
  else
    let s := s.setPass die slot none
    { s with launches := Table.set noneAt (Table.set noneAt s.launches p.meshLaunch none) p.pixelLaunch none }

/-- One write of a tile engine, of those that its tile has still to make, as the draw chooses (10 R216). -/
def State.tileWrite (s : State) (die slot core : Nat) (p : Pass) (j : TileJob) : State :=
  let r : Reader := .tile die slot core
  let k := if j.reads.asked.isSome || j.reads.wrote || j.reads.failed.isSome then 0 else Config.freeChoice s.free % j.writes.length
  let x := j.writes.getD k {}
  match { s with free := s.free + 1 }.unitWrite r core p.ctx x with
  | (some (.fault e), s) => s.passFault die slot core e
  | (some .wait, s) => s.onJob die slot core (fun j => some { j with writes := x :: j.writes.eraseIdx k })
  | (none, s) => s.onJob die slot core (fun j => some { j with writes := j.writes.eraseIdx k })

/-- The tile engine of a core takes the next tile of a render, unless it is at another (01 R13). -/
def State.takeTile (s : State) (die slot core : Nat) (p : Pass) : State :=
  match p.todo with
  | t :: ts =>
    if (s.die die).passes.any (fun e => (e.2.map (fun q => (Table.get noneAt q.jobs core).isSome)).getD false) then s
    else s.setPass die slot (some { p with todo := ts, jobs := Table.set noneAt p.jobs core (some { tile := t }) })
  | [] => if p.jobs.isEmpty then s.renderDone die slot p else s

/-- TILE_RENDER (17 R384): one step of the tile engine of a core on a pass that renders: it takes a tile, reads or writes a word for it, places its
next pixel wave, or is done with it. -/
def execTileRender (s : State) : Out := .next (
  match s.arg with
  | .at3 die slot core =>
    match s.passAt die slot with
    | none => s
    | some p =>
      if (p.state ≠ 3 ∧ p.state ≠ 4) ∨ dieOf core ≠ die then s
      else match Table.get noneAt p.jobs core with
        | none => s.takeTile die slot core p
        | some j =>
          let go := fun (f : TileJob → Option TileJob) => s.onJob die slot core f
          match j.stage with
          | 0 => match p.tileStart j.reads s.free j.tile with
            | .ok x => { go (fun _ => some x) with free := s.free + 16384 * p.count j.tile }
            | .error a => match s.readNext (.tile die slot core) core p.ctx [a] with
              | (some e, s) => s.passFault die slot core e
              | (none, s) => s
          | 2 =>
            if j.placed < j.quads.length then s.pixelPlace die slot core p j
            else if j.waves ≠ 0 then s
            else go (fun j => some { j with stage := 3, writes := j.stores p.record })
          | _ =>
            if j.writes ≠ [] then s.tileWrite die slot core p j
            else if j.stage = 1 then go (fun j => some { j with stage := 2 })
            else (go (fun _ => none)).onPass die slot (fun p => { p with rendered := j.tile :: p.rendered })
  | _ => s)

end Sys2Proof.Machine
end

