-- ==== Sys2Proof/Machine/Rays.lean ====
section
/-! DEFINITION. Ray queries (18 R395–R407): the structures, the exact walk, the instructions, the unit's steps. -/

namespace Sys2Proof.Machine

/-! ## Exact geometry -/

/-- Vectors of three. -/
def vsub (a b : List Rat) : List Rat := (a.zip b).map (fun x => x.1 - x.2)

/-- Dot product. -/
def vdot (a b : List Rat) : Rat := ((a.zip b).map (fun x => x.1 * x.2)).sum

/-- Cross product. -/
def vcross (a b : List Rat) : List Rat :=
  let f := fun (i j : Nat) => a.getD i 0 * b.getD j 0 - a.getD j 0 * b.getD i 0
  [f 1 2, f 2 0, f 0 1]

/-- Whether x ≤ y, with infinities. -/
def Val.le (x y : Val) : Bool :=
  match x, y with
  | .inf true, _ => true
  | _, .inf false => true
  | .fin _ a, .fin _ b => decide (a ≤ b)
  | _, _ => false

/-- The greater of two. -/
def Val.upper (x y : Val) : Val := if Val.le x y then y else x

/-- The lesser of two. -/
def Val.lower (x y : Val) : Val := if Val.le x y then x else y

/-- The interval in which a ray is between two planes of an axis (18 R402). -/
def slab (lo hi o d : Rat) : Val × Val :=
  if d = 0 then
    if lo ≤ o ∧ o ≤ hi then (.inf true, .inf false) else (.inf false, .inf true)
  else
    let a := valOf ((lo - o) / d)
    let b := valOf ((hi - o) / d)
    (Val.lower a b, Val.upper a b)

/-! ## Structures (18 R397–R400) -/

/-- Unsigned number of n bytes at an offset. -/
def at_ (bs : List Byte) (o n : Nat) : Nat := leNat ((bs.drop o).take n)

/-- An FP32 word at an offset, when it is finite. -/
def realAt (bs : List Byte) (o : Nat) : Option Rat := finite? (BitVec.ofNat 32 (at_ bs o 4))

/-- Three of them. -/
def pointAt (bs : List Byte) (o : Nat) : Option (List Rat) := (List.range 3).mapM (fun k => realAt bs (o + 4 * k))

/-- Whether a range of bytes is zero. -/
def zeros (bs : List Byte) (o n : Nat) : Bool := ((bs.drop o).take n).all (fun b => decide (b = 0))

/-- Whether child slot k of a node's 192 bytes is malformed. -/
def childBad (bs : List Byte) (k : Nat) : Bool :=
  let used := at_ bs 0x0F 1 / 2 ^ k % 2 = 1
  let m := at_ bs (0x80 + 8 * k) 8
  let kind := m / 2 ^ 60
  let q := fun (j : Nat) => at_ bs (0x20 + 12 * k + 2 * j) 2
  decide (3 < kind) || used != decide (kind ≠ 0) || (kind ≠ 2 && m / 2 ^ 56 % 16 ≠ 0) ||
    ((kind = 1 || kind = 3) && m % 64 ≠ 0) || (kind = 2 && m % 16 ≠ 0) ||
    (used && (List.range 3).any (fun a => decide (q (a + 3) < q a)))

/-- Whether a node is malformed. -/
def nodeBad (bs : List Byte) : Bool :=
  (pointAt bs 0).isNone || !zeros bs 0x10 16 || (List.range 8).any (childBad bs)

/-- The children of a node that a ray meets, by ascending near, ties by slot. -/
def nodeChildren (bs : List Byte) (o d : List Rat) (tmin tlim : Val) (inst : Option RayInstance) : List WalkItem :=
  let origin := (pointAt bs 0).getD []
  let kids := (List.range 8).filterMap (fun k =>
    let m := at_ bs (0x80 + 8 * k) 8
    if at_ bs 0x0F 1 / 2 ^ k % 2 = 0 then none
    else
      let axis := fun (a : Nat) =>
        let unit := pow2 ((at_ bs (0x0C + a) 1 : Int) - 127)
        let plane := fun (j : Nat) => origin.getD a 0 + (at_ bs (0x20 + 12 * k + 2 * j) 2 : Rat) * unit
        slab (plane a) (plane (a + 3)) (o.getD a 0) (d.getD a 0)
      let near := (List.range 3).foldl (fun x a => Val.upper x (axis a).1) tmin
      let far := (List.range 3).foldl (fun x a => Val.lower x (axis a).2) tlim
      if Val.le near far then
        some ({ kind := m / 2 ^ 60, addr := BitVec.ofNat 64 (m % 2 ^ 56), count := m / 2 ^ 56 % 16 + 1, near := near,
                inst := inst } : WalkItem)
      else none)
  sortBy (fun a b => Val.le a.near b.near) kids

/-- Whether an instance record is malformed. -/
def instanceBad (bs : List Byte) : Bool :=
  let f := at_ bs 0x3C 1
  decide (8 ≤ f) || f % 4 = 3 || !zeros bs 0x3D 131 || at_ bs 0x30 8 % 64 ≠ 0

/-- The ray in an instance (18 R403); none where a component is not finite. -/
def enterInstance (bs : List Byte) (o d : List Rat) : Option RayInstance :=
  match (List.range 12).mapM (fun k => realAt bs (4 * k)) with
  | none => none
  | some m =>
    let row := fun (v : List Rat) (last : Rat) (r : Nat) =>
      finite? (toF32 .rne (valOf (vdot ((m.drop (4 * r)).take 4) (v ++ [last]))))
    match (List.range 3).mapM (row o 1), (List.range 3).mapM (row d 0) with
    | some o, some d =>
      some { o := o, d := d, id := BitVec.ofNat 32 (at_ bs 0x38 4), flags := BitVec.ofNat 3 (at_ bs 0x3C 1) }
    | _, _ => none

/-- The hit of a ray on a triangle's 48 bytes, opacity resolved, the limits on t apart (18 R403). -/
def triangleHit (bs : List Byte) (o d : List Rat) (inst : Option RayInstance) (flags : BitVec 3) : Option (Hit × Bool) :=
  match pointAt bs 0, pointAt bs 12, pointAt bs 24 with
  | some v0, some v1, some v2 =>
    let e1 := vsub v1 v0
    let e2 := vsub v2 v0
    let p := vcross d e2
    let det := vdot e1 p
    if det = 0 then none
    else
      let s := vsub o v0
      let q := vcross s e1
      let b1 := vdot s p / det
      let b2 := vdot d q / det
      let t := vdot e2 q / det
      let front := decide (vdot (vcross e1 e2) d < 0)
      let w := at_ bs 0x24 4
      let x := (inst.getD {}).flags
      let culls := (w / 2 ^ 21 % 2 = 1 || flags.getLsbD 2) && !x.getLsbD 2
      if b1 < 0 ∨ b2 < 0 ∨ 1 < b1 + b2 ∨ (culls = true ∧ front = false) then none
      else
        let solid :=
          if flags.getLsbD 0 then true else if flags.getLsbD 1 then false
          else if x.getLsbD 0 then true else if x.getLsbD 1 then false
          else w / 2 ^ 20 % 2 = 1
        some ({ t := t, b1 := b1, b2 := b2, prim := BitVec.ofNat 64 (at_ bs 0x28 8),
                inst := (inst.map (fun i => i.id)).getD 0xFFFFFFFF,
                flags := BitVec.ofNat 32 (w % 2 ^ 20) ||| setBits 0 0x100000 solid ||| setBits 0 0x200000 front }, solid)
  | _, _, _ => none

/-! ## Queries -/

/-- The origin and direction of a query's ray in the space of an entry. -/
def Query.frame (q : Query) (inst : Option RayInstance) : List Rat × List Rat :=
  match inst with
  | some x => (x.o, x.d)
  | none => ((q.ray.take 3).map (fun w => (f32 w).real), ((q.ray.drop 4).take 3).map (fun w => (f32 w).real))

/-- tmin. -/
def Query.tmin (q : Query) : Val := f32 (q.ray.getD 3 0)

/-- tlim: tmax until a hit is committed, and the committed t after that. -/
def Query.tlim (q : Query) : Val := match q.best with
  | some h => valOf h.t
  | none => f32 (q.ray.getD 7 0)

/-- Whether t lies in the interval of R403. -/
def Query.takes (q : Query) (t : Rat) : Bool :=
  Val.le q.tmin (valOf t) && (match q.best with
    | some h => decide (t < h.t)
    | none => Val.le (valOf t) (f32 (q.ray.getD 7 0)))

/-- Whether a ray starts a walk; otherwise its query ends at once with a miss (18 R401). -/
def rayWalks (ray : List Word) : Bool :=
  ((ray.take 3) ++ ((ray.drop 4).take 3)).all (fun w => (finite? w).isSome) && !(f32 (ray.getD 3 0)).isNaN &&
    !(f32 (ray.getD 7 0)).isNaN && Val.le (f32 (ray.getD 3 0)) (f32 (ray.getD 7 0))

/-- The eight words of a report (18 R401). -/
def report (status : Nat) (h : Option Hit) (malformed : Bool) : List Word :=
  let top := setBits 0 0x80000000 malformed
  match h with
  | none => [BitVec.ofNat 32 status, 0, 0, 0, 0, 0, 0, top]
  | some x =>
    let r := fun (y : Rat) => toF32 .rne (valOf y)
    [BitVec.ofNat 32 status, r x.t, r x.b1, r x.b2, loWord x.prim, hiWord x.prim, x.inst, x.flags ||| 0x400000 ||| top]

/-- Writes a lane's report. -/
def Wave.putReport (w : Wave) (lane d : Nat) (l : List Word) : Wave :=
  w.writeVs [lane / 4] (laneBit lane) d 8 (fun _ => l)

/-- Changes a lane's query. -/
def Wave.setQuery (w : Wave) (lane : Nat) (q : Option Query) : Wave :=
  { w with queries := Table.set noneAt w.queries lane q }

/-- Ends a lane's query with a status. -/
def Wave.endQuery (w : Wave) (lane : Nat) (q : Query) (status : Nat) (malformed : Bool) : Wave :=
  (w.putReport lane q.d (report status (if status = 0 then none else q.best) malformed)).setQuery lane none

/-- A commit: RAYW ends with it, and RAYQ goes on. -/
def Wave.commitHit (w : Wave) (lane : Nat) (q : Query) (h : Hit) : Wave :=
  let q : Query := { q with best := some h, cand := none, waiting := false }
  if q.any then w.endQuery lane q 1 false else w.setQuery lane (some q)

/-! ## Slots (18 R395, R396) -/

/-- The queries on a core: their context and unit. -/
def State.queriesOn (s : State) (core : Nat) : List (Nat × Nat) :=
  (s.wavesOn core).flatMap (fun x => x.2.queries.filterMap (fun e => e.2.map (fun q => (x.2.ctx, q.unit))))

/-- Slots that a context holds on a core. -/
def State.slotsOf (s : State) (core ctx : Nat) : Nat := ((s.queriesOn core).filter (fun q => decide (q.1 = ctx))).length

/-- The lowest-numbered unit with n free slots. -/
def State.rayUnit (s : State) (core n : Nat) : Option Nat :=
  (List.range 4).find? (fun u => ((s.queriesOn core).filter (fun q => decide (q.2 = u))).length + n ≤ 128)

/-- The splits on a core that wait at the issue of a ray query: context and age. -/
def State.rayWaiters (s : State) (core : Nat) : List (Nat × Nat) :=
  (s.wavesOn core).flatMap (fun x =>
    if x.2.run ≠ .running then [] else x.2.live4.filterMap (fun y => y.2.rayWait.map (fun n => (x.2.ctx, n))))

/-- Whether a query instruction of a context must wait at issue, as far as turns go. -/
def State.rayHeld (s : State) (core ctx : Nat) (mine : Option Nat) : Bool :=
  let others := s.rayWaiters core
  (decide (384 ≤ s.slotsOf core ctx) && others.any (fun x => decide (x.1 ≠ ctx))) ||
    others.any (fun x => match mine with
      | some n => decide (x.2 < n) && !(decide (384 ≤ s.slotsOf core x.1) && others.any (fun y => decide (y.1 ≠ x.1)))
      | none => !(decide (384 ≤ s.slotsOf core x.1)))

/-! ## RAYQ, RAYW (18 R404) -/

/-- The issue of a query. -/
def State.rayIssue (s : State) (op : FOp) (f : FArgs) (any : Bool) : State :=
  match s.issuing with
  | none => s
  | some (w, sp) =>
    if !s.mayRelease 5 then s
    else
      let wait := { (s.onIssuingSplit (fun x => { x with rayWait := some (x.rayWait.getD s.nextOrder) })) with
        nextOrder := s.nextOrder + 1 }
      s.issueWith (op.uses f) (fun r sp' t =>
        let run := r.runOf sp' f.g
        let root := r.s2 f.s.toNat
        let rays := fun (i : Nat) => (regs f.a.toNat 8).map (fun k => r.v k i)
        let walks := (lanesOf run).filter (fun i => rayWalks (rays i))
        if root.toNat % 64 ≠ 0 then s.stopWith { cause := .misaligned, kind := .ray, addr := root }
        else if (lanesOf run).any (fun i => (Table.get noneAt w.queries i).isSome) then s.stopHere .illegalOperand
        else if run = 0 then
          (t.onIssuer (fun x => (regs f.d.toNat 8).foldl (fun x k => x.bind (quadsOf sp'.lanes) k) x)).advance
        else match s.rayUnit s.cur.core (lanesOf run).length with
          | none => wait
          | some u =>
            if s.rayHeld s.cur.core w.ctx sp.rayWait then wait
            else
              let start := fun (x : Wave) (i : Nat) =>
                let q : Query := { d := f.d.toNat, unit := u, any := any, ray := rays i, flags := f.b.extractLsb' 0 3,
                                   pc := s.cur.iaddr, split := s.cur.split }
                if walks.contains i then
                  x.setQuery i (some { q with stack := [{ addr := root, near := q.tmin }] })
                else x.endQuery i q 0 false
              (t.onIssuer (fun x => (lanesOf run).foldl start
                ((regs f.d.toNat 8).foldl (fun x k => x.bind (quadsOf sp'.lanes) k) x))).advance)

/-- RAYQ (18 R404). -/
def execRayq (f : FArgs) (s : State) : Out := .next (s.rayIssue .rayq f false)

/-- RAYW (18 R404). -/
def execRayw (f : FArgs) (s : State) : Out := .next (s.rayIssue .rayw f true)

/-! ## The any-hit protocol (18 R405) -/

/-- An instruction on the queries of the lanes of run that name the same D. -/
def State.onQueries (s : State) (act : FArgs → Wave → Nat → Query → Wave) : State :=
  match s.issuing, s.cur.aux with
  | some (w, sp), some x =>
    let lanes := lanesOf (w.runOf sp x.f.g)
    (s.onIssuer (fun w => lanes.foldl (fun w i => match Table.get noneAt w.queries i with
      | some q => if q.d = x.f.d.toNat then act x.f w i q else w
      | none => w) w)).advance
  | _, _ => s

/-- RAYACC: commits the candidate; TERM ends the query with status 3. -/
def execRayacc (s : State) : Out := .next (
  s.onQueries (fun f w i q => match q.waiting, q.cand with
    | true, some h =>
      if f.b.getLsbD 0 then w.endQuery i { q with best := some h } 3 false else w.commitHit i q h
    | _, _ => w))

/-- RAYCONT: rejects the candidate. -/
def execRaycont (s : State) : Out := .next (
  s.onQueries (fun _ w i q => if q.waiting then w.setQuery i (some { q with waiting := false, cand := none }) else w))

/-- RAYTERM: ends the query with status 3. -/
def execRayterm (s : State) : Out := .next (s.onQueries (fun _ w i q => w.endQuery i q 3 false))

/-! ## The walk (18 R402, R406) -/

/-- Bytes of a structure: of each kind of entry. -/
def WalkItem.words (x : WalkItem) : Nat := if x.kind = 2 then 12 else 48

/-- One step of a query: the entry on top of its stack, less the triangles after the first, with its bytes. -/
def Wave.walkStep (w : Wave) (lane : Nat) (q : Query) (x : WalkItem) (bs : List Byte) : Wave :=
  let (o, d) := q.frame x.inst
  let push := fun (items : List WalkItem) =>
    let st := items ++ q.stack
    if 64 < st.length then w.endQuery lane q 3 true else w.setQuery lane (some { q with stack := st })
  match x.kind with
  | 1 => if nodeBad bs then w.endQuery lane q 3 true else push (nodeChildren bs o d q.tmin q.tlim x.inst)
  | 2 =>
    if at_ bs 0x24 4 / 2 ^ 22 ≠ 0 then w.endQuery lane q 3 true
    else
      let q : Query :=
        if x.count ≤ 1 then q
        else { q with stack := { x with addr := x.addr + 48, count := x.count - 1, near := .inf true } :: q.stack }
      match triangleHit bs o d x.inst q.flags with
      | some (h, solid) =>
        if !q.takes h.t then w.setQuery lane (some q)
        else if solid then w.commitHit lane q h
        else (w.putReport lane q.d (report 2 (some h) false)).setQuery lane (some { q with cand := some h, waiting := true })
      | none => w.setQuery lane (some q)
  | _ =>
    if x.inst.isSome || instanceBad bs then w.endQuery lane q 3 true
    else match enterInstance bs o d with
      | none => w.setQuery lane (some q)
      | some i => push [{ addr := BitVec.ofNat 64 (at_ bs 0x30 8), near := q.tmin, inst := some i }]

/-- The addresses of the words of an entry's structure. -/
def WalkItem.addrs (x : WalkItem) : List Nat := (List.range x.words).map (fun k => (x.addr + BitVec.ofNat 64 (4 * k)).toNat)

/-- Those of them that are still to be read. -/
def WalkItem.need (x : WalkItem) (q : Reads) : List Nat := x.addrs.filter (fun a => (Table.get noneAt q.words a).isNone)

/-- The bytes of a structure from the words read. -/
def WalkItem.structureBytes (x : WalkItem) (q : Reads) : List Byte :=
  x.addrs.flatMap (fun a => leBytes 4 ((Table.get noneAt q.words a).getD 0).toNat)

/-- RAY_QUERY_UPDATE (18 R402): a ray unit reads a word of the structure that the top entry of a lane's stack names (10 R231), or, once it has
them all, takes the entry; or it ends the query. -/
def execRayQueryUpdate (s : State) : Out := .next (
  match s.arg with
  | .at3 core wave lane =>
    match s.wave core wave with
    | none => s
    | some w => match Table.get noneAt w.queries lane with
      | none => s
      | some q =>
        if q.waiting || q.fault.isSome then s
        else match q.stack with
          | [] => s.setWave core wave (some (w.endQuery lane q (if q.best.isSome then 1 else 0) false))
          | x :: rest =>
            let popped : Query := { q with stack := rest }
            if !Val.le x.near q.tlim then s.setWave core wave (some (w.setQuery lane (some popped)))
            else if s.shadowOf w.group && !s.shadowAllows w x.addr.toNat (4 * x.words) false then s.invalidReplay w.group
            else match x.need q.reads with
              | [] => s.setWave core wave (some (w.walkStep lane { popped with reads := {} } x (x.structureBytes q.reads)))
              | need => match s.readNext (.query core wave lane) core w.ctx need with
                | (none, s) => s
                | (some e, s) =>
                  let failed := fun (q : Option Query) => q.map (fun q => { q with fault := some e })
                  (s.onWave core wave (fun w => { w with queries := Table.update noneAt w.queries lane failed })).takeStop core wave
                    q.split e q.pc true
  | _ => s)

end Sys2Proof.Machine
end

