-- ==== Sys2Proof/Machine/Service.lean ====
section
/-! DEFINITION. The service cores: images and their installation (16 R368, R369), events (16 R370, R371), WFE and EVRET (16 R372). -/

namespace Sys2Proof.Machine

/-- The CSR space of a service core's event registers: its die's, or the hub's for SC4 (16 R370). -/
def svcSpace (n : Nat) : Nat := n

/-! ## Images (16 R368, R369) -/

/-- Unsigned number of n bytes of an image. -/
def imageField (b : List Byte) (o n : Nat) : Nat := leNat ((b.drop o).take n)

/-- Whether the operator key is allowed now (16 R368). -/
def State.operatorAllowed (s : State) : Bool :=
  s.stage = 3 && Config.operatorKeyHeld && (List.range 84).all (fun z => decide (field (s.csrAt 4 (0x6804 + 8 * z)) 10 8 ≠ 2)) &&
    (List.range 64).all (fun c => !s.benched c)

/-- Whether a key is allowed now. -/
def State.keyAllowed (s : State) (key : Nat) : Bool := key = 0 || (key = 1 && s.operatorAllowed)

/-- Whether an image's header keeps to the layout. -/
def imageOk (b : List Byte) : Bool :=
  let size := imageField b 4 4
  imageField b 0 4 = 0x45460001 && size % 8 = 0 && 8 ≤ size && size ≤ 262144 && imageField b 8 4 % 8 = 0 &&
    imageField b 8 4 < size && imageField b 12 1 ≤ 1 && imageField b 13 51 = 0 && imageField b 0xA0 96 = 0

/-- Whether n bytes of physical module memory can be read. -/
def State.physReadable (s : State) (a n : Nat) : Bool := decide (a + n ≤ 0x8000000000) && !s.poisoned a n

/-- STATUS of INSTCTL. -/
def State.installStatus (s : State) (n st : Nat) : State := s.onCsr 4 (0x7008 + 0x10 * n) (fun v => setField v 26 24 st)

/-- A GO of INSTCTL: the image is read and verified (16 R369 steps 1 and 2). -/
def State.installGo (s : State) (n : Nat) : State :=
  if field (s.csrAt 4 (0x7008 + 0x10 * n)) 26 24 = 1 then s
  else
    let a := (s.csrAt 4 (0x7004 + 0x10 * n)).toNat + 2 ^ 32 * field (s.csrAt 4 (0x7008 + 0x10 * n)) 13 0
    if !s.physReadable a 256 then s.installStatus n 6
    else
      let head := s.bytes a 256
      if !imageOk head then s.installStatus n 3
      else if !s.physReadable (a + 256) (imageField head 4 4) then s.installStatus n 6
      else if !s.keyAllowed (imageField head 12 1) then s.installStatus n 5
      else
        let image := head.take 64 ++ s.bytes (a + 256) (imageField head 4 4)
        if !Config.signatureVerifies (imageField head 12 1) image ((head.drop 64).take 96) then s.installStatus n 4
        else (s.installStatus n 1).onSvc n (fun c => { c with installing := some image })

/-- SC_INSTALL (16 R369): a GO of INSTCTL. -/
def execScInstall (s : State) : Out := .next (
  match s.arg with
  | .at1 n => if n < 5 then s.installGo n else s
  | _ => s)

/-- SC_INSTALL_COMPLETE (16 R369 steps 3 to 6): between two instructions the code is copied, the event registers and registers take
their reset values, and the core restarts at the entry. -/
def execScInstallComplete (s : State) : Out := .next (
  match s.arg with
  | .at1 n => match (s.svc n).installing with
    | none => s
    | some image =>
      if (s.svc n).asked then s else
      let sram := (image.drop 64).zipIdx.foldl (fun t x => Table.set (fun _ => (0 : Byte)) t x.2 x.1) []
      let s := s.onSvc n (fun c => { cycle := c.cycle, image := some image, sram := sram, halted := false,
                                     pc := BitVec.ofNat 64 (imageField image 8 4) })
      let s := [0x0A00, 0x0A04, 0x0A08, 0x0A10, 0x0A14, 0x0A18, 0x0A1C].foldl (fun s a => s.setCsr (svcSpace n) a 0) s
      (s.installStatus n 2).onCsr 4 (0x700C + 0x10 * n) (· + 1)
  | _ => s)

/-- A restart of a halted service core at level 0 at its image entry, its registers 0 (22 R440); one that runs, or has no image, is left as it is. -/
def State.svcRestart (s : State) (n : Nat) : State :=
  let c := s.svc n
  match c.halted, c.image with
  | true, some image => s.onSvc n (fun c => { c with
      halted := false, waiting := none, level := 0, saved := [], regs := [], banks := [],
      pc := BitVec.ofNat 64 (imageField image 8 4) })
  | _, _ => s

/-- SC_RESTART (16 R367, R369). -/
def execScRestart (s : State) : Out := .next (
  match s.arg with
  | .at1 n => if n < 5 then s.svcRestart n else s
  | _ => s)

/-! ## Events (16 R370, R371) -/

/-- Offset of the handler of a level. -/
def State.handler (s : State) (n l : Nat) : Nat := (s.csrAt (svcSpace n) (0x0A0C + 4 * l)).toNat

/-- Whether the handler of a level may be taken now (16 R368). -/
def State.handlerOk (s : State) (n l : Nat) : Bool :=
  match (s.svc n).image with
  | none => false
  | some image =>
    s.keyAllowed (imageField image 12 1) && s.handler n l % 8 = 0 && decide (s.handler n l < imageField image 4 4)

/-- The level of an event source. -/
def State.sourceLevel (s : State) (n i : Nat) : Nat := field (s.csrAt (svcSpace n) 0x0A08) (2 * i + 1) (2 * i) + 1

/-- The level that a service core takes next: the highest above LEVEL of a pending, enabled source whose handler may be taken. -/
def State.eventLevel (s : State) (n : Nat) : Option Nat :=
  let live := s.csrAt (svcSpace n) 0x0A00 &&& s.csrAt (svcSpace n) 0x0A04
  [4, 3, 2, 1].find? (fun l => decide ((s.svc n).level < l) &&
    (List.range 11).any (fun i => live.getLsbD i && s.sourceLevel n i = l) && s.handlerOk n l)

/-- Takes an event: the PC of LEVEL is saved, the bank switches, the handler runs. A WFE that waits completes with 0. -/
def State.svcTake (s : State) (n : Nat) : State :=
  if (s.svc n).halted || (s.svc n).asked then s
  else match s.eventLevel n with
    | none => s
    | some l => s.onSvc n (fun c =>
        let c := if c.waiting.isSome then c.writeS c.wfeDest 0 else c
        { c with waiting := none, saved := Table.set noneAt c.saved l (some (c.pc, c.level)), level := l,
                 pc := BitVec.ofNat 64 (s.handler n l) })

/-- SC_EVENT_TAKE (16 R371). -/
def execScEventTake (s : State) : Out := .next (
  match s.arg with
  | .at1 n => s.svcTake n
  | _ => s)

/-- EVPEND_CLEAR (16 R370): a write of 1 clears a pending source. -/
def execEvpendClear (s : State) : Out := .next (
  match s.arg with
  | .value n v => s.onCsr (svcSpace n) 0x0A00 (· &&& ~~~v)
  | _ => s)

/-! ## WFE, EVRET (16 R372) -/

/-- WFE: waits for an event, or for a number of cycles. On a wave its opcode is illegal (02 R28). -/
def execWfe (a : SArgs) (s : State) : Out := .next (
  match s.cur.svc with
  | none => s.stopHere .illegalOpcode
  | some n => s.scalarIssue { sr := [a.b.toNat], sw := [a.d.toNat], sfree := if a.lb then [a.b.toNat] else [] } (fun r s =>
      let limit := (r a.b.toNat).toNat
      (s.onSvc n (fun c => { c with
        waiting := some (if limit = 0 then 0 else c.cycle.toNat + limit), wfeDest := a.d.toNat })).advance))

/-- WFE_TIMEOUT (16 R372): the cycle limit has passed. -/
def execWfeTimeout (s : State) : Out := .next (
  match s.arg with
  | .at1 n => s.onSvc n (fun c => match c.waiting with
      | some d => if d ≠ 0 ∧ d ≤ c.cycle.toNat then { c.writeS c.wfeDest 1 with waiting := none } else c
      | none => c)
  | _ => s)

/-- EVRET: back to the level and PC saved at entry; at LEVEL 0 ILLEGAL_OPERAND. On a wave its opcode is illegal (02 R28). -/
def execEvret (s : State) : Out := .next (
  match s.cur.svc with
  | none => s.stopHere .illegalOpcode
  | some n =>
    let c := s.svc n
    match Table.get noneAt c.saved c.level with
    | some (pc, l) => s.onSvc n (fun c =>
        { c with pc := pc, level := l, saved := Table.set noneAt c.saved c.level none })
    | none => s.stopHere .illegalOperand)

end Sys2Proof.Machine
end

