-- ==== Sys2Proof/Machine/Debug.lean ====
section
/-! DEFINITION. The state window and its commands (14 R304–R308, R319; 04 R88, R89). -/

namespace Sys2Proof.Machine

/-! ## Commands (14 R305, R306, R319) -/

/-- STATE of WSTAT: 0 no wave, 1 running, 2 stopped, 3 parked, 4 stepping. -/
def State.waveState (s : State) (core wave : Nat) : Nat :=
  match s.wave core wave with
  | none => 0
  | some w => match w.run with
    | .stopped => 2
    | .parked => 3
    | _ => if w.stepping.isSome then 4 else 1

/-- A command that is ignored sets ERR. -/
def State.windowErr (s : State) (core : Nat) : State := s.onCore core (fun c => { c with werr := true })

/-- Whether RESUME or STEP is ignored for the cause of the frame (14 R305). -/
def State.resumeBarred (s : State) (core : Nat) (w : Wave) : Bool :=
  let z := s.zoneState (coreZone core)
  (decide (w.frameCause = causeCode .zoneEvacuation) && 2 ≤ z) ||
    (decide (w.frameCause = causeCode .benched) && s.benched core)

/-- WCMD RESUME on a wave (14 R305). -/
def State.windowResume (s : State) (core wave : Nat) (skip flush : Bool) : State :=
  match s.wave core wave with
  | none => s.windowErr core
  | some w =>
    if (w.run = .stopped ∨ w.run = .parked) ∧ s.resumeBarred core w = false then s.resumeWave core wave skip flush
    else s.windowErr core

/-- WCMD_RESUME (14 R305). -/
def execWcmdResume (s : State) : Out := .next (
  match s.arg with
  | .command core wave arg => s.windowResume core wave (arg.getLsbD 0) (arg.getLsbD 1)
  | _ => s)

/-- WCMD_STEP (14 R319). -/
def execWcmdStep (s : State) : Out := .next (
  match s.arg with
  | .command core wave arg =>
    match s.wave core wave with
    | none => s.windowErr core
    | some w =>
      let named := arg.toNat < 4 && (w.split arg.toNat).isNone
      if (w.run = .stopped ∨ w.run = .parked) ∧ s.resumeBarred core w = false ∧ (arg.toNat < 4 ∨ arg = 7) ∧ !named then
        (s.resumeWave core wave false false).onWave core wave (fun w => { w with stepping := some arg })
      else s.windowErr core
  | _ => s)

/-- DEBUG_STEP_STOP (14 R319): the stepped instruction has issued. -/
def execDebugStepStop (s : State) : Out := .next (
  match s.arg with
  | .at2 core wave =>
    match s.running core wave with
    | none => s
    | some w =>
      if w.stepping.isSome && w.stepped then
        s.takeStop core wave ((w.live4.head?.map (fun x => x.1)).getD 0) { cause := .debugStep } 0
      else s
  | _ => s)

/-- WCMD_KILL (14 R310, R311, R319). -/
def execWcmdKill (s : State) : Out := .next (
  match s.arg with
  | .command core wave _ =>
    match s.wave core wave with
    | none => s.windowErr core
    | some w =>
      let pc := (w.live4.head?.map (fun x => x.2.pc)).getD 0
      s.killOrDiscard core wave { cause := .kill } pc ((w.live4.head?.map (fun x => x.1)).getD 0)
  | _ => s)

/-- WCMD_HALT (14 R319). -/
def execWcmdHalt (s : State) : Out := .next (
  match s.arg with
  | .command core wave _ =>
    match s.wave core wave, s.waveState core wave with
    | some w, 1 => s.takeStop core wave ((w.live4.head?.map (fun x => x.1)).getD 0) { cause := .debugStep } 0
    | some _, 4 => s
    | _, _ => s.windowErr core
  | _ => s)

/-! ## Items of splits and paths (14 R307, space 2; 04 R88, R89) -/

/-- SPLITSTAT of a split in an entry (04 R89). -/
def Split.stat (sp : Split) (id : Nat) : Dword :=
  BitVec.ofNat 64 (sp.state + 8 + 16 * id + (if sp.yld then 64 else 0) + 2 ^ 7 * sp.rep.toNat +
    2 ^ 13 * sp.loops.length + (if sp.miss.isSome then 2 ^ 16 else 0) + 2 ^ 17 * sp.tag)

/-- A word of a split. The miss pair reads as its bit in [2] and the partner in [1:0] (log 24). The rejoin address and depth are undefined where
the tag is 0 (04 R88): `x` is what they read as then. -/
def Split.item (sp : Split) (x : Dword) (id word : Nat) : Dword :=
  if 6 ≤ word ∧ word ≤ 17 then
    let e := (sp.loops[(word - 6) / 3]?).getD (Table.get (fun _ => {}) sp.spare ((word - 6) / 3))
    match (word - 6) % 3 with
    | 0 => e.start
    | 1 => e.stop
    | _ => BitVec.ofNat 64 (e.count.toNat + 2 ^ 32 * e.depth.toNat)
  else if 19 ≤ word ∧ word ≤ 25 then Table.get (fun _ => 0) sp.masks (word - 18)
  else match word with
    | 0 => sp.pc
    | 1 => sp.lanes
    | 2 => sp.depth.setWidth 64
    | 3 => BitVec.ofNat 64 sp.tag
    | 4 => if sp.tag = 0 then x else sp.rejoin
    | 5 => (if sp.tag = 0 then x.setWidth 16 else sp.rdepth).setWidth 64
    | 18 => sp.rep.setWidth 64
    | 26 => sp.frm.setWidth 64
    | 27 => sp.sig.setWidth 64
    | 28 => sp.timer.setWidth 64
    | 29 => match sp.miss with
      | some p => BitVec.ofNat 64 (4 + p)
      | none => 0
    | 30 => sp.stat id
    | _ => 0

/-- A loop entry with one of its words written. -/
def LoopEntry.putItem (e : LoopEntry) (word : Nat) (v : Dword) : LoopEntry :=
  match word with
  | 0 => { e with start := v }
  | 1 => { e with stop := v }
  | _ => { e with count := loWord v, depth := v.extractLsb' 32 16 }

/-- A split with a word written. Lanes, depth, tag, the rejoin fields, the miss pair and SPLITSTAT are not written (14 R308). A loop entry
that is not in use keeps what is written to it (log 73). -/
def Split.putItem (sp : Split) (word : Nat) (v : Dword) : Split :=
  if 6 ≤ word ∧ word ≤ 17 then
    let k := (word - 6) / 3
    if k < sp.loops.length then { sp with loops := sp.loops.modify k (fun e => e.putItem ((word - 6) % 3) v) }
    else { sp with spare := Table.update (fun _ => {}) sp.spare k (fun e => e.putItem ((word - 6) % 3) v) }
  else if 19 ≤ word ∧ word ≤ 25 then sp.setMask (word - 18) v
  else match word with
    | 0 => { sp with pc := v.extractLsb' 0 56 |>.setWidth 64 }
    | 18 => { sp with rep := v.extractLsb' 0 6 }
    | 26 => sp.setFrm (loWord v)
    | 27 => { sp with sig := loWord v }
    | 28 => { sp with timer := v.extractLsb' 0 20 }
    | _ => sp

/-- A word of a rejoin record (14 R307, space 4). -/
def Record.item (r : Record) (word : Nat) : Dword :=
  match word with
  | 0 => r.members
  | 1 => r.arrived
  | 2 => if r.broken then 1 else 0
  | 3 => r.rejoin
  | 4 => r.rdepth.setWidth 64
  | 5 => BitVec.ofNat 64 r.outerTag
  | 6 => r.outerRejoin
  | 7 => r.outerDepth.setWidth 64
  | 8 => r.timer.setWidth 64
  | _ => 0

/-! ## Replay entries (14 R304) -/

/-- An 8-byte word of a replay queue entry. -/
def MemOp.item (o : MemOp) (word : Nat) : Dword :=
  if word = 0 then
    BitVec.ofNat 64 (o.status + 2 ^ 8 * (o.split % 4 + 4 * o.rep.toNat) + 2 ^ 16 * o.words.length)
  else if word = 1 then o.pc
  else if word < 7 then o.words.getD (word - 2) 0
  else if word = 7 then o.doneMask
  else if word ≤ 263 then
    let lane := (word - 8) / 4
    if o.run.getLsbD lane then
      match (word - 8) % 4 with
      | 0 => o.addr lane
      | 1 => (Table.get zeroQuad o.data lane).extractLsb' 0 64
      | 2 => (Table.get zeroQuad o.data lane).extractLsb' 64 64
      | _ => 0
    else 0
  else 0

/-- A replay entry with its status or its DONE mask written. -/
def MemOp.putItem (o : MemOp) (word : Nat) (v : Dword) : MemOp :=
  match word with
  | 0 => { o with status := v.toNat % 256 }
  | 7 => { o with doneMask := v }
  | _ => o

/-! ## The window (14 R306–R308) -/

/-- The word at a word of the A latch (14 R307, space 7): nine to a lane, the eight of A and SC. -/
def Latch.item (l : Latch) (k : Nat) : Word :=
  if k % 9 < 8 then Table.get zeroWord l.regs (8 * (k / 9) + k % 9) else Table.get oneScale l.scales (k / 9)

/-- A latch with a word written. -/
def Latch.putItem (l : Latch) (k : Nat) (v : Word) : Latch :=
  if k % 9 < 8 then { l with regs := Table.set zeroWord l.regs (8 * (k / 9) + k % 9) v }
  else { l with scales := Table.set oneScale l.scales (k / 9) v }

/-- A word of space 7. The lane field of an entry that is not valid, of which 07 R165 says nothing, reads as the lane's own number until it is
written (log 76). -/
def Wave.item7 (w : Wave) (k : Nat) : Dword :=
  if k < 64 then
    match w.remapped k with
    | some p => BitVec.ofNat 64 (64 + p % 64)
    | none => BitVec.ofNat 64 (Table.get (fun k => k) w.remap k % 64)
  else if k < 640 then (w.latch.item (k - 64)).setWidth 64
  else if k = 640 then
    BitVec.ofNat 64 (w.mticket.toNat + 2 ^ 8 * w.mdone.toNat + 2 ^ 16 * w.batch.toNat + 2 ^ 32 * w.cbdone.toNat)
  else if k = 641 then w.helper
  else 0

/-- The item of a stopped or parked wave that the window names; what is undefined in it is the next draw. -/
def State.windowItem (s : State) (w : Wave) (space index : Nat) : Dword :=
  match space with
  | 0 => if index < 2 ^ 14 then (w.v (index / 64) (index % 64)).setWidth 64 else 0
  | 1 => (w.s (index % 1024)).setWidth 64
  | 2 => match w.split (index / 1024 % 4) with
    | some sp => sp.item (Config.freeDword s.free) (index / 1024 % 4) (index % 32)
    | none => if index % 32 = 30 then BitVec.ofNat 64 (16 * (index / 1024 % 4)) else 0
  | 3 => match w.paths[index / 32 % 256]? with
    | some p => p.ctx.item (Config.freeDword s.free) 0 (index % 32)
    | none => 0
  | 4 => match w.record (index / 64 % 128) with
    | some r => r.item (index % 16)
    | none => 0
  | 5 => match w.queue[index / 512 % 32]? with
    | some o => o.item (index % 512)
    | none => 0
  | 6 => match index % 16 with
    | 6 => w.counts.getD (BitVec.ofNat 64 (w.queueUsed + 2 ^ 8 * w.regsUsed + 2 ^ 16 * w.spillUsed))
    | 7 => BitVec.ofNat 64 (w.loghead.toNat + (if w.loglost then 2 ^ 32 else 0))
    | k => if k < 6 then w.frame.getD k 0 else 0
  | 7 => w.item7 (index % 2048)
  | 8 =>
    if 8 * index + 8 ≤ s.scratchSize w.group then BitVec.ofNat 64 (leNat (s.scratchBytes w.group (8 * index) 8)) else 0
  | 9 =>
    if 8 * index + 8 ≤ s.accSize w.group then
      match s.group w.group with
      | some g => pairOf (Table.get zeroWord g.acc (2 * index)) (Table.get zeroWord g.acc (2 * index + 1))
      | none => 0
    else 0
  | _ => 0

/-- A wave with a word of space 7 written; the valid bits and the helper mask stay. -/
def Wave.putItem7 (w : Wave) (k : Nat) (v : Dword) : Wave :=
  if k < 64 then { w with remap := Table.set (fun k => k) w.remap k (v.toNat % 64) }
  else if k < 640 then { w with latch := w.latch.putItem (k - 64) (loWord v) }
  else if k = 640 then
    { w with mticket := v.extractLsb' 0 8, mdone := v.extractLsb' 8 8, batch := v.extractLsb' 16 16,
             cbdone := v.extractLsb' 32 16 }
  else w

/-- Writes an item of a stopped or parked wave (14 R308). A register or scalar that a write binds takes no place and meets no limit
(log 77). -/
def State.putWindowItem (s : State) (core wave : Nat) (w : Wave) (space index : Nat) (v : Dword) : State :=
  let put := fun (w : Wave) => s.setWave core wave (some w)
  match space with
  | 0 =>
    let (r, i) := (index / 64, index % 64)
    if index < 2 ^ 14 ∧ i < w.width then put ((w.bind [i / 4] r).putLane r i (loWord v)) else s
  | 1 => put (w.writeS 0 (index % 1024) (loWord v))
  | 2 => put (w.onSplit (index / 1024 % 4) (fun sp => sp.putItem (index % 32) v))
  | 3 => put { w with paths := w.paths.modify (index / 32 % 256) (fun p =>
      { p with ctx := p.ctx.putItem (index % 32) v }) }
  | 5 => put { w with queue := w.queue.modify (index / 512 % 32) (fun o => o.putItem (index % 512) v) }
  | 6 => match index % 16 with
    | 6 => put { w with counts := some v }
    | 7 => put { w with loghead := loWord v, loglost := v.getLsbD 32 }
    | k =>
      let w : Wave := { w with frame := w.frame.modify k (fun _ => v) }
      put (if k = 0 then { w with frameCause := v.toNat % 256 } else w)
  | 7 => put (w.putItem7 (index % 2048) v)
  | 8 => if 8 * index + 8 ≤ s.scratchSize w.group then s.storeScratch w.group (8 * index) (leBytes 8 v.toNat) else s
  | 9 =>
    if 8 * index + 8 ≤ s.accSize w.group then s.onGroup w.group (fun g =>
      { g with acc := Table.set zeroWord (Table.set zeroWord g.acc (2 * index) (loWord v)) (2 * index + 1) (hiWord v),
               accPoison := Table.set falseAt (Table.set falseAt g.accPoison (2 * index) false) (2 * index + 1) false })
    else s
  | _ => s

/-- A CSR of a core's state window (14 R306). -/
def windowCsr (core off : Nat) : Nat := 0x2000 + 0x100 * (core % 16) + off

/-- A core's window CSR as it is stored. -/
def State.wcsr (s : State) (core off : Nat) : Word := s.csrAt (dieOf core) (windowCsr core off)

/-- INDEX rises by 1 after each access of WDATALO. -/
def State.bumpIndex (s : State) (core : Nat) : State :=
  s.onCsr (dieOf core) (windowCsr core 0x0C) (fun v => setField v 27 0 ((field v 27 0 + 1) % 2 ^ 28))

/-- A read of WDATALO: the item, its high word to WDATAHI; of a running wave an undefined value (14 R306, R308). -/
def State.windowRead (s : State) (core : Nat) : State :=
  let wave := field (s.wcsr core 0) 8 0
  let a := s.wcsr core 0x0C
  let (v, s) : Dword × State := match s.wave core wave with
    | none => (0, s)
    | some w =>
      if w.run = .stopped ∨ w.run = .parked then (s.windowItem w (field a 31 28) (field a 27 0), { s with free := s.free + 1 }) else s.freeDword
  ((s.setCsr (dieOf core) (windowCsr core 0x10) (loWord v)).setCsr (dieOf core) (windowCsr core 0x14) (hiWord v)).bumpIndex
    core

/-- A write of WDATALO: WDATAHI and the value into the item (14 R306, R308). -/
def State.windowWrite (s : State) (core : Nat) (v : Word) : State :=
  let wave := field (s.wcsr core 0) 8 0
  let a := s.wcsr core 0x0C
  let s := s.setCsr (dieOf core) (windowCsr core 0x10) v
  let s := match s.wave core wave with
    | none => s
    | some w =>
      if w.run = RunState.stopped ∨ w.run = RunState.parked then
        s.putWindowItem core wave w (field a 31 28) (field a 27 0) (pairOf v (s.wcsr core 0x14))
      else s
  s.bumpIndex core

/-- WDATALO_READ (14 R306). -/
def execWdataloRead (s : State) : Out := .next (
  match s.arg with
  | .at1 core => s.windowRead core
  | _ => s)

/-- WDATALO_WRITE (14 R306). -/
def execWdataloWrite (s : State) : Out := .next (
  match s.arg with
  | .value core v => s.windowWrite core v
  | _ => s)

end Sys2Proof.Machine
end

