-- ==== Sys2Proof/Machine/Umpire.lean ====
section
/-! DEFINITION. Soft errors, benches and the L2 and SRAM-rail controls (15 R331, R339, R340, R345–R347). -/

namespace Sys2Proof.Machine

/-- UMPCTX_ABANDON (15 R331). -/
def execUmpctxAbandon (s : State) : Out := .next (
  match s.arg with
  | .at1 ctx => s.abandonSamples ctx
  | _ => s)

/-- UNBENCH of a core (15 R339): COUNT 0, WATCH and BENCHED clear, a self-test in progress abandoned. -/
def State.unbench (s : State) (core : Nat) : State := s.setCsr (dieOf core) (0x0200 + 4 * (core % 16)) 0

/-- FOUL_UNBENCH (15 R339). -/
def execFoulUnbench (s : State) : Out := .next (
  match s.arg with
  | .at1 core => s.unbench core
  | _ => s)

/-- SELF_TEST_COMPLETE (15 R340): STEST shows the result of a running self-test. -/
def execSelfTestComplete (s : State) : Out := .next (
  match s.arg with
  | .outcome core pass => s.onCsr (dieOf core) (0x0200 + 4 * (core % 16)) (fun v =>
      if field v 19 18 = 1 then setField v 19 18 (if pass then 2 else 3) else v)
  | _ => s)

/-! ## Soft errors (15 R345) -/

/-- A counter of a core's errors. -/
def State.coreErr (s : State) (core off : Nat) : State :=
  s.onCsr (dieOf core) (0x0300 + 0x20 * (core % 16) + off) (· + 1)

/-- The report of an uncorrectable error: EVENT with source 10, and the source at the die's service core. -/
def State.badEvent (s : State) (die core : Nat) : State := (s.event 10 die core 0 []).pend die 10

/-- An uncorrectable error in a core's registers, scratchpad or accumulator storage: counted, reported, and a foul (15 R339,
R345). -/
def State.poolError (s : State) (core : Nat) : State :=
  (((s.coreErr core 0x10).badEvent (dieOf core) core).foulStep core (· + 1)).benchDrain

/-- An uncorrectable error in a sector of L2 or memory: its poison bit is set (09 R205). -/
def State.poisonSector (s : State) (addr : Nat) : State :=
  { s with memPoison := Table.set falseAt s.memPoison (sectorOf addr) true }

/-- What an error does (an uncorrectable one in a line of L1 is a miss) (15 R345; 05 R127; 08 R181; 11 R238; 09 R205). -/
def State.eccError (s : State) (e : EccReport) : State :=
  match e with
  | .vector core wave reg quad bad =>
    if bad then
      (s.onWave core wave (fun w =>
        if w.bound reg quad then { w with vpoison := Table.set falseAt w.vpoison (16 * reg + quad) true } else w)).poolError core
    else s.coreErr core 0
  | .scalar core wave block bad =>
    if bad then
      (s.onWave core wave (fun w =>
        if w.blocksBound.contains block then { w with spoison := Table.set falseAt w.spoison block true } else w)).poolError
          core
    else s.coreErr core 0
  | .scratch core group word bad =>
    if bad then
      (s.onGroup group (fun g => { g with scratchPoison := Table.set falseAt g.scratchPoison word true })).poolError core
    else s.coreErr core 4
  | .accumulator core group element bad =>
    if bad then
      (s.onGroup group (fun g => { g with accPoison := Table.set falseAt g.accPoison element true })).poolError core
    else s.coreErr core 8
  | .l1 core addr bad =>
    if bad then (s.dropLines core addr 1).badEvent (dieOf core) core else s.coreErr core 0xC
  | .l2 die addr bad =>
    if bad then ((s.onCsr die 0x0504 (· + 1)).poisonSector addr).badEvent die 0x7F else s.onCsr die 0x0500 (· + 1)
  | .memory die addr bad =>
    if bad then ((s.onCsr die 0x050C (· + 1)).poisonSector addr).badEvent die 0x7F else s.onCsr die 0x0508 (· + 1)

/-- ECC_ERROR (15 R345). -/
def execEccError (s : State) : Out := .next (
  match s.arg with
  | .error e => s.eccError e
  | _ => s)

/-! ## The L2 check mode (15 R346) -/

/-- STATUS of L2ECC. -/
def State.eccStatus (s : State) (die : Nat) : Nat := field (s.csrAt die 0x0604) 1 0

/-- Starts a switch that REQ asks for, when none runs. -/
def State.eccStart (s : State) (die : Nat) : State :=
  let req := (s.csrAt die 0x0600).getLsbD 0
  match s.eccStatus die with
  | 0 => if req then (s.onCsr die 0x0604 (fun v => setField v 1 0 1)).trimL2 die else s
  | 2 => if req then s else s.onCsr die 0x0604 (fun v => setField v 1 0 3)
  | _ => s

/-- LEVEL of VSRAM. -/
def State.vsramLevel (s : State) (die : Nat) : Nat := field (s.csrAt die 0x0610) 31 16

/-- A write of REQ (15 R346, 19 R415): REQ = 0 is ignored while LEVEL stands below VSRAMLOW, and REQ stays 0 without the feature. -/
def State.eccReq (s : State) (die : Nat) (v : Word) : State :=
  if v.getLsbD 0 = false ∧ s.vsramLevel die < (Config.vsramLow die).toNat then s
  else if v.getLsbD 0 = true ∧ s.feature 7 = false then s
  else (s.setCsr die 0x0600 (v &&& 1)).eccStart die

/-- L2ECC_REQ_WRITE (15 R346). -/
def execL2eccReqWrite (s : State) : Out := .next (
  match s.arg with
  | .value die v => s.eccReq die v
  | _ => s)

/-- L2ECC_SWITCH_DONE (15 R346): STATUS settles, source 9 rises, and a request made meanwhile takes effect. -/
def execL2eccSwitchDone (s : State) : Out := .next (
  match s.arg with
  | .at1 die =>
    match s.eccStatus die with
    | 1 => ((s.onCsr die 0x0604 (fun v => setField v 1 0 2)).pend die 9).eccStart die
    | 3 => ((s.onCsr die 0x0604 (fun v => setField v 1 0 0)).pend die 9).eccStart die
    | _ => s
  | _ => s)

/-! ## The SRAM rail (15 R347) -/

/-- The rail's 1,000 cycles begin anew. -/
def State.railNow (s : State) (die : Nat) : State := { s with railAt := Table.set zeroNat s.railAt die (s.svc die).cycle.toNat }

/-- A write of TARGET. A rail that does not move begins to. -/
def State.vsramTarget (s : State) (die : Nat) (v : Word) : State :=
  let t := field v 15 0
  if t < 600 ∨ 900 < t ∨ (t < (Config.vsramLow die).toNat ∧ s.eccStatus die ≠ 2) then
    s.onCsr die 0x0614 (· ||| 1)
  else
    let s := if s.vsramLevel die = field (s.csrAt die 0x0610) 15 0 then s.railNow die else s
    s.onCsr die 0x0610 (fun w => setField w 15 0 t)

/-- VSRAM_TARGET_WRITE (15 R347). -/
def execVsramTargetWrite (s : State) : Out := .next (
  match s.arg with
  | .value die v => s.vsramTarget die v
  | _ => s)

/-- VSRAM_STEP (15 R347): LEVEL moves 5 mV toward TARGET, once 1,000 cycles of the die's service core have passed. -/
def execVsramStep (s : State) : Out := .next (
  match s.arg with
  | .at1 die =>
    let level := s.vsramLevel die
    let target := field (s.csrAt die 0x0610) 15 0
    if level = target ∨ (s.svc die).cycle.toNat < Table.get zeroNat s.railAt die + 1000 then s
    else (s.railNow die).onCsr die 0x0610 (fun w => setField w 31 16 (if level < target then min target (level + 5) else max target (level - 5)))
  | _ => s)

end Sys2Proof.Machine
end

