-- ==== Sys2Proof/Machine/Cluster.lean ====
section
/-! DEFINITION. Cluster power controllers (16 R365, R366; 22 R437, R438; 01 R20). -/

namespace Sys2Proof.Machine

/-- CTL of a controller. -/
def cpcCtl (n : Nat) : Nat := 0x0800 + 0x20 * n

/-- STS of a controller. -/
def cpcSts (n : Nat) : Nat := 0x0804 + 0x20 * n

/-- The cores of a cluster of a die. -/
def clusterCores (die n : Nat) : List Nat := (List.range 4).map (16 * die + 4 * n + ·)

/-- Changes STS; a change of STATE or of [6:0] raises source 5 (22 R437). -/
def State.onSts (s : State) (die n : Nat) (f : Word → Word) : State :=
  let v := s.csrAt die (cpcSts n)
  let t := s.setCsr die (cpcSts n) (f v)
  if (f v) &&& 0xF7F = v &&& 0xF7F then t else t.pend die 5

/-- STATE of a status word replaced. -/
def withState (v : Word) (st : Nat) : Word := setField v 11 8 st

/-- Discards the cluster's groups that R294 lets be discarded, while QREQ and DRAINMODE are set (16 R365). -/
def State.drainCluster (s : State) (die n : Nat) : State :=
  let c := s.csrAt die (cpcCtl n)
  if c.getLsbD 0 && c.getLsbD 1 then
    (clusterCores die n).foldl (fun s core => (s.groupsOn core).foldl (fun s g =>
      if s.discardable g.1 then s.discardCluster g.1 else s) s) s
  else s

/-- The registers of a cluster's cores that lose power take their reset values (16 R366, 22 R438). -/
def State.coresReset (s : State) (die n : Nat) : State :=
  (clusterCores die n).foldl (fun s core =>
    let k := core % 16
    let s := ((s.setCsr die (0x1018 + 0x40 * k) 0x2000).setCsr die (0x0900 + 4 * k) 0x2222).setCsr die (0x0200 + 4 * k) 0
    s.onCore core (fun c => { c with cycle := 0, tlb := [], l1 := [], icache := [], locked := [], records := [] })) s

/-- RETSAVE takes each core's FUSETIME, CLKSET, FOUL and %cycle as they stand (16 R366; 01 R20). -/
def State.retain (s : State) (die n : Nat) : State :=
  (clusterCores die n).foldl (fun s core =>
    let k := core % 16
    s.onCore core (fun c => { c with retained :=
      { fusetime := s.csrAt die (0x1018 + 0x40 * k), clkset := s.csrAt die (0x0900 + 4 * k), foul := s.csrAt die (0x0200 + 4 * k),
        cycle := c.cycle } })) s

/-- The acting changes of a write of CTL: bits 0 and 3 that fall, and bits 0, 2, 3, 4 and 5 that rise (22 R437). -/
def cpcAllowed (st sts old new : Word) : Bool :=
  let up := fun (k : Nat) => !old.getLsbD k && new.getLsbD k
  let down := fun (k : Nat) => old.getLsbD k && !new.getLsbD k
  (!up 0 || st = 0) && (!up 2 || sts.getLsbD 0) && (!up 3 || sts.getLsbD 0) && (!up 4 || sts.getLsbD 2) &&
    (!up 5 || (sts.getLsbD 1 && !sts.getLsbD 2)) && (!down 3 || sts.getLsbD 4) && (!down 0 || !sts.getLsbD 2)

/-- A write of CTL (16 R366, 22 R437): ignored as a whole with ERR when an acting change fails its precondition. -/
def State.cpcWrite (s : State) (die n : Nat) (v : Word) : State :=
  let old := s.csrAt die (cpcCtl n)
  let new := v &&& 0x3F
  let sts := s.csrAt die (cpcSts n)
  let up := fun (k : Nat) => !old.getLsbD k && new.getLsbD k
  let down := fun (k : Nat) => old.getLsbD k && !new.getLsbD k
  if !cpcAllowed (bits sts 11 8) sts old new then s.onSts die n (· ||| 0x40)
  else
    let s := s.setCsr die (cpcCtl n) new
    let s := if up 0 then s.onSts die n (fun w => withState w 1) else s
    let s := if up 2 then s.retain die n else s
    let s := if up 3 then s.onSts die n (fun w => withState (w ||| 4) (if field w 11 8 = 6 then 6 else 4)) else s
    let s := if up 4 then (s.coresReset die n).onSts die n (fun w => withState ((w ||| 8) &&& ~~~0x10#32) 5) else s
    let s := if down 3 then s.onSts die n (fun w =>
        let w := w &&& ~~~4#32
        if field w 11 8 = 4 then withState w (if w.getLsbD 1 then 3 else 2) else w)
      else s
    let s := if down 0 then s.onSts die n (fun w => withState (w &&& ~~~0x23#32) 0) else s
    s.drainCluster die n

/-- One bit of CTL written, the others as they stand. -/
def State.cpcBit (s : State) (die n k : Nat) (on : Bool) : State :=
  s.cpcWrite die n (setBits (s.csrAt die (cpcCtl n)) (BitVec.ofNat 32 (2 ^ k)) on)

/-- An event of a controller. -/
def State.cpcEvent (s : State) (act : Nat → Nat → State) : State :=
  match s.arg with
  | .at2 die n => if die < 4 ∧ n < 4 then act die n else s
  | _ => s

/-- CPC_QREQ_SET (16 R366). -/
def execCpcQreqSet (s : State) : Out := .next (s.cpcEvent (fun d n => s.cpcBit d n 0 true))

/-- CPC_DRAINMODE (16 R365). -/
def execCpcDrainmode (s : State) : Out := .next (s.cpcEvent (fun d n => s.cpcBit d n 1 true))

/-- Whether a cluster holds no group, and no engine, array or ray work remains (16 R366). -/
def State.clusterIdle (s : State) (die n : Nat) : Bool :=
  (clusterCores die n).all (fun c => (s.groupsOn c).isEmpty && (s.wavesOn c).isEmpty && (s.core c).cmds.isEmpty &&
    (s.core c).array.isEmpty)

/-- CPC_QACK (16 R366). -/
def execCpcQack (s : State) : Out := .next (s.cpcEvent (fun d n =>
  if field (s.csrAt d (cpcSts n)) 11 8 = 1 ∧ s.clusterIdle d n = true then s.onSts d n (fun w => withState (w ||| 1) 2)
  else s))

/-- CPC_RETSAVE (16 R366): what the image will hold is taken now (01 R20). -/
def execCpcRetsave (s : State) : Out := .next (s.cpcEvent (fun d n => s.cpcBit d n 2 true))

/-- The address of a cluster's retention image: RETADDR, a multiple of 64 KiB (16 R365). -/
def State.retBase (s : State) (die n : Nat) : Nat :=
  ((s.csrAt die (cpcCtl n + 0x0C)).toNat + 2 ^ 32 * (s.csrAt die (cpcCtl n + 0x10)).toNat) / 65536 * 65536

/-- CPC_RETDONE (16 R366; 01 R20): the image is written, of what RETSAVE took. Each core has 4 KiB of it: FUSETIME, CLKSET, FOUL and, at 16, %cycle
(log 25). -/
def execCpcRetdone (s : State) : Out := .next (s.cpcEvent (fun d n =>
  if (s.csrAt d (cpcCtl n)).getLsbD 2 && (s.csrAt d (cpcSts n)).getLsbD 0 && !(s.csrAt d (cpcSts n)).getLsbD 1 then
    let base := s.retBase d n
    let s := (clusterCores d n).foldl (fun s core =>
      let a := base + 4096 * (core % 4)
      let x := (s.core core).retained
      if placeOf a = .memory then
        s.putMem a (leBytes 4 x.fusetime.toNat ++ leBytes 4 x.clkset.toNat ++ leBytes 4 x.foul.toNat ++ leBytes 4 0 ++
          leBytes 8 x.cycle.toNat)
      else s) s
    s.onSts d n (fun w => withState (w ||| 2) (if field w 11 8 = 2 then 3 else field w 11 8))
  else s))

/-- CPC_CLKGATE_SET (16 R366). -/
def execCpcClkgateSet (s : State) : Out := .next (s.cpcEvent (fun d n => s.cpcBit d n 3 true))

/-- CPC_RAILOFF (16 R366, 22 R438). -/
def execCpcRailoff (s : State) : Out := .next (s.cpcEvent (fun d n => s.cpcBit d n 4 true))

/-- WAKE (16 R366): ERR when the rail is up. -/
def State.cpcWake (s : State) (die n : Nat) : State :=
  if (s.csrAt die (cpcSts n)).getLsbD 3 then
    (s.onCsr die (cpcCtl n) (· &&& ~~~0x10#32)).onSts die n (fun w => withState ((w ||| 0x10) &&& ~~~8#32) 6)
  else s.onSts die n (· ||| 0x40)

/-- CPC_WAKE (16 R366). -/
def execCpcWake (s : State) : Out := .next (s.cpcEvent (fun d n => s.cpcWake d n))

/-- CPC_CLKGATE_CLEAR (16 R366). -/
def execCpcClkgateClear (s : State) : Out := .next (s.cpcEvent (fun d n => s.cpcBit d n 3 false))

/-- CPC_RETLOAD (16 R366). -/
def execCpcRetload (s : State) : Out := .next (s.cpcEvent (fun d n => s.cpcBit d n 5 true))

/-- CPC_RETLOADED (22 R438; 16 R366): the saved values return, and EFFECTIVE is recomputed. -/
def execCpcRetloaded (s : State) : Out := .next (s.cpcEvent (fun d n =>
  let sts := s.csrAt d (cpcSts n)
  if (s.csrAt d (cpcCtl n)).getLsbD 5 && sts.getLsbD 1 && !sts.getLsbD 2 && !sts.getLsbD 5 then
    let base := s.retBase d n
    let s := (clusterCores d n).foldl (fun s core =>
      let a := base + 4096 * (core % 4)
      let k := core % 16
      let s := ((s.setCsr d (0x1018 + 0x40 * k) (s.wordAt a &&& 0xFFFFF)).setCsr d (0x0900 + 4 * k)
        (s.wordAt (a + 4) &&& 0x3F3F)).setCsr d (0x0200 + 4 * k) (s.wordAt (a + 8) &&& 0xF00FF)
      (s.onCore core (fun c => { c with cycle := s.dwordAt (a + 16) })).refreshClock core) s
    s.onSts d n (fun w => withState (w ||| 0x20) 7)
  else s))

/-- CPC_QREQ_CLEAR (16 R366). -/
def execCpcQreqClear (s : State) : Out := .next (s.cpcEvent (fun d n => s.cpcBit d n 0 false))

/-- Whether a core's FUSETIME, CLKSET and FOUL ignore writes (22 R438). -/
def State.coreDark (s : State) (core : Nat) : Bool :=
  let sts := s.csrAt (dieOf core) (cpcSts (core % 16 / 4))
  let st := field sts 11 8
  if sts.getLsbD 1 then (st = 5 || st = 6) else (st = 5 || (st = 6 && sts.getLsbD 2))

/-- Whether a core's clock runs: its cluster is not gated, and its zone stands at no evacuation step E6 (16 R364, R366). -/
def State.clocked (s : State) (core : Nat) : Bool :=
  !(s.csrAt (dieOf core) (cpcSts (core % 16 / 4))).getLsbD 2 &&
    field (s.csrAt 4 (0x6000 + 0x10 * coreZone core + 8)) 11 8 ≠ 6

end Sys2Proof.Machine
end

