-- ==== Sys2Proof/Machine/Thermal.lean ====
section
/-! DEFINITION. The cooling unit's events: samples, commits, clock raises, evacuations (16 R349–R364), and the power cap (01 R23). -/

namespace Sys2Proof.Machine

/-- SC4's cycle count, in which the cooling unit's delays run (16 R349, R357, R364). -/
def State.sc4Now (s : State) : Nat := (s.svc 4).cycle.toNat

/-- The address of a zone's ZSENS word. -/
def zsens (z k : Nat) : Nat := 0x6000 + 0x10 * z + 4 * k

/-- ESTEP of a zone. -/
def State.estep (s : State) (z : Nat) : Nat := field (s.csrAt 4 (zsens z 2)) 11 8

/-- Sets ESTEP; the time of the step's start is noted. -/
def State.setEstep (s : State) (z e : Nat) : State :=
  { s.onCsr 4 (zsens z 2) (fun v => setField v 11 8 e) with zoneAt := Table.set zeroNat s.zoneAt z s.sc4Now }

/-- TRIES of a zone. -/
def State.tries (s : State) (z : Nat) : Nat := field (s.csrAt 4 (zsens z 2)) 7 4

/-- Sets TRIES. -/
def State.setTries (s : State) (z n : Nat) : State := s.onCsr 4 (zsens z 2) (fun v => setField v 7 4 n)

/-- SC4 cycles since the step of a zone's evacuation began. -/
def State.stepAge (s : State) (z : Nat) : Nat := s.sc4Now - Table.get zeroNat s.zoneAt z

/-- Raises event source i of a zone: FLAGS, EVENTS and the service core of its die, SC4 for zones 80–83 (16 R363). -/
def State.zoneEvent (s : State) (z i : Nat) : State :=
  ((s.onCsr 4 (zsens z 2) (fun v => v ||| BitVec.ofNat 32 (2 ^ (24 + i)))).onCsr 4 (zsens z 3) (· + 1)).pend
    (if z < 80 then z / 20 else 4) i

/-! ## Caps (16 R357, R363, R364) -/

/-- Changes a core's caps, and its setting with them. -/
def State.recap (s : State) (c : Nat) (f : CoreFlow → CoreFlow) : State := (s.onFlow c f).refreshClock c

/-- The cores that an evacuation of a zone caps at class 1: a core zone's neighbours, or every core of a die for a zone of the die
that is no core zone (16 R364). -/
def evacCapped (z : Nat) : List Nat :=
  match zoneCore z with
  | some c => neighbourCores c
  | none => if z < 80 then (List.range 16).map (16 * (z / 20) + ·) else []

/-- Adds or takes away the cap at class 1 of an evacuation. -/
def State.capAround (s : State) (z : Nat) (on : Bool) : State :=
  (evacCapped z).foldl (fun s c => s.recap c (fun f =>
    { f with neighbour := if on then f.neighbour + 1 else f.neighbour - 1 })) s

/-! ## Evacuation (16 R364) -/

/-- E2: the valve is fully open and the purge begins. -/
def State.evacPurge (s : State) (z : Nat) : State :=
  (s.onCatHi z (fun v => setField v 23 16 255)).setEstep z 2

/-- E0 and E1: the core's cap falls and it leaves placement; groups that R294 lets be discarded are, the other waves park. A
zone of a die that is no core zone caps the die's cores; a hub zone begins at E2. -/
def State.evacBegin (s : State) (z : Nat) : State :=
  let s := { (s.setZoneState z 2).setTries z 0 with zoneWas := Table.set zeroNat s.zoneWas z (s.zoneState z) }
  match zoneCore z with
  | some c =>
    let s := (s.recap c (fun f => { f with evac := true })).setEstep z 1
    let s := (s.groupsOn c).foldl (fun s g => if s.discardable g.1 then s.discardCluster g.1 else s) s
    (s.wavesOn c).foldl (fun s w => s.takeStop c w.1 ((w.2.live4.head?.map (fun x => x.1)).getD 0)
      { cause := .zoneEvacuation } 0) s
  | none => if z < 80 then (s.capAround z true).evacPurge z else s.evacPurge z

/-- EVAC_E2 (16 R364): once no wave of the core issues. -/
def execEvacE2 (s : State) : Out := .next (
  match s.arg with
  | .at1 z => match zoneCore z with
    | some c =>
      if s.zoneState z = 2 ∧ s.estep z = 1 ∧ (s.wavesOn c).all (fun w => decide (w.2.run ≠ .running)) then
        (s.capAround z true).evacPurge z
      else s
    | none => s
  | _ => s)

/-- The rest of E6 (16 R364): the rail of the cluster of a failed core zone is turned off without retention once every core of the cluster is
benched. -/
def State.evacRailoff (s : State) (z : Nat) : State :=
  match zoneCore z with
  | none => s
  | some c =>
    let (d, n) := (dieOf c, c % 16 / 4)
    if s.zoneState z = 3 ∧ s.estep z = 6 ∧ (clusterCores d n).all s.benched = true ∧ (s.csrAt d (cpcSts n)).getLsbD 3 = false then
      ((s.onCsr d (cpcCtl n) (· ||| 0x19)).coresReset d n).onSts d n (fun w => withState ((w ||| 0xC) &&& ~~~0x12#32) 5)
    else s

/-- E5 and E6: the zone has failed (16 R364). A core zone's core is benched and its clock gated. -/
def State.evacFail (s : State) (z : Nat) : State :=
  let s := (s.setZoneState z 3).setEstep z 5
  let s := match zoneCore z with
    | some c => (((if s.benched c then s else s.bench c).benchDrain).setEstep z 6).evacRailoff z
    | none =>
      if z < 80 then
        (((List.range 16).map (16 * (z / 20) + ·)).foldl (fun (s : State) c => if s.benched c then s else s.bench c) s).benchDrain
      else (List.range 64).foldl (fun s c => s.recap c (fun f => { f with slow := true })) s
  s.regrant

/-- EVAC_E3 (16 R364): the purge ends after 320,000 cycles, and 50,000 later the dry sensor is retested: E4 when it is clear,
otherwise another purge, or E5 after the third. -/
def execEvacE3 (s : State) : Out := .next (
  match s.arg with
  | .outcome z clear =>
    if s.zoneState z ≠ 2 then s
    else if s.estep z = 2 ∧ 320000 ≤ s.stepAge z then s.setEstep z 3
    else if s.estep z = 3 ∧ 50000 ≤ s.stepAge z then
      let s := s.onCsr 4 (zsens z 2) (fun v => setBits v 0x80000000 (!clear))
      if clear then s.setEstep z 4
      else
        let n := s.tries z + 1
        let s := s.setTries z n
        if 3 ≤ n then s.evacFail z else s.evacPurge z
    else s
  | _ => s)

/-- EVAC_E4 (16 R364): after 100,000 cycles the flow stands at the grant, and the zone returns to service. -/
def execEvacE4 (s : State) : Out := .next (
  match s.arg with
  | .at1 z =>
    if s.zoneState z = 2 ∧ s.estep z = 4 ∧ 100000 ≤ s.stepAge z then
      let s := (s.setEstep z 15).capAround z false
      match zoneCore z with
      | some c =>
        let s := s.setZoneState z (if (s.groupsOn c).isEmpty then 0 else 1)
        ((s.recap c (fun f => { f with evac := false })).regrant).applyClass c
      | none =>
        let s := (s.setZoneState z (Table.get zeroNat s.zoneWas z)).regrant
        if 80 ≤ z then (List.range 64).foldl (fun s c => s.recap c (fun f => { f with slow := false })) s else s
    else s
  | _ => s)

/-! ## Supply (16 R361) -/

/-- The core zone to lower next: lowest PRI, then highest number, above class 0. -/
def State.lowerNext (s : State) : Option Nat :=
  (List.range 64).foldl (fun best c =>
    if (s.core c).flow.klass = 0 then best else match best with
      | none => some c
      | some b => if s.pri (coreZone c) ≤ s.pri (coreZone b) then some c else some b) none

/-- Lowers classes one step at a time until GUARSUM fits the supply. -/
def State.lowerClasses : Nat → State → State
  | 0, s => s
  | n + 1, s =>
    if s.guarSum ≤ s.supply then s
    else match s.lowerNext with
      | none => s
      | some c => State.lowerClasses n ({ s with lowered := c :: s.lowered }.setClass c ((s.core c).flow.klass - 1))

/-- Raises the lowered classes again, the last lowered first, while GUARSUM fits. -/
def State.raiseClasses : Nat → State → State
  | 0, s => s
  | n + 1, s =>
    match s.lowered with
    | [] => s
    | c :: rest =>
      let k := (s.core c).flow.klass
      if s.wantClass c ≤ k then State.raiseClasses n { s with lowered := rest }
      else
        let t := s.setClass c (k + 1)
        if (t.core c).flow.klass = k ∨ s.supply < t.guarSum then s else State.raiseClasses n { t with lowered := rest }

/-! ## Samples (16 R349, R363) -/

/-- A zone's readings and valve stored. A zone whose grant is 0 has its valve driven to 0. -/
def State.storeReading (s : State) (r : ZoneReading) : State :=
  let s := s.setCsr 4 (zsens r.zone 0) (r.outlet ++ r.inlet)
  let s := s.setCsr 4 (zsens r.zone 1) (BitVec.ofNat 32 (r.dp.toNat * 2 ^ 20 + r.flow.toNat))
  let s := s.onCsr 4 (zsens r.zone 2) (fun v => setBits v 0x80000000 r.dry)
  s.onCatHi r.zone (fun v => setField v 23 16 (if s.grant r.zone = 0 then 0 else r.valve.toNat))

/-- The tests of R363 on a zone's readings. -/
def State.testReading (s : State) (r : ZoneReading) : State :=
  let z := r.zone
  let lim := s.csrAt 4 0x6610
  let tlimit := (bits lim 31 16).extractLsb' 0 16
  let grant := s.grant z
  let old := field (s.catHi z) 23 16
  let s := s.storeReading r
  let hot := decide (tlimit.toInt < r.outlet.toInt)
  let s := if hot then s.zoneEvent z 0 else s
  let s := match zoneCore z with
    | some c =>
      if hot then s.recap c (fun f => { f with overtemp := true })
      else if r.outlet.toInt ≤ tlimit.toInt - 32 then s.recap c (fun f => { f with overtemp := false })
      else s
    | none => s
  let low := if r.flow.toNat * 16 < grant * field lim 15 12 then Table.get zeroNat s.zoneLow z + 1 else 0
  let s := { s with zoneLow := Table.set zeroNat s.zoneLow z low }
  let s := if 3 ≤ low then s.zoneEvent z 2 else s
  let diff := (r.flow.toNat - grant) + (grant - r.flow.toNat)
  let stuck := if field (s.catHi z) 23 16 = old ∧ diff ≠ 0 ∧ grant ≤ 10 * diff
    then Table.get zeroNat s.zoneStuck z + 1 else 0
  let s := { s with zoneStuck := Table.set zeroNat s.zoneStuck z stuck }
  let s := if 5 ≤ stuck then s.zoneEvent z 3 else s
  if r.dry then
    let s := s.zoneEvent z 1
    if s.zoneState z ≤ 1 then s.evacBegin z else s
  else s

/-- CFU_SAMPLE (16 R349, R354, R361, R363). -/
def execCfuSample (s : State) : Out := .next (
  match s.arg with
  | .sample zones supply =>
    let s := (zones.filter (fun r => decide (r.zone < 84))).foldl State.testReading s
    let s := { s with supply := supply }
    let s := if supply < s.guarSum then (s.pend 4 4).lowerClasses 192 else s.raiseClasses 192
    (List.range 80).foldl State.evacRailoff s.regrant
  | _ => s)

/-! ## The allocation table (16 R351, R352; 22 R439) -/

/-- Stages a write of a word of the table. -/
def State.catStage (s : State) (addr : Nat) (v : Word) : State :=
  { s with catStaged := Table.set noneAt s.catStaged ((addr - 0x6800) / 4) (some v) }

/-- CAT_WRITE (16 R351). -/
def execCatWrite (s : State) : Out := .next (
  match s.arg with
  | .register _ addr v => if 0x6800 ≤ addr ∧ addr < 0x6AA0 ∧ addr % 4 = 0 then s.catStage addr v else s
  | _ => s)

/-- A zone's entry with its staged words applied as their fields allow: the high word first (log 26). A zone whose STATE is 2
takes no write. -/
def State.catApply (s : State) (z : Nat) : State :=
  if s.zoneState z = 2 then s
  else
    let lo := Table.get noneAt s.catStaged (2 * z)
    let hi := Table.get noneAt s.catStaged (2 * z + 1)
    let s := match hi with
      | none => s
      | some v => s.onCatHi z (fun w =>
          let w := setField w 7 4 (field v 7 4)
          let w := if field v 15 11 < 2 then setField w 15 11 (field v 15 11) else w
          if field v 10 8 < 2 ∨ field v 10 8 = 4 then setField w 10 8 (field v 10 8) else w)
    let s := match lo with
      | none => s
      | some v => s.onCatLo z (fun w =>
          let w := setField w 23 12 (field v 23 12)
          if s.owner z = 0 then w else setField w 11 0 (field v 11 0))
    match zoneCore z with
    | some c => if s.owner z = 0 then s.onCatLo z (fun w => setField w 11 0 (classGuar (s.core c).flow.klass)) else s
    | none => s

/-- CAT_COMMIT (16 R352): the staged words of the named zones take effect together, unless GUARSUM would exceed SUPPLYCAP. A
failed zone that is set to state 0 is evacuated again from E2. -/
def State.catCommit (s : State) (v : Word) : State :=
  let s := s.setCsr 4 0x6600 (v &&& 0xFF)
  let zone := field v 7 0
  if v.getLsbD 31 = false ∨ (84 ≤ zone ∧ zone ≠ 0xFF) then s
  else
    let zs := if zone = 0xFF then List.range 84 else [zone]
    let again := zs.filter (fun z => decide (s.zoneState z = 3) &&
      ((Table.get noneAt s.catStaged (2 * z + 1)).map (fun v => decide (field v 10 8 = 0))).getD false)
    let t := zs.foldl State.catApply s
    if s.supplyCap < t.guarSum then s.onCsr 4 0x6604 (· ||| 4)
    else
      let t := { t with catStaged := zs.foldl (fun l z =>
        Table.set noneAt (Table.set noneAt l (2 * z) none) (2 * z + 1) none) s.catStaged }
      (again.foldl (fun t z => ((t.setZoneState z 2).setTries z 0).evacPurge z) t).regrant

/-- CAT_COMMIT (16 R352). -/
def execCatCommit (s : State) : Out := .next (
  match s.arg with
  | .value _ v => s.catCommit v
  | _ => s)

/-! ## Clocks and power -/

/-- Whether a core's clock cap may rise now: its zone's FLOW has reached 95 % of the grant, or 200,000 cycles of SC4 have passed
(16 R357). -/
def State.mayRaise (s : State) (c : Nat) : Bool :=
  let z := coreZone c
  (s.core c).flow.rise &&
    (95 * s.grant z ≤ 100 * field (s.csrAt 4 (zsens z 1)) 11 0 || (s.core c).flow.riseAt + 200000 ≤ s.sc4Now)

/-- CLOCK_RAISE (16 R357). -/
def execClockRaise (s : State) : Out := .next (
  match s.arg with
  | .at1 c =>
    if s.mayRaise c then s.recap c (fun f => { f with capClass := f.klass, rise := false }) else s
  | _ => s)

/-- The rank of a core in the order of lowering, the first to be lowered greatest: empty cores, then by the lowest CLASS of the
groups held; among equals the highest number first (01 R23). -/
def State.powerRank (s : State) (c : Nat) : Nat :=
  let classes := (s.groupsOn c).map (fun g => ((s.launch g.2.launch).map (fun l => l.klass)).getD 0)
  (match classes with
    | [] => 4
    | k :: ks => ks.foldl min k) * 64 + c

/-- The core of greatest, or least, rank among some. -/
def State.rankPick (s : State) (greatest : Bool) (cs : List Nat) : Option Nat :=
  cs.foldl (fun best c => match best with
    | none => some c
    | some b => if (decide (s.powerRank b < s.powerRank c) == greatest) then some c else some b) none

/-- POWER_MEASURE (01 R23): the draw in milliwatts; one core's power cap goes down, or up, by one step. -/
def execPowerMeasure (s : State) : Out := .next (
  match s.arg with
  | .at1 draw =>
    if 3200000 < draw then
      match s.rankPick true ((List.range 64).filter (fun c => 0 < (s.core c).flow.powerCap)) with
      | some c => s.recap c (fun f => { f with powerCap := f.powerCap - 1 })
      | none => s
    else if draw ≤ 3100000 then
      match s.rankPick false ((List.range 64).filter (fun c => (s.core c).flow.powerCap < 40)) with
      | some c => s.recap c (fun f => { f with powerCap := f.powerCap + 1 })
      | none => s
    else s
  | _ => s)

end Sys2Proof.Machine
end

