-- ==== Sys2Proof/Machine/Csr.lean ====
section
/-! DEFINITION. Control and status registers: what each reads (19 R417) and what a write of it does (00 R4), the CSR instructions
(16 R372), and the registers of the hub that act: TLBINV (09 R202), ENABLE and STAGE (19 R415, R416). -/

namespace Sys2Proof.Machine

/-- Who accesses a CSR: a wave of context 0, a link message of context 0, or a service core. -/
inductive Agent where
  | wave
  | link
  | svc (n : Nat)
  deriving DecidableEq, Repr

/-- Whether an agent is context 0. -/
def Agent.ctx0 : Agent → Bool
  | .svc _ => false
  | _ => true

/-- Whether an agent is context 0 or SC4. -/
def Agent.hubKeeper : Agent → Bool
  | .svc n => n = 4
  | _ => true

/-- Whether an agent is context 0 on the link, or SC4 (09 R195). -/
def Agent.entryKeeper : Agent → Bool
  | .svc n => n = 4
  | .link => true
  | .wave => false

/-- Runs a meaning with the operands of an event. -/
def State.asEvent (s : State) (a : EventArgs) (f : State → Out) : State :=
  match f { s with arg := a } with
  | .next t => { t with arg := s.arg }
  | _ => s

/-! ## Reads: per-core and per-die use -/

/-- A value as a word. -/
def word (n : Nat) : Word := BitVec.ofNat 32 n

/-- The waves of a context on a core. -/
def State.ctxWaves (s : State) (core ctx : Nat) : List Wave :=
  (s.wavesOn core).filterMap (fun x => if x.2.ctx = ctx then some x.2 else none)

/-- A sum over the groups of a context on a core; `ended` is whether one that has ended, while others of its cluster run, still counts
(08 R175, 11 R237). -/
def State.ctxGroups (s : State) (core ctx : Nat) (ended : Bool) (f : Launch → Nat) : Nat :=
  ((s.groupsOn core).map (fun g => if g.2.ctx = ctx && (ended || !g.2.ending) then ((s.launch g.2.launch).map f).getD 0 else 0)).sum

/-- POOLUSE (05 R125). -/
def State.poolUse (s : State) (core ctx k : Nat) : Word :=
  let ws := s.ctxWaves core ctx
  let sum := fun (f : Wave → Nat) => (ws.map f).sum
  let spilled := fun (w : Wave) => (w.vbound.filter (fun e => Table.get falseAt w.vspilled (e.1 / 16))).length
  match k with
  | 0 => word (sum (fun w => w.vbound.length - spilled w))
  | 1 => word (sum spilled)
  | 2 => word (sum (fun w => w.onCoreS) + 2 ^ 16 * sum (fun w => w.blocksBound.length - w.onCoreS))
  | _ => word (sum (fun w => ((List.range (w.width / 4)).map (fun q => w.onCoreV q - w.vres)).sum +
      (w.onCoreS - (w.sres + 3) / 4)))

/-- CPYUSE word 0 (12 R252). -/
def State.copyUse (s : State) (core ctx : Nat) : Word :=
  let k := s.core core
  let mine := fun (g : Nat) => ((s.group g).map (fun x => decide (x.ctx = ctx))).getD false
  let records := (k.records.filter (fun r => decide (r.ctx = ctx))).length
  let held := ((k.cmds.filter (fun c => decide (c.ctx = ctx))).map (fun c => c.ranges.length)).sum +
    ((k.array.filter (fun o => mine o.group)).map (fun o => o.ranges.length)).sum
  let queue := k.queueUsed (fun c => decide (c.ctx = ctx))
  word (queue + 2 ^ 8 * held + 2 ^ 16 * records)

/-- L1USE (09 R204). -/
def State.l1Use (s : State) (core ctx : Nat) : Word :=
  let k := s.core core
  let lines := (k.l1.map (fun e => (e.2.filter (fun x => decide (x.ctx = ctx))).length)).sum
  word (lines + 2 ^ 16 * (k.tlb.filter (fun e => decide (e.ctx = ctx))).length)

/-- DQSTATE (13 R288). -/
def State.dqState (s : State) (core q k : Nat) : Word :=
  let d := ((s.core core).deques.getD q {})
  let l := d.launch.bind s.launch
  let n := d.entries.length
  match k with
  | 0 => word (min 255 n + (if d.launch.isSome then 256 else 0))
  | 1 => word (((l.map (fun l => l.ctx)).getD 0) + (if n = 256 then 2 ^ 31 else 0))
  | 2 => (l.map (fun l => l.launchid)).getD 0
  | _ => d.lost

/-- WSTAT (14 R306). -/
def State.wstat (s : State) (core : Nat) : Word :=
  let wave := field (s.wcsr core 0) 8 0
  let w := s.wave core wave
  word (s.waveState core wave + (if (s.core core).werr then 2 ^ 18 else 0) +
    2 ^ 19 * ((w.map (fun w => w.queue.length + (w.ops.filter (fun o => o.replay)).length)).getD 0) + 2 ^ 24 * ((w.map (fun w => w.frameCause)).getD 0))

/-- BINPASS (17 R375). -/
def State.passUse (s : State) (die slot k : Nat) : Word :=
  let stored := s.csrAt die (0x0C00 + 0x20 * slot + 4 * k)
  match s.passAt die slot with
  | none => if 5 ≤ k then stored else 0
  | some p => match k with
    | 0 => loWord p.recAddr
    | 1 => hiWord p.recAddr
    | 2 => word (p.state + 2 ^ 16 * p.ctx)
    | 3 => word p.used.length
    | 4 => word p.total
    | _ => stored

/-- The contexts whose groups or requests ask for a class on a core. -/
def State.askers (s : State) (c k : Nat) : List Nat :=
  (s.groupsOn c).filterMap (fun g =>
      if ((s.launch g.2.launch).map (fun l => field (l.w 15) 3 0)).getD 0 = k then some g.2.ctx else none) ++
    (s.wavesOn c).filterMap (fun w => if w.2.flow = k then some w.2.ctx else none)

/-- FLOWUSE (16 R360): the guarantees of the core zones whose class the context's groups or requests set, ties to the lowest
context. A class that no group or request names is set by those that ask for the most. -/
def State.flowUse (s : State) (ctx : Nat) : Word :=
  word (((List.range 64).map (fun c =>
    let named := s.askers c (s.core c).flow.klass
    match (if named = [] then s.askers c (s.wantClass c) else named) with
    | [] => 0
    | k :: ks => if ks.foldl min k = ctx then s.guar (coreZone c) else 0)).sum)

/-- Whether every zone's FLOW lies within 5 % of its GRANT (16 R352). -/
def State.settled (s : State) : Bool :=
  (List.range 84).all (fun z =>
    let flow := field (s.csrAt 4 (zsens z 1)) 11 0
    let grant := s.grant z
    20 * ((flow - grant) + (grant - flow)) ≤ grant)

/-- What a CSR of a die reads. -/
def State.dieCsr (s : State) (d a : Nat) : Word :=
  let stored := s.csrAt d a
  let at_ := fun (base step : Nat) => (16 * d + (a - base) / step, (a - base) % step)
  if a = 0x0604 then (Config.vsramLow d ++ (0 : BitVec 16)) ||| (stored &&& 3)
  else if a = 0x0614 then (stored &&& 1) ||| (if s.vsramLevel d = field (s.csrAt d 0x0610) 15 0 then 0 else 2)
  else if 0x0800 ≤ a ∧ a < 0x0880 ∧ a % 0x20 = 4 then
    stored ||| word (2 ^ 16 * ((clusterCores d ((a - 0x0800) / 0x20)).map (fun c => (s.groupsOn c).length)).sum)
  else if a = 0x0A20 then word (s.svc d).level
  else if 0x0C00 ≤ a ∧ a < 0x0E00 then s.passUse d ((a - 0x0C00) / 0x20) ((a - 0x0C00) % 0x20 / 4)
  else if 0x0E80 ≤ a ∧ a < 0x0F80 then
    word ((s.die d).amps.filter (fun e => ((s.passAt d e.slot).map (fun p => decide (p.ctx = (a - 0x0E80) / 4))).getD false)).length
  else if 0x1400 ≤ a ∧ a < 0x1800 then
    let (c, o) := at_ 0x1400 0x40
    s.dqState c (o / 0x10) (o % 0x10 / 4)
  else if 0x1800 ≤ a ∧ a < 0x1A00 then
    let ctx := (a - 0x1800) / 8
    if a % 8 = 0 then word (s.taskQueue d ctx).length else Table.get zeroWord (s.die d).taken ctx
  else if 0x2000 ≤ a ∧ a < 0x3000 ∧ a % 0x100 = 8 then s.wstat (at_ 0x2000 0x100).1
  else if 0x3000 ≤ a ∧ a < 0x4000 then
    let (c, o) := at_ 0x3000 0x100
    word ((s.core c).locked.filter (fun x => decide (x.1 = o / 4))).length
  else if 0x4000 ≤ a ∧ a < 0x8000 then
    let (c, o) := at_ 0x4000 0x400
    s.poolUse c (o / 0x10) (o % 0x10 / 4)
  else if 0x8000 ≤ a ∧ a < 0xA000 then
    let (c, o) := at_ 0x8000 0x200
    word (s.ctxGroups c (o / 8) true (if o % 8 = 0 then Launch.granules else Launch.bars))
  else if 0xA000 ≤ a ∧ a < 0xA400 then
    let ctx := (a - 0xA000) / 0x10
    match a % 0x10 / 4 with
    | 0 => word ((s.die d).l2.map (fun e => (e.2.filter (fun x => decide (x.ctx = ctx))).length)).sum
    | 2 => word (s.walksOf d ctx)
    | 1 => word ((s.die d).tlb.filter (fun e => decide (e.ctx = ctx))).length
    | _ => stored
  else if 0xA400 ≤ a ∧ a < 0xA800 ∧ a % 0x10 = 8 then
    word ((coresOf d).map (fun c => ((s.groupsOn c).filter (fun g => decide (g.2.ctx = (a - 0xA400) / 0x10))).length)).sum
  else if 0xA800 ≤ a ∧ a < 0xB000 then
    let (c, o) := at_ 0xA800 0x80
    word (s.slotsOf c (o / 4 * 2) + 2 ^ 16 * s.slotsOf c (o / 4 * 2 + 1))
  else if 0xB000 ≤ a ∧ a < 0xC000 then
    let (c, o) := at_ 0xB000 0x100
    s.l1Use c (o / 4)
  else if 0xD000 ≤ a ∧ a < 0xE000 then
    let (c, o) := at_ 0xD000 0x100
    word (s.ctxGroups c (o / 4) false Launch.acc)
  else if 0xE000 ≤ a ∧ a < 0x10000 ∧ a % 8 = 0 then
    let (c, o) := at_ 0xE000 0x200
    s.copyUse c (o / 8)
  else stored

/-- What a CSR of the hub reads. -/
def State.hubCsr (s : State) (a : Nat) : Word :=
  let stored := s.csrAt 4 a
  if a = 0x0A20 then word (s.svc 4).level
  else if 0x3400 ≤ a ∧ a < 0x3800 ∧ a % 0x10 = 4 then
    word (s.pendingLaunches (fun l => decide (l.ctx = (a - 0x3400) / 0x10)))
  else if a = 0x380C then stored ||| boolWord s.tlbinvPending
  else if a = 0x6604 then word (2 ^ 16 * s.guarSum) ||| (stored &&& 4) ||| (if s.settled then 2 else 0)
  else if 0x6C00 ≤ a ∧ a < 0x6D00 then s.flowUse ((a - 0x6C00) / 4)
  else if 0x7A00 ≤ a ∧ a < 0x7A10 then s.feat ((a - 0x7A00) / 4)
  else if 0x7A10 ≤ a ∧ a < 0x7A20 then s.enable ((a - 0x7A10) / 4)
  else stored

/-- A read of a CSR. WDATALO fetches an item. -/
def State.csrRead (s : State) (space a : Nat) : Word × State :=
  if space = 4 then (s.hubCsr a, s)
  else if 0x2000 ≤ a ∧ a < 0x3000 ∧ a % 0x100 = 0x10 then
    let core := 16 * space + (a - 0x2000) / 0x100
    let t := s.windowRead core
    (t.wcsr core 0x10, t)
  else (s.dieCsr space a, s)

/-! ## Actions of hub registers -/

/-- A write of TLBINV's word 2 (09 R202): a GO is ignored while BUSY, and for KIND 3. -/
def State.tlbinvGo (s : State) (v : Word) : State :=
  let s := s.setCsr 4 0x3808 (v &&& 0x3F03)
  if v.getLsbD 31 && !s.tlbinvPending && field v 1 0 ≠ 3 then
    { s with tlbinvPending := true
             tlbinvOf := (field v 1 0, field v 13 8, (s.csrAt 4 0x3800).toNat + 2 ^ 32 * (s.csrAt 4 0x3804).toNat) }
  else s

/-- TLBINV_GO (09 R202). -/
def execTlbinvGo (s : State) : Out := .next (
  match s.arg with
  | .value _ v => s.tlbinvGo v
  | _ => s)

/-- TLBINV_DONE (09 R202): the entries leave once the accesses translated by them have been performed, and the walks of the contexts start
again; KIND 1 and 2 also drop the L1 data lines. -/
def execTlbinvDone (s : State) : Out := .next (
  let (kind, ctx, va) := s.tlbinvOf
  let hits := fun (c : Nat) => kind = 2 || c = ctx
  let busy := s.waves.any (fun e => (e.2.map (fun w => hits w.ctx && w.ops.any (fun o =>
    o.passed && o.space ≠ .scratch && o.units.any (fun u => !u.done)))).getD false)
  if !s.tlbinvPending || busy then s
  else
    let s := s.forget (fun e => if kind = 0 then e.serves ctx va else hits e.ctx) hits
    let s := if kind = 0 then s else s.onCores (fun c => c.dropCtx hits)
    { s.onCsr 4 0x380C (fun w => setField w 31 16 ((field w 31 16 + 1) % 2 ^ 16)) with tlbinvPending := false })

/-- A write of an ENABLE word (19 R415). -/
def State.enableWrite (s : State) (k : Nat) (v : Word) : State :=
  if s.groups.any (fun e => e.2.isSome) then s.linkErr
  else (List.range 64).foldl (fun s c => s.refreshClock c) (s.setCsr 4 (0x7A10 + 4 * k) (v &&& s.feat k))

/-- ENABLE_WRITE (19 R415). -/
def execEnableWrite (s : State) : Out := .next (
  match s.arg with
  | .value k v => if k < 4 then s.enableWrite k v else s
  | _ => s)

/-- A write of ADVANCE (19 R416): the hub's self-test of the stage is awaited. -/
def State.stageAdvance (s : State) : State := if s.stage < 3 then { s with stageTest := true } else s

/-- STAGE_ADVANCE (19 R416). -/
def execStageAdvance (s : State) : Out := .next s.stageAdvance

/-- STAGE_SELF_TEST_DONE (19 R416): the next stage, or an EVENT with source 10. -/
def execStageSelfTestDone (s : State) : Out := .next (
  match s.arg with
  | .outcome _ pass =>
    if !s.stageTest then s
    else if pass then
      (List.range 64).foldl (fun s c => s.refreshClock c)
        ({ s with stageTest := false }.setCsr 4 0x7B00 (word (s.stage + 1)))
    else { s with stageTest := false }.event 10 4 0x7F 0 []
  | _ => s)

/-- A write of FUSETIME (04 R96), of a core that is not dark (16 R365). -/
def State.fusetimeWrite (s : State) (core : Nat) (v : Word) : State :=
  if s.coreDark core then s else s.setCsr (dieOf core) (0x1018 + 0x40 * (core % 16)) (v &&& 0xFFFFF)

/-- FUSETIME_WRITE (04 R96). -/
def execFusetimeWrite (s : State) : Out := .next (
  match s.arg with
  | .value core v => s.fusetimeWrite core v
  | _ => s)

/-! ## Writes -/

/-- Writes the bits of a mask. -/
def State.putBits (s : State) (space a : Nat) (m v : Word) : State := s.onCsr space a (fun w => (w &&& ~~~m) ||| (v &&& m))

/-- A write of WCMD (14 R306). -/
def State.wcmdWrite (s : State) (core : Nat) (v : Word) : State :=
  let s := s.putBits (dieOf core) (windowCsr core 4) 0xFF v
  if v.getLsbD 31 = false then s
  else
    let a := EventArgs.command core (field (s.wcsr core 0) 8 0) (v.extractLsb' 4 3)
    match field v 3 0 with
    | 1 => s.asEvent a execWcmdResume
    | 2 => s.asEvent a execWcmdStep
    | 3 => s.asEvent a execWcmdKill
    | 4 => s.asEvent a execWcmdHalt
    | _ => s

/-- A write of a word of a state window (14 R306). -/
def State.windowCsrWrite (s : State) (core o : Nat) (v : Word) : State :=
  match o with
  | 0x00 => s.putBits (dieOf core) (windowCsr core 0) 0x1FF v
  | 0x04 => s.wcmdWrite core v
  | 0x08 => if v.getLsbD 18 then s.onCore core (fun c => { c with werr := false }) else s
  | 0x0C => s.setCsr (dieOf core) (windowCsr core 0x0C) v
  | 0x10 => s.windowWrite core v
  | 0x14 => s.setCsr (dieOf core) (windowCsr core 0x14) v
  | _ => s

/-- A write of BINPASS's word 5 (17 R375). -/
def State.binpassWrite (s : State) (die slot : Nat) (v : Word) : State :=
  let s := s.putBits die (0x0C14 + 0x20 * slot) 0xFFFFFF v
  let s := if v.getLsbD 29 then s.asEvent (.at2 die slot) execBinpassResume else s
  if v.getLsbD 30 then s.asEvent (.at2 die slot) execBinpassDecline
  else if v.getLsbD 31 then s.asEvent (.at3 die slot (field v 23 0)) execBinpassGrow
  else s

/-- A write of a service core's event registers or mailbox (16 R370); a link write to the mailbox raises source 8. -/
def State.eventCsrWrite (s : State) (space a : Nat) (ag : Agent) (v : Word) : State :=
  match a with
  | 0x0A00 => s.onCsr space a (· &&& ~~~v)
  | 0x0A04 => s.putBits space a 0xFFFF v
  | 0x0A08 => s.setCsr space a v
  | 0x0A30 =>
    let s := s.setCsr space a v
    if ag = .link then s.pend space 8 else s
  | _ => if 0x0A10 ≤ a ∧ a < 0x0A20 then s.setCsr space a v else s

/-- A write of a CSR of a die (00 R4), by an agent that may reach it. -/
def State.dieCsrWrite (s : State) (ag : Agent) (d a : Nat) (v : Word) : State :=
  let sc := !ag.ctx0
  if a = 0x0100 ∨ a = 0x0104 then s.putBits d a 0xFFFF v
  else if a = 0x0108 then if sc then s else s.asEvent (.value d v) execDiscardGo
  else if 0x0200 ≤ a ∧ a < 0x0240 then
    let core := 16 * d + (a - 0x0200) / 4
    if v.getLsbD 31 && !s.coreDark core then s.unbench core else s
  else if a = 0x0600 then if sc then s.eccReq d v else s
  else if a = 0x0610 then if sc then s.vsramTarget d v else s
  else if a = 0x0614 then if sc then s.onCsr d a (· &&& ~~~(v &&& 1)) else s
  else if 0x0800 ≤ a ∧ a < 0x0880 then
    let n := (a - 0x0800) / 0x20
    match (a - 0x0800) % 0x20 with
    | 0x00 => s.cpcWrite d n v
    | 0x04 => s.onSts d n (· &&& ~~~(v &&& 0x40))
    | 0x08 => if v.getLsbD 0 then s.cpcWake d n else s
    | 0x0C | 0x10 => s.setCsr d a v
    | _ => s
  else if 0x0900 ≤ a ∧ a < 0x0940 then
    let core := 16 * d + (a - 0x0900) / 4
    if s.coreDark core ∨ 40 < field v 5 0 then s else (s.putBits d a 0x3F v).refreshClock core
  else if 0x0A00 ≤ a ∧ a < 0x0A34 then s.eventCsrWrite d a ag v
  else if 0x0C00 ≤ a ∧ a < 0x0E00 ∧ a % 0x20 = 0x14 then
    if sc then s else s.binpassWrite d ((a - 0x0C00) / 0x20) v
  else if a = 0x0E00 then s.setCsr d a v
  else if 0x1000 ≤ a ∧ a < 0x1400 ∧ a % 0x40 = 0x18 then s.fusetimeWrite (16 * d + (a - 0x1000) / 0x40) v
  else if 0x2000 ≤ a ∧ a < 0x3000 then s.windowCsrWrite (16 * d + (a - 0x2000) / 0x100) (a % 0x100) v
  else s

/-- A write of one of the words of a hub entry that context 0 alone writes. -/
def State.entryWrite (s : State) (a : Nat) (v : Word) : State :=
  let k := a % 0x10
  if 0x3400 ≤ a ∧ a < 0x3800 then if k = 0 then s.putBits 4 a 0x3FF v else s
  else if a = 0x3800 then s.putBits 4 a 0xFFFFF000 v
  else if a = 0x3804 then s.putBits 4 a 0xFFFFFF v
  else if a = 0x3808 then s.tlbinvGo v
  else if 0x4000 ≤ a ∧ a < 0x5000 then
    match k with
    | 0 => s.setCsr 4 a v
    | 4 => s.putBits 4 a 0xFFFFFF v
    | 8 => if 3 ≤ field v 12 8 ∧ field v 12 8 ≤ 24 then s.putBits 4 a 0x80001F03 v else s
    | _ => s
  else if 0x5000 ≤ a ∧ a < 0x5400 then
    match k with
    | 0 => s.putBits 4 a 0xFFFFF000 v
    | 4 => s.putBits 4 a 0xFFFFFF v
    | 8 => if 8 ≤ field v 4 0 ∧ field v 4 0 ≤ 16 then s.putBits 4 a 0x8000001F v else s
    | _ => s
  else if 0x5400 ≤ a ∧ a < 0x5800 then
    match k with
    | 0 => s.putBits 4 a 0xFFFFFFF8 v
    | 4 => s.putBits 4 a 0x3FFF v
    | 8 => if field v 8 0 ≤ 256 then s.putBits 4 a 0x1FF v else s
    | _ => s
  else if 0x5800 ≤ a ∧ a < 0x5C00 then
    match k with
    | 0 => if field v 16 0 ≤ 65536 then s.putBits 4 a 0x1FFFF v else s
    | 4 => s.setCsr 4 a v
    | 8 => if v.getLsbD 31 then s.abandonSamples ((a - 0x5800) / 0x10) else s
    | _ => s
  else if 0x7000 ≤ a ∧ a < 0x7050 then
    let n := (a - 0x7000) / 0x10
    match k with
    | 0 => if v.getLsbD 0 then s.svcRestart n else s
    | 4 => s.putBits 4 a 0xFFFFFFC0 v
    | 8 =>
      let s := s.putBits 4 a 0x3FFF v
      if v.getLsbD 31 then s.installGo n else s
    | _ => s
  else if 0x7800 ≤ a ∧ a < 0x7880 ∧ a % 8 = 0 then s.putBits 4 a 0x8000003F v
  else if 0x7A10 ≤ a ∧ a < 0x7A20 then s.enableWrite ((a - 0x7A10) / 4) v
  else s

/-- A write of a CSR of the hub (00 R4), by an agent that may reach it. -/
def State.hubCsrWrite (s : State) (ag : Agent) (a : Nat) (v : Word) : State :=
  if 0x0A00 ≤ a ∧ a < 0x0A34 then s.eventCsrWrite 4 a ag v
  else if 0x3000 ≤ a ∧ a < 0x3400 then
    if !ag.entryKeeper then s
    else match a % 0x10 with
      | 0 => s.putBits 4 a 0xFFFFF000 v
      | 4 => s.putBits 4 a 0x3FFF v
      | 8 =>
        let n := field v 6 0
        s.putBits 4 a (if 1 ≤ n ∧ n ≤ 64 then 0x8000007F else 0x80000000) v
      | _ => s
  else if 0x6000 ≤ a ∧ a < 0x6540 ∧ a % 0x10 = 8 then s.onCsr 4 a (· &&& ~~~(v &&& 0x0F000000))
  else if a = 0x6600 then s.catCommit v
  else if a = 0x6604 then s.onCsr 4 a (· &&& ~~~(v &&& 4))
  else if a = 0x6610 then if ag.hubKeeper then s.setCsr 4 a v else s
  else if 0x6800 ≤ a ∧ a < 0x6AA0 then s.catStage a v
  else if a = 0x7B00 then if ag.hubKeeper && v.getLsbD 2 then s.stageAdvance else s
  else if ag.ctx0 then s.entryWrite a v
  else s

/-- A write of a CSR by context 0 or a service core. -/
def State.csrWrite (s : State) (ag : Agent) (space a : Nat) (v : Word) : State :=
  if space = 4 then s.hubCsrWrite ag a v else s.dieCsrWrite ag space a v

/-- REGISTER_WRITE (00 R4). -/
def execRegisterWrite (s : State) : Out := .next (
  match s.arg with
  | .register space addr v => if space ≤ 4 ∧ addr % 4 = 0 ∧ addr < 0x10000 then s.csrWrite .link space addr v else s
  | _ => s)

/-- POWER_ON_RESET (19 R416). The schedule of what happens next, which is the model's own, goes on. -/
def execPowerOnReset (s : State) : Out := .next { State.reset with agenda := s.agenda, free := s.free, last := s.last }

/-! ## The CSR instructions (16 R372) -/

/-- The CSR space that the die field of an instruction of service core n names. -/
def csrSpace (n : Nat) (a : BitVec 10) : Option Nat :=
  if a = 0x3FF then some n else if a.toNat ≤ 4 then some a.toNat else none

/-- A CSR instruction. On a wave its opcode is illegal (02 R28). -/
def State.csrOp (s : State) (a : SArgs) (u : Uses) (act : Nat → Nat → Nat → (Nat → Word) → State → State) : State :=
  match s.cur.svc with
  | none => s.stopHere .illegalOpcode
  | some n => match csrSpace n a.a with
    | none => s.stopHere .illegalOperand
    | some space =>
      if a.imm.toNat % 4 ≠ 0 then s.stopWith { cause := .misaligned, kind := .load, addr := a.imm.setWidth 64 }
      else s.scalarIssue u (fun r s => (act n space a.imm.toNat r s).advance)

/-- What a CSR instruction that reads sB names. -/
def SArgs.usesB (a : SArgs) (d : List Nat) : Uses :=
  { sr := [a.b.toNat], sw := d, sfree := if a.lb then [a.b.toNat] else [] }

/-- CSRRD. -/
def execCsrrd (a : SArgs) (s : State) : Out := .next (
  s.csrOp a { sw := [a.d.toNat] } (fun _ space addr _ s =>
    let (v, s) := s.csrRead space addr
    s.putScalars a.d.toNat [v]))

/-- CSRWR. -/
def execCsrwr (a : SArgs) (s : State) : Out := .next (
  s.csrOp a (SArgs.usesB a []) (fun n space addr r s => s.csrWrite (.svc n) space addr (r a.b.toNat)))

/-- CSRSET. -/
def execCsrset (a : SArgs) (s : State) : Out := .next (
  s.csrOp a (SArgs.usesB a [a.d.toNat]) (fun n space addr r s =>
    let (v, s) := s.csrRead space addr
    (s.csrWrite (.svc n) space addr (v ||| r a.b.toNat)).putScalars a.d.toNat [v]))

/-- CSRCLR. -/
def execCsrclr (a : SArgs) (s : State) : Out := .next (
  s.csrOp a (SArgs.usesB a [a.d.toNat]) (fun n space addr r s =>
    let (v, s) := s.csrRead space addr
    (s.csrWrite (.svc n) space addr (v &&& ~~~(r a.b.toNat))).putScalars a.d.toNat [v]))

end Sys2Proof.Machine
end

