-- ==== Sys2Proof/Machine/Access.lean ====
section
/-! DEFINITION. The performance of memory operations: translation (09 R200), the order in which the single-copy atomic parts may
be performed (10 R216–R226), what each does (08 R180–R182; 09 R203–R211), the return of data; SLD and SST, of a wave (09 R210) and of a
service core (22 R443). -/

namespace Sys2Proof.Machine

/-! ## Translation -/

/-- The operation that a walk is for learns how it ended; its checks are made when it awaits no other walk (09 R199, R200). -/
def State.walkEnded (s : State) (x : PageWalk) (r : Walked) : State :=
  match s.wave x.core x.wave with
  | none => s
  | some w => match w.op x.op with
    | none => s
    | some o =>
      if o.passed || o.fault.isSome || w.ctx ≠ x.ctx || w.run ≠ .running then s
      else
        let s := s.setWave x.core x.wave (some (w.onOp o.id (fun o => { o with walked := o.walked ++ [(x.va / 4096, r)] })))
        match s.wave x.core x.wave with
        | some w => match w.op x.op with
          | some o => if s.opKnown x.core x.wave w o then s.checkOp x.core x.wave o.id else s
          | none => s
        | none => s

/-- Walker n of a die reads its next entry (09 R196). At the end of the walk the walker is free for the oldest request that may take it,
and a page comes into the TLBs (R200, R201). -/
def State.walkStep (s : State) (die n : Nat) : State :=
  match (s.die die).walks[n]? with
  | none => s
  | some x =>
    let s := { s with free := s.free + 1 }
    match s.walkRead x.ctx x.va (x.left - 1) x.table with
    | .on next => s.onDie die (fun d => { d with walks := d.walks.set n { x with left := x.left - 1, table := next } })
    | .done r =>
      let s := (s.onDie die (fun d => { d with walks := d.walks.eraseIdx n })).countWalk die x.ctx
      let s := s.takeWalks die
      let s := if r.cause.isNone then s.tlbFill x.core r.page else s
      s.walkEnded x r

/-- PAGE_WALK_COMPLETE (09 R196, R200, R201): a walker of a die reads on, or an operation asks again for the walks that found the die's
queue full; one that awaits none is checked. -/
def execPageWalkComplete (s : State) : Out := .next (
  match s.arg with
  | .at2 die n => s.walkStep die n
  | .at3 core wave id =>
    match s.wave core wave with
    | none => s
    | some w => match w.op id with
      | none => s
      | some o =>
        if o.passed || o.fault.isSome || w.run ≠ .running then s
        else if s.opKnown core wave w o then s.checkOp core wave id
        else s.requestWalks core wave w o
  | _ => s)

/-! ## What must come first -/

/-- The lanes in whose program order a part stands (10 R218). -/
def MemOp.lanesAt (o : MemOp) (u : AccUnit) : Dword :=
  match o.kind with
  | .fence _ => o.run
  | _ => if o.scalar then o.live else laneBit u.lane

/-- Whether two parts touch a common location (10 R216). -/
def overlaps (p : MemOp) (v : AccUnit) (o : MemOp) (u : AccUnit) : Bool :=
  decide (p.space = .scratch) == decide (o.space = .scratch) && (o.space ≠ .scratch || v.grp = u.grp) &&
    decide (v.pa < u.pa + u.len) && decide (u.pa < v.pa + v.len)

/-- Whether a fence's part that is not done holds back a part of a later operation: by ORD, everything or its writes
(10 R226). -/
def fenceHolds (ord : BitVec 2) (v : AccUnit) (writes : Bool) : Bool :=
  !v.done && (match ord.toNat with
    | 2 => writes
    | 3 => v.off = 0 || writes
    | _ => true)

/-- Whether an older operation of a core holds back part `u` of `o` (10 R219, R226; 14 R302). `near` is whether the part only meets its
core: a load from L1, or a store on its way into the staging buffer. A release waits for stores as far as its scope goes. -/
def MemOp.holdsBack (core : Nat) (p o : MemOp) (u : AccUnit) (near : Bool) : Bool :=
  p.units.any (fun v =>
    p.lanesAt v &&& o.lanesAt u ≠ 0 &&
    (match p.kind with
      | .fence ord => fenceHolds ord v o.writes
      | .store => !v.done && ((o.releases && !v.covers core o.scope.toNat core) || (u.dev && v.dev) ||
          (overlaps p v o u && !(near && v.sent)))
      | .atomic _ => !v.done && (p.acquires || o.releases || overlaps p v o u)
      | _ => overlaps p v o u || (!v.done && (p.acquires || o.releases || (u.dev && v.dev)))))

/-- The scope at which an operation is strong (10 R217). -/
def MemOp.strength (o : MemOp) (u : AccUnit) : Nat :=
  match o.kind with
  | .atomic _ => max o.scope.toNat (if o.space = .scratch then 3 else if (windowOf u.pa).isSome then 6 else 5)
  | _ => o.scope.toNat

/-- Whether a part may be performed at its home, as far as the staged stores that its core sees go: those on its bytes go first, older
ones before a staged part at each core that sees it (10 R219), and a release waits for those of its scope (R222). -/
def State.homeClear (s : State) (core wave : Nat) (o : MemOp) (k : Nat) (u : AccUnit) : Bool :=
  (o.space = .scratch || (if u.sent then
      (core :: u.reached).all (fun c => (s.staged c).all (fun e => !meets e.part.pa e.part.len u.pa u.len || u.stamp ≤ e.part.stamp))
    else s.noStagedAt core u.pa u.len)) &&
    (!o.releases || s.releaseReady core wave o.scope.toNat (some (o.id, k)))

/-- The operations before one, in issue order. -/
def Wave.olderOps (w : Wave) (id : Nat) : List MemOp := w.ops.takeWhile (fun p => decide (p.id ≠ id))

/-- Whether the parts of an operation before part k leave it free: of a store, those on its bytes have been performed (09 R209); of an
atomic, all (R211). -/
def MemOp.turn (o : MemOp) (k : Nat) (u : AccUnit) (near : Bool) : Bool :=
  match o.kind with
  | .store => (o.units.take k).all (fun v => v.done || (near && v.sent) || !overlaps o v o u)
  | .atomic _ => (o.units.take k).all (fun v => v.done)
  | _ => true

/-- Whether part k of an operation may be performed, or staged. -/
def State.mayPerform (s : State) (core wave : Nat) (w : Wave) (o : MemOp) (k : Nat) (near : Bool) : Bool :=
  match o.units[k]? with
  | none => false
  | some u =>
    !u.done &&
    (if u.sent then !near && placeOf u.pa = .memory && s.homeClear core wave o k u
     else (clearOps 0 w.ops).any (fun p => decide (p.id = o.id)) &&
      (w.olderOps o.id).all (fun p => !p.holdsBack core o u near) && o.turn k u near && (near || s.homeClear core wave o k u))

/-! ## What a part does -/

/-- The key of a byte of a lane's data in `got`: lane × 2²⁴ + offset/16. -/
def gotKey (lane off : Nat) : Nat := lane * 2 ^ 24 + off / 16

/-- Keeps bytes that a part has read. -/
def MemOp.keep (o : MemOp) (u : AccUnit) (bs : List Byte) : MemOp :=
  { o with got := Table.update zeroQuad o.got (gotKey u.lane u.off) (fun q =>
      let old := leBytes 16 q.toNat
      BitVec.ofNat 128 (leNat (old.take (u.off % 16) ++ bs ++ old.drop (u.off % 16 + bs.length)))) }

/-- The n bytes that a lane's parts have read from an offset on. -/
def MemOp.gotBytes (o : MemOp) (lane off n : Nat) : List Byte :=
  ((leBytes 16 (Table.get zeroQuad o.got (gotKey lane off)).toNat).drop (off % 16)).take n

/-- Marks part k of an operation. -/
def MemOp.onUnit (o : MemOp) (k : Nat) (f : AccUnit → AccUnit) : MemOp :=
  let o := { o with units := o.units.zipIdx.map (fun x => if x.2 = k then f x.1 else x.1) }
  match o.units[k]? with
  | some u => if (o.units.all (fun v => v.lane ≠ u.lane || v.done)) then { o with doneMask := o.doneMask ||| laneBit u.lane }
    else o
  | none => o

/-- Marks part k of an operation done. -/
def State.markDone (s : State) (core wave id k : Nat) (bs : List Byte) : State :=
  s.onWave core wave (fun w => w.onOp id (fun o =>
    let o := match o.units[k]? with
      | some u => if o.reads then o.keep u (match u.undef with
          | some k => (freeBytes (k + 2)).take u.len
          | none => bs) else o
      | none => o
    o.onUnit k (fun u => { u with done := true, sent := false })))

/-- A read that met poison stops its wave (09 R205, 08 R181); the record names the lane whose part met it (log 67). -/
def State.poisonStop (s : State) (core wave : Nat) (o : MemOp) (u : AccUnit) : State :=
  let info := o.info .poisonLoad u.lane (if o.space = .scratch then o.addr u.lane else BitVec.ofNat 64 u.va)
  (s.onWave core wave (fun w => w.onOp o.id (fun p => { p with fault := some info }))).takeStop core wave o.split info o.pc

/-- A write to scratchpad keeps, for a wave of the group itself, the words it overwrites until a FENCE.OR (10 R230). -/
def Wave.keepB (s : State) (w : Wave) (g first n : Nat) : Wave :=
  if w.group ≠ g then w
  else { w with bhist := (List.range n).foldl (fun t j =>
    Table.update nilAt t (first + j) (fun l => l ++ [BitVec.ofNat 32 (leNat (s.scratchBytes g (4 * (first + j)) 4))])) w.bhist }

/-- What a store to scratchpad does to MMAs (10 R230): its own wave's may still read the words it overwrites, and the windows whose B it
writes are broken, whose wave it may be. -/
def State.noteScratch (s : State) (core wave : Nat) (o : MemOp) (u : AccUnit) : State :=
  let first := u.pa / 4
  let t := s.onWave core wave (fun w => Wave.keepB s w u.grp first ((u.pa + u.len + 3) / 4 - first))
  t.breakB u.grp u.pa u.len (fun c k x => c ≠ core || k ≠ wave || x.count < o.count)

/-- Part k of a scratchpad operation (08 R180–R183). -/
def State.doScratch (s : State) (core wave : Nat) (o : MemOp) (k : Nat) (u : AccUnit) : State :=
  if o.reads && s.scratchBad u.grp u.pa u.len then s.poisonStop core wave o u
  else
    let old := s.scratchBytes u.grp u.pa u.len
    match o.kind with
    | .store => ((s.noteScratch core wave o u).putScratch u.grp u.pa (o.bytesOf u)).markDone core wave o.id k []
    | .atomic op =>
      let new := leBytes 4 (atomNew op false (leNat old) (Table.get zeroQuad o.data u.lane).toNat)
      ((s.noteScratch core wave o u).putScratch u.grp u.pa new).markDone core wave o.id k old
    | _ => s.markDone core wave o.id k old

/-- Part k of an operation on module memory, at its home (09 R203–R205, R209, R211). A read brings its line into L2 and its sector into
L1 as far as the page's attribute allows. -/
def State.doMemory (s : State) (core wave ctx : Nat) (o : MemOp) (k : Nat) (u : AccUnit) : State :=
  if o.reads && s.poisoned u.pa u.len then s.poisonStop core wave o u
  else
    let old := s.bytes u.pa u.len
    let attr := cacheAttr u.attr u.dev u.pa
    let write := fun (s : State) (bs : List Byte) => s.writeHome (.lane core wave) (core :: u.reached) u.pa bs
    let l2 := fun (s : State) => if attr = 2 then s else s.fillL2 (dieOf core) ctx u.pa o.ef
    match o.kind with
    | .store => (write s (o.bytesOf u)).markDone core wave o.id k []
    | .atomic op =>
      let new := if u.undef.isSome then o.bytesOf u
        else leBytes u.len (atomNew op (u.len = 8) (leNat old) (Table.get zeroQuad o.data u.lane).toNat)
      ((l2 (write s new))).markDone core wave o.id k old
    | _ =>
      let s := l2 (s.dropSectors core u.pa u.len)
      (if attr = 0 then s.fillL1 core ctx u.pa o.ef else s).markDone core wave o.id k old

/-- Part k of an operation on a CSR window (09 R193, R204): only context 0 reaches CSRs (19 R419). What another reads there is a free value,
and what it writes goes nowhere (log 15). -/
def State.doCsr (s : State) (core wave ctx : Nat) (o : MemOp) (k : Nat) (u : AccUnit) (space a : Nat) : State :=
  let words := List.range ((u.len + 3) / 4)
  match o.kind with
  | .store =>
    let s := if ctx ≠ 0 then s
      else words.foldl (fun s j => s.csrWrite .wave space (a + 4 * j)
        (BitVec.ofNat 32 (leNat (((o.bytesOf u).drop (4 * j)).take 4)))) s
    s.markDone core wave o.id k []
  | _ =>
    if ctx ≠ 0 then
      let (x, s) := s.freeDword
      let (y, s) := s.freeDword
      s.markDone core wave o.id k ((leBytes 8 x.toNat ++ leBytes 8 y.toNat).take u.len)
    else
      let (bs, s) := words.foldl (fun (acc : List Byte × State) j =>
        let (v, t) := acc.2.csrRead space (a + 4 * j)
        (acc.1 ++ leBytes 4 v.toNat, t)) (([] : List Byte), s)
      s.markDone core wave o.id k bs

/-- An access of a unit's reader to a CSR, and its answer (09 R193; 19 R419; log 15). -/
def State.unitCsr (s : State) (r : Reader) (ctx va space a n : Nat) (data : List Byte) : State :=
  if data ≠ [] then
    let s := if ctx ≠ 0 then s else (List.range (n / 4)).foldl (fun s j =>
      s.csrWrite .wave space (a + 4 * j) (BitVec.ofNat 32 (leNat ((data.drop (4 * j)).take 4)))) s
    s.readerAnswer r va 0 true []
  else if ctx ≠ 0 then
    let (x, s) := s.freeDword
    s.readerAnswer r va n true (leBytes 4 (loWord x).toNat)
  else
    let (x, s) := s.csrRead space a
    s.readerAnswer r va n true (leBytes 4 x.toNat)

/-- Part k of an operation on a window of another device: a request leaves (19 R414). A read of 1 or 2 bytes asks for their aligned
word. -/
def State.doWindow (s : State) (core wave : Nat) (w : Wave) (o : MemOp) (k : Nat) (u : AccUnit) (port off : Nat) : State :=
  let ctx := w.ctx
  let req : PeerReq := { core := core, wave := wave, op := o.id, unit := k, order := w.order, va := BitVec.ofNat 64 u.va }
  let s := s.onWave core wave (fun w => w.onOp o.id (fun p => p.onUnit k (fun v => { v with sent := true })))
  match o.kind with
  | .store => s.ask port 0x03 ctx (memArgs off u.len) (o.bytesOf u) req
  | .atomic op => s.ask port 0x05 ctx (atomArgs off (atomOpc op (u.len = 8)) (Table.get zeroQuad o.data u.lane).toNat) [] req
  | _ => s.ask port 0x02 ctx (memArgs (off / 4 * 4) ((u.len + 3) / 4 * 4)) [] req

/-- What an acquire does when one of its reads is done, for the lane that made it (10 R219, R224). -/
def State.acquired (s : State) (core wave id k : Nat) : State :=
  match (s.wave core wave).bind (fun w => w.op id) with
  | none => s
  | some o =>
    if o.acquires && ((o.units[k]?).map (fun u => u.done)).getD false then s.acquireAt core o.scope.toNat else s

/-- The bytes of a store with where they go, highest lane last, in words: each aligned word of addresses, as its bytes and their mask
(15 R333). -/
def MemOp.wordsWritten (o : MemOp) : Table (List (Option Byte)) :=
  let cell : Nat → List (Option Byte) := fun _ => [none, none, none, none]
  o.units.foldl (fun t u => (o.bytesOf u).zipIdx.foldl (fun t b =>
    let a := u.va + b.2
    Table.update cell t (a / 4) (fun l => l.set (a % 4) (some b.1))) t) []

/-- Counts a completed STG or SST in the digests (15 R333): once for every word it touches. -/
def State.countStore (s : State) (core wave : Nat) (w : Wave) (o : MemOp) : State :=
  if o.kind = .store && o.space = .global && o.access ≠ .texture then
    o.wordsWritten.foldl (fun s e =>
      let word := leNat (e.2.map (fun b => b.getD 0))
      let mask := ((e.2.zipIdx).map (fun b => if b.1.isSome then 2 ^ b.2 else 0)).sum
      if ((s.launchOf w.group).map (fun l => l.flag 2)).getD false then
        let d := h64 (BitVec.ofNat 64 (4 * e.1 + 2 ^ 56 * mask)) (BitVec.ofNat 32 word)
        (s.onGroup w.group (fun x => { x with digest := x.digest + d })).onWave core wave (fun w => { w with digest := w.digest + d })
      else s) s
  else s

/-- A store all of whose parts are done leaves the wave's outstanding operations. -/
def State.finishStore (s : State) (core wave id : Nat) : State :=
  match s.wave core wave with
  | none => s
  | some w => match w.op id with
    | none => s
    | some o =>
      if o.kind = .store && o.units.all (fun u => u.done) then
        (s.countStore core wave w o).onWave core wave (fun w => { w with ops := w.ops.filter (fun p => decide (p.id ≠ id)) })
      else s

/-- The DQSTEALs that meet a step which took the head of a deque, or its last entry, and lose it in that step (13 R290): which of those that
may be performed, the draws choose. -/
def State.stealsLost (s : State) (victim launch : Nat) : State :=
  s.waves.foldl (fun s e => match e.2 with
    | none => s
    | some w => w.ops.foldl (fun s o =>
      let lost := o.kind = .async .dqsteal && o.operand.toNat = victim && s.ownLaunch w = launch &&
        s.mayPerform (e.1 / 512) (e.1 % 512) w o 0 false && Config.freeChoice s.free % 2 = 1
      let s := if o.kind = .async .dqsteal then { s with free := s.free + 1 } else s
      if lost then s.markDone (e.1 / 512) (e.1 % 512) o.id 0 ([2, 0, 0].flatMap (fun x => leBytes 4 x)) else s) s) s

/-- Performs an operation on a queue, a deque, intake or the locked lines. -/
def State.performAsync (s : State) (core wave : Nat) (w : Wave) (o : MemOp) (op : AsyncOp) : State :=
  let (r, t) := s.doAsync core w o op
  let t := t.markDone core wave o.id 0 (r.flatMap (fun x => leBytes 4 x.toNat))
  if r.headD 1 ≠ 0 then t
  else match op with
    | .dqsteal => t.stealsLost o.operand.toNat (t.ownLaunch w)
    | .dqpop => if t.dequeEntries core (t.ownLaunch w) = [] then t.stealsLost core (t.ownLaunch w) else t
    | _ => t

/-- Performs part k of an operation at its home. A shadow run's global stores are hashed, and not performed (15 R337). -/
def State.performUnit (s : State) (core wave : Nat) (o : MemOp) (k : Nat) (u : AccUnit) : State :=
  match s.wave core wave with
  | none => s
  | some w =>
    let s := if o.space = .scratch then s.doScratch core wave o k u
      else if o.kind = .store && o.space = .global && s.shadowOf w.group then s.markDone core wave o.id k []
      else match placeOf u.pa with
        | .memory => s.doMemory core wave w.ctx o k u
        | .csr space a => s.doCsr core wave w.ctx o k u space a
        | _ => match windowOf u.pa with
          | some (port, off) => s.doWindow core wave w o k u port off
          | none => s
    (s.acquired core wave o.id k).finishStore core wave o.id

/-- The blocks of 64 bytes that the staging buffer of a core holds (09 R203). -/
def State.stagedBlocks (s : State) (core : Nat) : List Nat :=
  ((s.stagedAll.filter (fun e => decide (e.core = core))).map (fun e => e.part.pa / 64)).eraseDups

/-- A store enters its core's staging buffer, or a load takes its bytes there or from L1 (09 R203; 10 R224). An access of a DEV page or
with ATTR 2 goes to its home (R204). -/
def State.performNear (s : State) (core wave : Nat) (w : Wave) (o : MemOp) (k : Nat) (u : AccUnit) : State :=
  if o.space = .scratch || u.sent || cacheAttr u.attr u.dev u.pa = 2 then s
  else match o.kind with
    | .store =>
      let blocks := s.stagedBlocks core
      if (o.releases && !s.releaseReady core wave o.scope.toNat none) || (o.space = .global && s.shadowOf w.group) ||
          (64 ≤ blocks.length && !blocks.contains (u.pa / 64)) then s
      else
        { s.onWave core wave (fun w => w.onOp o.id (fun p => p.onUnit k (fun v => { v with sent := true, stamp := s.nextOrder }))) with
          nextOrder := s.nextOrder + 1 }
    | .atomic _ | .fence _ | .async _ | .move _ => s
    | _ => match s.nearBytes core wave w.ctx (o.strength u) u.pa u.len with
      | .bytes bs => ((s.touchL1 core w.ctx u.pa).markDone core wave o.id k bs).acquired core wave o.id k
      | .poison => s.poisonStop core wave o u
      | .none => s

/-- A staged store is seen at another core before it is performed at its home (10 R222): not before a younger one on its bytes that the
core sees already. -/
def State.reachCore (s : State) (core wave id k dest : Nat) : State :=
  match (s.stagedAll.find? (fun x => x.core = core && x.wave = wave && x.op = id && x.k = k)) with
  | none => s
  | some x =>
    if 64 ≤ dest || x.part.seenAt core dest ||
        (s.staged dest).any (fun e => meets e.part.pa e.part.len x.part.pa x.part.len && x.part.stamp < e.part.stamp) then s
    else s.onWave core wave (fun w => w.onOp id (fun o => o.onUnit k (fun v => { v with reached := v.reached ++ [dest] })))

/-- A fence's part k (10 R226): an acquire effect waits for the older reads, the others for every older access, as far as the fence's scope
goes; the whole fence leaves the outstanding operations when both parts are done. -/
def State.performFence (s : State) (core wave : Nat) (w : Wave) (o : MemOp) (ord : BitVec 2) (k : Nat) (u : AccUnit) : State :=
  let readsOnly := ord = 1 || (ord = 3 && u.off = 0)
  let scope := o.scope.toNat
  let older := w.olderOps o.id
  let blocked := older.any (fun p => p.live &&& o.run ≠ 0 && match p.kind with
    | .fence _ => p.units.any (fun v => !v.done)
    | _ => (!readsOnly || p.reads) && p.units.any (fun v => !v.covers core scope core && p.lanesAt v &&& o.run ≠ 0))
  let first := (o.units.take k).all (fun v => v.done)
  if u.done || blocked || !first || !((clearOps 0 w.ops).any (fun p => decide (p.id = o.id))) ||
      (!readsOnly && !s.releaseReady core wave scope none) then s
  else
    let s := if ord ≠ 2 && (ord ≠ 3 || u.off = 0) then s.acquireAt core scope else s
    let o' := { o with units := o.units.zipIdx.map (fun x => if x.2 = k then { x.1 with done := true } else x.1) }
    s.onWave core wave (fun w => if o'.units.all (fun v => v.done) then { w with ops := w.ops.filter (fun p => decide (p.id ≠ o.id)) }
      else w.onOp o.id (fun _ => o'))

/-- How many parts of an atomic, from one on, are performed in one step: the fewest after which no later part touches a location of
theirs, so that lanes act in order and those on one location without a break (09 R211, 08 R183). -/
def atomRun : Nat → List AccUnit → List AccUnit → List AccUnit
  | 0, done, _ => done
  | _ + 1, done, [] => done
  | f + 1, done, u :: us =>
    let done := done ++ [u]
    if us.any (fun v => done.any (fun x => x.pa = v.pa && x.grp = v.grp)) then atomRun f done us else done

/-- The parts of an operation that are performed with part k: of an atomic, those up to the last that must follow without a break. -/
def MemOp.together (o : MemOp) (k : Nat) : List Nat :=
  match o.kind with
  | .atomic _ => (List.range (atomRun 64 [] (o.units.drop k)).length).map (k + ·)
  | _ => [k]

/-- Performs parts of an operation one after another, until one of them stops the wave. -/
def State.performUnits (s : State) (core wave id : Nat) (ks : List Nat) : State :=
  ks.foldl (fun s j => match (s.wave core wave).bind (fun w => w.op id) with
    | some o => match o.units[j]? with
      | some v => if o.fault.isSome then s else s.performUnit core wave o j v
      | none => s
    | none => s) s

/-- MEMORY_ACCESS_PERFORM (10 R216, R219): part `k` of an operation is performed once nothing that comes first is left, or a staged store is
seen at another core. -/
def execMemoryAccessPerform (s : State) : Out := .next (
  match s.arg with
  | .reach core wave id k dest => s.reachCore core wave id k dest
  | .access core wave id k near =>
    match s.wave core wave with
    | none => s
    | some w => match w.op id with
      | none => s
      | some o => match o.units[k]? with
        | none => s
        | some u => match o.kind with
          | .fence ord => s.performFence core wave w o ord k u
          | .move m => if !near && s.mayPerform core wave w o k false then s.replayMove core wave w o m else s
          | .async op => if !near && s.mayPerform core wave w o k false then s.performAsync core wave w o op else s
          | _ =>
            if u.done then s.finishStore core wave id
            else if near then if s.mayPerform core wave w o k true then s.performNear core wave w o k u else s
            else if s.mayPerform core wave w o k false &&
                ((o.together k).drop 1).all (fun j => ((o.units[j]?).map (fun v => s.homeClear core wave o j v)).getD false) then
              s.performUnits core wave id (o.together k)
            else s
  | _ => s)

/-! ## The return of data -/

/-- Extends the bytes of a load to its destination's words (08 R179, 09 R208). -/
def MemOp.extend (o : MemOp) (bs : List Byte) (n : Nat) : List Word :=
  let x := leNat bs
  if o.size < 4 then
    if o.signed then [if o.size = 1 then (BitVec.ofNat 8 x).signExtend 32 else (BitVec.ofNat 16 x).signExtend 32]
    else [BitVec.ofNat 32 x]
  else (List.range n).map (fun k => BitVec.ofNat 32 (x / 2 ^ (32 * k)))

/-- The words that an operation returns to a lane; `free` numbers the free words of a texture result that the spec does not
state. -/
def MemOp.laneWords (o : MemOp) (free i n : Nat) : List Word :=
  match o.kind with
  | .texture op => (texelResult op o.desc (Table.get nilAt o.coords i) (fun k => o.gotBytes i (16 * k) 16)).getD
      ((List.range n).map (fun k => loWord (Config.freeDword (free + 4 * i + k))))
  | _ => o.extend (o.gotBytes i 0 (min o.size 16)) n

/-- LOAD_DATA_RETURN (09 R209, 10 R218): a load, an atomic or a texture read all of whose parts are done writes its
destination. -/
def execLoadDataReturn (s : State) : Out := .next (
  match s.arg with
  | .at3 core wave id =>
    match s.wave core wave with
    | none => s
    | some w => match w.op id with
      | none => s
      | some o =>
        if !o.passed || o.fault.isSome || !o.reads || o.units.any (fun u => !u.done) then s
        else
          let s := s.onWave core wave (fun w =>
            let w := { w with ops := w.ops.filter (fun p => decide (p.id ≠ id)) }
            match o.dst with
            | .none => w
            | .vec d n => w.writeVs (quadsOf o.run) o.run d n (fun i => o.laneWords s.free i n)
            | .scal d n => w.writeSs o.split d (o.laneWords s.free 0 n))
          match o.kind with
          | .texture _ => { s with free := s.free + 256 }
          | _ => s
  | _ => s)

/-! ## Scalar accesses (09 R210, 22 R443) -/

/-- A service core's wait for a window of another device: the answer, once it has come, or the request (22 R443). -/
def State.svcWindow (s : State) (n port : Nat) (va : Dword) (type : BitVec 8) (args : BitVec 192) (payload : List Byte)
    (act : List Byte → State → State) : State :=
  let c := s.svc n
  if !c.asked then
    (s.ask port type 0 args payload { core := 80 + n, va := va }).onSvc n (fun c => { c with asked := true, got := none })
  else match c.got with
    | none => s
    | some bs => act bs (s.onSvc n (fun c => { c with asked := false, got := none }))

/-- Checks 1, 2 and 10 of 09 R199 on a physical address of a service core, and check 7 on a CSR window (16 R443). -/
def svcCheck (kind : AccKind) (a : Dword) (size : Nat) : Option FaultInfo :=
  let stop := fun (c : StopCause) => some ({ cause := c, kind := kind, addr := a } : FaultInfo)
  if 2 ^ 46 ≤ a.toNat then stop .pageProtection
  else if a.toNat % size ≠ 0 then stop .misaligned
  else match placeOf a.toNat with
    | .reserved => stop .pageProtection
    | .csr _ _ => if size = 16 then stop .pageProtection else none
    | _ => none

/-- The names of the base pair of a scalar memory instruction. -/
def smBase (a : SmArgs) : List Nat := if a.a = 0x3FF then [] else regs a.a.toNat 2

/-- The words of bytes. -/
def wordsOfBytes (bs : List Byte) : List Word :=
  (List.range (bs.length / 4)).map (fun k => BitVec.ofNat 32 (leNat ((bs.drop (4 * k)).take 4)))

/-- SLD on a service core (16 R443). -/
def State.svcLoad (s : State) (n : Nat) (sz : ScalarSize) (a : SmArgs) : State :=
  let size := match sz with | .b32 => 4 | .b64 => 8 | .b128 => 16
  let c := s.svc n
  let finish := fun (bs : List Byte) (s : State) =>
    ((s.onSvc n (fun c => if a.la then (smBase a).foldl (fun c k => c.unbindS k) c else c)).putScalars a.d.toNat
      (wordsOfBytes bs)).advance
  if a.a = 0x3FF then
    let off := s.cur.iaddr + a.imm.signExtend 64 * BitVec.ofNat 64 size
    if 262144 < off.toNat + size then s.stopWith { cause := .pageProtection, kind := .scalarLoad, addr := off }
    else finish ((List.range size).map (fun k => Table.get memDefault c.sram (off.toNat + k))) s
  else
    let addr := pairOf (c.s a.a.toNat) (c.s (a.a.toNat + 1)) + a.imm.signExtend 64
    match svcCheck .scalarLoad addr size with
    | some i => s.stopWith i
    | none => match placeOf addr.toNat with
      | .memory => finish (s.bytes addr.toNat size) s
      | .csr space off =>
        let (bs, s) := (List.range (size / 4)).foldl (fun (acc : List Byte × State) j =>
          let (v, t) := acc.2.csrRead space (off + 4 * j)
          (acc.1 ++ leBytes 4 v.toNat, t)) (([] : List Byte), s)
        finish bs s
      | _ => match windowOf addr.toNat with
        | some (port, off) => s.svcWindow n port addr 0x02 (memArgs off size) [] finish
        | none => s

/-- SST on a service core (16 R443). -/
def State.svcStore (s : State) (n : Nat) (sz : ScalarSize) (a : SmArgs) : State :=
  let words := match sz with | .b32 => 1 | _ => 2
  let c := s.svc n
  let data := (regs a.d.toNat words).flatMap (fun r => leBytes 4 (c.s r).toNat)
  let finish := fun (s : State) =>
    (s.onSvc n (fun c => ((if a.la then smBase a else []) ++ (if a.lb then regs a.d.toNat words else [])).foldl
      (fun c k => c.unbindS k) c)).advance
  let addr := pairOf (c.s a.a.toNat) (c.s (a.a.toNat + 1)) + a.imm.signExtend 64
  match svcCheck .scalarStore addr (4 * words) with
  | some i => s.stopWith i
  | none => match placeOf addr.toNat with
    | .memory => finish (s.writeHome (.svc n) [] addr.toNat data)
    | .csr space off => finish ((regs a.d.toNat words).zipIdx.foldl (fun s x =>
        s.csrWrite (.svc n) space (off + 4 * x.2) (c.s x.1)) s)
    | _ => match windowOf addr.toNat with
      | some (port, off) => s.svcWindow n port addr 0x03 (memArgs off (4 * words)) data (fun _ s => finish s)
      | none => s

/-- SLD (09 R210, 16 R443). -/
def execSld (sz : ScalarSize) (a : SmArgs) (s : State) : Out := .next (
  match s.cur.svc with
  | none => s.scalarLoad sz a
  | some n => s.svcLoad n sz a)

/-- SST (09 R210, 16 R443). -/
def execSst (sz : ScalarSize) (a : SmArgs) (s : State) : Out := .next (
  match s.cur.svc with
  | none => s.scalarStore sz a
  | some n => s.svcStore n sz a)

end Sys2Proof.Machine
end

