-- ==== Sys2Proof/Machine/Link.lean ====
section
/-! DEFINITION. The link (19 R411–R414, R417–R419): requests from control nodes and peers and their answers, the answers to this
module's own requests, the messages that command it (14 R305, R312, R313; 15 R339), attestation. -/

namespace Sys2Proof

open Sys2Proof.Machine

/-- ARGS of a message from bit l on, n bits. -/
def Msg.arg (m : Msg) (l n : Nat) : Nat := (m.args.extractLsb' l n).toNat

/-- Whether ARGS are 0 from bit l on. -/
def Msg.restZero (m : Msg) (l : Nat) : Bool := (m.args >>> l).toNat = 0

/-- The n bytes a message carries, when its LEN and payload match. -/
def Msg.carries (m : Msg) (n : Nat) : Option (List Byte) :=
  if m.len.toNat = flits n ∧ n ≤ m.payload.length ∧ m.payload.length ≤ 32 * flits n then some (m.payload.take n) else none

end Sys2Proof

namespace Sys2Proof.Machine

/-! ## Answers -/

/-- MEMRSP to a request that arrived on a port (19 R412). -/
def State.respond (s : State) (port ctx : Nat) (tag : Word) (status : Nat) (data : Dword := 0) (payload : List Byte := []) : State :=
  s.send port (mkMsg 0x04 ctx tag (BitVec.ofNat 192 (status + 2 ^ 64 * data.toNat)) payload)

/-- MEMRSP to a message. -/
def State.answer (s : State) (port : Nat) (m : Msg) (status : Nat) (data : Dword := 0) (payload : List Byte := []) : State :=
  s.respond port m.ctx.toNat m.tag status data payload

/-- A TYPE that no message has (19 R412): the answer is status 3. A message of another event's type is left to it. -/
def State.strayType (s : State) (port : Nat) (m : Msg) : State :=
  if 1 ≤ m.type.toNat ∧ m.type.toNat ≤ 0x0A ∨ m.type = 0x0E then s else s.answer port m 3

/-! ## Who asks, and for what -/

/-- Whether a link request may act on a place in the present stage (19 R416). -/
def State.placeOffered (s : State) (phys : Bool) (p : Place) : Bool :=
  match s.stage, p with
  | 0, .csr 4 _ => phys
  | 0, _ => false
  | 1, .csr k _ => k = 0 || k = 4
  | _, _ => true

/-- Whether a byte of module memory is offered in the present stage (19 R416). -/
def State.memoryOffered (s : State) (pa n : Nat) : Bool := s.stage ≠ 1 || decide (pa + n ≤ 2 ^ 37)

/-- The context that a request acts for and whether its address is physical, or the status it gets: a peer's is that of PEERMAP
(19 R413, R414). -/
def State.requester (s : State) (port : Nat) (m : Msg) (phys : Bool) : Except Nat Nat :=
  if port < 2 then if phys && m.ctx ≠ 0 then .error 2 else .ok m.ctx.toNat
  else
    let map := s.csrAt 4 (0x7800 + 8 * (port - 2))
    if s.stage = 0 then .error 4
    else if phys || !map.getLsbD 31 || !s.feature 4 then .error 2
    else .ok (field map 5 0)

/-- The physical address of one access of a request (19 R413): checked under 09 R199, or, with PHYS, by check 10 alone. -/
def State.linkPlace (s : State) (phys : Bool) (ctx a size : Nat) (want : Want) : Option Nat :=
  if phys then if placeOf a = .reserved then none else some a
  else match s.hubCheck ctx (BitVec.ofNat 64 a) size want with
    | .ok (pa, _) => if want.read && placeOf pa = .memory && s.poisoned pa size then none else some pa
    | .error _ => none

/-- What a request of n bytes reaches, by its 4-byte words. -/
inductive Reach where
  | here (l : List Nat)
  | far (port off : Nat)
  | status (k : Nat)
  deriving DecidableEq, Repr

/-- Where the words of a request lie: in the module, or all in one window in order; or the status it gets. Stage S0 offers the hub's CSRs by
physical address alone (19 R416). -/
def State.reach (s : State) (phys : Bool) (ctx a n : Nat) (want : Want) : Reach :=
  if s.stage = 0 && !(List.range (n / 4)).all (fun k => s.placeOffered phys (placeOf (a + 4 * k))) then .status 4
  else match (List.range (n / 4)).mapM (fun k => s.linkPlace phys ctx (a + 4 * k) 4 want) with
  | none => .status 1
  | some l =>
    if l.any (fun pa => !s.placeOffered phys (placeOf pa) || (placeOf pa = .memory && !s.memoryOffered pa 4)) then .status 4
    else match l.head?.bind windowOf with
      | some (port, off) =>
        if l.zipIdx.all (fun x => decide (windowOf x.1 = some (port, off + 4 * x.2))) then .far port off else .status 1
      | none =>
        if l.any (fun pa => (windowOf pa).isSome) then .status 1
        else if l.any (fun pa => placeOf pa ≠ .memory && pa % 4 ≠ 0) then .status 3
        else .here l

/-- Sends a request on, for the context it acts for, to the window it names, to be answered when that answer comes. -/
def State.forward (s : State) (port : Nat) (m : Msg) (ctx out : Nat) (args : BitVec 192) (payload : List Byte) : State :=
  s.ask out m.type ctx args payload { core := 68, wave := m.ctx.toNat, link := some (port, m.tag) }

/-! ## Reads and writes -/

/-- MEMRD (19 R412, R413): the bytes, in port order. A context other than 0 reads 0 of a CSR (R419). -/
def execMemrd (s : State) : Out := .next (
  match s.arg with
  | .message port m =>
    let n := m.arg 64 16
    let phys := m.args.getLsbD 80
    if m.type ≠ 0x02 then s.strayType port m
    else if m.zero ≠ 0 ∨ m.len ≠ 0 ∨ m.payload ≠ [] ∨ m.arg 56 8 ≠ 0 ∨ !m.restZero 81 ∨ n % 4 ≠ 0 ∨ n < 4 ∨ 4096 < n then s.answer port m 3
    else match s.requester port m phys with
      | .error k => s.answer port m k
      | .ok ctx => match s.reach phys ctx (m.arg 0 56) n { read := true, plain := true } with
        | .status k => s.answer port m k
        | .far out off => s.forward port m ctx out (memArgs off n) []
        | .here l =>
          let (bs, s) := l.foldl (fun (acc : List Byte × State) pa => match placeOf pa with
            | .csr space a =>
              if ctx ≠ 0 then (acc.1 ++ [0, 0, 0, 0], acc.2)
              else
                let (v, t) := acc.2.csrRead space a
                (acc.1 ++ leBytes 4 v.toNat, t)
            | _ => (acc.1 ++ acc.2.bytes pa 4, acc.2)) (([] : List Byte), s)
          s.answer port m 0 0 bs
  | _ => s)

/-- MEMWR (10 R232; 19 R412, R413): the writes are performed in port order. -/
def execMemwr (s : State) : Out := .next (
  match s.arg with
  | .message port m =>
    let n := m.arg 64 16
    let phys := m.args.getLsbD 80
    if m.type ≠ 0x03 then s.strayType port m
    else if m.zero ≠ 0 ∨ m.arg 56 8 ≠ 0 ∨ !m.restZero 81 ∨ n % 4 ≠ 0 ∨ n < 4 ∨ 4096 < n then s.answer port m 3
    else match m.carries n with
      | none => s.answer port m 3
      | some data => match s.requester port m phys with
        | .error k => s.answer port m k
        | .ok ctx => match s.reach phys ctx (m.arg 0 56) n { write := true, plain := true } with
          | .status k => s.answer port m k
          | .far out off => s.forward port m ctx out (memArgs off n) data
          | .here l =>
            let word := fun (k : Nat) => (data.drop (4 * k)).take 4
            let whole := l.all (fun pa => placeOf pa = .memory) &&
              l.zipIdx.all (fun x => decide (x.1 = l.headD 0 + 4 * x.2))
            let s := if whole then s.writeHome (.port port) [] (l.headD 0) data
              else l.zipIdx.foldl (fun s x => match placeOf x.1 with
                | .csr space a => if ctx ≠ 0 then s else s.csrWrite .link space a (BitVec.ofNat 32 (leNat (word x.2)))
                | _ => s.writeHome (.port port) [] x.1 (word x.2)) s
            s.answer port m 0
  | _ => s)

/-- ATOMIC (09 R211; 19 R412): a peer's, performed in one step and answered with the old value. -/
def execAtomicMsg (s : State) : Out := .next (
  match s.arg with
  | .message port m =>
    if m.type ≠ 0x05 then s.strayType port m
    else if port < 2 ∨ m.zero ≠ 0 ∨ m.len ≠ 0 ∨ m.payload ≠ [] then s.answer port m 3
    else match atomOfByte (m.arg 56 8) with
      | none => s.answer port m 3
      | some (o, wide) =>
        let size := if wide then 8 else 4
        if !m.restZero (64 + 8 * size * (if o = .cas then 2 else 1)) then s.answer port m 3
        else match s.requester port m false with
          | .error k => s.answer port m k
          | .ok ctx => match s.linkPlace false ctx (m.arg 0 56) size { read := true, write := true } with
            | none => s.answer port m 1
            | some pa => match windowOf pa with
              | some (out, off) => s.forward port m ctx out (atomArgs off (atomOpc o wide) (m.arg 64 128)) []
              | none =>
                if !s.memoryOffered pa size then s.answer port m 4
                else
                  let old := leNat (s.bytes pa size)
                  let s := s.writeHome (.port port) [] pa (leBytes size (atomNew o wide old (m.arg 64 128)))
                  s.answer port m 0 (BitVec.ofNat 64 old)
  | _ => s)

/-- The CSR of a CSRRD or CSRWR, or the status it gets (19 R412, R413, R416). `args` is whether ARGS and LEN have their form. -/
def State.csrRequest (s : State) (port : Nat) (m : Msg) (args : Bool) : Except Nat (Nat × Nat) :=
  let space := m.arg 0 3
  let a := m.arg 16 16
  if 2 ≤ port ∨ m.zero ≠ 0 ∨ m.len ≠ 0 ∨ m.payload ≠ [] ∨ !args ∨ m.arg 3 13 ≠ 0 ∨ m.arg 32 32 ≠ 0 ∨ 4 < space ∨ a % 4 ≠ 0 then .error 3
  else if m.ctx ≠ 0 then .error 2
  else if (s.stage = 0 ∧ space ≠ 4) ∨ (s.stage = 1 ∧ space ≠ 0 ∧ space ≠ 4) then .error 4
  else .ok (space, a)

/-- CSRRD (19 R412, R417). -/
def execCsrrdMsg (s : State) : Out := .next (
  match s.arg with
  | .message port m =>
    if m.type ≠ 0x06 then s.strayType port m
    else match s.csrRequest port m (m.restZero 64) with
      | .error k => s.answer port m k
      | .ok (space, a) =>
        let (v, s) := s.csrRead space a
        s.answer port m 0 (v.setWidth 64)
  | _ => s)

/-- CSRWR (19 R412). -/
def execCsrwrMsg (s : State) : Out := .next (
  match s.arg with
  | .message port m =>
    if m.type ≠ 0x07 then s.strayType port m
    else match s.csrRequest port m (m.restZero 96) with
      | .error k => s.answer port m k
      | .ok (space, a) => (s.csrWrite .link space a (BitVec.ofNat 32 (m.arg 64 32))).answer port m 0
  | _ => s)

/-! ## Answers to this module's requests -/

/-- Whether an engine's access to a window that failed was a write, and its address. -/
def Cmd.windowAccess (c : Cmd) (r : PeerReq) : Bool × Nat :=
  match c.askAt with
  | some (k, write) =>
    let p := ((chunkBytes c.parts).getD k ({}, 0)).1
    (write, if write then p.dst else p.src)
  | none =>
    let write := r.bytes = 0 || c.phase ≠ 0
    (write, match c.parts.head? with
      | some p => if write then p.dst else p.src
      | none => c.recAddr.toNat)

/-- An answer for part `unit` of an operation: data, or PAGE_PROTECTION (19 R414). -/
def State.unitAnswer (s : State) (r : PeerReq) (ok : Bool) (bs : List Byte) (data : Dword) : State :=
  match s.wave r.core r.wave with
  | none => s
  | some w => match w.op r.op with
    | none => s
    | some o => match o.units[r.unit]? with
      | none => s
      | some u =>
        if w.order ≠ r.order || !u.sent then s
        else if ok then
          let bs := match o.kind with
            | .atomic _ => leBytes u.len data.toNat
            | _ => (bs.drop (u.va % 4)).take u.len
          ((s.markDone r.core r.wave r.op r.unit bs).acquired r.core r.wave r.op r.unit).finishStore r.core r.wave r.op
        else
          let info := o.info .pageProtection u.lane r.va
          let s := s.onWave r.core r.wave (fun w => w.onOp r.op (fun o =>
            { o.onUnit r.unit (fun u => { u with sent := false }) with fault := some info }))
          s.takeStop r.core r.wave o.split info o.pc

/-- An answer for the fetch of an instruction word (10 R216): the core keeps the word, or the wave stops. -/
def State.fetchAnswer (s : State) (r : PeerReq) (k : Nat) (ok : Bool) (bs : List Byte) : State :=
  match s.wave r.core r.wave with
  | none => s
  | some w =>
    if w.order ≠ r.order then s
    else if ok then s.onCore r.core (fun c =>
      c.keepWords w.ctx (r.va.toNat / 128) [(r.va.toNat / 8 % 16, BitVec.ofNat 64 (leNat bs))])
    else s.takeStop r.core r.wave k { cause := .pageProtection, kind := .fetch, addr := r.va }
      (((w.split k).map (fun sp => sp.pc)).getD 0)

/-- An answer for an engine command. -/
def State.cmdAnswer (s : State) (r : PeerReq) (ok : Bool) (bs : List Byte) : State :=
  match s.cmd r.core r.op with
  | none => s
  | some c =>
    let s := s.onCmd r.core r.op (fun c => { c with awaiting := false, reply := if ok then some bs else none })
    if ok then s
    else
      let a := c.windowAccess r
      s.suspend r.core c (engineFault .pageProtection (if a.1 then .engineWrite else .engineRead) (BitVec.ofNat 64 a.2))

/-- An answer for the hub: a launch's wait word or completion add, or that of a task (13 R280, R292), or a digest store (15 R334). -/
def State.hubAnswer (s : State) (r : PeerReq) (ok : Bool) (bs : List Byte) : State :=
  let ends := fun (st : Nat) => match s.launch r.op with
    | some l => s.launchDone r.op l st
    | none => s
  if r.core = 64 then
    if !ok then ends 7
    else
      let v : Dword := BitVec.ofNat 64 (leNat bs)
      s.onLaunch r.op (fun l => { l with asked := false, stage := if l.stage = .waiting ∧ l.pair 20 ≤ v then .ready else l.stage })
  else if r.core = 65 then if ok then (ends 0).waitReadAll else ends 7
  else if r.core = 66 then if ok then s.waitReadAll else s
  else if r.core = 71 then if ok then s else s.onLaunch r.op (fun l => { l with replayFault := true })
  else s

/-- An answer for a service core (16 R443). -/
def State.svcAnswer (s : State) (n : Nat) (r : PeerReq) (ok : Bool) (bs : List Byte) : State :=
  if !(s.svc n).asked then s
  else if ok then s.onSvc n (fun c => { c with got := some bs })
  else (s.onSvc n (fun c => { c with asked := false, got := none })).svcHalt n
    { cause := .pageProtection, kind := if r.bytes = 0 then .scalarStore else .scalarLoad, addr := r.va } (s.svc n).pc

/-- MEMRSP (19 R412, R414): the answer to a request that this module made. One that matches none is dropped and counted. -/
def execMemrsp (s : State) : Out := .next (
  match s.arg with
  | .message port m =>
    if m.type ≠ 0x04 then s.strayType port m
    else match s.peerReqs.find? (fun r => decide (r.port = port ∧ r.tag = m.tag)) with
      | none => s.linkErr
      | some r =>
        let status := m.arg 0 8
        let ok := decide (status = 0)
        let data : Dword := BitVec.ofNat 64 (m.arg 64 64)
        match (if ok then m.carries r.bytes else some []) with
        | none => s.linkErr
        | some bs =>
          let s := { s with peerReqs := s.peerReqs.filter (fun x => !(x.port = port && x.tag = m.tag)) }
          if r.engine then s.cmdAnswer r ok (if r.bytes = 0 then leBytes 8 data.toNat else bs)
          else match r.split, r.link, r.reader with
            | some k, _, _ => s.fetchAnswer r k ok bs
            | none, some (p, tag), _ => s.respond p r.wave tag status data bs
            | none, none, some x => s.readerAnswer x r.va.toNat r.bytes ok bs
            | none, none, none =>
              if r.core < 64 then s.unitAnswer r ok bs data
              else if 80 ≤ r.core then s.svcAnswer (r.core - 80) r ok bs
              else s.hubAnswer r ok bs
  | _ => s)

/-! ## Messages that command the module -/

/-- Whether a message without MEMRSP may act: it has its form, comes from context 0 on a control-node port, and the stage offers it. -/
def State.mayCommand (s : State) (port : Nat) (m : Msg) (form : Bool) : Bool :=
  port < 2 && form && m.zero = 0 && m.len = 0 && m.payload = [] && m.ctx = 0 && s.stage ≠ 0

/-- RESUME (19 R412): as WCMD RESUME. -/
def execResumeMsg (s : State) : Out := .next (
  match s.arg with
  | .message port m =>
    if m.type ≠ 0x08 then s.strayType port m
    else if !s.mayCommand port m (m.restZero 17) then s.linkErr
    else s.windowResume (m.arg 0 6) (m.arg 6 9) (m.args.getLsbD 15) (m.args.getLsbD 16)
  | _ => s)

/-- UNBENCH (19 R412, 15 R339). -/
def execUnbenchMsg (s : State) : Out := .next (
  match s.arg with
  | .message port m =>
    if m.type ≠ 0x0A then s.strayType port m
    else if !s.mayCommand port m (m.restZero 6) then s.linkErr
    else if s.coreDark (m.arg 0 6) then s
    else s.unbench (m.arg 0 6)
  | _ => s)

/-- A launch that ends with status 4 makes no completion add and stores no digest (13 R278). -/
def Launch.muted (l : Launch) : Launch :=
  { l with words := l.words.zipIdx.map (fun x => if x.2 = 22 || x.2 = 23 || x.2 = 42 || x.2 = 43 then 0 else x.1) }

/-- The abort writes of a killed context (14 R313). -/
def State.abortWrites (s : State) (ctx : Nat) : State :=
  let reg := 0x5400 + 0x10 * ctx
  let base := (s.csrAt 4 reg).toNat + 2 ^ 32 * (s.csrAt 4 (reg + 4)).toNat
  (List.range (field (s.csrAt 4 (reg + 8)) 8 0)).foldl (fun s k =>
    if placeOf (base + 8 * k) ≠ .memory then s
    else
      let a := (s.dwordAt (base + 8 * k)).toNat
      match (if a < 2 ^ 46 ∧ a % 8 = 0 then windowOf a else none) with
      | some (port, off) => s.ask port 0x03 ctx (memArgs off 8) (List.replicate 8 0xFF) { core := 70 }
      | none => s) s

/-- Kills a context (14 R312). -/
def State.killContext (s : State) (ctx : Nat) : State :=
  let s := s.abandonSamples ctx
  let s := s.launches.foldl (fun s e => match e.2 with
    | some l => if l.ctx = ctx then s.onLaunch e.1 Launch.muted else s
    | none => s) s
  let mine := fun (s : State) (g : Nat) => ((s.group g).map (fun x => decide (x.ctx = ctx))).getD false
  let s := s.dropWork (fun c => decide (c.ctx = ctx)) (fun o => mine s o.group)
  let s := s.waves.foldl (fun s e => match s.wave (e.1 / 512) (e.1 % 512) with
    | some w =>
      if w.ctx ≠ ctx then s
      else s.killWave (e.1 / 512) (e.1 % 512) { cause := .kill } ((w.live4.head?.map (fun x => x.2.pc)).getD 0)
        ((w.live4.head?.map (fun x => x.1)).getD 0)
    | none => s) s
  let s := s.groups.foldl (fun s e => if mine s e.1 then s.removeGroup e.1 else s) s
  let s := s.launches.foldl (fun s e => match e.2 with
    | some l =>
      if l.ctx ≠ ctx then s
      else
        let s := if l.kind = .plain && l.stage ≠ .finished then s.complete l.port l.ctx l.tag l.launchid 4 false else s
        { s with launches := Table.set noneAt s.launches e.1 none }
    | none => s) s
  let gone := fun (s : State) (n : Nat) => (s.launch n).isNone
  let s := (List.range 64).foldl (fun s c => s.onCore c (fun k => { k with
      prefetch := k.prefetch.filter (fun t => decide (t.ctx ≠ ctx))
      records := k.records.filter (fun r => decide (r.ctx ≠ ctx))
      locked := k.locked.filter (fun x => decide (x.1 ≠ ctx))
      deques := k.deques.map (fun q => match q.launch with
        | some n => if gone s n then { q with launch := none, entries := [], lost := q.lost + BitVec.ofNat 32 q.entries.length }
          else q
        | none => q) })) s
  let s := (List.range 4).foldl (fun s d => (s.setTaskQueue d ctx []).onDie d (fun k =>
    let slots := (List.range 16).filter (fun i => ((Table.get noneAt k.passes i).map (fun p => decide (p.ctx = ctx))).getD false)
    { k with amps := k.amps.filter (fun a => !slots.contains a.slot)
             passes := slots.foldl (fun t i => Table.set noneAt t i none) k.passes })) s
  s.abortWrites ctx

/-- KILLCTX (14 R312, R313). -/
def execKillctx (s : State) : Out := .next (
  match s.arg with
  | .message port m =>
    if m.type ≠ 0x09 then s.strayType port m
    else if !s.mayCommand port m (m.restZero 6) then s.linkErr
    else s.killContext (m.arg 0 6)
  | _ => s)

/-! ## Attestation -/

/-- The 160 bytes of an attestation report (19 R418). -/
def State.report (s : State) (nonce : List Byte) : List Byte :=
  let images := (List.range 5).flatMap (fun n => ((s.svc n).image).getD [])
  nonce ++ (List.range 4).flatMap (fun k => leBytes 4 (s.feat k).toNat) ++ leBytes 8 s.stage ++
    (List.range 48).map (Config.sha384Byte images) ++ List.replicate 40 0

/-- ATTEST (19 R418): any context may send it, in any stage. -/
def execAttest (s : State) : Out := .next (
  match s.arg with
  | .message port m =>
    if m.type ≠ 0x0E then s.strayType port m
    else if 2 ≤ port ∨ m.zero ≠ 0 ∨ m.args ≠ 0 then s.answer port m 3
    else match m.carries 48 with
      | none => s.answer port m 3
      | some nonce =>
        let r := s.report nonce
        s.send port (mkMsg 0x0E m.ctx.toNat m.tag 0 (r ++ (List.range 96).map (Config.signByte r)))
  | _ => s)

/-! ## Credits -/

/-- LINK_CREDIT_RETURN (19 R411): the far end takes the oldest message of a port, and one that waited is in flight. -/
def execLinkCreditReturn (s : State) : Out := .next (
  match s.arg with
  | .at1 port => { s with out := Table.update nilAt s.out port (fun l => l.drop 1) }
  | _ => s)

end Sys2Proof.Machine
end

