-- ==== Sys2Proof/Machine/Repack.lean ====
section
/-! DEFINITION. REPACK (18 R408–R410): the rendezvous of a group's waves, and the placement of their survivors. -/

namespace Sys2Proof.Machine

/-! ## Placement (18 R409) -/

/-- A survivor: its wave's rank and lane, its %vlid, and the words of v[A:A+n−1]. -/
structure Survivor where
  rank : Nat := 0
  lane : Nat := 0
  vlid : Nat := 0
  words : List Word := []
  deriving DecidableEq, Repr

/-- An occupied place: rank, lane and its occupant. -/
abbrev Placed := List (Nat × Nat × Survivor)

/-- The lowest free lane of a wave of `width` lanes. -/
def Placed.freeLane (p : Placed) (width rank : Nat) : Option Nat :=
  (List.range width).find? (fun l => p.all (fun x => !(x.1 = rank && x.2.1 = l)))

/-- Places a survivor: in the lowest-ranked wave with a free lane and no occupant of its %vlid. -/
def Placed.place (width waves : Nat) (p : Placed) (x : Survivor) : Placed :=
  match (List.range waves).findSome? (fun r =>
      if p.any (fun y => decide (y.1 = r ∧ y.2.2.vlid = x.vlid)) then none
      else (Placed.freeLane p width r).map (fun l => (r, l))) with
  | some (r, l) => p ++ [(r, l, x)]
  | none => p

/-- The run of a wave that waits at a REPACK. -/
def Wave.repackRun (w : Wave) : Dword :=
  match w.repack, w.live4.find? (fun x => w.liveOf x.2 ≠ 0) with
  | some (_, _, g), some (_, sp) => w.liveOf sp &&& sp.guard g.toNat
  | _, _ => 0

/-- The survivors of a wave of some rank. -/
def Wave.survivors (w : Wave) (rank : Nat) : List Survivor :=
  match w.repack with
  | none => []
  | some (a, n, _) => (lanesOf w.repackRun).map (fun i =>
      { rank := rank, lane := i, vlid := Table.get (fun k => k) w.vlid i, words := (regs a n).map (fun r => w.v r i) })

/-! ## State after (18 R410) -/

/-- Takes a vector register name out of a lane, where it reads 0 (05 R119). -/
def Wave.clearLane (w : Wave) (lane : Nat) (keep : List Nat) : Wave :=
  { w with vregs := w.vregs.filter (fun e => decide (e.1 % 64 ≠ lane) || keep.contains (e.1 / 64)) }

/-- The quads with no lane that keeps its occupant give up the names that are not carried. -/
def Wave.clearQuads (w : Wave) (kept : Nat → Bool) (carry : List Nat) : Wave :=
  (List.range (w.width / 4)).foldl (fun w q =>
    if (List.range 4).any (fun k => kept (4 * q + k)) then w
    else (w.vnamesBound.filter (fun r => !carry.contains r)).foldl (fun w r => w.unbindV r q) w) w

/-- What a moved lane keeps of a pixel wave: whether it is a helper, its pixel and its colour. -/
structure PixelLane where
  helper : Bool := false
  quad : Option Nat := none
  colour : Option (Bool × Quad) := none
  deriving DecidableEq, Repr

/-- The pixel state of a lane. -/
def Wave.pixelLane (w : Wave) (i : Nat) : PixelLane :=
  { helper := w.helper.getLsbD i, quad := Table.get noneAt w.quadOf i, colour := Table.get noneAt w.colour i }

/-- A wave after the REPACK: `here` are its occupants by lane, and `pixel` the pixel state that each brings. -/
def Wave.repacked (w : Wave) (rank a n : Nat) (here : List (Nat × Survivor)) (pixel : Survivor → PixelLane)
    (last next : Dword) : Wave :=
  let carry := regs a n
  let kept := fun (l : Nat) => here.any (fun x => decide (x.1 = l ∧ x.2.rank = rank ∧ x.2.lane = l))
  let live := maskWhere (fun l => here.any (fun x => decide (x.1 = l)))
  let w : Wave := (here.filter (fun x => !kept x.1)).foldl (fun w x => w.clearLane x.1 carry) (w.clearQuads kept carry)
  let w : Wave := carry.foldl (fun w r => w.bind (quadsOf live) r) w
  let w : Wave := here.foldl (fun w x => (x.2.words.zipIdx).foldl (fun w y => w.putLane (a + y.2) x.1 y.1) w) w
  let all := lowLanes w.width
  { w with
    exited := ~~~live, repack := none, hist := [],
    queries := w.queries.filter (fun e => live.getLsbD e.1 && kept e.1)
    vlid := here.foldl (fun t x => Table.set (fun k => k) t x.1 x.2.vlid) []
    remap := here.foldl (fun t x => Table.set (fun k => k) t x.2.vlid x.1) []
    remapInvalid := (List.range 64).foldl (fun t v => Table.set falseAt t v
      (decide (v < w.width) && here.all (fun x => decide (x.2.vlid ≠ v)))) []
    helper := maskWhere (fun l => here.any (fun x => decide (x.1 = l) && (pixel x.2).helper))
    quadOf := here.foldl (fun t x => Table.set noneAt t x.1 (pixel x.2).quad) []
    colour := here.foldl (fun t x => Table.set noneAt t x.1 (pixel x.2).colour) []
    records := w.records.map (fun r => { r with members := all })
    splits := w.splits.filterMap (fun e => match e.2 with
      | some sp =>
        if w.liveOf sp = 0 ∨ live = 0 then none
        else
          let sp : Split := { sp with lanes := all, masks := [], state := 0 }
          some (e.1, some { sp.advance last next with moved := sp.moved })
      | none => none) }

/-- Lanes that end give what PIXOUT left of them to their tile. -/
def State.pixelsGone (s : State) (w : Wave) (lanes : Dword) : State :=
  match w.kind with
  | .pixel die slot tile =>
    let put := fun (t : Table (Option (Bool × Quad))) (i : Nat) => match Table.get noneAt w.quadOf i with
      | some k => Table.set noneAt t k (Table.get noneAt w.colour i)
      | none => t
    s.onPass die slot (fun p => p.onTile tile (fun j => { j with results := (lanesOf lanes).foldl put j.results }))
  | _ => s

/-- Ends a wait at a REPACK, with the split as it stood. -/
def Wave.leaveRepack (w : Wave) : Wave :=
  { w with repack := none, splits := w.splits.map (fun e => (e.1, e.2.map (fun sp =>
      if sp.state = 2 then { sp with state := 0 } else sp))) }

/-- A wave that waits at a REPACK stops with ILLEGAL_OPERAND. -/
def State.repackStop (s : State) (core wave : Nat) : State :=
  match s.wave core wave with
  | none => s
  | some w =>
    let at_ := (w.live4.find? (fun x => decide (x.2.state = 2))).getD (0, {})
    (s.setWave core wave (some w.leaveRepack)).takeStop core wave at_.1 { cause := .illegalOperand, addr := at_.2.pc } at_.2.pc

/-- The waves that take part and what is placed in them: a wave that would bind more names than Vm stops, and the rendezvous goes on with
the rest (05 R123). -/
def repackRounds (width a n : Nat) : Nat → List ((Nat × Wave) × Nat) → List ((Nat × Wave) × Nat) × List (Nat × Nat × Survivor)
  | 0, _ => ([], [])
  | fuel + 1, rest =>
    let placed := (rest.flatMap (fun y => y.1.2.survivors y.2)).foldl (Placed.place width rest.length) []
    let full := fun (y : (Nat × Wave) × Nat) =>
      placed.any (fun p => decide (p.1 = y.2)) && decide (y.1.2.vmax < (y.1.2.vnamesBound ++ regs a n).eraseDups.length)
    if rest.any full then repackRounds width a n fuel (((rest.filter (fun y => !full y)).map (fun y => y.1)).zipIdx)
    else (rest, placed)

/-- The REPACK of a group whose waves have all arrived: waves that disagree stop, a wave whose survivor holds a query stops, and
the survivors of the others are placed. -/
def State.repackAct (s : State) (g : Nat) : State :=
  match s.group g with
  | none => s
  | some x =>
    let waves := sortBy (fun a b => decide (a.1 ≤ b.1))
      (x.live.filterMap (fun k => (s.wave x.core k).map (fun w => (k, w))))
    let shape := fun (w : Wave) => w.repack.map (fun r => (r.1, r.2.1))
    match waves with
    | [] => s
    | (_, w0) :: _ =>
      if waves.any (fun y => y.2.repack.isNone || decide (y.2.run ≠ .running)) then s
      else if waves.any (fun y => decide (shape y.2 ≠ shape w0)) then
        waves.foldl (fun s y => s.repackStop x.core y.1) s
      else
        let holds := fun (y : Nat × Wave) => (lanesOf y.2.repackRun).any (fun i => (Table.get noneAt y.2.queries i).isSome)
        let s := (waves.filter holds).foldl (fun s y => s.repackStop x.core y.1) s
        let rest := (waves.filter (fun y => !holds y)).zipIdx
        let (a, n) := ((shape w0).getD (0, 0))
        let (rest, placed) := repackRounds w0.width a n waves.length rest
        let s := ((waves.filter (fun y => !holds y)).filter (fun y => !(rest.any (fun z => decide (z.1.1 = y.1))))).foldl
          (fun s y => s.repackStop x.core y.1) s
        let pixel := fun (v : Survivor) => ((rest.find? (fun y => decide (y.2 = v.rank))).map (fun y =>
          y.1.2.pixelLane v.lane)).getD {}
        rest.foldl (fun s y =>
          let here := placed.filterMap (fun p => if p.1 = y.2 then some p.2 else none)
          let s := s.pixelsGone y.1.2 (y.1.2.liveLanes &&& ~~~y.1.2.repackRun)
          let sp := ((y.1.2.live4.find? (fun z => decide (z.2.state = 2))).map (fun z => z.2)).getD {}
          let w := s.makeRoom x.core y.1.1 y.1.2 (quadsOf (maskWhere (fun l => here.any (fun p => decide (p.1 = l))))) { vw := regs a n }
          s.setWave x.core y.1.1 (some (w.repacked y.2 a n here pixel sp.pc (sp.pc + 8)))) s

/-- REPACK (18 R408): the wave has issued it (13 R285, R286), and waits in STATE 2 until every wave of the group that has not ended has issued one. -/
def execRepack (f : FArgs) (s : State) : Out := .next (
  match s.issuing with
  | some (w, _) =>
    if w.repack.isSome then s.repackAct w.group
    else
      s.forced 64 (fun s => s.issueWith (FOp.uses .repack f) (fun _ _ s =>
        ((s.onIssuer (fun w => { w with repack := some (f.a.toNat, f.b.toNat + 1, f.g) })).onIssuingSplit (fun sp =>
          { sp with state := 2, moved := true })).repackAct w.group))
  | none => s)

end Sys2Proof.Machine
end

