-- ==== Sys2Proof/Machine/Sample.lean ====
section
/-! DEFINITION. The issue of texture reads and image stores (17 R389–R391) and of the bitmap and depth tests (17 R387). -/

namespace Sys2Proof.Machine

/-- The twelve scalars of a descriptor. -/
def Wave.scalars (w : Wave) (k n : Nat) : List Word := (regs k n).map w.s

/-- Issues a texture instruction whose descriptor is well formed. -/
def State.textured (s : State) (op : FOp) (f : FArgs) (act : List Word → State → State) : State :=
  s.whenIssuable (op.uses f) (fun s => match s.issuing with
    | none => s
    | some (w, sp0) =>
      let d := (w.seen sp0 s.free).scalars f.s.toNat 12
      if descriptorOk d then act d s else s.stopHere .illegalOperand)

/-- A texture read as an operation: `coords` gives each lane's operands. -/
def texelOp (op : FOp) (f : FArgs) (access : AccKind) (scope : BitVec 3) (desc : List Word) (w : Wave) (sp : Split)
    (coords : Nat → List Word) (n : Nat) : MemOp :=
  let run := w.runOf sp f.g
  { kind := .texture op, access := access, run := run, live := run, desc := desc, scope := scope,
    coords := laneTable nilAt run coords, dst := .vec f.d.toNat n }

/-- The difference of two FP32 words, rounded RNE. -/
def f32Diff (x y : Word) : Word := toF32 .rne (Val.add false (f32 x) (Val.negate (f32 y)))

/-- SAMPLE (17 R390): the gradients are the fine DDX and DDY of the coordinates. -/
def execSample (f : FArgs) (s : State) : Out := .next (
  s.forced 4 (fun s => s.textured .sample f (fun desc s =>
    let n := s.free
    let t := s.issueOp (FOp.uses .sample f) (fun w sp =>
      let at_ := fun (k i j : Nat) => w.fetch sp (n + 8 * i + 2 * (j % 4) + k) (f.a.toNat + k) i j
      let dx := fun (k i : Nat) => f32Diff (at_ k i (i / 2 * 2 + 1)) (at_ k i (i / 2 * 2))
      let dy := fun (k i : Nat) => f32Diff (at_ k i (i / 4 * 4 + 2 + i % 2)) (at_ k i (i / 4 * 4 + i % 2))
      texelOp .sample f .texture 2 desc w sp (fun i =>
        [w.v f.a.toNat i, w.v (f.a.toNat + 1) i, dx 0 i, dx 1 i, dy 0 i, dy 1 i]) 4)
    { t with free := t.free + 512 })))

/-- SAMPLEG (17 R390). -/
def execSampleg (f : FArgs) (s : State) : Out := .next (
  s.textured .sampleg f (fun desc s => s.issueOp (FOp.uses .sampleg f) (fun w sp =>
    texelOp .sampleg f .texture 2 desc w sp (fun i => (regs f.a.toNat 6).map (fun r => w.v r i)) 4)))

/-- TLD (17 R390). -/
def execTld (f : FArgs) (s : State) : Out := .next (
  s.textured .tld f (fun desc s => s.issueOp (FOp.uses .tld f) (fun w sp =>
    texelOp .tld f .texture 2 desc w sp (fun i => (regs f.a.toNat 3).map (fun r => w.v r i)) 4)))

/-- IMGST (17 R391): a weak store of the texel by each lane whose coordinates are in range; helper lanes store nothing. -/
def execImgst (f : FArgs) (s : State) : Out := .next (
  s.textured .imgst f (fun desc s => s.issueOp (FOp.uses .imgst f) (fun w sp =>
    let t := descriptorOf desc
    let texel := fun (i : Nat) => t.texel ((regs f.a.toNat 3).map (fun r => w.v r i))
    let run0 := w.runOf sp f.g &&& ~~~w.helper
    let run := run0 &&& maskWhere (fun i => run0.getLsbD i && (texel i).isSome)
    { kind := .store, access := .texture, size := texelSize t.fmt, run := run, live := run,
      addrs := laneTable (fun _ => (0 : Dword)) run (fun i => (texel i).getD 0),
      data := laneTable zeroQuad run (fun i =>
        let c := (regs f.b.toNat 4).map (fun r => w.v r i)
        BitVec.ofNat 128 (leNat (texelBytes t.fmt (c.map f32) c))) })))

/-- VISQ (17 R387): a read strong at device scope. -/
def execVisq (f : FArgs) (s : State) : Out := .next (
  s.issueOp (FOp.uses .visq f) (fun w sp =>
    texelOp .visq f .load 5 (w.scalars f.s.toNat 2) w sp (fun i => [w.v f.a.toNat i]) 1))

/-- HZQ (17 R387): reads strong at device scope. -/
def execHzq (f : FArgs) (s : State) : Out := .next (
  s.issueOp (FOp.uses .hzq f) (fun w sp =>
    texelOp .hzq f .load 5 (w.scalars f.s.toNat 3) w sp (fun i => (regs f.a.toNat 3).map (fun r => w.v r i)) 1))

end Sys2Proof.Machine
end

