-- ==== Sys2Proof/Machine/Rep.lean ====
section
/-! DEFINITION. REP (02 R41, 04 R113): one repeat of an F instruction with its marked fields stepped; the issue of a word that
decodes to no instruction (02 R28). -/

namespace Sys2Proof.Machine

/-- The meaning of an F instruction. -/
def runF (op : FOp) (f : FArgs) (s : State) : Out :=
  match op with
  | .iadd => execIadd f s | .isub => execIsub f s | .imul => execImul f s | .imulhi => execImulhi f s
  | .imulhn => execImulhn f s | .imad => execImad f s | .imadwi => execImadwi f s | .imadwn => execImadwn f s
  | .iadd64 => execIadd64 f s | .isub64 => execIsub64 f s | .imin => execImin f s | .imax => execImax f s
  | .iminn => execIminn f s | .imaxn => execImaxn f s | .iabs => execIabs f s | .ineg => execIneg f s
  | .iaddsat => execIaddsat f s | .iaddsatn => execIaddsatn f s | .isubsat => execIsubsat f s
  | .isubsatn => execIsubsatn f s | .vand => execVand f s | .vor => execVor f s | .vxor => execVxor f s
  | .andn => execAndn f s | .shl => execShl f s | .shr => execShr f s | .sra => execSra f s | .shl64 => execShl64 f s
  | .shr64 => execShr64 f s | .bfe => execBfe f s | .bfi => execBfi f s | .popc => execPopc f s | .clz => execClz f s
  | .brev => execBrev f s | .icmp => execIcmp f s | .sel => execSel f s | .idp4 => execIdp4 f s | .lea => execLea f s
  | .mov => execMov f s | .mov64 => execMov64 f s | .vrds => execVrds f s | .vfree => execVfree f s
  | .prmt => execPrmt f s | .fadd => execFadd f s | .fsub => execFsub f s | .fmul => execFmul f s
  | .ffma => execFfma f s | .fmin => execFmin f s | .fmax => execFmax f s | .fabs => execFabs f s
  | .fneg => execFneg f s | .fcmp => execFcmp f s | .frnd => execFrnd f s | .frcp => execFrcp f s
  | .frsq => execFrsq f s | .fsqrt => execFsqrt f s | .fdiv => execFdiv f s | .fexp2 => execFexp2 f s
  | .flog2 => execFlog2 f s | .frred => execFrred f s | .fsinr => execFsinr f s | .fcosr => execFcosr f s
  | .ftanh => execFtanh f s | .fclass => execFclass f s | .dadd => execDadd f s | .dsub => execDsub f s
  | .dmul => execDmul f s | .dfma => execDfma f s | .dmin => execDmin f s | .dmax => execDmax f s
  | .dcmp => execDcmp f s | .ddiv => execDdiv f s | .dsqrt => execDsqrt f s | .drnd => execDrnd f s
  | .hadd2 => execHadd2 f s | .hmul2 => execHmul2 f s | .hfma2 => execHfma2 f s | .badd2 => execBadd2 f s
  | .bmul2 => execBmul2 f s | .bfma2 => execBfma2 f s | .bmax2 => execBmax2 f s | .bmin2 => execBmin2 f s
  | .fdp2b => execFdp2b f s | .fdp4q => execFdp4q f s | .fdp4w => execFdp4w f s | .crxf => execCrxf f s
  | .rngh => execRngh f s | .rngf => execRngf f s | .cvt => execCvt f s | .cvtpk => execCvtpk f s
  | .cvtupk => execCvtupk f s | .cvtsr => execCvtsr f s | .bscale => execBscale f s | .shfl => execShfl f s
  | .shflv => execShflv f s | .qswap => execQswap f s | .qbcast => execQbcast f s | .vote => execVote f s
  | .scan => execScan f s | .red => execRed f s | .laneMatch => execLaneMatch f s | .ddx => execDdx f s
  | .ddy => execDdy f s | .rdlane => execRdlane f s | .wrlane => execWrlane f s | .emitm => execEmitm f s
  | .mout => execMout f s | .pout => execPout f s | .mend => execMend f s | .visq => execVisq f s
  | .hzq => execHzq f s | .pixout => execPixout f s | .pixdisc => execPixdisc s | .sample => execSample f s
  | .sampleg => execSampleg f s | .tld => execTld f s | .imgst => execImgst f s | .rayq => execRayq f s
  | .rayw => execRayw f s | .rayacc => execRayacc s | .raycont => execRaycont s | .rayterm => execRayterm s
  | .repack => execRepack f s

/-- REP_REPEAT (04 R113): the repeat that the split's index names. -/
def execRepRepeat (s : State) : Out :=
  match s.cur.aux, s.issuing with
  | some { rep := some r, op := op, f := f }, some (_, sp) =>
    let g := stepFields r op f sp.rep.toNat
    runF op g ({ s with cur := { s.cur with aux := some { rep := some r, op := op, f := g } } }.captureRep)
  | _, _ => .next s

/-- UNASSIGNED_OPC_ISSUE (02 R28): a word that decodes to no instruction, or whose fetch fails its checks, stops its wave or service
core when it would issue. -/
def execUnassignedOpcIssue (s : State) : Out := .next (
  match s.arg with
  | .fetchFault cause addr level malformed entry =>
    s.stopWith { cause := cause, kind := .fetch, addr := addr, level := level, malformed := malformed, entry := entry }
  | _ => s)

end Sys2Proof.Machine
end

