-- ==== Sys2Proof/Machine/Dispatch.lean ====
section
/-! DEFINITION. The dispatch: one arm for each constructor of `Instr`, each one call of that instruction's meaning. -/

namespace Sys2Proof.Machine

/-- What an instruction of the opcode map, or an event of the device's units, does to the state. -/
def exec (i : Instr) (s : State) : Host.Outcome State Fault Refusal :=
  match i with
  | .pair h0 h1 => Sys2Proof.Machine.execPair h0 h1 s
  | .smov a => Sys2Proof.Machine.execSmov a s
  | .smovi a => Sys2Proof.Machine.execSmovi a s
  | .smovhi a => Sys2Proof.Machine.execSmovhi a s
  | .siadd a => Sys2Proof.Machine.execSiadd a s
  | .siaddi a => Sys2Proof.Machine.execSiaddi a s
  | .sisub a => Sys2Proof.Machine.execSisub a s
  | .simul a => Sys2Proof.Machine.execSimul a s
  | .simulhi a => Sys2Proof.Machine.execSimulhi a s
  | .simulhn a => Sys2Proof.Machine.execSimulhn a s
  | .sand a => Sys2Proof.Machine.execSand a s
  | .sor a => Sys2Proof.Machine.execSor a s
  | .sxor a => Sys2Proof.Machine.execSxor a s
  | .sandi a => Sys2Proof.Machine.execSandi a s
  | .sori a => Sys2Proof.Machine.execSori a s
  | .sxori a => Sys2Proof.Machine.execSxori a s
  | .sshl a => Sys2Proof.Machine.execSshl a s
  | .sshr a => Sys2Proof.Machine.execSshr a s
  | .ssra a => Sys2Proof.Machine.execSsra a s
  | .sshli a => Sys2Proof.Machine.execSshli a s
  | .sshri a => Sys2Proof.Machine.execSshri a s
  | .ssrai a => Sys2Proof.Machine.execSsrai a s
  | .scmp a => Sys2Proof.Machine.execScmp a s
  | .scmpi a => Sys2Proof.Machine.execScmpi a s
  | .ssel a => Sys2Proof.Machine.execSsel a s
  | .smin a => Sys2Proof.Machine.execSmin a s
  | .smax a => Sys2Proof.Machine.execSmax a s
  | .sminn a => Sys2Proof.Machine.execSminn a s
  | .smaxn a => Sys2Proof.Machine.execSmaxn a s
  | .spopc a => Sys2Proof.Machine.execSpopc a s
  | .sclz a => Sys2Proof.Machine.execSclz a s
  | .sffs a => Sys2Proof.Machine.execSffs a s
  | .siadd64 a => Sys2Proof.Machine.execSiadd64 a s
  | .sisub64 a => Sys2Proof.Machine.execSisub64 a s
  | .smov64 a => Sys2Proof.Machine.execSmov64 a s
  | .sshl64 a => Sys2Proof.Machine.execSshl64 a s
  | .sshr64 a => Sys2Proof.Machine.execSshr64 a s
  | .smrd a => Sys2Proof.Machine.execSmrd a s
  | .smwr a => Sys2Proof.Machine.execSmwr a s
  | .srd a => Sys2Proof.Machine.execSrd a s
  | .swr a => Sys2Proof.Machine.execSwr a s
  | .sfree a => Sys2Proof.Machine.execSfree a s
  | .vfree f => Sys2Proof.Machine.execVfree f s
  | .bra c => Sys2Proof.Machine.execBra c s
  | .brs c => Sys2Proof.Machine.execBrs c s
  | .brc c => Sys2Proof.Machine.execBrc c s
  | .brm c mwbs => Sys2Proof.Machine.execBrm c mwbs s
  | .call c => Sys2Proof.Machine.execCall c s
  | .calli c => Sys2Proof.Machine.execCalli c s
  | .ret c => Sys2Proof.Machine.execRet c s
  | .fuse c => Sys2Proof.Machine.execFuse c s
  | .loop c => Sys2Proof.Machine.execLoop c s
  | .loopx c => Sys2Proof.Machine.execLoopx c s
  | .sigchk c => Sys2Proof.Machine.execSigchk c s
  | .trap c => Sys2Proof.Machine.execTrap c s
  | .csrrd a => Sys2Proof.Machine.execCsrrd a s
  | .csrwr a => Sys2Proof.Machine.execCsrwr a s
  | .csrset a => Sys2Proof.Machine.execCsrset a s
  | .csrclr a => Sys2Proof.Machine.execCsrclr a s
  | .wfe a => Sys2Proof.Machine.execWfe a s
  | .iadd f => Sys2Proof.Machine.execIadd f s
  | .isub f => Sys2Proof.Machine.execIsub f s
  | .imul f => Sys2Proof.Machine.execImul f s
  | .imulhi f => Sys2Proof.Machine.execImulhi f s
  | .imulhn f => Sys2Proof.Machine.execImulhn f s
  | .imad f => Sys2Proof.Machine.execImad f s
  | .imadwi f => Sys2Proof.Machine.execImadwi f s
  | .imadwn f => Sys2Proof.Machine.execImadwn f s
  | .iadd64 f => Sys2Proof.Machine.execIadd64 f s
  | .isub64 f => Sys2Proof.Machine.execIsub64 f s
  | .imin f => Sys2Proof.Machine.execImin f s
  | .imax f => Sys2Proof.Machine.execImax f s
  | .iminn f => Sys2Proof.Machine.execIminn f s
  | .imaxn f => Sys2Proof.Machine.execImaxn f s
  | .iabs f => Sys2Proof.Machine.execIabs f s
  | .ineg f => Sys2Proof.Machine.execIneg f s
  | .iaddsat f => Sys2Proof.Machine.execIaddsat f s
  | .iaddsatn f => Sys2Proof.Machine.execIaddsatn f s
  | .isubsat f => Sys2Proof.Machine.execIsubsat f s
  | .isubsatn f => Sys2Proof.Machine.execIsubsatn f s
  | .vand f => Sys2Proof.Machine.execVand f s
  | .vor f => Sys2Proof.Machine.execVor f s
  | .vxor f => Sys2Proof.Machine.execVxor f s
  | .andn f => Sys2Proof.Machine.execAndn f s
  | .shl f => Sys2Proof.Machine.execShl f s
  | .shr f => Sys2Proof.Machine.execShr f s
  | .sra f => Sys2Proof.Machine.execSra f s
  | .shl64 f => Sys2Proof.Machine.execShl64 f s
  | .shr64 f => Sys2Proof.Machine.execShr64 f s
  | .bfe f => Sys2Proof.Machine.execBfe f s
  | .bfi f => Sys2Proof.Machine.execBfi f s
  | .popc f => Sys2Proof.Machine.execPopc f s
  | .clz f => Sys2Proof.Machine.execClz f s
  | .brev f => Sys2Proof.Machine.execBrev f s
  | .icmp f => Sys2Proof.Machine.execIcmp f s
  | .sel f => Sys2Proof.Machine.execSel f s
  | .idp4 f => Sys2Proof.Machine.execIdp4 f s
  | .lea f => Sys2Proof.Machine.execLea f s
  | .mov f => Sys2Proof.Machine.execMov f s
  | .mov64 f => Sys2Proof.Machine.execMov64 f s
  | .prmt f => Sys2Proof.Machine.execPrmt f s
  | .vrds f => Sys2Proof.Machine.execVrds f s
  | .fadd f => Sys2Proof.Machine.execFadd f s
  | .fsub f => Sys2Proof.Machine.execFsub f s
  | .fmul f => Sys2Proof.Machine.execFmul f s
  | .ffma f => Sys2Proof.Machine.execFfma f s
  | .fmin f => Sys2Proof.Machine.execFmin f s
  | .fmax f => Sys2Proof.Machine.execFmax f s
  | .fabs f => Sys2Proof.Machine.execFabs f s
  | .fneg f => Sys2Proof.Machine.execFneg f s
  | .fcmp f => Sys2Proof.Machine.execFcmp f s
  | .frnd f => Sys2Proof.Machine.execFrnd f s
  | .frcp f => Sys2Proof.Machine.execFrcp f s
  | .frsq f => Sys2Proof.Machine.execFrsq f s
  | .fsqrt f => Sys2Proof.Machine.execFsqrt f s
  | .fdiv f => Sys2Proof.Machine.execFdiv f s
  | .fexp2 f => Sys2Proof.Machine.execFexp2 f s
  | .flog2 f => Sys2Proof.Machine.execFlog2 f s
  | .frred f => Sys2Proof.Machine.execFrred f s
  | .fsinr f => Sys2Proof.Machine.execFsinr f s
  | .fcosr f => Sys2Proof.Machine.execFcosr f s
  | .ftanh f => Sys2Proof.Machine.execFtanh f s
  | .fclass f => Sys2Proof.Machine.execFclass f s
  | .dadd f => Sys2Proof.Machine.execDadd f s
  | .dsub f => Sys2Proof.Machine.execDsub f s
  | .dmul f => Sys2Proof.Machine.execDmul f s
  | .dfma f => Sys2Proof.Machine.execDfma f s
  | .dmin f => Sys2Proof.Machine.execDmin f s
  | .dmax f => Sys2Proof.Machine.execDmax f s
  | .dcmp f => Sys2Proof.Machine.execDcmp f s
  | .ddiv f => Sys2Proof.Machine.execDdiv f s
  | .dsqrt f => Sys2Proof.Machine.execDsqrt f s
  | .drnd f => Sys2Proof.Machine.execDrnd f s
  | .hadd2 f => Sys2Proof.Machine.execHadd2 f s
  | .hmul2 f => Sys2Proof.Machine.execHmul2 f s
  | .hfma2 f => Sys2Proof.Machine.execHfma2 f s
  | .badd2 f => Sys2Proof.Machine.execBadd2 f s
  | .bmul2 f => Sys2Proof.Machine.execBmul2 f s
  | .bfma2 f => Sys2Proof.Machine.execBfma2 f s
  | .bmax2 f => Sys2Proof.Machine.execBmax2 f s
  | .bmin2 f => Sys2Proof.Machine.execBmin2 f s
  | .fdp2b f => Sys2Proof.Machine.execFdp2b f s
  | .fdp4q f => Sys2Proof.Machine.execFdp4q f s
  | .fdp4w f => Sys2Proof.Machine.execFdp4w f s
  | .crxf f => Sys2Proof.Machine.execCrxf f s
  | .rngh f => Sys2Proof.Machine.execRngh f s
  | .rngf f => Sys2Proof.Machine.execRngf f s
  | .cvt f => Sys2Proof.Machine.execCvt f s
  | .cvtpk f => Sys2Proof.Machine.execCvtpk f s
  | .cvtupk f => Sys2Proof.Machine.execCvtupk f s
  | .cvtsr f => Sys2Proof.Machine.execCvtsr f s
  | .bscale f => Sys2Proof.Machine.execBscale f s
  | .shfl f => Sys2Proof.Machine.execShfl f s
  | .shflv f => Sys2Proof.Machine.execShflv f s
  | .qswap f => Sys2Proof.Machine.execQswap f s
  | .qbcast f => Sys2Proof.Machine.execQbcast f s
  | .vote f => Sys2Proof.Machine.execVote f s
  | .scan f => Sys2Proof.Machine.execScan f s
  | .red f => Sys2Proof.Machine.execRed f s
  | .laneMatch f => Sys2Proof.Machine.execLaneMatch f s
  | .ddx f => Sys2Proof.Machine.execDdx f s
  | .ddy f => Sys2Proof.Machine.execDdy f s
  | .rdlane f => Sys2Proof.Machine.execRdlane f s
  | .wrlane f => Sys2Proof.Machine.execWrlane f s
  | .ldg sz a => Sys2Proof.Machine.execLdg sz a s
  | .stg sz a => Sys2Proof.Machine.execStg sz a s
  | .ldp sz a => Sys2Proof.Machine.execLdp sz a s
  | .stp sz a => Sys2Proof.Machine.execStp sz a s
  | .sld sz a => Sys2Proof.Machine.execSld sz a s
  | .sst sz a => Sys2Proof.Machine.execSst sz a s
  | .lds sz a => Sys2Proof.Machine.execLds sz a s
  | .sts sz a => Sys2Proof.Machine.execSts sz a s
  | .saadd a => Sys2Proof.Machine.execSaadd a s
  | .samin a => Sys2Proof.Machine.execSamin a s
  | .samax a => Sys2Proof.Machine.execSamax a s
  | .saand a => Sys2Proof.Machine.execSaand a s
  | .saor a => Sys2Proof.Machine.execSaor a s
  | .saxor a => Sys2Proof.Machine.execSaxor a s
  | .saxchg a => Sys2Proof.Machine.execSaxchg a s
  | .sacas a => Sys2Proof.Machine.execSacas a s
  | .aadd wide a => Sys2Proof.Machine.execAadd wide a s
  | .amin wide a => Sys2Proof.Machine.execAmin wide a s
  | .amax wide a => Sys2Proof.Machine.execAmax wide a s
  | .aminn wide a => Sys2Proof.Machine.execAminn wide a s
  | .amaxn wide a => Sys2Proof.Machine.execAmaxn wide a s
  | .aand wide a => Sys2Proof.Machine.execAand wide a s
  | .aor wide a => Sys2Proof.Machine.execAor wide a s
  | .axor wide a => Sys2Proof.Machine.execAxor wide a s
  | .axchg wide a => Sys2Proof.Machine.execAxchg wide a s
  | .acas wide a => Sys2Proof.Machine.execAcas wide a s
  | .afadd wide a => Sys2Proof.Machine.execAfadd wide a s
  | .afadd2b a => Sys2Proof.Machine.execAfadd2b a s
  | .fence a => Sys2Proof.Machine.execFence a s
  | .pref a => Sys2Proof.Machine.execPref a s
  | .mmaE4m3 x => Sys2Proof.Machine.execMmaE4m3 x s
  | .mmaE5m2 x => Sys2Proof.Machine.execMmaE5m2 x s
  | .mmaMix x => Sys2Proof.Machine.execMmaMix x s
  | .mmaBf16 x => Sys2Proof.Machine.execMmaBf16 x s
  | .mmaF16 x => Sys2Proof.Machine.execMmaF16 x s
  | .mmaE2m1s x => Sys2Proof.Machine.execMmaE2m1s x s
  | .mmaE4m3s x => Sys2Proof.Machine.execMmaE4m3s x s
  | .mmaI8 x => Sys2Proof.Machine.execMmaI8 x s
  | .accld x => Sys2Proof.Machine.execAccld x s
  | .accst x => Sys2Proof.Machine.execAccst x s
  | .accz x => Sys2Proof.Machine.execAccz x s
  | .acccvt x => Sys2Proof.Machine.execAcccvt x s
  | .mwait x => Sys2Proof.Machine.execMwait x s
  | .cpy a => Sys2Proof.Machine.execCpy a s
  | .cpyt a => Sys2Proof.Machine.execCpyt a s
  | .cpym a => Sys2Proof.Machine.execCpym a s
  | .cpyg a => Sys2Proof.Machine.execCpyg a s
  | .cpys a => Sys2Proof.Machine.execCpys a s
  | .cpymma a => Sys2Proof.Machine.execCpymma a s
  | .cwait a => Sys2Proof.Machine.execCwait a s
  | .cblk a => Sys2Proof.Machine.execCblk a s
  | .binit a => Sys2Proof.Machine.execBinit a s
  | .barr a => Sys2Proof.Machine.execBarr a s
  | .bwait a => Sys2Proof.Machine.execBwait a s
  | .bsync a => Sys2Proof.Machine.execBsync a s
  | .bquery a => Sys2Proof.Machine.execBquery a s
  | .spawn a => Sys2Proof.Machine.execSpawn a s
  | .dqpush a => Sys2Proof.Machine.execDqpush a s
  | .dqpop a => Sys2Proof.Machine.execDqpop a s
  | .dqsteal a => Sys2Proof.Machine.execDqsteal a s
  | .dqsize a => Sys2Proof.Machine.execDqsize a s
  | .launch a => Sys2Proof.Machine.execLaunch a s
  | .flowreq a => Sys2Proof.Machine.execFlowreq a s
  | .iclk a => Sys2Proof.Machine.execIclk a s
  | .icunlk a => Sys2Proof.Machine.execIcunlk a s
  | .dgrd a => Sys2Proof.Machine.execDgrd a s
  | .emitm f => Sys2Proof.Machine.execEmitm f s
  | .mout f => Sys2Proof.Machine.execMout f s
  | .pout f => Sys2Proof.Machine.execPout f s
  | .mend f => Sys2Proof.Machine.execMend f s
  | .visq f => Sys2Proof.Machine.execVisq f s
  | .hzq f => Sys2Proof.Machine.execHzq f s
  | .pixout f => Sys2Proof.Machine.execPixout f s
  | .sample f => Sys2Proof.Machine.execSample f s
  | .sampleg f => Sys2Proof.Machine.execSampleg f s
  | .tld f => Sys2Proof.Machine.execTld f s
  | .imgst f => Sys2Proof.Machine.execImgst f s
  | .rayq f => Sys2Proof.Machine.execRayq f s
  | .rayw f => Sys2Proof.Machine.execRayw f s
  | .repack f => Sys2Proof.Machine.execRepack f s
  | .nop => Sys2Proof.Machine.execNop s
  | .repRepeat => Sys2Proof.Machine.execRepRepeat s
  | .exit => Sys2Proof.Machine.execExit s
  | .yield => Sys2Proof.Machine.execYield s
  | .sigrst => Sys2Proof.Machine.execSigrst s
  | .bkpt => Sys2Proof.Machine.execBkpt s
  | .evret => Sys2Proof.Machine.execEvret s
  | .fenceOr => Sys2Proof.Machine.execFenceOr s
  | .rfence => Sys2Proof.Machine.execRfence s
  | .cbatch => Sys2Proof.Machine.execCbatch s
  | .flowrel => Sys2Proof.Machine.execFlowrel s
  | .pixdisc => Sys2Proof.Machine.execPixdisc s
  | .rayacc => Sys2Proof.Machine.execRayacc s
  | .raycont => Sys2Proof.Machine.execRaycont s
  | .rayterm => Sys2Proof.Machine.execRayterm s
  | .splitArrive => Sys2Proof.Machine.execSplitArrive s
  | .fuseTimerExpiry => Sys2Proof.Machine.execFuseTimerExpiry s
  | .rejoinTimerExpiry => Sys2Proof.Machine.execRejoinTimerExpiry s
  | .yieldExpiry => Sys2Proof.Machine.execYieldExpiry s
  | .issuePromotion => Sys2Proof.Machine.execIssuePromotion s
  | .pageWalkComplete => Sys2Proof.Machine.execPageWalkComplete s
  | .memoryAccessPerform => Sys2Proof.Machine.execMemoryAccessPerform s
  | .loadDataReturn => Sys2Proof.Machine.execLoadDataReturn s
  | .stopReport => Sys2Proof.Machine.execStopReport s
  | .waveEnd => Sys2Proof.Machine.execWaveEnd s
  | .launchMsg => Sys2Proof.Machine.execLaunchMsg s
  | .waitWordRead => Sys2Proof.Machine.execWaitWordRead s
  | .placeGroup => Sys2Proof.Machine.execPlaceGroup s
  | .leaseTake => Sys2Proof.Machine.execLeaseTake s
  | .taskTake => Sys2Proof.Machine.execTaskTake s
  | .launchComplete => Sys2Proof.Machine.execLaunchComplete s
  | .discardGo => Sys2Proof.Machine.execDiscardGo s
  | .wcmdResume => Sys2Proof.Machine.execWcmdResume s
  | .wcmdStep => Sys2Proof.Machine.execWcmdStep s
  | .debugStepStop => Sys2Proof.Machine.execDebugStepStop s
  | .wcmdKill => Sys2Proof.Machine.execWcmdKill s
  | .wcmdHalt => Sys2Proof.Machine.execWcmdHalt s
  | .wdataloRead => Sys2Proof.Machine.execWdataloRead s
  | .wdataloWrite => Sys2Proof.Machine.execWdataloWrite s
  | .copyCommandStart => Sys2Proof.Machine.execCopyCommandStart s
  | .copyChunk => Sys2Proof.Machine.execCopyChunk s
  | .tensorRecordArrive => Sys2Proof.Machine.execTensorRecordArrive s
  | .copyCommandComplete => Sys2Proof.Machine.execCopyCommandComplete s
  | .chainCopy => Sys2Proof.Machine.execChainCopy s
  | .chainTcopy => Sys2Proof.Machine.execChainTcopy s
  | .chainMcast => Sys2Proof.Machine.execChainMcast s
  | .chainMmac => Sys2Proof.Machine.execChainMmac s
  | .semwait => Sys2Proof.Machine.execSemwait s
  | .semwaitRetry => Sys2Proof.Machine.execSemwaitRetry s
  | .semsig => Sys2Proof.Machine.execSemsig s
  | .bararr => Sys2Proof.Machine.execBararr s
  | .reduce => Sys2Proof.Machine.execReduce s
  | .chainLink => Sys2Proof.Machine.execChainLink s
  | .chainEnd => Sys2Proof.Machine.execChainEnd s
  | .arrayOpBegin => Sys2Proof.Machine.execArrayOpBegin s
  | .arrayOpComplete => Sys2Proof.Machine.execArrayOpComplete s
  | .rayQueryUpdate => Sys2Proof.Machine.execRayQueryUpdate s
  | .meshWavePlace => Sys2Proof.Machine.execMeshWavePlace s
  | .binBlock => Sys2Proof.Machine.execBinBlock s
  | .binwaitExpiry => Sys2Proof.Machine.execBinwaitExpiry s
  | .binpassGrow => Sys2Proof.Machine.execBinpassGrow s
  | .binpassDecline => Sys2Proof.Machine.execBinpassDecline s
  | .binpassResume => Sys2Proof.Machine.execBinpassResume s
  | .finalRender => Sys2Proof.Machine.execFinalRender s
  | .tileRender => Sys2Proof.Machine.execTileRender s
  | .replayPlace => Sys2Proof.Machine.execReplayPlace s
  | .selfTestComplete => Sys2Proof.Machine.execSelfTestComplete s
  | .umpctxAbandon => Sys2Proof.Machine.execUmpctxAbandon s
  | .foulUnbench => Sys2Proof.Machine.execFoulUnbench s
  | .eccError => Sys2Proof.Machine.execEccError s
  | .l2eccReqWrite => Sys2Proof.Machine.execL2eccReqWrite s
  | .l2eccSwitchDone => Sys2Proof.Machine.execL2eccSwitchDone s
  | .vsramTargetWrite => Sys2Proof.Machine.execVsramTargetWrite s
  | .vsramStep => Sys2Proof.Machine.execVsramStep s
  | .cfuSample => Sys2Proof.Machine.execCfuSample s
  | .catWrite => Sys2Proof.Machine.execCatWrite s
  | .catCommit => Sys2Proof.Machine.execCatCommit s
  | .clockRaise => Sys2Proof.Machine.execClockRaise s
  | .powerMeasure => Sys2Proof.Machine.execPowerMeasure s
  | .evacE2 => Sys2Proof.Machine.execEvacE2 s
  | .evacE3 => Sys2Proof.Machine.execEvacE3 s
  | .evacE4 => Sys2Proof.Machine.execEvacE4 s
  | .cpcQreqSet => Sys2Proof.Machine.execCpcQreqSet s
  | .cpcDrainmode => Sys2Proof.Machine.execCpcDrainmode s
  | .cpcQack => Sys2Proof.Machine.execCpcQack s
  | .cpcRetsave => Sys2Proof.Machine.execCpcRetsave s
  | .cpcRetdone => Sys2Proof.Machine.execCpcRetdone s
  | .cpcClkgateSet => Sys2Proof.Machine.execCpcClkgateSet s
  | .cpcRailoff => Sys2Proof.Machine.execCpcRailoff s
  | .cpcWake => Sys2Proof.Machine.execCpcWake s
  | .cpcClkgateClear => Sys2Proof.Machine.execCpcClkgateClear s
  | .cpcRetload => Sys2Proof.Machine.execCpcRetload s
  | .cpcRetloaded => Sys2Proof.Machine.execCpcRetloaded s
  | .cpcQreqClear => Sys2Proof.Machine.execCpcQreqClear s
  | .scEventTake => Sys2Proof.Machine.execScEventTake s
  | .wfeTimeout => Sys2Proof.Machine.execWfeTimeout s
  | .evpendClear => Sys2Proof.Machine.execEvpendClear s
  | .scRestart => Sys2Proof.Machine.execScRestart s
  | .scInstall => Sys2Proof.Machine.execScInstall s
  | .scInstallComplete => Sys2Proof.Machine.execScInstallComplete s
  | .memrd => Sys2Proof.Machine.execMemrd s
  | .memwr => Sys2Proof.Machine.execMemwr s
  | .memrsp => Sys2Proof.Machine.execMemrsp s
  | .atomicMsg => Sys2Proof.Machine.execAtomicMsg s
  | .csrrdMsg => Sys2Proof.Machine.execCsrrdMsg s
  | .csrwrMsg => Sys2Proof.Machine.execCsrwrMsg s
  | .resumeMsg => Sys2Proof.Machine.execResumeMsg s
  | .killctx => Sys2Proof.Machine.execKillctx s
  | .unbenchMsg => Sys2Proof.Machine.execUnbenchMsg s
  | .attest => Sys2Proof.Machine.execAttest s
  | .stageAdvance => Sys2Proof.Machine.execStageAdvance s
  | .enableWrite => Sys2Proof.Machine.execEnableWrite s
  | .tlbinvGo => Sys2Proof.Machine.execTlbinvGo s
  | .tlbinvDone => Sys2Proof.Machine.execTlbinvDone s
  | .fusetimeWrite => Sys2Proof.Machine.execFusetimeWrite s
  | .powerOnReset => Sys2Proof.Machine.execPowerOnReset s
  | .registerWrite => Sys2Proof.Machine.execRegisterWrite s
  | .unassignedOpcIssue => Sys2Proof.Machine.execUnassignedOpcIssue s
  | .linkCreditReturn => Sys2Proof.Machine.execLinkCreditReturn s
  | .stageSelfTestDone => Sys2Proof.Machine.execStageSelfTestDone s

end Sys2Proof.Machine
end

