-- ==== Sys2Proof/Machine/Fetch.lean ====
section
/-! DEFINITION. Instruction fetch (02 R25, R27, R28; 14 R315, R316, R323; 16 R367), and the issue of one instruction: breakpoints,
decoding, the signature (15 R343), the undo log (14 R320–R322), dispatch counts (13 R285, R286). -/

namespace Sys2Proof.Machine

/-! ## Fetch -/

/-- What the fetch of an instruction's words gives: the words, a fault, or a wait for a window of another device. -/
inductive Fetched where
  | words (l : List Dword)
  | fault (i : FaultInfo)
  | wait
  deriving DecidableEq, Repr

/-- The code segments that hold the word at an address (02 R27, 14 R323). -/
def segmentsWith (segs : List (Nat × Nat × Nat)) (a : Nat) : List (Nat × Nat × Nat) :=
  segs.filter (fun x => x.1 ≤ a && a + 8 ≤ x.1 + x.2.1)

/-- A fault of a fetch. -/
def fetchFault (c : StopCause) (a : Dword) : FaultInfo := { cause := c, kind := .fetch, addr := a }

/-- The code segments of a wave's launch. -/
def State.codeOf (s : State) (w : Wave) : List (Nat × Nat × Nat) := ((s.launchOf w.group).bind (fun l => l.segments)).getD []

/-- A word of module memory that a split fetches at a core that holds `held` of it: one of these, or what memory holds now, unless the line is
locked (10 R216; 14 R324; log 11). Where the core holds none, the words of the line that lie in code segments come in. -/
def State.fetchMemory (s : State) (core : Nat) (w : Wave) (a pa : Nat) (held : List Dword) : Dword × State :=
  let now := s.dwordAt pa
  let keep := fun (s : State) (ws : List (Nat × Dword)) => s.onCore core (fun c => c.keepWords w.ctx (a / 128) ws)
  match held with
  | [] => (now, keep s (s.lineWords (s.codeOf w) (a / 128) (pa - a % 128)))
  | v :: vs =>
    if (s.core core).locked.contains (w.ctx, a / 128) ∧ vs = [] ∨ (vs = [] ∧ v = now) then (v, keep s [(a / 8 % 16, v)])
    else
      let l := if (s.core core).locked.contains (w.ctx, a / 128) then held else now :: held
      let (n, s) := s.freeChoice
      let x := l.getD (n % l.length) now
      (x, keep s (((held.filter (fun y => decide (y ≠ x))).map (fun y => (a / 8 % 16, y))) ++ [(a / 8 % 16, x)]))

/-- Fetches one 8-byte word, with the checks of 14 R323. One in a window of another device is asked for; one whose walk finds no walker waits
(09 R201). -/
def State.fetchWord (s : State) (core wave split : Nat) (w : Wave) (a : Dword) : Fetched × State :=
  if !s.mayTranslate core w.ctx a.toNat then (.wait, s) else
  let (r, s) := s.checkFill core w.ctx a 8 .fetch { exec := true }
  match r with
  | .error i => (.fault i, s)
  | .ok (pa, _) =>
    let held := (s.core core).iwords w.ctx a.toNat
    match windowOf pa, held with
    | some _, v :: _ => (.words [v], s)
    | some (port, off), [] =>
      if s.peerReqs.any (fun q => q.core = core && q.wave = wave && q.split = some split && q.op = 1) then (.wait, s)
      else (.wait, s.ask port 0x02 w.ctx (memArgs off 8) []
        { core := core, wave := wave, split := some split, op := 1, order := w.order, va := a })
    | none, held =>
      let (x, s) := s.fetchMemory core w a.toNat pa held
      (.words [x], s)

/-- A prefetch for a split: the line of an address within its code segment comes into the L1 instruction cache, unless its page is NP or DEV; it
raises no stop (14 R323). -/
def State.prefetch (s : State) (core wave split a : Nat) : State :=
  match (s.wave core wave).bind (fun w => (w.split split).map (fun sp => (w, sp))) with
  | none => s
  | some (w, sp) =>
    let inside := (segmentsWith (s.codeOf w) sp.pc.toNat).filter (fun x => x.1 ≤ a && a + 8 ≤ x.1 + x.2.1)
    if inside = [] ∨ s.mayTranslate core w.ctx a = false then s
    else match s.checkFill core w.ctx (BitVec.ofNat 64 (a / 8 * 8)) 8 .fetch { exec := true } with
      | (.ok (pa, e), t) =>
        if e.np || e.dev || decide (placeOf pa ≠ .memory) then s
        else t.onCore core (fun c => c.keepWords w.ctx (a / 128) (t.lineWords inside (a / 128) (pa / 128 * 128)))
      | (.error _, _) => s

/-- Fetches an instruction's words from an address on: prefixes, at most four, and the word after them, all within one code segment
(02 R27). -/
def State.fetchFrom (s : State) (core wave split : Nat) (w : Wave) (segs : List (Nat × Nat × Nat)) : Nat → Dword → Fetched × State
  | 0, _ => (.words [], s)
  | n + 1, a =>
    let segs := segmentsWith segs a.toNat
    if segs = [] then (.fault (fetchFault .fetchSegment a), s)
    else match s.fetchWord core wave split w a with
      | (.words l, s) =>
        if frameOf (l.headD 0) = 2 then
          match State.fetchFrom s core wave split w segs n (a + 8) with
          | (.words m, s) => (.words (l ++ m), s)
          | r => r
        else (.words l, s)
      | r => r

/-- Fetches the instruction at a split's PC. -/
def State.fetchSplit (s : State) (core wave split : Nat) (w : Wave) (pc : Dword) : Fetched × State :=
  if pc.toNat % 8 ≠ 0 then (.fault (fetchFault .misaligned pc), s)
  else s.fetchFrom core wave split w (s.codeOf w) 5 pc

/-- Fetches an instruction from a service core's SRAM (16 R367). -/
def SvcCore.fetchFrom (c : SvcCore) : Nat → Nat → Fetched
  | 0, _ => .words []
  | n + 1, a =>
    if 262144 < a + 8 then .fault (fetchFault .fetchSegment (BitVec.ofNat 64 a))
    else
      let v : Dword := BitVec.ofNat 64 (leNat ((List.range 8).map (fun k => Table.get memDefault c.sram (a + k))))
      if frameOf v = 2 then
        match SvcCore.fetchFrom c n (a + 8) with
        | .words m => .words (v :: m)
        | r => r
      else .words [v]

/-- Fetches the instruction at a service core's PC. -/
def SvcCore.fetchPc (c : SvcCore) : Fetched :=
  if c.pc.toNat % 8 ≠ 0 then .fault (fetchFault .misaligned c.pc) else c.fetchFrom 5 c.pc.toNat

/-! ## Before issue -/

/-- The execute breakpoints of a context that an instruction's address matches (14 R315, R316). -/
def State.execBreaks (s : State) (w : Wave) (sp : Split) (pc : Dword) : List Nat :=
  if !w.debug || sp.skipBp then []
  else (List.range 4).filter (fun b =>
    let base := 0x4000 + 0x40 * w.ctx + 0x10 * b
    let ctl := s.csrAt 4 (base + 8)
    let addr := (s.csrAt 4 base).toNat + 2 ^ 32 * field (s.csrAt 4 (base + 4)) 23 0
    ctl.getLsbD 31 && field ctl 1 0 = 0 && pc.toNat / 2 ^ field ctl 12 8 = addr / 2 ^ field ctl 12 8)

/-- The opcode by which the stage and the features judge an instruction (19 R415, R416). -/
def opcOfWords (ws : List Dword) : Nat :=
  let last := ws.getLastD 0
  if frameOf last = 1 then 0x080 else opcOf last

/-- What issues at a split: its instruction with the operands beside it, or the event of a word that decodes to none (02 R28). -/
def issueChoice (svc : Bool) (offered : Nat → Bool) (pc : Dword) : Fetched → Instr × EventArgs × Option Aux × List Dword
  | .words ws => match decodeOn svc ws with
    | .ok (d, n) =>
      if offered (opcOfWords (ws.take n)) then (d.instr, .none, d.aux, ws.take n)
      else (.unassignedOpcIssue, .fetchFault .privilege pc 7 false 0, none, ws.take n)
    | .error c => (.unassignedOpcIssue, .fetchFault c pc 7 false 0, none, ws)
  | .fault i => (.unassignedOpcIssue, .fetchFault i.cause i.addr i.level i.malformed i.entry, none, [])
  | .wait => (.nop, .none, none, [])

/-- Whether a split may issue at all (04 R94; 13 R287; 14 R300, R305, R319; 15 R330; 16 R358): its wave runs and is not held back, and it neither waits
at a rejoin nor has yielded. One that waits at a forced fuse point or on a barrier tests its condition again (04 R99; 08 R189). -/
def State.mayIssue (s : State) (core : Nat) (w : Wave) (k : Nat) (sp : Split) : Bool :=
  decide (w.run = .running) && s.clocked core && !w.replaying &&
    !((s.group w.group).map (fun g => g.sampled && !g.leased)).getD false &&
    (sp.state = 0 || (sp.state = 1 && sp.waitsAt) || sp.state = 2) && !sp.yld && w.liveOf sp ≠ 0 && !(sp.atRejoin && (w.record sp.tag).isSome) &&
    (match w.stepping with
      | none => true
      | some a => !w.stepped && (a = 7 || a.toNat = k))

/-! ## The undo log (14 R320–R322) -/

/-- An entry of the undo log. -/
structure LogEntry where
  kind : Nat
  unit : Nat := 0
  number : Nat := 0
  addr : Dword := 0
  old : Quad := 0
  mask : Dword := 0
  last : Dword := 0
  deriving DecidableEq, Repr

/-- The 48 bytes of an entry. -/
def LogEntry.bytes (e : LogEntry) (count : Word) : List Byte :=
  [BitVec.ofNat 8 e.kind, BitVec.ofNat 8 e.unit] ++ leBytes 2 e.number ++ leBytes 4 count.toNat ++ leBytes 8 e.addr.toNat ++
    leBytes 16 e.old.toNat ++ leBytes 8 e.mask.toNat ++ leBytes 8 e.last.toNat

/-- Writes eight bytes of an entry at a physical address: in memory, in a CSR window, or in another device's window, which answers to nothing
here. -/
def State.logPut (s : State) (core wave ctx pa : Nat) (bs : List Byte) : State :=
  match placeOf pa, windowOf pa with
  | .memory, _ => s.writeHome (.lane core wave) [core] pa bs
  | .csr space a, _ =>
    if ctx ≠ 0 then s else [0, 4].foldl (fun s j => s.csrWrite .wave space (a + j) (BitVec.ofNat 32 (leNat ((bs.drop j).take 4)))) s
  | _, some (port, off) => s.ask port 0x03 ctx (memArgs off 8) bs { core := 70 }
  | _, none => s

/-- Writes one entry of a wave's ring, or drops it when a check fails. -/
def State.logWrite (s : State) (core wave : Nat) (e : LogEntry) : State :=
  match s.wave core wave with
  | none => s
  | some w =>
    let ctl := 0x5000 + 0x10 * w.ctx
    let n := 2 ^ field (s.csrAt 4 (ctl + 8)) 4 0
    let base := (s.csrAt 4 ctl).toNat + 2 ^ 32 * (s.csrAt 4 (ctl + 4)).toNat
    let at_ := base + (core * 512 + wave) * 48 * n + 48 * (w.loghead.toNat % n)
    let places : Option (List Nat) := (List.range 6).mapM (fun k =>
      match s.hubCheck w.ctx (BitVec.ofNat 64 (at_ + 8 * k)) 8 { write := true, plain := true } with
      | .ok (pa, _) => some pa
      | .error _ => none)
    match places with
    | none => (s.onCsr 4 (ctl + 0xC) (· + 1)).onWave core wave (fun w => { w with loglost := true })
    | some l =>
      let bs := e.bytes w.issued
      (l.zipIdx.foldl (fun s x => s.logPut core wave w.ctx x.1 ((bs.drop (8 * x.2)).take 8)) s).onWave core wave
        (fun w => { w with loghead := w.loghead + 1 })

/-- The vector registers' quads that the operations an instruction has issued will write, as 16 × register + quad, with their lanes. -/
def freshQuads (ops : List MemOp) : List (Nat × Dword) :=
  ops.flatMap (fun o => match o.dst with
    | .vec d n => (regs d n).flatMap (fun r => (quadsOf o.run).map (fun q => (16 * r + q, o.run)))
    | _ => [])

/-- The scalars that the operations an instruction has issued will write. -/
def freshScalars (ops : List MemOp) : List Nat :=
  ops.flatMap (fun o => match o.dst with
    | .scal d n => regs d n
    | _ => [])

/-- The keys at which two tables differ. -/
def changedKeys {α : Type} [DecidableEq α] (d : Nat → α) (a b : Table α) : List Nat :=
  if a = b then [] else
    (((a.map (fun e => e.1)) ++ (b.map (fun e => e.1))).filter (fun k => decide (Table.get d a k ≠ Table.get d b k))).eraseDups

/-- The F word that an instruction is: of a REP, the repeat at the split's index. -/
def fWordOf (i : Instr) (aux : Option Aux) (sp : Split) : Option (FOp × FArgs) :=
  match aux with
  | some { rep := some r, op := op, f := f } => some (op, stepFields r op f sp.rep.toNat)
  | _ => i.asF

/-- The lanes in which an instruction writes the registers it names: those that run, for an F word; the live ones, for a CALL or a PAIR. Loads
write through their operations, and the results of rays and of the array are not logged. -/
def writingLanes (i : Instr) (aux : Option Aux) (a : Wave) (sp : Split) : Dword :=
  match fWordOf i aux sp, i with
  | some (.rayq, _), _ | some (.rayw, _), _ => 0
  | some (_, f), _ => a.runOf sp f.g
  | none, .call _ | none, .calli _ | none, .pair _ _ => a.liveOf sp
  | none, _ => 0

/-- The mask that an instruction writes; 0 for none. -/
def maskWritten (i : Instr) (aux : Option Aux) (sp : Split) : Nat :=
  match fWordOf i aux sp, i with
  | some (.shfl, f), _ => f.dist % 8
  | some (op, f), _ => if op.maskDest then f.d.toNat % 8 else 0
  | none, .smwr x => x.imm.toNat % 8
  | none, _ => 0

/-- The special register that an SWR writes. -/
def specialWritten (i : Instr) : Option Nat :=
  match i with
  | .swr x => some x.imm.toNat
  | _ => none

/-- What the instruction of split k named, if it issued after wave `a`. -/
def Wave.namedSince (b a : Wave) (k : Nat) : Named :=
  if b.named.count = a.issued ∧ b.named.split = k then b.named else {}

/-- The vector entries of an instruction: each quad-register that it wrote or whose binding it changed, or that an operation of it will
write. -/
def vectorEntries (i : Instr) (aux : Option Aux) (k : Nat) (sp : Split) (a b : Wave) : List LogEntry :=
  let lanes := writingLanes i aux a sp
  let fresh := freshQuads (b.ops.drop a.ops.length) ++
    (b.namedSince a k).vw.flatMap (fun r => (quadsOf lanes).map (fun q => (16 * r + q, lanes)))
  let keys : List Nat := ((changedKeys zeroWord a.vregs b.vregs).map (fun k => k / 4) ++ changedKeys falseAt a.vbound b.vbound ++
    fresh.map Prod.fst).eraseDups
  keys.map (fun k =>
    let r := k / 16
    let q := k % 16
    let lane := fun (i : Nat) => 4 * q + i
    let wrote := fun (i : Nat) => a.v r (lane i) ≠ b.v r (lane i) ||
      fresh.any (fun x => x.1 = k && x.2.getLsbD (lane i))
    { kind := 1, unit := q, number := r, old := quadOfWords ((List.range 4).map (fun i => a.v r (lane i))),
      mask := BitVec.ofNat 64 (((List.range 4).map (fun i => if wrote i then 2 ^ i else 0)).sum + (if a.bound r q then 16 else 0)) })

/-- The scalar entries. -/
def scalarEntries (k : Nat) (a b : Wave) : List LogEntry :=
  let keys := (changedKeys zeroWord a.sregs b.sregs ++ changedKeys falseAt a.sbound b.sbound ++
    freshScalars (b.ops.drop a.ops.length) ++ (b.namedSince a k).sw).eraseDups
  keys.map (fun n => { kind := 2, number := n, old := (a.s n).setWidth 128, mask := if a.sboundAt n then 1 else 0 })

/-- The entry of a split's change. -/
def splitEntry (k : Nat) (x : Split) : LogEntry :=
  { kind := 5, unit := k, addr := x.pc, old := BitVec.ofNat 128 (x.lanes.toNat + 2 ^ 64 * x.depth.toNat + 2 ^ 80 * x.tag) }

/-- An entry of a special register (05 R133). -/
def specialEntry (k number old : Nat) : LogEntry :=
  { kind := 3, unit := k, number := 0x100 + number, old := BitVec.ofNat 128 old }

/-- The entries of masks, special registers and splits, of which k issued and `mask` was written. -/
def splitEntries (i : Instr) (mask : Nat) (k : Nat) (a b : Wave) : List LogEntry :=
  let zero : Nat → Dword := fun _ => 0
  let wrote := fun (n : Nat) => decide (specialWritten i = some n)
  (List.range 4).flatMap (fun j => match a.split j, b.split j with
    | some x, some y =>
      ((List.range 8).filter (fun m => Table.get zero x.masks m ≠ Table.get zero y.masks m || (j = k && m ≠ 0 && m = mask))).map
        (fun m => { kind := 3, unit := j, number := m, old := (Table.get zero x.masks m).setWidth 128 }) ++
      (if x.frm ≠ y.frm || (j = k && wrote 0x13) then [specialEntry j 0x13 x.frm.toNat] else []) ++
      (if x.lanes ≠ y.lanes ∨ x.depth ≠ y.depth ∨ x.tag ≠ y.tag then [splitEntry j x] else [])
    | some x, none => [splitEntry j x]
    | none, some _ => [{ kind := 5, unit := j }]
    | none, none => []) ++
  (if a.prio ≠ b.prio || wrote 0x1A then [specialEntry k 0x1A a.prio] else []) ++
  (if a.batch ≠ b.batch then [specialEntry k 0x21 a.batch.toNat] else []) ++
  (if a.mticket ≠ b.mticket then [specialEntry k 0x23 a.mticket.toNat] else [])

/-- The entry of one 16-byte unit with its old bytes, of which some are written. -/
def memoryEntry (unit : Nat) (old : BitVec 128) (bytes : List Nat) : LogEntry :=
  { kind := 4, addr := BitVec.ofNat 64 (16 * unit), old := old,
    mask := BitVec.ofNat 64 (((List.range 16).map (fun j => if bytes.contains (16 * unit + j) then 2 ^ j else 0)).sum) }

/-- The memory entries of the operations that an instruction has issued: the old bytes of each 16-byte unit they will write, in memory as the
core sees it, or in scratchpad, by scratchpad address. What stands in a window of another device or a CSR is a free value (log 75). -/
def State.memoryEntries (s : State) (core wave : Nat) (a b : Wave) : List LogEntry :=
  let ops := (b.ops.drop a.ops.length).filter (fun o => o.writes && !o.isAsync)
  let bytes := fun (l : List MemOp) => l.flatMap (fun o =>
    (lanesOf o.run).flatMap (fun i => (s.partAddrs core wave b o i).flatMap (fun p =>
      (List.range p.2.1).map (fun j => p.2.2.toNat + j))))
  let far := bytes (ops.filter (fun o => o.space ≠ .scratch))
  let near := bytes (ops.filter (fun o => decide (o.space = .scratch)))
  ((far.map (· / 16)).eraseDups).zipIdx.filterMap (fun (u, n) =>
    let w := s.resolve core b.ctx (16 * u)
    if w.cause.isSome then none
    else
      let pa := w.page.pbase + (16 * u - w.page.vbase)
      let old := if placeOf pa = .memory then BitVec.ofNat 128 (leNat (s.coreBytes core pa 16))
        else (Config.freeDword (s.free + 2 * n)).zeroExtend 128 + (Config.freeDword (s.free + 2 * n + 1)).zeroExtend 128 <<< 64
      some (memoryEntry u old far)) ++
  ((near.map (· / 16)).eraseDups).filterMap (fun u =>
    (s.scratchPlace b.group (BitVec.ofNat 32 (16 * u)) 16).map (fun p =>
      memoryEntry u (BitVec.ofNat 128 (leNat (s.scratchBytes p.1 p.2 16))) near))

/-- Whether an instruction may be undone by its entries alone: it changed no loop stack, rejoin record, deferred path or split entry (but for a
PC), and was no repeat of a REP but the last (14 R322). -/
def simpleIssue (a b : Wave) (k : Nat) (sp : Split) (aux : Option Aux) : Bool :=
  a.records = b.records && a.paths = b.paths &&
    (List.range 4).all (fun j => (a.split j).map (fun x => (x.loops, x.lanes, x.depth, x.tag)) =
      (b.split j).map (fun x => (x.loops, x.lanes, x.depth, x.tag))) &&
    (match aux with
      | some { rep := some r, op := _, f := _ } => decide (sp.rep = r.count)
      | _ => true) && (a.split k).isSome

/-- Writes the undo log of an instruction that a wave of a DEBUG launch has issued: `a` is the wave before, `s` the state before its
entries (14 R321). -/
def State.writeLog (s : State) (core wave k : Nat) (i : Instr) (a : Wave) (sp : Split) (aux : Option Aux) : State :=
  match s.wave core wave with
  | none => s
  | some b =>
    if !a.debug || !(s.csrAt 4 (0x5008 + 0x10 * a.ctx)).getLsbD 31 then s
    else
      let head : LogEntry := { kind := 0, unit := k, addr := sp.pc, mask := sp.lanes, last := if simpleIssue a b k sp aux then 1 else 0 }
      let memory := s.memoryEntries core wave a b
      (head :: vectorEntries i aux k sp a b ++ scalarEntries k a b ++ splitEntries i (maskWritten i aux sp) k a b ++ memory).foldl
        (fun s e => s.logWrite core wave e) { s with free := s.free + 2 * memory.length }

/-! ## After issue -/

/-- SigStep (15 R343). -/
def sigStep (sig : Word) (w : Dword) : Word := sig.rotateLeft 5 ^^^ loWord w ^^^ (hiWord w).rotateLeft 16

/-- A part of an issuing split that has moved: its signature counts the words that issued. -/
def Split.signed (ws : List Dword) (sp : Split) : Split :=
  if sp.moved then { sp with sig := ws.foldl sigStep sp.sig, moved := false } else sp

/-- Whether an instruction of a wave has issued: it moved some part of its split, or lanes executed EXIT. -/
def Wave.issuedSince (b a : Wave) : Bool :=
  b.live4.any (fun x => x.2.moved) || b.paths.any (fun p => p.ctx.moved) || b.exited ≠ a.exited

/-- The state after an instruction of split k of a wave, `a` before it: dispatch counts (13 R285, R286), signatures, a step's end
(14 R319), the undo log. `ws` are the words that count in the signature. -/
def State.settleIssue (s : State) (core wave k : Nat) (i : Instr) (a : Wave) (sp : Split) (aux : Option Aux) (ws : List Dword) : State :=
  match s.wave core wave with
  | none => s
  | some b =>
    if b.order ≠ a.order || !b.issuedSince a then s
    else
      let die := dieOf core
      let s := (s.onCsr die (0xA400 + 0x10 * a.ctx) (· + 1)).onCsr die (0xA404 + 0x10 * a.ctx) (· - 1)
      let s := s.setWave core wave (some { b with
        splits := b.splits.map (fun e => (e.1, e.2.map (Split.signed ws)))
        paths := b.paths.map (fun p => { p with ctx := p.ctx.signed ws })
        issued := b.issued + 1
        stepped := b.stepping.isSome })
      s.writeLog core wave k i a sp aux

/-- The words of an instruction that count in its split's signature (15 R343): none of SIGRST and SIGCHK, and those of a REP at its
first repeat. -/
def signedWords (i : Instr) (sp : Split) (ws : List Dword) : List Dword :=
  match i with
  | .sigrst | .sigchk _ => []
  | _ => if sp.rep = 0 then ws else []

end Sys2Proof.Machine
end

