-- ==== Sys2Proof/Machine/Issue.lean ====
section
/-! DEFINITION. The issue of one instruction from a split or a service core (02 R27, R28; 14 R316; 16 R367), an issue slot's cycle
(04 R86; 13 R287), a chain's block (12 R270), events, and the passing of a cycle (04 R97; 13 R287). -/

namespace Sys2Proof.Machine

/-! ## One instruction -/

/-- The issuer of a split's instruction (02 R27). -/
def issuerOf (core wave split : Nat) (pc : Dword) (ws : List Dword) (aux : Option Aux) : Issuer :=
  { core := core, wave := wave, split := split, iaddr := pc, caddr := pc + BitVec.ofNat 64 (8 * (ws.length - 1)),
    next := pc + BitVec.ofNat 64 (8 * ws.length), words := ws, aux := aux }

/-- The state after an instruction or an event, when nothing issues. -/
def State.idle (s : State) : State := { s with cur := {}, arg := .none }

/-- The outcome of an instruction or an event, with a function of its next state. -/
def thenDo (o : Out) (f : State → State) : Out :=
  match o with
  | .next s => .next (f s)
  | .fault r => .fault r
  | .refused r => .refused r

/-- Whether an opcode needs a wave of 64 lanes, which check 7 of 02 R28 tests before the stage and the features (02 R48). -/
def needs64 (o : Nat) : Bool := opcIn 0x280 0x28C o || o = 0x293

/-- Issues a split's instruction whose words have been fetched: `w` and `sp` are its wave and split. -/
def State.issueWords (s : State) (core wave split : Nat) (w : Wave) (sp : Split) (f : Fetched) : Out :=
  let (i, arg, aux, ws) := issueChoice false (fun o => s.offers o || (needs64 o && w.width ≠ 64)) sp.pc f
  thenDo (exec i { s with cur := issuerOf core wave split sp.pc ws aux, arg := arg })
    (fun t => (t.settleIssue core wave split i w sp aux (signedWords i sp ws)).idle)

/-- The stop of an execute breakpoint (14 R315, R316): each matching breakpoint's HITS rises. -/
def State.breakAt (s : State) (core wave split : Nat) (w : Wave) (pc : Dword) (hits : List Nat) : State :=
  (hits.foldl (fun s b => s.onCsr 4 (0x4000 + 0x40 * w.ctx + 0x10 * b + 0xC) (· + 1)) s).takeStop core wave split
    { cause := .breakpoint, addr := pc } pc

/-- A split's turn to issue. Nothing happens where it may not issue, or while its words come from another device. -/
def State.issueAt (s : State) (core wave split : Nat) : Out :=
  match s.wave core wave with
  | none => .next s
  | some w => match w.split split with
    | none => .next s
    | some sp =>
      if !s.mayIssue core w split sp then .next s
      else match s.fetchSplit core wave split w sp.pc with
        | (.wait, s) => .next s
        | (.fault i, s) => s.issueWords core wave split w sp (.fault i)
        | (.words ws, s) =>
          match if sp.state = 2 then [] else s.execBreaks w sp sp.pc with
          | [] => s.issueWords core wave split w sp (.words ws)
          | hits => .next (s.breakAt core wave split w sp.pc hits)

/-- A service core's turn: a pending event is taken, and else its next instruction issues (16 R367, R371). -/
def State.svcTurn (s : State) (n : Nat) : Out :=
  if 5 ≤ n then .next s
  else
    let s := s.svcTake n
    let c := s.svc n
    if c.halted || c.waiting.isSome then .next s
    else
      let (i, arg, aux, ws) := issueChoice true (fun _ => true) c.pc c.fetchPc
      thenDo (exec i { s with cur := { issuerOf 0 0 0 c.pc ws aux with svc := some n }, arg := arg }) State.idle

/-- A chain's turn (12 R270): its next block is read, and its command is carried out. -/
def State.chainStep (s : State) (core cmd : Nat) : Out :=
  match s.chainTurn core cmd with
  | (some i, s) => thenDo (exec i s) State.idle
  | (none, s) => .next s.idle

/-- The events of the table, which take no place in a wave's or service core's program. The commands of chains act in a chain's turn
alone. -/
def isEvent (i : Instr) : Bool :=
  match i with
  | .splitArrive | .fuseTimerExpiry | .rejoinTimerExpiry | .yieldExpiry | .issuePromotion | .pageWalkComplete
  | .memoryAccessPerform | .loadDataReturn | .stopReport | .waveEnd | .launchMsg | .waitWordRead | .placeGroup | .leaseTake
  | .taskTake | .launchComplete | .discardGo | .wcmdResume | .wcmdStep | .debugStepStop | .wcmdKill | .wcmdHalt | .wdataloRead
  | .wdataloWrite | .copyCommandStart | .copyChunk | .tensorRecordArrive | .copyCommandComplete | .semwaitRetry
  | .arrayOpBegin | .arrayOpComplete | .rayQueryUpdate | .meshWavePlace | .binBlock | .binwaitExpiry | .binpassGrow
  | .binpassDecline | .binpassResume | .finalRender | .tileRender | .replayPlace | .selfTestComplete | .umpctxAbandon
  | .foulUnbench | .eccError | .l2eccReqWrite | .l2eccSwitchDone | .vsramTargetWrite | .vsramStep | .cfuSample | .catWrite
  | .catCommit | .clockRaise | .powerMeasure | .evacE2 | .evacE3 | .evacE4 | .cpcQreqSet | .cpcDrainmode | .cpcQack | .cpcRetsave
  | .cpcRetdone | .cpcClkgateSet | .cpcRailoff | .cpcWake | .cpcClkgateClear | .cpcRetload | .cpcRetloaded | .cpcQreqClear
  | .scEventTake | .wfeTimeout | .evpendClear | .scRestart | .scInstall | .scInstallComplete | .memrd | .memwr | .memrsp
  | .atomicMsg | .csrrdMsg | .csrwrMsg | .resumeMsg | .killctx | .unbenchMsg | .attest | .stageAdvance | .enableWrite
  | .tlbinvGo | .tlbinvDone | .fusetimeWrite | .powerOnReset | .registerWrite | .linkCreditReturn | .stageSelfTestDone => true
  | _ => false

/-- The occurrence of an event. -/
def State.occur (s : State) (e : Instr) (a : EventArgs) : Out :=
  if isEvent e then thenDo (exec e { s.idle with arg := a }) State.idle else .next s

/-! ## An issue slot's cycle (04 R86; 13 R287) -/

/-- An instruction of a split that is ready: its place, the keys of R287 in order, its quads and its words. -/
structure Ready where
  wave : Nat
  split : Nat
  keys : List Nat
  quads : List Nat
  opc : Nat
  deriving DecidableEq, Repr

/-- The opcode of the instruction at a split's PC, as memory holds it; 0 where it cannot be fetched. -/
def State.nextOpc (s : State) (core wave split : Nat) (w : Wave) (sp : Split) : Nat :=
  match (s.fetchSplit core wave split w sp.pc).1 with
  | .words ws => opcOfWords ws
  | _ => 0

/-- Whether an issue of a split would dispatch an instruction: it has passed the checks that hold an instruction back. -/
def State.dispatches (s : State) (core wave split : Nat) (w : Wave) : Bool :=
  match s.issueAt core wave split with
  | .next t => match t.wave core wave with
    | some v => v.issued ≠ w.issued || v.run ≠ w.run || v.order ≠ w.order
    | none => true
  | _ => true

/-- The keys of R287: promoted first, CLASS, %prio, age by placement, split ID. A split whose YLD has cleared ranks as the youngest of
its priority (04 R112). -/
def rankKeys (w : Wave) (split : Nat) (sp : Split) : List Nat :=
  [if sp.promoted then 0 else 1, w.klass, 7 - w.prio, if sp.young then 1 else 0, w.order, split]

/-- Lexicographic order. -/
def keysBefore : List Nat → List Nat → Bool
  | a :: as, b :: bs => a < b || (a = b && keysBefore as bs)
  | _, _ => false

/-- Inserts a ready split in its rank. -/
def rankIn (x : Ready) : List Ready → List Ready
  | [] => [x]
  | y :: ys => if keysBefore x.keys y.keys then x :: y :: ys else y :: rankIn x ys

/-- The ready splits of a slot, ranked. -/
def State.readySplits (s : State) (core slot : Nat) : List Ready :=
  ((s.wavesOn core).filter (fun x => x.2.slot = slot)).foldl (fun l x =>
    x.2.live4.foldl (fun l y =>
      if s.dispatches core x.1 y.1 x.2 then
        rankIn { wave := x.1, split := y.1, keys := rankKeys x.2 y.1 y.2, quads := (quadsOf y.2.lanes).map (x.2.qbase + ·),
                 opc := s.nextOpc core x.1 y.1 x.2 y.2 } l
      else l) l) []

/-- The special-function unit's opcodes: latency classes Special and Special64 (02 R50). -/
def usesSpecial (o : Nat) : Bool := opcIn 0x10A 0x113 o || opcIn 0x11F 0x120 o

/-- The load/store port's opcodes (04 R86). -/
def usesPort (o : Nat) : Bool := opcIn 0x200 0x264 o || opcIn 0x384 0x38B o

/-- The engine port's opcodes (04 R86). -/
def usesEngine (o : Nat) : Bool := opcIn 0x280 0x298 o || opcIn 0x390 0x395 o

/-- Whether two ready splits may dispatch in one cycle (04 R86). -/
def mayPair (x y : Ready) : Bool :=
  x.quads.all (fun q => !y.quads.contains q) && !(usesSpecial x.opc && usesSpecial y.opc) &&
    !(usesPort x.opc && usesPort y.opc) && !(usesEngine x.opc && usesEngine y.opc)

/-- What the splits of a slot that dispatch nothing do all the same: they begin to wait at a forced fuse point, at a fuse point of a miss pair
or on a barrier, fuse there, or ask for their words (02 R27; 04 R99, R100; 08 R189). -/
def State.slotWaits (s : State) (core slot : Nat) : State :=
  ((s.wavesOn core).filter (fun x => x.2.slot = slot)).foldl (fun s x =>
    (List.range 4).foldl (fun s k =>
      match s.wave core x.1 with
      | none => s
      | some w =>
        if s.dispatches core x.1 k w then s
        else match s.issueAt core x.1 k with
          | .next t => t
          | _ => s) s) s

/-- An issue slot's cycle: the first ready split dispatches, and then the next one that may beside it (04 R86; 13 R287). -/
def State.slotTurn (s : State) (core slot : Nat) : Out :=
  let s := s.slotWaits core slot
  match s.readySplits core slot with
  | [] => .next s
  | x :: xs => match s.issueAt core x.wave x.split with
    | .next t => match xs.find? (mayPair x) with
      | some y => t.issueAt core y.wave y.split
      | none => .next t
    | o => o

/-! ## The passing of a cycle -/

/-- A timer counts an issue cycle, and stays at 0xF_FFFF (04 R97). -/
def tick (t : BitVec 20) : BitVec 20 := if t = 0xFFFFF then t else t + 1

/-- A split entry after an issue cycle: its fuse timer, YLD's count, and how long it has been ready (04 R97, R112; 13 R287). -/
def Split.passed (ready : Bool) (sp : Split) : Split :=
  { sp with timer := if sp.state = 1 then tick sp.timer else sp.timer, yldLeft := sp.yldLeft - 1,
            ready := if ready then min 512 (sp.ready + 1) else 0 }

/-- A wave after an issue cycle of its slot. -/
def Wave.passed (ready : Nat → Bool) (w : Wave) : Wave :=
  { w with
    splits := w.splits.map (fun e => (e.1, e.2.map (Split.passed (ready e.1))))
    paths := w.paths.map (fun p => if p.runnable then p else { p with ctx := { p.ctx with timer := tick p.ctx.timer } })
    records := w.records.map (fun r => if r.parked = [] then r else { r with timer := tick r.timer }) }

/-- The passing of a cycle of core n (domain 0) or service core n (domain 1). -/
def State.passCycle (s : State) (domain n : Nat) : State :=
  if domain = 1 then (if n < 5 then s.onSvc n (fun c => { c with cycle := c.cycle + 1 }) else s)
  else if 64 ≤ n || !s.clocked n then s
  else
    let t := (s.wavesOn n).foldl (fun t x =>
      if x.2.run = .running ∨ x.2.run = .draining then
        if x.2.replaying then t else t.setWave n x.1 (some (x.2.passed (fun k => s.dispatches n x.1 k x.2)))
      else t) s
    t.onCore n (fun c => { c with cycle := c.cycle + 1 })

/-! ## Turns -/

/-- What a turn does. -/
def State.turn (s : State) (t : Turn) : Out :=
  match t with
  | .issue core wave split => s.issueAt core wave split
  | .slot core slot => s.slotTurn core slot
  | .svc n => s.svcTurn n
  | .chain core cmd => s.chainStep core cmd
  | .event e a => s.occur e a
  | .pass domain n => .next (s.passCycle domain n)
  | .prefetch core wave split a => .next (s.prefetch core wave split a)
  | .unitCsr r ctx va space a n data => .next (s.unitCsr r ctx va space a n data)
  | .benchDrain => .next s.benchDrain

end Sys2Proof.Machine
end

