-- ==== Sys2Proof/Machine/Schedule.lean ====
section
/-! DEFINITION. What acts when nothing outside the machine says so (log 4): the turns that may do something, tried in a rotating order.
And the placing of an instruction at the fetch of the next step (log 5). -/

namespace Sys2Proof.Machine

/-- An event's turn. -/
def eventAt (e : Instr) (a : EventArgs) : Turn := .event e a

/-- The turns of a resident wave. -/
def waveTurns (core wave : Nat) (w : Wave) : List Turn :=
  [eventAt .stopReport (.at2 core wave), eventAt .waveEnd (.at2 core wave), eventAt .debugStepStop (.at2 core wave)] ++
  w.ops.flatMap (fun o =>
    eventAt .pageWalkComplete (.at3 core wave o.id) ::
    (List.range o.units.length).flatMap (fun k =>
      [eventAt .memoryAccessPerform (.access core wave o.id k true), eventAt .memoryAccessPerform (.access core wave o.id k false)]) ++
    [eventAt .loadDataReturn (.at3 core wave o.id)]) ++
  w.live4.flatMap (fun x =>
    [eventAt .splitArrive (.at3 core wave x.1), eventAt .fuseTimerExpiry (.at3 core wave x.1),
     eventAt .yieldExpiry (.at3 core wave x.1), eventAt .issuePromotion (.at3 core wave x.1)]) ++
  (w.paths.filter (fun p => !p.runnable)).map (fun p => eventAt .fuseTimerExpiry (.at3 core wave (4 + p.order))) ++
  w.records.map (fun r => eventAt .rejoinTimerExpiry (.at3 core wave r.tag)) ++
  w.queries.map (fun q => eventAt .rayQueryUpdate (.at3 core wave q.1))

/-- The turns of a core's engine and matrix array. -/
def coreTurns (core : Nat) (c : Core) : List Turn :=
  c.cmds.flatMap (fun x =>
    [eventAt .copyCommandStart (.at2 core x.id), eventAt .copyChunk (.at2 core x.id), eventAt .tensorRecordArrive (.at2 core x.id),
     eventAt .copyCommandComplete (.at2 core x.id), eventAt .semwaitRetry (.at2 core x.id), .chain core x.id]) ++
  (if c.array = [] then [] else [eventAt .arrayOpBegin (.at1 core), eventAt .arrayOpComplete (.at1 core)])

/-- The turns of a die's units. -/
def dieTurns (d : Nat) (x : Die) : List Turn :=
  (List.range x.walks.length).map (fun k => eventAt .pageWalkComplete (.at2 d k)) ++
  (List.range 4).flatMap (fun n => [eventAt .cpcQack (.at2 d n), eventAt .cpcRetdone (.at2 d n), eventAt .cpcRetloaded (.at2 d n)]) ++
  [eventAt .vsramStep (.at1 d), eventAt .l2eccSwitchDone (.at1 d), eventAt .placeGroup (.at1 d), eventAt .meshWavePlace (.at1 d)] ++
  (List.range x.samples.length).map (fun k => eventAt .replayPlace (.at2 d k)) ++
  x.tasks.flatMap (fun q => (List.range 16).map (fun c => eventAt .taskTake (.at3 d q.1 (16 * d + c)))) ++
  x.passes.flatMap (fun p =>
    [eventAt .binBlock (.at2 d p.1), eventAt .binwaitExpiry (.at2 d p.1), eventAt .finalRender (.at2 d p.1)] ++
    (List.range 16).map (fun c => eventAt .tileRender (.at3 d p.1 (16 * d + c))))

/-- Every turn that may do something, and the cycles of every core and service core. -/
def State.turns (s : State) : List Turn :=
  s.waves.flatMap (fun e => (e.2.map (waveTurns (e.1 / 512) (e.1 % 512))).getD []) ++
  s.cores.flatMap (fun e => coreTurns e.1 e.2) ++
  (List.range 4).flatMap (fun d => dieTurns d (s.die d)) ++
  s.groups.map (fun g => eventAt .leaseTake (.at1 g.1)) ++
  s.launches.flatMap (fun l => [eventAt .waitWordRead (.at1 l.1), eventAt .launchComplete (.at1 l.1)]) ++
  [eventAt .tlbinvDone .none] ++
  ((List.range 84).filter (fun z => s.zoneState z = 2)).flatMap (fun z => [eventAt .evacE2 (.at1 z), eventAt .evacE4 (.at1 z)]) ++
  (List.range 64).map (fun c => eventAt .clockRaise (.at1 c)) ++
  (List.range 5).flatMap (fun n =>
    [eventAt .scInstallComplete (.at1 n), eventAt .wfeTimeout (.at1 n), .svc n, .pass 1 n]) ++
  (List.range 64).flatMap (fun c => (List.range 8).map (fun k => Turn.slot c k) ++ [Turn.pass 0 c])

/-- Whether a turn's outcome is another state. -/
def State.changedBy (s : State) (o : Out) : Bool :=
  match o with
  | .next t => t ≠ s
  | _ => true

/-- The first turn of a list that changes the state, and its place. -/
def State.firstTurn (s : State) : Nat → List Turn → Option (Nat × Out)
  | _, [] => none
  | k, t :: ts => if s.changedBy (s.turn t) then some (k, s.turn t) else State.firstTurn s (k + 1) ts

/-- The turn that the machine takes by itself: the first that changes the state, from where the last one stood. -/
def State.defaultTurn (s : State) : Out :=
  let ts := s.turns
  let k := s.last % ts.length
  match s.firstTurn (k + 1) (ts.drop k ++ ts.take k) with
  | some (n, o) => thenDo o (fun t => { t with last := n })
  | none => .next s

/-- One step: the next turn of the agenda, or else one of the machine's own (log 2). -/
def State.advanceTurn (s : State) : Out :=
  match s.agenda with
  | t :: ts => ({ s with agenda := ts }).turn t
  | [] => s.defaultTurn

/-! ## Placing an instruction at the next fetch (log 5) -/

/-- The address of the placed instruction. -/
def probeAddr : Nat := 0x1000

/-- The words of an instruction of a table's row: its `nbits` bits, and zeros above them up to five words. -/
def probeWords (nbits w : Nat) : List Dword := tableWords (w % 2 ^ nbits)

/-- Whether a row's word is one of a service core alone (02 R28; 16 R367). -/
def probeIsSvc (ws : List Dword) : Bool :=
  match decodeOn false ws, decodeOn true ws with
  | .error _, .ok _ => true
  | _, _ => false

/-- The bytes of words, little-endian (00 R3). -/
def probeBytes (ws : List Dword) : List Byte := ws.flatMap (fun v => leBytes 8 v.toNat)

/-- A launch of one group of one wave of 64 lanes with 256 vector registers and 1024 scalars, whose code segment holds the words. -/
def probeLaunch : Launch :=
  { segments := some [(probeAddr, 64, 0)], nextGroup := 1 }

/-- Its group. -/
def probeGroup (n : Nat) : Group := { launch := n, live := [0] }

/-- Its wave. -/
def probeWave (n : Nat) : Wave :=
  { group := n, width := 64, vres := 256, vmax := 256, sres := 1024, smax := 1024,
    splits := [(0, some { pc := BitVec.ofNat 64 probeAddr, lanes := BitVec.allOnes 64 })] }

/-- The translation of its page. -/
def probePage : TlbEntry := { vbase := probeAddr, pbase := probeAddr, x := true, w := true, r := true }

/-- A state with words as the next instruction of wave 0 of core 0. -/
def State.placeOnCore (s : State) (ws : List Dword) : State :=
  let n := max s.nextGroup s.nextLaunch
  let s : State := { s with
    launches := Table.set noneAt s.launches n (some probeLaunch), nextLaunch := n + 1
    groups := Table.set noneAt s.groups n (some (probeGroup n)), nextGroup := n + 1
    agenda := [.issue 0 0 0] }
  let s := (s.setBytes probeAddr (probeBytes ws)).setWave 0 0 (some (probeWave n))
  let s := s.onCore 0 (fun c => { c with tlb := probePage :: c.tlb, icache := [] })
  ((s.onCsr 4 0x7B00 (fun v => setField v 1 0 3)).onCsr 0 (cpcSts 0) (fun v => v &&& ~~~4#32)).onCsr 4
    (0x6000 + 0x10 * coreZone 0 + 8) (fun v => setField v 11 8 0)

/-- A state with words as the next instruction of service core 0. -/
def State.placeOnSvc (s : State) (ws : List Dword) : State :=
  let s := (s.setCsr (svcSpace 0) 0x0A04 0).onSvc 0 (fun c => { c with
    halted := false, waiting := none, asked := false, pc := 0
    sram := (probeBytes ws).zipIdx.foldl (fun t x => Table.set memDefault t x.2 x.1) c.sram })
  { s with agenda := [.svc 0] }

/-- A state in which the next step runs an instruction of the table. -/
def State.place (s : State) (ws : List Dword) : State := if probeIsSvc ws then s.placeOnSvc ws else s.placeOnCore ws

end Sys2Proof.Machine
end

