-- ==== Sys2Proof/Machine/Step.lean ====
section
/-! DEFINITION. One step of the module, and the placing of an instruction where the next step fetches it. -/

namespace Sys2Proof.Machine

/-- One step (log 2). -/
def step (s : State) : Host.Outcome State Fault Refusal := s.advanceTurn

/-- A state whose next step fetches and runs the instruction of a table's row (log 5). -/
def State.withFetchWord (s : State) (nbits w : Nat) : State := s.place (probeWords nbits w)

end Sys2Proof.Machine
end

