-- ==== Sys2Proof/WellFormed.lean ====
section
/-! DEFINITION. The well-formed instructions: the terms that stand for words of the opcode map. -/

namespace Sys2Proof

/-- Whether an F instruction's immediate and BS go together (02 R42, R44; check 3 of R28). -/
def limmFits (op : FOp) (f : FArgs) : Bool :=
  let roled := decide (op.cCount ≠ 0) || decide (op.namedScalars ≠ 0)
  (f.limm.isNone || f.bs || roled) && !(roled && f.bs && f.limm.isNone) && !(!roled && f.bs && f.limm.isSome && f.s ≠ 0)

/-- Whether the operands of an F instruction stand beside its constructor. -/
def FOp.beside (op : FOp) : Bool := op = .rayacc || op = .raycont || op = .rayterm || op = .pixdisc

/-- Whether the MWB prefixes may precede a C instruction (02 R43, R44). -/
def mwbsFit (o : BitVec 10) (ms : List Mwb) : Bool :=
  (ms.isEmpty || o = 0x033) && ms.length ≤ 2 && ms.all (fun m => !badMwb m)

/-- The OPC of an instruction of the opcode map, and whether it is written as its constructor demands; none for an event. A pair
frame has no OPC and is given as IADD's. -/
def Decoded.shape (x : Decoded) : Option (BitVec 10 × Bool) :=
  match x.aux with
  | some { rep := some _, op := op, f := f } => some (op.code, decide (x.instr = .repRepeat) && limmFits op f)
  | some { rep := none, op := op, f := f } => some (op.code, decide (x.instr = Instr.ofF f op) && op.beside && limmFits op f)
  | none =>
    match x.instr with
    | .nop => some (0, true)
    | .pair _ _ => some (0x080, true)
    | i =>
      match i.asF with
      | some (op, f) => some (op.code, limmFits op f)
      | none =>
        match i.asS with
        | some (o, _) => some (o, true)
        | none =>
          match i.asC with
          | some (o, _, ms) => some (o, mwbsFit o ms)
          | none =>
            match i.asSm with
            | some (o, _) => some (o, true)
            | none =>
              match i.asM with
              | some (o, _) => some (o, true)
              | none => (i.asX).map (fun y => (y.1, true))

/-- An instruction that a core of the kind executes: it has a word, written as its constructor demands, and passes checks 4 to 7 of
R28. -/
def Decoded.wellFormed (svc : Bool) (x : Decoded) : Bool :=
  match x.shape with
  | some (o, ok) => ok && opcHere svc o.toNat && x.illegal = none
  | none => false

end Sys2Proof
end

