-- ==== Sys2Proof/Safety.lean ====
section
/-! DEFINITION. What counts as a safe run, in the terms claims use. -/

namespace Sys2Proof.Machine

/-- The canonical form of memory: addresses strictly rising, and no entry equal to what an unlisted address reads as. -/
def Memory.wf (m : Table Byte) : Bool := Table.wf memDefault m

/-- The canonical form of the control and status registers. -/
def Csrs.wf (m : Table Word) : Bool := Table.wf csrReset m

/-- A split less what it has seen of scalars that several splits have written (04 R87). -/
def Split.sansSeen (sp : Split) : Split := { sp with sseen := [] }

/-- A wave less its register files and what follows them: the names bound, spilled, poisoned and used, what other splits may still
read and what each has seen, the windows of its MMAs, and what its undo log notes. -/
def Wave.sansRegs (w : Wave) : Wave :=
  { w with vregs := [], vbound := [], vspilled := [], vpoison := [], vused := [], stamp := 0, written := 0, hist := [], swrites := [],
           sregs := [], sbound := [], sspilled := [], spoison := [], sused := [], windows := [], named := {},
           splits := w.splits.map (fun e => (e.1, e.2.map Split.sansSeen)) }

/-- A group less the elements of its accumulator storage. -/
def Group.sansAcc (g : Group) : Group := { g with acc := [] }

/-- A state that differs from another in its issuing wave, in groups and in the count of draws. -/
def State.reissued (s : State) (v : Wave) (gs : Table (Option Group)) (n : Nat) : State :=
  { s.setWave s.cur.core s.cur.wave (some v) with groups := gs, free := n }

/-- A step that ends in a next state. Every stop of the spec is one (14 R301), so no other outcome is safe. -/
def Out.completes (o : Out) : Prop := ∃ t, o = .next t

/-- Nothing issues: the issuer and the event's arguments are those between steps. -/
def State.quiet (s : State) : Prop := s.cur = {} ∧ s.arg = .none

/-- A wave halted by a stop, whose frame is not made yet (14 R301). -/
def Wave.stopping (w : Wave) (c : StopCause) : Prop := w.run = .draining ∧ (w.halt.map (fun h => h.info.cause)) = some c

end Sys2Proof.Machine
end

