-- ==== Sys2Proof/Certificates/Slice0/Obligations.lean ====
section
/-! DEFINITION. The statements about the model, for the provers. What several of them say is named in `Sys2Proof.Claims` first. -/

namespace Sys2Proof.Claims

open Sys2Proof.Machine

/-! ## What an instruction meets at issue, and what it leaves alone -/

/-- The split of a wave issues an instruction of an Oltus core that names the registers `u`: no outstanding write stands against it
(05 R130), and it meets no register limit and no poison (05 R123, R127). `w` and `sp` are the wave and the split. -/
def Issues (s : State) (u : Uses) (w : Wave) (sp : Split) : Prop :=
  s.cur.svc = none ∧ s.issuing = some (w, sp) ∧ w.busy sp u = false ∧
    ∃ w', s.prepare s.cur.core s.cur.wave w sp u = .ok w'

/-- The state from which an instruction acts at a forced fuse point: at the later repeats of a REP the state as it is, else the one in which
the splits that wait there have fused into the wave's sole live split (04 R99), where no spill entry that this reads or writes faults (04 R93). -/
def Fuses (s s' : State) : Prop :=
  ∃ w sp, s.issuing = some (w, sp) ∧
    ((0 < sp.rep.toNat ∧ s' = s) ∨
     (sp.rep = 0 ∧ (w.fuseHere s.cur.split).1.soleSplit (w.fuseHere s.cur.split).2 = true ∧
      (w.spillTouched (w.fuseHere s.cur.split).1).findSome? (s.spillFault s.cur.core s.cur.wave w) = none ∧
      s' = State.captureRep
        ({ s with cur := { s.cur with split := (w.fuseHere s.cur.split).2 } }.setWave s.cur.core s.cur.wave
          (some ((w.fuseHere s.cur.split).1.onSplit (w.fuseHere s.cur.split).2
            (fun x => { x with state := 0, waitsAt := false, missWait := false, timer := 0 }))))))

/-- The state from which an instruction of a minimum width acts: below 8 the state as it is, from 8 on that of a forced fuse point (02 R48). -/
def Gathers (s : State) (width : Nat) (s' : State) : Prop :=
  ∃ w sp, s.issuing = some (w, sp) ∧ ((min width w.width < 8 ∧ s' = s) ∨ (8 ≤ min width w.width ∧ Fuses s s'))

/-- Nothing of the module has changed but the issuing wave, which is now `v`, accumulator elements, which an instruction loses when it
breaks an MMA's window (10 R230), and the count of free draws. Every byte of memory, every CSR, every other wave, group, core, die,
launch, service core and message is as before. -/
def OnlyIssuer (s t : State) (v : Wave) : Prop :=
  ∃ gs n, t = s.reissued v gs n ∧ ∀ k, (Table.get noneAt gs k).map Group.sansAcc = (s.group k).map Group.sansAcc

/-- Of a wave nothing has changed but registers, and its split `k` is now `x`. -/
def OnlyRegisters (w v : Wave) (k : Nat) (x : Split) : Prop := v.sansRegs = (w.setSplit k (some x)).sansRegs

/-- The issuing split past its instruction: at the next word, at a loop's start, or at a REP's next repeat (02 R27, 04 R110, R113). -/
def past (s : State) (sp : Split) : Split := sp.retire s.cur.aux s.cur.caddr s.cur.next

/-- A register of a lane after an instruction that names `u` and does not write it there: 0 where a last-read mark or VFREE has unbound it,
and else what it was (05 R119, R120). -/
def kept (w : Wave) (sp : Split) (u : Uses) (r i : Nat) : Word :=
  if r ∈ u.vfree ∧ i / 4 ∈ w.ownQuads sp then 0 else w.v r i

/-- The split after the write of a mask register, if any: bit l of the mask is `p l`, for every lane (06 R137). -/
def MaskPut (sp x : Split) : Option (Nat × (Nat → Bool)) → Prop
  | none => x = sp
  | some (k, p) => ∃ m : Dword, (∀ l < 64, m.getLsbD l = p l) ∧ x = sp.setMask k m

/-- An instruction on vector registers that names `u` completes with the outcome `o`: the registers from `d` on take the words of `res`
in the lanes of `run`, a mask is written where `mask` says so, every other register and every scalar keeps its value, the quads of the
split are bound in the destination (05 R118), the split goes on, and nothing else changes. `run`, `mask` and `res` take the wave as the
split reads it and the split; `res` also the number of a free draw and a lane. `far` is whether it reads poison in another lane (05 R127),
of which it would be killed. -/
def Writes (o : Out) (s : State) (u : Uses) (d n : Nat) (run : Wave → Split → Dword)
    (mask : Wave → Split → Option (Nat × (Nat → Bool))) (res : Wave → Split → Nat → Nat → List Word)
    (far : Wave → Split → Bool := fun _ _ => false) : Prop :=
  ∀ w sp, Issues s u w sp → far (w.seen sp s.free) sp = false →
    ∃ t v m x, o = .next t ∧ OnlyIssuer s t v ∧ MaskPut sp x (mask (w.seen sp s.free) sp) ∧
      OnlyRegisters w v s.cur.split (past s x) ∧ (∀ k, v.s k = w.s k) ∧
      (∀ r l, l < 64 → v.v r l =
        if d ≤ r ∧ r < d + n ∧ (run (w.seen sp s.free) sp).getLsbD l = true then
          (res (w.seen sp s.free) sp m l).getD (r - d) 0
        else kept w sp u r l) ∧
      (∀ r q, d ≤ r → r < d + n → q ∈ quadsOf sp.lanes → v.bound r q = true)

/-- The lanes in which an F instruction acts: the split's live lanes under the guard, at a later repeat of a REP those of repeat 0
(06 R137, 04 R113). -/
def run (f : FArgs) (w : Wave) (sp : Split) : Dword :=
  if sp.rep = 0 then w.liveOf sp &&& sp.guard f.g.toNat else sp.repRun

/-- No mask is written. -/
def noMask : Wave → Split → Option (Nat × (Nat → Bool)) := fun _ _ => none

/-- Whether a lanewise instruction reads A, through a source modifier, in a lane where it is poisoned (02 R46, 05 R127). -/
def farReads (op : FOp) (f : FArgs) (w : Wave) (sp : Split) : Bool :=
  f.cls ≠ 0 && w.farPoison op f sp ((lanesOf (run f w sp)).map f.modLane)

/-- A lanewise instruction with register results (06 R137), which names the registers and scalars that its shape gives (06 R138). -/
def Lanewise (i : Instr) (op : FOp) (f : FArgs) (res : Wave → Split → Nat → Nat → List Word) : Prop :=
  ∀ s s', Gathers s f.width s' →
    Writes (exec i s) s' (op.uses f) f.d.toNat (op.dCount f.b) (run f) noMask res (farReads op f)

/-- A lanewise instruction with a mask result (06 R137): bit l of the mask is set where lane l lies in run and the condition holds. -/
def LanewiseMask (i : Instr) (op : FOp) (f : FArgs) (cond : Wave → Split → Nat → Nat → Bool) : Prop :=
  ∀ s s', Gathers s f.width s' → ∃ n,
    Writes (exec i s) s' (op.uses f) 0 0 (run f)
      (fun w sp => some (f.d.toNat % 8, fun l => (run f w sp).getLsbD l && cond w sp n l)) (fun _ _ _ _ => []) (farReads op f)

/-- The rounding mode that an instruction reads (03 R66). -/
def mode (f : FArgs) (sp : Split) : RMode := sp.mode f.rx

/-- A result of 32-bit A. -/
def one (f : FArgs) (g : Word → Word) : Wave → Split → Nat → Nat → List Word := fun w sp n i => [g (f.srcA w sp n i 0)]

/-- A result of 32-bit A and B. -/
def two (f : FArgs) (g : Word → Word → Word) : Wave → Split → Nat → Nat → List Word :=
  fun w sp n i => [g (f.srcA w sp n i 0) (f.srcB w i)]

/-- A result of 32-bit A, B and C. -/
def three (f : FArgs) (g : Word → Word → Word → Word) : Wave → Split → Nat → Nat → List Word :=
  fun w sp n i => [g (f.srcA w sp n i 0) (f.srcB w i) (f.srcC w i)]

/-- A 64-bit result, low word first. -/
def wide (g : Wave → Split → Nat → Nat → Dword) : Wave → Split → Nat → Nat → List Word :=
  fun w sp n i => [(g w sp n i).extractLsb' 0 32, (g w sp n i).extractLsb' 32 32]

/-- The integers modulo 2³² that a signed 32-bit result clamps to (03 R82). -/
def clampS (x : Int) : Word := if x < -2147483648 then 0x80000000 else if 2147483647 < x then 0x7FFFFFFF else BitVec.ofInt 32 x

/-- The same for an unsigned result. -/
def clampN (x : Int) : Word := if x < 0 then 0 else if 4294967295 < x then 0xFFFFFFFF else BitVec.ofInt 32 x

/-- What the integer arithmetic instructions write in each lane (06 R139). -/
def arithRow : Instr → Option (FOp × FArgs × (Wave → Split → Nat → Nat → List Word))
  | .iadd f => some (.iadd, f, two f (fun a b => a + b))
  | .isub f => some (.isub, f, two f (fun a b => a - b))
  | .imul f => some (.imul, f, two f (fun a b => BitVec.ofNat 32 (a.toNat * b.toNat)))
  | .imulhi f => some (.imulhi, f, two f (fun a b => BitVec.ofInt 32 (a.toInt * b.toInt / 2 ^ 32)))
  | .imulhn f => some (.imulhn, f, two f (fun a b => BitVec.ofNat 32 (a.toNat * b.toNat / 2 ^ 32)))
  | .imad f => some (.imad, f, three f (fun a b c => BitVec.ofNat 32 (a.toNat * b.toNat + c.toNat)))
  | .imadwi f => some (.imadwi, f, wide (fun w sp n i =>
      BitVec.ofInt 64 ((f.srcA w sp n i 0).toInt * (f.srcB w i).toInt + (f.srcC2 w i).toInt)))
  | .imadwn f => some (.imadwn, f, wide (fun w sp n i =>
      BitVec.ofNat 64 ((f.srcA w sp n i 0).toNat * (f.srcB w i).toNat + (f.srcC2 w i).toNat)))
  | .iadd64 f => some (.iadd64, f, wide (fun w sp n i => f.srcA2 w sp n i + f.srcB2 w i))
  | .isub64 f => some (.isub64, f, wide (fun w sp n i => f.srcA2 w sp n i - f.srcB2 w i))
  | .imin f => some (.imin, f, two f (fun a b => if a.toInt ≤ b.toInt then a else b))
  | .imax f => some (.imax, f, two f (fun a b => if a.toInt ≤ b.toInt then b else a))
  | .iminn f => some (.iminn, f, two f (fun a b => if a.toNat ≤ b.toNat then a else b))
  | .imaxn f => some (.imaxn, f, two f (fun a b => if a.toNat ≤ b.toNat then b else a))
  | .iabs f => some (.iabs, f, one f (fun a => BitVec.ofNat 32 a.toInt.natAbs))
  | .ineg f => some (.ineg, f, one f (fun a => BitVec.ofInt 32 (-a.toInt)))
  | .iaddsat f => some (.iaddsat, f, two f (fun a b => clampS (a.toInt + b.toInt)))
  | .iaddsatn f => some (.iaddsatn, f, two f (fun a b => clampN (a.toNat + b.toNat)))
  | .isubsat f => some (.isubsat, f, two f (fun a b => clampS (a.toInt - b.toInt)))
  | .isubsatn f => some (.isubsatn, f, two f (fun a b => clampN ((a.toNat : Int) - b.toNat)))
  | _ => none

/-- BFE on numbers: `l` bits of `a` from `pos` on, extended by their top bit where `sgn` says so (06 R140). -/
def extract (a b : Word) : Word :=
  let pos := b.toNat % 256
  let len := b.toNat / 256 % 256
  let l := min len (32 - pos)
  let f := a.toNat / 2 ^ pos % 2 ^ l
  if len = 0 ∨ 32 ≤ pos then 0
  else if b.getLsbD 16 = true ∧ 2 ^ (l - 1) ≤ f then BitVec.ofInt 32 ((f : Int) - 2 ^ l) else BitVec.ofNat 32 f

/-- BFI bit by bit (06 R140): the bits of C but those from `pos` on, as many as the length and the width allow, which are A's lowest. -/
def inserts (a b c d : Word) : Prop :=
  let pos := b.toNat % 256
  let len := b.toNat / 256 % 256
  ∀ k < 32, d.getLsbD k = if pos ≤ k ∧ k < pos + len then a.getLsbD (k - pos) else c.getLsbD k

/-- What the logical, shift, bit-field, selection and move instructions write in each lane (06 R140, R142). BFI and PRMT are stated
apart. -/
def bitRow : Instr → Option (FOp × FArgs × (Wave → Split → Nat → Nat → List Word))
  | .vand f => some (.vand, f, two f (fun a b => a &&& b))
  | .vor f => some (.vor, f, two f (fun a b => a ||| b))
  | .vxor f => some (.vxor, f, two f (fun a b => a ^^^ b))
  | .andn f => some (.andn, f, two f (fun a b => a &&& ~~~b))
  | .shl f => some (.shl, f, two f (fun a b => if 32 ≤ b.toNat then 0 else BitVec.ofNat 32 (a.toNat * 2 ^ b.toNat)))
  | .shr f => some (.shr, f, two f (fun a b => if 32 ≤ b.toNat then 0 else BitVec.ofNat 32 (a.toNat / 2 ^ b.toNat)))
  | .sra f => some (.sra, f, two f (fun a b =>
      if 32 ≤ b.toNat then (if a.toInt < 0 then 0xFFFFFFFF else 0) else BitVec.ofInt 32 (a.toInt / 2 ^ b.toNat)))
  | .shl64 f => some (.shl64, f, wide (fun w sp n i =>
      if 64 ≤ (f.srcB w i).toNat then 0 else BitVec.ofNat 64 ((f.srcA2 w sp n i).toNat * 2 ^ (f.srcB w i).toNat)))
  | .shr64 f => some (.shr64, f, wide (fun w sp n i =>
      if 64 ≤ (f.srcB w i).toNat then 0 else BitVec.ofNat 64 ((f.srcA2 w sp n i).toNat / 2 ^ (f.srcB w i).toNat)))
  | .bfe f => some (.bfe, f, two f extract)
  | .bfi f => some (.bfi, f, three f fieldInsert)
  | .popc f => some (.popc, f, one f (fun a => BitVec.ofNat 32 ((List.range 32).countP (fun k => a.getLsbD k))))
  | .clz f => some (.clz, f, one f (fun a => if a = 0 then 32 else BitVec.ofNat 32 (31 - Nat.log2 a.toNat)))
  | .brev f => some (.brev, f, one f BitVec.reverse)
  | .sel f => some (.sel, f, three f (fun a b c => if c = 0 then b else a))
  | .idp4 f => some (.idp4, f, three f (fun a b c => BitVec.ofInt 32 (c.toInt +
      ((List.range 4).map (fun k => (a.extractLsb' (8 * k) 8).toInt * (b.extractLsb' (8 * k) 8).toInt)).sum)))
  | .lea f => some (.lea, f, wide (fun w sp n i => f.srcA2 w sp n i + (f.srcB w i).signExtend 64))
  | .mov f => some (.mov, f, fun w _ _ i => [f.srcB w i])
  | .mov64 f => some (.mov64, f, wide (fun w _ _ i => f.srcB2 w i))
  | .prmt f => some (.prmt, f, three f permute)
  | _ => none

/-- Byte k of a word. -/
def byteOf (a : Word) (k : Nat) : Byte := a.extractLsb' (8 * k) 8

/-- PRMT byte by byte (06 R142). -/
def permutes (a b c d : Word) : Prop :=
  ∀ k < 4,
    let n := (c.extractLsb' (4 * k) 4).toNat
    let x := if n % 8 < 4 then byteOf a (n % 8) else byteOf b (n % 8 - 4)
    byteOf d k = if n < 8 then x else if 0x80 ≤ x.toNat then 0xFF else 0

/-- What the FP32 instructions write in each lane (06 R144, R146): one rounding of an exact value, in the mode read at issue. -/
def floatRow : Instr → Option (FOp × FArgs × (Wave → Split → Nat → Nat → List Word))
  | .fadd f => some (.fadd, f, fun w sp n i =>
      [toF32 (mode f sp) (Val.add (mode f sp).isRd (f32 (f.srcA w sp n i 0)) (f32 (f.srcB w i)))])
  | .fsub f => some (.fsub, f, fun w sp n i =>
      [toF32 (mode f sp) (Val.add (mode f sp).isRd (f32 (f.srcA w sp n i 0)) (f32 (f.srcB w i)).negate)])
  | .fmul f => some (.fmul, f, fun w sp n i => [toF32 (mode f sp) (Val.mul (f32 (f.srcA w sp n i 0)) (f32 (f.srcB w i)))])
  | .ffma f => some (.ffma, f, fun w sp n i =>
      [toF32 (mode f sp) (Val.fma (mode f sp).isRd (f32 (f.srcA w sp n i 0)) (f32 (f.srcB w i)) (f32 (f.srcC w i)))])
  | .fdiv f => some (.fdiv, f, fun w sp n i => [toF32 (mode f sp) (Val.div (f32 (f.srcA w sp n i 0)) (f32 (f.srcB w i)))])
  | .fsqrt f => some (.fsqrt, f, fun w sp n i => [toF32 (mode f sp) (f32 (f.srcA w sp n i 0)).sqrt])
  | .frnd f => some (.frnd, f, fun w sp n i => [toF32 (mode f sp) ((f32 (f.srcA w sp n i 0)).integral (mode f sp))])
  | .fmin f => some (.fmin, f, two f (f32Extremum false))
  | .fmax f => some (.fmax, f, two f (f32Extremum true))
  | .fabs f => some (.fabs, f, one f (fun a => BitVec.ofNat 32 (a.toNat % 2 ^ 31)))
  | .fneg f => some (.fneg, f, one f (fun a => a ^^^ 0x80000000))
  | .fclass f => some (.fclass, f, one f classOf)
  | .frcp f => some (.frcp, f, one f fnRcp)
  | .frsq f => some (.frsq, f, one f fnRsq)
  | .fexp2 f => some (.fexp2, f, one f fnExp2)
  | .flog2 f => some (.flog2, f, one f fnLog2)
  | .ftanh f => some (.ftanh, f, one f fnTanh)
  | .frred f => some (.frred, f, fun w sp n i => [(fnReduce (f.srcA w sp n i 0)).1, (fnReduce (f.srcA w sp n i 0)).2])
  | .fsinr f => some (.fsinr, f, fun w sp n i => [fnTrig false (f.srcA w sp n i 0) (f.srcA w sp n i 1)])
  | .fcosr f => some (.fcosr, f, fun w sp n i => [fnTrig true (f.srcA w sp n i 0) (f.srcA w sp n i 1)])
  | _ => none

/-- What the FP64 instructions write in each lane (06 R147). -/
def doubleRow : Instr → Option (FOp × FArgs × (Wave → Split → Nat → Nat → List Word))
  | .dadd f => some (.dadd, f, wide (fun w sp n i =>
      toF64 (mode f sp) (Val.add (mode f sp).isRd (f64 (f.srcA2 w sp n i)) (f64 (f.srcBd w i)))))
  | .dsub f => some (.dsub, f, wide (fun w sp n i =>
      toF64 (mode f sp) (Val.add (mode f sp).isRd (f64 (f.srcA2 w sp n i)) (f64 (f.srcBd w i)).negate)))
  | .dmul f => some (.dmul, f, wide (fun w sp n i => toF64 (mode f sp) (Val.mul (f64 (f.srcA2 w sp n i)) (f64 (f.srcBd w i)))))
  | .dfma f => some (.dfma, f, wide (fun w sp n i =>
      toF64 (mode f sp) (Val.fma (mode f sp).isRd (f64 (f.srcA2 w sp n i)) (f64 (f.srcBd w i)) (f64 (f.srcC2 w i)))))
  | .ddiv f => some (.ddiv, f, wide (fun w sp n i => toF64 (mode f sp) (Val.div (f64 (f.srcA2 w sp n i)) (f64 (f.srcBd w i)))))
  | .dsqrt f => some (.dsqrt, f, wide (fun w sp n i => toF64 (mode f sp) (f64 (f.srcA2 w sp n i)).sqrt))
  | .drnd f => some (.drnd, f, wide (fun w sp n i => toF64 (mode f sp) ((f64 (f.srcA2 w sp n i)).integral (mode f sp))))
  | .dmin f => some (.dmin, f, wide (fun w sp n i => f64Extremum false (f.srcA2 w sp n i) (f.srcBd w i)))
  | .dmax f => some (.dmax, f, wide (fun w sp n i => f64Extremum true (f.srcA2 w sp n i) (f.srcBd w i)))
  | _ => none

/-- Element j of a register of packed 16-bit elements. -/
def half (a : Word) (j : Nat) : Nat := a.toNat / 2 ^ (16 * j) % 2 ^ 16

/-- A word of two 16-bit elements. -/
def halves (lo hi : Nat) : Word := BitVec.ofNat 32 (lo % 2 ^ 16 + 2 ^ 16 * (hi % 2 ^ 16))

/-- A rounded result on each of two elements of a format. -/
def eachHalf (fm : Fmt) (m : RMode) (g : Nat → Val) : Word := halves (fm.encode m false (g 0)) (fm.encode m false (g 1))

/-- The products of the elements of two registers, for an exact sum (03 R75, R76). -/
def products (fm : Fmt) (k : Nat) (a b : Word) : List Term :=
  (List.range k).map (fun j =>
    { a := fm.decode (a.toNat / 2 ^ (fm.width * j) % 2 ^ fm.width), b := fm.decode (b.toNat / 2 ^ (fm.width * j) % 2 ^ fm.width), e := 0 })

/-- What the packed, dot-product, camera and random instructions write in each lane (06 R148–R152). -/
def packedRow : Instr → Option (FOp × FArgs × (Wave → Split → Nat → Nat → List Word))
  | .hadd2 f => some (.hadd2, f, fun w sp n i => [eachHalf .f16 (mode f sp) (fun j => Val.add (mode f sp).isRd
      (Fmt.f16.decode (half (f.srcA w sp n i 0) j)) (Fmt.f16.decode (half (f.srcB w i) j)))])
  | .hmul2 f => some (.hmul2, f, fun w sp n i => [eachHalf .f16 (mode f sp) (fun j => Val.mul
      (Fmt.f16.decode (half (f.srcA w sp n i 0) j)) (Fmt.f16.decode (half (f.srcB w i) j)))])
  | .hfma2 f => some (.hfma2, f, fun w sp n i => [eachHalf .f16 (mode f sp) (fun j => Val.fma (mode f sp).isRd
      (Fmt.f16.decode (half (f.srcA w sp n i 0) j)) (Fmt.f16.decode (half (f.srcB w i) j)) (Fmt.f16.decode (half (f.srcC w i) j)))])
  | .badd2 f => some (.badd2, f, fun w sp n i => [eachHalf .bf16 (mode f sp) (fun j => Val.add (mode f sp).isRd
      (Fmt.bf16.decode (half (f.srcA w sp n i 0) j)) (Fmt.bf16.decode (half (f.srcB w i) j)))])
  | .bmul2 f => some (.bmul2, f, fun w sp n i => [eachHalf .bf16 (mode f sp) (fun j => Val.mul
      (Fmt.bf16.decode (half (f.srcA w sp n i 0) j)) (Fmt.bf16.decode (half (f.srcB w i) j)))])
  | .bfma2 f => some (.bfma2, f, fun w sp n i => [eachHalf .bf16 (mode f sp) (fun j => Val.fma (mode f sp).isRd
      (Fmt.bf16.decode (half (f.srcA w sp n i 0) j)) (Fmt.bf16.decode (half (f.srcB w i) j)) (Fmt.bf16.decode (half (f.srcC w i) j)))])
  | .bmax2 f => some (.bmax2, f, two f (fun a b =>
      halves (Fmt.bf16.extremum true (half a 0) (half b 0)) (Fmt.bf16.extremum true (half a 1) (half b 1))))
  | .bmin2 f => some (.bmin2, f, two f (fun a b =>
      halves (Fmt.bf16.extremum false (half a 0) (half b 0)) (Fmt.bf16.extremum false (half a 1) (half b 1))))
  | .fdp2b f => some (.fdp2b, f, three f (fun a b c => exactSum c (products .bf16 2 a b) false))
  | .fdp4q f => some (.fdp4q, f, three f (fun a b c => exactSum c (products .e4m3 4 a b) false))
  | .fdp4w f => some (.fdp4w, f, three f (fun a b c => exactSum c (products .e5m2 4 a b) false))
  | .crxf f => some (.crxf, f, fun w sp n i =>
      let rel := fun (j : Nat) => f32 (toF32 .rne (f64 (toF64 .rne (Val.add false
        (f64 (pairOf (f.srcA w sp n i (2 * j)) (f.srcA w sp n i (2 * j + 1)))) (f64 (w.s2 (f.s.toNat + 2 * j))).negate))))
      let m := fun (row k : Nat) => w.s (f.s.toNat + 6 + 4 * row + k)
      (List.range 3).map (fun row => exactSum (m row 3)
        [{ a := f32 (m row 0), b := rel 0, e := 0 }, { a := f32 (m row 1), b := rel 1, e := 0 },
         { a := f32 (m row 2), b := rel 2, e := 0 }] false))
  | .rngh f => some (.rngh, f, fun w sp n i => [lacerta (w.s2 f.s.toNat) (f.srcA w sp n i 0)])
  | .rngf f => some (.rngf, f, fun w sp n i =>
      [toF32 .rne (.fin false ((((lacerta (w.s2 f.s.toNat) (f.srcA w sp n i 0)).toNat / 256 : Nat) : Rat) / ((2 ^ 24 : Nat) : Rat)))])
  | _ => none

/-- The type codes of a conversion selector (06 R153). -/
def tgt (f : FArgs) : Nat := f.b.toNat / 16
/-- The source code. -/
def src (f : FArgs) : Nat := f.b.toNat % 16

/-- Elements of a width packed from bit 0 on (03 R61). -/
def packOf (width : Nat) (xs : List Nat) : Word := BitVec.ofNat 32 (packElements width xs)

/-- What the conversions write in each lane (06 R154–R157). LB is SAT. -/
def convertRow : Instr → Option (FOp × FArgs × (Wave → Split → Nat → Nat → List Word))
  | .cvt f => some (.cvt, f, wide (fun w sp n i =>
      BitVec.ofNat 64 (convert (tgt f) (src f) f.lb (mode f sp) (f.srcA2 w sp n i).toNat)))
  | .cvtpk f => some (.cvtpk, f, fun w sp n i => [packOf (typeWidth (tgt f)) ((List.range (packCount (tgt f))).map (fun j =>
      convert (tgt f) (src f) f.lb (mode f sp) (f.srcA w sp n i j).toNat))])
  | .cvtupk f => some (.cvtupk, f, fun w sp n i => (List.range (packCount (src f))).map (fun j =>
      BitVec.ofNat 32 (convert (tgt f) (src f) false .rne
        ((f.srcA w sp n i 0).toNat / 2 ^ (typeWidth (src f) * j) % 2 ^ typeWidth (src f)))))
  | .cvtsr f => some (.cvtsr, f, fun w sp n i =>
      let r := (w.v f.d.toNat i).toNat
      if src f = 11 then [BitVec.ofNat 32 (convert 10 11 f.lb (.sr 32 r) (f.srcA2 w sp n i).toNat)]
      else
        let k := 32 / packCount (tgt f)
        [packOf (typeWidth (tgt f)) ((List.range (packCount (tgt f))).map (fun j =>
          convert (tgt f) 10 f.lb (.sr k (r / 2 ^ (j * k) % 2 ^ k)) (f.srcA w sp n i j).toNat))])
  | .bscale f => some (.bscale, f, one f (fun a =>
      match f32 a with
      | .nan => 0xFF
      | .inf _ => 0xFF
      | .fin _ q => if q = 0 then 0x7F
        else BitVec.ofInt 32 (clampInt 0 254
          (floorLog2 q.num.natAbs q.den - (if tgt f = 12 then 8 else if tgt f = 13 then 15 else 2) + 127))))
  | _ => none

end Sys2Proof.Claims

open Sys2Proof Sys2Proof.Machine Sys2Proof.Claims

/-- Integer arithmetic (06 R139): IADD to ISUBSATN, in every operand form, complete and write the row's value in each lane of run. Every other
lane and register, every scalar, mask, byte of memory and CSR stays, but for what a last-read mark unbinds. -/
def Obligations.IntegerArithmetic : Prop :=
  ∀ i op f res, arithRow i = some (op, f, res) → Lanewise i op f res

/-- Logic, shifts, bit fields, selection, the byte dot product, addresses and moves (06 R140, R142) complete and write the row's value in each
lane of run, and nothing else; BFI and PRMT are given by their bits and bytes. -/
def Obligations.BitInstructions : Prop :=
  (∀ i op f res, bitRow i = some (op, f, res) → Lanewise i op f res) ∧
  (∀ a b c, inserts a b c (fieldInsert a b c)) ∧ (∀ a b c, permutes a b c (permute a b c))

/-- FP32 (06 R144, R146): each instruction completes and writes in each lane of run one rounding of the exact value that its row gives, or the
word of its function, in the mode read at issue, and nothing else. FP64 (06 R147): the same on pairs. -/
def Obligations.FloatingPoint : Prop :=
  (∀ i op f res, floatRow i = some (op, f, res) → Lanewise i op f res) ∧
  (∀ i op f res, doubleRow i = some (op, f, res) → Lanewise i op f res)

/-- Packed halves, dot products, the camera transform and the Lacerta hash (06 R148–R152) complete and write the row's value in each lane of
run, and nothing else. Conversions (06 R153–R157): CVT, CVTPK, CVTUPK, CVTSR and BSCALE write what the type codes of their selector give. -/
def Obligations.PackedAndConversions : Prop :=
  (∀ i op f res, packedRow i = some (op, f, res) → Lanewise i op f res) ∧
  (∀ i op f res, convertRow i = some (op, f, res) → Lanewise i op f res)


namespace Sys2Proof.Claims

open Sys2Proof.Machine

/-- An integer condition (06 R141). -/
def intTest {n : Nat} (c : Nat) (a b : BitVec n) : Bool :=
  (c = 0 && decide (a = b)) || (c = 1 && decide (a ≠ b)) || (c = 2 && decide (a.toInt < b.toInt)) ||
    (c = 3 && decide (b.toInt ≤ a.toInt)) || (c = 4 && decide (a.toNat < b.toNat)) || (c = 5 && decide (b.toNat ≤ a.toNat))

/-- A floating-point condition on exact values (06 R145). -/
def floatTest (c : Nat) (a b : Val) : Bool :=
  let unordered := a.isNaN || b.isNaN
  let below := fun (x y : Val) => match x, y with
    | .inf n, .inf m => n && !m
    | .inf n, .fin _ _ => n
    | .fin _ _, .inf m => !m
    | .fin _ p, .fin _ q => decide (p < q)
    | _, _ => false
  let equal := !unordered && !below a b && !below b a
  match c with
  | 0 => equal
  | 1 => !equal
  | 2 => below a b
  | 3 => !unordered && !below a b
  | 4 => !unordered && !below b a
  | 5 => below b a
  | 6 => !unordered
  | 7 => unordered
  | _ => false

/-! ## Lanes reading lanes -/

/-- The segment of a cross-lane opcode (07 R163). -/
def segment (f : FArgs) (w : Wave) : Nat := if f.lseg = 0 then w.width else 2 ^ f.lseg

/-- The first lane of lane i's segment. -/
def segBase (f : FArgs) (w : Wave) (i : Nat) : Nat := i - i % segment f w

/-- Cset: run, the member mask, no helper lanes (07 R163). -/
def contributes (f : FArgs) (w : Wave) (sp : Split) (j : Nat) : Bool :=
  (run f w sp).getLsbD j && (sp.guard (f.dist % 8)).getLsbD j && !w.helper.getLsbD j

/-- The contributors of lane i's segment, in ascending order. -/
def group (f : FArgs) (w : Wave) (sp : Split) (i : Nat) : List Nat :=
  (List.range 64).filter (fun j => contributes f w sp j && decide (segBase f w j = segBase f w i))

/-- What lane i reads of A in lane j: 0 at or beyond W and where j has exited, its value where j lies in the split, and else a value
that it has held since the two lanes stood in one split (07 R159, R160). -/
def reads (f : FArgs) (w : Wave) (sp : Split) (n i j : Nat) : Word := w.fetch sp (n + i) f.a.toNat i j

/-- The source lane of SHFL for an index operand (07 R164). -/
def shuffled (f : FArgs) (w : Wave) (i b : Nat) : Nat :=
  let seg := segment f w
  let base := segBase f w i
  match f.dist / 8 % 4 with
  | 0 => base + b % seg
  | 1 => if b ≤ i ∧ base ≤ i - b then i - b else i
  | 2 => if i + b < base + seg then i + b else i
  | _ => base + Nat.xor (i - base) (b % seg)

/-- The physical lane of entry v of the remap table, when it is valid (07 R165). -/
def entry (w : Wave) (v : Nat) : Option Nat :=
  if w.width ≤ v ∨ Table.get falseAt w.remapInvalid v = true then none else some (Table.get (fun k => k) w.remap v)

/-- Whether the status bit is set for a source lane (07 R166). -/
def strange (w : Wave) (sp : Split) (j : Nat) : Bool := !(j < w.width && !w.exited.getLsbD j && sp.lanes.getLsbD j)

/-- The identity and the combination of SCAN and RED (07 R170), of integers. -/
def combination (op ty : Nat) : Word × (Word → Word → Word) :=
  if op = 0 then (0, fun a b => a + b)
  else if op = 1 then
    (if ty = 0 then (0x7FFFFFFF, fun a b => if b.toInt < a.toInt then b else a) else (0xFFFFFFFF, fun a b => if b.toNat < a.toNat then b else a))
  else if op = 2 then
    (if ty = 0 then (0x80000000, fun a b => if a.toInt < b.toInt then b else a) else (0, fun a b => if a.toNat < b.toNat then b else a))
  else if op = 3 then (0xFFFFFFFF, fun a b => a &&& b)
  else if op = 4 then (0, fun a b => a ||| b)
  else if op = 5 then (0, fun a b => a ^^^ b)
  else (0, fun a b => a + b)

/-- The combination of values in lane order: integers by the operation from its identity on, an f32 sum exactly and rounded once, f32
extrema as minimumNumber and maximumNumber (07 R170). -/
def combined (op ty : Nat) (xs : List Word) : Word :=
  if ty = 2 then combine op ty xs else xs.foldl (combination op ty).2 (combination op ty).1

/-- The cross-lane opcodes with a register result: their shape, minimum width, destination registers, lanes written, mask and value
(07 R164–R172), and the lanes whose A is read. -/
structure CrossRow where
  op : FOp
  f : FArgs
  width : Nat
  n : Nat := 1
  lanes : Wave → Split → Dword
  mask : Wave → Split → Option (Nat × (Nat → Bool)) := fun _ _ => none
  res : Wave → Split → Nat → Nat → List Word
  from_ : Wave → Split → List Nat := fun w sp => (List.range 64).filter (contributes f w sp)

/-- The minimum width of the map entry "seg" (02 R48). -/
def segWide (f : FArgs) : Nat := if f.lseg = 0 then 64 else 2 ^ f.lseg

/-- What the cross-lane opcodes do. -/
def crossRow : Instr → Option CrossRow
  | .shfl f => some { op := .shfl, f := f, width := segWide f, lanes := run f
                      mask := fun w sp => some (f.dist % 8, fun l =>
                        (run f w sp).getLsbD l && strange w sp (shuffled f w l (f.srcB w l).toNat))
                      res := fun w sp n i => [reads f w sp n i (shuffled f w i (f.srcB w i).toNat)]
                      from_ := fun w sp => (lanesOf (run f w sp)).map (fun i => shuffled f w i (f.srcB w i).toNat) }
  | .shflv f => some { op := .shflv, f := f, width := 64, lanes := run f
                       mask := fun w sp => some (f.dist % 8, fun l => (run f w sp).getLsbD l &&
                         (match entry w ((f.srcB w l).toNat % 64) with
                          | some j => strange w sp j
                          | none => true))
                       res := fun w sp n i => [match entry w ((f.srcB w i).toNat % 64) with
                         | some j => reads f w sp n i j
                         | none => 0]
                       from_ := fun w sp => (lanesOf (run f w sp)).filterMap (fun i => entry w ((f.srcB w i).toNat % 64)) }
  | .qswap f => some { op := .qswap, f := f, width := 4, lanes := run f, res := fun w sp n i => [reads f w sp n i (Nat.xor i f.b.toNat)]
                       from_ := fun w sp => (lanesOf (run f w sp)).map (fun i => Nat.xor i f.b.toNat) }
  | .qbcast f => some { op := .qbcast, f := f, width := 4, lanes := run f
                        res := fun w sp n i => [reads f w sp n i (4 * (i / 4) + f.b.toNat)]
                        from_ := fun w sp => (lanesOf (run f w sp)).map (fun i => 4 * (i / 4) + f.b.toNat) }
  | .ddx f => some { op := .ddx, f := f, width := 4, lanes := run f
                     res := fun w sp n i =>
                       let q := 4 * (i / 4) + if f.b.toNat % 2 = 1 then 0 else 2 * (i % 4 / 2)
                       [toF32 (mode f sp) (Val.add (mode f sp).isRd (f32 (w.fetch sp (n + 2 * i) f.a.toNat i (q + 1)))
                         (f32 (w.fetch sp (n + 2 * i + 1) f.a.toNat i q)).negate)]
                     from_ := fun w sp => (lanesOf (run f w sp)).flatMap (fun i =>
                       let q := 4 * (i / 4) + if f.b.toNat % 2 = 1 then 0 else 2 * (i % 4 / 2)
                       [q + 1, q]) }
  | .ddy f => some { op := .ddy, f := f, width := 4, lanes := run f
                     res := fun w sp n i =>
                       let q := 4 * (i / 4) + if f.b.toNat % 2 = 1 then 0 else i % 2
                       [toF32 (mode f sp) (Val.add (mode f sp).isRd (f32 (w.fetch sp (n + 2 * i) f.a.toNat i (q + 2)))
                         (f32 (w.fetch sp (n + 2 * i + 1) f.a.toNat i q)).negate)]
                     from_ := fun w sp => (lanesOf (run f w sp)).flatMap (fun i =>
                       let q := 4 * (i / 4) + if f.b.toNat % 2 = 1 then 0 else i % 2
                       [q + 2, q]) }
  | .vote f => some { op := .vote, f := f, width := segWide f, n := 0, lanes := run f
                      mask := fun w sp => some (f.d.toNat % 8, fun l =>
                        let p := fun (j : Nat) => decide (w.v f.a.toNat j ≠ 0)
                        let xs := (group f w sp l).map p
                        (run f w sp).getLsbD l &&
                          (if f.d.toNat / 8 = 0 then xs.contains true
                           else if f.d.toNat / 8 = 1 then !xs.contains false
                           else if f.d.toNat / 8 = 2 then !(xs.contains true && xs.contains false)
                           else contributes f w sp l && p l))
                      res := fun _ _ _ _ => [] }
  | .scan f => some { op := .scan, f := f, width := segWide f
                      lanes := fun w sp => run f w sp &&& sp.guard (f.dist % 8) &&& ~~~w.helper
                      res := fun w sp _ i => [combined (f.b.toNat / 16) (f.b.toNat % 16)
                        (((group f w sp i).filter (fun j => if 8 ≤ f.dist then decide (j < i) else decide (j ≤ i))).map
                          (fun j => w.v f.a.toNat j))] }
  | .red f => some { op := .red, f := f, width := segWide f, lanes := run f
                     res := fun w sp _ i => [combined (f.b.toNat / 16) (f.b.toNat % 16)
                       ((group f w sp i).map (fun j => w.v f.a.toNat j))] }
  | .laneMatch f => some { op := .laneMatch, f := f, width := segWide f, n := 2, lanes := run f
                           res := fun w sp _ i =>
                             let same := fun (j : Nat) => decide (w.v f.a.toNat j = w.v f.a.toNat i) &&
                               (f.b.toNat % 2 = 0 || decide (w.v (f.a.toNat + 1) j = w.v (f.a.toNat + 1) i))
                             let m := maskWhere (fun j => (group f w sp i).contains j && same j)
                             [loWord m, hiWord m]
                           from_ := fun w sp => lanesOf (run f w sp) }
  | .rdlane f => some { op := .rdlane, f := f, width := segWide f, lanes := run f
                        res := fun w sp n i =>
                          let k := if f.bs = true then (f.srcB w 0).toNat % 64 % segment f w else f.dist
                          [reads f w sp n i (segBase f w i + k)]
                        from_ := fun w sp => (lanesOf (run f w sp)).map (fun i =>
                          segBase f w i + if f.bs = true then (f.srcB w 0).toNat % 64 % segment f w else f.dist) }
  | .wrlane f => some { op := .wrlane, f := f, width := segWide f
                        lanes := fun w sp => maskWhere (fun i => (run f w sp).getLsbD i && decide (i = segBase f w i + f.dist))
                        res := fun w _ _ _ => [f.srcB w 0]
                        from_ := fun _ _ => [] }
  | _ => none

/-- A cross-lane opcode completes, its index within the segment where it holds one (07 R172). -/
def CrossLane (i : Instr) (c : CrossRow) : Prop :=
  ∀ s s', Gathers s c.width s' →
    (∀ w sp, s.issuing = some (w, sp) → (c.op = .wrlane ∨ (c.op = .rdlane ∧ c.f.bs = false)) → c.f.dist < segment c.f w) →
    Writes (exec i s) s' { c.op.uses c.f with wide := true } c.f.d.toNat c.n c.lanes c.mask c.res
      (fun w sp => w.farPoison c.op c.f sp (c.from_ w sp))

/-! ## The pair frame -/

/-- A half computes what the F opcode of its name does in RNE, its D the C operand (02 R37, R38). -/
def halfOf (k : Nat) (a b c : Word) : Word :=
  if k = 0x01 then a + b else if k = 0x02 then a - b else if k = 0x03 then BitVec.ofNat 32 (a.toNat * b.toNat)
  else if k = 0x04 then a &&& b else if k = 0x05 then a ||| b else if k = 0x06 then a ^^^ b
  else if k = 0x07 then (if 32 ≤ b.toNat then 0 else BitVec.ofNat 32 (a.toNat * 2 ^ b.toNat))
  else if k = 0x08 then (if 32 ≤ b.toNat then 0 else BitVec.ofNat 32 (a.toNat / 2 ^ b.toNat))
  else if k = 0x09 then (if 32 ≤ b.toNat then (if a.toInt < 0 then 0xFFFFFFFF else 0) else BitVec.ofInt 32 (a.toInt / 2 ^ b.toNat))
  else if k = 0x0A then (if a.toInt ≤ b.toInt then a else b) else if k = 0x0B then (if a.toInt ≤ b.toInt then b else a)
  else if k = 0x0C then b else if k = 0x0D then BitVec.ofNat 32 (a.toNat * b.toNat + c.toNat)
  else if k = 0x10 then toF32 .rne (Val.add false (f32 a) (f32 b))
  else if k = 0x11 then toF32 .rne (Val.add false (f32 a) (f32 b).negate)
  else if k = 0x12 then toF32 .rne (Val.mul (f32 a) (f32 b))
  else if k = 0x13 then toF32 .rne (Val.fma false (f32 a) (f32 b) (f32 c))
  else if k = 0x14 then f32Extremum false a b else if k = 0x15 then f32Extremum true a b
  else
    let fm := if k < 0x1B then Fmt.f16 else Fmt.bf16
    let x := fun j => fm.decode (half a j)
    let y := fun j => fm.decode (half b j)
    if k = 0x18 ∨ k = 0x1B then eachHalf fm .rne (fun j => Val.add false (x j) (y j))
    else if k = 0x19 ∨ k = 0x1C then eachHalf fm .rne (fun j => Val.mul (x j) (y j))
    else eachHalf fm .rne (fun j => Val.fma false (x j) (y j) (fm.decode (half c j)))

/-- The B operand of a half (02 R38): IMM8 sign-extended, or its E4M3 value in the half's format. -/
def halfB (h : Half) (w : Wave) (i : Nat) : Word :=
  let k := h.pop.toNat % 64
  let e := Fmt.e4m3.decode h.b.toNat
  if h.pop.toNat < 64 then w.v h.b.toNat i
  else if k < 0x10 then BitVec.ofInt 32 h.b.toInt
  else if k < 0x18 then toF32 .rne e
  else eachHalf (if k < 0x1B then .f16 else .bf16) .rne (fun _ => e)

/-- What a half leaves in its D, in a lane. -/
def halfOut (h : Half) (w : Wave) (i : Nat) : Word := halfOf (h.pop.toNat % 64) (w.v h.a.toNat i) (halfB h w i) (w.v h.d.toNat i)

/-- A half that is not NOP. -/
def acts (h : Half) : Bool := h.pop.toNat % 64 ≠ 0

/-- What a pair frame names. -/
def pairUses (h0 h1 : Half) : Uses :=
  { vr := h0.reads ++ h1.reads
    vw := (if acts h0 then [h0.d.toNat] else []) ++ (if acts h1 then [h1.d.toNat] else []) }

/-- The value codes of a half that are not reserved (02 R37). -/
def known (h : Half) : Prop :=
  let k := h.pop.toNat % 64
  k ≤ 0x0D ∨ (0x10 ≤ k ∧ k ≤ 0x15) ∨ (0x18 ≤ k ∧ k ≤ 0x1D)

end Sys2Proof.Claims

open Sys2Proof Sys2Proof.Machine Sys2Proof.Claims

/-- The compares (06 R141, R145, R147) complete and write a mask: bit l is set where lane l lies in run and the condition holds, and every other
bit is clear; nothing else changes. VRDS writes the special register as each lane of run reads it (06 R143), and VFREE unbinds its range (05
R135). A group in shadow mode that reads a register of 15 R326 is not meant. -/
def Obligations.ComparesAndReads : Prop :=
  ((∀ f, LanewiseMask (.icmp f) .icmp f (fun w sp n i =>
     if f.d.toNat / 8 < 8 then intTest (f.d.toNat / 8) (f.srcA w sp n i 0) (f.srcB w i)
     else intTest (f.d.toNat / 8 - 8) (f.srcA2 w sp n i) (f.srcB2 w i))) ∧
   (∀ f, LanewiseMask (.fcmp f) .fcmp f (fun w sp n i =>
     floatTest (f.d.toNat / 8) (f32 (f.srcA w sp n i 0)) (f32 (f.srcB w i)))) ∧
   (∀ f, LanewiseMask (.dcmp f) .dcmp f (fun w sp n i =>
     floatTest (f.d.toNat / 8) (f64 (f.srcA2 w sp n i)) (f64 (f.srcBd w i))))) ∧
  ((∀ f s, f.mod = 0 → (∀ w sp, s.issuing = some (w, sp) → s.shadowOf w.group = false ∨ timingRegister f.b.toNat = false) →
     Writes (exec (.vrds f) s) s (FOp.uses .vrds f) f.d.toNat (FOp.dCount .vrds f.b) (run f) noMask
       (fun w sp _ i => [loWord (s.special w sp i f.b.toNat), hiWord (s.special w sp i f.b.toNat)])) ∧
   (∀ f s, Writes (exec (.vfree f) s) s { vfree := (List.range (f.b.toNat - f.a.toNat + 1)).map (f.a.toNat + ·) } 0 0 (run f) noMask
     (fun _ _ _ _ => [])))

/-- The cross-lane opcodes (07 R164–R172) complete with the value that their rule gives in each lane that they write, from the lanes of its
segment and the member mask, and nothing else changes. What a lane reads in another lane (07 R159, R160): 0 past the width or in an exited
lane, the lane's value in the split, and else one of the values that it has held since the two lanes stood in one split. An opcode that reads
a poisoned place in another lane is not meant (05 R127). -/
def Obligations.CrossLaneOpcodes : Prop :=
  (∀ i c, crossRow i = some c → CrossLane i c) ∧
  (∀ (w : Wave) sp n r i j,
     (w.width ≤ j → w.fetch sp n r i j = 0) ∧ (w.exited.getLsbD j = true → w.fetch sp n r i j = 0) ∧
     (j < w.width → w.exited.getLsbD j = false → sp.lanes.getLsbD j = true → w.fetch sp n r i j = w.v r j) ∧
     (j < w.width → w.exited.getLsbD j = false → sp.lanes.getLsbD j = false →
       w.fetch sp n r i j = w.v r j ∨ ∃ e ∈ Table.get nilAt w.hist (64 * r + j), w.parted i j < e.1 ∧ w.fetch sp n r i j = e.2))

/-- The source modifiers (02 R45, R46): the lane that lane i reads A from, by rotation, exchange or broadcast. The pair frame (02 R37, R38):
both halves read before either writes, each half's D takes its value in the live lanes, and nothing else changes. -/
def Obligations.ModifiersAndPairs : Prop :=
  (∀ (f : FArgs) (w : Wave) sp n i k,
     let seg := 2 ^ (f.mod.toNat / 64 % 8)
     let dist := f.mod.toNat % 64
     (f.mod.toNat / 512 = 0 → f.srcA w sp n i k = w.v (f.a.toNat + k) i) ∧
     (f.mod.toNat / 512 ≠ 0 → ∃ c, f.srcA w sp n i k = w.fetch sp c (f.a.toNat + k) i
       (if f.mod.toNat / 512 = 1 then i / seg * seg + (i % seg + dist) % seg
        else if f.mod.toNat / 512 = 2 then Nat.xor i dist
        else i / seg * seg + dist))) ∧
  (∀ h0 h1 s w sp, known h0 → known h1 → (acts h0 = true → acts h1 = true → h0.d ≠ h1.d) →
     Issues s (pairUses h0 h1) w sp →
     ∃ t v, exec (.pair h0 h1) s = .next t ∧ OnlyIssuer s t v ∧ OnlyRegisters w v s.cur.split (past s sp) ∧ (∀ k, v.s k = w.s k) ∧
       ∀ r l, l < 64 → v.v r l =
         if (w.liveOf sp).getLsbD l = true ∧ acts h0 = true ∧ r = h0.d.toNat then halfOut h0 w l
         else if (w.liveOf sp).getLsbD l = true ∧ acts h1 = true ∧ r = h1.d.toNat then halfOut h1 w l
         else w.v r l)


namespace Sys2Proof.Claims

open Sys2Proof.Machine

/-- What a scalar instruction names: `an` scalars from A, `bn` from B, `more`, and `dn` from D; marks free those of A and B (05 R120,
R131). -/
def scalarUses (a : SArgs) (dn an bn : Nat) (more : List Nat) : Uses :=
  let ar := (List.range an).map (a.a.toNat + ·)
  let br := (List.range bn).map (a.b.toNat + ·)
  { sr := ar ++ br ++ more, sw := (List.range dn).map (a.d.toNat + ·),
    sfree := (if a.la then ar else []) ++ (if a.lb then br else []) }

/-- A scalar instruction of a wave completes: the scalars from `d` on take the words of `res`, which takes the scalars as the split reads
them; a marked scalar reads 0; every other scalar and every vector register keeps its value; the split `sp` becomes `next sp` and goes on;
nothing else changes. -/
def WritesScalars (o : Out) (s : State) (u : Uses) (d : Nat) (next : Wave → Split → Split) (res : Wave → Split → (Nat → Word) → List Word) : Prop :=
  ∀ w sp, Issues s u w sp →
    ∃ t v, o = .next t ∧ OnlyIssuer s t v ∧ OnlyRegisters w v s.cur.split (past s (next (w.seen sp s.free) sp)) ∧
      (∀ r l, l < 64 → v.v r l = w.v r l) ∧
      (∀ k, v.s k = if d ≤ k ∧ k < d + (res (w.seen sp s.free) sp (w.seen sp s.free).s).length
        then (res (w.seen sp s.free) sp (w.seen sp s.free).s).getD (k - d) 0 else if k ∈ u.sfree then 0 else w.s k) ∧
      (∀ k, d ≤ k → k < d + (res (w.seen sp s.free) sp (w.seen sp s.free).s).length → v.sboundAt k = true)

/-- The same of service core `n` (16 R367): of the module nothing else changes, and of the core its scalars and its PC. -/
def WritesSvc (o : Out) (s : State) (n : Nat) (u : Uses) (d : Nat) (res : (Nat → Word) → List Word) : Prop :=
  s.cur.svc = some n →
    ∃ t c, o = .next t ∧ t = { s with svcs := t.svcs } ∧ (∀ k, k ≠ n → t.svc k = s.svc k) ∧ t.svc n = c ∧
      c = { s.svc n with regs := c.regs, banks := c.banks, pc := s.cur.next } ∧
      ∀ k, k < 1024 → c.s k = if d ≤ k ∧ k < d + (res (s.svc n).s).length then (res (s.svc n).s).getD (k - d) 0
        else if k ∈ u.sfree then 0 else (s.svc n).s k

/-- A pair of scalars. -/
def pair (r : Nat → Word) (k : Nat) : Dword := r (k + 1) ++ r k

/-- The two words of a 64-bit result. -/
def low (x : Dword) : List Word := [x.extractLsb' 0 32, x.extractLsb' 32 32]

/-- The position of the lowest set bit, all ones for 0 (05 R131). -/
def firstSet {n : Nat} (x : BitVec n) : Word :=
  match (List.range n).find? (fun k => x.getLsbD k) with
  | some k => BitVec.ofNat 32 k
  | none => 0xFFFFFFFF

/-- IMM16 sign-extended. -/
def simm (a : SArgs) : Word := BitVec.ofInt 32 a.imm.toInt

/-- IMM16 zero-extended. -/
def zimm (a : SArgs) : Word := BitVec.ofNat 32 a.imm.toNat

/-- A truth value as a word. -/
def bool (b : Bool) : Word := if b then 1 else 0

/-- A shift left; the width or more gives 0 (03 R82). -/
def shl {n : Nat} (x : BitVec n) (k : Nat) : BitVec n := if n ≤ k then 0 else BitVec.ofNat n (x.toNat * 2 ^ k)

/-- A logical shift right. -/
def shr {n : Nat} (x : BitVec n) (k : Nat) : BitVec n := if n ≤ k then 0 else BitVec.ofNat n (x.toNat / 2 ^ k)

/-- An arithmetic shift right; 32 or more gives copies of the sign. -/
def sra (x : Word) (k : Nat) : Word :=
  if 32 ≤ k then (if x.toInt < 0 then 0xFFFFFFFF else 0) else BitVec.ofInt 32 (x.toInt / 2 ^ k)

/-- The scalar ALU (05 R131): fields, how many scalars D, A and B name, further scalars read, and the result. -/
def scalarRow : Instr → Option (SArgs × Nat × Nat × Nat × List Nat × ((Nat → Word) → List Word))
  | .smov a => some (a, 1, 1, 0, [], fun r => [r a.a.toNat])
  | .smovi a => some (a, 1, 0, 0, [], fun _ => [simm a])
  | .smovhi a => some (a, 1, 0, 0, [a.d.toNat], fun r => [BitVec.ofNat 32 (a.imm.toNat * 2 ^ 16 + (r a.d.toNat).toNat % 2 ^ 16)])
  | .siadd a => some (a, 1, 1, 1, [], fun r => [r a.a.toNat + r a.b.toNat])
  | .siaddi a => some (a, 1, 1, 0, [], fun r => [r a.a.toNat + simm a])
  | .sisub a => some (a, 1, 1, 1, [], fun r => [r a.a.toNat - r a.b.toNat])
  | .simul a => some (a, 1, 1, 1, [], fun r => [BitVec.ofNat 32 ((r a.a.toNat).toNat * (r a.b.toNat).toNat)])
  | .simulhi a => some (a, 1, 1, 1, [], fun r => [BitVec.ofInt 32 ((r a.a.toNat).toInt * (r a.b.toNat).toInt / 2 ^ 32)])
  | .simulhn a => some (a, 1, 1, 1, [], fun r => [BitVec.ofNat 32 ((r a.a.toNat).toNat * (r a.b.toNat).toNat / 2 ^ 32)])
  | .sand a => some (a, 1, 1, 1, [], fun r => [r a.a.toNat &&& r a.b.toNat])
  | .sor a => some (a, 1, 1, 1, [], fun r => [r a.a.toNat ||| r a.b.toNat])
  | .sxor a => some (a, 1, 1, 1, [], fun r => [r a.a.toNat ^^^ r a.b.toNat])
  | .sandi a => some (a, 1, 1, 0, [], fun r => [r a.a.toNat &&& zimm a])
  | .sori a => some (a, 1, 1, 0, [], fun r => [r a.a.toNat ||| zimm a])
  | .sxori a => some (a, 1, 1, 0, [], fun r => [r a.a.toNat ^^^ zimm a])
  | .sshl a => some (a, 1, 1, 1, [], fun r => [shl (r a.a.toNat) (r a.b.toNat).toNat])
  | .sshr a => some (a, 1, 1, 1, [], fun r => [shr (r a.a.toNat) (r a.b.toNat).toNat])
  | .ssra a => some (a, 1, 1, 1, [], fun r => [sra (r a.a.toNat) (r a.b.toNat).toNat])
  | .sshli a => some (a, 1, 1, 0, [], fun r => [shl (r a.a.toNat) a.imm.toNat])
  | .sshri a => some (a, 1, 1, 0, [], fun r => [shr (r a.a.toNat) a.imm.toNat])
  | .ssrai a => some (a, 1, 1, 0, [], fun r => [sra (r a.a.toNat) a.imm.toNat])
  | .scmp a => some (a, 1, 1, 1, [], fun r => [bool (intTest (a.imm.toNat % 16) (r a.a.toNat) (r a.b.toNat))])
  | .scmpi a => some (a, 1, 1, 0, [], fun r => [bool (intTest (a.b.toNat % 16) (r a.a.toNat) (simm a))])
  | .ssel a => some (a, 1, 1, 1, [a.imm.toNat % 1024], fun r => [if r (a.imm.toNat % 1024) = 0 then r a.b.toNat else r a.a.toNat])
  | .smin a => some (a, 1, 1, 1, [], fun r => [if (r a.a.toNat).toInt ≤ (r a.b.toNat).toInt then r a.a.toNat else r a.b.toNat])
  | .smax a => some (a, 1, 1, 1, [], fun r => [if (r a.a.toNat).toInt ≤ (r a.b.toNat).toInt then r a.b.toNat else r a.a.toNat])
  | .sminn a => some (a, 1, 1, 1, [], fun r => [if (r a.a.toNat).toNat ≤ (r a.b.toNat).toNat then r a.a.toNat else r a.b.toNat])
  | .smaxn a => some (a, 1, 1, 1, [], fun r => [if (r a.a.toNat).toNat ≤ (r a.b.toNat).toNat then r a.b.toNat else r a.a.toNat])
  | .spopc a => some (a, 1, if a.imm.getLsbD 0 then 2 else 1, 0, [], fun r => [BitVec.ofNat 32 (
      if a.imm.getLsbD 0 then (List.range 64).countP (fun k => (pair r a.a.toNat).getLsbD k)
      else (List.range 32).countP (fun k => (r a.a.toNat).getLsbD k))])
  | .sclz a => some (a, 1, if a.imm.getLsbD 0 then 2 else 1, 0, [], fun r => [
      if a.imm.getLsbD 0 then (if pair r a.a.toNat = 0 then 64 else BitVec.ofNat 32 (63 - Nat.log2 (pair r a.a.toNat).toNat))
      else (if r a.a.toNat = 0 then 32 else BitVec.ofNat 32 (31 - Nat.log2 (r a.a.toNat).toNat))])
  | .sffs a => some (a, 1, if a.imm.getLsbD 0 then 2 else 1, 0, [], fun r => [
      if a.imm.getLsbD 0 then firstSet (pair r a.a.toNat) else firstSet (r a.a.toNat)])
  | .siadd64 a => some (a, 2, 2, 2, [], fun r => low (pair r a.a.toNat + pair r a.b.toNat))
  | .sisub64 a => some (a, 2, 2, 2, [], fun r => low (pair r a.a.toNat - pair r a.b.toNat))
  | .smov64 a => some (a, 2, 2, 0, [], fun r => low (pair r a.a.toNat))
  | .sshl64 a => some (a, 2, 2, 1, [], fun r => low (shl (pair r a.a.toNat) (r a.b.toNat).toNat))
  | .sshr64 a => some (a, 2, 2, 1, [], fun r => low (shr (pair r a.a.toNat) (r a.b.toNat).toNat))
  | _ => none

/-- What an F word with a REP prefix names at repeat k (02 R41): D and the C of a three-source opcode, A and B go up by k × stride where
their flag is set, be they registers or codes; a mark on an operand that does not step acts at the final repeat. -/
def stepped (r : RepArgs) (op : FOp) (f : FArgs) (k : Nat) : FArgs :=
  let n := k * 2 ^ r.stride.toNat
  let stepsA := r.sa = true ∧ (op.aCount f.d f.b ≠ 0 ∨ op = .vfree)
  let stepsB := r.sb = true ∧ f.bs = false ∧ (op.bIsCode = true ∨ op.bCount f.d ≠ 0)
  { f with
    d := if r.sd = true ∧ op.hasD f = true then f.d + BitVec.ofNat 8 n else f.d
    s := if r.sd = true ∧ op.cCount ≠ 0 then f.s + BitVec.ofNat 10 (n % 256) else f.s
    a := if stepsA then f.a + BitVec.ofNat 8 n else f.a
    b := if stepsB then f.b + BitVec.ofNat 8 n else f.b
    la := f.la && (decide stepsA || k = r.count.toNat)
    lb := f.lb && (op.converts || decide stepsB || k = r.count.toNat) }

/-- The lanewise instructions with register results. -/
def laneRow (i : Instr) : Option (FOp × FArgs × (Wave → Split → Nat → Nat → List Word)) :=
  (arithRow i).orElse fun _ => (bitRow i).orElse fun _ => (floatRow i).orElse fun _ => (doubleRow i).orElse fun _ =>
    (packedRow i).orElse fun _ => convertRow i

end Sys2Proof.Claims

open Sys2Proof Sys2Proof.Machine Sys2Proof.Claims

/-- The scalar ALU on an Oltus core (05 R131): the destination takes the row's value, last-read marks unbind their sources, and nothing else
changes. The scalar ALU on a service core (16 R367): the same on that core's own scalars, and its PC goes on. -/
def Obligations.ScalarArithmetic : Prop :=
  (∀ i a dn an bn more res s, scalarRow i = some (a, dn, an, bn, more, res) →
     WritesScalars (exec i s) s (scalarUses a dn an bn more) a.d.toNat (fun _ sp => sp) (fun _ _ r => res r)) ∧
  (∀ i a dn an bn more res s n, scalarRow i = some (a, dn, an, bn, more, res) →
     WritesSvc (exec i s) s n (scalarUses a dn an bn more) a.d.toNat res)

/-- Mask registers to and from scalars (05 R132): SMRD writes all 64 bits of mK, m0 being Live(split); SMWR writes m1 to m7 of the issuing split
whole. SRD and SWR (05 R134, 03 R65): SRD writes the split's view of a register, both words of %active and %cycle; SWR writes %frm, where 5
to 7 leave it unchanged. A group in shadow mode that reads a register of 15 R326 is not meant. On a service core SRD reads %coreid and
%cycle, and stops on every other number (05 R134, 16 R367). SWR of %prio (05 R134): bits 2 to 0, clamped to the launch's priority, for the
whole wave. SFREE (05 R135): sA to sB read 0 and are unbound, for the whole wave. -/
def Obligations.MasksAndSpecialRegisters : Prop :=
  ((∀ (a : SArgs) s, WritesScalars (exec (.smrd a) s) s { sw := [a.d.toNat, a.d.toNat + 1] } a.d.toNat (fun _ sp => sp)
     (fun w sp _ => low (if a.imm.toNat % 8 = 0 then sp.lanes &&& ~~~w.exited else Table.get (fun _ => 0) sp.masks (a.imm.toNat % 8)))) ∧
   (∀ (a : SArgs) s, a.imm.toNat % 8 ≠ 0 →
     WritesScalars (exec (.smwr a) s) s
       { sr := [a.a.toNat, a.a.toNat + 1], sfree := if a.la then [a.a.toNat, a.a.toNat + 1] else [] } 0
       (fun w sp => { sp with masks := Table.set (fun _ => 0) sp.masks (a.imm.toNat % 8) (pair w.s a.a.toNat) }) (fun _ _ _ => []))) ∧
  ((∀ (a : SArgs) s, (∀ w sp, s.issuing = some (w, sp) → s.shadowOf w.group = false ∨ timingRegister a.imm.toNat = false) →
     WritesScalars (exec (.srd a) s) s { sw := (List.range (if wideSpecial a.imm.toNat then 2 else 1)).map (a.d.toNat + ·) } a.d.toNat
       (fun _ sp => sp) (fun w sp _ => if wideSpecial a.imm.toNat then low (s.special w sp 0 a.imm.toNat)
         else [(s.special w sp 0 a.imm.toNat).extractLsb' 0 32])) ∧
   (∀ (a : SArgs) s, a.imm = 0x13 →
     WritesScalars (exec (.swr a) s) s { sr := [a.a.toNat], sfree := if a.la then [a.a.toNat] else [] } 0
       (fun w sp => if (w.s a.a.toNat).toNat % 8 < 5 then { sp with frm := (w.s a.a.toNat).extractLsb' 0 3 } else sp) (fun _ _ _ => []))) ∧
  ((∀ (a : SArgs) s n, a.imm = 0x0C → WritesSvc (exec (.srd a) s) s n {} a.d.toNat (fun _ => [BitVec.ofNat 32 (0x40 + n)])) ∧
   (∀ (a : SArgs) s n, a.imm = 0x20 → WritesSvc (exec (.srd a) s) s n {} a.d.toNat (fun _ => low (s.svc n).cycle)) ∧
   (∀ (a : SArgs) s n, s.cur.svc = some n → a.imm ≠ 0x0C → a.imm ≠ 0x20 →
     exec (.srd a) s = .next (s.svcHalt n { cause := .illegalOperand, addr := s.cur.iaddr } s.cur.iaddr))) ∧
  (∀ (a : SArgs) s w sp, a.imm = 0x1A → Issues s { sr := [a.a.toNat], sfree := if a.la then [a.a.toNat] else [] } w sp →
     ∃ t v, exec (.swr a) s = .next t ∧ OnlyIssuer s t v ∧
       v.sansRegs = ({ w with prio := min (((w.seen sp s.free).s a.a.toNat).toNat % 8) w.prioMax }.setSplit s.cur.split (some (past s sp))).sansRegs ∧
       (∀ r l, l < 64 → v.v r l = w.v r l) ∧ ∀ k, v.s k = if a.la = true ∧ k = a.a.toNat then 0 else w.s k) ∧
  (∀ (a : SArgs) s, WritesScalars (exec (.sfree a) s) s
     { sfree := (List.range (a.b.toNat - a.a.toNat + 1)).map (a.a.toNat + ·) } 0 (fun _ sp => sp) (fun _ _ _ => []))


namespace Sys2Proof.Claims

open Sys2Proof.Machine

/-- The address that a word offset of a control opcode names (04 R101). -/
def away (s : State) (t : BitVec 24) : Dword := s.cur.caddr + BitVec.ofInt 64 (t.toInt * 8)

/-- The condition of BRS on a signed number (04 R102). -/
def branchesOn (c : CArgs) (x : Int) : Bool := decide ((c.k = 0 ∧ x = 0) ∨ (c.k = 1 ∧ x ≠ 0) ∨ (c.k = 2 ∧ x < 0) ∨ (c.k = 3 ∧ 0 ≤ x) ∨ (c.k = 4 ∧ 0 < x) ∨ (c.k = 5 ∧ x ≤ 0))

/-- Control may be transferred: the instruction's last word is not the end address of the top loop entry (04 R101). -/
def mayTransfer (s : State) (sp : Split) : Prop := ∀ e ∈ sp.loops.head?, e.stop ≠ s.cur.caddr

/-- An instruction that names `u` completes by giving its split the context `after`, where `ok` holds: nothing else changes. -/
def Goes (o : Out) (s : State) (u : Uses) (ok : Wave → Split → Prop) (after : Wave → Split → Split) : Prop :=
  ∀ w sp, Issues s u w sp → ok (w.seen sp s.free) sp →
    ∃ t v, o = .next t ∧ OnlyIssuer s t v ∧ OnlyRegisters w v s.cur.split (after (w.seen sp s.free) sp) ∧
      (∀ r l, l < 64 → v.v r l = w.v r l) ∧ ∀ k, v.s k = w.s k

/-- The lowest lane of a mask. -/
def firstLane (m : Dword) (l : Nat) : Prop := m.getLsbD l = true ∧ ∀ j < l, m.getLsbD j = false

/-- The groups of an instruction that may diverge go on their ways (04 R91): a group alone takes the split along; with more, the parts in
the order of their lowest lanes diverge from the split, as `Obligations.DivergentBranches` says, or the wave stops for want of room. `w'` is
the wave with what the instruction writes besides; a divergence that writes a spill entry is left to the checks of 09. -/
def Sends (s t : State) (w w' : Wave) (sp : Split) (stay : Branch) (others : List Branch) (tag : Option (Dword × BitVec 16)) (defer : Bool) :
    Prop :=
  (others = [] → t = s.setWave s.cur.core s.cur.wave (some (w'.setSplit s.cur.split (some { stay.next with lanes := sp.lanes })))) ∧
  (others ≠ [] → ∃ parts, parts.Perm others ∧
    parts.Pairwise (fun a b => ∀ i j, firstLane a.lanes i → firstLane b.lanes j → i ≤ j) ∧
    (w'.diverge s.cur.split sp stay parts (tag.map Prod.fst) ((tag.map Prod.snd).getD 0) defer = none →
      t = s.stopHere .divergenceSpillLimit) ∧
    ∀ v, w'.diverge s.cur.split sp stay parts (tag.map Prod.fst) ((tag.map Prod.snd).getD 0) defer = some v →
      w.spillTouched v = [] → t = s.setWave s.cur.core s.cur.wave (some v))

/-- The union of masks. -/
def union (ms : List Dword) : Dword := ms.foldl (· ||| ·) 0

/-- The groups of a branch with candidates (mask and address), in candidate order, less the empty ones (04 R103). `next` is the address of the
next instruction. -/
def candidateGroups (live next : Dword) (sp : Split) (cs : List (Dword × Dword)) : List Branch :=
  ((List.range cs.length).map (fun j =>
    (⟨live &&& (cs.getD j (0, 0)).1 &&& ~~~(union ((cs.take j).map Prod.fst)), sp.goto next (cs.getD j (0, 0)).2⟩ : Branch))).filter
    (fun b => decide (b.lanes ≠ 0))

/-- A branch on candidates: the lanes in no mask fall through and stay, or else the first group stays; a tag opens with the rejoin address at
the current depth (04 R103). -/
def BranchesOn (o : Out) (s : State) (c : CArgs) (cs : Wave → Split → List (Dword × Dword)) : Prop :=
  ∀ w sp, s.issuing = some (w, sp) → mayTransfer s sp → w.liveOf sp ≠ 0 →
    ∃ t, o = .next t ∧
      let rest := w.liveOf sp &&& ~~~(union ((cs w sp).map Prod.fst))
      let taken := candidateGroups (w.liveOf sp) s.cur.next sp (cs w sp)
      if rest = 0 then
        match taken with
        | [] => False
        | stay :: others => Sends s t w w sp stay others (some (away s c.j, sp.depth)) c.p
      else Sends s t w w sp ⟨rest, sp.advance s.cur.caddr s.cur.next⟩ taken (some (away s c.j, sp.depth)) c.p

/-- The loop stack of a split whose PC becomes another address: the entries it leaves are popped one by one from the top (04 R101). -/
def leaves (depth : BitVec 16) (pc : Dword) (es : List LoopEntry) : List LoopEntry :=
  es.dropWhile (fun e => decide ((e.depth = depth ∧ (pc.toNat < e.start.toNat ∨ e.stop.toNat < pc.toNat)) ∨ depth.toNat < e.depth.toNat))

/-- An indirect transfer sorts the live lanes by the address that each reads in v[A:A+1] (04 R105, R106): the lanes that agree with the lowest
live lane stay, every other distinct address is a part; `go` is the context of a part that goes to an address. -/
def ByAddress (w : Wave) (sp : Split) (a : Nat) (go : Dword → Split) (stay : Branch) (others : List Branch) : Prop :=
  let at_ := fun (l : Nat) => w.v (a + 1) l ++ w.v a l
  let lanes := fun (b : Branch) (x : Dword) => b.next = go x ∧
    ∀ l < 64, b.lanes.getLsbD l = ((w.liveOf sp).getLsbD l && decide (at_ l = x))
  (∀ l, firstLane (w.liveOf sp) l → lanes stay (at_ l)) ∧
  (∀ b ∈ others, ∃ l, l < 64 ∧ (w.liveOf sp).getLsbD l = true ∧ stay.lanes.getLsbD l = false ∧ lanes b (at_ l)) ∧
  (∀ l, l < 64 → (w.liveOf sp).getLsbD l = true → stay.lanes.getLsbD l = false → ∃ b ∈ others, b.lanes.getLsbD l = true) ∧
  others.Pairwise (fun a b => a.lanes &&& b.lanes = 0)

/-- The wave `w₁` has had room made for what the instruction names: `w` but for the bookkeeping of its registers. -/
def Readied (s s₁ : State) (w w₁ : Wave) : Prop :=
  OnlyIssuer s s₁ w₁ ∧ w₁.sansRegs = w.sansRegs ∧ (∀ r l, l < 64 → w₁.v r l = w.v r l) ∧ ∀ k, w₁.s k = w.s k

/-- The wave `w₂` is `w₁` with the return address in v[D:D+1] of every live lane (04 R104, R105). -/
def Returns (w₁ w₂ : Wave) (sp : Split) (d : Nat) (addr : Dword) : Prop :=
  w₂.sansRegs = w₁.sansRegs ∧ (∀ k, w₂.s k = w₁.s k) ∧
  ∀ r l, l < 64 → w₂.v r l =
    if (w₁.liveOf sp).getLsbD l = true ∧ r = d then addr.extractLsb' 0 32
    else if (w₁.liveOf sp).getLsbD l = true ∧ r = d + 1 then addr.extractLsb' 32 32
    else w₁.v r l

/-- The wave that a stop of cause `c` leaves: it issues no more, and holds the cause and the place until its report (14 R301). -/
def halted (w : Wave) (c : StopCause) (addr pc : Dword) (k : Nat) : Wave :=
  { w with run := .draining, halt := some { info := { cause := c, addr := addr }, pc := pc, split := k } }

/-- The stops an instruction takes: of a wave that runs and is no replay, and whose cause neither kills nor parks, the wave `w` is halted and
nothing else changes (14 R299–R301). -/
def StopsAt (s t : State) (w : Wave) (c : StopCause) (addr : Dword) : Prop :=
  w.run = .running → s.shadowOf w.group = false →
    t = s.setWave s.cur.core s.cur.wave (some (halted w c addr s.cur.iaddr s.cur.split))

/-- The instructions that transfer control (04 R101). -/
def transfers : Instr → Bool
  | .bra _ | .brc _ | .brs _ | .brm _ _ | .call _ | .calli _ | .ret _ | .loop _ | .loopx _ => true
  | _ => false

/-- The context that fused parts take over from the first (04 R90). -/
def sameContext (a b : Split) : Prop :=
  a.pc = b.pc ∧ a.depth = b.depth ∧ a.loops = b.loops ∧ a.frm = b.frm ∧ a.sig = b.sig ∧ a.rep = b.rep

end Sys2Proof.Claims

open Sys2Proof Sys2Proof.Machine Sys2Proof.Claims

/-- Transfers of control (04 R101): the PC becomes the target, loop entries that it leaves are popped one by one from the top where the target
is not the next instruction, and the split's lanes, depth, tag, masks, rounding mode and signature stay. The loop end (04 R110): after an instruction that transfers no control and whose
last word ends the top loop entry at the current depth, a count over 1 falls by 1 and the PC goes to the start; else the entry is popped and
the next one is tested. LOOP and LOOPX (04 R109, R111): LOOP pushes an entry, or passes over a body of count 0; its count is an immediate
where its scalar field is all ones. LOOPX leaves the loop for the selected lanes. -/
def Obligations.BranchesAndLoops : Prop :=
  (∀ (sp : Split) next pc, (sp.goto next pc).pc = pc ∧
     (sp.goto next pc).loops = (if pc = next then sp.loops else leaves sp.depth pc sp.loops) ∧
     (sp.goto next pc).lanes = sp.lanes ∧ (sp.goto next pc).depth = sp.depth ∧ (sp.goto next pc).tag = sp.tag ∧
     (sp.goto next pc).rejoin = sp.rejoin ∧ (sp.goto next pc).rdepth = sp.rdepth ∧ (sp.goto next pc).masks = sp.masks ∧
     (sp.goto next pc).frm = sp.frm ∧ (sp.goto next pc).sig = sp.sig) ∧
  (∀ (sp : Split) last next,
     (sp.loops = [] → (sp.advance last next).pc = next ∧ (sp.advance last next).loops = []) ∧
     ∀ e es, sp.loops = e :: es →
       (¬ (e.stop = last ∧ e.depth = sp.depth) → (sp.advance last next).pc = next ∧ (sp.advance last next).loops = e :: es) ∧
       (e.stop = last → e.depth = sp.depth → 1 < e.count.toNat →
         (sp.advance last next).pc = e.start ∧ (sp.advance last next).loops = { e with count := e.count - 1 } :: es) ∧
       (e.stop = last → e.depth = sp.depth → e.count.toNat ≤ 1 →
         (sp.advance last next).pc = (({ sp with loops := es } : Split).advance last next).pc ∧
         (sp.advance last next).loops = (({ sp with loops := es } : Split).advance last next).loops)) ∧
  ((∀ c s, let k := c.j.toNat / 2 ^ 14
     let n := fun (w : Wave) => if k = 0x3FF then BitVec.ofNat 32 (c.j.toNat % 2 ^ 14) else w.s k
     Goes (exec (.loop c) s) s { sr := if k = 0x3FF then [] else [k] }
       (fun w sp => mayTransfer s sp ∧ (n w = 0 ∨ sp.loops.length < 4))
       (fun w sp => if n w = 0 then sp.goto s.cur.next (away s c.t + 8)
         else
           let x := sp.goto s.cur.next s.cur.next
           { x with loops := { start := s.cur.next, stop := away s c.t, count := n w, depth := sp.depth } :: x.loops })) ∧
   (∀ c s w sp e es, s.cur.svc = none → s.issuing = some (w, sp) → mayTransfer s sp → sp.loops = e :: es → e.depth = sp.depth → w.liveOf sp ≠ 0 →
     let sel := if c.k = 0 then w.liveOf sp else w.liveOf sp &&& w.mask sp c.k.toNat
     let out := ({ sp with loops := es } : Split).goto s.cur.next (e.stop + 8)
     ∃ t, exec (.loopx c) s = .next t ∧
       (sel = w.liveOf sp → t = s.setWave s.cur.core s.cur.wave (some (w.setSplit s.cur.split (some { out with lanes := sp.lanes })))) ∧
       (sel = 0 → t = s.setWave s.cur.core s.cur.wave (some (w.setSplit s.cur.split (some (past s sp))))) ∧
       (sel ≠ w.liveOf sp → sel ≠ 0 → Sends s t w w sp ⟨w.liveOf sp &&& ~~~sel, sp.advance s.cur.caddr s.cur.next⟩ [⟨sel, out⟩]
         (some (e.stop + 8, sp.depth)) c.p)))

/-- BRA and BRS (04 R102), NOP (02 R31), YIELD (04 R112) and SIGRST (15 R344) complete for the whole split. NOP, BRA and BRS on a service core
(16 R367): the PC alone moves. -/
def Obligations.WholeSplitControl : Prop :=
  ((∀ c s, Goes (exec (.bra c) s) s {} (fun _ sp => mayTransfer s sp) (fun _ sp => sp.goto s.cur.next (away s c.t))) ∧
   (∀ c s, Goes (exec (.brs c) s) s { sr := [c.j.toNat / 2 ^ 14] } (fun _ sp => mayTransfer s sp) (fun w sp =>
     if branchesOn c (w.s (c.j.toNat / 2 ^ 14)).toInt = true then sp.goto s.cur.next (away s c.t) else past s sp)) ∧
   (∀ s, Goes (exec .nop s) s {} (fun _ _ => True) (fun _ sp => past s sp)) ∧
   (∀ s, Goes (exec .yield s) s {} (fun _ _ => True) (fun _ sp => { past s sp with yld := true, yldLeft := 32 })) ∧
   (∀ s, Goes (exec .sigrst s) s {} (fun _ _ => True) (fun _ sp => past s { sp with sig := 0 }))) ∧
  ((∀ s n, s.cur.svc = some n → exec .nop s = .next (s.onSvc n (fun x => { x with pc := s.cur.next }))) ∧
   (∀ c s n, s.cur.svc = some n → exec (.bra c) s = .next (s.onSvc n (fun x => { x with pc := away s c.t }))) ∧
   (∀ c s n, s.cur.svc = some n →
     let pc := if branchesOn c ((s.svc n).s (c.j.toNat / 2 ^ 14)).toInt = true then away s c.t else s.cur.next
     exec (.brs c) s = .next (s.onSvc n (fun x => { x with pc := pc }))))

/-- BRC and BRM (04 R103): each live lane goes to the first candidate whose mask holds it, and a lane in no mask falls through. Divergence (04
R91–R93): it fails exactly for want of room. Else the stay group keeps the split's entry; with policy 0 the parts take the free entries from
the lowest on, as running splits; the others become runnable deferred paths, younger than those there; and an open tag has a new record of
the lowest free number, whose members are the split's live lanes and whose outer context is the split's. -/
def Obligations.DivergentBranches : Prop :=
  ((∀ c s, BranchesOn (exec (.brc c) s) s c (fun w sp => [(w.mask sp c.k.toNat, away s c.t)])) ∧
   (∀ c ms s, BranchesOn (exec (.brm c ms) s) s c (fun w sp =>
     (w.mask sp c.k.toNat, away s c.t) :: (ms.flatMap (fun m => [(m.ka, m.ta), (m.kb, m.tb)])).filterMap (fun t =>
       if t.1 = 0 then none else some (w.mask sp t.1.toNat, away s t.2))))) ∧
  (∀ (w : Wave) k sp stay parts (rejoin : Option Dword) rdepth defer, w.split k = some sp →
     let free := (List.range 4).filter (fun e => (w.split e).isNone)
     let n := if defer = true then 0 else min parts.length free.length
     let room := (8 - (w.records.filter (fun r => r.inReg)).length) + (8 - (w.paths.filter (fun p => p.queued)).length) +
       (64 - ((w.paths.filter (fun p => !p.queued)).length + (w.records.filter (fun r => !r.inReg)).length))
     let need := (if rejoin.isSome = true then 1 else 0) + (parts.length - n)
     (room < need → w.diverge k sp stay parts rejoin rdepth defer = none) ∧
     (need ≤ room → (∃ t, 1 ≤ t ∧ t ≤ 72 ∧ ∀ r ∈ w.records, r.tag ≠ t) →
       ∃ v tag, w.diverge k sp stay parts rejoin rdepth defer = some v ∧
         let ctx := fun (b : Branch) => { b.next with
           lanes := b.lanes, timer := 0,
           tag := if rejoin.isSome = true then tag else b.next.tag,
           rejoin := rejoin.getD b.next.rejoin,
           rdepth := if rejoin.isSome = true then rdepth else b.next.rdepth }
         v.split k = some { ctx stay with timer := stay.next.timer } ∧
         (∀ j < n, v.split (free.getD j 4) = (parts[j]?).map (fun b => { ctx b with state := 0 })) ∧
         (∀ e, e ≠ k → e ∉ free.take n → v.split e = w.split e) ∧
         v.paths.map (fun p => (p.ctx, p.runnable)) =
           w.paths.map (fun p => (p.ctx, p.runnable)) ++ (parts.drop n).map (fun b => (ctx b, true)) ∧
         (rejoin = none → v.records = w.records) ∧
         (∀ a, rejoin = some a → (∀ r ∈ w.records, r.tag ≠ tag) ∧ 1 ≤ tag ∧ tag ≤ 72 ∧
           (∀ t, 1 ≤ t → t < tag → ∃ r ∈ w.records, r.tag = t) ∧
           ∃ r, v.records.map (fun x => { x with inReg := true }) = w.records.map (fun x => { x with inReg := true }) ++ [r] ∧
             r.tag = tag ∧ r.rejoin = a ∧ r.rdepth = rdepth ∧ r.members = w.liveOf sp ∧ r.arrived = 0 ∧ r.broken = false ∧
             r.outerTag = sp.tag ∧ r.outerRejoin = sp.rejoin ∧ r.outerDepth = sp.rdepth ∧ r.parked = []) ∧
         v = { w with splits := v.splits, paths := v.paths, records := v.records, made := v.made, hist := v.hist, together := v.together }))

/-- CALL, CALLI and RET (04 R104–R106). CALL writes the return address in every live lane, the depth rises and the PC becomes the target. CALLI
and RET send each group of equal addresses its way, the lowest live lane's group staying; CALLI opens a tag at the return address where they
disagree, and RET opens none. -/
def Obligations.CallsAndReturns : Prop :=
  (∀ c s w sp, let d := c.j.toNat / 2 ^ 16
    Issues s { vw := [d, d + 1] } w sp → mayTransfer s sp → sp.depth ≠ 0xFFFF →
    ∃ t v, exec (.call c) s = .next t ∧ OnlyIssuer s t v ∧
      OnlyRegisters w v s.cur.split (({ sp with depth := sp.depth + 1 } : Split).goto s.cur.next (away s c.t)) ∧ (∀ k, v.s k = w.s k) ∧
      ∀ r l, l < 64 → v.v r l =
        if (w.liveOf sp).getLsbD l = true ∧ r = d then s.cur.next.extractLsb' 0 32
        else if (w.liveOf sp).getLsbD l = true ∧ r = d + 1 then s.cur.next.extractLsb' 32 32
        else w.v r l) ∧
  (∀ c s w sp, let d := c.j.toNat / 2 ^ 16
    let a := c.j.toNat / 2 ^ 8 % 256
    Issues s { vr := [a, a + 1], vw := [d, d + 1] } w sp → mayTransfer s sp → sp.depth ≠ 0xFFFF → w.liveOf sp ≠ 0 →
    ∃ t s₁ w₁ w₂ stay others, exec (.calli c) s = .next t ∧ Readied s s₁ w w₁ ∧ Returns w₁ w₂ sp d s.cur.next ∧
      ByAddress w sp a (fun x => ({ sp with depth := sp.depth + 1 } : Split).goto s.cur.next x) stay others ∧
      Sends s₁ t w₁ w₂ sp stay others (some (s.cur.next, sp.depth)) c.p) ∧
  (∀ c s w sp, let a := c.j.toNat / 2 ^ 8 % 256
    Issues s { vr := [a, a + 1] } w sp → mayTransfer s sp → sp.depth ≠ 0 → w.liveOf sp ≠ 0 →
    ∃ t s₁ w₁ stay others, exec (.ret c) s = .next t ∧ Readied s s₁ w w₁ ∧
      ByAddress w sp a (fun x => ({ sp with
        depth := sp.depth - 1, loops := leaves (sp.depth - 1) x sp.loops } : Split).goto s.cur.next x) stay others ∧ Sends s₁ t w₁ w₁ sp stay others none c.p)

/-- FUSE (04 R107, R99, R100): at a width of 8 or more it goes on from the wave's sole live split, and else waits there; at 4 it goes on where
the split belongs to no miss pair, and waits for a partner that is not there. The fields of a fused split (04 R90): the union of lanes, each
lane's mask bits from the part that held it, and the first part's context. -/
def Obligations.Fusing : Prop :=
  ((∀ c s s' w sp, let e := 2 ^ (c.j.toNat + 2)
     s.issuing = some (w, sp) → 8 ≤ min e w.width → Gathers s e s' → s.cur.svc = none → s.cur.aux = none →
     ∃ w' x, s'.issuing = some (w', x) ∧
       exec (.fuse c) s = .next (s'.setWave s'.cur.core s'.cur.wave (some (w'.setSplit s'.cur.split (some (past s' x)))))) ∧
   (∀ c s w sp, s.issuing = some (w, sp) → min (2 ^ (c.j.toNat + 2)) w.width < 8 → s.cur.svc = none → sp.miss = none →
     exec (.fuse c) s = .next (s.setWave s.cur.core s.cur.wave (some (w.setSplit s.cur.split
       (some (past s { sp with state := 0, waitsAt := false, missWait := false, timer := 0 })))))) ∧
   (∀ c s w sp p q, s.issuing = some (w, sp) → min (2 ^ (c.j.toNat + 2)) w.width < 8 → sp.miss = some p → w.split p = some q →
     q.waitsHere sp.pc sp.depth = false → sp.state ≠ 1 →
     exec (.fuse c) s = .next (s.setWave s.cur.core s.cur.wave (some (w.setSplit s.cur.split
       (some { sp with state := 1, waitsAt := true, missWait := true, timer := 0 }))))) ∧
   (∀ c s w sp, s.issuing = some (w, sp) → 8 ≤ min (2 ^ (c.j.toNat + 2)) w.width → sp.rep = 0 → w.fuseHere s.cur.split = (w, s.cur.split) →
     w.soleSplit s.cur.split = false → sp.state = 0 → (∃ e < 4, w.split e = none) →
     exec (.fuse c) s = .next (s.setWave s.cur.core s.cur.wave (some (w.setSplit s.cur.split
       (some { sp with state := 1, waitsAt := true, missWait := false, timer := 0 })))))) ∧
  (∀ (a : Split) (rest : List Split) (tagged : Split → Split), (∀ x, (tagged x).lanes = x.lanes ∧ (tagged x).masks = x.masks) →
     (∀ l, l < 64 → (fuseSplits (a :: rest) tagged).lanes.getLsbD l = (a :: rest).any (fun p => p.lanes.getLsbD l)) ∧
     (∀ p ∈ a :: rest, ∀ l, l < 64 → p.lanes.getLsbD l = true → (∀ q ∈ a :: rest, q.lanes.getLsbD l = true → q = p) →
       ∀ m, 1 ≤ m → m < 8 → (Table.get (fun _ => 0) (fuseSplits (a :: rest) tagged).masks m).getLsbD l =
         (Table.get (fun _ => 0) p.masks m).getLsbD l) ∧
     (∀ l, l < 64 → (∀ p ∈ a :: rest, p.lanes.getLsbD l = false) →
       ∀ m, 1 ≤ m → m < 8 → (Table.get (fun _ => 0) (fuseSplits (a :: rest) tagged).masks m).getLsbD l =
         (Table.get (fun _ => 0) a.masks m).getLsbD l) ∧
     sameContext (fuseSplits (a :: rest) id) a ∧ (fuseSplits (a :: rest) id).timer = 0 ∧ (fuseSplits (a :: rest) id).miss = none ∧
     (fuseSplits (a :: rest) id).yld = false)

/-- EXIT (04 R108): where no spill entry that it touches faults (04 R93), the live lanes leave the wave, every record and their queries;
registers stay as they are. SIGCHK (15 R344, R339) goes on
and clears a signature that agrees. TRAP (14 R317) stops after itself, BKPT (14 R318) and a transfer at a loop's end (04 R101) before
themselves, with their causes. -/
def Obligations.ExitAndStops : Prop :=
  (∀ s w sp, s.issuing = some (w, sp) →
     let v := w.exitLanes s.cur.split (w.liveOf sp)
     (w.spillTouched v).findSome? (s.spillFault s.cur.core s.cur.wave w) = none →
     (∃ t, exec .exit s = .next t ∧ t.wave s.cur.core s.cur.wave = some v ∧
       (w.spillTouched v = [] → t = s.setWave s.cur.core s.cur.wave (some v))) ∧ v.exited = w.exited ||| w.liveOf sp ∧
       (∀ r ∈ v.records, r.members &&& w.liveOf sp = 0 ∧ ∃ r' ∈ w.records, r'.tag = r.tag) ∧
       (∀ l, l < 64 → (w.liveOf sp).getLsbD l = true → ∀ q, (l, q) ∉ v.queries) ∧
       v.vregs = w.vregs ∧ v.sregs = w.sregs ∧ v.ops = w.ops ∧ v.run = w.run ∧ v.group = w.group) ∧
  ((∀ c s, Goes (exec (.sigchk c) s) s {} (fun _ sp => sp.sig = c.t ++ (c.j.extractLsb' 16 8 : Byte)) (fun _ sp => past s { sp with sig := 0 })) ∧
   (∀ c s w sp, s.cur.svc = none → s.issuing = some (w, sp) →
     ∃ t, exec (.trap c) s = .next t ∧
       StopsAt s t (w.setSplit s.cur.split (some (past s sp))) .softwareTrap (BitVec.ofNat 64 c.j.toNat)) ∧
   (∀ s w sp, s.cur.svc = none → s.issuing = some (w, sp) →
     ∃ t, exec .bkpt s = .next t ∧ StopsAt s t w .breakpoint s.cur.iaddr) ∧
   (∀ i s w sp, transfers i = true → s.cur.svc = none → s.issuing = some (w, sp) → ¬ mayTransfer s sp →
     ∃ t, exec i s = .next t ∧ StopsAt s t w .illegalOperand s.cur.iaddr))


namespace Sys2Proof.Claims

open Sys2Proof.Machine

/-! ## Memory operations at issue -/

/-- An instruction that makes a memory operation completes: with no lane in `run` it only goes on; else the operation stands behind the wave's
others, and its checks are made at once where the TLBs hold what they need, or else it asks for the walks that it needs (09 R199–R201, R209;
14 R303). `want` says what the operation is. Every
register keeps its value; nothing else changes at issue but the count of free draws. -/
def IssuesOp (o : Out) (s : State) (u : Uses) (dst : Dest) (lanes : Wave → Split → Dword) (want : Wave → Split → MemOp → Prop) : Prop :=
  ∀ w sp, Issues s u w sp → w.ops.length < 16 →
    (lanes (w.seen sp s.free) sp = 0 → ∃ t v, o = .next t ∧ OnlyIssuer s t v ∧ OnlyRegisters w v s.cur.split (past s sp) ∧
      (∀ d m, dst = .vec d m → ∀ r q, d ≤ r → r < d + m → q ∈ quadsOf sp.lanes → v.bound r q = true) ∧
      (∀ r l, l < 64 → v.v r l = kept w sp u r l) ∧ ∀ n, v.s n = if n ∈ u.sfree then 0 else w.s n) ∧
    (lanes (w.seen sp s.free) sp ≠ 0 → ∃ p v op n, OnlyIssuer s p v ∧
      v.sansRegs = ({ w.setSplit s.cur.split (some (past s sp)) with ops := w.ops ++ [op], nextOp := w.nextOp + 1 } : Wave).sansRegs ∧
      (∀ r l, l < 64 → v.v r l = kept w sp u r l) ∧ (∀ n, v.s n = if n ∈ u.sfree then 0 else w.s n) ∧
      (∀ d m, dst = .vec d m → ∀ r q, d ≤ r → r < d + m → q ∈ quadsOf sp.lanes → v.bound r q = true) ∧
      op.id = w.nextOp ∧ op.split = s.cur.split ∧ op.pc = s.cur.iaddr ∧ op.words = s.cur.words ∧ op.passed = false ∧ op.fault = none ∧
      op.units = [] ∧ op.run = lanes (w.seen sp s.free) sp ∧ op.dst = dst ∧ want (w.seen sp s.free) sp op ∧
      ∃ t, o = .next { t with free := t.free + n } ∧
        t = if p.opKnown s.cur.core s.cur.wave v op = true then p.checkOp s.cur.core s.cur.wave op.id
          else p.requestWalks s.cur.core s.cur.wave v op)

/-- run of a memory instruction (09 R209, 08 R180). -/
def runM (a : MArgs) (w : Wave) (sp : Split) : Dword := if sp.rep = 0 then w.liveOf sp &&& sp.guard a.g.toNat else sp.repRun

/-- A memory instruction on vector registers: the bytes of a lane's access, whether a short load is sign-extended, how many registers it
loads to and stores from. -/
structure MemRow where
  a : MArgs
  space : Space
  access : AccKind
  kind : OpKind
  size : Nat
  signed : Bool := false
  nd : Nat := 0
  nb : Nat := 0

/-- Bytes, extension and registers of a load (09 R208, 08 R179). -/
def loadRow (a : MArgs) (space : Space) (access : AccKind) : LoadSize → MemRow
  | .n8 => { a := a, space := space, access := access, kind := .load, size := 1, nd := 1 }
  | .i8 => { a := a, space := space, access := access, kind := .load, size := 1, signed := true, nd := 1 }
  | .n16 => { a := a, space := space, access := access, kind := .load, size := 2, nd := 1 }
  | .i16 => { a := a, space := space, access := access, kind := .load, size := 2, signed := true, nd := 1 }
  | .b32 => { a := a, space := space, access := access, kind := .load, size := 4, nd := 1 }
  | .b64 => { a := a, space := space, access := access, kind := .load, size := 8, nd := 2 }
  | .b128 => { a := a, space := space, access := access, kind := .load, size := 16, nd := 4 }

/-- Bytes and registers of a store. -/
def storeRow (a : MArgs) (space : Space) (access : AccKind) : StoreSize → MemRow
  | .b8 => { a := a, space := space, access := access, kind := .store, size := 1, nb := 1 }
  | .b16 => { a := a, space := space, access := access, kind := .store, size := 2, nb := 1 }
  | .b32 => { a := a, space := space, access := access, kind := .store, size := 4, nb := 1 }
  | .b64 => { a := a, space := space, access := access, kind := .store, size := 8, nb := 2 }
  | .b128 => { a := a, space := space, access := access, kind := .store, size := 16, nb := 4 }

/-- A global atomic: a compare and swap takes a compare and a new value (09 R211). -/
def atomRow (a : MArgs) (wide : Bool) (o : AtomOp) : MemRow :=
  let n := if wide then 2 else 1
  { a := a, space := .global, access := .atomic, kind := .atomic o, size := 4 * n, nd := n, nb := if o = .cas then 2 * n else n }

/-- A scratchpad atomic (08 R182). -/
def scratchAtomRow (a : MArgs) (o : AtomOp) : MemRow :=
  { a := a, space := .scratch, access := .scratchpad, kind := .atomic o, size := 4, nd := 1, nb := if o = .cas then 2 else 1 }

/-- The memory instructions on vector registers. -/
def memRow : Instr → Option MemRow
  | .ldg sz a => some (loadRow a .global .load sz)
  | .stg sz a => some (storeRow a .global .store sz)
  | .ldp sz a => some (loadRow a .priv .load sz)
  | .stp sz a => some (storeRow a .priv .store sz)
  | .lds sz a => some (loadRow a .scratch .scratchpad sz)
  | .sts sz a => some (storeRow a .scratch .scratchpad sz)
  | .saadd a => some (scratchAtomRow a .add)
  | .samin a => some (scratchAtomRow a .min)
  | .samax a => some (scratchAtomRow a .max)
  | .saand a => some (scratchAtomRow a .and)
  | .saor a => some (scratchAtomRow a .or)
  | .saxor a => some (scratchAtomRow a .xor)
  | .saxchg a => some (scratchAtomRow a .xchg)
  | .sacas a => some (scratchAtomRow a .cas)
  | .aadd wide a => some (atomRow a wide .add)
  | .amin wide a => some (atomRow a wide .min)
  | .amax wide a => some (atomRow a wide .max)
  | .aminn wide a => some (atomRow a wide .minn)
  | .amaxn wide a => some (atomRow a wide .maxn)
  | .aand wide a => some (atomRow a wide .and)
  | .aor wide a => some (atomRow a wide .or)
  | .axor wide a => some (atomRow a wide .xor)
  | .axchg wide a => some (atomRow a wide .xchg)
  | .acas wide a => some (atomRow a wide .cas)
  | .afadd wide a => some (atomRow a wide .fadd)
  | .afadd2b a => some (atomRow a false .fadd2b)
  | _ => none

/-- What such an instruction names: its address, of 64 bits for global memory, its data and its destination (02 R34). -/
def MemRow.uses (m : MemRow) : Uses :=
  let n := if m.space = .global then 2 else 1
  let names := fun (k n : Nat) => (List.range n).map (k + ·)
  let ar := if m.a.a = 0xFF then [] else names m.a.a.toNat n
  { vr := ar ++ names m.a.b.toNat m.nb, vw := names m.a.d.toNat m.nd, sr := if m.a.s = 0x3FF then [] else names m.a.s.toNat n,
    vfree := if m.a.la then ar else [] }

/-- Its destination. -/
def MemRow.dst (m : MemRow) : Dest := if m.nd = 0 then .none else .vec m.a.d.toNat m.nd

/-- The lanes that make an access: a store's less the helper lanes (09 R209, 17 R385). -/
def MemRow.lanes (m : MemRow) (w : Wave) (sp : Split) : Dword :=
  if m.kind = .store then runM m.a w sp &&& ~~~w.helper else runM m.a w sp

/-- The address that a lane forms (09 R209, 08 R180): of 64 bits for global memory, an offset of 32 bits otherwise. -/
def MemRow.address (m : MemRow) (w : Wave) (l : Nat) : Dword :=
  if m.space = .global then
    (if m.a.a = 0xFF then 0 else w.v (m.a.a.toNat + 1) l ++ w.v m.a.a.toNat l) +
      (if m.a.s = 0x3FF then 0 else w.s (m.a.s.toNat + 1) ++ w.s m.a.s.toNat) + BitVec.ofInt 64 (m.a.off.toInt * m.size)
  else
    BitVec.ofNat 64 ((if m.a.a = 0xFF then 0 else w.v m.a.a.toNat l) + (if m.a.s = 0x3FF then 0 else w.s m.a.s.toNat) +
      BitVec.ofInt 32 (m.a.off.toInt * m.size)).toNat

/-- What the operation is. -/
def MemRow.op (m : MemRow) (w : Wave) (sp : Split) (o : MemOp) : Prop :=
  o.space = m.space ∧ o.access = m.access ∧ o.kind = m.kind ∧ o.size = m.size ∧ o.signed = m.signed ∧ o.scope = m.a.scope ∧ o.ord = m.a.ord ∧
  o.ef = m.a.ef ∧ o.ms = m.a.ms ∧ o.live = runM m.a w sp ∧
  o.doneMask = (if m.kind = .load ∨ m.kind = .store then 0 else runM m.a w sp &&& w.helper) ∧
  ∀ l < 64, (runM m.a w sp).getLsbD l = true →
    o.addr l = m.address w l ∧
    ∀ k < m.nb, (Table.get zeroQuad o.data l).extractLsb' (32 * k) 32 = w.v (m.a.b.toNat + k) l

/-- Scalars of a scalar access. -/
def scalarWords : ScalarSize → Nat
  | .b32 => 1
  | .b64 => 2
  | .b128 => 4

/-- The words of a descriptor. -/
def desc (w : Wave) (k n : Nat) : List Word := (List.range n).map (fun j => w.s (k + j))

/-- The coordinate operands of a lane. -/
def coords (f : FArgs) (w : Wave) (n i : Nat) : List Word := (List.range n).map (fun k => w.v (f.a.toNat + k) i)

/-- A texture read or a test of the bitmap or the depth (17 R387, R390): its operands in each lane. -/
def reader (op : FOp) (f : FArgs) (access : AccKind) (scope nd ns : Nat) (cs : Wave → Split → Nat → List Word) (o : Out) (s : State) : Prop :=
  IssuesOp o s (op.uses f) (.vec f.d.toNat nd) (run f) (fun w sp x =>
    x.kind = .texture op ∧ x.access = access ∧ x.space = .global ∧ x.scope = BitVec.ofNat 3 scope ∧ x.live = run f w sp ∧
    x.desc = desc w f.s.toNat ns ∧ ∀ l < 64, (run f w sp).getLsbD l = true → Table.get nilAt x.coords l = cs w sp l)

/-- A fine gradient of a coordinate in lane l: of neighbours in the quad, rounded RNE (17 R390, 07 R169). -/
def gradient (f : FArgs) (w : Wave) (sp : Split) (n k l hi lo : Nat) : Word :=
  toF32 .rne (Val.add false (f32 (w.fetch sp (n + 8 * l + 2 * (hi % 4) + k) (f.a.toNat + k) l hi))
    (f32 (w.fetch sp (n + 8 * l + 2 * (lo % 4) + k) (f.a.toNat + k) l lo)).negate)

end Sys2Proof.Claims

open Sys2Proof Sys2Proof.Machine Sys2Proof.Claims

/-- The loads, stores and atomics on vector registers at issue (09 R206, R208, R209, R211; 08 R179, R180, R182). LDG and LDP with MS may then
divide their split. A miss split (04 R100): `s` is the state at issue and `t` the one after it. The lanes of the quads in which some active
lane's access is not at hand move to the lowest free entry, each part with its own lanes of the load, and both parts are partners; with no
free entry, in a REP, or where no quad or every quad misses, nothing divides. -/
def Obligations.MemoryInstructions : Prop :=
  ((∀ i m s, memRow i = some m → (m.kind = .load ∧ m.space ≠ .scratch → m.a.ms = false) →
     IssuesOp (exec i s) s m.uses m.dst m.lanes m.op) ∧
   (∀ sz a s, a.ms = true → ∃ o, IssuesOp (.next o) s (loadRow a .global .load sz).uses (loadRow a .global .load sz).dst
       (loadRow a .global .load sz).lanes (loadRow a .global .load sz).op ∧ exec (.ldg sz a) s = .next (s.missSplit o)) ∧
   (∀ sz a s, a.ms = true → ∃ o, IssuesOp (.next o) s (loadRow a .priv .load sz).uses (loadRow a .priv .load sz).dst
       (loadRow a .priv .load sz).lanes (loadRow a .priv .load sz).op ∧ exec (.ldp sz a) s = .next (s.missSplit o))) ∧
  (∀ (s t : State) (w₀ w : Wave) (sp₀ sp : Split) (o : MemOp), s.issuing = some (w₀, sp₀) → t.issuing = some (w, sp) →
     w.ops.getLast? = some o → o.ms = true → w.nextOp ≠ w₀.nextOp → sp.lanes = sp₀.lanes → t.cur = s.cur →
     let atHand := fun (l : Nat) => (s.partAddrs s.cur.core s.cur.wave w o l).all (fun p => s.hitsL1 s.cur.core w.ctx p.2.2 p.2.1)
     let misses := fun (q : Nat) => (List.range 4).any (fun k => o.run.getLsbD (4 * q + k) && !atHand (4 * q + k))
     let gone := fun (l : Nat) => sp.lanes.getLsbD l && misses (l / 4)
     (s.cur.aux ≠ none ∨ sp.rep ≠ 0 ∨ (∀ e < 4, w.split e ≠ none) ∨ (∀ l < 64, gone l = false) ∨ (∀ l < 64, gone l = sp.lanes.getLsbD l) →
       s.missSplit t = t) ∧
     (s.cur.aux = none → sp.rep = 0 → (∃ l < 64, gone l = true) → (∃ l < 64, gone l = false ∧ sp.lanes.getLsbD l = true) →
       ∀ e < 4, w.split e = none → (∀ j < e, w.split j ≠ none) →
       ∃ (v : Wave) (part stay : Split) (near far : MemOp),
         s.missSplit t = t.setWave s.cur.core s.cur.wave (some v) ∧
         v = { w with splits := v.splits, ops := v.ops, nextOp := w.nextOp + 1, hist := v.hist, together := v.together } ∧
         v.split e = some part ∧ v.split s.cur.split = some stay ∧
         ((∀ j, j ≠ s.cur.split → (w.split j).bind (fun x => x.miss) = none) → ∀ j, j ≠ e → j ≠ s.cur.split → v.split j = w.split j) ∧
         part = { sp with lanes := part.lanes, miss := some s.cur.split, timer := 0 } ∧ stay = { sp with lanes := stay.lanes, miss := some e } ∧
         (∀ l < 64, part.lanes.getLsbD l = gone l ∧ stay.lanes.getLsbD l = (sp.lanes.getLsbD l && !gone l)) ∧
         v.ops = w.ops.dropLast ++ (if near.run = 0 then [] else [near]) ++ [far] ∧
         near = { o with id := w.nextOp, run := o.run &&& stay.lanes, live := o.live &&& stay.lanes,
                         addrs := near.addrs, units := o.units.filter (fun u => stay.lanes.getLsbD u.lane) } ∧
         far = { o with split := e, run := o.run &&& part.lanes, live := o.live &&& part.lanes,
                        addrs := far.addrs, units := o.units.filter (fun u => part.lanes.getLsbD u.lane) } ∧
         (∀ l < 64, (stay.lanes.getLsbD l = true → near.addr l = o.addr l) ∧ (part.lanes.getLsbD l = true → far.addr l = o.addr l))))

/-- SLD and SST of a wave at issue (09 R210): with room behind the wave, the operation of one access for the split stands there, with the
address, the width and the data, and nothing else changes. -/
def Obligations.ScalarMemory : Prop :=
  (∀ sz (a : SmArgs) s, let n := scalarWords sz
    let ar := if a.a = 0x3FF then [] else [a.a.toNat, a.a.toNat + 1]
    s.cur.svc = none → IssuesOp (exec (.sld sz a) s) s
      { sr := ar, sw := (List.range n).map (a.d.toNat + ·), sfree := if a.la then ar else [] } (.scal a.d.toNat n) (fun _ _ => 1)
      (fun w sp o => o.kind = .load ∧ o.access = .scalarLoad ∧ o.space = .global ∧ o.size = 4 * n ∧ o.live = w.liveOf sp ∧
        o.scope = a.scope ∧ o.ord = a.ord ∧
        o.addr 0 = if a.a = 0x3FF then s.cur.iaddr + BitVec.ofInt 64 (a.imm.toInt * (4 * n))
          else (w.s (a.a.toNat + 1) ++ w.s a.a.toNat) + BitVec.ofInt 64 a.imm.toInt)) ∧
  (∀ sz (a : SmArgs) s, sz ≠ .b128 → let n := scalarWords sz
    let ar := [a.a.toNat, a.a.toNat + 1]
    let dr := (List.range n).map (a.d.toNat + ·)
    s.cur.svc = none → IssuesOp (exec (.sst sz a) s) s
      { sr := ar ++ dr, sfree := (if a.la then ar else []) ++ (if a.lb then dr else []) } .none (fun _ _ => 1)
      (fun w sp o => o.kind = .store ∧ o.access = .scalarStore ∧ o.space = .global ∧ o.size = 4 * n ∧ o.live = w.liveOf sp ∧
        o.scope = a.scope ∧ o.ord = a.ord ∧ o.addr 0 = (w.s (a.a.toNat + 1) ++ w.s a.a.toNat) + BitVec.ofInt 64 a.imm.toInt ∧
        ∀ k < n, (Table.get zeroQuad o.data 0).extractLsb' (32 * k) 32 = w.s (a.d.toNat + k)))

/-- SAMPLE, SAMPLEG, TLD and IMGST with a well-formed descriptor, and VISQ and HZQ, at issue (17 R387, R390, R391); with a descriptor that is
not well formed the wave stops (17 R389). -/
def Obligations.TextureInstructions : Prop :=
  (∀ f s w sp, s.issuing = some (w, sp) →
    (descriptorOk (desc (w.seen sp s.free) f.s.toNat 12) = true →
      reader .sample f .texture 2 4 12 (fun w sp l => [w.v f.a.toNat l, w.v (f.a.toNat + 1) l,
        gradient f w sp s.free 0 l (l / 2 * 2 + 1) (l / 2 * 2), gradient f w sp s.free 1 l (l / 2 * 2 + 1) (l / 2 * 2),
        gradient f w sp s.free 0 l (l / 4 * 4 + 2 + l % 2) (l / 4 * 4 + l % 2),
        gradient f w sp s.free 1 l (l / 4 * 4 + 2 + l % 2) (l / 4 * 4 + l % 2)]) (exec (.sample f) s) s ∧
      reader .sampleg f .texture 2 4 12 (fun w _ l => coords f w 6 l) (exec (.sampleg f) s) s ∧
      reader .tld f .texture 2 4 12 (fun w _ l => coords f w 3 l) (exec (.tld f) s) s ∧
      IssuesOp (exec (.imgst f) s) s (FOp.uses .imgst f) .none
        (fun w sp => maskWhere (fun l => (run f w sp).getLsbD l && !w.helper.getLsbD l &&
          ((descriptorOf (desc w f.s.toNat 12)).texel (coords f w 3 l)).isSome))
        (fun w _ o => o.kind = .store ∧ o.access = .texture ∧ o.space = .global ∧ o.live = o.run ∧
          o.size = texelSize (descriptorOf (desc w f.s.toNat 12)).fmt ∧
          ∀ l < 64, o.run.getLsbD l = true →
            (descriptorOf (desc w f.s.toNat 12)).texel (coords f w 3 l) = some (o.addr l) ∧
            let c := (List.range 4).map (fun k => w.v (f.b.toNat + k) l)
            Table.get zeroQuad o.data l = BitVec.ofNat 128 (leNat (texelBytes (descriptorOf (desc w f.s.toNat 12)).fmt (c.map f32) c)))) ∧
    (descriptorOk (desc (w.seen sp s.free) f.s.toNat 12) = false →
      ∀ (op : FOp) i, (op, i) ∈ [(FOp.sample, Instr.sample f), (.sampleg, .sampleg f), (.tld, .tld f), (.imgst, .imgst f)] →
        Issues s (op.uses f) w sp → ∃ t, exec i s = .next t ∧ StopsAt s t w .illegalOperand s.cur.iaddr)) ∧
  (∀ f s, reader .visq f .load 5 1 2 (fun w _ l => [w.v f.a.toNat l]) (exec (.visq f) s) s) ∧
  (∀ f s, reader .hzq f .load 5 1 3 (fun w _ l => coords f w 3 l) (exec (.hzq f) s) s)

/-- FENCE at issue, with a part for each effect of its ordering; at wave scope it acts from the wave's sole live split (10 R226), FENCE.OR (10
R228). PREF (09 R212): no stop, no register and no byte of memory changes; with EF set the core's L1 stays as it is. Where one lane runs and its
checks pass, the line of its address is in L2, and, with neither EF nor ATTR 1, its four sectors are in the core's L1 with their poison. -/
def Obligations.FencesAndPrefetch : Prop :=
  ((∀ (a : MArgs) (s s' : State) (w : Wave) (sp : Split), s.cur.svc = none → (if a.scope = 1 then Fuses s s' else s' = s) →
     s'.issuing = some (w, sp) → w.ops.length < 16 →
     let ord : BitVec 2 := if a.scope = 1 then 0 else a.ord
     (runM a w sp ≠ 0 → ∃ op : MemOp, exec (.fence a) s = .next (s'.setWave s'.cur.core s'.cur.wave (some
         { w.setSplit s'.cur.split (some (past s' sp)) with ops := w.ops ++ [op], nextOp := w.nextOp + 1 })) ∧
       op.kind = .fence ord ∧ op.scope = a.scope ∧ op.run = runM a w sp ∧ op.live = op.run ∧ op.passed = true ∧ op.id = w.nextOp ∧
       op.units.length = (if ord = 3 then 2 else 1) ∧ ∀ u ∈ op.units, u.done = false) ∧
     (runM a w sp = 0 → exec (.fence a) s = .next (s'.setWave s'.cur.core s'.cur.wave (some (w.setSplit s'.cur.split (some (past s' sp))))))) ∧
   (∀ (s : State) (w : Wave) (sp : Split), s.cur.svc = none → s.issuing = some (w, sp) →
     (∀ o ∈ w.ops, o.passed = true ∧ ∀ u ∈ o.units, u.done = true) →
     exec .fenceOr s = .next (s.setWave s.cur.core s.cur.wave (some ({ w with bhist := [] }.setSplit s.cur.split (some (past s sp)))))) ∧
   (∀ (s : State) (w : Wave) (sp : Split) (o : MemOp), s.issuing = some (w, sp) → o ∈ w.ops → (o.passed = false ∨ ∃ u ∈ o.units, u.done = false) → exec .fenceOr s = .next s)) ∧
  (∀ (a : MArgs) s w sp, let u : Uses := { (loadRow a .global .load .b32).uses with vw := [] }
     Issues s u w sp →
     ∃ t v, exec (.pref a) s = .next t ∧ t.wave s.cur.core s.cur.wave = some v ∧ OnlyRegisters w v s.cur.split (past s sp) ∧
       t = { s with waves := t.waves, groups := t.groups, cores := t.cores, dies := t.dies, csr := t.csr, free := t.free } ∧
       (∀ r l, l < 64 → v.v r l = kept w sp u r l) ∧ (∀ n, v.s n = w.s n) ∧ (∀ b, t.byte b = s.byte b) ∧
       (a.ef = true → ∀ c, (t.core c).l1 = (s.core c).l1) ∧
       (∀ l pa e, runM a (w.seen sp s.free) sp = laneBit l → l < 64 →
         let va := (loadRow a .global .load .n8).address (w.seen sp s.free) l
         va.toNat < 2 ^ 56 → s.tlbLook s.cur.core w.ctx va.toNat = some e → pageCheck e va.toNat { read := true, plain := true } = .ok pa →
         placeOf pa = .memory → noLine pa = false → e.np = false → e.dev = false → e.attr < 2 → s.poisoned pa 1 = false →
         (∃ x ∈ Table.get nilAt (t.die (pa / 2 ^ 37)).l2 (l2Set (lineOf pa)), x.line = lineOf pa) ∧
         (a.ef = false → e.attr = 0 → 0 < s.l1Ways s.cur.core → ∀ k < 4,
           let b := lineBase (lineOf pa) + 48 * k
           t.l1Sector s.cur.core w.ctx b =
             some { bytes := s.bytes b 48, poison := Table.get falseAt s.memPoison (sectorOf b) })))


namespace Sys2Proof.Claims

open Sys2Proof.Machine

/-! ## Memory operations as they are performed -/

/-- What an atomic leaves of a location of n bits: integers (09 R211, 08 R182). -/
def atomicInt {n : Nat} (o : AtomOp) (old b new : BitVec n) : BitVec n :=
  match o with
  | .add => BitVec.ofNat n (old.toNat + b.toNat)
  | .min => if old.toInt < b.toInt then old else b
  | .max => if old.toInt < b.toInt then b else old
  | .minn => if old.toNat < b.toNat then old else b
  | .maxn => if old.toNat < b.toNat then b else old
  | .and => old &&& b
  | .or => old ||| b
  | .xor => old ^^^ b
  | .xchg => b
  | .cas => if old = b then new else old
  | .fadd | .fadd2b => old

/-- What an atomic leaves, as a number, of the number `old`; the operands stand in `data`, the operand or compare value lowest. -/
def atomicOf (o : AtomOp) (len : Nat) (old : Nat) (data : Quad) : Nat :=
  if o = .fadd then
    if len = 8 then (toF64 .rne (Val.add false (f64 (BitVec.ofNat 64 old)) (f64 (data.extractLsb' 0 64)))).toNat
    else (toF32 .rne (Val.add false (f32 (BitVec.ofNat 32 old)) (f32 (data.extractLsb' 0 32)))).toNat
  else if o = .fadd2b ∧ len ≠ 8 then
    (eachHalf .bf16 .rne (fun j => Val.add false (Fmt.bf16.decode (half (BitVec.ofNat 32 old) j))
      (Fmt.bf16.decode (half (data.extractLsb' 0 32) j)))).toNat
  else if len = 8 then (atomicInt o (BitVec.ofNat 64 old) (data.extractLsb' 0 64) (data.extractLsb' 64 64)).toNat
  else (atomicInt o (BitVec.ofNat 32 old) (data.extractLsb' 0 32) (data.extractLsb' 32 32)).toNat

/-- Part k of an operation of a wave may be performed at its home, alone: nothing that comes before it is left (10 R216–R226), and it breaks no
rule of 04 R93 or 09 R206, after which what it reads or writes is undefined (00 R1). -/
def Performs (s : State) (core wave : Nat) (w : Wave) (o : MemOp) (k : Nat) (u : AccUnit) : Prop :=
  s.arg = .access core wave o.id k false ∧ s.wave core wave = some w ∧ w.op o.id = some o ∧ o.units[k]? = some u ∧ o.fault = none ∧
    (∀ j, o.units[j]? ≠ none → j ≠ k → (o.units[j]?).map (fun v => v.pa) ≠ some u.pa) ∧ s.mayPerform core wave w o k false = true ∧
    u.undef = none ∧ 0 < u.len ∧ u.off % 16 + u.len ≤ 16

/-- The parts of an operation that has passed its checks: a part that breaks 04 R93 or 09 R206 bears a free draw, and no other does. -/
def Marked (s : State) (core wave : Nat) (w : Wave) (o : MemOp) (us us' : List AccUnit) : Prop :=
  us'.length = us.length ∧ ∀ (k : Nat) (u u' : AccUnit), us[k]? = some u → us'[k]? = some u' →
    { u' with undef := u.undef } = u ∧
    (u'.undef ≠ u.undef → o.space = .global ∧ s.trespasses w.ctx u.va u.len o.writes (fun c i l => c = core && i = wave &&
      (if o.scalar then o.live else laneBit u.lane).getLsbD l) = true)

/-- Of the operation, part k is done and what it read is kept; the wave's registers and scalars stand. A store whose parts are all done
leaves. -/
def PartDone (t : State) (core wave : Nat) (w : Wave) (o : MemOp) (k : Nat) (u : AccUnit) (bytes : List Byte) : Prop :=
  ∃ v, t.wave core wave = some v ∧ (∀ r l, v.v r l = w.v r l) ∧ (∀ n, v.s n = w.s n) ∧ v.splits = w.splits ∧
    (o.kind ≠ .store → ∃ o', v.op o.id = some o' ∧ (∀ u', o'.units[k]? = some u' → u'.done = true) ∧
      o'.gotBytes u.lane u.off u.len = bytes) ∧
    (o.kind = .store → (∀ o', v.op o.id = some o' → ∀ u', o'.units[k]? = some u' → u'.done = true) ∧
      (o.units.length = 1 → v.op o.id = none))

/-- A byte of a lane's data. -/
def dataByte (o : MemOp) (lane k : Nat) : Byte := (Table.get zeroQuad o.data lane).extractLsb' (8 * k) 8

/-- A number of bytes, little-endian (00 R3). -/
def number (bs : List Byte) : Nat := (bs.zipIdx.map (fun x => x.1.toNat * 256 ^ x.2)).sum

/-- The word that a load or an atomic leaves in register k of its destination: a short load is extended (09 R208, 08 R179). -/
def loadedWord (o : MemOp) (l k : Nat) : Word :=
  let x := number (o.gotBytes l 0 (min o.size 16))
  if o.size < 4 then
    if o.signed = true ∧ 2 ^ (8 * o.size - 1) ≤ x then BitVec.ofInt 32 ((x : Int) - 2 ^ (8 * o.size)) else BitVec.ofNat 32 x
  else BitVec.ofNat 32 (x / 2 ^ (32 * k))

end Sys2Proof.Claims

open Sys2Proof Sys2Proof.Machine Sys2Proof.Claims

/-- The checks on an access whose translation is at hand or has been walked (09 R199, less poison), in their order. The walk of a page table (09
R195–R198): of a valid context, a chain of valid table entries from level 4 down to a 4 KiB leaf gives the leaf's frame, permissions and
attributes; a top entry or a leaf that is not valid gives PRIVATE_GROW where GROW is set and else PAGE_NOT_PRESENT, and so does a context
that is not valid. No page of several entries covers the entries that it reads (R197). -/
def Obligations.TranslationAndChecks : Prop :=
  (∀ (w : Walked) (va : Dword) size kind (want : Want), 0 < size →
     let out := checkWalked w va size kind want
     let stops := fun (c : StopCause) => ∃ i, out = .error i ∧ i.cause = c ∧ i.addr = va
     let e := w.page
     let pa := e.pbase + (va.toNat - e.vbase)
     (2 ^ 56 ≤ va.toNat → stops .pageProtection) ∧
     (va.toNat < 2 ^ 56 → va.toNat % size ≠ 0 → stops .misaligned) ∧
     (va.toNat < 2 ^ 56 → va.toNat % size = 0 → ∀ c, w.cause = some c → stops c) ∧
     (va.toNat < 2 ^ 56 → va.toNat % size = 0 → w.cause = none →
       ((want.read = true ∧ e.r = false) ∨ (want.write = true ∧ e.w = false) ∨ (want.exec = true ∧ e.x = false) → stops .pageProtection) ∧
       (¬ ((want.read = true ∧ e.r = false) ∨ (want.write = true ∧ e.w = false) ∨ (want.exec = true ∧ e.x = false)) →
         (e.dev = true → want.exec = true → stops .fetchDevice) ∧
         (e.dev = true → want.exec = false → want.plain = false → stops .pageProtection) ∧
         ((e.dev = true → want.exec = false ∧ want.plain = true) →
           (want.write = true → e.wpl = true → stops .leaseWrite) ∧
           ((want.write = true → e.wpl = false) →
             (placeOf pa = .reserved → stops .pageProtection) ∧
             (∀ sp a, placeOf pa = .csr sp a → e.dev = false → stops .pageProtection) ∧
             (placeOf pa ≠ .reserved → (∀ sp a, placeOf pa = .csr sp a → e.dev = true) → out = .ok (pa, e))))))) ∧
  (∀ (s : State) ctx va, va < 2 ^ 56 →
     (s.ctxValid ctx = false → (s.walk ctx va).cause = some .pageNotPresent) ∧
     (s.ctxValid ctx = true →
       let root := field (s.csrAt 4 (0x3000 + 0x10 * ctx + 4)) 13 0 * 2 ^ 32 + (s.csrAt 4 (0x3000 + 0x10 * ctx)).toNat / 4096 * 4096
       let next := fun (level table : Nat) => (s.dwordAt (table + 8 * pageIndex level va))
       let frame := fun (e : Dword) => e.toNat / 2 ^ 14 % 2 ^ 34 * 4096
       let table := fun (e : Dword) => e.getLsbD 0 = true ∧ e.getLsbD 1 = false ∧ entryMalformed 4 e = false
       let alone := fun (level table : Nat) => s.entryChoices table level (pageIndex level va) = [pageIndex level va]
       let t3 := frame (next 4 root)
       let t2 := frame (next 3 t3)
       let t1 := frame (next 2 t2)
       let t0 := frame (next 1 t1)
       let leaf := next 0 t0
       ((next 4 root).getLsbD 0 = false →
         (s.walk ctx va).cause = some (if (next 4 root).getLsbD 9 = true then .privateGrow else .pageNotPresent)) ∧
       (table (next 4 root) → table (next 3 t3) → alone 2 t2 → table (next 2 t2) → alone 1 t1 → table (next 1 t1) → alone 0 t0 →
         (leaf.getLsbD 0 = false → (s.walk ctx va).cause = some (if leaf.getLsbD 9 = true then .privateGrow else .pageNotPresent)) ∧
         (leaf.getLsbD 0 = true → leaf.getLsbD 1 = false → (s.walk ctx va).cause = some .pageNotPresent) ∧
         (leaf.getLsbD 0 = true → leaf.getLsbD 1 = true → leaf.extractLsb' 10 4 = 0 → leaf.extractLsb' 56 8 = 0 →
           (leaf.extractLsb' 48 8).toNat ≤ 2 → (leaf.getLsbD 6 = true → leaf.extractLsb' 48 8 = 2) →
           (s.walk ctx va).cause = none ∧ (s.walk ctx va).page =
             { ctx := ctx, vbase := va / 4096 * 4096, pbase := frame leaf, size := 4096, attr := (leaf.extractLsb' 48 8).toNat,
               pin := leaf.getLsbD 8, wpl := leaf.getLsbD 7, dev := leaf.getLsbD 6, np := leaf.getLsbD 5, x := leaf.getLsbD 4,
               w := leaf.getLsbD 3, r := leaf.getLsbD 2 }))))

/-- The checks of an operation (09 R209; 08 R180): when every lane passes, it may be performed; when some lane fails, the wave stops with the
lowest failing lane's cause, nothing of the operation having been performed, and the operation holds the fault. A breakpoint and a replay
are not meant. PAGE_WALK_COMPLETE (09 R196, R200, R201): an operation whose translations are at hand is checked, and one that awaits some asks
for its walks; a walker reads one entry, and goes on at the table that it names, or the walk ends and counts in WALKED; no memory changes. -/
def Obligations.OperationChecks : Prop :=
  (∀ (s : State) core wave (w : Wave) (o : MemOp) us, s.wave core wave = some w → w.op o.id = some o → o.passed = false → o.fault = none →
    s.shadowOf w.group = false → s.opCheck core wave w o = .ok us →
    ∃ t us', s.checkOp core wave o.id = t ∧ Marked s core wave w o us us' ∧
      t = { s.setWave core wave (some { w with ops := w.ops.map (fun p =>
        if p.id = o.id then { p with passed := true, units := us' } else p) }) with cores := t.cores, dies := t.dies, free := t.free }) ∧
  (∀ (s : State) core wave (w : Wave) (o : MemOp) e, s.wave core wave = some w → w.op o.id = some o → o.passed = false → o.fault = none →
    s.shadowOf w.group = false → w.run = .running → s.opCheck core wave w o = .error e → e.cause ≠ .breakpoint →
    fateOf e.cause e.kind ≠ .kill →
    ∃ t, s.checkOp core wave o.id = t ∧ t = { s.setWave core wave (some { w with
      ops := w.ops.map (fun p => if p.id = o.id then { p with fault := some e } else p)
      run := .draining, halt := some { info := e, pc := o.pc, split := o.split } }) with cores := t.cores, dies := t.dies }) ∧
  (∀ (s : State) core wave (w : Wave) (o : MemOp) i e, o.space ≠ .scratch → i ∈ lanesOf (o.run &&& ~~~o.doneMask) →
    (∀ j ∈ lanesOf (o.run &&& ~~~o.doneMask), j < i → ∃ us, s.laneCheck core wave w o j = .ok us) →
    s.laneCheck core wave w o i = .error e → s.opCheck core wave w o = .error e) ∧
  (∀ (s : State) core wave (w : Wave) (o : MemOp), s.arg = .at3 core wave o.id → s.wave core wave = some w → w.op o.id = some o →
    o.passed = false → o.fault = none → w.run = .running →
    (s.opKnown core wave w o = true → exec .pageWalkComplete s = .next (s.checkOp core wave o.id)) ∧
    (s.opKnown core wave w o = false → ∃ t, exec .pageWalkComplete s = .next t ∧ t = { s with dies := t.dies })) ∧
  (∀ (s : State) die n (x : PageWalk), s.arg = .at2 die n → (s.die die).walks[n]? = some x →
    let s₁ : State := { s with free := s.free + 1 }
    (∀ next, s₁.walkRead x.ctx x.va (x.left - 1) x.table = .on next → ∃ t, exec .pageWalkComplete s = .next t ∧
      t = { s₁ with dies := t.dies } ∧ (∀ d, d ≠ die → t.die d = s.die d) ∧
      t.die die = { s.die die with walks := (s.die die).walks.set n { x with left := x.left - 1, table := next } }) ∧
    (∀ r, s₁.walkRead x.ctx x.va (x.left - 1) x.table = .done r → (s.wave x.core x.wave).bind (fun w => w.op x.op) = none →
      ∃ t, exec .pageWalkComplete s = .next t ∧ t = { s₁ with dies := t.dies, cores := t.cores, csr := t.csr } ∧
        t.csrAt die (0xA000 + 0x10 * x.ctx + 0xC) = s.csrAt die (0xA000 + 0x10 * x.ctx + 0xC) + 1 ∧
        (r.cause = none → r.page ∈ (t.core x.core).tlb)))

/-- MEMORY_ACCESS_PERFORM of a part in module memory (09 R203–R205, R209, R211): a load reads the bytes that memory holds; a store writes its
lane's bytes, and an atomic what its operation gives of the old value, which it returns; every other byte of memory and every CSR stays.
MEMORY_ACCESS_PERFORM of a part in the scratchpad of a group (08 R180–R183): the same there; module memory and CSRs stay. -/
def Obligations.AccessesPerform : Prop :=
  (∀ (s : State) core wave (w : Wave) (o : MemOp) k (u : AccUnit), Performs s core wave w o k u → o.space ≠ .scratch → placeOf u.pa = .memory →
     s.shadowOf w.group = false → s.poisoned u.pa u.len = false →
     (o.kind = .load → ∃ t, exec .memoryAccessPerform s = .next t ∧ (∀ a, t.byte a = s.byte a) ∧ t.csr = s.csr ∧ t.groups = s.groups ∧
       PartDone t core wave w o k u (s.bytes u.pa u.len)) ∧
     (o.kind = .store → u.off + u.len ≤ 16 → ∃ t, exec .memoryAccessPerform s = .next t ∧
       (∀ a, t.byte a = if u.pa ≤ a ∧ a < u.pa + u.len then dataByte o u.lane (u.off + (a - u.pa)) else s.byte a) ∧ t.csr = s.csr ∧
       PartDone t core wave w o k u []) ∧
     (∀ op, o.kind = .atomic op → (u.len = 4 ∨ u.len = 8) → ∃ t, exec .memoryAccessPerform s = .next t ∧
       number (t.bytes u.pa u.len) = atomicOf op u.len (number (s.bytes u.pa u.len)) (Table.get zeroQuad o.data u.lane) ∧
       (∀ a, ¬ (u.pa ≤ a ∧ a < u.pa + u.len) → t.byte a = s.byte a) ∧ t.csr = s.csr ∧
       PartDone t core wave w o k u (s.bytes u.pa u.len))) ∧
  (∀ (s : State) core wave (w : Wave) (o : MemOp) k (u : AccUnit) (g : Group), Performs s core wave w o k u → o.space = .scratch →
     s.group u.grp = some g → s.scratchBad u.grp u.pa u.len = false →
     let at_ := fun (x : State) (a : Nat) => ((x.group u.grp).map (fun y => Table.get memDefault y.scratch a)).getD 0
     (o.kind = .load → ∃ t, exec .memoryAccessPerform s = .next t ∧ t.mem = s.mem ∧ t.csr = s.csr ∧ t.groups = s.groups ∧
       PartDone t core wave w o k u ((List.range u.len).map (fun j => at_ s (u.pa + j)))) ∧
     (o.kind = .store → u.off + u.len ≤ 16 → ∃ t, exec .memoryAccessPerform s = .next t ∧ t.mem = s.mem ∧ t.csr = s.csr ∧
       (∀ a, at_ t a = if u.pa ≤ a ∧ a < u.pa + u.len then dataByte o u.lane (u.off + (a - u.pa)) else at_ s a) ∧
       PartDone t core wave w o k u []) ∧
     (∀ op, o.kind = .atomic op → u.len = 4 → ∃ t, exec .memoryAccessPerform s = .next t ∧ t.mem = s.mem ∧ t.csr = s.csr ∧
       number ((List.range 4).map (fun j => at_ t (u.pa + j))) =
         atomicOf op 4 (number ((List.range 4).map (fun j => at_ s (u.pa + j)))) (Table.get zeroQuad o.data u.lane) ∧
       (∀ a, ¬ (u.pa ≤ a ∧ a < u.pa + 4) → at_ t a = at_ s a) ∧
       PartDone t core wave w o k u ((List.range 4).map (fun j => at_ s (u.pa + j)))))

/-- LOAD_DATA_RETURN (09 R209, R210; 08 R180; 13 R289; 17 R387, R390): once all the parts are done the operation leaves, and its destination takes in
every lane of its run the words that were read, a short load extended, a texture read what 17 gives of its texels; nothing else changes. -/
def Obligations.LoadsReturn : Prop :=
  ∀ (s : State) core wave (w : Wave) (o : MemOp), s.arg = .at3 core wave o.id → s.wave core wave = some w → w.op o.id = some o →
    o.passed = true → o.fault = none → o.size ∈ [1, 2, 4, 8, 16] → (o.kind = .load ∨ (∃ x, o.kind = .atomic x) ∨ (∃ y, o.kind = .texture y) ∨ ∃ z, o.kind = .async z) → (∀ u ∈ o.units, u.done = true) →
    ∃ t v, exec .loadDataReturn s = .next t ∧ t = { s.setWave core wave (some v) with free := t.free } ∧
      v.sansRegs = ({ w with ops := w.ops.filter (fun p => decide (p.id ≠ o.id)) } : Wave).sansRegs ∧
      (∀ d n, o.dst = .vec d n → (∀ k, v.s k = w.s k) ∧ ∀ r l, l < 64 →
        ((d ≤ r ∧ r < d + n ∧ o.run.getLsbD l = true) →
          ((∀ y, o.kind ≠ .texture y) → (o.size < 4 → n = 1) → v.v r l = loadedWord o l (r - d)) ∧
          (∀ y xs, o.kind = .texture y → texelResult y o.desc (Table.get nilAt o.coords l) (fun k => o.gotBytes l (16 * k) 16) = some xs →
            v.v r l = xs.getD (r - d) 0)) ∧
        (¬ (d ≤ r ∧ r < d + n ∧ o.run.getLsbD l = true) → v.v r l = w.v r l)) ∧
      (∀ d n, o.dst = .scal d n → 4 ≤ o.size → (∀ y, o.kind ≠ .texture y) → (∀ r l, v.v r l = w.v r l) ∧
        ∀ k, v.s k = if d ≤ k ∧ k < d + n then loadedWord o 0 (k - d) else w.s k)


namespace Sys2Proof.Claims

open Sys2Proof.Machine

/-! ## The matrix array and the copy engine -/

/-- An MX instruction may act: its wave is 64 wide, and `s'` is the state in which its split is the wave's only live one (11 R239, 04 R99). -/
def Whole (s s' : State) (w : Wave) (sp : Split) : Prop :=
  Gathers s 64 s' ∧ s'.issuing = some (w, sp) ∧ w.width = 64 ∧ ∃ w₀ sp₀, s.issuing = some (w₀, sp₀) ∧ w₀.width = 64

/-- The array queue of the core takes an operation of `n` ranges, nothing in it is younger, and no other waits to be admitted (11 R239; 12
R250, R253, R263). -/
def ArrayFree (s : State) (n : Nat) : Prop :=
  (s.core s.cur.core).waitq = [] ∧ (s.core s.cur.core).array.length < 32 ∧ (s.core s.cur.core).held.length + n ≤ 32 ∧
  (∀ c ∈ (s.core s.cur.core).cmds, c.mma = none ∨ c.wave ≠ some s.cur.wave) ∧
  ∀ y ∈ (s.core s.cur.core).array, y.seq < (s.core s.cur.core).nextSeq

/-- The issuing wave becomes `v` and an operation stands last in its core's array queue; nothing else changes. -/
def Enqueued (s t : State) (v : Wave) (op : ArrayOp) : Prop :=
  ∃ r, OnlyIssuer s r v ∧ t = { r with cores := t.cores } ∧ (∀ c, c ≠ s.cur.core → t.core c = s.core c) ∧
    t.core s.cur.core = { s.core s.cur.core with
      array := (s.core s.cur.core).array ++ [op], nextArray := (s.core s.cur.core).nextArray + 1,
      nextSeq := (s.core s.cur.core).nextSeq + 1 } ∧
    op.wave = some s.cur.wave ∧ op.begun = false ∧ op.lost = false ∧ op.cmd = none ∧ op.arrive = [] ∧ op.pc = s.cur.iaddr ∧ op.split = s.cur.split

/-- The registers after an instruction that names `u` and writes none. -/
def RegsKept (w v : Wave) (sp : Split) (u : Uses) : Prop :=
  (∀ r l, l < 64 → v.v r l = kept w sp u r l) ∧ ∀ n, v.s n = if n ∈ u.sfree then 0 else w.s n

/-- The MMAs by their opcodes (11 R242). -/
def mmaRow : Instr → Option (Nat × XArgs)
  | .mmaE4m3 x => some (0x280, x)
  | .mmaE5m2 x => some (0x281, x)
  | .mmaMix x => some (0x282, x)
  | .mmaBf16 x => some (0x283, x)
  | .mmaF16 x => some (0x284, x)
  | .mmaE2m1s x => some (0x285, x)
  | .mmaE4m3s x => some (0x286, x)
  | .mmaI8 x => some (0x287, x)
  | _ => none

/-- The bytes of B and its scales: 32 a column, and a scale byte or two (11 R244). -/
def bytesOfB (kind : Nat) (x : XArgs) : Nat :=
  (if kind = 0x285 then 34 else if kind = 0x286 then 33 else 32) * x.n

/-- A scratchpad address of the own group for the array (11 R244). -/
def OwnRegion (s : State) (g : Nat) (a : Word) (n : Nat) : Prop :=
  a.toNat < 2 ^ 21 ∧ a.toNat % 32 = 0 ∧ a.toNat + n ≤ s.scratchSize g

/-- Row i of A as 256 bits. -/
def rowOfA (o : ArrayOp) (i : Nat) : Nat := ((List.range 8).map (fun k => (Table.get zeroWord o.aRegs (8 * i + k)).toNat * 2 ^ (32 * k))).sum

/-- Element k of a row of A, of a width. -/
def elementOfA (o : ArrayOp) (width i k : Nat) : Nat := rowOfA o i / 2 ^ (width * k) % 2 ^ width

/-- Element (k, n) of B: column by column, or row by row where TB is set (11 R244). -/
def elementOfB (o : ArrayOp) (width k n : Nat) : Nat :=
  number o.bBytes / 2 ^ (width * (if o.x.tb = true then k * o.x.n + n else n * (256 / width) + k)) % 2 ^ width

/-- A byte as an integer (11 R246): signed unless its form's bit is set. -/
def byteValue (unsigned : Bool) (x : Nat) : Int := if unsigned = true ∨ x < 128 then x else (x : Int) - 256

/-- The formats and width of the forms without scales. -/
def plainForm : Nat → Option (Fmt × Fmt × Nat)
  | 0x280 => some (.e4m3, .e4m3, 8)
  | 0x281 => some (.e5m2, .e5m2, 8)
  | 0x282 => some (.e4m3, .e5m2, 8)
  | 0x283 => some (.bf16, .bf16, 16)
  | 0x284 => some (.f16, .f16, 16)
  | _ => none

/-- An instruction that hands the engine a command completes (12 R250–R254): a failed check stops the wave; else, once the wave's accesses
have been performed and the queue has room, the command that `mk` gives stands last in the core's queue, and the split goes on. `more` is what
happens to the wave besides; `records` and `waitq` of the core may change. -/
def IssuesCmd (o : Out) (s : State) (u : Uses) (mk : Wave → Split → Except FaultInfo Cmd) (more : Wave → Wave) : Prop :=
  ∀ w sp, Issues s u w sp →
    (∀ i, mk (w.seen sp s.free) sp = .error i → ∃ n, o = .next { s.stopWith i with free := n }) ∧
    (∀ c, mk (w.seen sp s.free) sp = .ok c → (∀ op ∈ w.ops, op.passed = true ∧ ∀ x ∈ op.units, x.done = true) →
      (s.core s.cur.core).waitq = [] → ((s.core s.cur.core).cmds.filter (fun x => x.chainOf.isNone)).length < 64 →
      (s.core s.cur.core).held.length + c.ranges.length ≤ 32 →
      ∃ t r v cmd, o = .next t ∧ OnlyIssuer s r v ∧ v.sansRegs = (more (w.setSplit s.cur.split (some (past s sp)))).sansRegs ∧
        RegsKept w v sp u ∧ t = { r with cores := t.cores, free := t.free } ∧ (∀ k, k ≠ s.cur.core → t.core k = s.core k) ∧
        t.core s.cur.core = { s.core s.cur.core with
          cmds := (s.core s.cur.core).cmds ++ [cmd], nextCmd := (s.core s.cur.core).nextCmd + 1,
          nextSeq := (s.core s.cur.core).nextSeq + 1, waitq := (t.core s.cur.core).waitq, records := (t.core s.cur.core).records } ∧
        cmd = { c with id := (s.core s.cur.core).nextCmd, seq := (s.core s.cur.core).nextSeq, wave := some s.cur.wave, group := w.group,
                       ctx := w.ctx, pc := s.cur.iaddr, split := s.cur.split })

/-- n scalars from S. -/
def from_ (a : MArgs) (n : Nat) : List Nat := (List.range n).map (a.s.toNat + ·)

end Sys2Proof.Claims

open Sys2Proof Sys2Proof.Machine Sys2Proof.Claims

/-- The MMAs at issue (11 R239, R241, R243–R246): with room in the queue and a ticket to take, the operation stands in the array's queue with
the next ticket, B's place and, where the latch holds A or RU latches it, the rows of A. ACCLD, ACCST, ACCZ, ACCCVT and MWAIT (11
R247–R249). -/
def Obligations.MatrixInstructions : Prop :=
  (∀ i kind x s s' w sp, mmaRow i = some (kind, x) → Whole s s' w sp → x.acc12.toNat * 1024 + 256 * x.n ≤ s'.accSize w.group →
     let b := (w.seen sp s'.free).s x.s.toNat
     let scaled := kind = 0x285 ∨ kind = 0x286
     let ar := (List.range 8).map (x.a.toNat + ·)
     OwnRegion s' w.group b (bytesOfB kind x) → w.latch.differs kind x = false → ArrayFree s' 2 → w.tickets < 64 →
     let u : Uses := { vr := if w.latch.held = false then ar ++ (if scaled then [x.sc.toNat] else []) else [], sr := [x.s.toNat],
                       vfree := if x.la = true ∧ (w.latch.held = true ∨ x.ru = true) then ar else [] }
     Issues s' u w sp →
     ∃ t v op, exec i s = .next t ∧ Enqueued s' t v op ∧ RegsKept w v sp u ∧
       v.sansRegs = ({ w.setSplit s'.cur.split (some (past s' sp)) with mticket := w.mticket + 1, latch := v.latch } : Wave).sansRegs ∧
       (x.ru = false → v.latch = {}) ∧ (x.ru = true → w.latch.held = true → v.latch = w.latch) ∧
       (x.ru = true → w.latch.held = false → v.latch.held = true ∧ v.latch.a = x.a ∧ v.latch.sc = x.sc) ∧
       op.kind = kind ∧ op.x = x ∧ op.group = w.group ∧ op.bAddr = b.toNat ∧ op.ticket = some (w.mticket + 1).toNat ∧
       (w.latch.held = true → op.aRegs = w.latch.regs) ∧
       (w.latch.held = false → x.ru = true → ∀ r < 64, ∀ k < 8,
         Table.get zeroWord op.aRegs (8 * r + k) = if w.liveLanes.getLsbD r = true then w.v (x.a.toNat + k) r else 0)) ∧
  ((∀ x s s' w sp g, Whole s s' w sp → x.acc12.toNat * 1024 + 256 * x.n ≤ s'.accSize w.group → s'.group w.group = some g →
     (∀ o ∈ (s'.core s'.cur.core).array, o.wave ≠ some s'.cur.wave) → g.accPoison = [] → w.windows = [] →
     Writes (exec (.accld x) s) s' { vw := (List.range 8).map (x.a.toNat + ·) } x.a.toNat 8 (fun w sp => w.liveOf sp) noMask
       (fun _ _ _ l => (List.range 8).map (fun j => Table.get zeroWord g.acc (x.acc12.toNat * 256 + l * x.n + 8 * x.sc.toNat + j)))) ∧
   (∀ x s s' w sp, Whole s s' w sp → x.acc12.toNat * 1024 + 256 * x.n ≤ s'.accSize w.group → ArrayFree s' 1 →
     let ar := (List.range 8).map (x.a.toNat + ·)
     let u : Uses := { vr := ar, vfree := if x.la then ar else [] }
     Issues s' u w sp →
     ∃ t v op, exec (.accst x) s = .next t ∧ Enqueued s' t v op ∧ RegsKept w v sp u ∧ OnlyRegisters w v s'.cur.split (past s' sp) ∧
       op.kind = 0x289 ∧ op.x = x ∧ op.group = w.group ∧ op.rows = w.liveOf sp ∧ op.ticket = none ∧
       ∀ r < 64, ∀ k < 8, w.liveLanes.getLsbD r = true → Table.get zeroWord op.aRegs (8 * r + k) = w.v (x.a.toNat + k) r) ∧
   (∀ x s s' w sp, Whole s s' w sp → s'.cur.svc = none → x.acc12.toNat * 1024 + 256 * x.n ≤ s'.accSize w.group → ArrayFree s' 1 →
     w.tickets < 64 →
     ∃ t v op, exec (.accz x) s = .next t ∧ Enqueued s' t v op ∧
       v = { w.setSplit s'.cur.split (some (past s' sp)) with mticket := w.mticket + 1 } ∧
       op.kind = 0x28A ∧ op.x = x ∧ op.group = w.group ∧ op.ticket = some (w.mticket + 1).toNat) ∧
   (∀ x s s' w sp, Whole s s' w sp → x.acc12.toNat * 1024 + 256 * x.n ≤ s'.accSize w.group →
     let b := (w.seen sp s'.free).s x.s.toNat
     let bytes := 64 * x.n * (if x.tb = false ∧ x.ru = false then 2 else 1)
     OwnRegion s' w.group b bytes → ArrayFree s' 2 → w.tickets < 64 → Issues s' { sr := [x.s.toNat, x.s.toNat + 1] } w sp →
     ∃ t v op, exec (.acccvt x) s = .next t ∧ Enqueued s' t v op ∧ RegsKept w v sp {} ∧
       v.sansRegs = ({ w.setSplit s'.cur.split (some (past s' sp)) with mticket := w.mticket + 1 } : Wave).sansRegs ∧
       op.kind = 0x28B ∧ op.x = x ∧ op.group = w.group ∧ op.bAddr = b.toNat ∧ op.sScale = (w.seen sp s'.free).s (x.s.toNat + 1) ∧
       op.ticket = some (w.mticket + 1).toNat) ∧
   (∀ x s s' w sp, Whole s s' w sp → s'.cur.svc = none →
     let t₀ := x.acc12.extractLsb' 0 8
     let pending := if x.acc12.getLsbD 8 = true then w.mticket ≠ w.mdone else (w.mticket - t₀).toNat < (w.mticket - w.mdone).toNat
     (pending → exec (.mwait x) s = .next s') ∧
     (¬ pending → ∃ ws, exec (.mwait x) s = .next (s'.setWave s'.cur.core s'.cur.wave
         (some { w.setSplit s'.cur.split (some (past s' sp)) with windows := ws })) ∧
       ∀ y ∈ ws, y ∈ w.windows ∧ x.acc12.getLsbD 8 = false ∧ y.ticket ≠ t₀.toNat)))

/-- ARRAY_OP_BEGIN (11 R239): the idle array takes its queue's first operation, whose A is at hand and whose ranges are clear, with B as its
scratchpad holds it; nothing of memory, groups and waves changes. ARRAY_OP_COMPLETE (11 R241, R246–R248): the tile takes the operation's
results, no other element changes but where a broken window loses them, and the ticket completes. The element that an MMA without scales
writes (11 R243–R246, 03 R75, R76): for bytes the exact sum of products modulo 2³², for the floating-point forms one rounding of the exact
sum; on C's old value where ACC is set. -/
def Obligations.MatrixArray : Prop :=
  ((∀ (s : State) core o rest, s.arg = .at1 core → (s.core core).array = o :: rest → o.begun = false →
     (s.core core).clear o.seq o.ranges = true → (o.latched = true ∨ o.x.sa = true ∨ 0x288 ≤ o.kind) → (∀ y ∈ rest, y.id ≠ o.id) →
     (∀ k w, o.wave = some k → s.wave core k = some w → w.bhist = []) →
     ∃ t x, exec .arrayOpBegin s = .next t ∧ (t.core core).array = x :: rest ∧ x.begun = true ∧ x.kind = o.kind ∧ x.x = o.x ∧
       (o.kind < 0x288 → ∀ g, s.group o.group = some g →
         x.bBytes = (List.range (bytesOfB o.kind o.x)).map (fun k => Table.get memDefault g.scratch (o.bAddr + k))) ∧
       (o.latched = true ∨ 0x288 ≤ o.kind → x.aRegs = o.aRegs) ∧
       t = { s with cores := t.cores, csr := t.csr, free := t.free }) ∧
   (∀ (s : State) core o rest g, s.arg = .at1 core → (s.core core).array = o :: rest → o.begun = true → s.group o.group = some g →
     o.arrive = [] → o.lost = false → (∀ k w, o.wave = some k → s.wave core k = some w → ∀ y ∈ w.windows, y.undef = false) → o.x.n ≤ 256 →
     ∃ t h, exec .arrayOpComplete s = .next t ∧ t.mem = s.mem ∧ t.csr = s.csr ∧ (t.core core).array = rest ∧ t.group o.group = some h ∧
       (∀ k, k ≠ o.group → t.group k = s.group k) ∧
       (0x280 ≤ o.kind → o.kind ≤ 0x287 → ∀ i < 64, ∀ n < o.x.n,
         Table.get zeroWord h.acc (o.x.acc12.toNat * 256 + i * o.x.n + n) =
           o.element (Table.get zeroWord g.acc (o.x.acc12.toNat * 256 + i * o.x.n + n)) i n) ∧
       (o.kind = 0x28A → ∀ i < 64, ∀ n < o.x.n, Table.get zeroWord h.acc (o.x.acc12.toNat * 256 + i * o.x.n + n) = 0) ∧
       (o.kind = 0x289 → 8 * o.x.sc.toNat + 8 ≤ o.x.n → ∀ i < 64, o.rows.getLsbD i = true → ∀ j < 8,
         Table.get zeroWord h.acc (o.x.acc12.toNat * 256 + i * o.x.n + 8 * o.x.sc.toNat + j) = Table.get zeroWord o.aRegs (8 * i + j)) ∧
       (o.kind = 0x28B → h.acc = g.acc) ∧
       (∀ e, e < o.x.acc12.toNat * 256 ∨ o.x.acc12.toNat * 256 + 64 * o.x.n ≤ e → (o.kind = 0x289 → 8 * o.x.sc.toNat + 8 ≤ o.x.n) →
         Table.get zeroWord h.acc e = Table.get zeroWord g.acc e) ∧
       (∀ k w tk, o.wave = some k → s.wave core k = some w → w.group = o.group → o.ticket = some tk →
         ∃ v, t.wave core k = some v ∧ v = { w with mdone := v.mdone, mdoneSet := v.mdoneSet, windows := v.windows } ∧
           (tk = (w.mdone + 1).toNat → w.mdone ≠ w.mticket → v.mdone ≠ w.mdone)))) ∧
  ((∀ o c i n, o.kind = 0x287 → i < 64 → n < o.x.n → o.element c i n =
     BitVec.ofInt 32 ((if o.x.acc = true then c.toInt else 0) + ((List.range 32).map (fun k =>
       byteValue (o.x.sc.getLsbD 0) (elementOfA o 8 i k) * byteValue (o.x.sc.getLsbD 1) (elementOfB o 8 k n))).sum)) ∧
   (∀ o c i n fa fb width, plainForm o.kind = some (fa, fb, width) → i < 64 → n < o.x.n → o.element c i n =
     exactSum (if o.x.acc = true then c else 0x80000000) ((List.range (256 / width)).map (fun k =>
       { a := fa.decode (elementOfA o width i k), b := fb.decode (elementOfB o width k n), e := 0 })) false))

/-- The instructions that hand the copy engine a command (12 R254–R263, R269). For CPYT and CBLK no RFENCE of the wave is pending. The commands
of CPY and CPYG: a linear copy of aligned ends is one run of bytes, and a copy of no bytes is no run (12 R256); a gather has a run for each
lane that acts, in lane order, from the lane's address to its place in scratchpad (12 R258). A length that is no multiple of 4 or is over 16
MiB stops with ILLEGAL_OPERAND, and a misaligned end with MISALIGNED (12 R254). CBATCH, CWAIT and RFENCE (12 R262, R267, R268) and DGRD (15
R335). -/
def Obligations.CopyInstructions : Prop :=
  ((∀ (a : MArgs) s, IssuesCmd (exec (.cpy a) s) s { sr := from_ a 6 } (fun w _ =>
     s.mkLinear w.group s.cur.iaddr (pair w.s a.s.toNat) (pair w.s (a.s.toNat + 2)) (w.s (a.s.toNat + 4))
       (s.arrivalOf w.group (w.s (a.s.toNat + 5))) (a.d.toNat % 4) (a.d.toNat / 4)) id) ∧
   (∀ (a : MArgs) s, IssuesCmd (exec (.cpym a) s) s { sr := from_ a 6 } (fun w _ =>
     s.mkMulticast w.group s.cur.iaddr (pair w.s a.s.toNat) (w.s (a.s.toNat + 2)) (w.s (a.s.toNat + 3)) (w.s (a.s.toNat + 4))
       (w.s (a.s.toNat + 5))) id) ∧
   (∀ i scatter (a : MArgs) s, (i = .cpyg a ∧ scatter = false) ∨ (i = .cpys a ∧ scatter = true) →
     let ar := [a.a.toNat, a.a.toNat + 1]
     IssuesCmd (exec i s) s { vr := ar, sr := from_ a 3, vfree := if a.la then ar else [] } (fun w sp => s.mkRows w sp a scatter) id) ∧
   (∀ (a : MArgs) s w₀ sp₀, s.issuing = some (w₀, sp₀) → w₀.rfence = false →
     IssuesCmd (exec (.cpyt a) s) s { sr := from_ a 8 } (fun w _ =>
       match s.mkTensor w.group s.cur.iaddr (pair w.s a.s.toNat) (w.s (a.s.toNat + 2)) (s.arrivalOf w.group (w.s (a.s.toNat + 3)))
           (a.d.getLsbD 0) ((List.range 4).map (fun j => w.s (a.s.toNat + 4 + j))) with
       | .error i => .error i
       | .ok c => s.tensorAtIssue s.cur.core w.ctx w.group c) id) ∧
   (∀ (a : SArgs) s w₀ sp₀, s.issuing = some (w₀, sp₀) → w₀.rfence = false →
     let br := if a.b = 0x3FF then [] else [a.b.toNat, a.b.toNat + 1]
     let ar := [a.a.toNat, a.a.toNat + 1]
     IssuesCmd (exec (.cblk a) s) s { sr := ar ++ br, sfree := (if a.la then ar else []) ++ (if a.lb then br else []) } (fun w _ =>
       let block := pair w.s a.a.toNat
       let status := pair w.s a.b.toNat
       if block.toNat % 64 ≠ 0 then .error { cause := .misaligned, kind := .engineRead, addr := block }
       else if a.b ≠ 0x3FF ∧ status.toNat % 8 ≠ 0 then .error { cause := .misaligned, kind := .engineWrite, addr := status }
       else .ok { kind := .chain, started := true,
                  chain := { next := block, statusAt := if a.b = 0x3FF then none else some status } }) id) ∧
   (∀ (a : MArgs) s s' w sp x, Whole s s' w sp → x = fieldsX (pair (w.seen sp s'.free).s (a.s.toNat + 4)) →
     (∀ c ∈ (s'.core s'.cur.core).cmds, c.mma = none ∨ c.wave ≠ some s'.cur.wave) → w.tickets < 64 →
     let freed := if x.la = true ∧ x.sa = false then (List.range 8).map (x.a.toNat + ·) else []
     IssuesCmd (exec (.cpymma a) s) s' { sr := from_ a 7 ++ [x.s.toNat], vfree := freed } (fun w _ => s'.mkCopyMma w a.s.toNat)
       (fun v => { v with mticket := v.mticket + 1, latch := if x.sa = true ∨ x.ru = true then v.latch else {} }))) ∧
  ((∀ (s : State) g iaddr (src dst : Dword) (len : Word), len.toNat % 4 = 0 → len.toNat ≤ 2 ^ 24 →
     src.toNat % 4 = 0 → dst.toNat % 4 = 0 → src.toNat < 2 ^ 56 → dst.toNat < 2 ^ 56 →
     ∃ c, s.mkLinear g iaddr src dst len (some []) 0 0 = .ok c ∧ c.kind = .linear ∧ c.arrive = [] ∧ c.ranges = [] ∧
       c.rows = if len = 0 then [] else [{ src := src.toNat, sgrp := g, dst := dst.toNat, dgrps := [g], len := len.toNat }]) ∧
   (∀ (s : State) g iaddr (src dst : Dword) (len : Word) arrive ss ds, len.toNat % 4 ≠ 0 ∨ 2 ^ 24 < len.toNat →
     s.mkLinear g iaddr src dst len arrive ss ds = .error { cause := .illegalOperand, addr := iaddr }) ∧
   (∀ (s : State) g iaddr (src dst : Dword) (len : Word), len.toNat % 4 = 0 → len.toNat ≤ 2 ^ 24 → src.toNat % 4 ≠ 0 →
     s.mkLinear g iaddr src dst len (some []) 0 0 = .error { cause := .misaligned, kind := .engineRead, addr := src }) ∧
   (∀ (s : State) (w : Wave) sp (a : MArgs) c, s.mkRows w sp a false = .ok c →
     let lanes := (List.range 64).filter (fun l => (runM a w sp).getLsbD l && !w.helper.getLsbD l)
     c.kind = .gather ∧ c.rows.map (fun r => (r.src, r.len, r.sspace, r.dspace)) =
       lanes.map (fun l => ((w.v (a.a.toNat + 1) l ++ w.v a.a.toNat l).toNat, (w.s (a.s.toNat + 1)).toNat, 0, 1)) ∧
     c.rows.map (fun r => r.dst) = lanes.map (fun l => (w.s a.s.toNat + BitVec.ofNat 32 (l * (w.s (a.s.toNat + 1)).toNat)).toNat % 2 ^ 21))) ∧
  ((∀ (s : State) w sp, s.cur.svc = none → s.issuing = some (w, sp) → (w.batch - w.cbdone).toNat < 255 →
     ∃ t v, exec .cbatch s = .next t ∧ t = { s.setWave s.cur.core s.cur.wave (some v) with cores := t.cores } ∧
       v = { w.setSplit s.cur.split (some (past s sp)) with batch := w.batch + 1, cbdone := v.cbdone } ∧
       (∀ c, c ≠ s.cur.core → t.core c = s.core c) ∧
       t.core s.cur.core = { s.core s.cur.core with cmds := (s.core s.cur.core).cmds.map (fun x =>
         if x.wave = some s.cur.wave ∧ x.chainOf = none ∧ x.batch = none then { x with batch := some (w.batch + 1).toNat } else x) } ∧
       ((s.core s.cur.core).cmds = [] → v.cbdone = w.batch + 1)) ∧
   (∀ (a : SArgs) (s : State), let ar := if a.a = 0x3FF then [] else [a.a.toNat]
     ∀ w sp, s.issuing = some (w, sp) →
       let n : BitVec 16 := if a.a = 0x3FF then a.imm else ((w.seen sp s.free).s a.a.toNat).extractLsb' 0 16
       ¬ (w.batch - n).toNat < (w.batch - w.cbdone).toNat →
       WritesScalars (exec (.cwait a) s) s { sr := ar, sfree := if a.la then ar else [] } 0 (fun _ sp => sp) (fun _ _ _ => [])) ∧
   (∀ (s : State) w sp, s.cur.svc = none → s.issuing = some (w, sp) →
     ∃ t v, exec .rfence s = .next t ∧ t = { s.setWave s.cur.core s.cur.wave (some v) with cores := t.cores } ∧
       v = { w.setSplit s.cur.split (some (past s sp)) with rfence := v.rfence } ∧
       let pending := ∃ c ∈ (s.core s.cur.core).cmds, c.wave = some s.cur.wave ∧ (c.recordWait = true ∨ c.kind = .chain)
       (pending → v.rfence = true ∧ t.cores = s.cores) ∧
       (¬ pending → v.rfence = false ∧ t.core s.cur.core =
         { s.core s.cur.core with records := (s.core s.cur.core).records.filter (fun r => decide (r.ctx ≠ w.ctx)) })) ∧
   (∀ (a : SArgs) (s : State), (∀ w sp, s.issuing = some (w, sp) → (∀ o ∈ w.ops, o.kind = .store → o.space ≠ .global)) →
     (∀ c ∈ (s.core s.cur.core).cmds, c.wave ≠ some s.cur.wave) →
     WritesScalars (exec (.dgrd a) s) s { sw := [a.d.toNat, a.d.toNat + 1] } a.d.toNat (fun _ sp => sp) (fun w _ _ =>
       low (if ((s.launchOf w.group).map (fun l => l.flag 2)).getD false = true then w.digest else 0))))


namespace Sys2Proof.Claims

open Sys2Proof.Machine

/-! ## Engine events, command blocks, barriers -/

/-- Of the module only the command `id` of a core's engine changes, to `x`. -/
def OnlyCmd (s t : State) (core id : Nat) (x : Cmd) : Prop :=
  t = { s with cores := t.cores } ∧ (∀ c, c ≠ core → t.core c = s.core c) ∧
  t.core core = { s.core core with cmds := (s.core core).cmds.map (fun y => if y.id = id then x else y) }

/-- A command of a core's engine whose next chunk may move (12 R251, R264): it has started, and is neither suspended nor awaits an answer. -/
def Moving (s : State) (core : Nat) (c : Cmd) : Prop :=
  s.arg = .at2 core c.id ∧ s.cmd core c.id = some c ∧ c.started = true ∧ c.kind ≠ .chain ∧ c.suspended = false ∧ c.awaiting = false ∧
    c.recordWait = false ∧ c.reduceArgs = none ∧ c.signal = none ∧ c.row < c.rows.length ∧ c.askAt = none ∧
    ∀ x ∈ (s.core core).cmds, x.id = c.id → x = c

/-- A byte of a group's scratchpad; 0 for a group that is gone. -/
def scratchAt (s : State) (g a : Nat) : Byte := ((s.group g).map (fun x => Table.get memDefault x.scratch a)).getD 0

/-- A block of a chain is carried out: it stands at hand with command byte `code` and header `h`, and waits for no earlier command (12 R270). -/
def Block (s : State) (core : Nat) (c : Cmd) (code : Nat) (bs : List Byte) (h : BlockHeader) : Prop :=
  s.arg = .block core c.id bs ∧ s.cmd core c.id = some c ∧ c.takesBlock (s.core core) = true ∧ blockField bs 0 1 = code ∧
    blockHeader bs (code = 7) = some h ∧ (h.waitPrev = true ∨ code ∈ [6, 7, 10] → (s.core core).chainIdle c.id = true) ∧
    c.id < (s.core core).nextCmd ∧ ∀ x ∈ (s.core core).cmds, x.id = c.id → x = c

/-- The chain's command with its next block at `next`. -/
def chainNext (c : Cmd) (next : Dword) : Cmd := { c with chain := { c.chain with next := next, waiting := none } }

/-- A block handed the engine a command: it stands last in the queue for the chain, which goes on at the next block. -/
def Pushed (s t : State) (core : Nat) (c k : Cmd) : Prop :=
  t = { s with cores := t.cores, free := t.free } ∧ (∀ n, n ≠ core → t.core n = s.core n) ∧
  t.core core = { s.core core with
    records := (t.core core).records
    cmds := (s.core core).cmds.map (fun y => if y.id = c.id then chainNext c (c.chain.next + 64) else y) ++
      [{ k with id := (s.core core).nextCmd, seq := (s.core core).nextSeq, wave := c.wave, group := c.group, ctx := c.ctx, pc := c.pc,
                split := c.split, chainOf := some c.id }]
    nextCmd := (s.core core).nextCmd + 1, nextSeq := (s.core core).nextSeq + 1 }

/-- A semaphore's test (12 R273), of numbers. -/
def semPasses (t : SemTest) (x : Nat) : Bool :=
  let c := if t.wide = true then t.cmp.toNat else t.cmp.toNat % 2 ^ 32
  if t.test = 0 then decide (x = c) else if t.test = 1 then decide (x ≠ c) else if t.test = 2 then decide (c ≤ x) else decide (x < c)

/-- The state from which a barrier instruction that is a fuse point acts (04 R99; 08 R189): at every width from the wave's sole live split; a
split that waits on its barrier acts at once. -/
def AtBarrier (s s' : State) : Prop :=
  ∃ w sp, s.issuing = some (w, sp) ∧ ((sp.state = 2 ∧ s' = s) ∨ (sp.state ≠ 2 ∧ Fuses s s'))

/-- What a barrier instruction names (08 R189). -/
def barUses (a : SArgs) (b : Bool) : Uses :=
  let ar := if a.a = 0x3FF then [] else [a.a.toNat]
  let br := if b then [a.b.toNat] else []
  { sr := ar ++ br, sw := [a.d.toNat], sfree := (if a.la then ar else []) ++ (if a.lb then br else []) }

/-- The reference: a scalar or an immediate. -/
def reference (a : SArgs) (r : Nat → Word) : Word := if a.a = 0x3FF then BitVec.ofNat 32 a.imm.toNat else r a.a.toNat

/-- An arrival (08 R187). -/
def arrived (b : Barrier) : Barrier :=
  if b.abandoned = true then b
  else if b.expected.toNat ≤ b.count.toNat + 1 then { b with phase := !b.phase, count := 0 }
  else { b with count := b.count + 1 }

/-- The issuing wave is `v`: D takes the word `x`, marked scalars read 0, the split becomes `y`, and the barrier that the place `p` names
becomes `new`; but for L1 lines that an acquire drops, nothing else changes. -/
def BarrierStep (s t : State) (w v : Wave) (a : SArgs) (u : Uses) (x : Word) (y : Split) (p : Nat × Nat) (new : Barrier) : Prop :=
  ∃ r, OnlyIssuer s r v ∧ OnlyRegisters w v s.cur.split y ∧ (∀ r l, l < 64 → v.v r l = w.v r l) ∧
    (∀ k, v.s k = if k = a.d.toNat then x else if k ∈ u.sfree then 0 else w.s k) ∧
    t = { r with groups := t.groups, cores := t.cores, free := t.free } ∧
    (∀ g, t.group g = if g = p.1 then (r.group g).map (fun z => { z with barriers := z.barriers.set p.2 new }) else r.group g) ∧
    ∀ c, t.core c = { s.core c with l1 := (t.core c).l1 }

/-- The barrier that the reference of an instruction names, not yet full. -/
def Names (s : State) (w : Wave) (sp : Split) (a : SArgs) (p : Nat × Nat) (b : Barrier) : Prop :=
  s.barrierRef w.group (reference a (w.seen sp s.free).s) = some p ∧ s.barrier p.1 p.2 = some b ∧ b.count.toNat < 4095

end Sys2Proof.Claims

open Sys2Proof Sys2Proof.Machine Sys2Proof.Claims

/-- COPY_COMMAND_START, COPY_CHUNK of a copy within scratchpad, TENSOR_RECORD_ARRIVE of a record at hand, COPY_COMMAND_COMPLETE and
SEMWAIT_RETRY before its time (12 R251, R260, R264, R273). A chunk of at most 48 bytes is opened; then each of its 4-byte words is read, and
each whose bytes have been read is written, in some order, until none is left (10 R216; 12 R266); no other byte of any scratchpad or of memory
changes. -/
def Obligations.CopyEvents : Prop :=
  (∀ (s : State) core (c : Cmd), s.arg = .at2 core c.id → s.cmd core c.id = some c → c.started = false →
    ((s.core core).cmds.filter (fun x => x.started && decide (x.kind ≠ .chain))).length < 8 → c.recordWait = false →
    (s.core core).clear c.seq c.ranges = true → (∀ x ∈ (s.core core).cmds, x.started = false → c.seq ≤ x.seq) →
    (∀ x ∈ (s.core core).cmds, x.id = c.id → x = c) →
    ∃ t, exec .copyCommandStart s = .next t ∧ OnlyCmd s t core c.id { c with started := true }) ∧
  (∀ (s : State) core (c : Cmd), Moving s core c → (∀ p ∈ c.parts, p.sspace = 1 ∧ p.dspace = 1) →
    let bs := chunkBytes c.parts
    (c.moves = [] → ∃ t, exec .copyChunk s = .next t ∧
      OnlyCmd s t core c.id { c with moves := bs.map (fun x => (x.1.fill.map (fun l => l.getD x.2 0), false)) }) ∧
    (c.moves ≠ [] → nextMoves bs c.moves = [] → ∃ t, exec .copyChunk s = .next t ∧ OnlyCmd s t core c.id (c.pastParts c.parts))) ∧
  (∀ (s : State) core (c : Cmd) (p : Chunk), Moving s core c → c.parts = [p] → p.sspace = 1 → p.dspace = 1 → p.fill = none →
    c.moves.length = p.len → c.moves ≠ [] → s.scratchBad p.sgrp (p.src / 4 * 4) (p.len + 8) = false →
    (∀ i j, (p.dst + i) / 4 = (p.dst + j) / 4 → i < p.len → j < p.len → (c.moves.getD i (none, false)).2 = (c.moves.getD j (none, false)).2) →
    nextMoves (chunkBytes [p]) c.moves ≠ [] →
    ∃ t c' k write, exec .copyChunk s = .next t ∧ (k, write) ∈ nextMoves (chunkBytes [p]) c.moves ∧ t.mem = s.mem ∧
      t.cmd core c.id = some c' ∧ c' = { c with moves := c'.moves } ∧ c'.moves.length = p.len ∧
      (write = false → (∀ h a, scratchAt t h a = scratchAt s h a) ∧ ∀ j < p.len, c'.moves[j]? =
        if (p.src + j) / 4 = (p.src + k) / 4 then some (some (scratchAt s p.sgrp (p.src + j)), (c.moves.getD j (none, false)).2)
        else c.moves[j]?) ∧
      (write = true → (∀ h a, scratchAt t h a =
          if h ∈ p.dgrps ∧ (s.group h).isSome = true ∧ p.dst ≤ a ∧ a < p.dst + p.len ∧ a / 4 = (p.dst + k) / 4
          then ((c.moves.getD (a - p.dst) (none, false)).1).getD 0 else scratchAt s h a) ∧
        ∀ j < p.len, c'.moves[j]? =
          if (p.dst + j) / 4 = (p.dst + k) / 4 then some ((c.moves.getD j (none, false)).1, true) else c.moves[j]?)) ∧
  (∀ (s : State) core (c : Cmd) (f : Tensor) p, s.arg = .at2 core c.id → s.cmd core c.id = some c → c.recordWait = true → c.suspended = false →
    c.awaiting = false → c.record ≠ [] → Tensor.parse (c.record.flatMap (fun x => leBytes 4 x.toNat)) = some f →
    s.tensorPlace c.group f (BitVec.ofNat 32 c.spBase) = .ok p → c.wave = none →
    ∃ t c', exec .tensorRecordArrive s = .next t ∧ t = { s with cores := t.cores } ∧ t.cmd core c.id = some c' ∧
      c' = { c with recordWait := false, record := [], hold := [], rows := c'.rows, ranges := c'.ranges } ∧
      c'.rows = f.rows c.storeDir (c.coords.map (fun x => x.toInt)) p.1 p.2) ∧
  (∀ (s : State) core (c : Cmd), s.arg = .at2 core c.id → s.cmd core c.id = some c → c.started = true → c.suspended = false →
    c.awaiting = false → c.kind ≠ .chain → c.rows.length ≤ c.row → c.mma = none → c.arrive = [] →
    ∃ t, exec .copyCommandComplete s = .next t ∧ t.mem = s.mem ∧ t.groups = s.groups ∧
      (t.core core).cmds = (s.core core).cmds.filter (fun x => decide (x.id ≠ c.id)) ∧ t.cmd core c.id = none) ∧
  (∀ (s : State) core (c : Cmd) q, s.arg = .at2 core c.id → s.cmd core c.id = some c → c.chain.waiting = some q →
    (s.core core).cycle.toNat < c.chain.retryAt → exec .semwaitRetry s = .next s)

/-- The block commands that hand the engine or the array a command: COPY, TCOPY, MCAST, SEMSIG, REDUCE and MMAC, where their checks pass and the
scoreboard has room (12 R253, R271, R272, R274, R275). The block commands that act at once: SEMWAIT on scratchpad, BARARR, LINK and END, and
the end of a chain at a block that is malformed (12 R270, R273, R274, R276). A semaphore of all ones ends the chain with status 1; a passing
test goes on; a failing one waits, goes on, or goes elsewhere. -/
def Obligations.CommandBlocks : Prop :=
  ((∀ (s : State) core c bs h k, Block s core c 1 bs h →
     let f := blockField bs 0x1C 4
     f < 16 → f % 4 < 2 → f / 4 < 2 → blockZero bs 0x20 64 = true →
     s.mkLinear c.group c.pc (BitVec.ofNat 64 (blockField bs 8 8)) (BitVec.ofNat 64 (blockField bs 16 8))
       (BitVec.ofNat 32 (blockField bs 24 4)) (s.headerArrivals c.group h) (f % 4) (f / 4) = .ok k →
     (s.core core).held.length + k.ranges.length ≤ 32 → ∃ t, exec .chainCopy s = .next t ∧ Pushed s t core c k) ∧
   (∀ (s : State) core c bs h k, Block s core c 2 bs h → blockField bs 0x14 4 < 2 → blockZero bs 0x28 64 = true →
     ((match s.mkTensor c.group c.pc (BitVec.ofNat 64 (blockField bs 8 8)) (BitVec.ofNat 32 (blockField bs 16 4)) (s.headerArrivals c.group h)
         (blockField bs 0x14 4 = 1) ((List.range 4).map (fun j => BitVec.ofNat 32 (blockField bs (0x18 + 4 * j) 4))) with
       | .error i => .error i
       | .ok x => s.tensorAtIssue core c.ctx c.group x) : Except FaultInfo Cmd) = .ok k →
     (s.core core).held.length + k.ranges.length ≤ 32 → ∃ t, exec .chainTcopy s = .next t ∧ Pushed s t core c k) ∧
   (∀ (s : State) core c bs h k, Block s core c 3 bs h → blockZero bs 0x1C 64 = true →
     let w := fun o => BitVec.ofNat 32 (blockField bs o 4)
     s.mkMulticast c.group c.pc (BitVec.ofNat 64 (blockField bs 8 8)) (w 0x10) (w 0x14) (w 0x18)
       (BitVec.ofNat 32 ((if h.arv then 0x10000 else 0) + h.bref.toNat)) = .ok k →
     (s.core core).held.length + k.ranges.length ≤ 32 → ∃ t, exec .chainMcast s = .next t ∧ Pushed s t core c k) ∧
   (∀ (s : State) core c bs h p arrive, Block s core c 6 bs h →
     let f := blockField bs 0x18 1
     let n := if f / 2 % 2 = 1 then 8 else 4
     f < 16 → f / 4 < 2 → blockZero bs 0x19 64 = true → blockField bs 8 8 % n = 0 → (n = 4 → blockField bs 16 8 < 2 ^ 32) →
     (f / 4 = 0 → blockField bs 8 8 < 2 ^ 56) → bs.length = 64 →
     s.endPlace c.group (f / 4) (BitVec.ofNat 64 (blockField bs 8 8)) n = .ok p → s.headerArrivals c.group h = some arrive →
     (s.core core).held.length ≤ 32 →
     ∃ t k, exec .semsig s = .next t ∧ Pushed s t core c k ∧ k.kind = .signal ∧ k.arrive = arrive ∧
       k.signal = some (decide (f % 2 = 1), decide (f / 2 % 2 = 1), BitVec.ofNat 64 (blockField bs 16 8)) ∧
       k.rows = [{ dspace := f / 4, dst := p.2, dgrps := [p.1], len := n }]) ∧
   (∀ (s : State) core c bs h p q arrive, Block s core c 8 bs h →
     let f := blockField bs 0x1C 4
     let n := blockField bs 0x18 4
     let unit := if f % 16 = 4 then 8 else 4
     let len := if f % 16 = 3 then 2 * n else unit * n
     f < 4096 → blockZero bs 0x20 64 = true → f % 16 < 5 → f / 16 % 16 < 3 → f / 256 % 4 < 2 → f / 1024 < 2 → 0 < n → n ≤ 2 ^ 22 →
     (f % 16 = 3 → n % 2 = 0) →
     s.endPlace c.group (f / 256 % 4) (BitVec.ofNat 64 (blockField bs 8 8)) len = .ok p →
     s.endPlace c.group (f / 1024) (BitVec.ofNat 64 (blockField bs 16 8)) len = .ok q →
     addressFault unit [(f / 256 % 4, false, BitVec.ofNat 64 (blockField bs 8 8)), (f / 1024, true, BitVec.ofNat 64 (blockField bs 16 8))] = none →
     s.headerArrivals c.group h = some arrive → (s.core core).held.length ≤ 30 →
     ∃ t k, exec .reduce s = .next t ∧ Pushed s t core c k ∧ k.kind = .reduce ∧ k.arrive = arrive ∧
       k.rows = [{ sspace := f / 256 % 4, src := p.2, sgrp := p.1, dspace := f / 1024, dst := q.2, dgrps := [q.1], len := len }]) ∧
   (∀ (s : State) core c bs h bo ao arrive, Block s core c 4 bs h →
     let word := BitVec.ofNat 64 (blockField bs 8 8)
     let x := fieldsX word
     blockZero bs 0x18 64 = true → badCopyMma word false = none → x.sa = true → s.offers (opcOf word) = true →
     x.acc12.toNat * 1024 + 256 * x.n ≤ s.accSize c.group →
     s.arrayRegion c.group (BitVec.ofNat 32 (blockField bs 0x10 4)) (mmaBBytes (opcOf word) x.n) 32 = .ok bo →
     s.arrayRegion c.group (BitVec.ofNat 32 (blockField bs 0x14 4)) (mmaABytes (opcOf word)) 1 = .ok ao →
     s.headerArrivals c.group h = some arrive → (s.core core).array.length < 32 → (s.core core).held.length + 3 ≤ 32 →
     (∀ y ∈ (s.core core).array, y.seq < (s.core core).nextSeq) →
     ∃ t op, exec .chainMmac s = .next t ∧ t = { s with cores := t.cores } ∧ (t.core core).array = (s.core core).array ++ [op] ∧
       op.kind = opcOf word ∧ op.x = x ∧ op.group = c.group ∧ op.bAddr = bo ∧ op.aAddr = ao ∧ op.cmd = some c.id ∧ op.wave = c.wave ∧ op.ticket = none ∧
       op.arrive = arrive ∧ (t.core core).cmds = (s.core core).cmds.map (fun y => if y.id = c.id then chainNext c (c.chain.next + 64) else y))) ∧
  ((∀ (s : State) core c bs h p, Block s core c 5 bs h →
     let f := blockField bs 0x18 1
     let q : SemTest := { addr := BitVec.ofNat 64 (blockField bs 8 8), cmp := BitVec.ofNat 64 (blockField bs 16 8), test := BitVec.ofNat 3 f,
                          wide := f / 8 % 2 = 1, onFail := BitVec.ofNat 2 (f / 16), space := BitVec.ofNat 2 (f / 64),
                          alt := BitVec.ofNat 64 (blockField bs 0x20 8) }
     let n := if q.wide = true then 8 else 4
     f / 64 = 1 → f % 8 < 4 → f / 16 % 4 < 3 → blockField bs 0x19 7 = 0 → blockZero bs 0x28 64 = true →
     (f / 16 % 4 = 2 → q.alt.toNat % 64 = 0) → (f / 16 % 4 ≠ 2 → q.alt = 0) → (q.wide = false → blockField bs 16 8 < 2 ^ 32 - 1) →
     (q.wide = true → q.cmp ≠ BitVec.allOnes 64) → blockField bs 8 8 < 2 ^ 32 → blockField bs 8 8 % n = 0 → h.arv = false →
     c.arrive = [] → c.chain.statusAt = none →
     s.scratchPlace c.group (BitVec.ofNat 32 (blockField bs 8 8)) n = some p → s.scratchBad p.1 p.2 n = false →
     let x := number ((List.range n).map (fun j => scratchAt s p.1 (p.2 + j)))
     ∃ t, exec .semwait s = .next t ∧ t.mem = s.mem ∧ t.groups = s.groups ∧
       (x = 2 ^ (8 * n) - 1 → t.cmd core c.id = none) ∧
       (x ≠ 2 ^ (8 * n) - 1 → ∃ c', t.cmd core c.id = some c' ∧
         (semPasses q x = true → c'.chain.next = c.chain.next + 64 ∧ c'.chain.waiting = none ∧ (t.core core).l1 = []) ∧
         (semPasses q x = false →
           (q.onFail = 0 → c'.chain.next = c.chain.next ∧ c'.chain.waiting = some q ∧
             c'.chain.retryAt = (s.core core).cycle.toNat + 64) ∧
           (q.onFail = 1 → c'.chain.next = c.chain.next + 64 ∧ c'.chain.waiting = none) ∧
           (q.onFail = 2 → c'.chain.next = q.alt ∧ c'.chain.waiting = none)))) ∧
   (∀ (s : State) core c bs h p b, Block s core c 7 bs h → blockZero bs 8 64 = true →
     s.barrierRef c.group (BitVec.ofNat 32 h.bref.toNat) = some p → s.barrier p.1 p.2 = some b → b.count.toNat < 4095 →
     ∃ t, exec .bararr s = .next t ∧ t.mem = s.mem ∧ t.barrier p.1 p.2 = some (arrived b) ∧
       (∀ g k, ¬ (g = p.1 ∧ k = p.2) → t.barrier g k = s.barrier g k) ∧
       t.cmd core c.id = some (chainNext c (c.chain.next + 64))) ∧
   (∀ (s : State) core c bs h, Block s core c 9 bs h → blockZero bs 16 64 = true → blockField bs 8 8 % 64 = 0 → h.arv = false →
     ∃ t, exec .chainLink s = .next t ∧ OnlyCmd s t core c.id (chainNext c (BitVec.ofNat 64 (blockField bs 8 8)))) ∧
   (∀ (s : State) core c bs h, Block s core c 10 bs h → blockZero bs 8 64 = true → h.arv = false → c.chain.statusAt = none →
     ∃ t, exec .chainEnd s = .next t ∧ t.mem = s.mem ∧ t.groups = s.groups ∧ t.cmd core c.id = none) ∧
   (∀ (s : State) core c bs code i, s.arg = .block core c.id bs → s.cmd core c.id = some c → c.takesBlock (s.core core) = true →
     blockField bs 0 1 = code → blockInstr code = some i → blockHeader bs (code = 7) = none → c.chain.statusAt = none →
     ∃ t, exec i s = .next t ∧ t.mem = s.mem ∧ t.groups = s.groups ∧ t.cmd core c.id = none))

/-- The barrier instructions (08 R185–R190): BINIT sets the expected count; BARR gives the token and arrives, once the wave's earlier accesses
are performed; BSYNC arrives and goes on at once where its arrival flips the phase; BWAIT goes on once the phase differs from its token, with
status 1 where the barrier is abandoned, and else its split waits; one that waits tests its barrier again; BQUERY reads the state word. -/
def Obligations.Barriers : Prop :=
  (∀ (a : SArgs) s w sp p b, Issues s (barUses a true) w sp → Names s w sp a p b →
    let n := (w.seen sp s.free).s a.b.toNat
    0 < n.toNat → n.toNat ≤ 4095 → (reference a (w.seen sp s.free).s).extractLsb' 12 4 = 0 →
    ∃ t v, exec (.binit a) s = .next t ∧ BarrierStep s t w v a (barUses a true) (if b.abandoned then 1 else 0) (past s sp) p
      (if b.abandoned then b else { b with expected := BitVec.ofNat 12 n.toNat, count := 0, isDefault := false })) ∧
  (∀ (a : SArgs) s s' w sp p b, AtBarrier s s' → Issues s' (barUses a false) w sp → Names s' w sp a p b →
    s'.mayRelease (refScope (reference a (w.seen sp s'.free).s)) = true →
    ∃ t v, exec (.barr a) s = .next t ∧ BarrierStep s' t w v a (barUses a false)
      (BitVec.ofNat 32 ((if b.abandoned then 0x80000000 else 0) + (if b.phase then 1 else 0))) (past s' sp) p (arrived b)) ∧
  (∀ (a : SArgs) s s' w sp p b, AtBarrier s s' → sp.bar = none → Issues s' (barUses a true) w sp → Names s' w sp a p b →
    let token := ((w.seen sp s'.free).s a.b.toNat).getLsbD 0
    (b.abandoned = false → b.phase ≠ token → ∃ t v, exec (.bwait a) s = .next t ∧
      BarrierStep s' t w v a (barUses a true) 0 (past s' { sp with state := 0, bar := none }) p b) ∧
    (b.abandoned = true → ∃ t v, exec (.bwait a) s = .next t ∧
      BarrierStep s' t w v a (barUses a true) 1 (past s' { sp with state := 0, bar := none }) p b) ∧
    (b.phase = token → b.abandoned = false → ∃ t v, exec (.bwait a) s = .next t ∧ OnlyIssuer s' t v ∧
      OnlyRegisters w v s'.cur.split { sp with
        state := 2, bar := some ⟨p.1, p.2, token, decide (refScope (reference a (w.seen sp s'.free).s) = 3), false⟩ })) ∧
  (∀ (a : SArgs) s s' w sp p b, AtBarrier s s' → sp.bar = none → Issues s' (barUses a false) w sp → Names s' w sp a p b →
    s'.mayRelease (refScope (reference a (w.seen sp s'.free).s)) = true → b.abandoned = false →
    (b.expected.toNat ≤ b.count.toNat + 1 → ∃ t v, exec (.bsync a) s = .next t ∧
      BarrierStep s' t w v a (barUses a false) 0 (past s' { sp with state := 0, bar := none }) p (arrived b)) ∧
    (b.count.toNat + 1 < b.expected.toNat → ∃ t v r, exec (.bsync a) s = .next t ∧ OnlyIssuer s' r v ∧
      OnlyRegisters w v s'.cur.split { sp with
        state := 2, bar := some ⟨p.1, p.2, b.phase, decide (refScope (reference a (w.seen sp s'.free).s) = 3), false⟩ } ∧ t = { r with groups := t.groups } ∧
      t.barrier p.1 p.2 = some (arrived b))) ∧
  (∀ (a : SArgs) s s' w sp x b, AtBarrier s s' → sp.bar = some x → Issues s' { sw := [a.d.toNat] } w sp →
    s'.barrier x.grp x.index = some b → ∀ i, i = .bwait a ∨ i = .bsync a →
    (x.flipped = true ∨ (b.abandoned = false ∧ b.phase ≠ x.token) → ∃ t v, exec i s = .next t ∧
      BarrierStep s' t w v a {} 0 (past s' { sp with state := 0, bar := none }) (x.grp, x.index) b) ∧
    (x.flipped = false → b.abandoned = true → ∃ t v, exec i s = .next t ∧
      BarrierStep s' t w v a {} 1 (past s' { sp with state := 0, bar := none }) (x.grp, x.index) b)) ∧
  (∀ (a : SArgs) s, (∀ w sp, s.issuing = some (w, sp) → s.shadowOf w.group = false) → ∀ w sp p b, s.issuing = some (w, sp) → Names s w sp a p b →
    WritesScalars (exec (.bquery a) s) s (barUses a false) a.d.toNat (fun _ sp => sp) (fun _ _ _ => [BitVec.ofNat 32
      ((if b.abandoned then 2 ^ 31 else 0) + (if b.isDefault then 2 ^ 30 else 0) + (if b.phase then 2 ^ 29 else 0) +
        b.count.toNat * 2 ^ 12 + b.expected.toNat)]))


namespace Sys2Proof.Claims

open Sys2Proof.Machine

/-! ## Queues, launches from a wave, locked lines; the events of splits and of a wave's end -/

/-- What a queue instruction names. -/
def queueUses (a : SArgs) (dn an bn : Nat) : Uses := scalarUses a dn an bn []

/-- An instruction that acts on a queue, a deque, intake or locked lines completes: with fewer than 16 operations outstanding, one stands behind
them whose result goes to the `n` scalars from `d` on; it has device scope, and the ordering `ord` (13 R289; 14 R301, R303). `want` says what its
operands are. Every register keeps its value, and nothing else changes but the count of free draws. -/
def QueuesOp (o : Out) (s : State) (u : Uses) (op : AsyncOp) (ord : BitVec 2) (d n : Nat) (want : Wave → MemOp → Prop) : Prop :=
  ∀ w sp, Issues s u w sp → w.ops.length < 16 → ∃ t v x, o = .next t ∧ OnlyIssuer s t v ∧
    v.sansRegs = ({ w.setSplit s.cur.split (some (past s sp)) with ops := w.ops ++ [x], nextOp := w.nextOp + 1 } : Wave).sansRegs ∧
    (∀ r l, l < 64 → v.v r l = w.v r l) ∧ (∀ k, v.s k = if k ∈ u.sfree then 0 else w.s k) ∧
    x.id = w.nextOp ∧ x.split = s.cur.split ∧ x.pc = s.cur.iaddr ∧ x.words = s.cur.words ∧ x.kind = .async op ∧ x.scope = 5 ∧ x.ord = ord ∧
    x.dst = .scal d n ∧ x.size = 16 ∧ x.passed = true ∧ x.fault = none ∧ (∃ y, x.units = [y] ∧ y.done = false) ∧ want (w.seen sp s.free) x

/-- Such an operation of a wave may be performed: nothing that comes before it is left (10 R218–R226). -/
def AsyncAt (s : State) (core wave : Nat) (w : Wave) (o : MemOp) (op : AsyncOp) : Prop :=
  s.arg = .access core wave o.id 0 false ∧ s.wave core wave = some w ∧ wave < 512 ∧ w.op o.id = some o ∧ o.kind = .async op ∧
    (∃ u, o.units = [u] ∧ u.lane = 0 ∧ u.off = 0 ∧ u.undef = none) ∧ s.mayPerform core wave w o 0 false = true

/-- It is done, and has the words `xs` for its destination. -/
def AsyncDone (t : State) (core wave : Nat) (w : Wave) (o : MemOp) (xs : List Word) : Prop :=
  ∃ v x, t.wave core wave = some v ∧ { v with ops := w.ops } = w ∧ v.op o.id = some x ∧ (∀ u ∈ x.units, u.done = true) ∧
    ∀ k < xs.length, x.gotBytes 0 (4 * k) 4 = leBytes 4 (xs.getD k 0).toNat

/-- Every other operation of the module's waves is as it was, but for the DQSTEALs that lose the head of the deque of the core and the launch
`lost` in the same step, each of which may be done with the status 2 (13 R290). -/
def OthersKept (s t : State) (core wave id : Nat) (lost : Option (Nat × Nat)) : Prop :=
  ∀ c k, k < 512 → (s.wave c k = none → t.wave c k = none) ∧ ∀ x, s.wave c k = some x → ∃ y, t.wave c k = some y ∧
    { y with ops := x.ops } = x ∧ y.ops.length = x.ops.length ∧ ∀ (j : Nat) (a b : MemOp), x.ops[j]? = some a → y.ops[j]? = some b →
      b = a ∨ (c = core ∧ k = wave ∧ a.id = id) ∨
      ∃ v, lost = some v ∧ ∃ z ∈ x.ops, z.id = a.id ∧ z.kind = .async .dqsteal ∧ z.operand.toNat = v.1 ∧ s.ownLaunch x = v.2 ∧
        (a.kind = .async .dqsteal → (∃ u, a.units = [u] ∧ u.lane = 0 ∧ u.off = 0 ∧ u.undef = none) →
          b.gotBytes 0 0 12 = [2, 0, 0, 0, 0, 0, 0, 0, 0, 0, 0, 0] ∧ ∀ u ∈ b.units, u.done = true)

/-- The deque of launch `n` on core `c` has the entries `l`; every other deque keeps its entries, and every deque its launch. -/
def DequeIs (s t : State) (c n : Nat) (l : List Dword) : Prop :=
  t.dequeEntries c n = l ∧ (∀ k m, ¬ (k = c ∧ m = n) → t.dequeEntries k m = s.dequeEntries k m) ∧
  ∀ k, t.core k = { s.core k with deques := (t.core k).deques, l1 := (t.core k).l1 } ∧
    (t.core k).deques.map (fun (q : Deque) => (q.launch, q.lost)) = (s.core k).deques.map (fun (q : Deque) => (q.launch, q.lost))

/-- A deque operation of a wave of `core` is performed with the words `xs`; the deque of the wave's launch on core `c` then has the entries
`l`, and an acquire leaves nothing in the L1 of the wave's core. With `lost`, other DQSTEALs of the launch there may lose. -/
def DequeDone (s : State) (core wave : Nat) (w : Wave) (o : MemOp) (xs : List Word) (c : Nat) (l : List Dword) (acquires lost : Bool) : Prop :=
  ∃ t, exec .memoryAccessPerform s = .next t ∧ AsyncDone t core wave w o xs ∧ t = { s with waves := t.waves, cores := t.cores, free := t.free } ∧
    DequeIs s t c (s.ownLaunch w) l ∧ OthersKept s t core wave o.id (if lost = true then some (c, s.ownLaunch w) else none) ∧
    ∀ k, (t.core k).l1 = if k = core ∧ acquires = true then [] else (s.core k).l1

/-- The tasks of a context on a die have become `l`, and nothing else of any die has changed. -/
def TasksAre (s t : State) (die ctx : Nat) (l : List Task) : Prop :=
  t.taskQueue die ctx = l ∧ (∀ d c, ¬ (d = die ∧ c = ctx) → t.taskQueue d c = s.taskQueue d c) ∧
  ∀ d, t.die d = { s.die d with tasks := (t.die d).tasks, taken := (t.die d).taken }

/-- The record that a wave offers. -/
def offered (w : Wave) (bs : List Byte) : Launch := { ctx := w.ctx, words := recordWords bs }

/-- How many launches are pending: 4,096 in all, or 512 of the context, leave no room (13 R279). -/
def queueFull (s : State) (ctx : Nat) : Prop :=
  4096 ≤ s.pendingLaunches (fun _ => true) ∨ 512 ≤ s.pendingLaunches (fun x => decide (x.ctx = ctx))

/-- A running wave whose replay is done (14 R305). -/
def Runs (s : State) (core wave : Nat) (w : Wave) : Prop := s.wave core wave = some w ∧ w.run = .running ∧ w.replaying = false

/-- An event leaves one wave as `v` and nothing else changed. -/
def BecomesWave (o : Out) (s : State) (core wave : Nat) (v : Wave) : Prop := o = .next (s.setWave core wave (some v))

/-- A split with the tag context outward of a record (04 R94). -/
def outerOf (r : Record) (x : Split) : Split := { x with tag := r.outerTag, rejoin := r.outerRejoin, rdepth := r.outerDepth }

/-- A group's default barrier after a wave of it has ended (08 R188): it expects one arrival less, but at least one, and flips if it has
had that many, unless it is abandoned (08 R192). -/
def barrierAfterEnd (b : Barrier) : Barrier :=
  if b.isDefault = false then b
  else
    let n := max 1 (b.expected.toNat - 1)
    if n ≤ b.count.toNat ∧ b.abandoned = false then { b with expected := BitVec.ofNat 12 n, phase := !b.phase, count := 0 }
    else { b with expected := BitVec.ofNat 12 n }

end Sys2Proof.Claims

open Sys2Proof Sys2Proof.Machine Sys2Proof.Claims

/-- DQPUSH, DQPOP, DQSTEAL and DQSIZE (13 R288–R290), SPAWN (13 R291) and LAUNCH (13 R278, R279, R293) of a wave that is no replay: at issue
their operation stands behind the wave's others, a push or a pop of a launch without a deque and a steal from a core above 63 stopping. Once
nothing that comes before it is left it is performed: a push appends at the tail, status 1 where 256 entries are held; a pop takes the tail and
a steal the head of another core's deque, status 1 where it is empty, and a steal that meets one that took the entry may have status 2; DQSIZE
counts. A task of the context joins its die's queue; status 2 at depth 15, 1 at 4,096 tasks. A launch has status 0 and the new %launchid, 1 and 6
where the queue is full, 2 and the reason where the record is bad or asks for what it may not. TASK_TAKE (13 R292): the oldest task goes to a
core's buffer of two, as a launch of its template, or is dropped with status 5. -/
def Obligations.DequesTasksLaunches : Prop :=
  ((∀ (a : SArgs) s w sp, s.issuing = some (w, sp) → s.shadowOf w.group = false →
     (s.hasDeque w = true → QueuesOp (exec (.dqpush a) s) s (queueUses a 1 2 0) .dqpush 2 a.d.toNat 1
       (fun w x => x.operand = pair w.s a.a.toNat)) ∧
     (s.hasDeque w = true → QueuesOp (exec (.dqpop a) s) s (queueUses a 3 0 0) .dqpop 1 a.d.toNat 3 (fun _ _ => True)) ∧
     (s.hasDeque w = false → s.cur.svc = none → ∀ i, i = .dqpush a ∨ i = .dqpop a →
       ∃ t, exec i s = .next t ∧ StopsAt s t w .illegalOperand s.cur.iaddr) ∧
     (((w.seen sp s.free).s a.a.toNat).toNat < 64 → QueuesOp (exec (.dqsteal a) s) s (queueUses a 3 1 0) .dqsteal 1 a.d.toNat 3
       (fun w x => x.operand = (w.s a.a.toNat).setWidth 64)) ∧
     (64 ≤ ((w.seen sp s.free).s a.a.toNat).toNat → Issues s (queueUses a 3 1 0) w sp →
       ∃ t, exec (.dqsteal a) s = .next t ∧ StopsAt s t w .illegalOperand s.cur.iaddr) ∧
     QueuesOp (exec (.dqsize a) s) s (queueUses a 1 (if a.a = 0x3FF then 0 else 1) 0) .dqsize 0 a.d.toNat 1
       (fun w x => x.operand.toNat = if a.a = 0x3FF then s.cur.core % 2 ^ 64 else (w.s a.a.toNat).toNat) ∧
     QueuesOp (exec (.spawn a) s) s (queueUses a 1 2 2) .spawn 2 a.d.toNat 1
       (fun w x => x.addr 0 = pair w.s a.a.toNat ∧ x.operand = pair w.s a.b.toNat)) ∧
   (∀ (a : SArgs) s s' w sp bs, let u := queueUses a 2 2 0
     let addr := pair (w.seen sp s.free).s a.a.toNat
     Issues s u w sp → s.shadowOf w.group = false → s.mayRelease 5 = true → addr.toNat % 64 = 0 →
     s.readWords (.split s.cur.core s.cur.wave s.cur.split) s.cur.core w.ctx addr 48 = (.ok bs, s') →
     QueuesOp (exec (.launch a) s) s' u .launch 2 a.d.toNat 2 (fun _ x => x.desc = recordWords bs))) ∧
  ((∀ (s : State) core wave (w : Wave) (o : MemOp),
     let own := s.dequeEntries core (s.ownLaunch w)
     (AsyncAt s core wave w o .dqpush → (s.core core).dequeOf (s.ownLaunch w) ≠ none →
       (256 ≤ own.length → DequeDone s core wave w o [1] core own false false) ∧
       (own.length < 256 → DequeDone s core wave w o [0] core (own ++ [o.operand]) false false)) ∧
     (AsyncAt s core wave w o .dqpop →
       (own = [] → DequeDone s core wave w o [1, 0, 0] core [] false false) ∧
       (∀ e es, own = es ++ [e] → DequeDone s core wave w o (0 :: low e) core es true (decide (es = [])))) ∧
     (AsyncAt s core wave w o .dqsteal → let l := s.dequeEntries o.operand.toNat (s.ownLaunch w)
       (l = [] → DequeDone s core wave w o [1, 0, 0] o.operand.toNat [] false false) ∧
       (∀ e es, l = e :: es → DequeDone s core wave w o (0 :: low e) o.operand.toNat es true true)) ∧
     (AsyncAt s core wave w o .dqsize → let c := o.operand.toNat
       DequeDone s core wave w o [BitVec.ofNat 32 (if c < 64 then (s.dequeEntries c (s.ownLaunch w)).length else 0)] c
         (s.dequeEntries c (s.ownLaunch w)) false false)) ∧
   (∀ (s : State) core wave (w : Wave) (o : MemOp), AsyncAt s core wave w o .spawn →
     let die := core / 16
     let q := s.taskQueue die w.ctx
     let done := fun (x : Word) (l : List Task) => ∃ t, exec .memoryAccessPerform s = .next t ∧ AsyncDone t core wave w o [x] ∧
       t = { s with waves := t.waves, dies := t.dies, nextOrder := t.nextOrder } ∧ TasksAre s t die w.ctx l ∧ OthersKept s t core wave o.id none ∧
       s.nextOrder ≤ t.nextOrder ∧ ∀ d, (t.die d).taken = (s.die d).taken
     (15 ≤ w.depth → done 2 q) ∧ (w.depth < 15 → 4096 ≤ q.length → done 1 q) ∧
     (w.depth < 15 → q.length < 4096 → ∀ g l, s.group w.group = some g → s.launch g.launch = some l →
       done 0 (q ++ [{ template := o.addr 0, payload := o.operand, depth := w.depth + 1,
                       ctx := w.ctx, launchid := l.launchid, order := s.nextOrder, launch := g.launch }]))) ∧
   (∀ (s : State) core wave (w : Wave) (o : MemOp), AsyncAt s core wave w o .launch →
     let l : Launch := { ctx := w.ctx, words := o.desc }
     let done := fun (xs : List Word) (t : State) => exec .memoryAccessPerform s = .next t ∧ AsyncDone t core wave w o xs ∧
       t = { s with waves := t.waves, launches := t.launches, nextLaunch := t.nextLaunch, nextLaunchid := t.nextLaunchid,
                    nextOrder := t.nextOrder, out := t.out, peerReqs := t.peerReqs, peerTag := t.peerTag } ∧ OthersKept s t core wave o.id none
     (s.stage = 0 → ∃ t, done [2, 1] t ∧ t.launches = s.launches) ∧
     (s.stage ≠ 0 → queueFull s w.ctx → ∃ t, done [1, 6] t ∧ t.launches = s.launches) ∧
     (s.stage ≠ 0 → ¬ queueFull s w.ctx → s.badRecord l = true → ∃ t, done [2, 1] t ∧ t.launches = s.launches) ∧
     (s.stage ≠ 0 → ¬ queueFull s w.ctx → s.badRecord l = false → s.deniedRecord l = true → ∃ t, done [2, 3] t ∧ t.launches = s.launches) ∧
     (s.stage ≠ 0 → ¬ queueFull s w.ctx → s.badRecord l = false → s.deniedRecord l = false →
       ∃ t, done [0, s.nextLaunchid] t ∧ t.nextLaunch = s.nextLaunch + 1 ∧ t.nextLaunchid = s.nextLaunchid + 1 ∧
         (l.pair 18 = 0 → t.out = s.out ∧
           t.launch s.nextLaunch = some { l with launchid := s.nextLaunchid, age := s.nextOrder, stage := .ready }) ∧
         ∀ k, k ≠ s.nextLaunch → t.launch k = s.launch k)) ∧
   (∀ (s s₁ : State) die ctx core x ts bs, s.arg = .at3 die ctx core → s.taskQueue die ctx = x :: ts → (s.core core).prefetch.length < 2 →
     s.weight ctx ≠ 0 → core / 16 = die →
     (x.template.toNat % 64 = 0 → s.readWords (.task die ctx) core ctx x.template 48 = (.ok bs, s₁) ∨
       (bs = [] ∧ ∃ e, s.readWords (.task die ctx) core ctx x.template 48 = (.error (.fault e), s₁))) →
     (x.template.toNat % 64 ≠ 0 → s₁ = s ∧ bs = []) →
     let l : Launch := { kind := .task, launchid := x.launchid, ctx := x.ctx, words := recordWords bs, payload := x.payload, depth := x.depth,
                         age := x.order }
     ∃ t, exec .taskTake s = .next t ∧ TasksAre s₁ t die ctx ts ∧
       (bs.length = 192 → s₁.goodTemplate l = true →
         t.launch s₁.nextLaunch = some l ∧ t.nextLaunch = s₁.nextLaunch + 1 ∧ t.out = s₁.out ∧
         t.core core = { s₁.core core with prefetch := (s₁.core core).prefetch ++ [{ x with launch := s₁.nextLaunch, reads := {} }] }) ∧
       (bs.length ≠ 192 ∨ s₁.goodTemplate l = false → t.core core = s₁.core core ∧ t.launches = s₁.launches ∧
         ∃ port m, Table.get nilAt t.out port = Table.get nilAt s₁.out port ++ [m] ∧ m.type = 0x0B ∧
           m.args = BitVec.ofNat 192 (x.launchid.toNat + 2 ^ 32 * 5))))

/-- FLOWREQ and FLOWREL (16 R355, R359), ICLK and ICUNLK (14 R324, R325). FLOWREQ gives the core's class once a rise of it has reached the cap;
FLOWREL ends the wave's request. ICLK and ICUNLK place an operation behind the wave's others; performed, ICLK locks lines in order up to the
first that it may not or for which there is no room, lines that its context holds counted, ICUNLK unlocks those of the range, and both give
their number. -/
def Obligations.FlowAndLines : Prop :=
  (∀ (a : SArgs) s, (∀ w sp, s.issuing = some (w, sp) → sp.asked = true) → (s.core s.cur.core).flow.rise = false →
    WritesScalars (exec (.flowreq a) s) s (queueUses a 1 (if a.a = 0x3FF then 0 else 1) 0) a.d.toNat (fun _ sp => sp)
      (fun _ _ _ => [BitVec.ofNat 32 (s.core s.cur.core).flow.klass])) ∧
  (∀ (a : SArgs) s w sp, s.issuing = some (w, sp) → sp.asked = true → (s.core s.cur.core).flow.rise = true →
    exec (.flowreq a) s = .next s) ∧
  (∀ s w sp, s.cur.svc = none → s.issuing = some (w, sp) →
    ∃ t, exec .flowrel s = .next t ∧ t = { s with waves := t.waves, cores := t.cores, csr := t.csr } ∧
      t.wave s.cur.core s.cur.wave = some ({ w with flow := 0 }.setSplit s.cur.split (some (past s sp))) ∧
      (∀ c k, k < 512 → s.cur.wave < 512 → ¬ (c = s.cur.core ∧ k = s.cur.wave) → t.wave c k = s.wave c k) ∧
      ∀ c, t.core c = { s.core c with flow := (t.core c).flow } ∧ (c ≠ s.cur.core → t.core c = s.core c)) ∧
  (∀ (a : SArgs) s,
     let want := fun (w : Wave) (x : MemOp) => x.addr 0 = pair w.s a.a.toNat ∧ x.operand = (w.s a.b.toNat).setWidth 64
     QueuesOp (exec (.iclk a) s) s (queueUses a 1 2 1) .iclk 0 a.d.toNat 1 want ∧
     QueuesOp (exec (.icunlk a) s) s (queueUses a 1 2 1) .icunlk 0 a.d.toNat 1 want) ∧
  (∀ (s : State) core wave (w : Wave) (o : MemOp),
    let base := (o.addr 0).toNat
    let len := o.operand.toNat % 2 ^ 32
    let first := base / 128
    let count := if len = 0 then 0 else (base + len - 1) / 128 - first + 1
    let locks := (s.core core).locked
    let segs := ((s.launchOf w.group).bind (fun l => l.segments)).getD []
    (AsyncAt s core wave w o .iclk → ∃ t n, exec .memoryAccessPerform s = .next t ∧ AsyncDone t core wave w o [BitVec.ofNat 32 n] ∧ n ≤ count ∧
      t = { s with waves := t.waves, cores := t.cores } ∧ OthersKept s t core wave o.id none ∧
      (∀ k, t.core k = { s.core k with locked := (t.core k).locked, icache := (t.core k).icache } ∧ (k ≠ core → t.core k = s.core k)) ∧
      (∀ j < n, (w.ctx, first + j) ∈ (t.core core).locked ∧ ((w.ctx, first + j) ∈ locks ∨ s.lineOk core w segs (first + j) ≠ none)) ∧
      (∀ x ∈ (t.core core).locked, x ∈ locks ∨ ∃ j < n, x = (w.ctx, first + j)) ∧ (∀ x ∈ locks, x ∈ (t.core core).locked) ∧
      (n < min count 513 → (w.ctx, first + n) ∉ locks ∧
        (s.lineOk core w segs (first + n) = none ∨ (t.core core).lockRoom (first + n) = false))) ∧
    (AsyncAt s core wave w o .icunlk →
      let mine := locks.filter (fun x => decide (x.1 = w.ctx ∧ first ≤ x.2 ∧ x.2 < first + count))
      ∃ t, exec .memoryAccessPerform s = .next t ∧ AsyncDone t core wave w o [BitVec.ofNat 32 mine.length] ∧
        t = { s with waves := t.waves, cores := t.cores } ∧ OthersKept s t core wave o.id none ∧ (∀ k, k ≠ core → t.core k = s.core k) ∧
        t.core core = { s.core core with locked := locks.filter (fun x => decide (¬ (x.1 = w.ctx ∧ first ≤ x.2 ∧ x.2 < first + count))) }))

/-- SPLIT_ARRIVE (04 R94): a split at its rejoin address waits there while members of its record are missing; with the last of them the waiting
splits and it become one, with the record's outer context; at a broken record it goes on with that context alone (in each case, of a wave
with no spill entry in use). FUSE_TIMER_EXPIRY, of a split and of a path that waits at a forced fuse point, and REJOIN_TIMER_EXPIRY (04 R96, R97), YIELD_EXPIRY (04 R112) and ISSUE_PROMOTION (13 R287). -/
def Obligations.ArrivalsAndTimers : Prop :=
  (∀ (s : State) core wave k w sp r, s.arg = .at3 core wave k → Runs s core wave w → w.split k = some sp → sp.tag ≠ 0 → sp.state = 0 →
     sp.pc = sp.rejoin → sp.depth = sp.rdepth → sp.rep = 0 → w.record sp.tag = some r → w.spillUsed = 0 → w.paths = [] → r.parked = [] →
     let missing := r.members &&& ~~~w.exited &&& ~~~(r.arrived ||| sp.lanes)
     let waits := fun (x : Split) => decide (x.tag = r.tag ∧ x.state = 1 ∧ x.waitsAt = false)
     (r.broken = false → missing ≠ 0 → BecomesWave (exec .splitArrive s) s core wave
       ({ w with records := w.records.map (fun (x : Record) => if x.tag = r.tag then { x with arrived := x.arrived ||| sp.lanes } else x) }.setSplit k
         (some { sp with state := 1, timer := 0, waitsAt := false }))) ∧
     (r.broken = false → missing = 0 → (∀ j x, w.split j = some x → x.miss = none) → k < 4 →
       ∃ v e y, BecomesWave (exec .splitArrive s) s core wave v ∧ v.split e = some y ∧ (∀ x ∈ v.records, x.tag ≠ r.tag) ∧
         (∀ l < 64, y.lanes.getLsbD l = true ↔ ∃ j < 4, ∃ x, w.split j = some x ∧ (j = k ∨ waits x = true) ∧ x.lanes.getLsbD l = true) ∧
         y.tag = r.outerTag ∧ y.rejoin = r.outerRejoin ∧ y.rdepth = r.outerDepth ∧ y.state = 0 ∧ y.timer = 0 ∧
         (∀ j < 4, j ≠ e → v.split j = match w.split j with
           | some x => if j = k ∨ waits x = true then none else some x
           | none => none) ∧ v.vregs = w.vregs ∧ v.exited = w.exited) ∧
     (r.broken = true → ∃ v, BecomesWave (exec .splitArrive s) s core wave v ∧
       v.split k = some (outerOf r { sp with state := 0, timer := 0 }) ∧ (∀ j, j ≠ k → v.split j = w.split j) ∧
       ∀ x ∈ v.records, x.tag = r.tag → x.members &&& sp.lanes = 0)) ∧
  ((∀ (s : State) core wave k w sp, s.arg = .at3 core wave k → k < 4 → Runs s core wave w → w.split k = some sp →
     let limit := (s.csrAt (core / 16) (0x1018 + 64 * (core % 16))).toNat % 2 ^ 20
     (sp.state ≠ 1 ∨ limit = 0 ∨ sp.timer.toNat < limit → exec .fuseTimerExpiry s = .next s) ∧
     (sp.state = 1 → limit ≠ 0 → limit ≤ sp.timer.toNat →
       (sp.missWait = true → ∃ v, BecomesWave (exec .fuseTimerExpiry s) s core wave v ∧
         v.split k = some { sp with miss := none, missWait := false, waitsAt := false, state := 0, timer := 0 }) ∧
       (sp.missWait = false → sp.waitsAt = true → s.shadowOf w.group = false → BecomesWave (exec .fuseTimerExpiry s) s core wave
         (halted w .fuseTimeout sp.pc sp.pc k)) ∧
       (∀ r, sp.missWait = false → sp.waitsAt = false → w.record sp.tag = some r → w.spillUsed = 0 →
         ∃ v, BecomesWave (exec .fuseTimerExpiry s) s core wave v ∧
           v.split k = some (outerOf r { sp with state := 0, timer := 0 }) ∧ (∀ j, j ≠ k → v.split j = w.split j) ∧
           ∀ x ∈ v.records, x.tag = r.tag → x.broken = true ∧ x.members &&& sp.lanes = 0))) ∧
   (∀ (s : State) core wave order w p, s.arg = .at3 core wave (4 + order) → Runs s core wave w →
     w.paths.find? (fun x => decide (x.order = order ∧ x.runnable = false)) = some p →
     let limit := (s.csrAt (core / 16) (0x1018 + 64 * (core % 16))).toNat % 2 ^ 20
     (limit = 0 ∨ p.ctx.timer.toNat < limit → exec .fuseTimerExpiry s = .next s) ∧
     (limit ≠ 0 → limit ≤ p.ctx.timer.toNat → s.shadowOf w.group = false → ∃ k < 4, BecomesWave (exec .fuseTimerExpiry s) s core wave
         (halted w .fuseTimeout p.ctx.pc p.ctx.pc k))) ∧
   (∀ (s : State) core wave tag w r, s.arg = .at3 core wave tag → Runs s core wave w → w.record tag = some r →
     let limit := (s.csrAt (core / 16) (0x1018 + 64 * (core % 16))).toNat % 2 ^ 20
     (r.parked = [] ∨ limit = 0 ∨ r.timer.toNat < limit → exec .rejoinTimerExpiry s = .next s) ∧
     (r.parked ≠ [] → limit ≠ 0 → limit ≤ r.timer.toNat → w.spillUsed = 0 → w.paths.length < 8 →
       ∃ v p, BecomesWave (exec .rejoinTimerExpiry s) s core wave v ∧ v.paths = w.paths ++ [p] ∧ p.runnable = true ∧ p.order = w.made ∧
         (∀ l < 64, p.ctx.lanes.getLsbD l = r.parked.any (fun q => q.ctx.lanes.getLsbD l)) ∧
         p.ctx.tag = r.outerTag ∧ p.ctx.rejoin = r.outerRejoin ∧ p.ctx.rdepth = r.outerDepth ∧ v.splits = w.splits ∧
         ∀ x ∈ v.records, x.tag = tag → x.broken = true ∧ x.parked = [] ∧ x.members &&& p.ctx.lanes = 0)) ∧
   (∀ (s : State) core wave k w sp, s.arg = .at3 core wave k → s.wave core wave = some w → w.split k = some sp →
     BecomesWave (exec .yieldExpiry s) s core wave (w.setSplit k (some
       (if sp.yld = true ∧ sp.yldLeft = 0 then { sp with yld := false, young := true } else sp))) ∧
     BecomesWave (exec .issuePromotion s) s core wave (w.setSplit k (some
       (if 512 ≤ sp.ready then { sp with promoted := true } else sp)))))

/-- STOP_REPORT (14 R301–R304): once no access of a halted wave is under way and none that may still be made is left, its outstanding operations form
the replay queue in issue order, the first that met a fault with status 1; the wave is stopped, or parked for a cause that parks; its frame
is the fault record, which leaves in a STOPNOTE. WAVE_END (04 R98, 08 R188): a wave with nothing left goes, and its group keeps its other
waves. -/
def Obligations.StopsAndEnds : Prop :=
  (∀ (s : State) core wave w h, s.arg = .at2 core wave → s.wave core wave = some w → w.run = .draining → w.halt = some h → h.engine = false →
    (clearOps 0 w.ops).any MemOp.drains = false → (∀ o ∈ w.ops, ∀ x ∈ o.units, x.sent = false) →
    let op := w.ops.find? (fun o => o.fault.isSome)
    let info := (op.bind (fun o => o.fault)).getD h.info
    let parks := decide (info.cause ∈ [.pageNotPresent, .privateGrow, .leaseWrite, .zoneEvacuation, .benched]) ||
      (decide (info.cause = .poisonLoad) && decide (info.kind ≠ .scratchpad))
    ∃ t v, exec .stopReport s = .next t ∧ t = { s with waves := t.waves, out := t.out, csr := t.csr, dies := t.dies } ∧
      t.wave core wave = some v ∧ v.run = (if parks = true then .parked else .stopped) ∧
      v.ops = [] ∧ v.queue.map (fun o => (o.id, o.addrs, o.data)) = w.ops.map (fun o => (o.id, o.addrs, o.data)) ∧
      (∀ o, op = some o →
        ∀ q ∈ v.queue, q.status = if q.id = o.id then 1 else if q.doneMask ≠ 0 then 2 else 0) ∧
      v.frameCause = causeCode info.cause ∧ v.frame.length = 6 ∧ (v.frame.getD 0 0).toNat % 2 ^ 8 = causeCode info.cause ∧
      (∀ o, op = some o → v.frame.getD 2 0 = o.pc) ∧ v.vregs = w.vregs ∧ v.sregs = w.sregs ∧
      ∃ port m, Table.get nilAt t.out port = Table.get nilAt s.out port ++ [m] ∧ m.type = 0x0C ∧
        m.payload = v.frame.flatMap (fun x => leBytes 8 x.toNat)) ∧
  (∀ (s : State) core wave w g, s.arg = .at2 core wave → s.wave core wave = some w → w.run = .running → w.liveLanes = 0 → w.ops = [] →
    w.queries = [] → w.repack = none → (∀ c ∈ (s.core core).cmds, c.wave ≠ some wave) → (∀ o ∈ (s.core core).array, o.wave ≠ some wave) →
    w.flow = 0 → w.kind = .grid → s.group w.group = some g → (∃ k ∈ g.live, k ≠ wave) → wave < 512 →
    ∃ t, exec .waveEnd s = .next t ∧ t = { s with waves := t.waves, groups := t.groups, cores := t.cores, dies := t.dies } ∧
      t.wave core wave = none ∧ (∀ d, t.die d = { s.die d with walks := (t.die d).walks, walkQueue := (t.die d).walkQueue }) ∧
      (∀ c k, k < 512 → ¬ (c = core ∧ k = wave) → t.wave c k = s.wave c k) ∧
      t.group w.group = some { g with live := g.live.filter (fun k => decide (k ≠ wave)), barriers := g.barriers.map barrierAfterEnd } ∧
      (∀ k, k ≠ w.group → t.group k = s.group k) ∧ ∀ c, t.core c = { s.core c with locked := (t.core c).locked })


namespace Sys2Proof.Claims

open Sys2Proof.Machine

/-! ## Service cores -/

/-- Of the module nothing changes but service core `n`, which becomes `c`. -/
def OnlySvc (s t : State) (n : Nat) (c : SvcCore) : Prop :=
  t = { s with svcs := t.svcs } ∧ (∀ k, k ≠ n → t.svc k = s.svc k) ∧ t.svc n = c

/-- Service core `n` with the scalars `xs` from `d` on and 0 in those that `u` frees; nothing else of the module has changed. -/
def SvcScalars (s t : State) (n : Nat) (u : Uses) (d : Nat) (xs : List Word) (pc : Dword) : Prop :=
  t = { s with svcs := t.svcs } ∧ (∀ k, k ≠ n → t.svc k = s.svc k) ∧
  t.svc n = { s.svc n with regs := (t.svc n).regs, banks := (t.svc n).banks, pc := pc } ∧
  ∀ k, k < 1024 → (t.svc n).s k = if d ≤ k ∧ k < d + xs.length then xs.getD (k - d) 0 else if k ∈ u.sfree then 0 else (s.svc n).s k

/-- The CSR space that a CSR instruction of service core `n` names: its own, or space 0 to 4 (16 R372). -/
def spaceOf (n : Nat) (a : SArgs) : Option Nat := if a.a = 0x3FF then some n else if a.a.toNat < 5 then some a.a.toNat else none

/-- What a CSR instruction names. -/
def csrUses (a : SArgs) (d : List Nat) : Uses := { sr := [a.b.toNat], sw := d, sfree := if a.lb then [a.b.toNat] else [] }

/-- The pending and enabled sources of a level at or below which no handler is left out (16 R370, R371). -/
def eventAt (s : State) (n l : Nat) : Prop :=
  (s.svc n).level < l ∧ s.handlerOk n l = true ∧ ∃ i < 11, (s.csrAt n 0x0A00).getLsbD i = true ∧ (s.csrAt n 0x0A04).getLsbD i = true ∧
    (s.csrAt n 0x0A08).toNat / 4 ^ i % 4 + 1 = l

/-- `l` is the level that service core `n` takes next. -/
def takesLevel (s : State) (n l : Nat) : Prop := 1 ≤ l ∧ l ≤ 4 ∧ eventAt s n l ∧ ∀ m, l < m → m ≤ 4 → ¬ eventAt s n m

/-- The physical address of a service core's scalar access, which the checks of 09 R199 that apply there pass (22 R443). -/
def svcAddress (s : State) (n : Nat) (a : SmArgs) (size : Nat) (p : Nat) : Prop :=
  p = (pair (s.svc n).s a.a.toNat + BitVec.ofInt 64 a.imm.toInt).toNat ∧ p < 2 ^ 46 ∧ p % size = 0

/-- The words of bytes, little-endian. -/
def wordsFrom (b : Nat → Byte) (n : Nat) : List Word :=
  (List.range n).map (fun k => BitVec.ofNat 32 (number ((List.range 4).map (fun j => b (4 * k + j)))))

/-- The marks of a scalar load and store. -/
def smUses (a : SmArgs) (data : List Nat) : Uses :=
  { sfree := (if a.la then (if a.a = 0x3FF then [] else [a.a.toNat, a.a.toNat + 1]) else []) ++ (if a.lb then data else []) }

/-- STATUS of a service core's INSTCTL. -/
def installState (s : State) (n : Nat) : Nat := (s.csrAt 4 (0x7008 + 16 * n)).toNat / 2 ^ 24 % 8

/-- The address of an image to install. -/
def imageAt (s : State) (n : Nat) : Nat :=
  (s.csrAt 4 (0x7004 + 16 * n)).toNat + 2 ^ 32 * ((s.csrAt 4 (0x7008 + 16 * n)).toNat % 2 ^ 14)

/-- A GO that ends with a status: of the module only INSTCTL, and what `more` says of the service core, changes. -/
def InstallEnds (s : State) (n st : Nat) (c : SvcCore) : Prop :=
  ∃ t, exec .scInstall s = .next t ∧ installState t n = st ∧ t = { s with csr := t.csr, svcs := t.svcs } ∧
    (∀ sp a, ¬ (csrKey sp a = csrKey 4 (0x7008 + 16 * n)) → t.csrAt sp a = s.csrAt sp a) ∧ t.svc n = c ∧ ∀ k, k ≠ n → t.svc k = s.svc k

end Sys2Proof.Claims

open Sys2Proof Sys2Proof.Machine Sys2Proof.Claims

/-- CSRRD, CSRWR, CSRSET and CSRCLR on a service core (16 R372): the old value goes to D, the register takes the write that its chapter gives
it, and the core goes on. Shown on the event mask of 16 R370 the write sets, clears and replaces its 16 bits. SLD and SST on a service core
(16 R367, 22 R443): relative to the PC SLD reads the core's own SRAM; otherwise both act on physical module memory, whose bytes nothing but
a store's own changes. -/
def Obligations.ServiceCoreRegisters : Prop :=
  ((∀ (a : SArgs) s n space, s.cur.svc = some n → spaceOf n a = some space → a.imm.toNat % 4 = 0 →
     let addr := a.imm.toNat
     let x := (s.svc n).s a.b.toNat
     (∃ t, exec (.csrrd a) s = .next t ∧ SvcScalars (s.csrRead space addr).2 t n {} a.d.toNat [(s.csrRead space addr).1] s.cur.next) ∧
     (∃ s₁, SvcScalars s s₁ n (csrUses a []) 0 [] (s.svc n).pc ∧ exec (.csrwr a) s = .next (s₁.csrWrite (.svc n) space addr x).advance) ∧
     (∃ s₁, SvcScalars s s₁ n (csrUses a [a.d.toNat]) 0 [] (s.svc n).pc ∧ let r := s₁.csrRead space addr
       exec (.csrset a) s = .next ((r.2.csrWrite (.svc n) space addr (r.1 ||| x)).putScalars a.d.toNat [r.1]).advance ∧
       exec (.csrclr a) s = .next ((r.2.csrWrite (.svc n) space addr (r.1 &&& ~~~x)).putScalars a.d.toNat [r.1]).advance)) ∧
   (∀ (a : SArgs) s n space, s.cur.svc = some n → spaceOf n a = some space → a.imm = 0x0A04 →
     let x := (s.svc n).s a.b.toNat
     let old := s.csrAt space 0x0A04
     let done := fun (i : Instr) (d : List Nat) (v : Word) (xs : List Word) => ∃ t r, exec i s = .next t ∧
       SvcScalars s r n (csrUses a d) a.d.toNat xs s.cur.next ∧ t = { r with csr := t.csr } ∧
       ∀ p q, t.csrAt p q = if csrKey p q = csrKey space 0x0A04 then (old &&& 0xFFFF0000) ||| (v &&& 0xFFFF) else s.csrAt p q
     done (.csrwr a) [] x [] ∧ done (.csrset a) [a.d.toNat] (old ||| x) [old] ∧ done (.csrclr a) [a.d.toNat] (old &&& ~~~x) [old]) ∧
   (∀ (a : SArgs) s n, s.cur.svc = some n → ∀ i, i = .csrrd a ∨ i = .csrwr a ∨ i = .csrset a ∨ i = .csrclr a →
     (spaceOf n a = none → exec i s = .next (s.svcHalt n { cause := .illegalOperand, addr := s.cur.iaddr } s.cur.iaddr)) ∧
     (spaceOf n a ≠ none → a.imm.toNat % 4 ≠ 0 →
       exec i s = .next (s.svcHalt n { cause := .misaligned, kind := .load, addr := BitVec.ofNat 64 a.imm.toNat } s.cur.iaddr))) ∧
   (∀ (a : SArgs) s w sp, s.cur.svc = none → s.issuing = some (w, sp) →
     ∀ i, i = .csrrd a ∨ i = .csrwr a ∨ i = .csrset a ∨ i = .csrclr a ∨ i = .wfe a ∨ i = .evret →
       ∃ t, exec i s = .next t ∧ StopsAt s t w .illegalOpcode s.cur.iaddr)) ∧
  ((∀ (sz : ScalarSize) (a : SmArgs) s n, s.cur.svc = some n → a.a = 0x3FF →
     let size := 4 * scalarWords sz
     let off := (s.cur.iaddr + BitVec.ofInt 64 (a.imm.toInt * size)).toNat
     (off + size ≤ 262144 → ∃ t, exec (.sld sz a) s = .next t ∧
       SvcScalars s t n {} a.d.toNat (wordsFrom (fun k => Table.get memDefault (s.svc n).sram (off + k)) (scalarWords sz)) s.cur.next) ∧
     (262144 < off + size → exec (.sld sz a) s =
       .next (s.svcHalt n { cause := .pageProtection, kind := .scalarLoad, addr := BitVec.ofNat 64 off } s.cur.iaddr))) ∧
   (∀ (sz : ScalarSize) (a : SmArgs) s n p, s.cur.svc = some n → a.a ≠ 0x3FF → svcAddress s n a (4 * scalarWords sz) p → placeOf p = .memory →
     ∃ t, exec (.sld sz a) s = .next t ∧ SvcScalars s t n { sfree := if a.la then [a.a.toNat, a.a.toNat + 1] else [] } a.d.toNat
       (wordsFrom (fun k => s.byte (p + k)) (scalarWords sz)) s.cur.next) ∧
   (∀ (sz : ScalarSize) (a : SmArgs) s n p, sz ≠ .b128 → s.cur.svc = some n → a.a ≠ 0x3FF → svcAddress s n a (4 * scalarWords sz) p →
     placeOf p = .memory →
     let data := (List.range (scalarWords sz)).map (a.d.toNat + ·)
     ∃ t r, exec (.sst sz a) s = .next t ∧ SvcScalars s r n (smUses a data) 0 [] s.cur.next ∧
       t = { r with mem := t.mem, memPoison := t.memPoison, cores := t.cores } ∧ (∀ c, t.core c = { s.core c with l1 := (t.core c).l1 }) ∧
       ∀ x, t.byte x = if p ≤ x ∧ x < p + 4 * scalarWords sz
         then (((s.svc n).s (a.d.toNat + (x - p) / 4)).extractLsb' (8 * ((x - p) % 4)) 8) else s.byte x))

/-- WFE and EVRET (16 R372), SC_EVENT_TAKE (16 R370, R371), WFE_TIMEOUT, EVPEND_CLEAR (16 R370) and SC_RESTART (16 R367). A core takes the
highest level above its own that a pending, enabled source has and whose handler may run; a WFE that waits completes with 0. SC_INSTALL and
SC_INSTALL_COMPLETE (16 R368, R369): an image that cannot be read has status 6, one with a bad header 3, one whose key is not allowed 5, one
whose signature fails 4; a good one waits with status 1 until it is installed: the core then runs its code from the entry, with its event
registers at 0, and the count of installs rises. -/
def Obligations.ServiceCoreEvents : Prop :=
  ((∀ (a : SArgs) s n, s.cur.svc = some n →
     let x := ((s.svc n).s a.b.toNat).toNat
     ∃ t r, exec (.wfe a) s = .next t ∧ SvcScalars s r n (csrUses a [a.d.toNat]) 0 [] s.cur.next ∧
       OnlySvc r t n { r.svc n with waiting := some (if x = 0 then 0 else (s.svc n).cycle.toNat + x), wfeDest := a.d.toNat }) ∧
   (∀ s n pc l, s.cur.svc = some n → Table.get noneAt (s.svc n).saved (s.svc n).level = some (pc, l) →
     ∃ t, exec .evret s = .next t ∧
       OnlySvc s t n { s.svc n with pc := pc, level := l, saved := Table.set noneAt (s.svc n).saved (s.svc n).level none }) ∧
   (∀ s n, s.cur.svc = some n → Table.get noneAt (s.svc n).saved (s.svc n).level = none →
     exec .evret s = .next (s.svcHalt n { cause := .illegalOperand, addr := s.cur.iaddr } s.cur.iaddr)) ∧
   (∀ (s : State) n l, s.arg = .at1 n → (s.svc n).halted = false → (s.svc n).asked = false → takesLevel s n l →
     ∃ t r, exec .scEventTake s = .next t ∧
       SvcScalars s r n {} (s.svc n).wfeDest (if (s.svc n).waiting = none then [] else [0]) (s.svc n).pc ∧
       OnlySvc r t n { r.svc n with waiting := none, level := l, pc := BitVec.ofNat 64 (s.csrAt n (0x0A0C + 4 * l)).toNat,
                                    saved := Table.set noneAt (s.svc n).saved l (some ((s.svc n).pc, (s.svc n).level)) }) ∧
   (∀ (s : State) n, s.arg = .at1 n → (∀ l, 1 ≤ l → l ≤ 4 → ¬ eventAt s n l) → exec .scEventTake s = .next s) ∧
   (∀ (s : State) n, s.arg = .at1 n → (s.svc n).wfeDest < 1024 →
     (∀ d, (s.svc n).waiting = some d → d ≠ 0 → d ≤ (s.svc n).cycle.toNat → ∃ t r, exec .wfeTimeout s = .next t ∧
       SvcScalars s r n {} (s.svc n).wfeDest [1] (s.svc n).pc ∧ OnlySvc r t n { r.svc n with waiting := none }) ∧
     ((∀ d, (s.svc n).waiting = some d → d = 0 ∨ (s.svc n).cycle.toNat < d) →
       ∃ t, exec .wfeTimeout s = .next t ∧ OnlySvc s t n (s.svc n))) ∧
   (∀ (s : State) n v, s.arg = .value n v → ∃ t, exec .evpendClear s = .next t ∧ t = { s with csr := t.csr } ∧
     ∀ p q, t.csrAt p q = if csrKey p q = csrKey n 0x0A00 then s.csrAt n 0x0A00 &&& ~~~v else s.csrAt p q) ∧
   (∀ (s : State) n, s.arg = .at1 n → n < 5 →
     (∀ image, (s.svc n).halted = true → (s.svc n).image = some image → ∃ t, exec .scRestart s = .next t ∧
       OnlySvc s t n { s.svc n with halted := false, waiting := none, level := 0, saved := [], regs := [], banks := [],
                                    pc := BitVec.ofNat 64 (number ((image.drop 8).take 4)) }) ∧
     ((s.svc n).halted = false ∨ (s.svc n).image = none → exec .scRestart s = .next s))) ∧
  ((∀ (s : State) n, s.arg = .at1 n → n < 5 → installState s n ≠ 1 →
     let a := imageAt s n
     let head := s.bytes a 256
     let size := number ((head.drop 4).take 4)
     let key := (head.getD 12 0).toNat
     let image := head.take 64 ++ s.bytes (a + 256) size
     let bad := fun (x len : Nat) => 2 ^ 39 < x + len ∨ s.poisoned x len = true
     (bad a 256 → InstallEnds s n 6 (s.svc n)) ∧
     (¬ bad a 256 → imageOk head = false → InstallEnds s n 3 (s.svc n)) ∧
     (¬ bad a 256 → imageOk head = true → bad (a + 256) size → InstallEnds s n 6 (s.svc n)) ∧
     (¬ bad a 256 → imageOk head = true → ¬ bad (a + 256) size → s.keyAllowed key = false → InstallEnds s n 5 (s.svc n)) ∧
     (¬ bad a 256 → imageOk head = true → ¬ bad (a + 256) size → s.keyAllowed key = true →
       Config.signatureVerifies key image ((head.drop 64).take 96) = false → InstallEnds s n 4 (s.svc n)) ∧
     (¬ bad a 256 → imageOk head = true → ¬ bad (a + 256) size → s.keyAllowed key = true →
       Config.signatureVerifies key image ((head.drop 64).take 96) = true →
       InstallEnds s n 1 { s.svc n with installing := some image })) ∧
   (∀ (s : State) n, s.arg = .at1 n → n < 5 → installState s n = 1 → exec .scInstall s = .next s) ∧
   (∀ (s : State) n image, s.arg = .at1 n → n < 5 → (s.svc n).installing = some image → (s.svc n).asked = false →
     ∃ t c, exec .scInstallComplete s = .next t ∧ t = { s with csr := t.csr, svcs := t.svcs } ∧ (∀ k, k ≠ n → t.svc k = s.svc k) ∧
       t.svc n = c ∧ c = { cycle := (s.svc n).cycle, image := some image, sram := c.sram, halted := false,
                           pc := BitVec.ofNat 64 (number ((image.drop 8).take 4)) } ∧
       (∀ k, Table.get memDefault c.sram k = image.getD (64 + k) 0) ∧ installState t n = 2 ∧
       t.csrAt 4 (0x700C + 16 * n) = s.csrAt 4 (0x700C + 16 * n) + 1 ∧
       ∀ x ∈ [0x0A00, 0x0A04, 0x0A08, 0x0A10, 0x0A14, 0x0A18, 0x0A1C], t.csrAt n x = 0))


namespace Sys2Proof.Claims

open Sys2Proof.Machine

/-! ## Passes: mesh waves, binning, tiles -/

/-- The lanes of run in ascending order. -/
def runList (f : FArgs) (w : Wave) (sp : Split) : List Nat := (List.range 64).filter (fun l => (run f w sp).getLsbD l)

/-- The issuing wave is a mesh wave of an open block of a pass (17 R380). -/
def MeshWave (s : State) (w : Wave) (die slot : Nat) (p : Pass) (b : MeshBlock) : Prop :=
  ∃ seq, w.kind = .mesh die slot seq ∧ w.mendDone = false ∧ s.passAt die slot = some p ∧ p.blocks.find? (fun x => x.seq = seq) = some b

/-- Where a block's bytes begin in the pool. -/
def blockAt (p : Pass) (b : MeshBlock) : Nat := p.record.pool + 4096 * b.first

/-- MOUT or POUT of a mesh wave makes a store of `size` bytes for each lane of run, at the address and with the data of the lane, which stands
behind the wave's other accesses (17 R380; 10 R218). -/
def MeshStores (o : Out) (s : State) (f : FArgs) (u : Uses) (size : Nat) (addr : Wave → Nat → Nat) (data : Wave → Nat → Nat) : Prop :=
  IssuesOp o s u .none (run f) (fun w sp op => op.kind = .store ∧ op.access = .store ∧ op.space = .global ∧ op.size = size ∧ op.live = run f w sp ∧
    ∀ l < 64, (run f w sp).getLsbD l = true → op.addr l = BitVec.ofNat 64 (addr w l) ∧ Table.get zeroQuad op.data l = BitVec.ofNat 128 (data w l))

/-- Of the module one pass of a die changes, to `p`. -/
def OnlyPass (s t : State) (die slot : Nat) (p : Option Pass) : Prop :=
  t = { s with dies := t.dies } ∧ t.passAt die slot = p ∧ (∀ d k, ¬ (d = die ∧ k = slot) → t.passAt d k = s.passAt d k) ∧
  ∀ d, t.die d = { s.die d with passes := (t.die d).passes }

/-- The tile of core `core`'s engine in a pass has become `j`, and nothing else of the module has changed but the count of free draws. -/
def JobBecomes (s t : State) (die slot : Nat) (p : Pass) (core : Nat) (j : Option TileJob) : Prop :=
  ∃ q, t = { s with dies := t.dies, free := t.free } ∧ OnlyPass { s with free := t.free } t die slot (some q) ∧ q = { p with jobs := q.jobs } ∧
    ∀ k, Table.get noneAt q.jobs k = if k = core then j else Table.get noneAt p.jobs k

/-- The memory of a state is that of another with the bytes `bs` at `pa`. -/
def Stored (s t : State) (pa : Nat) (bs : List Byte) : Prop :=
  ∀ a, t.byte a = if pa ≤ a ∧ a < pa + bs.length then bs.getD (a - pa) 0 else s.byte a

/-- How many amplification entries a request gets of those that are left (17 R377). -/
def grants (req : Nat → Nat) (lanes : List Nat) (left : Nat) (cnt : Nat → Nat) : Prop :=
  ∀ k, k < lanes.length → cnt (lanes.getD k 0) =
    min (min (req (lanes.getD k 0)) 4096) (left - ((lanes.take k).map cnt).sum)

/-- Of a pass a block of five free chunks can begin at `c`. -/
def blockFits (p : Pass) (c : Nat) : Prop := ∀ j < 5, c + j < p.total ∧ c + j ∉ p.used

end Sys2Proof.Claims

open Sys2Proof Sys2Proof.Machine Sys2Proof.Claims

/-- EMITM (17 R374, R376, R377) in a wave that is no mesh or pixel wave, for a pass that its launch has open: each lane gets what it asks for,
at most 4,096, as long as the 4,096 entries of the die last, in lane order; the entries take the next sequence numbers and the payloads
counted up from the lane's; the lane's count goes to D. In a mesh or pixel wave it stops. MESH_WAVE_PLACE (17 R376, R378, R382): without
five chunks in a row, or eight more, the pass enters its grow wait, which its service core and the driver are told; else the head entry's
wave is placed, with its block in free chunks and the entry in its scalars. -/
def Obligations.MeshShading : Prop :=
  ((∀ (f : FArgs) s s' w sp l slot p g, Gathers s 64 s' → Issues s' (FOp.uses .emitm f) w sp → s'.shadowOf w.group = false →
     (w.kind = .grid ∨ w.kind = .task) → s'.mayRelease 5 = true → s'.launch (s'.ownLaunch w) = some l →
     let die := s'.cur.core / 16
     let r := w.seen sp s'.free
     (s'.die die).passOf l.ctx (pair r.s f.s.toNat) = some slot → s'.passAt die slot = some p → s'.group w.group = some g →
     ∃ t v cnt, exec (.emitm f) s = .next t ∧
       grants (fun i => (r.v f.a.toNat i).toNat) (runList f r sp) (4096 - (s'.die die).amps.length) cnt ∧
       t = { s' with waves := t.waves, groups := t.groups, dies := t.dies, free := t.free } ∧
       t.wave s'.cur.core s'.cur.wave = some v ∧ OnlyRegisters w v s'.cur.split (past s' sp) ∧
       (∀ k l, l < 64 → v.v k l = if k = f.d.toNat ∧ (run f r sp).getLsbD l = true then BitVec.ofNat 32 (cnt l)
         else kept w sp (FOp.uses .emitm f) k l) ∧
       t.passAt die slot = some { p with nextSeq := p.nextSeq + ((runList f r sp).map cnt).sum } ∧
       ((t.group w.group).map (fun x => x.emitted)) = some true ∧
       (t.die die).amps = (s'.die die).amps ++
         ((runList f r sp).flatMap (fun i => (List.range (cnt i)).map (fun j => r.v (f.a.toNat + 1) i + BitVec.ofNat 32 j))).zipIdx.map
           (fun x => ({ slot := slot, seq := p.nextSeq + x.2, payload := x.1 } : AmpEntry))) ∧
   (∀ (f : FArgs) s s' w sp die slot k, Gathers s 64 s' → s'.issuing = some (w, sp) → s'.cur.svc = none → s'.shadowOf w.group = false →
     (w.kind = .mesh die slot k ∨ w.kind = .pixel die slot k) → ∃ t, exec (.emitm f) s = .next t ∧ StopsAt s' t w .illegalOperand s'.cur.iaddr)) ∧
  (∀ (s : State) die e es p, s.arg = .at1 die → (s.die die).amps = e :: es → s.passAt die e.slot = some p → 32 ≤ p.cleared →
     (p.state ≠ 1 → exec .meshWavePlace s = .next s) ∧
     (p.state = 1 → (p.total < p.used.length + 13 ∨ ∀ c, c < p.total → ¬ blockFits p c) → p.writes ≠ [] → exec .meshWavePlace s = .next s) ∧
     (p.state = 1 → (p.total < p.used.length + 13 ∨ ∀ c, c < p.total → ¬ blockFits p c) → p.writes = [] →
       ∃ t, exec .meshWavePlace s = .next t ∧ t = { s with dies := t.dies, out := t.out, csr := t.csr } ∧
         t.passAt die e.slot = some { p with state := 2, growAt := (s.svc die).cycle.toNat } ∧
         (∃ m, Table.get nilAt t.out 0 = Table.get nilAt s.out 0 ++ [m] ∧ m.type = 0x0D ∧ m.args.toNat % 16 = 6) ∧
         (t.csrAt die 0x0A00).getLsbD 6 = true ∧ (t.die die).amps = (s.die die).amps) ∧
     (p.state = 1 → p.used.length + 13 ≤ p.total → (∃ c, blockFits p c) → ∀ l segs c cs id, s.launch p.meshLaunch = some l →
       l.segments = some segs → l.nwaves = 1 → s.coresFor p.meshLaunch l false ((List.range 16).map (16 * die + ·)) = some (c :: cs) →
       s.freeWaveId c = id → s.wave c id = none →
       ∃ t block v, exec .meshWavePlace s = .next t ∧ blockFits p block ∧ (t.die die).amps = es ∧
         t.passAt die e.slot = some { p with used := p.used ++ [block, block + 1, block + 2, block + 3, block + 4],
                                             blocks := p.blocks ++ [{ seq := e.seq, first := block }], meshWaves := p.meshWaves + 1 } ∧
         t.wave c id = some v ∧ v.kind = .mesh die e.slot e.seq ∧ v.group = s.nextGroup ∧ v.run = .running ∧ v.ctx = l.ctx ∧
         [v.s 2, v.s 3, v.s 4, v.s 5, v.s 6] = low p.recAddr ++ [e.payload, BitVec.ofNat 32 e.seq, BitVec.ofNat 32 block] ∧
         (v.split 0).map (fun x => x.pc) = some (l.pair 2 + BitVec.ofNat 64 (l.w 4).toNat) ∧ t.mem = s.mem))

/-- MOUT, POUT and MEND (17 R380) in a mesh wave: a store of 16 bytes of vertex v, or of entry n of the primitives, for each lane of run, in the
wave's block; MEND, from the sole live split of a wave of 8 lanes or more (02 R48), closes the block with the counts of S. An index or a count beyond its limit, and these instructions elsewhere or after MEND,
stop. PIXOUT and PIXDISC (17 R385, R386) in a pixel wave: the colour of each lane of run that is no helper, with its blend bit; or the lanes
of run become helpers and contribute none. Elsewhere they stop. -/
def Obligations.PassOutput : Prop :=
  ((∀ (f : FArgs) s w sp die slot p b, MeshWave s w die slot p b → let r := w.seen sp s.free
     (Issues s (FOp.uses .mout f) w sp →
       ((∀ i ∈ runList f r sp, (r.v f.a.toNat i).toNat < 256) → MeshStores (exec (.mout f) s) s f (FOp.uses .mout f) 16
         (fun r i => blockAt p b + 64 * (r.v f.a.toNat i).toNat + 16 * (f.d.toNat % 4))
         (fun r i => (r.v (f.b.toNat + 3) i ++ r.v (f.b.toNat + 2) i ++ r.v (f.b.toNat + 1) i ++ r.v f.b.toNat i).toNat)) ∧
       ((∃ i ∈ runList f r sp, 256 ≤ (r.v f.a.toNat i).toNat) → ∃ t, exec (.mout f) s = .next t ∧ StopsAt s t w .illegalOperand s.cur.iaddr)) ∧
     (Issues s (FOp.uses .pout f) w sp →
       ((∀ i ∈ runList f r sp, (r.v f.a.toNat i).toNat < 512) → MeshStores (exec (.pout f) s) s f (FOp.uses .pout f) 8
         (fun r i => blockAt p b + 16384 + 8 * (r.v f.a.toNat i).toNat)
         (fun r i => (r.v f.b.toNat i).toNat % 2 ^ 24 + 2 ^ 24 * ((r.v (f.b.toNat + 1) i).toNat % 2 ^ 22))) ∧
       ((∃ i ∈ runList f r sp, 512 ≤ (r.v f.a.toNat i).toNat) → ∃ t, exec (.pout f) s = .next t ∧ StopsAt s t w .illegalOperand s.cur.iaddr))) ∧
   (∀ (f : FArgs) s₀ s w sp die slot p b, Gathers s₀ 64 s → MeshWave s w die slot p b → let r := w.seen sp s.free
     (Issues s (FOp.uses .mend f) w sp → s.mayRelease 5 = true →
       let nv := (r.s f.s.toNat).toNat % 2 ^ 9
       let np := (r.s f.s.toNat).toNat / 2 ^ 16 % 2 ^ 10
       (nv ≤ 256 → np ≤ 512 → ∃ t q v, exec (.mend f) s₀ = .next t ∧ OnlyIssuer s q v ∧ RegsKept w v sp (FOp.uses .mend f) ∧
         v.sansRegs = ({ w.setSplit s.cur.split (some (past s sp)) with mendDone := true } : Wave).sansRegs ∧ t = { q with dies := t.dies } ∧
         t.passAt die slot = some { p with blocks := p.blocks.map (fun x =>
           if x.seq = b.seq then { x with verts := nv, prims := np, closed := true } else x) }) ∧
       (256 < nv ∨ 512 < np → ∃ t, exec (.mend f) s₀ = .next t ∧ StopsAt s t w .illegalOperand s.cur.iaddr))) ∧
   (∀ (f : FArgs) s₀ s w sp, s.issuing = some (w, sp) → s.cur.svc = none → ((∀ d k q, w.kind ≠ .mesh d k q) ∨ w.mendDone = true) →
     (∀ i, i = .mout f ∨ i = .pout f → ∃ t, exec i s = .next t ∧ StopsAt s t w .illegalOperand s.cur.iaddr) ∧
     (Gathers s₀ 64 s → ∃ t, exec (.mend f) s₀ = .next t ∧ StopsAt s t w .illegalOperand s.cur.iaddr))) ∧
  ((∀ (f : FArgs) s w sp die slot tile, Issues s (FOp.uses .pixout f) w sp → w.kind = .pixel die slot tile →
     let r := w.seen sp s.free
     ∃ t v, exec (.pixout f) s = .next t ∧ OnlyIssuer s t v ∧ RegsKept w v sp (FOp.uses .pixout f) ∧
       v.sansRegs = ({ w.setSplit s.cur.split (some (past s sp)) with colour := v.colour } : Wave).sansRegs ∧
       ∀ i, Table.get noneAt v.colour i = if i < 64 ∧ (run f r sp).getLsbD i = true ∧ w.helper.getLsbD i = false
         then some (f.b.getLsbD 0, r.v (f.a.toNat + 3) i ++ r.v (f.a.toNat + 2) i ++ r.v (f.a.toNat + 1) i ++ r.v f.a.toNat i)
         else Table.get noneAt w.colour i) ∧
   (∀ (s : State) w sp x die slot tile, s.cur.svc = none → s.issuing = some (w, sp) → s.cur.aux = some x → x.rep = none →
     w.kind = .pixel die slot tile →
     ∃ v, exec .pixdisc s = .next (s.setWave s.cur.core s.cur.wave (some v)) ∧
       v = { w.setSplit s.cur.split (some (past s sp)) with helper := w.helper ||| run x.f w sp, colour := v.colour } ∧
       ∀ i, Table.get noneAt v.colour i = if i < 64 ∧ (run x.f w sp).getLsbD i = true then none else Table.get noneAt w.colour i) ∧
   (∀ (f : FArgs) s w sp x, s.issuing = some (w, sp) → s.cur.svc = none → s.cur.aux = some x → (∀ d k q, w.kind ≠ .pixel d k q) →
     ∀ i, i = .pixout f ∨ i = .pixdisc → ∃ t, exec i s = .next t ∧ StopsAt s t w .illegalOperand s.cur.iaddr))

/-- BIN_BLOCK (17 R374, R381): the last page of the bitmap that is still to be cleared is written to zeros; the unit passes over a wave that closed
no block and the end of a closed one; a word of a primitive is read where memory holds it; a culled primitive is counted; one that has met its
last tile is done; a reference goes to the list of the next tile that its primitive touches, and is then written there. BINWAIT_EXPIRY, BINPASS_GROW,
BINPASS_DECLINE, BINPASS_RESUME and FINAL_RENDER (17 R375, R382, R383, R393). TILE_RENDER (17 R382–R384): the engine of a core takes the next
tile; a tile begins with what its first steps leave of the words read, the engine writes its words one by one, and a tile whose waves have ended
is stored and done; a partial render that is over frees its chunks and counts, the final one frees the pass and its templates. -/
def Obligations.PassEvents : Prop :=
  (∀ (s : State) die slot p, s.arg = .at2 die slot → s.passAt die slot = some p →
     let held := ∃ e ∈ (s.die die).amps, e.slot = slot ∧ e.seq = p.binSeq
     let here := p.blocks.find? (fun b => b.seq = p.binSeq)
     let access := fun (s : State) (a n : Nat) (write : Bool) =>
       s.hubCheck p.ctx (BitVec.ofNat 64 a) n { read := !write, write := write, plain := true }
     (p.state ≠ 5 → p.cleared = 31 → p.reads.wrote = false → ∀ pa e, access s (p.record.bitmap + 4096 * 31) 4096 true = .ok (pa, e) →
       placeOf pa = .memory → ∃ t, exec .binBlock s = .next t ∧ Stored s t pa (List.replicate 4096 0) ∧ t.csr = s.csr ∧ t.waves = s.waves ∧
         t.passAt die slot = some { p with cleared := 32 }) ∧
     (32 ≤ p.cleared → p.state = 1 → ∀ x pa e, p.writes = [x] → p.reads.wrote = false → x.setBits = false → access s x.addr x.n true = .ok (pa, e) →
       placeOf pa = .memory → ∃ t, exec .binBlock s = .next t ∧ Stored s t pa (leBytes x.n x.value) ∧ t.csr = s.csr ∧ t.waves = s.waves ∧
         t.passAt die slot = some { p with writes := [] }) ∧
     (32 ≤ p.cleared → (p.state ≠ 1 ∨ (p.writes = [] ∧ (p.nextSeq ≤ p.binSeq ∨ held))) → exec .binBlock s = .next s) ∧
     (32 ≤ p.cleared → p.state = 1 → p.writes = [] → p.binSeq < p.nextSeq → ¬ held →
       (∀ b, here = some b → b.closed = false → exec .binBlock s = .next s) ∧
       ((here = none ∨ ∃ b, here = some b ∧ b.closed = true ∧ b.prims ≤ p.binPrim) →
         ∃ t, exec .binBlock s = .next t ∧ OnlyPass s t die slot (some { p with binSeq := p.binSeq + 1, binPrim := 0, binTile := 0 })) ∧
       ∀ b, here = some b → b.closed = true → p.binPrim < b.prims →
         let ref := BitVec.ofNat 64 (b.first * 2 ^ 40 + p.binPrim * 2 ^ 31)
         let next := { p with binPrim := p.binPrim + 1, binTile := 0, reads := {} }
         (∀ a pa e, p.readTri p.reads ref = .error a → access { s with free := s.free + 1 } a 4 false = .ok (pa, e) → placeOf pa = .memory → s.poisoned pa 4 = false →
           ∃ t, exec .binBlock s = .next t ∧ OnlyPass { s with free := t.free } t die slot (some { p with
             reads := { p.reads with words := Table.set noneAt p.reads.words a (some (BitVec.ofNat 32 (number (s.bytes pa 4)))) } })) ∧
         (p.readTri p.reads ref = .ok none → ∃ t, exec .binBlock s = .next t ∧ t.passAt die slot = some next ∧
           t = { s with dies := t.dies, csr := t.csr } ∧ t.csrAt die (0x0C1C + 32 * slot) = s.csrAt die (0x0C1C + 32 * slot) + 1) ∧
         (∀ tri, p.readTri p.reads ref = .ok (some tri) →
           ((p.record.touched tri).length ≤ p.binTile → ∃ t, exec .binBlock s = .next t ∧ OnlyPass s t die slot (some next)) ∧
           (∀ tile, (p.record.touched tri)[p.binTile]? = some tile → let n := p.count tile
             n % 511 ≠ 0 → ∃ t, exec .binBlock s = .next t ∧ OnlyPass s t die slot (some { p with
               refs := Table.set zeroNat p.refs tile (n + 1), binTile := p.binTile + 1,
               writes := [{ addr := p.record.pool + 4096 * (p.list tile).getLastD 0 + 8 * (n % 511), n := 8, value := ref.toNat }] }))))) ∧
  ((∀ (s : State) die slot p, s.arg = .at2 die slot → s.passAt die slot = some p →
     let partly := if p.state ≠ 2 then p
       else { p with state := 3, todo := (List.range p.record.tiles).filter (fun t => decide (p.count t ≠ 0)) }
     let n := (s.csrAt die 0x0E00).toNat
     (n ≠ 0 → n ≤ (s.svc die).cycle.toNat - p.growAt → ∃ t, exec .binwaitExpiry s = .next t ∧ OnlyPass s t die slot (some partly)) ∧
     (n = 0 ∨ (s.svc die).cycle.toNat - p.growAt < n → exec .binwaitExpiry s = .next s) ∧
     (∃ t, exec .binpassDecline s = .next t ∧ OnlyPass s t die slot (some partly)) ∧
     (∃ t, exec .binpassResume s = .next t ∧ OnlyPass s t die slot (some (if p.state = 5 then { p with state := p.back } else p)))) ∧
   (∀ (s : State) die slot add p, s.arg = .at3 die slot add → s.passAt die slot = some p →
     ∃ t, exec .binpassGrow s = .next t ∧ OnlyPass s t die slot (some (if 2 ^ 24 < p.total + add then p
       else { p with total := p.total + add, state := if p.state = 2 then 1 else p.state }))) ∧
   (∀ (s : State) die slot p l, s.arg = .at2 die slot → s.passAt die slot = some p → s.launch p.launch = some l →
     let ready := p.state = 1 ∧ (l.groups ≤ l.nextGroup ∧ l.discarded = [] ∧ l.groups ≤ l.ended) ∧
       (∀ e ∈ (s.die die).amps, e.slot ≠ slot) ∧ p.meshWaves = 0 ∧ p.nextSeq ≤ p.binSeq ∧ 32 ≤ p.cleared ∧ p.writes = []
     (ready → ∃ t, exec .finalRender s = .next t ∧ OnlyPass s t die slot (some { p with state := 4, todo := List.range p.record.tiles })) ∧
     (¬ ready → exec .finalRender s = .next s))) ∧
  (∀ (s : State) die slot core p, s.arg = .at3 die slot core → s.passAt die slot = some p →
     let at_ := Table.get noneAt p.jobs core
     let busy := ∃ x ∈ (s.die die).passes, ∃ q, x.2 = some q ∧ Table.get noneAt q.jobs core ≠ none
     ((p.state ≠ 3 ∧ p.state ≠ 4) ∨ core / 16 ≠ die → exec .tileRender s = .next s) ∧
     (p.state = 3 ∨ p.state = 4 → core / 16 = die →
       (∀ tile rest, at_ = none → p.todo = tile :: rest →
         (busy → exec .tileRender s = .next s) ∧
         (¬ busy → ∃ t, exec .tileRender s = .next t ∧ OnlyPass s t die slot (some { p with
           todo := rest, jobs := Table.set noneAt p.jobs core (some { tile := tile }) }))) ∧
       (∀ j, at_ = some j →
         (∀ x, j.stage = 0 → p.tileStart j.reads s.free j.tile = .ok x → ∃ t, exec .tileRender s = .next t ∧ JobBecomes s t die slot p core (some x)) ∧
         (∀ a, j.stage = 0 → p.tileStart j.reads s.free j.tile = .error a →
           ∀ s₁, s.readNext (.tile die slot core) core p.ctx [a] = (none, s₁) → exec .tileRender s = .next s₁) ∧
         (∀ x pa e s₁, (j.stage = 1 ∨ j.stage = 3) → j.writes = [x] → j.reads = {} → x.setBits = false →
           ({ s with free := s.free + 1 } : State).readerCheck (.tile die slot core) core p.ctx (BitVec.ofNat 64 x.addr) x.n true = (.ok (pa, e), s₁) →
           placeOf pa = .memory → s.noStagedAt core pa x.n = true →
           ∃ t q, exec .tileRender s = .next t ∧ Stored s t pa (leBytes x.n x.value) ∧ t.waves = s.waves ∧ t.passAt die slot = some q ∧
             Table.get noneAt q.jobs core = some { j with writes := [] }) ∧
         (j.stage = 1 → j.writes = [] → ∃ t, exec .tileRender s = .next t ∧ JobBecomes s t die slot p core (some { j with stage := 2 })) ∧
         (j.stage = 2 → j.quads.length ≤ j.placed →
           (j.waves ≠ 0 → exec .tileRender s = .next s) ∧
           (j.waves = 0 → ∃ t, exec .tileRender s = .next t ∧
             JobBecomes s t die slot p core (some { j with stage := 3, writes := j.stores p.record }))) ∧
         (j.stage = 3 → j.writes = [] → ∃ t, exec .tileRender s = .next t ∧
           JobBecomes s t die slot { p with rendered := j.tile :: p.rendered } core none)) ∧
       (at_ = none → p.todo = [] → p.jobs ≠ [] → exec .tileRender s = .next s)) ∧
     (p.state = 3 → core / 16 = die → p.jobs = [] → p.todo = [] →
       ∃ t q, exec .tileRender s = .next t ∧ t = { s with dies := t.dies, csr := t.csr } ∧ t.passAt die slot = some q ∧ q.state = 1 ∧
         q.lists = [] ∧ q.refs = [] ∧ q.blocks = p.blocks.filter (fun b => decide (p.binSeq ≤ b.seq)) ∧
         (∀ c, c ∈ q.used ↔ c ∈ p.used ∧ (∀ e ∈ p.lists, c ∉ e.2) ∧
           ∀ b ∈ p.blocks, b.seq < p.binSeq → c < b.first ∨ b.first + 5 ≤ c) ∧
         t.csrAt die (0x0C18 + 32 * slot) = s.csrAt die (0x0C18 + 32 * slot) + 1) ∧
     (p.state = 4 → core / 16 = die → p.jobs = [] → p.todo = [] →
       ∃ t, exec .tileRender s = .next t ∧ t = { s with dies := t.dies, launches := t.launches } ∧ t.passAt die slot = none ∧
         t.launch p.meshLaunch = none ∧ t.launch p.pixelLaunch = none))


namespace Sys2Proof.Claims

open Sys2Proof.Machine

/-! ## Ray queries -/

/-- A query as it starts (18 R401, R404). -/
def newQuery (s : State) (f : FArgs) (w : Wave) (l u : Nat) (any : Bool) : Query :=
  { d := f.d.toNat, unit := u, any := any, ray := (List.range 8).map (fun k => w.v (f.a.toNat + k) l), flags := f.b.extractLsb' 0 3,
    stack := [{ addr := pair w.s f.s.toNat, near := f32 (w.v (f.a.toNat + 3) l) }], pc := s.cur.iaddr, split := s.cur.split }

/-- The queries that use a ray unit of a core. -/
def unitLoad (s : State) (core u : Nat) : Nat := ((s.queriesOn core).filter (fun q => decide (q.2 = u))).length

/-- A query of lane `l` has ended with a report: its D registers hold the eight words, in that lane alone. -/
def Reports (w v : Wave) (l d : Nat) (words : List Word) : Prop :=
  Table.get noneAt v.queries l = none ∧ (∀ i, i ≠ l → Table.get noneAt v.queries i = Table.get noneAt w.queries i) ∧
  (∀ r i, i < 64 → v.v r i = if i = l ∧ d ≤ r ∧ r < d + 8 then words.getD (r - d) 0 else w.v r i) ∧
  v.sansRegs = { w with queries := v.queries }.sansRegs

/-- Lane `l`'s query has become `q`, and nothing else of the wave has changed. -/
def QueryIs (w v : Wave) (l : Nat) (q : Query) : Prop :=
  v = { w with queries := v.queries } ∧ ∀ i, Table.get noneAt v.queries i = if i = l then some q else Table.get noneAt w.queries i

/-- An instruction of the any-hit protocol acts on the queries of the lanes of run that name its D, each by itself, and the split goes on
(18 R405). `ends` gives the report of a query that ends, `stays` the one that goes on. -/
def OnQueries (i : Instr) (ends : FArgs → Query → Option (List Word)) (stays : FArgs → Query → Query) : Prop :=
  ∀ (s : State) w sp x, s.cur.svc = none → s.issuing = some (w, sp) → s.cur.aux = some x → x.rep = none →
    let acts := fun (l : Nat) => decide (l < 64) && (run x.f w sp).getLsbD l &&
      ((Table.get noneAt w.queries l).map (fun q => decide (q.d = x.f.d.toNat))).getD false
    ∃ v, exec i s = .next (s.setWave s.cur.core s.cur.wave (some v)) ∧
      v.sansRegs = ({ w.setSplit s.cur.split (some (past s sp)) with queries := v.queries } : Wave).sansRegs ∧ (∀ k, v.s k = w.s k) ∧
      (∀ l q, Table.get noneAt w.queries l = some q → Table.get noneAt v.queries l =
        if acts l = true then (match ends x.f q with | some _ => none | none => some (stays x.f q)) else some q) ∧
      (∀ l, Table.get noneAt w.queries l = none → Table.get noneAt v.queries l = none) ∧
      ∀ r l, l < 64 → v.v r l = match Table.get noneAt w.queries l with
        | some q => if acts l = true ∧ q.d ≤ r ∧ r < q.d + 8 then
            (match ends x.f q with | some ws => ws.getD (r - q.d) 0 | none => w.v r l)
          else w.v r l
        | none => w.v r l

/-- The eight words of a report (18 R401). -/
def reportWords (status : Nat) (h : Option Hit) : List Word :=
  match h with
  | none => [BitVec.ofNat 32 status, 0, 0, 0, 0, 0, 0, 0]
  | some x => [BitVec.ofNat 32 status, toF32 .rne (valOf x.t), toF32 .rne (valOf x.b1), toF32 .rne (valOf x.b2),
      x.prim.extractLsb' 0 32, x.prim.extractLsb' 32 32, x.inst, x.flags ||| 0x400000]

end Sys2Proof.Claims

open Sys2Proof Sys2Proof.Machine Sys2Proof.Claims

/-- RAYQ and RAYW (18 R395, R396, R401, R404): with a unit that has room for the lanes of run, the lowest one, each lane whose ray is a ray
starts a walk at the root, and every other lane's query ends at once with a miss, eight words of zero; with no such unit the split waits. A
root that is not aligned, or a lane with a query, stops. RAYACC, RAYCONT and RAYTERM (18 R405) on the queries of the lanes of run that name
their D: RAYACC commits a waiting candidate, with status 3 where it also terminates and status 1 where any hit will do; RAYCONT rejects it;
RAYTERM ends the query with status 3. -/
def Obligations.RayQueries : Prop :=
  (∀ (f : FArgs) s w sp i op any, (i, op, any) ∈ [(Instr.rayq f, FOp.rayq, false), (.rayw f, .rayw, true)] →
     Issues s (op.uses f) w sp → s.mayRelease 5 = true →
     let r := w.seen sp s.free
     let root := pair r.s f.s.toNat
     let ray := fun (l : Nat) => (List.range 8).map (fun k => r.v (f.a.toNat + k) l)
     (root.toNat % 64 ≠ 0 → w.run = .running → s.shadowOf w.group = false → exec i s = .next (s.setWave s.cur.core s.cur.wave (some
       { w with run := .draining, halt := some { info := { cause := .misaligned, kind := .ray, addr := root }, pc := s.cur.iaddr,
                                                 split := s.cur.split } }))) ∧
     (root.toNat % 64 = 0 → (∃ l ∈ runList f r sp, Table.get noneAt w.queries l ≠ none) →
       ∃ t, exec i s = .next t ∧ StopsAt s t w .illegalOperand s.cur.iaddr) ∧
     (root.toNat % 64 = 0 → (∀ l ∈ runList f r sp, Table.get noneAt w.queries l = none) →
       (run f r sp = 0 → ∃ t v, exec i s = .next t ∧ OnlyIssuer s t v ∧ OnlyRegisters w v s.cur.split (past s sp) ∧
         RegsKept w v sp (op.uses f)) ∧
       (run f r sp ≠ 0 →
         (∀ u, u < 4 → unitLoad s s.cur.core u + (runList f r sp).length ≤ 128 →
           (∀ k < u, 128 < unitLoad s s.cur.core k + (runList f r sp).length) → s.rayHeld s.cur.core w.ctx sp.rayWait = false →
           ∃ t v, exec i s = .next t ∧ OnlyIssuer s t v ∧ (∀ n, v.s n = if n ∈ (op.uses f).sfree then 0 else w.s n) ∧
             v.sansRegs = ({ w.setSplit s.cur.split (some (past s sp)) with queries := v.queries } : Wave).sansRegs ∧
             (∀ l, Table.get noneAt v.queries l = if l ∈ runList f r sp
               then (if rayWalks (ray l) = true then some (newQuery s f r l u any) else none) else Table.get noneAt w.queries l) ∧
             ∀ k l, l < 64 → v.v k l = if l ∈ runList f r sp ∧ rayWalks (ray l) = false ∧ f.d.toNat ≤ k ∧ k < f.d.toNat + 8 then 0
               else kept w sp (op.uses f) k l) ∧
         ((∀ u, u < 4 → 128 < unitLoad s s.cur.core u + (runList f r sp).length) →
           exec i s = .next { s.setWave s.cur.core s.cur.wave (some (w.setSplit s.cur.split
             (some { sp with rayWait := some (sp.rayWait.getD s.nextOrder) }))) with nextOrder := s.nextOrder + 1 })))) ∧
  (OnQueries .rayacc
     (fun f q => match q.waiting, q.cand with
       | true, some h => if f.b.getLsbD 0 then some (reportWords 3 (some h)) else if q.any then some (reportWords 1 (some h)) else none
       | _, _ => none)
     (fun _ q => match q.waiting, q.cand with
       | true, some h => { q with best := some h, cand := none, waiting := false }
       | _, _ => q) ∧
   OnQueries .raycont (fun _ _ => none) (fun _ q => if q.waiting = true then { q with waiting := false, cand := none } else q) ∧
   OnQueries .rayterm (fun _ q => some (reportWords 3 q.best)) (fun _ q => q))

/-- RAY_QUERY_UPDATE (18 R402, R403, R406; 10 R231): an empty stack ends the query, with a hit or a miss; an entry beyond the limit is dropped; of
the others the words of the structure are read one by one, a failed check halting the wave; then a malformed structure ends it with status 3 and the top bit of the last word; a node's children go on the stack in their order; a triangle
that is not met leaves the rest of the leaf; one that is met is committed when it is opaque, and else reported with status 2. -/
def Obligations.RayWalk : Prop :=
  ∀ (s : State) core wave lane w q, s.arg = .at3 core wave lane → s.wave core wave = some w → lane < 64 →
    Table.get noneAt w.queries lane = some q → q.waiting = false → q.fault = none →
    (q.stack = [] → ∃ v, BecomesWave (exec .rayQueryUpdate s) s core wave v ∧
      Reports w v lane q.d (reportWords (if q.best = none then 0 else 1) q.best)) ∧
    ∀ x rest, q.stack = x :: rest →
      let popped := { q with stack := rest }
      (Val.le x.near q.tlim = false → ∃ v, BecomesWave (exec .rayQueryUpdate s) s core wave v ∧ QueryIs w v lane popped) ∧
      (Val.le x.near q.tlim = true → s.shadowOf w.group = false → x.need q.reads ≠ [] → ∀ s₁,
        (s.readNext (.query core wave lane) core w.ctx (x.need q.reads) = (none, s₁) → exec .rayQueryUpdate s = .next s₁) ∧
        ∀ e w₁, s.readNext (.query core wave lane) core w.ctx (x.need q.reads) = (some e, s₁) → s₁.wave core wave = some w₁ → w₁.run = .running →
          w₁.group = w.group → s₁.shadowOf w.group = false → (e.cause = .poisonLoad → e.kind ≠ .scratchpad) → e.cause ≠ .poisonRegister →
          e.cause ≠ .kill → e.cause ≠ .discard → ∀ q₁, Table.get noneAt w₁.queries lane = some q₁ → ∃ v, BecomesWave (exec .rayQueryUpdate s) s₁ core wave v ∧
            v = { w₁ with queries := v.queries, run := .draining, halt := some { info := e, pc := q.pc, split := q.split, engine := true } } ∧
            ∀ i, Table.get noneAt v.queries i = if i = lane then some { q₁ with fault := some e } else Table.get noneAt w₁.queries i) ∧
      (Val.le x.near q.tlim = true → s.shadowOf w.group = false → x.need q.reads = [] →
        let bs := x.structureBytes q.reads
        let q := { q with reads := {} }
        let bad := fun (v : Wave) =>
          Reports w v lane q.d ((reportWords 3 q.best).set 7 ((reportWords 3 q.best).getD 7 0 ||| 0x80000000))
        let done := fun (v : Wave) => BecomesWave (exec .rayQueryUpdate s) s core wave v
        (x.kind = 1 → nodeBad bs = true → ∃ v, done v ∧ bad v) ∧
        (x.kind = 1 → nodeBad bs = false →
          let kids := nodeChildren bs (q.frame x.inst).1 (q.frame x.inst).2 q.tmin q.tlim x.inst
          (kids.length + rest.length ≤ 64 → ∃ v, done v ∧ QueryIs w v lane { q with stack := kids ++ rest }) ∧
          (64 < kids.length + rest.length → ∃ v, done v ∧ bad v)) ∧
        (x.kind = 2 → 2 ^ 22 ≤ number ((bs.drop 0x24).take 4) → ∃ v, done v ∧ bad v) ∧
        (x.kind = 2 → number ((bs.drop 0x24).take 4) < 2 ^ 22 →
          let left := if x.count ≤ 1 then rest else { x with addr := x.addr + 48, count := x.count - 1, near := .inf true } :: rest
          (triangleHit bs (q.frame x.inst).1 (q.frame x.inst).2 x.inst q.flags = none →
            ∃ v, done v ∧ QueryIs w v lane { q with stack := left }) ∧
          ∀ h solid, triangleHit bs (q.frame x.inst).1 (q.frame x.inst).2 x.inst q.flags = some (h, solid) →
            (q.takes h.t = false → ∃ v, done v ∧ QueryIs w v lane { q with stack := left }) ∧
            (q.takes h.t = true → solid = true → q.any = false →
              ∃ v, done v ∧ QueryIs w v lane { q with stack := left, best := some h, cand := none, waiting := false }) ∧
            (q.takes h.t = true → solid = true → q.any = true → ∃ v, done v ∧ Reports w v lane q.d (reportWords 1 (some h))) ∧
            (q.takes h.t = true → solid = false → ∃ v, done v ∧
              (∀ i, Table.get noneAt v.queries i = if i = lane then some { q with stack := left, cand := some h, waiting := true }
                else Table.get noneAt w.queries i) ∧
              ∀ r i, i < 64 → v.v r i = if i = lane ∧ q.d ≤ r ∧ r < q.d + 8 then (reportWords 2 (some h)).getD (r - q.d) 0 else w.v r i)) ∧
        (x.kind = 3 → (x.inst ≠ none ∨ instanceBad bs = true) → ∃ v, done v ∧ bad v) ∧
        (x.kind = 3 → x.inst = none → instanceBad bs = false → rest.length < 64 →
          ∀ y, enterInstance bs (q.frame none).1 (q.frame none).2 = some y → ∃ v, done v ∧ QueryIs w v lane
            { q with stack := { addr := BitVec.ofNat 64 (number ((bs.drop 0x30).take 8)), near := q.tmin, inst := some y } :: rest }))

/-- REPACK (18 R408–R410): while a wave of the group has not come, the wave has issued it and waits. The sole wave of a group has the survivors of its run from
lane 0 on, in the order of their lanes, with the words of v[A:A+n−1]; every other lane has exited. -/
def Obligations.Repacking : Prop :=
  (∀ (f : FArgs) s s' w sp x k y, Gathers s 64 s' → Issues s' (FOp.uses .repack f) w sp → w.repack = none →
    (∀ w₀ sp₀, s.issuing = some (w₀, sp₀) → w₀.repack = none) → s'.group w.group = some x → k ∈ x.live → k ≠ s'.cur.wave →
    s'.cur.wave < 512 → k < 512 → x.core = s'.cur.core → s'.wave x.core k = some y → y.repack = none →
    ∃ t v, exec (.repack f) s = .next t ∧ OnlyIssuer s' t v ∧
      v.sansRegs = ({ w.setSplit s'.cur.split (some { sp with state := 2, moved := true }) with
        repack := some (f.a.toNat, f.b.toNat + 1, f.g) } : Wave).sansRegs) ∧
  (∀ (f : FArgs) s s' w sp x, Gathers s 64 s' → Issues s' (FOp.uses .repack f) w sp → w.repack = none →
    (∀ w₀ sp₀, s.issuing = some (w₀, sp₀) → w₀.repack = none) → s'.group w.group = some x → x.live = [s'.cur.wave] →
    x.core = s'.cur.core → w.run = .running → w.kind = .grid → w.vlid = [] → (∀ l, l < 64 → w.liveLanes.getLsbD l = (w.liveOf sp).getLsbD l) →
    f.la = false → w.liveOf sp ≠ 0 → s'.cur.split < 4 → (∀ j, j ≠ s'.cur.split → ∀ z, w.split j = some z → w.liveOf z = 0) → sp.rep = 0 →
    let lanes := runList f w sp
    (∀ l ∈ lanes, Table.get noneAt w.queries l = none) → lanes.length ≤ w.width →
    (w.vnamesBound ++ (List.range (f.b.toNat + 1)).map (f.a.toNat + ·)).eraseDups.length ≤ w.vmax →
    ∃ t v, exec (.repack f) s = .next t ∧ t.wave s'.cur.core s'.cur.wave = some v ∧ v.repack = none ∧
      (∀ l, l < 64 → v.exited.getLsbD l = decide (lanes.length ≤ l)) ∧
      (∀ j < lanes.length, ∀ k ≤ f.b.toNat, v.v (f.a.toNat + k) j = w.v (f.a.toNat + k) (lanes.getD j 0)) ∧
      (∀ j < lanes.length, Table.get (fun k => k) v.vlid j = lanes.getD j 0) ∧
      (lanes ≠ [] → (v.split s'.cur.split).map (fun z => (z.state, z.masks)) = some (0, [])))


namespace Sys2Proof.Claims

open Sys2Proof.Machine

/-! ## Launches, placement, samples -/

/-- A message `m` is the last of those that wait to leave on a port, and no other port's have changed. -/
def SentOn (s t : State) (port : Nat) (m : Msg) : Prop :=
  Table.get nilAt t.out port = Table.get nilAt s.out port ++ [m] ∧ ∀ k, k ≠ port → Table.get nilAt t.out k = Table.get nilAt s.out k

/-- COMPLETE (19 R412): the launch's number, its status, and whether intake gives it. -/
def completeMsg (ctx : Nat) (tag launchid : Word) (status : Nat) (atIntake : Bool) : Msg :=
  { type := 0x0B, ctx := BitVec.ofNat 6 ctx, zero := 0, len := 0, tag := tag,
    args := BitVec.ofNat 192 (launchid.toNat + 2 ^ 32 * status + if atIntake then 2 ^ 40 else 0), payload := [] }

/-- The launch of a message; one without its form has no words (13 R278). -/
def launchOfMsg (port : Nat) (m : Msg) : Launch :=
  { ctx := m.ctx.toNat, port := some port, tag := m.tag,
    words := if m.len = 6 ∧ m.args = 0 ∧ m.zero = 0 ∧ m.payload.length = 192 then recordWords m.payload else [] }

/-- Why intake turns a launch away, if it does, in the order of 13 R279. -/
def rejects (s : State) (l : Launch) (status : Nat) : Prop :=
  (s.stage = 0 ∧ status = 1) ∨ (s.stage ≠ 0 ∧ queueFull s l.ctx ∧ status = 6) ∨
  (s.stage ≠ 0 ∧ ¬ queueFull s l.ctx ∧ s.badRecord l = true ∧ status = 1) ∨
  (s.stage ≠ 0 ∧ ¬ queueFull s l.ctx ∧ s.badRecord l = false ∧ s.deniedRecord l = true ∧ status = 3)

/-- Nothing turns it away. -/
def accepts (s : State) (l : Launch) : Prop :=
  s.stage ≠ 0 ∧ ¬ queueFull s l.ctx ∧ s.badRecord l = false ∧ s.deniedRecord l = false

/-- Every group of a launch has ended, no pass of it is left (13 R280, 17 R383), and the digest stores of its groups and the stores that its cores
see have been performed (10 R232). -/
def allEnded (s : State) (n : Nat) (l : Launch) : Prop :=
  l.kind = .plain ∧ l.stage = .ready ∧ l.asked = false ∧ l.groups ≤ l.nextGroup ∧ l.discarded = [] ∧ l.groups ≤ l.ended ∧
    (∀ r ∈ s.peerReqs, ¬ (r.core = 71 ∧ r.op = n)) ∧ (∀ c ∈ l.ran, s.staged c = []) ∧
    ∀ e ∈ s.dies, ∀ p ∈ e.2.passes, ∀ q, p.2 = some q → q.launch ≠ n

/-- The launch is over: its COMPLETE leaves with a status, and no launch of its number is unfinished. -/
def LaunchOver (s t : State) (n : Nat) (l : Launch) (status : Nat) : Prop :=
  SentOn s t (l.port.getD 0) (completeMsg l.ctx l.tag l.launchid status false) ∧
    (t.launch n = none ∨ t.launch n = some { l with stage := .finished }) ∧ ∀ k, k ≠ n → t.launch k = s.launch k

/-- The pages of a launch's input regions, as far as they are mapped (15 R330). -/
def leasePages (s : State) (ctx : Nat) (l : Launch) : Option (List Dword) :=
  ((l.regions false).mapM (fun r => s.pagesOf ctx (r.1 + r.2) (r.2 / 4096 + 2) r.1)).map List.flatten

/-- A new group of launch `n` stands on core `c`. -/
def Placed (s t : State) (n : Nat) (l : Launch) (c linear : Nat) (shadow : Bool) : Prop :=
  ∃ g, t.group s.nextGroup = some g ∧ t.nextGroup = s.nextGroup + 1 ∧ (∀ k, k ≠ s.nextGroup → t.group k = s.group k) ∧ g.launch = n ∧
    g.core = c ∧ g.ctx = l.ctx ∧ g.linear = linear ∧ g.gx.toNat = linear % (l.w 6).toNat % 2 ^ 32 ∧
    g.shadow = (if shadow = true then some (n, linear) else none) ∧ g.waves = l.nwaves ∧ g.live.length = l.nwaves ∧ g.ending = false ∧
    g.scratch = [] ∧ g.acc = [] ∧ g.barriers = List.replicate l.bars { expected := BitVec.ofNat 12 l.nwaves } ∧
    ∀ k ∈ g.live, ∃ v, t.wave c k = some v ∧ v.group = s.nextGroup ∧ v.run = .running ∧ v.width = l.width ∧
      v.split 0 = some { pc := l.pair 2 + BitVec.ofNat 64 (l.w 4).toNat, lanes := lowLanes l.width } ∧
      v.s 0 = l.w 16 ∧ v.s 1 = l.w 17

end Sys2Proof.Claims

open Sys2Proof Sys2Proof.Machine Sys2Proof.Claims

/-- LAUNCH_MSG and WAIT_WORD_READ (13 R278–R280): intake accepts a launch under the next numbers, or turns it away with a COMPLETE; a waiting
launch is ready once its word has reached WAITVAL, and ends with status 7 where the word cannot be read. LAUNCH_COMPLETE: with every group
ended the completion word takes its addend and COMPLETE leaves, with status 7 where it cannot. Each of the three completes: under these
conditions on the state and the operands alone, exec answers the next state described. -/
def Obligations.LaunchIntake : Prop :=
  (∀ (s : State) port m, s.arg = .message port m →
    (2 ≤ port ∨ m.type ≠ 1 → exec .launchMsg s = .next (s.onCsr 4 0x7C00 (· + 1))) ∧
    (port < 2 → m.type = 1 → let l := launchOfMsg port m
      (∀ status, rejects s l status → ∃ t, exec .launchMsg s = .next t ∧ t = { s with out := t.out } ∧
        SentOn s t port (completeMsg l.ctx m.tag 0 status true)) ∧
      (accepts s l → l.pair 18 = 0 → ∃ t, exec .launchMsg s = .next t ∧
        t = { s with launches := t.launches, nextLaunch := s.nextLaunch + 1, nextLaunchid := s.nextLaunchid + 1,
                     nextOrder := s.nextOrder + 1 } ∧
        t.launch s.nextLaunch = some { l with launchid := s.nextLaunchid, age := s.nextOrder, stage := .ready } ∧ ∀ k, k ≠ s.nextLaunch → t.launch k = s.launch k) ∧
      (accepts s l → l.pair 18 ≠ 0 → ∃ t x, exec .launchMsg s = .next t ∧ t.nextLaunch = s.nextLaunch + 1 ∧
        t.nextLaunchid = s.nextLaunchid + 1 ∧ t.launch s.nextLaunch = some x ∧ x = { l with
          launchid := s.nextLaunchid, age := s.nextOrder, stage := x.stage, asked := x.asked, reads := x.reads } ∧ ∀ k, k ≠ s.nextLaunch → t.launch k = s.launch k))) ∧
  (∀ (s : State) n l, s.arg = .at1 n → s.launch n = some l →
    (l.stage ≠ .waiting → exec .waitWordRead s = .next s) ∧
    (l.stage = .waiting →
      (((∃ e, s.hubCheck l.ctx (l.pair 18) 8 { read := true, plain := true } = .error e) ∨
          (∃ pa e, s.hubCheck l.ctx (l.pair 18) 8 { read := true, plain := true } = .ok (pa, e) ∧ placeOf pa = .memory ∧ s.poisoned pa 8 = true)) →
        ∃ t, exec .waitWordRead s = .next t ∧
          SentOn s t (l.port.getD 0) (completeMsg l.ctx l.tag l.launchid 7 false) ∧ t.launch n = some { l with stage := .finished }) ∧
      (∀ pa e port off, s.hubCheck l.ctx (l.pair 18) 8 { read := true, plain := true } = .ok (pa, e) → windowOf pa = some (port, off) →
        (l.asked = true → exec .waitWordRead s = .next s) ∧
        (l.asked = false → ∃ t m, exec .waitWordRead s = .next t ∧ SentOn s t port m ∧ m.type = 2 ∧ m.args = BitVec.ofNat 192 (off + 2 ^ 64 * 8) ∧
          t = { s with launches := t.launches, out := t.out, peerReqs := t.peerReqs, peerTag := t.peerTag } ∧
          t.launch n = some { l with asked := true })) ∧
      (∀ pa e space a, s.hubCheck l.ctx (l.pair 18) 8 { read := true, plain := true } = .ok (pa, e) → placeOf pa = .csr space a →
        let va := (l.pair 18).toNat
        (l.reads = {} → ∃ t, exec .waitWordRead s = .next t ∧
          t = { s with launches := t.launches, agenda := s.agenda ++ [.unitCsr (.code n) l.ctx va space a 4 []] } ∧
          t.launch n = some { l with reads := { asked := some va } }) ∧
        (∀ lo hi, Table.get noneAt l.reads.words va = some lo → Table.get noneAt l.reads.words (va + 4) = some hi →
          ∃ t, exec .waitWordRead s = .next t ∧ t = { s with launches := t.launches } ∧
            t.launch n = some { l with reads := {}, stage := if l.pair 20 ≤ pairOf lo hi then .ready else .waiting })) ∧
      (∀ pa e, s.hubCheck l.ctx (l.pair 18) 8 { read := true, plain := true } = .ok (pa, e) → placeOf pa = .memory → s.poisoned pa 8 = false →
        let x := number (s.bytes pa 8)
        ((l.pair 20).toNat ≤ x → ∃ t, exec .waitWordRead s = .next t ∧ t = { s with launches := t.launches } ∧
          t.launch n = some { l with stage := .ready } ∧ ∀ k, k ≠ n → t.launch k = s.launch k) ∧
        (x < (l.pair 20).toNat → exec .waitWordRead s = .next s)))) ∧
  (∀ (s : State) n l, s.arg = .at1 n → s.launch n = some l →
    (¬ allEnded s n l → exec .launchComplete s = .next s) ∧
    (allEnded s n l →
      (l.replayFault = true → ∃ t, exec .launchComplete s = .next t ∧ LaunchOver s t n l 7 ∧ t.mem = s.mem) ∧
      (l.replayFault = false → l.pair 22 = 0 → ∃ t, exec .launchComplete s = .next t ∧ LaunchOver s t n l 0 ∧ t.mem = s.mem) ∧
      (l.replayFault = false → l.pair 22 ≠ 0 → ∀ e, s.hubCheck l.ctx (l.pair 22) 8 { read := true, write := true } = .error e →
        ∃ t, exec .launchComplete s = .next t ∧ LaunchOver s t n l 7 ∧ t.mem = s.mem) ∧
      (l.replayFault = false → l.pair 22 ≠ 0 → ∀ pa e, s.hubCheck l.ctx (l.pair 22) 8 { read := true, write := true } = .ok (pa, e) →
        placeOf pa = .memory → s.poisoned pa 8 = false → (∀ k x, s.launch k = some x → x.stage ≠ .waiting) →
        ∃ t, exec .launchComplete s = .next t ∧ LaunchOver s t n l 0 ∧
          ∀ a, t.byte a = if pa ≤ a ∧ a < pa + 8
            then (BitVec.ofNat 64 (number (s.bytes pa 8)) + l.pair 24).extractLsb' (8 * (a - pa)) 8 else s.byte a)))

/-- PLACE_GROUP (13 R282, R284, R285): with no candidate nothing happens; else, where no context is to be refilled and no urgent launch waits,
the candidate that ranks before all others is placed: of a plain launch the head group, which is the launch's no longer. DISCARD_GO (13
R296, R297): a group of one wave that may be discarded goes, and waits to be placed again. LEASE_TAKE (15 R330): a sampled group takes
leases on the pages of its launch's inputs, which it holds once the stores there that had passed their checks are performed, or, where a page is
not mapped, is sampled no more. REPLAY_PLACE (15 R336): the replay of a group
whose primary run has ended goes to a core of another die that it has not run on. -/
def Obligations.PlacementAndSampling : Prop :=
  ((∀ (s : State) d, s.arg = .at1 d → (∀ k l, (k, some l) ∈ s.launches → l.klass ≠ 0) →
     (s.candidates d = [] → exec .placeGroup s = .next s) ∧
     (∀ c l segs core, d < 4 → c ∈ s.candidates d → (∀ x ∈ s.candidates d, x ≠ c → s.ranksBefore d c x = true ∧ s.ranksBefore d x c = false) →
       (∃ x ∈ s.candidates d, 0 < s.deficit d x.ctx) → s.launch c.launch = some l → l.kind = .plain → l.segments = some segs →
       l.csize = 1 → l.flag 2 = false → l.flag 3 = false → l.discarded = [] → l.nextGroup < l.groups → c.cores = [core] →
       s.passes c.launch l core false = true →
       ∃ t, exec .placeGroup s = .next t ∧ Placed s t c.launch l core l.nextGroup false ∧
         t.launch c.launch = some { l with nextGroup := l.nextGroup + 1, reads := {},
                                           ran := if core ∈ l.ran then l.ran else l.ran ++ [core] } ∧ t.mem = s.mem)) ∧
   (∀ (s : State) d v, s.arg = .value d v →
     let core := 16 * d + v.toNat / 2 ^ 10 % 16
     let wave := v.toNat % 2 ^ 9
     (v.getLsbD 31 = false ∨ s.wave core wave = none → ∃ t, exec .discardGo s = .next t ∧ t = { s with csr := t.csr } ∧
       ∀ p q, csrKey p q ≠ csrKey d 0x0108 → t.csrAt p q = s.csrAt p q) ∧
     (∀ w x l, v.getLsbD 31 = true → s.wave core wave = some w → s.group w.group = some x → s.launch x.launch = some l → l.flag 0 = true →
       l.flag 1 = false → x.shadow = none → x.emitted = false → x.sampled = false → x.ending = false → x.core = core → x.live = [wave] →
       w.kind = .grid → s.clusterOf w.group = [(w.group, x)] → (∀ o ∈ w.ops, ∀ u ∈ o.units, u.sent = false) →
       ∃ t, exec .discardGo s = .next t ∧ t.group w.group = none ∧ t.wave core wave = none ∧ t.launch x.launch = some { l with
         discarded := sortBy (fun a b => decide (a.headD 0 ≤ b.headD 0)) (l.discarded ++ [[x.linear]]) } ∧ t.mem = s.mem))) ∧
  ((∀ (s : State) g x, s.arg = .at1 g → s.group g = some x →
     (x.sampled = false ∨ x.leased = true → exec .leaseTake s = .next s) ∧
     (x.sampled = true → x.leased = false → ∀ l d y, s.launch x.launch = some l → s.sampleOf x.launch x.linear = some (d, y) →
       (x.leasing = true → (s.storesTo x.ctx y.pages = true → exec .leaseTake s = .next s) ∧
         (s.storesTo x.ctx y.pages = false → ∃ t, exec .leaseTake s = .next t ∧ t = { s with groups := t.groups } ∧
           t.group g = some { x with leased := true, leasing := false } ∧ ∀ k, k ≠ g → t.group k = s.group k)) ∧
       (∀ ps, x.leasing = false → leasePages s x.ctx l = some ps → ∃ t, exec .leaseTake s = .next t ∧ t.group g = some { x with leasing := true } ∧
         t.waves = s.waves ∧ t.launches = s.launches ∧ (t.die d).samples = (s.die d).samples.map (fun z =>
           if z.launch = x.launch ∧ z.linear = x.linear then { z with pages := ps } else z)) ∧
       (x.leasing = false → leasePages s x.ctx l = none → ∃ t, exec .leaseTake s = .next t ∧ t.group g = some { x with sampled := false } ∧
         t.waves = s.waves ∧ t.launches = s.launches ∧
         (t.die d).samples = (s.die d).samples.filter (fun z => decide (¬ (z.launch = x.launch ∧ z.linear = x.linear)))))) ∧
   (∀ (s : State) d k x l c, s.arg = .at2 d k → (s.die d).samples[k]? = some x → s.launch x.launch = some l →
     s.sampleOf x.launch x.linear = some (d, x) → l.csize = 1 →
     (x.running = true ∨ x.digests = [] → exec .replayPlace s = .next s) ∧
     (x.running = false → x.digests ≠ [] → (∀ e ∈ s.groups, ∀ y, e.2 = some y → ¬ (y.launch = x.launch ∧ y.shadow = none ∧ y.linear = x.linear)) →
       s.coresFor x.launch l true ((List.range 64).filter (fun c =>
         decide (c / 16 ≠ x.cores.headD 0 / 16) && !x.cores.contains c)) = some [c] →
       ∃ t, exec .replayPlace s = .next t ∧ Placed s t x.launch l c x.linear true ∧ (t.die d).samples = (s.die d).samples.map (fun z =>
         if z.launch = x.launch ∧ z.linear = x.linear then { z with cores := z.cores ++ [c], running := true } else z))))


namespace Sys2Proof.Claims

open Sys2Proof.Machine

/-! ## The state window -/

/-- RESUME and STEP are ignored while the zone that was evacuated has not returned, or the core stays benched (14 R305). -/
def barred (s : State) (core : Nat) (w : Wave) : Prop :=
  (w.frameCause = causeCode .zoneEvacuation ∧ 2 ≤ (s.csrAt 4 (0x6804 + 8 * (core / 16 * 20 + core % 16))).toNat / 2 ^ 8 % 8) ∨
  (w.frameCause = causeCode .benched ∧ (s.csrAt (core / 16) (0x200 + 4 * (core % 16))).getLsbD 17 = true)

/-- A command that is ignored sets the core's ERR, and does nothing else (14 R306). -/
def Ignored (o : Out) (s : State) (core : Nat) : Prop :=
  ∃ t, o = .next t ∧ t = { s with cores := t.cores } ∧ t.core core = { s.core core with werr := true } ∧
    ∀ c, c ≠ core → t.core c = s.core c

/-- A stopped or parked wave goes on (14 R305): its replay entries, less those cancelled, are performed again, the timers start from 0,
and its engine commands are no longer suspended. -/
def Resumed (s t : State) (core wave : Nat) (w v : Wave) (skip : Bool) : Prop :=
  t = { s with waves := t.waves, cores := t.cores } ∧ t.wave core wave = some v ∧
    (∀ c k, waveKey c k ≠ waveKey core wave → t.wave c k = s.wave c k) ∧ v.run = .running ∧ v.queue = [] ∧
    v.ops.map (fun o => (o.id, o.pc, o.addrs, o.data)) =
      (w.queue.filter (fun o => decide (o.status ≠ 3))).map (fun o => (o.id, o.pc, o.addrs, o.data)) ∧
    (∀ k sp, w.split k = some sp → v.split k = some
      { sp with state := if 3 ≤ sp.state then sp.before else sp.state, timer := 0, skipBp := skip }) ∧
    v.vregs = w.vregs ∧ v.sregs = w.sregs ∧ ∀ x ∈ (t.core core).cmds, x.wave = some wave → x.suspended = false

/-- The wave of a core is stopped or parked. -/
def Stands (s : State) (core wave : Nat) (w : Wave) : Prop := s.wave core wave = some w ∧ (w.run = .stopped ∨ w.run = .parked)

/-- A wave has gone at once, memory stays, and a STOPNOTE carries a record of the cause (14 R310, R311). -/
def Killed (s t : State) (core wave : Nat) (c : StopCause) : Prop :=
  t.mem = s.mem ∧ t.wave core wave = none ∧ ∃ port m, Table.get nilAt t.out port = Table.get nilAt s.out port ++ [m] ∧ m.type = 0x0C ∧
    m.payload.headD 0 = BitVec.ofNat 8 (causeCode c)

/-- The lowest live split. -/
def firstSplit (w : Wave) : Nat := (w.live4.head?.map (fun x => x.1)).getD 0

/-- A word of a split in the window (14 R307 space 2). -/
def splitWord (sp : Split) (k : Nat) (x : Dword) : Prop :=
  (k = 0 → x = sp.pc) ∧ (k = 1 → x = sp.lanes) ∧ (k = 2 → x.toNat = sp.depth.toNat) ∧ (k = 3 → x = BitVec.ofNat 64 sp.tag) ∧
  (sp.tag ≠ 0 → (k = 4 → x = sp.rejoin) ∧ (k = 5 → x.toNat = sp.rdepth.toNat)) ∧
  (∀ j < 4, ∀ e, sp.loops[j]? = some e → (k = 6 + 3 * j → x = e.start) ∧ (k = 7 + 3 * j → x = e.stop) ∧
    (k = 8 + 3 * j → x.toNat = e.count.toNat + 2 ^ 32 * e.depth.toNat)) ∧
  (k = 18 → x.toNat = sp.rep.toNat) ∧ (19 ≤ k → k ≤ 25 → x = Table.get (fun _ => 0) sp.masks (k - 18)) ∧ (k = 26 → x.toNat = sp.frm.toNat) ∧
  (k = 27 → x.toNat = sp.sig.toNat) ∧ (k = 28 → x.toNat = sp.timer.toNat)

/-- An item of the window (14 R307): registers, scalars, splits, deferred paths, replay entries, the frame, scratchpad, accumulators. -/
def itemIs (s : State) (w : Wave) (space i : Nat) (x : Dword) : Prop :=
  (space = 0 → i < 2 ^ 14 → x.toNat = (w.v (i / 64) (i % 64)).toNat) ∧ (space = 1 → x.toNat = (w.s (i % 1024)).toNat) ∧
  (space = 2 → ∀ sp, w.split (i / 1024 % 4) = some sp → splitWord sp (i % 32) x) ∧
  (space = 3 → ∀ p, w.paths[i / 32 % 256]? = some p → splitWord p.ctx (i % 32) x) ∧
  (space = 4 → ∀ r, w.record (i / 64 % 128) = some r → (i % 16 = 0 → x = r.members) ∧ (i % 16 = 1 → x = r.arrived) ∧
    (i % 16 = 2 → x = if r.broken = true then 1 else 0) ∧ (i % 16 = 3 → x = r.rejoin)) ∧
  (space = 5 → ∀ o, w.queue[i / 512 % 32]? = some o → (i % 512 = 1 → x = o.pc) ∧ (i % 512 = 7 → x = o.doneMask) ∧
    ∀ l < 64, o.run.getLsbD l = true → i % 512 = 8 + 4 * l → x = o.addr l) ∧
  (space = 6 → i % 16 < 6 → x = w.frame.getD (i % 16) 0) ∧
  (space = 8 → 8 * i + 8 ≤ s.scratchSize w.group → x.toNat = number ((List.range 8).map (fun k => scratchAt s w.group (8 * i + k)))) ∧
  (space = 9 → 8 * i + 8 ≤ s.accSize w.group → ∀ g, s.group w.group = some g →
    x.toNat = (Table.get zeroWord g.acc (2 * i)).toNat + 2 ^ 32 * (Table.get zeroWord g.acc (2 * i + 1)).toNat)

/-- INDEX goes on by 1 and its space stays; of a core's window nothing but INDEX and the data words changes (14 R306). -/
def IndexOn (s t : State) (core : Nat) (lo : Word) : Prop :=
  let d := core / 16
  let reg := 0x2000 + 256 * (core % 16)
  let x := s.csrAt d (reg + 12)
  t.csrAt d (reg + 16) = lo ∧ t.csrAt d (reg + 12) = BitVec.ofNat 32 (x.toNat / 2 ^ 28 * 2 ^ 28 + (x.toNat + 1) % 2 ^ 28) ∧
    ∀ p a, csrKey p a ≠ csrKey d (reg + 12) → csrKey p a ≠ csrKey d (reg + 16) → csrKey p a ≠ csrKey d (reg + 20) → t.csrAt p a = s.csrAt p a

end Sys2Proof.Claims

open Sys2Proof Sys2Proof.Machine Sys2Proof.Claims

/-- WCMD_RESUME, WCMD_STEP, DEBUG_STEP_STOP, WCMD_HALT (14 R305, R306, R319): a stopped or parked wave goes on, for one instruction in a step; a
command that may not act sets ERR; a wave that has stepped, or runs and is halted, stops with DEBUG_STEP. WCMD_KILL (14 R310, R311) in any
state of the wave: one whose group is not to be discarded goes at once, its group's barriers are abandoned, where waits whose phase has flipped
stay complete, its engine commands go, and a record of cause KILL leaves; a group of one wave that may be discarded goes, to be placed again, with a record of
cause DISCARD. Each of the five completes: under these conditions on the state and the operands alone, exec answers the next state
described. -/
def Obligations.WindowCommands : Prop :=
  ((∀ (s : State) core wave (arg : BitVec 3), s.arg = .command core wave arg →
     ((∀ w, Stands s core wave w → barred s core w) → Ignored (exec .wcmdResume s) s core ∧ Ignored (exec .wcmdStep s) s core) ∧
     (∀ w, Stands s core wave w → ¬ barred s core w →
       (∃ t v, exec .wcmdResume s = .next t ∧ Resumed s t core wave w v (arg.getLsbD 0) ∧
         (arg.getLsbD 1 = true → ∀ k, ∀ x ∈ Table.get nilAt (t.core core).icache k, x.ctx ≠ w.ctx) ∧
         (arg.getLsbD 1 = false → (t.core core).icache = (s.core core).icache) ∧ v.stepping = none) ∧
       (4 ≤ arg.toNat ∧ arg ≠ 7 ∨ arg.toNat < 4 ∧ w.split arg.toNat = none → Ignored (exec .wcmdStep s) s core) ∧
       (arg = 7 ∨ arg.toNat < 4 ∧ w.split arg.toNat ≠ none →
         ∃ t v, exec .wcmdStep s = .next t ∧ Resumed s t core wave w v false ∧ v.stepping = some arg))) ∧
   (∀ (s : State) core wave w, s.arg = .at2 core wave → Runs s core wave w → s.shadowOf w.group = false →
     (w.stepping ≠ none → w.stepped = true →
       BecomesWave (exec .debugStepStop s) s core wave (halted w .debugStep 0 0 (firstSplit w))) ∧
     (w.stepping = none ∨ w.stepped = false → exec .debugStepStop s = .next s)) ∧
   (∀ (s : State) core wave (arg : BitVec 3), s.arg = .command core wave arg →
     ((∀ w, s.wave core wave = some w → Stands s core wave w) → Ignored (exec .wcmdHalt s) s core) ∧
     ∀ w, s.wave core wave = some w → w.run = .running →
       (w.stepping ≠ none → exec .wcmdHalt s = .next s) ∧
       (w.stepping = none → s.shadowOf w.group = false →
         BecomesWave (exec .wcmdHalt s) s core wave (halted w .debugStep 0 0 (firstSplit w))))) ∧
  (∀ (s : State) core wave (arg : BitVec 3), s.arg = .command core wave arg → wave < 512 →
     (s.wave core wave = none → Ignored (exec .wcmdKill s) s core) ∧
     ∀ w g, s.wave core wave = some w → s.group w.group = some g → g.shadow = none → w.flow = 0 → w.kind = .grid →
       (∀ o ∈ w.ops, ∀ u ∈ o.units, u.sent = false) →
       (s.discardable w.group = false → (∃ k ∈ g.live, k ≠ wave) → (∀ k ∈ g.live, k < 512) → s.clusterOf w.group = [(w.group, g)] → g.core = core → ∃ t, exec .wcmdKill s = .next t ∧
         Killed s t core wave .kill ∧
         (∀ c k, k < 512 → ¬ (c = core ∧ k = wave) → ¬ (c = core ∧ k ∈ g.live) → t.wave c k = s.wave c k) ∧
         (∀ k ∈ g.live, k ≠ wave → ∀ y, s.wave core k = some y → ∃ z, t.wave core k = some z ∧ { z with splits := y.splits } = y ∧
           ∀ j sp, y.split j = some sp → ∃ x, z.split j = some { sp with bar := x } ∧ (sp.bar = none → x = none) ∧
             ∀ b, sp.bar = some b → x = some { b with flipped := b.flipped || decide (b.grp = w.group ∧
               ∃ q, g.barriers[b.index]? = some q ∧ q.abandoned = false ∧ q.phase ≠ b.token) }) ∧
         t.group w.group = some { g with live := g.live.filter (fun k => decide (k ≠ wave)),
                                         barriers := g.barriers.map (fun b => barrierAfterEnd { b with abandoned := true }) } ∧
         ∀ x ∈ (t.core core).cmds, ¬ (x.wave = some wave ∧ x.group = w.group)) ∧
       (∀ l, s.discardable w.group = true → s.launch g.launch = some l → g.sampled = false → g.ending = false →
         g.core = core → g.live = [wave] → s.clusterOf w.group = [(w.group, g)] → ∃ t, exec .wcmdKill s = .next t ∧
         Killed s t core wave .discard ∧ t.group w.group = none ∧
         t.launch g.launch = some { l with discarded := sortBy (fun a b => decide (a.headD 0 ≤ b.headD 0)) (l.discarded ++ [[g.linear]]) }))

/-- WDATALO_READ and WDATALO_WRITE (14 R306–R308): the window reads and writes the named item of a stopped or parked wave, and INDEX rises; the
read of a running wave has an undefined value, and its write is lost. Both complete in every state: exec answers the next state described. -/
def Obligations.StateWindow : Prop :=
  (∀ (s : State) core, s.arg = .at1 core →
    let d := core / 16
    let reg := 0x2000 + 256 * (core % 16)
    let wave := (s.csrAt d reg).toNat % 512
    let x := (s.csrAt d (reg + 12)).toNat
    ∃ t v, exec .wdataloRead s = .next t ∧ t = { s with csr := t.csr, free := t.free } ∧ IndexOn s t core ((v : Dword).extractLsb' 0 32) ∧
      t.csrAt d (reg + 20) = v.extractLsb' 32 32 ∧
      (s.wave core wave = none → v = 0) ∧
      (∀ w, s.wave core wave = some w → ¬ Stands s core wave w → v = Config.freeDword s.free ∧ t.free = s.free + 1) ∧
      ∀ w, Stands s core wave w → t.free = s.free + 1 ∧ itemIs s w (x / 2 ^ 28) (x % 2 ^ 28) v) ∧
  (∀ (s : State) core (v : Word), s.arg = .value core v →
    let d := core / 16
    let reg := 0x2000 + 256 * (core % 16)
    let wave := (s.csrAt d reg).toNat % 512
    let space := (s.csrAt d (reg + 12)).toNat / 2 ^ 28
    let i := (s.csrAt d (reg + 12)).toNat % 2 ^ 28
    let x : Dword := s.csrAt d (reg + 20) ++ v
    ∃ t, exec .wdataloWrite s = .next t ∧ t = { s with waves := t.waves, groups := t.groups, csr := t.csr, free := t.free } ∧ IndexOn s t core v ∧
      t.csrAt d (reg + 20) = s.csrAt d (reg + 20) ∧
      (space ≠ 8 ∨ (∀ e ∈ s.waves, ∀ z, e.2 = some z → z.windows = []) → t.free = s.free ∧
        ∀ c k, waveKey c k ≠ waveKey core wave → t.wave c k = s.wave c k) ∧
      ((∀ w, ¬ Stands s core wave w) → t.waves = s.waves ∧ t.groups = s.groups) ∧
      ∀ w, Stands s core wave w → ∃ y, t.wave core wave = some y ∧
        (space = 0 → i < 2 ^ 14 → i % 64 < w.width → y.sansRegs = w.sansRegs ∧ t.groups = s.groups ∧
          ∀ r l, l < 64 → y.v r l = if r = i / 64 ∧ l = i % 64 then v else w.v r l) ∧
        (space = 1 → y.sansRegs = w.sansRegs ∧ t.groups = s.groups ∧ ∀ k, y.s k = if k = i % 1024 then v else w.s k) ∧
        (space = 2 → t.groups = s.groups ∧ y = { w with splits := y.splits } ∧ (∀ k, k ≠ i / 1024 % 4 → y.split k = w.split k) ∧
          ∀ sp, w.split (i / 1024 % 4) = some sp → ∃ z, y.split (i / 1024 % 4) = some z ∧
            (i % 32 = 0 → z = { sp with pc := BitVec.ofNat 64 (x.toNat % 2 ^ 56) }) ∧
            (19 ≤ i % 32 → i % 32 ≤ 25 → z = { sp with masks := z.masks } ∧
              ∀ k, Table.get (fun _ => 0) z.masks k = if k = i % 32 - 18 then x else Table.get (fun _ => 0) sp.masks k) ∧
            (i % 32 = 1 ∨ 2 ≤ i % 32 ∧ i % 32 ≤ 5 ∨ 29 ≤ i % 32 → z = sp)) ∧
        (space = 6 → i % 16 < 6 → t.groups = s.groups ∧
          y = { w with frame := w.frame.modify (i % 16) (fun _ => x), frameCause := y.frameCause }) ∧
        (space = 8 → { y with windows := w.windows } = w ∧ (8 * i + 8 ≤ s.scratchSize w.group → ∀ g, s.group w.group = some g → ∀ a,
          scratchAt t w.group a = if 8 * i ≤ a ∧ a < 8 * i + 8 then x.extractLsb' (8 * (a - 8 * i)) 8 else scratchAt s w.group a)))


namespace Sys2Proof.Claims

open Sys2Proof.Machine

/-! ## The Umpire's cores, soft errors, the SRAM rail -/

/-- Field [h:l] of a word. -/
def fld (v : Word) (h l : Nat) : Nat := v.toNat / 2 ^ l % 2 ^ (h + 1 - l)

/-- A word whose field [h:l] has become x, with every other bit as it was. -/
def FieldSet (v v' : Word) (h l x : Nat) : Prop := fld v' h l = x ∧ ∀ k < 32, k < l ∨ h < k → v'.getLsbD k = v.getLsbD k

/-- Every register of the module but one holds what it held. -/
def OneCsr (s t : State) (space a : Nat) (v : Word) : Prop :=
  t.csrAt space a = v ∧ ∀ p q, csrKey p q ≠ csrKey space a → t.csrAt p q = s.csrAt p q

/-- One register takes a value, and nothing else changes. -/
def CsrBecomes (o : Out) (s : State) (space a : Nat) (v : Word) : Prop :=
  ∃ t, o = .next t ∧ t = { s with csr := t.csr } ∧ OneCsr s t space a v

/-- The service core's cycle at which the rail of a die began the 1,000 cycles to its next step (15 R347). -/
def railSince (s : State) (die : Nat) : Nat := Table.get zeroNat s.railAt die

/-- LEVEL and TARGET of a die, and the time of its rail, are all that has changed. -/
def RailMoves (s t : State) (die time : Nat) : Prop :=
  t = { s with csr := t.csr, railAt := t.railAt } ∧ (∀ p q, csrKey p q ≠ csrKey die 0x610 → t.csrAt p q = s.csrAt p q) ∧
    railSince t die = time ∧ ∀ d, d ≠ die → railSince t d = railSince s d

/-- EVENT with a source, a die and a core (19 R412). -/
def eventMsg (source die core : Nat) : Msg :=
  { type := 0x0D, ctx := 0, zero := 0, len := 0, tag := 0, args := BitVec.ofNat 192 (source + 16 * die + 128 * core), payload := [] }

/-- FOUL of a core (15 R339). -/
def foulReg (core : Nat) : Nat := 0x200 + 4 * (core % 16)

/-- A counter of a core's errors (15 R345). -/
def errReg (core k : Nat) : Nat := 0x300 + 32 * (core % 16) + 4 * k

/-- An uncorrectable error of a core's storage (15 R345): counted, an EVENT of source 10, source 10 pending at the die, and a foul. -/
def BadStorage (s t : State) (core : Nat) : Prop :=
  let d := core / 16
  let n := fld (s.csrAt d (foulReg core)) 7 0
  SentOn s t 0 (eventMsg 10 d core) ∧ t.csrAt d (errReg core 4) = s.csrAt d (errReg core 4) + 1 ∧
    t.csrAt d 0xA00 = s.csrAt d 0xA00 ||| 0x400 ∧ fld (t.csrAt d (foulReg core)) 7 0 = n + 1 ∧
    (t.csrAt d (foulReg core)).getLsbD 16 = decide (8 ≤ n + 1)

/-- A flag of a table is set, and the others stay. -/
def FlagSet (f g : Table Bool) (k : Nat) : Prop := ∀ j, Table.get falseAt g j = if j = k then true else Table.get falseAt f j

/-- A set of a core's L1 holds a sector of a line for a context. -/
def inL1 (c : Core) (set line ctx k : Nat) (z : L1Sector) : Prop :=
  ∃ e ∈ c.l1, e.1 = set ∧ ∃ x ∈ e.2, x.line = line ∧ x.ctx = ctx ∧ (k, some z) ∈ x.sectors

/-- A sample belongs to a context. -/
def sampleOfCtx (s : State) (ctx : Nat) (x : Sample) : Bool := ((s.launch x.launch).map (fun l => decide (l.ctx = ctx))).getD false

end Sys2Proof.Claims

open Sys2Proof Sys2Proof.Machine Sys2Proof.Claims

/-- SELF_TEST_COMPLETE (15 R340), FOUL_UNBENCH (15 R339), UMPCTX_ABANDON (15 R331): a running self-test shows its result; the foul register of a
core is 0; no sample of the context is left, nor a replay of one. L2ECC_REQ_WRITE, L2ECC_SWITCH_DONE (15 R346), VSRAM_TARGET_WRITE,
VSRAM_STEP (15 R347): a request starts a switch where none runs, but is ignored for the check off below VSRAMLOW and for the check on
without its feature; STATUS settles, source 9 rises, and a request made meanwhile starts the next switch; a target outside 600 to 900, or
below VSRAMLOW with the check off, sets ERR; LEVEL moves 5 mV toward TARGET once 1,000 cycles of the die's service core have passed. -/
def Obligations.UmpireAndRail : Prop :=
  ((∀ (s : State) core pass, s.arg = .outcome core pass →
     let v := s.csrAt (core / 16) (foulReg core)
     ∃ v', CsrBecomes (exec .selfTestComplete s) s (core / 16) (foulReg core) v' ∧
       (fld v 19 18 = 1 → FieldSet v v' 19 18 (if pass = true then 2 else 3)) ∧ (fld v 19 18 ≠ 1 → v' = v)) ∧
   (∀ (s : State) core, s.arg = .at1 core → CsrBecomes (exec .foulUnbench s) s (core / 16) (foulReg core) 0) ∧
   (∀ (s : State) ctx, s.arg = .at1 ctx → ∃ t, exec .umpctxAbandon s = .next t ∧
     (∀ d, (t.die d).samples = (s.die d).samples.filter (fun x => !sampleOfCtx s ctx x)) ∧
     ∀ d, ∀ x ∈ (s.die d).samples, sampleOfCtx s ctx x = true → ∀ g y, s.group g = some y → y.launch = x.launch → y.linear = x.linear →
       y.shadow ≠ none → t.group g = none)) ∧
  ((∀ (s : State) die v, s.arg = .value die v →
     let status := fld (s.csrAt die 0x604) 1 0
     let level := fld (s.csrAt die 0x610) 31 16
     let low := (Config.vsramLow die).toNat
     let on := v.getLsbD 0
     let x := v.toNat % 2 ^ 16
     ((on = false ∧ level < low) ∨ (on = true ∧ s.feature 7 = false) → exec .l2eccReqWrite s = .next s) ∧
     (¬ ((on = false ∧ level < low) ∨ (on = true ∧ s.feature 7 = false)) → ∃ t, exec .l2eccReqWrite s = .next t ∧ t = { s with csr := t.csr, dies := t.dies } ∧
       (∀ d, t.die d = { s.die d with l2 := (t.die d).l2 } ∧ (d ≠ die → t.die d = s.die d)) ∧
       t.csrAt die 0x600 = (if on = true then 1 else 0) ∧
       FieldSet (s.csrAt die 0x604) (t.csrAt die 0x604) 1 0
         (if status = 0 ∧ on = true then 1 else if status = 2 ∧ on = false then 3 else status) ∧
       ∀ p q, csrKey p q ≠ csrKey die 0x600 → csrKey p q ≠ csrKey die 0x604 → t.csrAt p q = s.csrAt p q) ∧
     (x < 600 ∨ 900 < x ∨ (x < low ∧ status ≠ 2) → CsrBecomes (exec .vsramTargetWrite s) s die 0x614 (s.csrAt die 0x614 ||| 1)) ∧
     (¬ (x < 600 ∨ 900 < x ∨ (x < low ∧ status ≠ 2)) → ∃ t, exec .vsramTargetWrite s = .next t ∧
       RailMoves s t die (if level = fld (s.csrAt die 0x610) 15 0 then (s.svc die).cycle.toNat else railSince s die) ∧
       FieldSet (s.csrAt die 0x610) (t.csrAt die 0x610) 15 0 x)) ∧
   (∀ (s : State) die, s.arg = .at1 die →
     let status := fld (s.csrAt die 0x604) 1 0
     let req := (s.csrAt die 0x600).getLsbD 0
     let level := fld (s.csrAt die 0x610) 31 16
     let target := fld (s.csrAt die 0x610) 15 0
     (status = 0 ∨ status = 2 → exec .l2eccSwitchDone s = .next s) ∧
     (status = 1 ∨ status = 3 → ∃ t, exec .l2eccSwitchDone s = .next t ∧ t = { s with csr := t.csr, dies := t.dies } ∧
       (∀ d, t.die d = { s.die d with l2 := (t.die d).l2 } ∧ (d ≠ die → t.die d = s.die d)) ∧
       FieldSet (s.csrAt die 0x604) (t.csrAt die 0x604) 1 0
         (if status = 1 then (if req = true then 2 else 3) else if req = true then 1 else 0) ∧
       t.csrAt die 0xA00 = s.csrAt die 0xA00 ||| 0x200 ∧
       ∀ p q, csrKey p q ≠ csrKey die 0x604 → csrKey p q ≠ csrKey die 0xA00 → t.csrAt p q = s.csrAt p q) ∧
     let now := (s.svc die).cycle.toNat
     (level = target ∨ now < railSince s die + 1000 → exec .vsramStep s = .next s) ∧
     (level ≠ target → railSince s die + 1000 ≤ now → ∃ t, exec .vsramStep s = .next t ∧ RailMoves s t die now ∧
       FieldSet (s.csrAt die 0x610) (t.csrAt die 0x610) 31 16 (if level < target then min target (level + 5) else max target (level - 5)))))

/-- ECC_ERROR (15 R345): a corrected error is counted. An uncorrectable one in a sector of L2 or memory poisons the sector, is counted and
reported; in an L1 line the core loses the line, and it is reported; in a core's registers, scratchpad or accumulators it poisons the place
and is a foul of the core too. -/
def Obligations.SoftErrors : Prop :=
  (∀ (s : State) e, s.arg = .error e →
    match e with
    | .vector core _ _ _ false | .scalar core _ _ false =>
      CsrBecomes (exec .eccError s) s (core / 16) (errReg core 0) (s.csrAt (core / 16) (errReg core 0) + 1)
    | .scratch core _ _ false => CsrBecomes (exec .eccError s) s (core / 16) (errReg core 1) (s.csrAt (core / 16) (errReg core 1) + 1)
    | .accumulator core _ _ false => CsrBecomes (exec .eccError s) s (core / 16) (errReg core 2) (s.csrAt (core / 16) (errReg core 2) + 1)
    | .l1 core _ false => CsrBecomes (exec .eccError s) s (core / 16) (errReg core 3) (s.csrAt (core / 16) (errReg core 3) + 1)
    | .l2 die _ false => CsrBecomes (exec .eccError s) s die 0x500 (s.csrAt die 0x500 + 1)
    | .memory die _ false => CsrBecomes (exec .eccError s) s die 0x508 (s.csrAt die 0x508 + 1)
    | .l1 core addr true => ∃ t, exec .eccError s = .next t ∧ t = { s with cores := t.cores, csr := t.csr, out := t.out } ∧
        (∀ c, t.core c = { s.core c with l1 := (t.core c).l1 } ∧ (c ≠ core → t.core c = s.core c)) ∧
        (∀ set line ctx k z, inL1 (t.core core) set line ctx k z ↔ inL1 (s.core core) set line ctx k z ∧ (4 * line + k) / 4 ≠ lineOf addr) ∧
        SentOn s t 0 (eventMsg 10 (core / 16) core) ∧ OneCsr s t (core / 16) 0xA00 (s.csrAt (core / 16) 0xA00 ||| 0x400)
    | .l2 die addr true => ∃ t, exec .eccError s = .next t ∧ t = { s with memPoison := t.memPoison, csr := t.csr, out := t.out } ∧
        FlagSet s.memPoison t.memPoison (sectorOf addr) ∧ SentOn s t 0 (eventMsg 10 die 0x7F) ∧ t.csrAt die 0x504 = s.csrAt die 0x504 + 1 ∧
        t.csrAt die 0xA00 = s.csrAt die 0xA00 ||| 0x400
    | .memory die addr true => ∃ t, exec .eccError s = .next t ∧ t = { s with memPoison := t.memPoison, csr := t.csr, out := t.out } ∧
        FlagSet s.memPoison t.memPoison (sectorOf addr) ∧ SentOn s t 0 (eventMsg 10 die 0x7F) ∧ t.csrAt die 0x50C = s.csrAt die 0x50C + 1 ∧
        t.csrAt die 0xA00 = s.csrAt die 0xA00 ||| 0x400
    | _ => True) ∧
  (∀ (s : State) core, (∀ c, s.benched c = false) → fld (s.csrAt (core / 16) (foulReg core)) 7 0 < 15 →
    (∀ wave reg quad w, s.arg = .error (.vector core wave reg quad true) → s.wave core wave = some w → w.bound reg quad = true →
      ∃ t p, exec .eccError s = .next t ∧ t = { s with waves := t.waves, csr := t.csr, out := t.out } ∧ BadStorage s t core ∧
        t.wave core wave = some { w with vpoison := p } ∧ FlagSet w.vpoison p (16 * reg + quad)) ∧
    (∀ wave block w, s.arg = .error (.scalar core wave block true) → s.wave core wave = some w → block ∈ w.blocksBound →
      ∃ t p, exec .eccError s = .next t ∧ t = { s with waves := t.waves, csr := t.csr, out := t.out } ∧ BadStorage s t core ∧
        t.wave core wave = some { w with spoison := p } ∧ FlagSet w.spoison p block) ∧
    (∀ g word x, s.arg = .error (.scratch core g word true) → s.group g = some x →
      ∃ t p, exec .eccError s = .next t ∧ t = { s with groups := t.groups, csr := t.csr, out := t.out } ∧ BadStorage s t core ∧
        t.group g = some { x with scratchPoison := p } ∧ FlagSet x.scratchPoison p word) ∧
    (∀ g element x, s.arg = .error (.accumulator core g element true) → s.group g = some x →
      ∃ t p, exec .eccError s = .next t ∧ t = { s with groups := t.groups, csr := t.csr, out := t.out } ∧ BadStorage s t core ∧
        t.group g = some { x with accPoison := p } ∧ FlagSet x.accPoison p element))


namespace Sys2Proof.Claims

open Sys2Proof.Machine

/-! ## The cooling unit, the power cap, the cluster power controllers -/

/-- A ZSENS word of a zone (16 R349). -/
def sens (z k : Nat) : Nat := 0x6000 + 16 * z + 4 * k

/-- The two words of a zone's entry of the allocation table (16 R351). -/
def entryLo (s : State) (z : Nat) : Word := s.csrAt 4 (0x6800 + 8 * z)
def entryHi (s : State) (z : Nat) : Word := s.csrAt 4 (0x6804 + 8 * z)

/-- The grant of a zone (16 R351). -/
def granted (s : State) (z : Nat) : Nat := fld (entryLo s z) 31 24 + 256 * fld (entryHi s z) 3 0

/-- The guarantees that count, were zone `z` in state `st` with guarantee `g` (16 R352). -/
def guarantees (s : State) (z st g : Nat) : Nat :=
  ((List.range 84).map (fun k =>
    if k = z then (if 3 ≤ st then 0 else g) else if 3 ≤ fld (entryHi s k) 10 8 then 0 else fld (entryLo s k) 11 0)).sum

/-- What a commit makes of OWNER, STATE and GUAR of a zone whose staged words are `a` and `b` (16 R351, R352). -/
def commits (s : State) (z : Nat) (a b : Word) (owner st g : Nat) : Prop :=
  owner = (if fld b 15 11 < 2 then fld b 15 11 else fld (entryHi s z) 15 11) ∧
  st = (if fld b 10 8 < 2 ∨ fld b 10 8 = 4 then fld b 10 8 else fld (entryHi s z) 10 8) ∧
  g = match owner, zoneCore z with
    | 0, some c => classGuar (s.core c).flow.klass
    | 0, none => fld (entryLo s z) 11 0
    | _, _ => fld a 11 0

/-- The best CLASS of the groups of a core; 4 with none (01 R23). -/
def bestClass (s : State) (c : Nat) : Nat :=
  ((s.groupsOn c).map (fun g => ((s.launch g.2.launch).map (fun l => l.klass)).getD 0)).min?.getD 4

/-- Core `a` is lowered before core `b`: an empty one first, then by the lowest urgency, then the highest number (01 R23). -/
def lowersBefore (s : State) (a b : Nat) : Prop := bestClass s b < bestClass s a ∨ (bestClass s a = bestClass s b ∧ b < a)

/-- Of the module only the flow of a core and the setting its CLKSET shows have changed; the setting is the one in force (16 R358). -/
def FlowBecomes (o : Out) (s : State) (c : Nat) (f : CoreFlow) : Prop :=
  ∃ t v, o = .next t ∧ t = { s with cores := t.cores, csr := t.csr } ∧ t.core c = { s.core c with flow := f } ∧
    (∀ k, k ≠ c → t.core k = s.core k) ∧ OneCsr s t (c / 16) (0x900 + 4 * (c % 16)) v ∧
    FieldSet (s.csrAt (c / 16) (0x900 + 4 * (c % 16))) v 13 8 (t.effective c)

/-- SC4 cycles since a zone's step began. -/
def stepTime (s : State) (z : Nat) : Nat := (s.svc 4).cycle.toNat - Table.get zeroNat s.zoneAt z

/-- CTL, STS and the base of the retention image of a cluster power controller (16 R365). -/
def ctlOf (s : State) (d n : Nat) : Word := s.csrAt d (0x800 + 32 * n)
def stsOf (s : State) (d n : Nat) : Word := s.csrAt d (0x804 + 32 * n)
def imageBase (s : State) (d n : Nat) : Nat :=
  ((s.csrAt d (0x80C + 32 * n)).toNat + 2 ^ 32 * (s.csrAt d (0x810 + 32 * n)).toNat) / 65536 * 65536

/-- The events that write one bit of CTL: the event, the bit, its value (16 R366). -/
def ctlEvents : List (Instr × Nat × Bool) :=
  [(.cpcQreqSet, 0, true), (.cpcDrainmode, 1, true), (.cpcRetsave, 2, true), (.cpcClkgateSet, 3, true), (.cpcRailoff, 4, true),
   (.cpcRetload, 5, true), (.cpcClkgateClear, 3, false), (.cpcQreqClear, 0, false)]

/-- The condition of a change of a CTL bit (22 R437). -/
def mayChange (sts : Word) (k : Nat) (on : Bool) : Prop :=
  (k = 0 → on = true → fld sts 11 8 = 0) ∧ (k = 0 → on = false → sts.getLsbD 2 = false) ∧ (k = 2 → sts.getLsbD 0 = true) ∧
  (k = 3 → on = true → sts.getLsbD 0 = true) ∧ (k = 3 → on = false → sts.getLsbD 4 = true) ∧ (k = 4 → sts.getLsbD 2 = true) ∧
  (k = 5 → sts.getLsbD 1 = true ∧ sts.getLsbD 2 = false)

/-- A status word with some bits set, some cleared, and a STATE. -/
def stsWith (v set clear : Word) (st : Nat) : Word := (((v ||| set) &&& ~~~clear) &&& 0xFFFFF0FF) ||| BitVec.ofNat 32 (256 * st)

/-- What a change of a CTL bit makes of STS (16 R366). -/
def stsAfter (v : Word) (k : Nat) (on : Bool) : Word :=
  match k, on with
  | 0, true => stsWith v 0 0 1
  | 3, true => stsWith v 4 0 (if fld v 11 8 = 6 then 6 else 4)
  | 4, true => stsWith v 8 0x10 5
  | 3, false => stsWith v 0 4 (if fld v 11 8 = 4 then (if v.getLsbD 1 = true then 3 else 2) else fld v 11 8)
  | 0, false => stsWith v 0 0x23 0
  | _, _ => v

/-- STS has become a word; source 5 is pending if what software waits for has changed (22 R437). -/
def StsIs (s t : State) (d n : Nat) (v : Word) : Prop :=
  stsOf t d n = v ∧ (v &&& 0xF7F ≠ stsOf s d n &&& 0xF7F → (t.csrAt d 0xA00).getLsbD 5 = true)

end Sys2Proof.Claims

open Sys2Proof Sys2Proof.Machine Sys2Proof.Claims

/-- CFU_SAMPLE (16 R349, R361, R363): a zone's readings stand in ZSENS, a temperature over TLIMIT raises source 0 and lowers the cap of the
zone's core, a dry zone in service is evacuated; the supply is what was measured, and where the guarantees exceed it source 4 rises and no
class is raised. CAT_WRITE and CAT_COMMIT (16 R351, R352): a write waits beside the table; a commit of a zone that is not being evacuated
applies both words together, unless the guarantees would exceed SUPPLYCAP, when it sets ERR and changes nothing else. -/
def Obligations.CoolantAndAllocation : Prop :=
  (∀ (s : State) r supply, s.arg = .sample [r] supply → r.zone < 84 →
     let z := r.zone
     let limit : BitVec 16 := (s.csrAt 4 0x6610).extractLsb' 16 16
     ∃ t, exec .cfuSample s = .next t ∧ t.supply = supply ∧ (r.dry = false → t.mem = s.mem) ∧ t.csrAt 4 (sens z 0) = r.outlet ++ r.inlet ∧
       (t.csrAt 4 (sens z 1)).toNat = (r.dp.toNat * 2 ^ 20 + r.flow.toNat) % 2 ^ 32 ∧ (t.csrAt 4 (sens z 2)).getLsbD 31 = r.dry ∧
       (limit.toInt < r.outlet.toInt → (t.csrAt 4 (sens z 2)).getLsbD 24 = true ∧
         (t.csrAt (if z < 80 then z / 20 else 4) 0xA00).getLsbD 0 = true ∧ ∀ c, zoneCore z = some c → (t.core c).flow.overtemp = true) ∧
       (r.outlet.toInt ≤ limit.toInt → (t.csrAt 4 (sens z 2)).getLsbD 24 = (s.csrAt 4 (sens z 2)).getLsbD 24) ∧
       (r.dry = true → (t.csrAt 4 (sens z 2)).getLsbD 25 = true ∧ (fld (entryHi s z) 10 8 ≤ 1 → fld (entryHi t z) 10 8 = 2 ∧
         fld (t.csrAt 4 (sens z 2)) 11 8 = (if (zoneCore z).isSome = true then 1 else 2)))) ∧
  ((∀ (s : State) p addr v, s.arg = .register p addr v →
     (0x6800 ≤ addr → addr < 0x6AA0 → addr % 4 = 0 → ∃ t, exec .catWrite s = .next t ∧ t = { s with catStaged := t.catStaged } ∧
       ∀ k, Table.get noneAt t.catStaged k = if k = (addr - 0x6800) / 4 then some v else Table.get noneAt s.catStaged k) ∧
     (¬ (0x6800 ≤ addr ∧ addr < 0x6AA0 ∧ addr % 4 = 0) → exec .catWrite s = .next s)) ∧
   (∀ (s : State) k (v : Word), s.arg = .value k v →
     let z := v.toNat % 256
     (v.getLsbD 31 = false ∨ (84 ≤ z ∧ z ≠ 255) → CsrBecomes (exec .catCommit s) s 4 0x6600 (BitVec.ofNat 32 z)) ∧
     ∀ a b owner st g, v.getLsbD 31 = true → z < 84 → fld (entryHi s z) 10 8 ≠ 2 → Table.get noneAt s.catStaged (2 * z) = some a →
       Table.get noneAt s.catStaged (2 * z + 1) = some b → commits s z a b owner st g →
       (min 4000 (fld (s.csrAt 4 0x6610) 11 0) < guarantees s z st g → ∃ t, exec .catCommit s = .next t ∧ t = { s with csr := t.csr } ∧
         t.csrAt 4 0x6600 = BitVec.ofNat 32 z ∧ t.csrAt 4 0x6604 = s.csrAt 4 0x6604 ||| 4 ∧
         ∀ p q, csrKey p q ≠ csrKey 4 0x6600 → csrKey p q ≠ csrKey 4 0x6604 → t.csrAt p q = s.csrAt p q) ∧
       (guarantees s z st g ≤ min 4000 (fld (s.csrAt 4 0x6610) 11 0) → ∃ t, exec .catCommit s = .next t ∧
         fld (entryHi t z) 15 11 = owner ∧ fld (entryHi t z) 7 4 = fld b 7 4 ∧
         fld (entryHi t z) 10 8 = (if fld (entryHi s z) 10 8 = 3 ∧ fld b 10 8 = 0 then 2 else st) ∧
         fld (entryLo t z) 23 12 = fld a 23 12 ∧ fld (entryLo t z) 11 0 = g ∧ Table.get noneAt t.catStaged (2 * z) = none ∧
         Table.get noneAt t.catStaged (2 * z + 1) = none ∧ t.mem = s.mem ∧ t.waves = s.waves)))

/-- CLOCK_RAISE (16 R357): the cap follows the class once the flow has come, or after its time. POWER_MEASURE (01 R23): above the limit the core
that is lowered first loses a step of its power cap, at or below the lower mark the one that is lowered last gains one. EVAC_E2, EVAC_E3,
EVAC_E4 (16 R364): the purge begins once no wave of the core issues, ends after 320,000 cycles, and 50,000 later the retest returns the zone
to service, purges again, or after the third time fails the zone, whose core is benched; 100,000 cycles after a clear retest a core's
zone is idle or active again, and another zone in the state it had before. -/
def Obligations.ClocksPowerEvacuation : Prop :=
  ((∀ (s : State) c, s.arg = .at1 c →
     let z := c / 16 * 20 + c % 16
     let f := (s.core c).flow
     let ready := f.rise = true ∧ (95 * granted s z ≤ 100 * fld (s.csrAt 4 (sens z 1)) 11 0 ∨ f.riseAt + 200000 ≤ (s.svc 4).cycle.toNat)
     (ready → FlowBecomes (exec .clockRaise s) s c { f with capClass := f.klass, rise := false }) ∧ (¬ ready → exec .clockRaise s = .next s)) ∧
   (∀ (s : State) draw, s.arg = .at1 draw →
     let f := fun (c : Nat) => (s.core c).flow
     (3100000 < draw → draw ≤ 3200000 → exec .powerMeasure s = .next s) ∧
     (3200000 < draw → (∀ c < 64, (f c).powerCap = 0) → exec .powerMeasure s = .next s) ∧
     (draw ≤ 3100000 → (∀ c < 64, 40 ≤ (f c).powerCap) → exec .powerMeasure s = .next s) ∧
     (∀ c < 64, 3200000 < draw → 0 < (f c).powerCap → (∀ k < 64, k ≠ c → 0 < (f k).powerCap → lowersBefore s c k) →
       FlowBecomes (exec .powerMeasure s) s c { f c with powerCap := (f c).powerCap - 1 }) ∧
     (∀ c < 64, draw ≤ 3100000 → (f c).powerCap < 40 → (∀ k < 64, k ≠ c → (f k).powerCap < 40 → lowersBefore s k c) →
       FlowBecomes (exec .powerMeasure s) s c { f c with powerCap := (f c).powerCap + 1 }))) ∧
  ((∀ (s : State) z, s.arg = .at1 z →
     let state := fld (entryHi s z) 10 8
     let step := fld (s.csrAt 4 (sens z 2)) 11 8
     (zoneCore z = none → exec .evacE2 s = .next s) ∧
     (∀ c, zoneCore z = some c →
       let still := (∀ e ∈ s.wavesOn c, e.2.run ≠ .running)
       (¬ (state = 2 ∧ step = 1 ∧ still) → exec .evacE2 s = .next s) ∧
       (state = 2 → step = 1 → still → ∃ t, exec .evacE2 s = .next t ∧ t = { s with cores := t.cores, csr := t.csr, zoneAt := t.zoneAt } ∧
         FieldSet (entryHi s z) (entryHi t z) 23 16 255 ∧ FieldSet (s.csrAt 4 (sens z 2)) (t.csrAt 4 (sens z 2)) 11 8 2 ∧ stepTime t z = 0 ∧
         (∀ k, (k + 1 = c ∧ c % 16 ≠ 0) ∨ (k = c + 1 ∧ c % 16 ≠ 15) → (t.core k).flow.neighbour = (s.core k).flow.neighbour + 1))) ∧
     (z < 84 → ¬ (state = 2 ∧ step = 4 ∧ 100000 ≤ stepTime s z) → exec .evacE4 s = .next s) ∧
     (z < 84 → state = 2 → step = 4 → 100000 ≤ stepTime s z → ∃ t, exec .evacE4 s = .next t ∧ t.mem = s.mem ∧ t.waves = s.waves ∧
       fld (t.csrAt 4 (sens z 2)) 11 8 = 15 ∧
       fld (entryHi t z) 10 8 = (match zoneCore z with
         | some c => if (s.groupsOn c).isEmpty = true then 0 else 1
         | none => Table.get zeroNat s.zoneWas z % 8) ∧
       (∀ c, zoneCore z = some c → (t.core c).flow.evac = false) ∧ (80 ≤ z → ∀ c < 64, (t.core c).flow.slow = false))) ∧
   (∀ (s : State) z clear, s.arg = .outcome z clear → z < 84 →
     let state := fld (entryHi s z) 10 8
     let step := fld (s.csrAt 4 (sens z 2)) 11 8
     let tries := fld (s.csrAt 4 (sens z 2)) 7 4
     (¬ (state = 2 ∧ (step = 2 ∧ 320000 ≤ stepTime s z ∨ step = 3 ∧ 50000 ≤ stepTime s z)) → exec .evacE3 s = .next s) ∧
     (state = 2 → step = 2 → 320000 ≤ stepTime s z → ∃ t, exec .evacE3 s = .next t ∧ t = { s with csr := t.csr, zoneAt := t.zoneAt } ∧
       FieldSet (s.csrAt 4 (sens z 2)) (t.csrAt 4 (sens z 2)) 11 8 3 ∧ stepTime t z = 0) ∧
     (state = 2 → step = 3 → 50000 ≤ stepTime s z → ∃ t, exec .evacE3 s = .next t ∧
       (t.csrAt 4 (sens z 2)).getLsbD 31 = !clear ∧
       (clear = true → t.mem = s.mem ∧ fld (t.csrAt 4 (sens z 2)) 11 8 = 4 ∧ fld (entryHi t z) 10 8 = 2 ∧ stepTime t z = 0) ∧
       (clear = false → tries < 2 → t.mem = s.mem ∧ fld (t.csrAt 4 (sens z 2)) 11 8 = 2 ∧ fld (t.csrAt 4 (sens z 2)) 7 4 = tries + 1 ∧
         fld (entryHi t z) 23 16 = 255 ∧ stepTime t z = 0) ∧
       (clear = false → 2 ≤ tries → fld (entryHi t z) 10 8 = 3 ∧
         ∀ c, zoneCore z = some c → fld (t.csrAt 4 (sens z 2)) 11 8 = 6 ∧
           (∀ k, k / 4 = c / 4 → k ≠ c → s.benched k = false → t.benched c = true)))))

/-- The cluster power controller's events (16 R366, 22 R437, R438): a bit of CTL changes, and STS with it, when its condition holds, and
otherwise STS.ERR is set; a cluster that asked to be quiet and holds nothing is acknowledged; RETSAVE takes each core's FUSETIME, CLKSET, FOUL and
cycle count, the retention image holds them, and they return from it; a cluster without its rail keeps neither; WAKE brings the rail back. -/
def Obligations.ClusterPower : Prop :=
  ∀ (s : State) d n, s.arg = .at2 d n → d < 4 → n < 4 →
    let ctl := ctlOf s d n
    let sts := stsOf s d n
    let cores := (List.range 4).map (16 * d + 4 * n + ·)
    let base := imageBase s d n
    (∀ e ∈ ctlEvents, ∃ t, exec e.1 s = .next t ∧
      ((∀ c ∈ cores, ∀ g ∈ s.groupsOn c, s.discardable g.1 = false) → t = { s with csr := t.csr, cores := t.cores } ∧
        (e.1 ≠ .cpcRetsave → e.1 ≠ .cpcRailoff → t.cores = s.cores)) ∧
      (ctl.getLsbD e.2.1 = e.2.2 → ctlOf t d n = ctl &&& 0x3F ∧ stsOf t d n = sts) ∧
      (ctl.getLsbD e.2.1 ≠ e.2.2 → mayChange sts e.2.1 e.2.2 → (ctlOf t d n).toNat < 64 ∧
        (∀ k < 6, (ctlOf t d n).getLsbD k = if k = e.2.1 then e.2.2 else ctl.getLsbD k) ∧ StsIs s t d n (stsAfter sts e.2.1 e.2.2)) ∧
      (ctl.getLsbD e.2.1 ≠ e.2.2 → ¬ mayChange sts e.2.1 e.2.2 →
        ctlOf t d n = ctl ∧ StsIs s t d n (sts ||| 0x40) ∧ t = { s with csr := t.csr }) ∧
      (e.1 = .cpcRailoff → ctl.getLsbD 4 = false → sts.getLsbD 2 = true → ∀ c ∈ cores, (t.core c).cycle = 0 ∧
        t.csrAt d (0x1018 + 64 * (c % 16)) = 0x2000 ∧ t.csrAt d (foulReg c) = 0) ∧
      (e.1 = .cpcRetsave → ctl.getLsbD 2 = false → sts.getLsbD 0 = true → ∀ c ∈ cores, (t.core c).retained =
        { fusetime := s.csrAt d (0x1018 + 64 * (c % 16)), clkset := s.csrAt d (0x900 + 4 * (c % 16)),
          foul := s.csrAt d (foulReg c), cycle := (s.core c).cycle })) ∧
    (let quiet := (∀ c ∈ cores, s.groupsOn c = [] ∧ s.wavesOn c = [] ∧ (s.core c).cmds = [] ∧ (s.core c).array = []);
      (fld sts 11 8 = 1 ∧ quiet → ∃ t, exec .cpcQack s = .next t ∧ t = { s with csr := t.csr } ∧ StsIs s t d n (stsWith sts 1 0 2)) ∧
      (¬ (fld sts 11 8 = 1 ∧ quiet) → exec .cpcQack s = .next s)) ∧
    (∃ t, exec .cpcWake s = .next t ∧ t = { s with csr := t.csr } ∧
      (sts.getLsbD 3 = true → ctlOf t d n = ctl &&& ~~~0x10#32 ∧ StsIs s t d n (stsWith sts 0x10 8 6)) ∧
      (sts.getLsbD 3 = false → ctlOf t d n = ctl ∧ StsIs s t d n (sts ||| 0x40))) ∧
    (¬ (ctl.getLsbD 2 = true ∧ sts.getLsbD 0 = true ∧ sts.getLsbD 1 = false) → exec .cpcRetdone s = .next s) ∧
    (ctl.getLsbD 2 = true → sts.getLsbD 0 = true → sts.getLsbD 1 = false → ∃ t, exec .cpcRetdone s = .next t ∧
      t = { s with mem := t.mem, memPoison := t.memPoison, csr := t.csr } ∧
      StsIs s t d n (stsWith sts 2 0 (if fld sts 11 8 = 2 then 3 else fld sts 11 8)) ∧
      ∀ c ∈ cores, placeOf (base + 4096 * (c % 4)) = .memory →
        let a := base + 4096 * (c % 4)
        let saved := (s.core c).retained
        number (t.bytes a 4) = saved.fusetime.toNat ∧ number (t.bytes (a + 4) 4) = saved.clkset.toNat ∧
        number (t.bytes (a + 8) 4) = saved.foul.toNat ∧ number (t.bytes (a + 16) 8) = saved.cycle.toNat) ∧
    (let back := (ctl.getLsbD 5 = true ∧ sts.getLsbD 1 = true ∧ sts.getLsbD 2 = false ∧ sts.getLsbD 5 = false);
      (¬ back → exec .cpcRetloaded s = .next s) ∧
      (back → ∃ t, exec .cpcRetloaded s = .next t ∧ t.mem = s.mem ∧ StsIs s t d n (stsWith sts 0x20 0 7) ∧
        ∀ c ∈ cores, (t.csrAt d (0x1018 + 64 * (c % 16))).toNat = number (s.bytes (base + 4096 * (c % 4)) 4) % 2 ^ 20 ∧
          (t.core c).cycle.toNat = number (s.bytes (base + 4096 * (c % 4) + 16) 8)))


namespace Sys2Proof.Claims

open Sys2Proof.Machine

/-! ## The link and the hub -/

/-- MEMRSP (19 R412). -/
def rspMsg (ctx : Nat) (tag : Word) (status data : Nat) (payload : List Byte) : Msg :=
  { type := 0x04, ctx := BitVec.ofNat 6 ctx, zero := 0, len := BitVec.ofNat 16 ((payload.length + 31) / 32), tag := tag,
    args := BitVec.ofNat 192 (status + 2 ^ 64 * data), payload := payload }

/-- A message is answered on its port, and nothing else changes. -/
def Answers (o : Out) (s : State) (port : Nat) (m : Msg) (status : Nat) (payload : List Byte) : Prop :=
  ∃ t, o = .next t ∧ t = { s with out := t.out } ∧ SentOn s t port (rspMsg m.ctx.toNat m.tag status 0 payload)

/-- ARGS of a message from bit `l` on, n bits. -/
def part (m : Msg) (l n : Nat) : Nat := m.args.toNat / 2 ^ l % 2 ^ n

/-- The stage (19 R416). -/
def stageOf (s : State) : Nat := fld (s.csrAt 4 0x7B00) 1 0

/-- The form of MEMRD and MEMWR, LEN and payload apart (19 R412). -/
def memForm (m : Msg) : Prop :=
  m.zero = 0 ∧ part m 56 8 = 0 ∧ m.args.toNat < 2 ^ 81 ∧ 4 ≤ part m 64 16 ∧ part m 64 16 ≤ 4096 ∧ part m 64 16 % 4 = 0

/-- A message with no payload. -/
def bare (m : Msg) : Prop := m.len = 0 ∧ m.payload = []

/-- The payload holds n bytes in LEN flits (19 R411). -/
def holds (m : Msg) (n : Nat) : Prop := m.len.toNat = (n + 31) / 32 ∧ n ≤ m.payload.length ∧ m.payload.length ≤ 32 * ((n + 31) / 32)

/-- PEERMAP of a peer's port (19 R414). -/
def peerMap (s : State) (port : Nat) : Word := s.csrAt 4 (0x7800 + 8 * (port - 2))

/-- Why a request of a port may not be made at all (19 R413, R414, R416). -/
def refusal (s : State) (port : Nat) (m : Msg) (phys : Bool) (status : Nat) : Prop :=
  (port < 2 ∧ phys = true ∧ m.ctx ≠ 0 ∧ status = 2) ∨ (stageOf s = 0 ∧ (2 ≤ port ∨ phys = false) ∧ status = 4) ∨
  (2 ≤ port ∧ stageOf s ≠ 0 ∧ (phys = true ∨ (peerMap s port).getLsbD 31 = false ∨ s.feature 4 = false) ∧ status = 2)

/-- The context for which a request of a port acts: a control node's own, a peer's from PEERMAP (19 R413, R414). -/
def actsFor (s : State) (port : Nat) (m : Msg) (phys : Bool) (ctx : Nat) : Prop :=
  (port < 2 ∧ (phys = true → m.ctx = 0) ∧ ctx = m.ctx.toNat) ∨
  (2 ≤ port ∧ stageOf s ≠ 0 ∧ phys = false ∧ (peerMap s port).getLsbD 31 = true ∧ s.feature 4 = true ∧ ctx = (peerMap s port).toNat % 64)

/-- The words of a request lie in module memory that the stage offers, at `pa`, and pass their checks (19 R413, R416). -/
def liesAt (s : State) (phys : Bool) (ctx a n : Nat) (want : Want) (pa : Nat → Nat) : Prop :=
  stageOf s ≠ 0 ∧ ∀ k < n / 4, placeOf (pa k) = .memory ∧ (stageOf s = 1 → pa k + 4 ≤ 2 ^ 37) ∧
    (phys = true → pa k = a + 4 * k) ∧ (phys = false → (∃ e, s.hubCheck ctx (BitVec.ofNat 64 (a + 4 * k)) 4 want = .ok (pa k, e)) ∧
      (want.read = true → s.poisoned (pa k) 4 = false))

/-- The atomic of the low byte of an OPC, and its width in bytes (09 R211). -/
def atomicByte (b : Nat) : Option (AtomOp × Nat) :=
  let ops : List AtomOp := [.add, .min, .max, .minn, .maxn, .and, .or, .xor, .xchg, .cas, .fadd, .fadd2b]
  if 0x38 ≤ b ∧ b < 0x44 then (ops[b - 0x38]?).map (fun o => (o, 4))
  else if 0x48 ≤ b ∧ b < 0x53 then (ops[b - 0x48]?).map (fun o => (o, 8)) else none

/-- The form of CSRRD and CSRWR, whose ARGS hold n bits (19 R412). -/
def csrForm (port : Nat) (m : Msg) (n : Nat) : Prop :=
  port < 2 ∧ m.zero = 0 ∧ bare m ∧ m.args.toNat < 2 ^ n ∧ part m 3 13 = 0 ∧ part m 32 32 = 0 ∧ part m 0 3 ≤ 4 ∧ part m 16 16 % 4 = 0

/-- A message that commands the module, with n bits of ARGS: from context 0 on a control-node port, from stage S1 on (19 R412, R416). -/
def commands (s : State) (port : Nat) (m : Msg) (n : Nat) : Prop :=
  port < 2 ∧ m.args.toNat < 2 ^ n ∧ m.zero = 0 ∧ bare m ∧ m.ctx = 0 ∧ stageOf s ≠ 0

/-- A core's registers ignore writes: its cluster has no rail, or is on its way back from that (22 R438). -/
def dark (s : State) (core : Nat) : Prop :=
  let v := stsOf s (core / 16) (core % 16 / 4)
  fld v 11 8 = 5 ∨ (fld v 11 8 = 6 ∧ (v.getLsbD 1 = true ∨ v.getLsbD 2 = true))

/-- An operation of a wave has translated accesses that are not performed yet (09 R202). -/
def unperformed (s : State) (hits : Nat → Bool) : Prop :=
  ∃ e ∈ s.waves, ∃ w, e.2 = some w ∧ hits w.ctx = true ∧ ∃ o ∈ w.ops, o.passed = true ∧ o.space ≠ .scratch ∧ ∃ u ∈ o.units, u.done = false

/-- The registers that hold what is written to them, by space and address: the bits written (the CSR tables of each chapter). -/
def plainReg (space a : Nat) : Option Word :=
  if a = 0x0A04 then some 0xFFFF else if a = 0x0A08 ∨ (0x0A10 ≤ a ∧ a < 0x0A20 ∧ a % 4 = 0) then some 0xFFFFFFFF
  else if space < 4 then
    if a = 0x0100 ∨ a = 0x0104 then some 0xFFFF else if a = 0x0E00 then some 0xFFFFFFFF
    else if 0x0800 ≤ a ∧ a < 0x0880 ∧ (a % 32 = 12 ∨ a % 32 = 16) then some 0xFFFFFFFF
    else if 0x2000 ≤ a ∧ a < 0x3000 ∧ a % 256 = 0 then some 0x1FF
    else if 0x2000 ≤ a ∧ a < 0x3000 ∧ (a % 256 = 12 ∨ a % 256 = 20) then some 0xFFFFFFFF else none
  else if space = 4 then
    if (0x3000 ≤ a ∧ a < 0x3400 ∨ 0x5000 ≤ a ∧ a < 0x5400) ∧ a % 16 = 0 ∨ a = 0x3800 then some 0xFFFFF000
    else if (0x3000 ≤ a ∧ a < 0x3400 ∨ 0x5400 ≤ a ∧ a < 0x5800) ∧ a % 16 = 4 then some 0x3FFF
    else if 0x3400 ≤ a ∧ a < 0x3800 ∧ a % 16 = 0 then some 0x3FF
    else if (0x4000 ≤ a ∧ a < 0x5400) ∧ a % 16 = 4 ∨ a = 0x3804 then some 0xFFFFFF
    else if 0x4000 ≤ a ∧ a < 0x5000 ∧ a % 16 = 0 ∨ 0x5800 ≤ a ∧ a < 0x5C00 ∧ a % 16 = 4 ∨ a = 0x6610 then some 0xFFFFFFFF
    else if 0x5400 ≤ a ∧ a < 0x5800 ∧ a % 16 = 0 then some 0xFFFFFFF8
    else if 0x7000 ≤ a ∧ a < 0x7050 ∧ a % 16 = 4 then some 0xFFFFFFC0
    else if 0x7800 ≤ a ∧ a < 0x7880 ∧ a % 8 = 0 then some 0x8000003F else none
  else none

end Sys2Proof.Claims

open Sys2Proof Sys2Proof.Machine Sys2Proof.Claims

/-- MEMRD, MEMWR and ATOMIC (19 R412, R413; 09 R211): a malformed one is answered with status 3, one that may not be made with 2 or 4, one whose
translation fails with 1; a read gives the bytes, a write stores the payload, a peer's atomic gives the old value and stores the new one.
CSRRD and CSRWR (19 R412, R416, R417): a malformed one is answered with status 3, another context's with 2, a space that the stage does not
offer with 4; else the register's value is the data, or it takes the write of context 0. REGISTER_WRITE (00 R4): the registers that only
hold what is written, the pending events, and what the link does not write. Each of the six completes: under these conditions on the state and
the operands alone, exec answers the next state described. -/
def Obligations.LinkRequests : Prop :=
  (∀ (s : State) port m, s.arg = .message port m →
     let n := part m 64 16
     let a := part m 0 56
     let phys := m.args.getLsbD 80
     (m.type = 2 →
       (¬ (memForm m ∧ bare m) → Answers (exec .memrd s) s port m 3 []) ∧
       (memForm m → bare m →
         (∀ st, refusal s port m phys st → Answers (exec .memrd s) s port m st []) ∧
         ∀ ctx, actsFor s port m phys ctx →
           (∀ pa, liesAt s phys ctx a n { read := true, plain := true } pa →
             Answers (exec .memrd s) s port m 0 ((List.range (n / 4)).flatMap (fun k => s.bytes (pa k) 4))) ∧
           (phys = false → stageOf s ≠ 0 → (∃ k < n / 4, ∃ e, s.hubCheck ctx (BitVec.ofNat 64 (a + 4 * k)) 4 { read := true, plain := true } = .error e) →
             Answers (exec .memrd s) s port m 1 []))) ∧
     (m.type = 3 →
       (¬ (memForm m ∧ holds m n) → Answers (exec .memwr s) s port m 3 []) ∧
       (memForm m → holds m n →
         (∀ st, refusal s port m phys st → Answers (exec .memwr s) s port m st []) ∧
         ∀ ctx, actsFor s port m phys ctx →
           (∀ pa, liesAt s phys ctx a n { write := true, plain := true } pa → (∀ k < n / 4, pa k = pa 0 + 4 * k) →
             ∃ t, exec .memwr s = .next t ∧ t = { s with mem := t.mem, memPoison := t.memPoison, cores := t.cores, out := t.out } ∧
               (∀ c, t.core c = { s.core c with l1 := (t.core c).l1 }) ∧ SentOn s t port (rspMsg m.ctx.toNat m.tag 0 0 []) ∧
               ∀ x, t.byte x = if pa 0 ≤ x ∧ x < pa 0 + n then m.payload.getD (x - pa 0) 0 else s.byte x) ∧
           (phys = false → stageOf s ≠ 0 → (∃ k < n / 4, ∃ e, s.hubCheck ctx (BitVec.ofNat 64 (a + 4 * k)) 4 { write := true, plain := true } = .error e) →
             Answers (exec .memwr s) s port m 1 []))) ∧
     (m.type = 5 →
       (port < 2 ∨ m.zero ≠ 0 ∨ ¬ bare m ∨ atomicByte (part m 56 8) = none → Answers (exec .atomicMsg s) s port m 3 []) ∧
       (∀ o len, 2 ≤ port → m.zero = 0 → bare m → atomicByte (part m 56 8) = some (o, len) →
         (2 ^ (64 + 8 * len * (if o = .cas then 2 else 1)) ≤ m.args.toNat → Answers (exec .atomicMsg s) s port m 3 []) ∧
         (m.args.toNat < 2 ^ (64 + 8 * len * (if o = .cas then 2 else 1)) →
           (∀ st, refusal s port m false st → Answers (exec .atomicMsg s) s port m st []) ∧
           ∀ ctx, actsFor s port m false ctx →
             (∀ e, s.hubCheck ctx (BitVec.ofNat 64 a) len { read := true, write := true } = .error e →
               Answers (exec .atomicMsg s) s port m 1 []) ∧
             (∀ pa e, s.hubCheck ctx (BitVec.ofNat 64 a) len { read := true, write := true } = .ok (pa, e) → placeOf pa = .memory →
               s.poisoned pa len = false → (stageOf s = 1 → pa + len ≤ 2 ^ 37) →
               ∃ t, exec .atomicMsg s = .next t ∧ t = { s with mem := t.mem, memPoison := t.memPoison, cores := t.cores, out := t.out } ∧
                 (∀ c, t.core c = { s.core c with l1 := (t.core c).l1 }) ∧ SentOn s t port (rspMsg m.ctx.toNat m.tag 0 (number (s.bytes pa len)) []) ∧
                 number (t.bytes pa len) = atomicOf o len (number (s.bytes pa len)) (BitVec.ofNat 128 (m.args.toNat / 2 ^ 64)) ∧
                 ∀ x, ¬ (pa ≤ x ∧ x < pa + len) → t.byte x = s.byte x)))) ∧
     (∀ e ∈ [((.memrd : Instr), (2 : BitVec 8)), (.memwr, 3), (.memrsp, 4), (.atomicMsg, 5), (.csrrdMsg, 6), (.csrwrMsg, 7), (.resumeMsg, 8),
         (.killctx, 9), (.unbenchMsg, 10), (.attest, 14)],
       (m.type = 0 ∨ (11 ≤ m.type.toNat ∧ m.type ≠ 14) → Answers (exec e.1 s) s port m 3 []) ∧
       (m.type ≠ 0 → m.type.toNat ≤ 10 ∨ m.type = 14 → m.type ≠ e.2 → exec e.1 s = .next s))) ∧
  ((∀ (s : State) port m, s.arg = .message port m →
     let space := part m 0 3
     let a := part m 16 16
     let hidden := (stageOf s = 0 ∧ space ≠ 4) ∨ (stageOf s = 1 ∧ space ≠ 0 ∧ space ≠ 4)
     (m.type = 6 →
       (¬ csrForm port m 64 → Answers (exec .csrrdMsg s) s port m 3 []) ∧
       (csrForm port m 64 → m.ctx ≠ 0 → Answers (exec .csrrdMsg s) s port m 2 []) ∧
       (csrForm port m 64 → m.ctx = 0 → hidden → Answers (exec .csrrdMsg s) s port m 4 []) ∧
       (csrForm port m 64 → m.ctx = 0 → ¬ hidden → ∃ t, exec .csrrdMsg s = .next t ∧
         t = { (s.csrRead space a).2 with out := t.out } ∧
         SentOn (s.csrRead space a).2 t port (rspMsg 0 m.tag 0 (s.csrRead space a).1.toNat []))) ∧
     (m.type = 7 →
       (¬ csrForm port m 96 → Answers (exec .csrwrMsg s) s port m 3 []) ∧
       (csrForm port m 96 → m.ctx ≠ 0 → Answers (exec .csrwrMsg s) s port m 2 []) ∧
       (csrForm port m 96 → m.ctx = 0 → hidden → Answers (exec .csrwrMsg s) s port m 4 []) ∧
       (csrForm port m 96 → m.ctx = 0 → ¬ hidden →
         let u := s.csrWrite .link space a (BitVec.ofNat 32 (part m 64 32))
         ∃ t, exec .csrwrMsg s = .next t ∧ t = { u with out := t.out } ∧ SentOn u t port (rspMsg 0 m.tag 0 0 [])))) ∧
   (∀ (s : State) space a v, s.arg = .register space a v →
     let old := s.csrAt space a
     (4 < space ∨ a % 4 ≠ 0 ∨ 0x10000 ≤ a → exec .registerWrite s = .next s) ∧
     (∀ mask, plainReg space a = some mask → space ≤ 4 → CsrBecomes (exec .registerWrite s) s space a ((old &&& ~~~mask) ||| (v &&& mask))) ∧
     (a = 0x0A00 → space ≤ 4 → CsrBecomes (exec .registerWrite s) s space a (old &&& ~~~v)) ∧
     (a = 0x0A30 → space ≤ 4 → ∃ t, exec .registerWrite s = .next t ∧ t = { s with csr := t.csr } ∧ t.csrAt space a = v ∧
       t.csrAt space 0x0A00 = s.csrAt space 0x0A00 ||| 0x100) ∧
     (space < 4 → (0x0280 ≤ a ∧ a < 0x0600 ∨ a = 0x0600 ∨ a = 0x0610 ∨ a = 0x0614) → exec .registerWrite s = .next s) ∧
     (space < 4 → 0x0900 ≤ a → a < 0x0940 → a % 4 = 0 →
       let c := 16 * space + (a - 0x0900) / 4
       (dark s c ∨ 40 < fld v 5 0 → exec .registerWrite s = .next s) ∧
       (¬ dark s c → fld v 5 0 ≤ 40 → ∃ t, exec .registerWrite s = .next t ∧ t = { s with csr := t.csr } ∧
         fld (t.csrAt space a) 5 0 = fld v 5 0 ∧ fld (t.csrAt space a) 13 8 = t.effective c))))

/-- RESUME, UNBENCH and KILLCTX (19 R412): one that may not command is counted in LINKERR. A killed context has no wave, group or launch left,
and each of its launches is completed with status 4 (14 R312, R313; 13 R278); other contexts' waves stay. ATTEST (19 R418): the answer holds
the nonce, the features, the stage and the hash of the images, and a signature over them. MEMRSP (19 R412–R414): one that matches no request
is counted; the answer to a forwarded request goes on to who asked; the answer to a load's part is its data, and one with a status stops the
wave with PAGE_PROTECTION. LINK_CREDIT_RETURN (19 R411): the oldest message of a port has left. Each of the six completes: under these
conditions on the state and the operands alone, exec answers the next state described. -/
def Obligations.LinkCommands : Prop :=
  (∀ (s : State) port m, s.arg = .message port m →
     (m.type = 8 → ¬ commands s port m 17 → CsrBecomes (exec .resumeMsg s) s 4 0x7C00 (s.csrAt 4 0x7C00 + 1)) ∧
     (m.type = 8 → commands s port m 17 →
       let core := part m 0 6
       let wave := part m 6 9
       ((∀ w, Stands s core wave w → barred s core w) → Ignored (exec .resumeMsg s) s core) ∧
       (∀ w, Stands s core wave w → ¬ barred s core w →
         ∃ t v, exec .resumeMsg s = .next t ∧ Resumed s t core wave w v (m.args.getLsbD 15) ∧
           (m.args.getLsbD 16 = true → ∀ k, ∀ x ∈ Table.get nilAt (t.core core).icache k, x.ctx ≠ w.ctx) ∧
           (m.args.getLsbD 16 = false → (t.core core).icache = (s.core core).icache))) ∧
     (m.type = 10 → ¬ commands s port m 6 → CsrBecomes (exec .unbenchMsg s) s 4 0x7C00 (s.csrAt 4 0x7C00 + 1)) ∧
     (m.type = 10 → commands s port m 6 → (dark s (part m 0 6) → exec .unbenchMsg s = .next s) ∧
       (¬ dark s (part m 0 6) → CsrBecomes (exec .unbenchMsg s) s (part m 0 6 / 16) (foulReg (part m 0 6)) 0)) ∧
     (m.type = 9 → ¬ commands s port m 6 → CsrBecomes (exec .killctx s) s 4 0x7C00 (s.csrAt 4 0x7C00 + 1)) ∧
     (m.type = 9 → commands s port m 6 →
       let ctx := part m 0 6
       ∃ t, exec .killctx s = .next t ∧ (∀ c k w, t.wave c k = some w → w.ctx ≠ ctx) ∧ (∀ g x, t.group g = some x → x.ctx ≠ ctx) ∧
         (∀ n l, t.launch n = some l → l.ctx ≠ ctx) ∧
         ((∀ e ∈ s.dies, e.2.samples = []) →
           (s.stagedAll = [] → ∀ c k w, s.wave c k = some w → w.ctx ≠ ctx →
             (∀ e ∈ s.waves, ∀ v, e.2 = some v → v.ctx = ctx → ∀ y ∈ s.clusterOf v.group, ∀ j ∈ y.2.live,
               waveKey y.2.core j ≠ waveKey c k) → t.wave c k = some w) ∧
           ∀ n l, s.launch n = some l → l.ctx = ctx → l.kind = .plain → l.stage ≠ .finished →
             completeMsg ctx l.tag l.launchid 4 false ∈ Table.get nilAt t.out (l.port.getD 0)))) ∧
  ((∀ (s : State) port m, s.arg = .message port m →
     (m.type = 14 → 2 ≤ port ∨ m.zero ≠ 0 ∨ m.args ≠ 0 ∨ ¬ holds m 48 → Answers (exec .attest s) s port m 3 []) ∧
     (m.type = 14 → port < 2 → m.zero = 0 → m.args = 0 → holds m 48 →
       ∃ t r, exec .attest s = .next t ∧ t = { s with out := t.out } ∧
         SentOn s t port { type := 0x0E, ctx := m.ctx, zero := 0, len := 8, tag := m.tag, args := 0,
                           payload := r ++ (List.range 96).map (Config.signByte r) } ∧
         r.length = 160 ∧ r.take 48 = m.payload.take 48 ∧
         number ((r.drop 48).take 4) = (if stageOf s = 3 then Config.features.toNat else 0) ∧ number ((r.drop 64).take 8) = stageOf s ∧
         (r.drop 72).take 48 = (List.range 48).map (Config.sha384Byte ((List.range 5).flatMap (fun n => ((s.svc n).image).getD []))) ∧
         r.drop 120 = List.replicate 40 0) ∧
     (m.type = 4 → (∀ r ∈ s.peerReqs, ¬ (r.port = port ∧ r.tag = m.tag)) →
       CsrBecomes (exec .memrsp s) s 4 0x7C00 (s.csrAt 4 0x7C00 + 1)) ∧
     (∀ r, m.type = 4 → s.peerReqs.find? (fun r => decide (r.port = port ∧ r.tag = m.tag)) = some r → r.engine = false → r.split = none → r.reader = none →
       let status := part m 0 8
       let left := s.peerReqs.filter (fun x => decide (¬ (x.port = port ∧ x.tag = m.tag)))
       (∀ p tag, r.link = some (p, tag) →
         (status = 0 → ¬ holds m r.bytes → CsrBecomes (exec .memrsp s) s 4 0x7C00 (s.csrAt 4 0x7C00 + 1)) ∧
         (status = 0 → holds m r.bytes → ∃ t, exec .memrsp s = .next t ∧ t = { s with out := t.out, peerReqs := left } ∧
           SentOn s t p (rspMsg r.wave tag 0 (part m 64 64) (m.payload.take r.bytes))) ∧
         (status ≠ 0 → ∃ t, exec .memrsp s = .next t ∧ t = { s with out := t.out, peerReqs := left } ∧
           SentOn s t p (rspMsg r.wave tag status (part m 64 64) []))) ∧
       (∀ w o u, r.link = none → r.core < 64 → s.wave r.core r.wave = some w → w.op r.op = some o → o.kind = .load → o.units[r.unit]? = some u →
         u.sent = true → w.order = r.order →
         (status = 0 → holds m r.bytes → 0 < u.len → u.off % 16 + u.len ≤ 16 → u.va % 4 + u.len ≤ r.bytes → u.undef = none →
           ∃ t, exec .memrsp s = .next t ∧ t.peerReqs = left ∧ t.mem = s.mem ∧
             PartDone t r.core r.wave w o r.unit u (((m.payload.take r.bytes).drop (u.va % 4)).take u.len)) ∧
         (status ≠ 0 → Runs s r.core r.wave w → s.shadowOf w.group = false → ∃ t v h, exec .memrsp s = .next t ∧ t.peerReqs = left ∧
           t = { s with waves := t.waves, peerReqs := left } ∧ t.wave r.core r.wave = some v ∧ v.run = .draining ∧ v.halt = some h ∧
           h.info.cause = .pageProtection ∧ h.info.addr = r.va ∧ h.pc = o.pc)))) ∧
   (∀ (s : State) port, s.arg = .at1 port → ∃ t, exec .linkCreditReturn s = .next t ∧ t = { s with out := t.out } ∧
     Table.get nilAt t.out port = (Table.get nilAt s.out port).drop 1 ∧ ∀ k, k ≠ port → Table.get nilAt t.out k = Table.get nilAt s.out k))

/-- TLBINV_GO and TLBINV_DONE (09 R202): a GO of kind 0 to 2 takes its operands and is awaited, another while it is awaited is ignored, and once
every access that the dropped translations serve has been performed they are gone from every TLB, for kinds 1 and 2 the L1 data lines with
them, the walks of the contexts start again from the top, and the count rises. ENABLE_WRITE (19 R415),
STAGE_ADVANCE, STAGE_SELF_TEST_DONE, POWER_ON_RESET (19 R416), FUSETIME_WRITE (04 R96). After a reset the module stands as `State.reset`,
whose registers that the spec gives no value are the model's choice (logs 1, 6, 9, 12); the schedule and the count of draws, the model's
own, go on. UNASSIGNED_OPCODE_ISSUE (02 R28, 14 R299): a word that is no instruction, or cannot be fetched, stops its wave with the cause,
the address and what the walk found; a service core halts and reports it (16 R367). -/
def Obligations.HubAndUnassigned : Prop :=
  ((∀ (s : State) k (v : Word), s.arg = .value k v →
     (∃ t, exec .tlbinvGo s = .next t ∧ t = { s with csr := t.csr, tlbinvPending := t.tlbinvPending, tlbinvOf := t.tlbinvOf } ∧
       OneCsr s t 4 0x3808 (v &&& 0x3F03) ∧
       (s.tlbinvPending = true ∨ v.getLsbD 31 = false ∨ fld v 1 0 = 3 → t.tlbinvPending = s.tlbinvPending ∧ t.tlbinvOf = s.tlbinvOf) ∧
       (s.tlbinvPending = false → v.getLsbD 31 = true → fld v 1 0 ≠ 3 → t.tlbinvPending = true ∧
         t.tlbinvOf = (fld v 1 0, fld v 13 8, (s.csrAt 4 0x3800).toNat + 2 ^ 32 * (s.csrAt 4 0x3804).toNat))) ∧
     (4 ≤ k → exec .enableWrite s = .next s) ∧
     (k < 4 → (∃ e ∈ s.groups, e.2 ≠ none) → CsrBecomes (exec .enableWrite s) s 4 0x7C00 (s.csrAt 4 0x7C00 + 1)) ∧
     (k < 4 → (∀ e ∈ s.groups, e.2 = none) → ∃ t, exec .enableWrite s = .next t ∧ t = { s with csr := t.csr } ∧
       t.csrAt 4 (0x7A10 + 4 * k) = (if k = 0 ∧ stageOf s = 3 then v &&& BitVec.ofNat 32 Config.features.toNat else 0) ∧
       ∀ c < 64, fld (t.csrAt (c / 16) (0x900 + 4 * (c % 16))) 13 8 = t.effective c) ∧
     (dark s k → exec .fusetimeWrite s = .next s) ∧
     (¬ dark s k → CsrBecomes (exec .fusetimeWrite s) s (k / 16) (0x1018 + 64 * (k % 16)) (v &&& 0xFFFFF))) ∧
   (∀ s : State,
     let kind := s.tlbinvOf.1
     let ctx := s.tlbinvOf.2.1
     let va := s.tlbinvOf.2.2
     let hits := fun (c : Nat) => decide (kind = 2 ∨ c = ctx)
     let goes := fun (e : TlbEntry) => if kind = 0 then decide (e.ctx = ctx ∧ e.vbase ≤ va ∧ va < e.vbase + e.size) else hits e.ctx
     (s.tlbinvPending = false ∨ unperformed s hits → exec .tlbinvDone s = .next s) ∧
     (s.tlbinvPending = true → ¬ unperformed s hits → ∃ t x, exec .tlbinvDone s = .next t ∧
       t = { s with cores := t.cores, dies := t.dies, waves := t.waves, csr := t.csr, tlbinvPending := false } ∧
       OneCsr s t 4 0x380C x ∧ FieldSet (s.csrAt 4 0x380C) x 31 16 ((fld (s.csrAt 4 0x380C) 31 16 + 1) % 2 ^ 16) ∧
       (∀ c, t.core c = { s.core c with tlb := (s.core c).tlb.filter (fun e => !goes e), l1 := (t.core c).l1 } ∧
         (kind = 0 → (t.core c).l1 = (s.core c).l1) ∧
         (kind ≠ 0 → (∀ e ∈ (t.core c).l1, ∀ x ∈ e.2, hits x.ctx = false ∧ ∃ f ∈ (s.core c).l1, f.1 = e.1 ∧ x ∈ f.2) ∧
           ∀ f ∈ (s.core c).l1, ∀ x ∈ f.2, hits x.ctx = false → ∃ e ∈ (t.core c).l1, e.1 = f.1 ∧ x ∈ e.2)) ∧
       (∀ d, t.die d = { s.die d with tlb := (s.die d).tlb.filter (fun e => !goes e),
                                      walks := (s.die d).walks.map (fun x =>
                                        if hits x.ctx = true then { x with left := 5, table := s.topTable x.ctx } else x) }) ∧
       ∀ c k, t.wave c k = (s.wave c k).map (fun w => if hits w.ctx = true then
         { w with ops := w.ops.map (fun o => if o.passed = true then o else { o with walked := [] }) } else w)) ∧
     (stageOf s < 3 → exec .stageAdvance s = .next { s with stageTest := true }) ∧
     (stageOf s = 3 → exec .stageAdvance s = .next s) ∧
     exec .powerOnReset s = .next { State.reset with agenda := s.agenda, free := s.free, last := s.last }) ∧
   (∀ (s : State) k pass, s.arg = .outcome k pass →
     (s.stageTest = false → exec .stageSelfTestDone s = .next s) ∧
     (s.stageTest = true → pass = true → ∃ t, exec .stageSelfTestDone s = .next t ∧ t = { s with csr := t.csr, stageTest := false } ∧
       t.csrAt 4 0x7B00 = BitVec.ofNat 32 (stageOf s + 1)) ∧
     (s.stageTest = true → pass = false → ∃ t, exec .stageSelfTestDone s = .next t ∧ t = { s with out := t.out, stageTest := false } ∧
       SentOn s t 0 (eventMsg 10 4 0x7F)))) ∧
  (∀ (s : State) cause addr level malformed entry, s.arg = .fetchFault cause addr level malformed entry →
     (∀ w, s.cur.svc = none → s.wave s.cur.core s.cur.wave = some w → w.run = .running → s.shadowOf w.group = false →
       cause ∉ [.poisonRegister, .kill, .discard] →
       exec .unassignedOpcIssue s = .next (s.setWave s.cur.core s.cur.wave (some { w with
         run := .draining
         halt := some { info := { cause := cause, kind := .fetch, addr := addr, level := level, malformed := malformed, entry := entry },
                        pc := s.cur.iaddr, split := s.cur.split } }))) ∧
     (∀ n, s.cur.svc = some n → ∃ t m, exec .unassignedOpcIssue s = .next t ∧ t.mem = s.mem ∧ t.waves = s.waves ∧
       t.svc n = { s.svc n with halted := true, waiting := none } ∧ SentOn s t 0 m ∧ m.type = 0x0D ∧ m.args.toNat % 16 = 6))


namespace Sys2Proof.Claims

open Sys2Proof.Machine

/-! ## The whole machine -/

/-- The rows whose issue `IssueRules` speaks of. -/
def aluRow (i : Instr) : Option (FOp × FArgs) :=
  match arithRow i, bitRow i, floatRow i with
  | some (op, f, _), _, _ => some (op, f)
  | _, some (op, f, _), _ => some (op, f)
  | _, _, some (op, f, _) => some (op, f)
  | _, _, _ => none

/-- The place of an instruction of words `ws` at a split's PC (02 R27). -/
def placeAt (core wave split : Nat) (pc : Dword) (ws : List Dword) (aux : Option Aux) : Issuer :=
  { core := core, wave := wave, split := split, iaddr := pc, caddr := pc + BitVec.ofNat 64 (8 * (ws.length - 1)),
    next := pc + BitVec.ofNat 64 (8 * ws.length), words := ws, aux := aux, svc := none }

/-- Words with what they stand for: the bits are set out by the formats of 02 R29–R43. -/
def sampleWords : List (List Dword × Instr) :=
  [([0x0000000000000000], .nop),
   -- IADD v3, v1, v2: OPC 0x080, D 3, A 1, B 2.
   ([0x0800301020000000], .iadd { d := 3, a := 1, b := 2, s := 0, mod := 0, rx := false, g := 0, la := false, lb := false, bs := false, limm := none }),
   -- IADD v3, v1, s5 under m2, RX clear, LA set: S 5, G 2, LA, BS.
   ([0x0800301000140015], .iadd { d := 3, a := 1, b := 0, s := 5, mod := 0, rx := false, g := 2, la := true, lb := false, bs := true, limm := none }),
   -- LIMM 0x12345678, then IADD v0, v0, that immediate.
   ([0x8212345678000000, 0x0800000000000001],
     .iadd { d := 0, a := 0, b := 0, s := 0, mod := 0, rx := false, g := 0, la := false, lb := false, bs := true, limm := some 0x12345678 }),
   -- SIADDI s4, s2, −1.
   ([0x00501002003FFFC0], .siaddi { d := 4, a := 2, b := 0, imm := 0xFFFF, la := false, lb := false }),
   -- BRA +16 words.
   ([0x0300000100000000], .bra { t := 0x10, j := 0, k := 0, p := false }),
   -- SLD.32 s8, [s6:s7 + 4].
   ([0x2300200600000100], .sld .b32 { d := 8, a := 6, scope := 0, ord := 0, imm := 4, la := false, lb := false })]

end Sys2Proof.Claims

open Sys2Proof Sys2Proof.Machine Sys2Proof.Claims

/-- Words set out from the formats decode to what they stand for (02 R29–R33, R42). -/
def Obligations.WordsDecode : Prop :=
  ∀ e ∈ sampleWords, (decodeOn false e.1).toOption.map (fun x => (x.1.instr, x.2)) = some (e.2, e.1.length)

/-- Decoding is the inverse of encoding: for every instruction of a core of either kind, with every operand at every value its encoding admits,
the words that stand for it decode to it and to nothing more (02 R25–R49). -/
def Obligations.DecodeEncode : Prop :=
  ∀ (svc : Bool) (x : Decoded), x.wellFormed svc = true → decodeOn svc (encode x) = .ok (x, (encode x).length)

/-- The fetch of an instruction (02 R27; 14 R323): its words, prefixes and the word after them, are what memory holds where one code segment
holds them all, the pages' translations allow it, and the core keeps no other version of them; reading them changes neither memory nor a wave.
The words that a decoding uses are some of those
given, at least one and at most five, and what follows them does not matter (02 R27). -/
def Obligations.InstructionFetch : Prop :=
  (∀ (s : State) core wave split w (pc : Dword) (ws : List Dword) (pa : Nat → Nat),
     let segs := ((s.launchOf w.group).bind (fun l => l.segments)).getD []
     pc.toNat % 8 = 0 → 0 < ws.length → ws.length ≤ 5 → (∀ k, k + 1 < ws.length → frameOf (ws.getD k 0) = 2) →
     (frameOf (ws.getD (ws.length - 1) 0) ≠ 2 ∨ ws.length = 5) → pc.toNat + 8 * ws.length ≤ 2 ^ 64 →
     (∃ x ∈ segs, x.1 ≤ pc.toNat ∧ pc.toNat + 8 * ws.length ≤ x.1 + x.2.1) →
     (∀ j k, j < k → k < ws.length → (pc.toNat + 8 * j) / 128 = (pc.toNat + 8 * k) / 128 → pa k = pa j + 8 * (k - j)) →
     (∀ k < ws.length,
       let a := pc.toNat + 8 * k
       (∃ e ∈ (s.die (core / 16)).tlb, e.serves w.ctx a = true ∧
         (∀ x ∈ (s.core core).tlb ++ (s.die (core / 16)).tlb, x.serves w.ctx a = true → x = e) ∧
         s.check core w.ctx (BitVec.ofNat 64 a) 8 .fetch { exec := true } = .ok (pa k, e)) ∧
       placeOf (pa k) = .memory ∧ pa k % 128 = a % 128 ∧ number (s.bytes (pa k) 8) = (ws.getD k 0).toNat ∧
       ∀ v ∈ (s.core core).iwords w.ctx a, v = ws.getD k 0) →
     ∃ t, s.fetchSplit core wave split w pc = (.words ws, t) ∧ t = { s with cores := t.cores, dies := t.dies, free := t.free } ∧
       (∀ c, c ≠ core → t.core c = s.core c) ∧ (∀ d, d ≠ core / 16 → t.die d = s.die d) ∧
       t.core core = { s.core core with icache := (t.core core).icache, tlb := (t.core core).tlb } ∧
       t.die (core / 16) = { s.die (core / 16) with tlb := (t.die (core / 16)).tlb }) ∧
  (∀ (svc : Bool) (ws more : List Dword) x n, decodeOn svc ws = .ok (x, n) →
     1 ≤ n ∧ n ≤ 5 ∧ n ≤ ws.length ∧ decodeOn svc (ws.take n ++ more) = .ok (x, n))

/-- A step runs the decoded instruction. A split's turn: where the words at its PC decode to an instruction that the stage offers, the step is
that instruction's meaning at its place, with the wave's account of it afterwards (02 R27, R28; 15 R343); where they decode to none, or cannot
be fetched, it is the stop with the cause of 02 R28. A service core's turn and an event's occurrence are their meanings likewise. Every step ends in a next
state: the model has no fault and refuses no instruction; what the spec stops is a next state too (14 R301). -/
def Obligations.StepRunsDecoded : Prop :=
  ((∀ (s s1 : State) core wave split ts w sp ws, s.agenda = .issue core wave split :: ts →
     let s0 := { s with agenda := ts }
     s0.wave core wave = some w → w.split split = some sp → s0.mayIssue core w split sp = true →
     s0.fetchSplit core wave split w sp.pc = (.words ws, s1) → s1.execBreaks w sp sp.pc = [] →
     (∀ d n, decodeOn false ws = .ok (d, n) → s1.offers (opcOfWords (ws.take n)) = true →
       step s = thenDo (exec d.instr { s1 with cur := placeAt core wave split sp.pc (ws.take n) d.aux, arg := .none })
         (fun t => { t.settleIssue core wave split d.instr w sp d.aux (signedWords d.instr sp (ws.take n)) with
           cur := {}, arg := .none })) ∧
     (∀ c, decodeOn false ws = .error c →
       step s = thenDo (exec .unassignedOpcIssue { s1 with
           cur := placeAt core wave split sp.pc ws none, arg := .fetchFault c sp.pc 7 false 0 })
         (fun t => { t.settleIssue core wave split .unassignedOpcIssue w sp none (signedWords .unassignedOpcIssue sp ws) with
           cur := {}, arg := .none }))) ∧
   (∀ (s s1 : State) core wave split ts w sp i, s.agenda = .issue core wave split :: ts →
     let s0 := { s with agenda := ts }
     s0.wave core wave = some w → w.split split = some sp → s0.mayIssue core w split sp = true →
     s0.fetchSplit core wave split w sp.pc = (.fault i, s1) →
     step s = thenDo (exec .unassignedOpcIssue { s1 with
         cur := placeAt core wave split sp.pc [] none, arg := .fetchFault i.cause i.addr i.level i.malformed i.entry })
       (fun t => { t.settleIssue core wave split .unassignedOpcIssue w sp none (signedWords .unassignedOpcIssue sp []) with
         cur := {}, arg := .none })) ∧
   (∀ (s : State) n ts ws d k, s.agenda = .svc n :: ts → n < 5 →
     let s1 := ({ s with agenda := ts }).svcTake n
     (s1.svc n).halted = false → (s1.svc n).waiting = none → (s1.svc n).fetchPc = .words ws → decodeOn true ws = .ok (d, k) →
     step s = thenDo (exec d.instr { s1 with cur := { placeAt 0 0 0 (s1.svc n).pc (ws.take k) d.aux with svc := some n }, arg := .none })
       (fun t => { t with cur := {}, arg := .none })) ∧
   (∀ (s : State) e a ts, s.agenda = .event e a :: ts → isEvent e = true →
     step s = thenDo (exec e { s with agenda := ts, cur := {}, arg := a }) (fun t => { t with cur := {}, arg := .none }))) ∧
  (∀ s : State, ∃ t, step s = .next t)

/-- REP (02 R41, 04 R113): repeat k of a lanewise instruction does what the instruction does with its fields stepped, in the lanes of repeat 0;
before the last repeat the split stays where it is and counts, and after it goes on. The issue of an arithmetic instruction (05 R123, R127,
R130): while an outstanding write stands against a register that it writes or reads it waits; beyond the registers reserved for its wave it
stops with ILLEGAL_OPERAND; where it would read a poisoned register its wave is killed. -/
def Obligations.RepeatsAndIssue : Prop :=
  (∀ op f res s w sp (r : RepArgs) s', laneRow (Instr.ofF (stepped r op f sp.rep.toNat) op) = some (op, stepped r op f sp.rep.toNat, res) →
     s.issuing = some (w, sp) → s.cur.aux = some { rep := some r, op := op, f := f } →
     Gathers (State.captureRep { s with cur := { s.cur with aux := some { rep := some r, op := op, f := stepped r op f sp.rep.toNat } } })
       (stepped r op f sp.rep.toNat).width s' →
     Writes (exec .repRepeat s) s' (op.uses (stepped r op f sp.rep.toNat)) (stepped r op f sp.rep.toNat).d.toNat
       (op.dCount (stepped r op f sp.rep.toNat).b) (run (stepped r op f sp.rep.toNat)) noMask res
       (farReads op (stepped r op f sp.rep.toNat)) ∧
     ∀ x : Split, (past s' x).rep = if x.rep < r.count then x.rep + 1 else 0) ∧
  (∀ i op f, aluRow i = some (op, f) → ∀ (s s' : State) w sp, s.cur.svc = none → Gathers s f.width s' → s'.issuing = some (w, sp) →
     let u := op.uses f
     ((∃ o ∈ w.ops, ∃ d n, o.dst = .vec d n ∧ ((∃ r ∈ u.vw, d ≤ r ∧ r < d + n ∧ ∃ q ∈ quadsOf o.run, q ∈ quadsOf sp.lanes) ∨
         (∃ r ∈ u.vr, d ≤ r ∧ r < d + n ∧ ∃ q ∈ quadsOf o.run, q ∈ w.readQuads sp u))) ∨
       (∃ o ∈ w.ops, ∃ d n, o.dst = .scal d n ∧ ∃ r ∈ u.sr, d ≤ r ∧ r < d + n) → exec i s = .next s') ∧
     (w.busy sp u = false → w.vres < w.vmax → w.vres < u.vnames.length →
       ∃ t, exec i s = .next t ∧ StopsAt s' t w .illegalOperand s'.cur.iaddr) ∧
     (∀ g, w.busy sp u = false → (w.vmax ≤ w.vres ∨ u.vnames.length ≤ w.vres) →
       (w.smax ≤ w.sres ∨ u.blocks.length ≤ (w.sres + 3) / 4) → w.readsPoison sp u = true → s'.group w.group = some g → g.shadow = none →
       s'.discardable w.group = false → w.flow = 0 → w.kind = .grid → (∃ k ∈ g.live, k ≠ s'.cur.wave) →
       (∀ o ∈ w.ops, ∀ x ∈ o.units, x.sent = false) → ∃ t, exec i s = .next t ∧ Killed s' t s'.cur.core s'.cur.wave .poisonRegister))

/-- The state right after reset (19 R416; the Reset columns of 01, 04, 09, 13–17): stage S0, nothing launched and nothing resident; every core
and zone stands open, and the limits hold their values. What the spec gives no reset value reads 0 (logs 1, 6, 9, 12, the model's choice).
Memory and the control and status registers stand in their canonical form after reset. -/
def Obligations.ResetState : Prop :=
  (stageOf State.reset = 0 ∧ (∀ c k, State.reset.wave c k = none) ∧ (∀ g, State.reset.group g = none) ∧ (∀ n, State.reset.launch n = none) ∧
   (∀ a, State.reset.byte a = 0) ∧ (∀ p, Table.get nilAt State.reset.out p = []) ∧
   (∀ d < 4, State.reset.csrAt d 0x100 = 0xFFFF ∧ fld (State.reset.csrAt d 0x610) 15 0 = 800 ∧ fld (State.reset.csrAt d 0x610) 31 16 = 800 ∧
     State.reset.csrAt d 0xE00 = 1000000 ∧
     (∀ n < 4, stsOf State.reset d n = 0x10 ∧ ctlOf State.reset d n = 0) ∧
     ∀ k < 16, State.reset.csrAt d (0x1018 + 64 * k) = 0x2000 ∧ State.reset.csrAt d (0x900 + 4 * k) = 0x2222 ∧
       State.reset.csrAt d (foulReg k) = 0) ∧
   (∀ x < 64, fld (State.reset.csrAt 4 (0x3008 + 16 * x)) 6 0 = 16 ∧ fld (State.reset.csrAt 4 (0x3400 + 16 * x)) 7 0 = 16) ∧
   (∀ z < 84, fld (entryHi State.reset z) 10 8 = 0 ∧ granted State.reset z = 0 ∧ fld (State.reset.csrAt 4 (sens z 2)) 11 8 = 15) ∧
   State.reset.csrAt 4 0x6610 = 0x03C0CFA0 ∧ State.reset.supply = 4000 ∧ State.reset.tlbinvPending = false) ∧
  (Memory.wf State.reset.mem = true ∧ Csrs.wf State.reset.csr = true)

/-- Every step keeps the canonical form of memory and of the control and status registers: addresses strictly rise, and no entry is what an
unlisted address reads as, so that equal memories are equal data. Between steps nothing issues: a step from such a state ends in one. -/
def Obligations.StepKeepsInvariants : Prop :=
  (∀ s t : State, Memory.wf s.mem = true → Csrs.wf s.csr = true → step s = .next t → Memory.wf t.mem = true ∧ Csrs.wf t.csr = true) ∧
  (∀ s t : State, s.quiet → step s = .next t → t.quiet)
end

