-- ==== Sys2Proof/Laws/Encoding.lean ====
section
/-! SUPPORT. The fields of the words that the encoder writes, and the words of the fields that the decoder reads. -/

namespace Sys2Proof

theorem frameBits_wordF (o : BitVec 10) (a : FArgs) : (wordF o a).extractLsb' 62 2 = 0#2 := by
  apply BitVec.eq_of_getLsbD_eq; intro i hi
  simp only [wordF, BitVec.getLsbD_extractLsb', BitVec.getLsbD_append, hi, decide_true, Bool.true_and]
  repeat rw [if_neg (by omega)]
  simp

theorem frameOf_wordF (o : BitVec 10) (a : FArgs) : frameOf (wordF o a) = 0 := by simp [frameOf, frameBits_wordF]

theorem opcBits_wordF (o : BitVec 10) (a : FArgs) : (wordF o a).extractLsb' 52 10 = o := by
  apply BitVec.eq_of_getLsbD_eq; intro i hi
  simp only [wordF, BitVec.getLsbD_extractLsb', BitVec.getLsbD_append, hi, decide_true, Bool.true_and]
  repeat (first | rw [if_neg (by omega)] | rw [if_pos (by omega)])
  congr 1; omega

theorem opcOf_wordF (o : BitVec 10) (a : FArgs) : opcOf (wordF o a) = o.toNat := by simp [opcOf, opcBits_wordF]

theorem d_wordF (o : BitVec 10) (a : FArgs) : (wordF o a).extractLsb' 44 8 = a.d := by
  apply BitVec.eq_of_getLsbD_eq; intro i hi
  simp only [wordF, BitVec.getLsbD_extractLsb', BitVec.getLsbD_append, hi, decide_true, Bool.true_and]
  repeat (first | rw [if_neg (by omega)] | rw [if_pos (by omega)])
  congr 1; omega

theorem a_wordF (o : BitVec 10) (a : FArgs) : (wordF o a).extractLsb' 36 8 = a.a := by
  apply BitVec.eq_of_getLsbD_eq; intro i hi
  simp only [wordF, BitVec.getLsbD_extractLsb', BitVec.getLsbD_append, hi, decide_true, Bool.true_and]
  repeat (first | rw [if_neg (by omega)] | rw [if_pos (by omega)])
  congr 1; omega

theorem b_wordF (o : BitVec 10) (a : FArgs) : (wordF o a).extractLsb' 28 8 = a.b := by
  apply BitVec.eq_of_getLsbD_eq; intro i hi
  simp only [wordF, BitVec.getLsbD_extractLsb', BitVec.getLsbD_append, hi, decide_true, Bool.true_and]
  repeat (first | rw [if_neg (by omega)] | rw [if_pos (by omega)])
  congr 1; omega

theorem s_wordF (o : BitVec 10) (a : FArgs) : (wordF o a).extractLsb' 18 10 = a.s := by
  apply BitVec.eq_of_getLsbD_eq; intro i hi
  simp only [wordF, BitVec.getLsbD_extractLsb', BitVec.getLsbD_append, hi, decide_true, Bool.true_and]
  repeat (first | rw [if_neg (by omega)] | rw [if_pos (by omega)])
  congr 1; omega

theorem mod_wordF (o : BitVec 10) (a : FArgs) : (wordF o a).extractLsb' 7 11 = a.mod := by
  apply BitVec.eq_of_getLsbD_eq; intro i hi
  simp only [wordF, BitVec.getLsbD_extractLsb', BitVec.getLsbD_append, hi, decide_true, Bool.true_and]
  repeat (first | rw [if_neg (by omega)] | rw [if_pos (by omega)])
  congr 1; omega

theorem g_wordF (o : BitVec 10) (a : FArgs) : (wordF o a).extractLsb' 3 3 = a.g := by
  apply BitVec.eq_of_getLsbD_eq; intro i hi
  simp only [wordF, BitVec.getLsbD_extractLsb', BitVec.getLsbD_append, hi, decide_true, Bool.true_and]
  repeat (first | rw [if_neg (by omega)] | rw [if_pos (by omega)])
  congr 1; omega

theorem rx_wordF (o : BitVec 10) (a : FArgs) : (wordF o a).getLsbD 6 = a.rx := by
  simp only [wordF, BitVec.getLsbD_append, bit1]
  simp

theorem la_wordF (o : BitVec 10) (a : FArgs) : (wordF o a).getLsbD 2 = a.la := by
  simp only [wordF, BitVec.getLsbD_append, bit1]
  simp

theorem lb_wordF (o : BitVec 10) (a : FArgs) : (wordF o a).getLsbD 1 = a.lb := by
  simp only [wordF, BitVec.getLsbD_append, bit1]
  simp

theorem bs_wordF (o : BitVec 10) (a : FArgs) : (wordF o a).getLsbD 0 = a.bs := by
  simp only [wordF, BitVec.getLsbD_append, bit1]
  simp

/-- Every field of a F word stands where the decoder reads it. -/
theorem fieldsF_wordF (o : BitVec 10) (a : FArgs) : fieldsF (wordF o a) a.limm = a := by
  simp only [fieldsF, bitOf, d_wordF, a_wordF, b_wordF, s_wordF, mod_wordF, g_wordF, rx_wordF, la_wordF, lb_wordF, bs_wordF]

theorem frameBits_wordS (o : BitVec 10) (a : SArgs) : (wordS o a).extractLsb' 62 2 = 0#2 := by
  apply BitVec.eq_of_getLsbD_eq; intro i hi
  simp only [wordS, BitVec.getLsbD_extractLsb', BitVec.getLsbD_append, hi, decide_true, Bool.true_and]
  repeat rw [if_neg (by omega)]
  simp

theorem frameOf_wordS (o : BitVec 10) (a : SArgs) : frameOf (wordS o a) = 0 := by simp [frameOf, frameBits_wordS]

theorem opcBits_wordS (o : BitVec 10) (a : SArgs) : (wordS o a).extractLsb' 52 10 = o := by
  apply BitVec.eq_of_getLsbD_eq; intro i hi
  simp only [wordS, BitVec.getLsbD_extractLsb', BitVec.getLsbD_append, hi, decide_true, Bool.true_and]
  repeat (first | rw [if_neg (by omega)] | rw [if_pos (by omega)])
  congr 1; omega

theorem opcOf_wordS (o : BitVec 10) (a : SArgs) : opcOf (wordS o a) = o.toNat := by simp [opcOf, opcBits_wordS]

theorem d_wordS (o : BitVec 10) (a : SArgs) : (wordS o a).extractLsb' 42 10 = a.d := by
  apply BitVec.eq_of_getLsbD_eq; intro i hi
  simp only [wordS, BitVec.getLsbD_extractLsb', BitVec.getLsbD_append, hi, decide_true, Bool.true_and]
  repeat (first | rw [if_neg (by omega)] | rw [if_pos (by omega)])
  congr 1; omega

theorem a_wordS (o : BitVec 10) (a : SArgs) : (wordS o a).extractLsb' 32 10 = a.a := by
  apply BitVec.eq_of_getLsbD_eq; intro i hi
  simp only [wordS, BitVec.getLsbD_extractLsb', BitVec.getLsbD_append, hi, decide_true, Bool.true_and]
  repeat (first | rw [if_neg (by omega)] | rw [if_pos (by omega)])
  congr 1; omega

theorem b_wordS (o : BitVec 10) (a : SArgs) : (wordS o a).extractLsb' 22 10 = a.b := by
  apply BitVec.eq_of_getLsbD_eq; intro i hi
  simp only [wordS, BitVec.getLsbD_extractLsb', BitVec.getLsbD_append, hi, decide_true, Bool.true_and]
  repeat (first | rw [if_neg (by omega)] | rw [if_pos (by omega)])
  congr 1; omega

theorem imm_wordS (o : BitVec 10) (a : SArgs) : (wordS o a).extractLsb' 6 16 = a.imm := by
  apply BitVec.eq_of_getLsbD_eq; intro i hi
  simp only [wordS, BitVec.getLsbD_extractLsb', BitVec.getLsbD_append, hi, decide_true, Bool.true_and]
  repeat (first | rw [if_neg (by omega)] | rw [if_pos (by omega)])
  congr 1; omega

theorem la_wordS (o : BitVec 10) (a : SArgs) : (wordS o a).getLsbD 2 = a.la := by
  simp only [wordS, BitVec.getLsbD_append, bit1]
  simp

theorem lb_wordS (o : BitVec 10) (a : SArgs) : (wordS o a).getLsbD 1 = a.lb := by
  simp only [wordS, BitVec.getLsbD_append, bit1]
  simp

/-- Every field of a S word stands where the decoder reads it. -/
theorem fieldsS_wordS (o : BitVec 10) (a : SArgs) : fieldsS (wordS o a) = a := by
  simp only [fieldsS, bitOf, d_wordS, a_wordS, b_wordS, imm_wordS, la_wordS, lb_wordS]

theorem frameBits_wordSm (o : BitVec 10) (a : SmArgs) : (wordSm o a).extractLsb' 62 2 = 0#2 := by
  apply BitVec.eq_of_getLsbD_eq; intro i hi
  simp only [wordSm, BitVec.getLsbD_extractLsb', BitVec.getLsbD_append, hi, decide_true, Bool.true_and]
  repeat rw [if_neg (by omega)]
  simp

theorem frameOf_wordSm (o : BitVec 10) (a : SmArgs) : frameOf (wordSm o a) = 0 := by simp [frameOf, frameBits_wordSm]

theorem opcBits_wordSm (o : BitVec 10) (a : SmArgs) : (wordSm o a).extractLsb' 52 10 = o := by
  apply BitVec.eq_of_getLsbD_eq; intro i hi
  simp only [wordSm, BitVec.getLsbD_extractLsb', BitVec.getLsbD_append, hi, decide_true, Bool.true_and]
  repeat (first | rw [if_neg (by omega)] | rw [if_pos (by omega)])
  congr 1; omega

theorem opcOf_wordSm (o : BitVec 10) (a : SmArgs) : opcOf (wordSm o a) = o.toNat := by simp [opcOf, opcBits_wordSm]

theorem d_wordSm (o : BitVec 10) (a : SmArgs) : (wordSm o a).extractLsb' 42 10 = a.d := by
  apply BitVec.eq_of_getLsbD_eq; intro i hi
  simp only [wordSm, BitVec.getLsbD_extractLsb', BitVec.getLsbD_append, hi, decide_true, Bool.true_and]
  repeat (first | rw [if_neg (by omega)] | rw [if_pos (by omega)])
  congr 1; omega

theorem a_wordSm (o : BitVec 10) (a : SmArgs) : (wordSm o a).extractLsb' 32 10 = a.a := by
  apply BitVec.eq_of_getLsbD_eq; intro i hi
  simp only [wordSm, BitVec.getLsbD_extractLsb', BitVec.getLsbD_append, hi, decide_true, Bool.true_and]
  repeat (first | rw [if_neg (by omega)] | rw [if_pos (by omega)])
  congr 1; omega

theorem scope_wordSm (o : BitVec 10) (a : SmArgs) : (wordSm o a).extractLsb' 29 3 = a.scope := by
  apply BitVec.eq_of_getLsbD_eq; intro i hi
  simp only [wordSm, BitVec.getLsbD_extractLsb', BitVec.getLsbD_append, hi, decide_true, Bool.true_and]
  repeat (first | rw [if_neg (by omega)] | rw [if_pos (by omega)])
  congr 1; omega

theorem ord_wordSm (o : BitVec 10) (a : SmArgs) : (wordSm o a).extractLsb' 27 2 = a.ord := by
  apply BitVec.eq_of_getLsbD_eq; intro i hi
  simp only [wordSm, BitVec.getLsbD_extractLsb', BitVec.getLsbD_append, hi, decide_true, Bool.true_and]
  repeat (first | rw [if_neg (by omega)] | rw [if_pos (by omega)])
  congr 1; omega

theorem imm_wordSm (o : BitVec 10) (a : SmArgs) : (wordSm o a).extractLsb' 6 16 = a.imm := by
  apply BitVec.eq_of_getLsbD_eq; intro i hi
  simp only [wordSm, BitVec.getLsbD_extractLsb', BitVec.getLsbD_append, hi, decide_true, Bool.true_and]
  repeat (first | rw [if_neg (by omega)] | rw [if_pos (by omega)])
  congr 1; omega

theorem la_wordSm (o : BitVec 10) (a : SmArgs) : (wordSm o a).getLsbD 2 = a.la := by
  simp only [wordSm, BitVec.getLsbD_append, bit1]
  simp

theorem lb_wordSm (o : BitVec 10) (a : SmArgs) : (wordSm o a).getLsbD 1 = a.lb := by
  simp only [wordSm, BitVec.getLsbD_append, bit1]
  simp

/-- Every field of a Sm word stands where the decoder reads it. -/
theorem fieldsSm_wordSm (o : BitVec 10) (a : SmArgs) : fieldsSm (wordSm o a) = a := by
  simp only [fieldsSm, bitOf, d_wordSm, a_wordSm, scope_wordSm, ord_wordSm, imm_wordSm, la_wordSm, lb_wordSm]

theorem frameBits_wordC (o : BitVec 10) (a : CArgs) : (wordC o a).extractLsb' 62 2 = 0#2 := by
  apply BitVec.eq_of_getLsbD_eq; intro i hi
  simp only [wordC, BitVec.getLsbD_extractLsb', BitVec.getLsbD_append, hi, decide_true, Bool.true_and]
  repeat rw [if_neg (by omega)]
  simp

theorem frameOf_wordC (o : BitVec 10) (a : CArgs) : frameOf (wordC o a) = 0 := by simp [frameOf, frameBits_wordC]

theorem opcBits_wordC (o : BitVec 10) (a : CArgs) : (wordC o a).extractLsb' 52 10 = o := by
  apply BitVec.eq_of_getLsbD_eq; intro i hi
  simp only [wordC, BitVec.getLsbD_extractLsb', BitVec.getLsbD_append, hi, decide_true, Bool.true_and]
  repeat (first | rw [if_neg (by omega)] | rw [if_pos (by omega)])
  congr 1; omega

theorem opcOf_wordC (o : BitVec 10) (a : CArgs) : opcOf (wordC o a) = o.toNat := by simp [opcOf, opcBits_wordC]

theorem t_wordC (o : BitVec 10) (a : CArgs) : (wordC o a).extractLsb' 28 24 = a.t := by
  apply BitVec.eq_of_getLsbD_eq; intro i hi
  simp only [wordC, BitVec.getLsbD_extractLsb', BitVec.getLsbD_append, hi, decide_true, Bool.true_and]
  repeat (first | rw [if_neg (by omega)] | rw [if_pos (by omega)])
  congr 1; omega

theorem j_wordC (o : BitVec 10) (a : CArgs) : (wordC o a).extractLsb' 4 24 = a.j := by
  apply BitVec.eq_of_getLsbD_eq; intro i hi
  simp only [wordC, BitVec.getLsbD_extractLsb', BitVec.getLsbD_append, hi, decide_true, Bool.true_and]
  repeat (first | rw [if_neg (by omega)] | rw [if_pos (by omega)])
  congr 1; omega

theorem k_wordC (o : BitVec 10) (a : CArgs) : (wordC o a).extractLsb' 1 3 = a.k := by
  apply BitVec.eq_of_getLsbD_eq; intro i hi
  simp only [wordC, BitVec.getLsbD_extractLsb', BitVec.getLsbD_append, hi, decide_true, Bool.true_and]
  repeat (first | rw [if_neg (by omega)] | rw [if_pos (by omega)])
  congr 1; omega

theorem p_wordC (o : BitVec 10) (a : CArgs) : (wordC o a).getLsbD 0 = a.p := by
  simp only [wordC, BitVec.getLsbD_append, bit1]
  simp

/-- Every field of a C word stands where the decoder reads it. -/
theorem fieldsC_wordC (o : BitVec 10) (a : CArgs) : fieldsC (wordC o a) = a := by
  simp only [fieldsC, bitOf, t_wordC, j_wordC, k_wordC, p_wordC]

theorem frameBits_wordM (o : BitVec 10) (a : MArgs) : (wordM o a).extractLsb' 62 2 = 0#2 := by
  apply BitVec.eq_of_getLsbD_eq; intro i hi
  simp only [wordM, BitVec.getLsbD_extractLsb', BitVec.getLsbD_append, hi, decide_true, Bool.true_and]
  repeat rw [if_neg (by omega)]
  simp

theorem frameOf_wordM (o : BitVec 10) (a : MArgs) : frameOf (wordM o a) = 0 := by simp [frameOf, frameBits_wordM]

theorem opcBits_wordM (o : BitVec 10) (a : MArgs) : (wordM o a).extractLsb' 52 10 = o := by
  apply BitVec.eq_of_getLsbD_eq; intro i hi
  simp only [wordM, BitVec.getLsbD_extractLsb', BitVec.getLsbD_append, hi, decide_true, Bool.true_and]
  repeat (first | rw [if_neg (by omega)] | rw [if_pos (by omega)])
  congr 1; omega

theorem opcOf_wordM (o : BitVec 10) (a : MArgs) : opcOf (wordM o a) = o.toNat := by simp [opcOf, opcBits_wordM]

theorem d_wordM (o : BitVec 10) (a : MArgs) : (wordM o a).extractLsb' 44 8 = a.d := by
  apply BitVec.eq_of_getLsbD_eq; intro i hi
  simp only [wordM, BitVec.getLsbD_extractLsb', BitVec.getLsbD_append, hi, decide_true, Bool.true_and]
  repeat (first | rw [if_neg (by omega)] | rw [if_pos (by omega)])
  congr 1; omega

theorem a_wordM (o : BitVec 10) (a : MArgs) : (wordM o a).extractLsb' 36 8 = a.a := by
  apply BitVec.eq_of_getLsbD_eq; intro i hi
  simp only [wordM, BitVec.getLsbD_extractLsb', BitVec.getLsbD_append, hi, decide_true, Bool.true_and]
  repeat (first | rw [if_neg (by omega)] | rw [if_pos (by omega)])
  congr 1; omega

theorem b_wordM (o : BitVec 10) (a : MArgs) : (wordM o a).extractLsb' 28 8 = a.b := by
  apply BitVec.eq_of_getLsbD_eq; intro i hi
  simp only [wordM, BitVec.getLsbD_extractLsb', BitVec.getLsbD_append, hi, decide_true, Bool.true_and]
  repeat (first | rw [if_neg (by omega)] | rw [if_pos (by omega)])
  congr 1; omega

theorem s_wordM (o : BitVec 10) (a : MArgs) : (wordM o a).extractLsb' 18 10 = a.s := by
  apply BitVec.eq_of_getLsbD_eq; intro i hi
  simp only [wordM, BitVec.getLsbD_extractLsb', BitVec.getLsbD_append, hi, decide_true, Bool.true_and]
  repeat (first | rw [if_neg (by omega)] | rw [if_pos (by omega)])
  congr 1; omega

theorem off_wordM (o : BitVec 10) (a : MArgs) : (wordM o a).extractLsb' 11 7 = a.off := by
  apply BitVec.eq_of_getLsbD_eq; intro i hi
  simp only [wordM, BitVec.getLsbD_extractLsb', BitVec.getLsbD_append, hi, decide_true, Bool.true_and]
  repeat (first | rw [if_neg (by omega)] | rw [if_pos (by omega)])
  congr 1; omega

theorem scope_wordM (o : BitVec 10) (a : MArgs) : (wordM o a).extractLsb' 8 3 = a.scope := by
  apply BitVec.eq_of_getLsbD_eq; intro i hi
  simp only [wordM, BitVec.getLsbD_extractLsb', BitVec.getLsbD_append, hi, decide_true, Bool.true_and]
  repeat (first | rw [if_neg (by omega)] | rw [if_pos (by omega)])
  congr 1; omega

theorem ord_wordM (o : BitVec 10) (a : MArgs) : (wordM o a).extractLsb' 6 2 = a.ord := by
  apply BitVec.eq_of_getLsbD_eq; intro i hi
  simp only [wordM, BitVec.getLsbD_extractLsb', BitVec.getLsbD_append, hi, decide_true, Bool.true_and]
  repeat (first | rw [if_neg (by omega)] | rw [if_pos (by omega)])
  congr 1; omega

theorem g_wordM (o : BitVec 10) (a : MArgs) : (wordM o a).extractLsb' 3 3 = a.g := by
  apply BitVec.eq_of_getLsbD_eq; intro i hi
  simp only [wordM, BitVec.getLsbD_extractLsb', BitVec.getLsbD_append, hi, decide_true, Bool.true_and]
  repeat (first | rw [if_neg (by omega)] | rw [if_pos (by omega)])
  congr 1; omega

theorem la_wordM (o : BitVec 10) (a : MArgs) : (wordM o a).getLsbD 2 = a.la := by
  simp only [wordM, BitVec.getLsbD_append, bit1]
  simp

theorem ms_wordM (o : BitVec 10) (a : MArgs) : (wordM o a).getLsbD 1 = a.ms := by
  simp only [wordM, BitVec.getLsbD_append, bit1]
  simp

theorem ef_wordM (o : BitVec 10) (a : MArgs) : (wordM o a).getLsbD 0 = a.ef := by
  simp only [wordM, BitVec.getLsbD_append, bit1]
  simp

/-- Every field of a M word stands where the decoder reads it. -/
theorem fieldsM_wordM (o : BitVec 10) (a : MArgs) : fieldsM (wordM o a) = a := by
  simp only [fieldsM, bitOf, d_wordM, a_wordM, b_wordM, s_wordM, off_wordM, scope_wordM, ord_wordM, g_wordM, la_wordM, ms_wordM, ef_wordM]

theorem frameBits_wordX (o : BitVec 10) (a : XArgs) : (wordX o a).extractLsb' 62 2 = 0#2 := by
  apply BitVec.eq_of_getLsbD_eq; intro i hi
  simp only [wordX, BitVec.getLsbD_extractLsb', BitVec.getLsbD_append, hi, decide_true, Bool.true_and]
  repeat rw [if_neg (by omega)]
  simp

theorem frameOf_wordX (o : BitVec 10) (a : XArgs) : frameOf (wordX o a) = 0 := by simp [frameOf, frameBits_wordX]

theorem opcBits_wordX (o : BitVec 10) (a : XArgs) : (wordX o a).extractLsb' 52 10 = o := by
  apply BitVec.eq_of_getLsbD_eq; intro i hi
  simp only [wordX, BitVec.getLsbD_extractLsb', BitVec.getLsbD_append, hi, decide_true, Bool.true_and]
  repeat (first | rw [if_neg (by omega)] | rw [if_pos (by omega)])
  congr 1; omega

theorem opcOf_wordX (o : BitVec 10) (a : XArgs) : opcOf (wordX o a) = o.toNat := by simp [opcOf, opcBits_wordX]

theorem nsz_wordX (o : BitVec 10) (a : XArgs) : (wordX o a).extractLsb' 50 2 = a.nsz := by
  apply BitVec.eq_of_getLsbD_eq; intro i hi
  simp only [wordX, BitVec.getLsbD_extractLsb', BitVec.getLsbD_append, hi, decide_true, Bool.true_and]
  repeat (first | rw [if_neg (by omega)] | rw [if_pos (by omega)])
  congr 1; omega

theorem a_wordX (o : BitVec 10) (a : XArgs) : (wordX o a).extractLsb' 36 8 = a.a := by
  apply BitVec.eq_of_getLsbD_eq; intro i hi
  simp only [wordX, BitVec.getLsbD_extractLsb', BitVec.getLsbD_append, hi, decide_true, Bool.true_and]
  repeat (first | rw [if_neg (by omega)] | rw [if_pos (by omega)])
  congr 1; omega

theorem sc_wordX (o : BitVec 10) (a : XArgs) : (wordX o a).extractLsb' 28 8 = a.sc := by
  apply BitVec.eq_of_getLsbD_eq; intro i hi
  simp only [wordX, BitVec.getLsbD_extractLsb', BitVec.getLsbD_append, hi, decide_true, Bool.true_and]
  repeat (first | rw [if_neg (by omega)] | rw [if_pos (by omega)])
  congr 1; omega

theorem s_wordX (o : BitVec 10) (a : XArgs) : (wordX o a).extractLsb' 18 10 = a.s := by
  apply BitVec.eq_of_getLsbD_eq; intro i hi
  simp only [wordX, BitVec.getLsbD_extractLsb', BitVec.getLsbD_append, hi, decide_true, Bool.true_and]
  repeat (first | rw [if_neg (by omega)] | rw [if_pos (by omega)])
  congr 1; omega

theorem acc12_wordX (o : BitVec 10) (a : XArgs) : (wordX o a).extractLsb' 6 12 = a.acc12 := by
  apply BitVec.eq_of_getLsbD_eq; intro i hi
  simp only [wordX, BitVec.getLsbD_extractLsb', BitVec.getLsbD_append, hi, decide_true, Bool.true_and]
  repeat (first | rw [if_neg (by omega)] | rw [if_pos (by omega)])
  congr 1; omega

theorem acc_wordX (o : BitVec 10) (a : XArgs) : (wordX o a).getLsbD 49 = a.acc := by
  simp only [wordX, BitVec.getLsbD_append, bit1]
  simp

theorem tb_wordX (o : BitVec 10) (a : XArgs) : (wordX o a).getLsbD 48 = a.tb := by
  simp only [wordX, BitVec.getLsbD_append, bit1]
  simp

theorem ru_wordX (o : BitVec 10) (a : XArgs) : (wordX o a).getLsbD 47 = a.ru := by
  simp only [wordX, BitVec.getLsbD_append, bit1]
  simp

theorem sa_wordX (o : BitVec 10) (a : XArgs) : (wordX o a).getLsbD 46 = a.sa := by
  simp only [wordX, BitVec.getLsbD_append, bit1]
  simp

theorem la_wordX (o : BitVec 10) (a : XArgs) : (wordX o a).getLsbD 2 = a.la := by
  simp only [wordX, BitVec.getLsbD_append, bit1]
  simp

/-- Every field of a X word stands where the decoder reads it. -/
theorem fieldsX_wordX (o : BitVec 10) (a : XArgs) : fieldsX (wordX o a) = a := by
  simp only [fieldsX, bitOf, nsz_wordX, a_wordX, sc_wordX, s_wordX, acc12_wordX, acc_wordX, tb_wordX, ru_wordX, sa_wordX, la_wordX]

theorem spare_wordS (o : BitVec 10) (a : SArgs) : spareZero 0 (wordS o a) = true := by
  have h : (wordS o a).extractLsb' 3 3 = 0#3 := by
    apply BitVec.eq_of_getLsbD_eq; intro i hi
    simp only [wordS, BitVec.getLsbD_extractLsb', BitVec.getLsbD_append, hi, decide_true, Bool.true_and]
    repeat (first | rw [if_neg (by omega)] | rw [if_pos (by omega)])
    simp
  have h0 : (wordS o a).extractLsb' 0 1 = 0#1 := by
    apply BitVec.eq_of_getLsbD_eq; intro i hi
    simp only [wordS, BitVec.getLsbD_extractLsb', BitVec.getLsbD_append, hi, decide_true, Bool.true_and]
    repeat (first | rw [if_neg (by omega)] | rw [if_pos (by omega)])
    simp
  simp [spareZero, h, h0]

theorem frameOf_wordPair (x y : Half) : frameOf (wordPair x y) = 1 := by
  have h : (wordPair x y).extractLsb' 62 2 = 1#2 := by
    apply BitVec.eq_of_getLsbD_eq; intro i hi
    simp only [wordPair, BitVec.getLsbD_extractLsb', BitVec.getLsbD_append, hi, decide_true, Bool.true_and]
    repeat rw [if_neg (by omega)]
    congr 1; omega
  simp [frameOf, h]

theorem frameOf_wordRep (r : RepArgs) : frameOf (wordRep r) = 2 := by
  have h : (wordRep r).extractLsb' 62 2 = 2#2 := by
    apply BitVec.eq_of_getLsbD_eq; intro i hi
    simp only [wordRep, BitVec.getLsbD_extractLsb', BitVec.getLsbD_append, hi, decide_true, Bool.true_and]
    repeat rw [if_neg (by omega)]
    congr 1; omega
  simp [frameOf, h]

theorem frameOf_wordLimm (v : Word) : frameOf (wordLimm v) = 2 := by
  have h : (wordLimm v).extractLsb' 62 2 = 2#2 := by
    apply BitVec.eq_of_getLsbD_eq; intro i hi
    simp only [wordLimm, BitVec.getLsbD_extractLsb', BitVec.getLsbD_append, hi, decide_true, Bool.true_and]
    repeat rw [if_neg (by omega)]
    congr 1; omega
  simp [frameOf, h]

theorem frameOf_wordMwb (m : Mwb) : frameOf (wordMwb m) = 2 := by
  have h : (wordMwb m).extractLsb' 62 2 = 2#2 := by
    apply BitVec.eq_of_getLsbD_eq; intro i hi
    simp only [wordMwb, BitVec.getLsbD_extractLsb', BitVec.getLsbD_append, hi, decide_true, Bool.true_and]
    repeat rw [if_neg (by omega)]
    congr 1; omega
  simp [frameOf, h]

/-- The opcode map gives an F opcode its own number. -/
theorem fopOf_code (op : FOp) : fopOf op.code.toNat = some op := by cases op <;> rfl

/-- An F instruction that carries its fields gives them back. -/
theorem asF_ofF (op : FOp) (f : FArgs) (h : op.beside = false) : (Instr.ofF f op).asF = some (op, f) := by
  cases op <;> first | rfl | simp [FOp.beside] at h

end Sys2Proof
end

