-- ==== Sys2Proof/Laws/Table.lean ====
section
/-! SUPPORT. The laws of sparse tables: a read after a write, and the canonical form that writes keep. -/

namespace Sys2Proof

variable {α : Type} {d : Nat → α}

theorem Table.look_erase_self (t : Table α) (k : Nat) : (t.erase k).look k = none := by
  induction t with
  | nil => rfl
  | cons e t ih =>
    obtain ⟨j, v⟩ := e
    by_cases h : j = k <;> simp [Table.erase, Table.look, h, ih]

theorem Table.look_erase_ne {t : Table α} {j k : Nat} (h : k ≠ j) : (t.erase j).look k = t.look k := by
  induction t with
  | nil => rfl
  | cons e t ih =>
    obtain ⟨i, v⟩ := e
    by_cases hi : i = j
    · subst hi; simp [Table.erase, Table.look, ih, Ne.symm h]
    · simp [Table.erase, Table.look, hi, ih]

theorem Table.look_insert_self (t : Table α) (k : Nat) (v : α) (h : t.look k = none) : (t.insert k v).look k = some v := by
  induction t with
  | nil => simp [Table.insert, Table.look]
  | cons e t ih =>
    obtain ⟨j, w⟩ := e
    by_cases hj : j = k
    · simp [Table.look, hj] at h
    · simp only [Table.look, hj, if_false] at h
      simp only [Table.insert]
      split
      · simp [Table.look]
      · simp [Table.look, hj, ih h]

theorem Table.look_insert_ne {t : Table α} {j k : Nat} {v : α} (h : k ≠ j) : (t.insert j v).look k = t.look k := by
  induction t with
  | nil => simp [Table.insert, Table.look, Ne.symm h]
  | cons e t ih =>
    obtain ⟨i, w⟩ := e
    simp only [Table.insert]
    split <;> simp [Table.look, ih, Ne.symm h]

/-- Changing the records of a table of optional records commutes with reads and writes of it. -/
theorem Table.look_map {α β : Type} (t : Table α) (f : α → β) (k : Nat) :
    Table.look (t.map (fun e => (e.1, f e.2))) k = (t.look k).map f := by
  induction t with
  | nil => rfl
  | cons e t ih => obtain ⟨j, v⟩ := e; by_cases h : j = k <;> simp [Table.look, h, ih]

theorem Table.erase_map {α β : Type} (t : Table α) (f : α → β) (k : Nat) :
    Table.erase (t.map (fun e => (e.1, f e.2))) k = (t.erase k).map (fun e => (e.1, f e.2)) := by
  induction t with
  | nil => rfl
  | cons e t ih => obtain ⟨j, v⟩ := e; by_cases h : j = k <;> simp [Table.erase, h, ih]

theorem Table.insert_map {α β : Type} (t : Table α) (f : α → β) (k : Nat) (x : α) :
    Table.insert (t.map (fun e => (e.1, f e.2))) k (f x) = (t.insert k x).map (fun e => (e.1, f e.2)) := by
  induction t with
  | nil => rfl
  | cons e t ih => obtain ⟨j, v⟩ := e; by_cases h : k < j <;> simp [Table.insert, h, ih]

theorem Table.set_mapOpt {α β : Type} [DecidableEq α] [DecidableEq β] (t : Table (Option α)) (f : α → β) (k : Nat) (x : Option α) :
    Table.set noneAt (t.map (fun e => (e.1, e.2.map f))) k (x.map f) =
      (Table.set noneAt t k x).map (fun e => (e.1, e.2.map f)) := by
  have he := Table.erase_map t (Option.map f) k
  have hi := Table.insert_map (t.erase k) (Option.map f) k x
  cases x with
  | none => simpa [Table.set, noneAt] using he
  | some x => simpa [Table.set, noneAt, he] using hi

theorem Table.erase_erase (t : Table α) (k : Nat) : (t.erase k).erase k = t.erase k := by
  induction t with
  | nil => rfl
  | cons e t ih => obtain ⟨j, v⟩ := e; by_cases h : j = k <;> simp [Table.erase, h, ih]

theorem Table.erase_insert (t : Table α) (k : Nat) (v : α) : (t.insert k v).erase k = t.erase k := by
  induction t with
  | nil => simp [Table.insert, Table.erase]
  | cons e t ih =>
    obtain ⟨j, w⟩ := e
    simp only [Table.insert]
    split
    · simp [Table.erase]
    · by_cases h : j = k <;> simp [Table.erase, h, ih]

/-- What stood at a key before its last two writes does not show. -/
theorem Table.erase_insert_erase (t : Table α) (k : Nat) (v : α) : ((t.erase k).insert k v).erase k = t.erase k := by
  rw [Table.erase_insert, Table.erase_erase]

variable [DecidableEq α]

/-- A read after a write of the same key gives the value written. -/
@[simp] theorem Table.get_set_self (t : Table α) (k : Nat) (v : α) : (t.set d k v).get d k = v := by
  unfold Table.set Table.get
  split
  · next h => simp [Table.look_erase_self, h]
  · simp [Table.look_insert_self _ _ _ (Table.look_erase_self t k)]

/-- A write leaves every other key alone. -/
theorem Table.get_set_ne {t : Table α} {j k : Nat} {v : α} (h : k ≠ j) : (t.set d j v).get d k = t.get d k := by
  unfold Table.set Table.get
  split
  · rw [Table.look_erase_ne h]
  · rw [Table.look_insert_ne h, Table.look_erase_ne h]

/-- A read after a write. -/
theorem Table.get_set (t : Table α) (j k : Nat) (v : α) : (t.set d j v).get d k = if k = j then v else t.get d k := by
  split
  · next h => subst h; simp
  · next h => exact Table.get_set_ne h

/-- Of two writes of a key the last stays. -/
theorem Table.set_set (t : Table α) (k : Nat) (x y : α) :
    Table.set d (Table.set d t k x) k y = Table.set d t k y := by
  unfold Table.set
  by_cases hx : x = d k <;> by_cases hy : y = d k <;> simp [hx, hy, Table.erase_erase, Table.erase_insert_erase]

omit [DecidableEq α] in
@[simp] theorem Table.get_nil (k : Nat) : Table.get d [] k = d k := rfl

omit [DecidableEq α] in
/-- A bound on a table's keys. -/
theorem Table.rising_erase (t : Table α) (k : Nat) (lo : Option Nat) (h : t.rising lo = true) :
    (t.erase k).rising lo = true := by
  induction t generalizing lo with
  | nil => rfl
  | cons e t ih =>
    obtain ⟨j, v⟩ := e
    simp only [Table.rising, Bool.and_eq_true] at h
    simp only [Table.erase]
    split
    · apply ih
      cases lo with
      | none =>
        cases t with
        | nil => rfl
        | cons f t => obtain ⟨i, w⟩ := f; simp only [Table.rising, Bool.and_eq_true] at h ⊢; exact ⟨trivial, h.2.2⟩
      | some b =>
        cases t with
        | nil => rfl
        | cons f t =>
          obtain ⟨i, w⟩ := f
          simp only [Table.rising, Bool.and_eq_true, decide_eq_true_eq] at h ⊢
          exact ⟨by omega, h.2.2⟩
    · simp only [Table.rising, Bool.and_eq_true]
      exact ⟨h.1, ih (some j) h.2⟩

omit [DecidableEq α] in
theorem Table.rising_insert (t : Table α) (k : Nat) (v : α) (lo : Option Nat) (h : t.rising lo = true)
    (hn : t.look k = none) (hlo : ∀ b, lo = some b → b < k) : (t.insert k v).rising lo = true := by
  induction t generalizing lo with
  | nil =>
    cases lo with
    | none => rfl
    | some b => simp [Table.insert, Table.rising, hlo b rfl]
  | cons e t ih =>
    obtain ⟨j, w⟩ := e
    simp only [Table.look] at hn
    split at hn
    · cases hn
    · next hj =>
      simp only [Table.rising, Bool.and_eq_true] at h
      simp only [Table.insert]
      split
      · next hk =>
        simp only [Table.rising, Bool.and_eq_true, decide_eq_true_eq]
        refine ⟨?_, hk, h.2⟩
        cases lo with
        | none => rfl
        | some b => simpa using hlo b rfl
      · next hk =>
        simp only [Table.rising, Bool.and_eq_true]
        refine ⟨h.1, ih (some j) h.2 hn ?_⟩
        intro b hb
        cases hb
        omega

omit [DecidableEq α] in
theorem Table.mem_erase {t : Table α} {k : Nat} {e : Nat × α} (h : e ∈ t.erase k) : e ∈ t := by
  induction t with
  | nil => exact h
  | cons f t ih =>
    obtain ⟨j, v⟩ := f
    simp only [Table.erase] at h
    split at h
    · exact List.mem_cons_of_mem _ (ih h)
    · rcases List.mem_cons.1 h with h | h
      · exact h ▸ List.mem_cons_self ..
      · exact List.mem_cons_of_mem _ (ih h)

omit [DecidableEq α] in
theorem Table.mem_insert {t : Table α} {k : Nat} {v : α} {e : Nat × α} (h : e ∈ t.insert k v) : e = (k, v) ∨ e ∈ t := by
  induction t with
  | nil => simpa [Table.insert] using h
  | cons f t ih =>
    obtain ⟨j, w⟩ := f
    simp only [Table.insert] at h
    split at h
    · simpa using h
    · rcases List.mem_cons.1 h with h | h
      · exact .inr (h ▸ List.mem_cons_self ..)
      · exact (ih h).imp id (List.mem_cons_of_mem _)

/-- Every write keeps the canonical form. -/
theorem Table.wf_set (t : Table α) (k : Nat) (v : α) (h : t.wf d = true) : (t.set d k v).wf d = true := by
  simp only [Table.wf, Bool.and_eq_true, List.all_eq_true, decide_eq_true_eq] at h ⊢
  have hr := Table.rising_erase t k none h.1
  unfold Table.set
  split
  · exact ⟨hr, fun e he => h.2 e (Table.mem_erase he)⟩
  · next hv =>
    refine ⟨Table.rising_insert _ _ _ _ hr (Table.look_erase_self t k) (by simp), fun e he => ?_⟩
    rcases Table.mem_insert he with rfl | he
    · exact hv
    · exact h.2 e (Table.mem_erase he)

end Sys2Proof
end

