-- ==== Sys2Proof/Laws/State.lean ====
section
/-! SUPPORT. One lemma per field and update of the state, and per accessor and update: what each named update leaves unchanged. -/

namespace Sys2Proof.Machine

@[simp] theorem State.setCore_mem (s : State) (c : Nat) (x : Core) : (s.setCore c x).mem = s.mem := rfl
@[simp] theorem State.setCore_memPoison (s : State) (c : Nat) (x : Core) : (s.setCore c x).memPoison = s.memPoison := rfl
@[simp] theorem State.setCore_csr (s : State) (c : Nat) (x : Core) : (s.setCore c x).csr = s.csr := rfl
@[simp] theorem State.setCore_catStaged (s : State) (c : Nat) (x : Core) : (s.setCore c x).catStaged = s.catStaged := rfl
@[simp] theorem State.setCore_dies (s : State) (c : Nat) (x : Core) : (s.setCore c x).dies = s.dies := rfl
@[simp] theorem State.setCore_waves (s : State) (c : Nat) (x : Core) : (s.setCore c x).waves = s.waves := rfl
@[simp] theorem State.setCore_groups (s : State) (c : Nat) (x : Core) : (s.setCore c x).groups = s.groups := rfl
@[simp] theorem State.setCore_launches (s : State) (c : Nat) (x : Core) : (s.setCore c x).launches = s.launches := rfl
@[simp] theorem State.setCore_nextLaunchid (s : State) (c : Nat) (x : Core) : (s.setCore c x).nextLaunchid = s.nextLaunchid := rfl
@[simp] theorem State.setCore_nextLaunch (s : State) (c : Nat) (x : Core) : (s.setCore c x).nextLaunch = s.nextLaunch := rfl
@[simp] theorem State.setCore_nextGroup (s : State) (c : Nat) (x : Core) : (s.setCore c x).nextGroup = s.nextGroup := rfl
@[simp] theorem State.setCore_nextOrder (s : State) (c : Nat) (x : Core) : (s.setCore c x).nextOrder = s.nextOrder := rfl
@[simp] theorem State.setCore_svcs (s : State) (c : Nat) (x : Core) : (s.setCore c x).svcs = s.svcs := rfl
@[simp] theorem State.setCore_out (s : State) (c : Nat) (x : Core) : (s.setCore c x).out = s.out := rfl
@[simp] theorem State.setCore_peerReqs (s : State) (c : Nat) (x : Core) : (s.setCore c x).peerReqs = s.peerReqs := rfl
@[simp] theorem State.setCore_peerTag (s : State) (c : Nat) (x : Core) : (s.setCore c x).peerTag = s.peerTag := rfl
@[simp] theorem State.setCore_supply (s : State) (c : Nat) (x : Core) : (s.setCore c x).supply = s.supply := rfl
@[simp] theorem State.setCore_zoneLow (s : State) (c : Nat) (x : Core) : (s.setCore c x).zoneLow = s.zoneLow := rfl
@[simp] theorem State.setCore_zoneStuck (s : State) (c : Nat) (x : Core) : (s.setCore c x).zoneStuck = s.zoneStuck := rfl
@[simp] theorem State.setCore_zoneAt (s : State) (c : Nat) (x : Core) : (s.setCore c x).zoneAt = s.zoneAt := rfl
@[simp] theorem State.setCore_railAt (s : State) (c : Nat) (x : Core) : (s.setCore c x).railAt = s.railAt := rfl
@[simp] theorem State.setCore_zoneWas (s : State) (c : Nat) (x : Core) : (s.setCore c x).zoneWas = s.zoneWas := rfl
@[simp] theorem State.setCore_lowered (s : State) (c : Nat) (x : Core) : (s.setCore c x).lowered = s.lowered := rfl
@[simp] theorem State.setCore_tlbinvPending (s : State) (c : Nat) (x : Core) : (s.setCore c x).tlbinvPending = s.tlbinvPending := rfl
@[simp] theorem State.setCore_tlbinvOf (s : State) (c : Nat) (x : Core) : (s.setCore c x).tlbinvOf = s.tlbinvOf := rfl
@[simp] theorem State.setCore_stageTest (s : State) (c : Nat) (x : Core) : (s.setCore c x).stageTest = s.stageTest := rfl
@[simp] theorem State.setCore_agenda (s : State) (c : Nat) (x : Core) : (s.setCore c x).agenda = s.agenda := rfl
@[simp] theorem State.setCore_cur (s : State) (c : Nat) (x : Core) : (s.setCore c x).cur = s.cur := rfl
@[simp] theorem State.setCore_arg (s : State) (c : Nat) (x : Core) : (s.setCore c x).arg = s.arg := rfl
@[simp] theorem State.setCore_free (s : State) (c : Nat) (x : Core) : (s.setCore c x).free = s.free := rfl
@[simp] theorem State.setCore_last (s : State) (c : Nat) (x : Core) : (s.setCore c x).last = s.last := rfl

@[simp] theorem State.onCore_mem (s : State) (c : Nat) (f : Core → Core) : (s.onCore c f).mem = s.mem := rfl
@[simp] theorem State.onCore_memPoison (s : State) (c : Nat) (f : Core → Core) : (s.onCore c f).memPoison = s.memPoison := rfl
@[simp] theorem State.onCore_csr (s : State) (c : Nat) (f : Core → Core) : (s.onCore c f).csr = s.csr := rfl
@[simp] theorem State.onCore_catStaged (s : State) (c : Nat) (f : Core → Core) : (s.onCore c f).catStaged = s.catStaged := rfl
@[simp] theorem State.onCore_dies (s : State) (c : Nat) (f : Core → Core) : (s.onCore c f).dies = s.dies := rfl
@[simp] theorem State.onCore_waves (s : State) (c : Nat) (f : Core → Core) : (s.onCore c f).waves = s.waves := rfl
@[simp] theorem State.onCore_groups (s : State) (c : Nat) (f : Core → Core) : (s.onCore c f).groups = s.groups := rfl
@[simp] theorem State.onCore_launches (s : State) (c : Nat) (f : Core → Core) : (s.onCore c f).launches = s.launches := rfl
@[simp] theorem State.onCore_nextLaunchid (s : State) (c : Nat) (f : Core → Core) : (s.onCore c f).nextLaunchid = s.nextLaunchid := rfl
@[simp] theorem State.onCore_nextLaunch (s : State) (c : Nat) (f : Core → Core) : (s.onCore c f).nextLaunch = s.nextLaunch := rfl
@[simp] theorem State.onCore_nextGroup (s : State) (c : Nat) (f : Core → Core) : (s.onCore c f).nextGroup = s.nextGroup := rfl
@[simp] theorem State.onCore_nextOrder (s : State) (c : Nat) (f : Core → Core) : (s.onCore c f).nextOrder = s.nextOrder := rfl
@[simp] theorem State.onCore_svcs (s : State) (c : Nat) (f : Core → Core) : (s.onCore c f).svcs = s.svcs := rfl
@[simp] theorem State.onCore_out (s : State) (c : Nat) (f : Core → Core) : (s.onCore c f).out = s.out := rfl
@[simp] theorem State.onCore_peerReqs (s : State) (c : Nat) (f : Core → Core) : (s.onCore c f).peerReqs = s.peerReqs := rfl
@[simp] theorem State.onCore_peerTag (s : State) (c : Nat) (f : Core → Core) : (s.onCore c f).peerTag = s.peerTag := rfl
@[simp] theorem State.onCore_supply (s : State) (c : Nat) (f : Core → Core) : (s.onCore c f).supply = s.supply := rfl
@[simp] theorem State.onCore_zoneLow (s : State) (c : Nat) (f : Core → Core) : (s.onCore c f).zoneLow = s.zoneLow := rfl
@[simp] theorem State.onCore_zoneStuck (s : State) (c : Nat) (f : Core → Core) : (s.onCore c f).zoneStuck = s.zoneStuck := rfl
@[simp] theorem State.onCore_zoneAt (s : State) (c : Nat) (f : Core → Core) : (s.onCore c f).zoneAt = s.zoneAt := rfl
@[simp] theorem State.onCore_railAt (s : State) (c : Nat) (f : Core → Core) : (s.onCore c f).railAt = s.railAt := rfl
@[simp] theorem State.onCore_zoneWas (s : State) (c : Nat) (f : Core → Core) : (s.onCore c f).zoneWas = s.zoneWas := rfl
@[simp] theorem State.onCore_lowered (s : State) (c : Nat) (f : Core → Core) : (s.onCore c f).lowered = s.lowered := rfl
@[simp] theorem State.onCore_tlbinvPending (s : State) (c : Nat) (f : Core → Core) : (s.onCore c f).tlbinvPending = s.tlbinvPending := rfl
@[simp] theorem State.onCore_tlbinvOf (s : State) (c : Nat) (f : Core → Core) : (s.onCore c f).tlbinvOf = s.tlbinvOf := rfl
@[simp] theorem State.onCore_stageTest (s : State) (c : Nat) (f : Core → Core) : (s.onCore c f).stageTest = s.stageTest := rfl
@[simp] theorem State.onCore_agenda (s : State) (c : Nat) (f : Core → Core) : (s.onCore c f).agenda = s.agenda := rfl
@[simp] theorem State.onCore_cur (s : State) (c : Nat) (f : Core → Core) : (s.onCore c f).cur = s.cur := rfl
@[simp] theorem State.onCore_arg (s : State) (c : Nat) (f : Core → Core) : (s.onCore c f).arg = s.arg := rfl
@[simp] theorem State.onCore_free (s : State) (c : Nat) (f : Core → Core) : (s.onCore c f).free = s.free := rfl
@[simp] theorem State.onCore_last (s : State) (c : Nat) (f : Core → Core) : (s.onCore c f).last = s.last := rfl

@[simp] theorem State.onDie_mem (s : State) (n : Nat) (f : Die → Die) : (s.onDie n f).mem = s.mem := rfl
@[simp] theorem State.onDie_memPoison (s : State) (n : Nat) (f : Die → Die) : (s.onDie n f).memPoison = s.memPoison := rfl
@[simp] theorem State.onDie_csr (s : State) (n : Nat) (f : Die → Die) : (s.onDie n f).csr = s.csr := rfl
@[simp] theorem State.onDie_catStaged (s : State) (n : Nat) (f : Die → Die) : (s.onDie n f).catStaged = s.catStaged := rfl
@[simp] theorem State.onDie_cores (s : State) (n : Nat) (f : Die → Die) : (s.onDie n f).cores = s.cores := rfl
@[simp] theorem State.onDie_waves (s : State) (n : Nat) (f : Die → Die) : (s.onDie n f).waves = s.waves := rfl
@[simp] theorem State.onDie_groups (s : State) (n : Nat) (f : Die → Die) : (s.onDie n f).groups = s.groups := rfl
@[simp] theorem State.onDie_launches (s : State) (n : Nat) (f : Die → Die) : (s.onDie n f).launches = s.launches := rfl
@[simp] theorem State.onDie_nextLaunchid (s : State) (n : Nat) (f : Die → Die) : (s.onDie n f).nextLaunchid = s.nextLaunchid := rfl
@[simp] theorem State.onDie_nextLaunch (s : State) (n : Nat) (f : Die → Die) : (s.onDie n f).nextLaunch = s.nextLaunch := rfl
@[simp] theorem State.onDie_nextGroup (s : State) (n : Nat) (f : Die → Die) : (s.onDie n f).nextGroup = s.nextGroup := rfl
@[simp] theorem State.onDie_nextOrder (s : State) (n : Nat) (f : Die → Die) : (s.onDie n f).nextOrder = s.nextOrder := rfl
@[simp] theorem State.onDie_svcs (s : State) (n : Nat) (f : Die → Die) : (s.onDie n f).svcs = s.svcs := rfl
@[simp] theorem State.onDie_out (s : State) (n : Nat) (f : Die → Die) : (s.onDie n f).out = s.out := rfl
@[simp] theorem State.onDie_peerReqs (s : State) (n : Nat) (f : Die → Die) : (s.onDie n f).peerReqs = s.peerReqs := rfl
@[simp] theorem State.onDie_peerTag (s : State) (n : Nat) (f : Die → Die) : (s.onDie n f).peerTag = s.peerTag := rfl
@[simp] theorem State.onDie_supply (s : State) (n : Nat) (f : Die → Die) : (s.onDie n f).supply = s.supply := rfl
@[simp] theorem State.onDie_zoneLow (s : State) (n : Nat) (f : Die → Die) : (s.onDie n f).zoneLow = s.zoneLow := rfl
@[simp] theorem State.onDie_zoneStuck (s : State) (n : Nat) (f : Die → Die) : (s.onDie n f).zoneStuck = s.zoneStuck := rfl
@[simp] theorem State.onDie_zoneAt (s : State) (n : Nat) (f : Die → Die) : (s.onDie n f).zoneAt = s.zoneAt := rfl
@[simp] theorem State.onDie_railAt (s : State) (n : Nat) (f : Die → Die) : (s.onDie n f).railAt = s.railAt := rfl
@[simp] theorem State.onDie_zoneWas (s : State) (n : Nat) (f : Die → Die) : (s.onDie n f).zoneWas = s.zoneWas := rfl
@[simp] theorem State.onDie_lowered (s : State) (n : Nat) (f : Die → Die) : (s.onDie n f).lowered = s.lowered := rfl
@[simp] theorem State.onDie_tlbinvPending (s : State) (n : Nat) (f : Die → Die) : (s.onDie n f).tlbinvPending = s.tlbinvPending := rfl
@[simp] theorem State.onDie_tlbinvOf (s : State) (n : Nat) (f : Die → Die) : (s.onDie n f).tlbinvOf = s.tlbinvOf := rfl
@[simp] theorem State.onDie_stageTest (s : State) (n : Nat) (f : Die → Die) : (s.onDie n f).stageTest = s.stageTest := rfl
@[simp] theorem State.onDie_agenda (s : State) (n : Nat) (f : Die → Die) : (s.onDie n f).agenda = s.agenda := rfl
@[simp] theorem State.onDie_cur (s : State) (n : Nat) (f : Die → Die) : (s.onDie n f).cur = s.cur := rfl
@[simp] theorem State.onDie_arg (s : State) (n : Nat) (f : Die → Die) : (s.onDie n f).arg = s.arg := rfl
@[simp] theorem State.onDie_free (s : State) (n : Nat) (f : Die → Die) : (s.onDie n f).free = s.free := rfl
@[simp] theorem State.onDie_last (s : State) (n : Nat) (f : Die → Die) : (s.onDie n f).last = s.last := rfl

@[simp] theorem State.setWave_mem (s : State) (c w : Nat) (x : Option Wave) : (s.setWave c w x).mem = s.mem := rfl
@[simp] theorem State.setWave_memPoison (s : State) (c w : Nat) (x : Option Wave) : (s.setWave c w x).memPoison = s.memPoison := rfl
@[simp] theorem State.setWave_csr (s : State) (c w : Nat) (x : Option Wave) : (s.setWave c w x).csr = s.csr := rfl
@[simp] theorem State.setWave_catStaged (s : State) (c w : Nat) (x : Option Wave) : (s.setWave c w x).catStaged = s.catStaged := rfl
@[simp] theorem State.setWave_cores (s : State) (c w : Nat) (x : Option Wave) : (s.setWave c w x).cores = s.cores := rfl
@[simp] theorem State.setWave_dies (s : State) (c w : Nat) (x : Option Wave) : (s.setWave c w x).dies = s.dies := rfl
@[simp] theorem State.setWave_groups (s : State) (c w : Nat) (x : Option Wave) : (s.setWave c w x).groups = s.groups := rfl
@[simp] theorem State.setWave_launches (s : State) (c w : Nat) (x : Option Wave) : (s.setWave c w x).launches = s.launches := rfl
@[simp] theorem State.setWave_nextLaunchid (s : State) (c w : Nat) (x : Option Wave) : (s.setWave c w x).nextLaunchid = s.nextLaunchid := rfl
@[simp] theorem State.setWave_nextLaunch (s : State) (c w : Nat) (x : Option Wave) : (s.setWave c w x).nextLaunch = s.nextLaunch := rfl
@[simp] theorem State.setWave_nextGroup (s : State) (c w : Nat) (x : Option Wave) : (s.setWave c w x).nextGroup = s.nextGroup := rfl
@[simp] theorem State.setWave_nextOrder (s : State) (c w : Nat) (x : Option Wave) : (s.setWave c w x).nextOrder = s.nextOrder := rfl
@[simp] theorem State.setWave_svcs (s : State) (c w : Nat) (x : Option Wave) : (s.setWave c w x).svcs = s.svcs := rfl
@[simp] theorem State.setWave_out (s : State) (c w : Nat) (x : Option Wave) : (s.setWave c w x).out = s.out := rfl
@[simp] theorem State.setWave_peerReqs (s : State) (c w : Nat) (x : Option Wave) : (s.setWave c w x).peerReqs = s.peerReqs := rfl
@[simp] theorem State.setWave_peerTag (s : State) (c w : Nat) (x : Option Wave) : (s.setWave c w x).peerTag = s.peerTag := rfl
@[simp] theorem State.setWave_supply (s : State) (c w : Nat) (x : Option Wave) : (s.setWave c w x).supply = s.supply := rfl
@[simp] theorem State.setWave_zoneLow (s : State) (c w : Nat) (x : Option Wave) : (s.setWave c w x).zoneLow = s.zoneLow := rfl
@[simp] theorem State.setWave_zoneStuck (s : State) (c w : Nat) (x : Option Wave) : (s.setWave c w x).zoneStuck = s.zoneStuck := rfl
@[simp] theorem State.setWave_zoneAt (s : State) (c w : Nat) (x : Option Wave) : (s.setWave c w x).zoneAt = s.zoneAt := rfl
@[simp] theorem State.setWave_railAt (s : State) (c w : Nat) (x : Option Wave) : (s.setWave c w x).railAt = s.railAt := rfl
@[simp] theorem State.setWave_zoneWas (s : State) (c w : Nat) (x : Option Wave) : (s.setWave c w x).zoneWas = s.zoneWas := rfl
@[simp] theorem State.setWave_lowered (s : State) (c w : Nat) (x : Option Wave) : (s.setWave c w x).lowered = s.lowered := rfl
@[simp] theorem State.setWave_tlbinvPending (s : State) (c w : Nat) (x : Option Wave) : (s.setWave c w x).tlbinvPending = s.tlbinvPending := rfl
@[simp] theorem State.setWave_tlbinvOf (s : State) (c w : Nat) (x : Option Wave) : (s.setWave c w x).tlbinvOf = s.tlbinvOf := rfl
@[simp] theorem State.setWave_stageTest (s : State) (c w : Nat) (x : Option Wave) : (s.setWave c w x).stageTest = s.stageTest := rfl
@[simp] theorem State.setWave_agenda (s : State) (c w : Nat) (x : Option Wave) : (s.setWave c w x).agenda = s.agenda := rfl
@[simp] theorem State.setWave_cur (s : State) (c w : Nat) (x : Option Wave) : (s.setWave c w x).cur = s.cur := rfl
@[simp] theorem State.setWave_arg (s : State) (c w : Nat) (x : Option Wave) : (s.setWave c w x).arg = s.arg := rfl
@[simp] theorem State.setWave_free (s : State) (c w : Nat) (x : Option Wave) : (s.setWave c w x).free = s.free := rfl
@[simp] theorem State.setWave_last (s : State) (c w : Nat) (x : Option Wave) : (s.setWave c w x).last = s.last := rfl

@[simp] theorem State.onWave_mem (s : State) (c w : Nat) (f : Wave → Wave) : (s.onWave c w f).mem = s.mem := by unfold State.onWave; split <;> rfl
@[simp] theorem State.onWave_memPoison (s : State) (c w : Nat) (f : Wave → Wave) : (s.onWave c w f).memPoison = s.memPoison := by unfold State.onWave; split <;> rfl
@[simp] theorem State.onWave_csr (s : State) (c w : Nat) (f : Wave → Wave) : (s.onWave c w f).csr = s.csr := by unfold State.onWave; split <;> rfl
@[simp] theorem State.onWave_catStaged (s : State) (c w : Nat) (f : Wave → Wave) : (s.onWave c w f).catStaged = s.catStaged := by unfold State.onWave; split <;> rfl
@[simp] theorem State.onWave_cores (s : State) (c w : Nat) (f : Wave → Wave) : (s.onWave c w f).cores = s.cores := by unfold State.onWave; split <;> rfl
@[simp] theorem State.onWave_dies (s : State) (c w : Nat) (f : Wave → Wave) : (s.onWave c w f).dies = s.dies := by unfold State.onWave; split <;> rfl
@[simp] theorem State.onWave_groups (s : State) (c w : Nat) (f : Wave → Wave) : (s.onWave c w f).groups = s.groups := by unfold State.onWave; split <;> rfl
@[simp] theorem State.onWave_launches (s : State) (c w : Nat) (f : Wave → Wave) : (s.onWave c w f).launches = s.launches := by unfold State.onWave; split <;> rfl
@[simp] theorem State.onWave_nextLaunchid (s : State) (c w : Nat) (f : Wave → Wave) : (s.onWave c w f).nextLaunchid = s.nextLaunchid := by unfold State.onWave; split <;> rfl
@[simp] theorem State.onWave_nextLaunch (s : State) (c w : Nat) (f : Wave → Wave) : (s.onWave c w f).nextLaunch = s.nextLaunch := by unfold State.onWave; split <;> rfl
@[simp] theorem State.onWave_nextGroup (s : State) (c w : Nat) (f : Wave → Wave) : (s.onWave c w f).nextGroup = s.nextGroup := by unfold State.onWave; split <;> rfl
@[simp] theorem State.onWave_nextOrder (s : State) (c w : Nat) (f : Wave → Wave) : (s.onWave c w f).nextOrder = s.nextOrder := by unfold State.onWave; split <;> rfl
@[simp] theorem State.onWave_svcs (s : State) (c w : Nat) (f : Wave → Wave) : (s.onWave c w f).svcs = s.svcs := by unfold State.onWave; split <;> rfl
@[simp] theorem State.onWave_out (s : State) (c w : Nat) (f : Wave → Wave) : (s.onWave c w f).out = s.out := by unfold State.onWave; split <;> rfl
@[simp] theorem State.onWave_peerReqs (s : State) (c w : Nat) (f : Wave → Wave) : (s.onWave c w f).peerReqs = s.peerReqs := by unfold State.onWave; split <;> rfl
@[simp] theorem State.onWave_peerTag (s : State) (c w : Nat) (f : Wave → Wave) : (s.onWave c w f).peerTag = s.peerTag := by unfold State.onWave; split <;> rfl
@[simp] theorem State.onWave_supply (s : State) (c w : Nat) (f : Wave → Wave) : (s.onWave c w f).supply = s.supply := by unfold State.onWave; split <;> rfl
@[simp] theorem State.onWave_zoneLow (s : State) (c w : Nat) (f : Wave → Wave) : (s.onWave c w f).zoneLow = s.zoneLow := by unfold State.onWave; split <;> rfl
@[simp] theorem State.onWave_zoneStuck (s : State) (c w : Nat) (f : Wave → Wave) : (s.onWave c w f).zoneStuck = s.zoneStuck := by unfold State.onWave; split <;> rfl
@[simp] theorem State.onWave_zoneAt (s : State) (c w : Nat) (f : Wave → Wave) : (s.onWave c w f).zoneAt = s.zoneAt := by unfold State.onWave; split <;> rfl
@[simp] theorem State.onWave_railAt (s : State) (c w : Nat) (f : Wave → Wave) : (s.onWave c w f).railAt = s.railAt := by unfold State.onWave; split <;> rfl
@[simp] theorem State.onWave_zoneWas (s : State) (c w : Nat) (f : Wave → Wave) : (s.onWave c w f).zoneWas = s.zoneWas := by unfold State.onWave; split <;> rfl
@[simp] theorem State.onWave_lowered (s : State) (c w : Nat) (f : Wave → Wave) : (s.onWave c w f).lowered = s.lowered := by unfold State.onWave; split <;> rfl
@[simp] theorem State.onWave_tlbinvPending (s : State) (c w : Nat) (f : Wave → Wave) : (s.onWave c w f).tlbinvPending = s.tlbinvPending := by unfold State.onWave; split <;> rfl
@[simp] theorem State.onWave_tlbinvOf (s : State) (c w : Nat) (f : Wave → Wave) : (s.onWave c w f).tlbinvOf = s.tlbinvOf := by unfold State.onWave; split <;> rfl
@[simp] theorem State.onWave_stageTest (s : State) (c w : Nat) (f : Wave → Wave) : (s.onWave c w f).stageTest = s.stageTest := by unfold State.onWave; split <;> rfl
@[simp] theorem State.onWave_agenda (s : State) (c w : Nat) (f : Wave → Wave) : (s.onWave c w f).agenda = s.agenda := by unfold State.onWave; split <;> rfl
@[simp] theorem State.onWave_cur (s : State) (c w : Nat) (f : Wave → Wave) : (s.onWave c w f).cur = s.cur := by unfold State.onWave; split <;> rfl
@[simp] theorem State.onWave_arg (s : State) (c w : Nat) (f : Wave → Wave) : (s.onWave c w f).arg = s.arg := by unfold State.onWave; split <;> rfl
@[simp] theorem State.onWave_free (s : State) (c w : Nat) (f : Wave → Wave) : (s.onWave c w f).free = s.free := by unfold State.onWave; split <;> rfl
@[simp] theorem State.onWave_last (s : State) (c w : Nat) (f : Wave → Wave) : (s.onWave c w f).last = s.last := by unfold State.onWave; split <;> rfl

@[simp] theorem State.onGroup_mem (s : State) (g : Nat) (f : Group → Group) : (s.onGroup g f).mem = s.mem := by unfold State.onGroup; split <;> rfl
@[simp] theorem State.onGroup_memPoison (s : State) (g : Nat) (f : Group → Group) : (s.onGroup g f).memPoison = s.memPoison := by unfold State.onGroup; split <;> rfl
@[simp] theorem State.onGroup_csr (s : State) (g : Nat) (f : Group → Group) : (s.onGroup g f).csr = s.csr := by unfold State.onGroup; split <;> rfl
@[simp] theorem State.onGroup_catStaged (s : State) (g : Nat) (f : Group → Group) : (s.onGroup g f).catStaged = s.catStaged := by unfold State.onGroup; split <;> rfl
@[simp] theorem State.onGroup_cores (s : State) (g : Nat) (f : Group → Group) : (s.onGroup g f).cores = s.cores := by unfold State.onGroup; split <;> rfl
@[simp] theorem State.onGroup_dies (s : State) (g : Nat) (f : Group → Group) : (s.onGroup g f).dies = s.dies := by unfold State.onGroup; split <;> rfl
@[simp] theorem State.onGroup_waves (s : State) (g : Nat) (f : Group → Group) : (s.onGroup g f).waves = s.waves := by unfold State.onGroup; split <;> rfl
@[simp] theorem State.onGroup_launches (s : State) (g : Nat) (f : Group → Group) : (s.onGroup g f).launches = s.launches := by unfold State.onGroup; split <;> rfl
@[simp] theorem State.onGroup_nextLaunchid (s : State) (g : Nat) (f : Group → Group) : (s.onGroup g f).nextLaunchid = s.nextLaunchid := by unfold State.onGroup; split <;> rfl
@[simp] theorem State.onGroup_nextLaunch (s : State) (g : Nat) (f : Group → Group) : (s.onGroup g f).nextLaunch = s.nextLaunch := by unfold State.onGroup; split <;> rfl
@[simp] theorem State.onGroup_nextGroup (s : State) (g : Nat) (f : Group → Group) : (s.onGroup g f).nextGroup = s.nextGroup := by unfold State.onGroup; split <;> rfl
@[simp] theorem State.onGroup_nextOrder (s : State) (g : Nat) (f : Group → Group) : (s.onGroup g f).nextOrder = s.nextOrder := by unfold State.onGroup; split <;> rfl
@[simp] theorem State.onGroup_svcs (s : State) (g : Nat) (f : Group → Group) : (s.onGroup g f).svcs = s.svcs := by unfold State.onGroup; split <;> rfl
@[simp] theorem State.onGroup_out (s : State) (g : Nat) (f : Group → Group) : (s.onGroup g f).out = s.out := by unfold State.onGroup; split <;> rfl
@[simp] theorem State.onGroup_peerReqs (s : State) (g : Nat) (f : Group → Group) : (s.onGroup g f).peerReqs = s.peerReqs := by unfold State.onGroup; split <;> rfl
@[simp] theorem State.onGroup_peerTag (s : State) (g : Nat) (f : Group → Group) : (s.onGroup g f).peerTag = s.peerTag := by unfold State.onGroup; split <;> rfl
@[simp] theorem State.onGroup_supply (s : State) (g : Nat) (f : Group → Group) : (s.onGroup g f).supply = s.supply := by unfold State.onGroup; split <;> rfl
@[simp] theorem State.onGroup_zoneLow (s : State) (g : Nat) (f : Group → Group) : (s.onGroup g f).zoneLow = s.zoneLow := by unfold State.onGroup; split <;> rfl
@[simp] theorem State.onGroup_zoneStuck (s : State) (g : Nat) (f : Group → Group) : (s.onGroup g f).zoneStuck = s.zoneStuck := by unfold State.onGroup; split <;> rfl
@[simp] theorem State.onGroup_zoneAt (s : State) (g : Nat) (f : Group → Group) : (s.onGroup g f).zoneAt = s.zoneAt := by unfold State.onGroup; split <;> rfl
@[simp] theorem State.onGroup_railAt (s : State) (g : Nat) (f : Group → Group) : (s.onGroup g f).railAt = s.railAt := by unfold State.onGroup; split <;> rfl
@[simp] theorem State.onGroup_zoneWas (s : State) (g : Nat) (f : Group → Group) : (s.onGroup g f).zoneWas = s.zoneWas := by unfold State.onGroup; split <;> rfl
@[simp] theorem State.onGroup_lowered (s : State) (g : Nat) (f : Group → Group) : (s.onGroup g f).lowered = s.lowered := by unfold State.onGroup; split <;> rfl
@[simp] theorem State.onGroup_tlbinvPending (s : State) (g : Nat) (f : Group → Group) : (s.onGroup g f).tlbinvPending = s.tlbinvPending := by unfold State.onGroup; split <;> rfl
@[simp] theorem State.onGroup_tlbinvOf (s : State) (g : Nat) (f : Group → Group) : (s.onGroup g f).tlbinvOf = s.tlbinvOf := by unfold State.onGroup; split <;> rfl
@[simp] theorem State.onGroup_stageTest (s : State) (g : Nat) (f : Group → Group) : (s.onGroup g f).stageTest = s.stageTest := by unfold State.onGroup; split <;> rfl
@[simp] theorem State.onGroup_agenda (s : State) (g : Nat) (f : Group → Group) : (s.onGroup g f).agenda = s.agenda := by unfold State.onGroup; split <;> rfl
@[simp] theorem State.onGroup_cur (s : State) (g : Nat) (f : Group → Group) : (s.onGroup g f).cur = s.cur := by unfold State.onGroup; split <;> rfl
@[simp] theorem State.onGroup_arg (s : State) (g : Nat) (f : Group → Group) : (s.onGroup g f).arg = s.arg := by unfold State.onGroup; split <;> rfl
@[simp] theorem State.onGroup_free (s : State) (g : Nat) (f : Group → Group) : (s.onGroup g f).free = s.free := by unfold State.onGroup; split <;> rfl
@[simp] theorem State.onGroup_last (s : State) (g : Nat) (f : Group → Group) : (s.onGroup g f).last = s.last := by unfold State.onGroup; split <;> rfl

@[simp] theorem State.onLaunch_mem (s : State) (n : Nat) (f : Launch → Launch) : (s.onLaunch n f).mem = s.mem := by unfold State.onLaunch; split <;> rfl
@[simp] theorem State.onLaunch_memPoison (s : State) (n : Nat) (f : Launch → Launch) : (s.onLaunch n f).memPoison = s.memPoison := by unfold State.onLaunch; split <;> rfl
@[simp] theorem State.onLaunch_csr (s : State) (n : Nat) (f : Launch → Launch) : (s.onLaunch n f).csr = s.csr := by unfold State.onLaunch; split <;> rfl
@[simp] theorem State.onLaunch_catStaged (s : State) (n : Nat) (f : Launch → Launch) : (s.onLaunch n f).catStaged = s.catStaged := by unfold State.onLaunch; split <;> rfl
@[simp] theorem State.onLaunch_cores (s : State) (n : Nat) (f : Launch → Launch) : (s.onLaunch n f).cores = s.cores := by unfold State.onLaunch; split <;> rfl
@[simp] theorem State.onLaunch_dies (s : State) (n : Nat) (f : Launch → Launch) : (s.onLaunch n f).dies = s.dies := by unfold State.onLaunch; split <;> rfl
@[simp] theorem State.onLaunch_waves (s : State) (n : Nat) (f : Launch → Launch) : (s.onLaunch n f).waves = s.waves := by unfold State.onLaunch; split <;> rfl
@[simp] theorem State.onLaunch_groups (s : State) (n : Nat) (f : Launch → Launch) : (s.onLaunch n f).groups = s.groups := by unfold State.onLaunch; split <;> rfl
@[simp] theorem State.onLaunch_nextLaunchid (s : State) (n : Nat) (f : Launch → Launch) : (s.onLaunch n f).nextLaunchid = s.nextLaunchid := by unfold State.onLaunch; split <;> rfl
@[simp] theorem State.onLaunch_nextLaunch (s : State) (n : Nat) (f : Launch → Launch) : (s.onLaunch n f).nextLaunch = s.nextLaunch := by unfold State.onLaunch; split <;> rfl
@[simp] theorem State.onLaunch_nextGroup (s : State) (n : Nat) (f : Launch → Launch) : (s.onLaunch n f).nextGroup = s.nextGroup := by unfold State.onLaunch; split <;> rfl
@[simp] theorem State.onLaunch_nextOrder (s : State) (n : Nat) (f : Launch → Launch) : (s.onLaunch n f).nextOrder = s.nextOrder := by unfold State.onLaunch; split <;> rfl
@[simp] theorem State.onLaunch_svcs (s : State) (n : Nat) (f : Launch → Launch) : (s.onLaunch n f).svcs = s.svcs := by unfold State.onLaunch; split <;> rfl
@[simp] theorem State.onLaunch_out (s : State) (n : Nat) (f : Launch → Launch) : (s.onLaunch n f).out = s.out := by unfold State.onLaunch; split <;> rfl
@[simp] theorem State.onLaunch_peerReqs (s : State) (n : Nat) (f : Launch → Launch) : (s.onLaunch n f).peerReqs = s.peerReqs := by unfold State.onLaunch; split <;> rfl
@[simp] theorem State.onLaunch_peerTag (s : State) (n : Nat) (f : Launch → Launch) : (s.onLaunch n f).peerTag = s.peerTag := by unfold State.onLaunch; split <;> rfl
@[simp] theorem State.onLaunch_supply (s : State) (n : Nat) (f : Launch → Launch) : (s.onLaunch n f).supply = s.supply := by unfold State.onLaunch; split <;> rfl
@[simp] theorem State.onLaunch_zoneLow (s : State) (n : Nat) (f : Launch → Launch) : (s.onLaunch n f).zoneLow = s.zoneLow := by unfold State.onLaunch; split <;> rfl
@[simp] theorem State.onLaunch_zoneStuck (s : State) (n : Nat) (f : Launch → Launch) : (s.onLaunch n f).zoneStuck = s.zoneStuck := by unfold State.onLaunch; split <;> rfl
@[simp] theorem State.onLaunch_zoneAt (s : State) (n : Nat) (f : Launch → Launch) : (s.onLaunch n f).zoneAt = s.zoneAt := by unfold State.onLaunch; split <;> rfl
@[simp] theorem State.onLaunch_railAt (s : State) (n : Nat) (f : Launch → Launch) : (s.onLaunch n f).railAt = s.railAt := by unfold State.onLaunch; split <;> rfl
@[simp] theorem State.onLaunch_zoneWas (s : State) (n : Nat) (f : Launch → Launch) : (s.onLaunch n f).zoneWas = s.zoneWas := by unfold State.onLaunch; split <;> rfl
@[simp] theorem State.onLaunch_lowered (s : State) (n : Nat) (f : Launch → Launch) : (s.onLaunch n f).lowered = s.lowered := by unfold State.onLaunch; split <;> rfl
@[simp] theorem State.onLaunch_tlbinvPending (s : State) (n : Nat) (f : Launch → Launch) : (s.onLaunch n f).tlbinvPending = s.tlbinvPending := by unfold State.onLaunch; split <;> rfl
@[simp] theorem State.onLaunch_tlbinvOf (s : State) (n : Nat) (f : Launch → Launch) : (s.onLaunch n f).tlbinvOf = s.tlbinvOf := by unfold State.onLaunch; split <;> rfl
@[simp] theorem State.onLaunch_stageTest (s : State) (n : Nat) (f : Launch → Launch) : (s.onLaunch n f).stageTest = s.stageTest := by unfold State.onLaunch; split <;> rfl
@[simp] theorem State.onLaunch_agenda (s : State) (n : Nat) (f : Launch → Launch) : (s.onLaunch n f).agenda = s.agenda := by unfold State.onLaunch; split <;> rfl
@[simp] theorem State.onLaunch_cur (s : State) (n : Nat) (f : Launch → Launch) : (s.onLaunch n f).cur = s.cur := by unfold State.onLaunch; split <;> rfl
@[simp] theorem State.onLaunch_arg (s : State) (n : Nat) (f : Launch → Launch) : (s.onLaunch n f).arg = s.arg := by unfold State.onLaunch; split <;> rfl
@[simp] theorem State.onLaunch_free (s : State) (n : Nat) (f : Launch → Launch) : (s.onLaunch n f).free = s.free := by unfold State.onLaunch; split <;> rfl
@[simp] theorem State.onLaunch_last (s : State) (n : Nat) (f : Launch → Launch) : (s.onLaunch n f).last = s.last := by unfold State.onLaunch; split <;> rfl

@[simp] theorem State.onSvc_mem (s : State) (n : Nat) (f : SvcCore → SvcCore) : (s.onSvc n f).mem = s.mem := rfl
@[simp] theorem State.onSvc_memPoison (s : State) (n : Nat) (f : SvcCore → SvcCore) : (s.onSvc n f).memPoison = s.memPoison := rfl
@[simp] theorem State.onSvc_csr (s : State) (n : Nat) (f : SvcCore → SvcCore) : (s.onSvc n f).csr = s.csr := rfl
@[simp] theorem State.onSvc_catStaged (s : State) (n : Nat) (f : SvcCore → SvcCore) : (s.onSvc n f).catStaged = s.catStaged := rfl
@[simp] theorem State.onSvc_cores (s : State) (n : Nat) (f : SvcCore → SvcCore) : (s.onSvc n f).cores = s.cores := rfl
@[simp] theorem State.onSvc_dies (s : State) (n : Nat) (f : SvcCore → SvcCore) : (s.onSvc n f).dies = s.dies := rfl
@[simp] theorem State.onSvc_waves (s : State) (n : Nat) (f : SvcCore → SvcCore) : (s.onSvc n f).waves = s.waves := rfl
@[simp] theorem State.onSvc_groups (s : State) (n : Nat) (f : SvcCore → SvcCore) : (s.onSvc n f).groups = s.groups := rfl
@[simp] theorem State.onSvc_launches (s : State) (n : Nat) (f : SvcCore → SvcCore) : (s.onSvc n f).launches = s.launches := rfl
@[simp] theorem State.onSvc_nextLaunchid (s : State) (n : Nat) (f : SvcCore → SvcCore) : (s.onSvc n f).nextLaunchid = s.nextLaunchid := rfl
@[simp] theorem State.onSvc_nextLaunch (s : State) (n : Nat) (f : SvcCore → SvcCore) : (s.onSvc n f).nextLaunch = s.nextLaunch := rfl
@[simp] theorem State.onSvc_nextGroup (s : State) (n : Nat) (f : SvcCore → SvcCore) : (s.onSvc n f).nextGroup = s.nextGroup := rfl
@[simp] theorem State.onSvc_nextOrder (s : State) (n : Nat) (f : SvcCore → SvcCore) : (s.onSvc n f).nextOrder = s.nextOrder := rfl
@[simp] theorem State.onSvc_out (s : State) (n : Nat) (f : SvcCore → SvcCore) : (s.onSvc n f).out = s.out := rfl
@[simp] theorem State.onSvc_peerReqs (s : State) (n : Nat) (f : SvcCore → SvcCore) : (s.onSvc n f).peerReqs = s.peerReqs := rfl
@[simp] theorem State.onSvc_peerTag (s : State) (n : Nat) (f : SvcCore → SvcCore) : (s.onSvc n f).peerTag = s.peerTag := rfl
@[simp] theorem State.onSvc_supply (s : State) (n : Nat) (f : SvcCore → SvcCore) : (s.onSvc n f).supply = s.supply := rfl
@[simp] theorem State.onSvc_zoneLow (s : State) (n : Nat) (f : SvcCore → SvcCore) : (s.onSvc n f).zoneLow = s.zoneLow := rfl
@[simp] theorem State.onSvc_zoneStuck (s : State) (n : Nat) (f : SvcCore → SvcCore) : (s.onSvc n f).zoneStuck = s.zoneStuck := rfl
@[simp] theorem State.onSvc_zoneAt (s : State) (n : Nat) (f : SvcCore → SvcCore) : (s.onSvc n f).zoneAt = s.zoneAt := rfl
@[simp] theorem State.onSvc_railAt (s : State) (n : Nat) (f : SvcCore → SvcCore) : (s.onSvc n f).railAt = s.railAt := rfl
@[simp] theorem State.onSvc_zoneWas (s : State) (n : Nat) (f : SvcCore → SvcCore) : (s.onSvc n f).zoneWas = s.zoneWas := rfl
@[simp] theorem State.onSvc_lowered (s : State) (n : Nat) (f : SvcCore → SvcCore) : (s.onSvc n f).lowered = s.lowered := rfl
@[simp] theorem State.onSvc_tlbinvPending (s : State) (n : Nat) (f : SvcCore → SvcCore) : (s.onSvc n f).tlbinvPending = s.tlbinvPending := rfl
@[simp] theorem State.onSvc_tlbinvOf (s : State) (n : Nat) (f : SvcCore → SvcCore) : (s.onSvc n f).tlbinvOf = s.tlbinvOf := rfl
@[simp] theorem State.onSvc_stageTest (s : State) (n : Nat) (f : SvcCore → SvcCore) : (s.onSvc n f).stageTest = s.stageTest := rfl
@[simp] theorem State.onSvc_agenda (s : State) (n : Nat) (f : SvcCore → SvcCore) : (s.onSvc n f).agenda = s.agenda := rfl
@[simp] theorem State.onSvc_cur (s : State) (n : Nat) (f : SvcCore → SvcCore) : (s.onSvc n f).cur = s.cur := rfl
@[simp] theorem State.onSvc_arg (s : State) (n : Nat) (f : SvcCore → SvcCore) : (s.onSvc n f).arg = s.arg := rfl
@[simp] theorem State.onSvc_free (s : State) (n : Nat) (f : SvcCore → SvcCore) : (s.onSvc n f).free = s.free := rfl
@[simp] theorem State.onSvc_last (s : State) (n : Nat) (f : SvcCore → SvcCore) : (s.onSvc n f).last = s.last := rfl

@[simp] theorem State.setCsr_mem (s : State) (p a : Nat) (v : Word) : (s.setCsr p a v).mem = s.mem := by rw [State.setCsr]
@[simp] theorem State.setCsr_memPoison (s : State) (p a : Nat) (v : Word) : (s.setCsr p a v).memPoison = s.memPoison := by rw [State.setCsr]
@[simp] theorem State.setCsr_catStaged (s : State) (p a : Nat) (v : Word) : (s.setCsr p a v).catStaged = s.catStaged := by rw [State.setCsr]
@[simp] theorem State.setCsr_cores (s : State) (p a : Nat) (v : Word) : (s.setCsr p a v).cores = s.cores := by rw [State.setCsr]
@[simp] theorem State.setCsr_dies (s : State) (p a : Nat) (v : Word) : (s.setCsr p a v).dies = s.dies := by rw [State.setCsr]
@[simp] theorem State.setCsr_waves (s : State) (p a : Nat) (v : Word) : (s.setCsr p a v).waves = s.waves := by rw [State.setCsr]
@[simp] theorem State.setCsr_groups (s : State) (p a : Nat) (v : Word) : (s.setCsr p a v).groups = s.groups := by rw [State.setCsr]
@[simp] theorem State.setCsr_launches (s : State) (p a : Nat) (v : Word) : (s.setCsr p a v).launches = s.launches := by rw [State.setCsr]
@[simp] theorem State.setCsr_nextLaunchid (s : State) (p a : Nat) (v : Word) : (s.setCsr p a v).nextLaunchid = s.nextLaunchid := by rw [State.setCsr]
@[simp] theorem State.setCsr_nextLaunch (s : State) (p a : Nat) (v : Word) : (s.setCsr p a v).nextLaunch = s.nextLaunch := by rw [State.setCsr]
@[simp] theorem State.setCsr_nextGroup (s : State) (p a : Nat) (v : Word) : (s.setCsr p a v).nextGroup = s.nextGroup := by rw [State.setCsr]
@[simp] theorem State.setCsr_nextOrder (s : State) (p a : Nat) (v : Word) : (s.setCsr p a v).nextOrder = s.nextOrder := by rw [State.setCsr]
@[simp] theorem State.setCsr_svcs (s : State) (p a : Nat) (v : Word) : (s.setCsr p a v).svcs = s.svcs := by rw [State.setCsr]
@[simp] theorem State.setCsr_out (s : State) (p a : Nat) (v : Word) : (s.setCsr p a v).out = s.out := by rw [State.setCsr]
@[simp] theorem State.setCsr_peerReqs (s : State) (p a : Nat) (v : Word) : (s.setCsr p a v).peerReqs = s.peerReqs := by rw [State.setCsr]
@[simp] theorem State.setCsr_peerTag (s : State) (p a : Nat) (v : Word) : (s.setCsr p a v).peerTag = s.peerTag := by rw [State.setCsr]
@[simp] theorem State.setCsr_supply (s : State) (p a : Nat) (v : Word) : (s.setCsr p a v).supply = s.supply := by rw [State.setCsr]
@[simp] theorem State.setCsr_zoneLow (s : State) (p a : Nat) (v : Word) : (s.setCsr p a v).zoneLow = s.zoneLow := by rw [State.setCsr]
@[simp] theorem State.setCsr_zoneStuck (s : State) (p a : Nat) (v : Word) : (s.setCsr p a v).zoneStuck = s.zoneStuck := by rw [State.setCsr]
@[simp] theorem State.setCsr_zoneAt (s : State) (p a : Nat) (v : Word) : (s.setCsr p a v).zoneAt = s.zoneAt := by rw [State.setCsr]
@[simp] theorem State.setCsr_railAt (s : State) (p a : Nat) (v : Word) : (s.setCsr p a v).railAt = s.railAt := by rw [State.setCsr]
@[simp] theorem State.setCsr_zoneWas (s : State) (p a : Nat) (v : Word) : (s.setCsr p a v).zoneWas = s.zoneWas := by rw [State.setCsr]
@[simp] theorem State.setCsr_lowered (s : State) (p a : Nat) (v : Word) : (s.setCsr p a v).lowered = s.lowered := by rw [State.setCsr]
@[simp] theorem State.setCsr_tlbinvPending (s : State) (p a : Nat) (v : Word) : (s.setCsr p a v).tlbinvPending = s.tlbinvPending := by rw [State.setCsr]
@[simp] theorem State.setCsr_tlbinvOf (s : State) (p a : Nat) (v : Word) : (s.setCsr p a v).tlbinvOf = s.tlbinvOf := by rw [State.setCsr]
@[simp] theorem State.setCsr_stageTest (s : State) (p a : Nat) (v : Word) : (s.setCsr p a v).stageTest = s.stageTest := by rw [State.setCsr]
@[simp] theorem State.setCsr_agenda (s : State) (p a : Nat) (v : Word) : (s.setCsr p a v).agenda = s.agenda := by rw [State.setCsr]
@[simp] theorem State.setCsr_cur (s : State) (p a : Nat) (v : Word) : (s.setCsr p a v).cur = s.cur := by rw [State.setCsr]
@[simp] theorem State.setCsr_arg (s : State) (p a : Nat) (v : Word) : (s.setCsr p a v).arg = s.arg := by rw [State.setCsr]
@[simp] theorem State.setCsr_free (s : State) (p a : Nat) (v : Word) : (s.setCsr p a v).free = s.free := by rw [State.setCsr]
@[simp] theorem State.setCsr_last (s : State) (p a : Nat) (v : Word) : (s.setCsr p a v).last = s.last := by rw [State.setCsr]

@[simp] theorem State.onCsr_mem (s : State) (p a : Nat) (f : Word → Word) : (s.onCsr p a f).mem = s.mem := by rw [State.onCsr, State.setCsr]
@[simp] theorem State.onCsr_memPoison (s : State) (p a : Nat) (f : Word → Word) : (s.onCsr p a f).memPoison = s.memPoison := by rw [State.onCsr, State.setCsr]
@[simp] theorem State.onCsr_catStaged (s : State) (p a : Nat) (f : Word → Word) : (s.onCsr p a f).catStaged = s.catStaged := by rw [State.onCsr, State.setCsr]
@[simp] theorem State.onCsr_cores (s : State) (p a : Nat) (f : Word → Word) : (s.onCsr p a f).cores = s.cores := by rw [State.onCsr, State.setCsr]
@[simp] theorem State.onCsr_dies (s : State) (p a : Nat) (f : Word → Word) : (s.onCsr p a f).dies = s.dies := by rw [State.onCsr, State.setCsr]
@[simp] theorem State.onCsr_waves (s : State) (p a : Nat) (f : Word → Word) : (s.onCsr p a f).waves = s.waves := by rw [State.onCsr, State.setCsr]
@[simp] theorem State.onCsr_groups (s : State) (p a : Nat) (f : Word → Word) : (s.onCsr p a f).groups = s.groups := by rw [State.onCsr, State.setCsr]
@[simp] theorem State.onCsr_launches (s : State) (p a : Nat) (f : Word → Word) : (s.onCsr p a f).launches = s.launches := by rw [State.onCsr, State.setCsr]
@[simp] theorem State.onCsr_nextLaunchid (s : State) (p a : Nat) (f : Word → Word) : (s.onCsr p a f).nextLaunchid = s.nextLaunchid := by rw [State.onCsr, State.setCsr]
@[simp] theorem State.onCsr_nextLaunch (s : State) (p a : Nat) (f : Word → Word) : (s.onCsr p a f).nextLaunch = s.nextLaunch := by rw [State.onCsr, State.setCsr]
@[simp] theorem State.onCsr_nextGroup (s : State) (p a : Nat) (f : Word → Word) : (s.onCsr p a f).nextGroup = s.nextGroup := by rw [State.onCsr, State.setCsr]
@[simp] theorem State.onCsr_nextOrder (s : State) (p a : Nat) (f : Word → Word) : (s.onCsr p a f).nextOrder = s.nextOrder := by rw [State.onCsr, State.setCsr]
@[simp] theorem State.onCsr_svcs (s : State) (p a : Nat) (f : Word → Word) : (s.onCsr p a f).svcs = s.svcs := by rw [State.onCsr, State.setCsr]
@[simp] theorem State.onCsr_out (s : State) (p a : Nat) (f : Word → Word) : (s.onCsr p a f).out = s.out := by rw [State.onCsr, State.setCsr]
@[simp] theorem State.onCsr_peerReqs (s : State) (p a : Nat) (f : Word → Word) : (s.onCsr p a f).peerReqs = s.peerReqs := by rw [State.onCsr, State.setCsr]
@[simp] theorem State.onCsr_peerTag (s : State) (p a : Nat) (f : Word → Word) : (s.onCsr p a f).peerTag = s.peerTag := by rw [State.onCsr, State.setCsr]
@[simp] theorem State.onCsr_supply (s : State) (p a : Nat) (f : Word → Word) : (s.onCsr p a f).supply = s.supply := by rw [State.onCsr, State.setCsr]
@[simp] theorem State.onCsr_zoneLow (s : State) (p a : Nat) (f : Word → Word) : (s.onCsr p a f).zoneLow = s.zoneLow := by rw [State.onCsr, State.setCsr]
@[simp] theorem State.onCsr_zoneStuck (s : State) (p a : Nat) (f : Word → Word) : (s.onCsr p a f).zoneStuck = s.zoneStuck := by rw [State.onCsr, State.setCsr]
@[simp] theorem State.onCsr_zoneAt (s : State) (p a : Nat) (f : Word → Word) : (s.onCsr p a f).zoneAt = s.zoneAt := by rw [State.onCsr, State.setCsr]
@[simp] theorem State.onCsr_railAt (s : State) (p a : Nat) (f : Word → Word) : (s.onCsr p a f).railAt = s.railAt := by rw [State.onCsr, State.setCsr]
@[simp] theorem State.onCsr_zoneWas (s : State) (p a : Nat) (f : Word → Word) : (s.onCsr p a f).zoneWas = s.zoneWas := by rw [State.onCsr, State.setCsr]
@[simp] theorem State.onCsr_lowered (s : State) (p a : Nat) (f : Word → Word) : (s.onCsr p a f).lowered = s.lowered := by rw [State.onCsr, State.setCsr]
@[simp] theorem State.onCsr_tlbinvPending (s : State) (p a : Nat) (f : Word → Word) : (s.onCsr p a f).tlbinvPending = s.tlbinvPending := by rw [State.onCsr, State.setCsr]
@[simp] theorem State.onCsr_tlbinvOf (s : State) (p a : Nat) (f : Word → Word) : (s.onCsr p a f).tlbinvOf = s.tlbinvOf := by rw [State.onCsr, State.setCsr]
@[simp] theorem State.onCsr_stageTest (s : State) (p a : Nat) (f : Word → Word) : (s.onCsr p a f).stageTest = s.stageTest := by rw [State.onCsr, State.setCsr]
@[simp] theorem State.onCsr_agenda (s : State) (p a : Nat) (f : Word → Word) : (s.onCsr p a f).agenda = s.agenda := by rw [State.onCsr, State.setCsr]
@[simp] theorem State.onCsr_cur (s : State) (p a : Nat) (f : Word → Word) : (s.onCsr p a f).cur = s.cur := by rw [State.onCsr, State.setCsr]
@[simp] theorem State.onCsr_arg (s : State) (p a : Nat) (f : Word → Word) : (s.onCsr p a f).arg = s.arg := by rw [State.onCsr, State.setCsr]
@[simp] theorem State.onCsr_free (s : State) (p a : Nat) (f : Word → Word) : (s.onCsr p a f).free = s.free := by rw [State.onCsr, State.setCsr]
@[simp] theorem State.onCsr_last (s : State) (p a : Nat) (f : Word → Word) : (s.onCsr p a f).last = s.last := by rw [State.onCsr, State.setCsr]

@[simp] theorem State.setByte_memPoison (s : State) (a : Nat) (v : Byte) : (s.setByte a v).memPoison = s.memPoison := rfl
@[simp] theorem State.setByte_csr (s : State) (a : Nat) (v : Byte) : (s.setByte a v).csr = s.csr := rfl
@[simp] theorem State.setByte_catStaged (s : State) (a : Nat) (v : Byte) : (s.setByte a v).catStaged = s.catStaged := rfl
@[simp] theorem State.setByte_cores (s : State) (a : Nat) (v : Byte) : (s.setByte a v).cores = s.cores := rfl
@[simp] theorem State.setByte_dies (s : State) (a : Nat) (v : Byte) : (s.setByte a v).dies = s.dies := rfl
@[simp] theorem State.setByte_waves (s : State) (a : Nat) (v : Byte) : (s.setByte a v).waves = s.waves := rfl
@[simp] theorem State.setByte_groups (s : State) (a : Nat) (v : Byte) : (s.setByte a v).groups = s.groups := rfl
@[simp] theorem State.setByte_launches (s : State) (a : Nat) (v : Byte) : (s.setByte a v).launches = s.launches := rfl
@[simp] theorem State.setByte_nextLaunchid (s : State) (a : Nat) (v : Byte) : (s.setByte a v).nextLaunchid = s.nextLaunchid := rfl
@[simp] theorem State.setByte_nextLaunch (s : State) (a : Nat) (v : Byte) : (s.setByte a v).nextLaunch = s.nextLaunch := rfl
@[simp] theorem State.setByte_nextGroup (s : State) (a : Nat) (v : Byte) : (s.setByte a v).nextGroup = s.nextGroup := rfl
@[simp] theorem State.setByte_nextOrder (s : State) (a : Nat) (v : Byte) : (s.setByte a v).nextOrder = s.nextOrder := rfl
@[simp] theorem State.setByte_svcs (s : State) (a : Nat) (v : Byte) : (s.setByte a v).svcs = s.svcs := rfl
@[simp] theorem State.setByte_out (s : State) (a : Nat) (v : Byte) : (s.setByte a v).out = s.out := rfl
@[simp] theorem State.setByte_peerReqs (s : State) (a : Nat) (v : Byte) : (s.setByte a v).peerReqs = s.peerReqs := rfl
@[simp] theorem State.setByte_peerTag (s : State) (a : Nat) (v : Byte) : (s.setByte a v).peerTag = s.peerTag := rfl
@[simp] theorem State.setByte_supply (s : State) (a : Nat) (v : Byte) : (s.setByte a v).supply = s.supply := rfl
@[simp] theorem State.setByte_zoneLow (s : State) (a : Nat) (v : Byte) : (s.setByte a v).zoneLow = s.zoneLow := rfl
@[simp] theorem State.setByte_zoneStuck (s : State) (a : Nat) (v : Byte) : (s.setByte a v).zoneStuck = s.zoneStuck := rfl
@[simp] theorem State.setByte_zoneAt (s : State) (a : Nat) (v : Byte) : (s.setByte a v).zoneAt = s.zoneAt := rfl
@[simp] theorem State.setByte_railAt (s : State) (a : Nat) (v : Byte) : (s.setByte a v).railAt = s.railAt := rfl
@[simp] theorem State.setByte_zoneWas (s : State) (a : Nat) (v : Byte) : (s.setByte a v).zoneWas = s.zoneWas := rfl
@[simp] theorem State.setByte_lowered (s : State) (a : Nat) (v : Byte) : (s.setByte a v).lowered = s.lowered := rfl
@[simp] theorem State.setByte_tlbinvPending (s : State) (a : Nat) (v : Byte) : (s.setByte a v).tlbinvPending = s.tlbinvPending := rfl
@[simp] theorem State.setByte_tlbinvOf (s : State) (a : Nat) (v : Byte) : (s.setByte a v).tlbinvOf = s.tlbinvOf := rfl
@[simp] theorem State.setByte_stageTest (s : State) (a : Nat) (v : Byte) : (s.setByte a v).stageTest = s.stageTest := rfl
@[simp] theorem State.setByte_agenda (s : State) (a : Nat) (v : Byte) : (s.setByte a v).agenda = s.agenda := rfl
@[simp] theorem State.setByte_cur (s : State) (a : Nat) (v : Byte) : (s.setByte a v).cur = s.cur := rfl
@[simp] theorem State.setByte_arg (s : State) (a : Nat) (v : Byte) : (s.setByte a v).arg = s.arg := rfl
@[simp] theorem State.setByte_free (s : State) (a : Nat) (v : Byte) : (s.setByte a v).free = s.free := rfl
@[simp] theorem State.setByte_last (s : State) (a : Nat) (v : Byte) : (s.setByte a v).last = s.last := rfl

@[simp] theorem State.send_mem (s : State) (port : Nat) (m : Msg) : (s.send port m).mem = s.mem := rfl
@[simp] theorem State.send_memPoison (s : State) (port : Nat) (m : Msg) : (s.send port m).memPoison = s.memPoison := rfl
@[simp] theorem State.send_csr (s : State) (port : Nat) (m : Msg) : (s.send port m).csr = s.csr := rfl
@[simp] theorem State.send_catStaged (s : State) (port : Nat) (m : Msg) : (s.send port m).catStaged = s.catStaged := rfl
@[simp] theorem State.send_cores (s : State) (port : Nat) (m : Msg) : (s.send port m).cores = s.cores := rfl
@[simp] theorem State.send_dies (s : State) (port : Nat) (m : Msg) : (s.send port m).dies = s.dies := rfl
@[simp] theorem State.send_waves (s : State) (port : Nat) (m : Msg) : (s.send port m).waves = s.waves := rfl
@[simp] theorem State.send_groups (s : State) (port : Nat) (m : Msg) : (s.send port m).groups = s.groups := rfl
@[simp] theorem State.send_launches (s : State) (port : Nat) (m : Msg) : (s.send port m).launches = s.launches := rfl
@[simp] theorem State.send_nextLaunchid (s : State) (port : Nat) (m : Msg) : (s.send port m).nextLaunchid = s.nextLaunchid := rfl
@[simp] theorem State.send_nextLaunch (s : State) (port : Nat) (m : Msg) : (s.send port m).nextLaunch = s.nextLaunch := rfl
@[simp] theorem State.send_nextGroup (s : State) (port : Nat) (m : Msg) : (s.send port m).nextGroup = s.nextGroup := rfl
@[simp] theorem State.send_nextOrder (s : State) (port : Nat) (m : Msg) : (s.send port m).nextOrder = s.nextOrder := rfl
@[simp] theorem State.send_svcs (s : State) (port : Nat) (m : Msg) : (s.send port m).svcs = s.svcs := rfl
@[simp] theorem State.send_peerReqs (s : State) (port : Nat) (m : Msg) : (s.send port m).peerReqs = s.peerReqs := rfl
@[simp] theorem State.send_peerTag (s : State) (port : Nat) (m : Msg) : (s.send port m).peerTag = s.peerTag := rfl
@[simp] theorem State.send_supply (s : State) (port : Nat) (m : Msg) : (s.send port m).supply = s.supply := rfl
@[simp] theorem State.send_zoneLow (s : State) (port : Nat) (m : Msg) : (s.send port m).zoneLow = s.zoneLow := rfl
@[simp] theorem State.send_zoneStuck (s : State) (port : Nat) (m : Msg) : (s.send port m).zoneStuck = s.zoneStuck := rfl
@[simp] theorem State.send_zoneAt (s : State) (port : Nat) (m : Msg) : (s.send port m).zoneAt = s.zoneAt := rfl
@[simp] theorem State.send_railAt (s : State) (port : Nat) (m : Msg) : (s.send port m).railAt = s.railAt := rfl
@[simp] theorem State.send_zoneWas (s : State) (port : Nat) (m : Msg) : (s.send port m).zoneWas = s.zoneWas := rfl
@[simp] theorem State.send_lowered (s : State) (port : Nat) (m : Msg) : (s.send port m).lowered = s.lowered := rfl
@[simp] theorem State.send_tlbinvPending (s : State) (port : Nat) (m : Msg) : (s.send port m).tlbinvPending = s.tlbinvPending := rfl
@[simp] theorem State.send_tlbinvOf (s : State) (port : Nat) (m : Msg) : (s.send port m).tlbinvOf = s.tlbinvOf := rfl
@[simp] theorem State.send_stageTest (s : State) (port : Nat) (m : Msg) : (s.send port m).stageTest = s.stageTest := rfl
@[simp] theorem State.send_agenda (s : State) (port : Nat) (m : Msg) : (s.send port m).agenda = s.agenda := rfl
@[simp] theorem State.send_cur (s : State) (port : Nat) (m : Msg) : (s.send port m).cur = s.cur := rfl
@[simp] theorem State.send_arg (s : State) (port : Nat) (m : Msg) : (s.send port m).arg = s.arg := rfl
@[simp] theorem State.send_free (s : State) (port : Nat) (m : Msg) : (s.send port m).free = s.free := rfl
@[simp] theorem State.send_last (s : State) (port : Nat) (m : Msg) : (s.send port m).last = s.last := rfl

@[simp] theorem State.onIssuer_mem (s : State) (f : Wave → Wave) : (s.onIssuer f).mem = s.mem := by unfold State.onIssuer State.onWave; split <;> rfl
@[simp] theorem State.onIssuer_memPoison (s : State) (f : Wave → Wave) : (s.onIssuer f).memPoison = s.memPoison := by unfold State.onIssuer State.onWave; split <;> rfl
@[simp] theorem State.onIssuer_csr (s : State) (f : Wave → Wave) : (s.onIssuer f).csr = s.csr := by unfold State.onIssuer State.onWave; split <;> rfl
@[simp] theorem State.onIssuer_catStaged (s : State) (f : Wave → Wave) : (s.onIssuer f).catStaged = s.catStaged := by unfold State.onIssuer State.onWave; split <;> rfl
@[simp] theorem State.onIssuer_cores (s : State) (f : Wave → Wave) : (s.onIssuer f).cores = s.cores := by unfold State.onIssuer State.onWave; split <;> rfl
@[simp] theorem State.onIssuer_dies (s : State) (f : Wave → Wave) : (s.onIssuer f).dies = s.dies := by unfold State.onIssuer State.onWave; split <;> rfl
@[simp] theorem State.onIssuer_groups (s : State) (f : Wave → Wave) : (s.onIssuer f).groups = s.groups := by unfold State.onIssuer State.onWave; split <;> rfl
@[simp] theorem State.onIssuer_launches (s : State) (f : Wave → Wave) : (s.onIssuer f).launches = s.launches := by unfold State.onIssuer State.onWave; split <;> rfl
@[simp] theorem State.onIssuer_nextLaunchid (s : State) (f : Wave → Wave) : (s.onIssuer f).nextLaunchid = s.nextLaunchid := by unfold State.onIssuer State.onWave; split <;> rfl
@[simp] theorem State.onIssuer_nextLaunch (s : State) (f : Wave → Wave) : (s.onIssuer f).nextLaunch = s.nextLaunch := by unfold State.onIssuer State.onWave; split <;> rfl
@[simp] theorem State.onIssuer_nextGroup (s : State) (f : Wave → Wave) : (s.onIssuer f).nextGroup = s.nextGroup := by unfold State.onIssuer State.onWave; split <;> rfl
@[simp] theorem State.onIssuer_nextOrder (s : State) (f : Wave → Wave) : (s.onIssuer f).nextOrder = s.nextOrder := by unfold State.onIssuer State.onWave; split <;> rfl
@[simp] theorem State.onIssuer_svcs (s : State) (f : Wave → Wave) : (s.onIssuer f).svcs = s.svcs := by unfold State.onIssuer State.onWave; split <;> rfl
@[simp] theorem State.onIssuer_out (s : State) (f : Wave → Wave) : (s.onIssuer f).out = s.out := by unfold State.onIssuer State.onWave; split <;> rfl
@[simp] theorem State.onIssuer_peerReqs (s : State) (f : Wave → Wave) : (s.onIssuer f).peerReqs = s.peerReqs := by unfold State.onIssuer State.onWave; split <;> rfl
@[simp] theorem State.onIssuer_peerTag (s : State) (f : Wave → Wave) : (s.onIssuer f).peerTag = s.peerTag := by unfold State.onIssuer State.onWave; split <;> rfl
@[simp] theorem State.onIssuer_supply (s : State) (f : Wave → Wave) : (s.onIssuer f).supply = s.supply := by unfold State.onIssuer State.onWave; split <;> rfl
@[simp] theorem State.onIssuer_zoneLow (s : State) (f : Wave → Wave) : (s.onIssuer f).zoneLow = s.zoneLow := by unfold State.onIssuer State.onWave; split <;> rfl
@[simp] theorem State.onIssuer_zoneStuck (s : State) (f : Wave → Wave) : (s.onIssuer f).zoneStuck = s.zoneStuck := by unfold State.onIssuer State.onWave; split <;> rfl
@[simp] theorem State.onIssuer_zoneAt (s : State) (f : Wave → Wave) : (s.onIssuer f).zoneAt = s.zoneAt := by unfold State.onIssuer State.onWave; split <;> rfl
@[simp] theorem State.onIssuer_railAt (s : State) (f : Wave → Wave) : (s.onIssuer f).railAt = s.railAt := by unfold State.onIssuer State.onWave; split <;> rfl
@[simp] theorem State.onIssuer_zoneWas (s : State) (f : Wave → Wave) : (s.onIssuer f).zoneWas = s.zoneWas := by unfold State.onIssuer State.onWave; split <;> rfl
@[simp] theorem State.onIssuer_lowered (s : State) (f : Wave → Wave) : (s.onIssuer f).lowered = s.lowered := by unfold State.onIssuer State.onWave; split <;> rfl
@[simp] theorem State.onIssuer_tlbinvPending (s : State) (f : Wave → Wave) : (s.onIssuer f).tlbinvPending = s.tlbinvPending := by unfold State.onIssuer State.onWave; split <;> rfl
@[simp] theorem State.onIssuer_tlbinvOf (s : State) (f : Wave → Wave) : (s.onIssuer f).tlbinvOf = s.tlbinvOf := by unfold State.onIssuer State.onWave; split <;> rfl
@[simp] theorem State.onIssuer_stageTest (s : State) (f : Wave → Wave) : (s.onIssuer f).stageTest = s.stageTest := by unfold State.onIssuer State.onWave; split <;> rfl
@[simp] theorem State.onIssuer_agenda (s : State) (f : Wave → Wave) : (s.onIssuer f).agenda = s.agenda := by unfold State.onIssuer State.onWave; split <;> rfl
@[simp] theorem State.onIssuer_cur (s : State) (f : Wave → Wave) : (s.onIssuer f).cur = s.cur := by unfold State.onIssuer State.onWave; split <;> rfl
@[simp] theorem State.onIssuer_arg (s : State) (f : Wave → Wave) : (s.onIssuer f).arg = s.arg := by unfold State.onIssuer State.onWave; split <;> rfl
@[simp] theorem State.onIssuer_free (s : State) (f : Wave → Wave) : (s.onIssuer f).free = s.free := by unfold State.onIssuer State.onWave; split <;> rfl
@[simp] theorem State.onIssuer_last (s : State) (f : Wave → Wave) : (s.onIssuer f).last = s.last := by unfold State.onIssuer State.onWave; split <;> rfl

@[simp] theorem State.onIssuingSplit_mem (s : State) (f : Split → Split) : (s.onIssuingSplit f).mem = s.mem := by unfold State.onIssuingSplit State.onIssuer State.onWave; split <;> rfl
@[simp] theorem State.onIssuingSplit_memPoison (s : State) (f : Split → Split) : (s.onIssuingSplit f).memPoison = s.memPoison := by unfold State.onIssuingSplit State.onIssuer State.onWave; split <;> rfl
@[simp] theorem State.onIssuingSplit_csr (s : State) (f : Split → Split) : (s.onIssuingSplit f).csr = s.csr := by unfold State.onIssuingSplit State.onIssuer State.onWave; split <;> rfl
@[simp] theorem State.onIssuingSplit_catStaged (s : State) (f : Split → Split) : (s.onIssuingSplit f).catStaged = s.catStaged := by unfold State.onIssuingSplit State.onIssuer State.onWave; split <;> rfl
@[simp] theorem State.onIssuingSplit_cores (s : State) (f : Split → Split) : (s.onIssuingSplit f).cores = s.cores := by unfold State.onIssuingSplit State.onIssuer State.onWave; split <;> rfl
@[simp] theorem State.onIssuingSplit_dies (s : State) (f : Split → Split) : (s.onIssuingSplit f).dies = s.dies := by unfold State.onIssuingSplit State.onIssuer State.onWave; split <;> rfl
@[simp] theorem State.onIssuingSplit_groups (s : State) (f : Split → Split) : (s.onIssuingSplit f).groups = s.groups := by unfold State.onIssuingSplit State.onIssuer State.onWave; split <;> rfl
@[simp] theorem State.onIssuingSplit_launches (s : State) (f : Split → Split) : (s.onIssuingSplit f).launches = s.launches := by unfold State.onIssuingSplit State.onIssuer State.onWave; split <;> rfl
@[simp] theorem State.onIssuingSplit_nextLaunchid (s : State) (f : Split → Split) : (s.onIssuingSplit f).nextLaunchid = s.nextLaunchid := by unfold State.onIssuingSplit State.onIssuer State.onWave; split <;> rfl
@[simp] theorem State.onIssuingSplit_nextLaunch (s : State) (f : Split → Split) : (s.onIssuingSplit f).nextLaunch = s.nextLaunch := by unfold State.onIssuingSplit State.onIssuer State.onWave; split <;> rfl
@[simp] theorem State.onIssuingSplit_nextGroup (s : State) (f : Split → Split) : (s.onIssuingSplit f).nextGroup = s.nextGroup := by unfold State.onIssuingSplit State.onIssuer State.onWave; split <;> rfl
@[simp] theorem State.onIssuingSplit_nextOrder (s : State) (f : Split → Split) : (s.onIssuingSplit f).nextOrder = s.nextOrder := by unfold State.onIssuingSplit State.onIssuer State.onWave; split <;> rfl
@[simp] theorem State.onIssuingSplit_svcs (s : State) (f : Split → Split) : (s.onIssuingSplit f).svcs = s.svcs := by unfold State.onIssuingSplit State.onIssuer State.onWave; split <;> rfl
@[simp] theorem State.onIssuingSplit_out (s : State) (f : Split → Split) : (s.onIssuingSplit f).out = s.out := by unfold State.onIssuingSplit State.onIssuer State.onWave; split <;> rfl
@[simp] theorem State.onIssuingSplit_peerReqs (s : State) (f : Split → Split) : (s.onIssuingSplit f).peerReqs = s.peerReqs := by unfold State.onIssuingSplit State.onIssuer State.onWave; split <;> rfl
@[simp] theorem State.onIssuingSplit_peerTag (s : State) (f : Split → Split) : (s.onIssuingSplit f).peerTag = s.peerTag := by unfold State.onIssuingSplit State.onIssuer State.onWave; split <;> rfl
@[simp] theorem State.onIssuingSplit_supply (s : State) (f : Split → Split) : (s.onIssuingSplit f).supply = s.supply := by unfold State.onIssuingSplit State.onIssuer State.onWave; split <;> rfl
@[simp] theorem State.onIssuingSplit_zoneLow (s : State) (f : Split → Split) : (s.onIssuingSplit f).zoneLow = s.zoneLow := by unfold State.onIssuingSplit State.onIssuer State.onWave; split <;> rfl
@[simp] theorem State.onIssuingSplit_zoneStuck (s : State) (f : Split → Split) : (s.onIssuingSplit f).zoneStuck = s.zoneStuck := by unfold State.onIssuingSplit State.onIssuer State.onWave; split <;> rfl
@[simp] theorem State.onIssuingSplit_zoneAt (s : State) (f : Split → Split) : (s.onIssuingSplit f).zoneAt = s.zoneAt := by unfold State.onIssuingSplit State.onIssuer State.onWave; split <;> rfl
@[simp] theorem State.onIssuingSplit_railAt (s : State) (f : Split → Split) : (s.onIssuingSplit f).railAt = s.railAt := by unfold State.onIssuingSplit State.onIssuer State.onWave; split <;> rfl
@[simp] theorem State.onIssuingSplit_zoneWas (s : State) (f : Split → Split) : (s.onIssuingSplit f).zoneWas = s.zoneWas := by unfold State.onIssuingSplit State.onIssuer State.onWave; split <;> rfl
@[simp] theorem State.onIssuingSplit_lowered (s : State) (f : Split → Split) : (s.onIssuingSplit f).lowered = s.lowered := by unfold State.onIssuingSplit State.onIssuer State.onWave; split <;> rfl
@[simp] theorem State.onIssuingSplit_tlbinvPending (s : State) (f : Split → Split) : (s.onIssuingSplit f).tlbinvPending = s.tlbinvPending := by unfold State.onIssuingSplit State.onIssuer State.onWave; split <;> rfl
@[simp] theorem State.onIssuingSplit_tlbinvOf (s : State) (f : Split → Split) : (s.onIssuingSplit f).tlbinvOf = s.tlbinvOf := by unfold State.onIssuingSplit State.onIssuer State.onWave; split <;> rfl
@[simp] theorem State.onIssuingSplit_stageTest (s : State) (f : Split → Split) : (s.onIssuingSplit f).stageTest = s.stageTest := by unfold State.onIssuingSplit State.onIssuer State.onWave; split <;> rfl
@[simp] theorem State.onIssuingSplit_agenda (s : State) (f : Split → Split) : (s.onIssuingSplit f).agenda = s.agenda := by unfold State.onIssuingSplit State.onIssuer State.onWave; split <;> rfl
@[simp] theorem State.onIssuingSplit_cur (s : State) (f : Split → Split) : (s.onIssuingSplit f).cur = s.cur := by unfold State.onIssuingSplit State.onIssuer State.onWave; split <;> rfl
@[simp] theorem State.onIssuingSplit_arg (s : State) (f : Split → Split) : (s.onIssuingSplit f).arg = s.arg := by unfold State.onIssuingSplit State.onIssuer State.onWave; split <;> rfl
@[simp] theorem State.onIssuingSplit_free (s : State) (f : Split → Split) : (s.onIssuingSplit f).free = s.free := by unfold State.onIssuingSplit State.onIssuer State.onWave; split <;> rfl
@[simp] theorem State.onIssuingSplit_last (s : State) (f : Split → Split) : (s.onIssuingSplit f).last = s.last := by unfold State.onIssuingSplit State.onIssuer State.onWave; split <;> rfl

@[simp] theorem State.setCore_die_same (s : State) (c : Nat) (x : Core) (k : Nat) : (s.setCore c x).die k = s.die k := by simp [State.die]
@[simp] theorem State.setCore_wave_same (s : State) (c : Nat) (x : Core) (i j : Nat) : (s.setCore c x).wave i j = s.wave i j := by simp [State.wave]
@[simp] theorem State.setCore_group_same (s : State) (c : Nat) (x : Core) (k : Nat) : (s.setCore c x).group k = s.group k := by simp [State.group]
@[simp] theorem State.setCore_launch_same (s : State) (c : Nat) (x : Core) (k : Nat) : (s.setCore c x).launch k = s.launch k := by simp [State.launch]
@[simp] theorem State.setCore_svc_same (s : State) (c : Nat) (x : Core) (k : Nat) : (s.setCore c x).svc k = s.svc k := by simp [State.svc]
@[simp] theorem State.setCore_csrAt_same (s : State) (c : Nat) (x : Core) (i j : Nat) : (s.setCore c x).csrAt i j = s.csrAt i j := by simp [State.csrAt]
@[simp] theorem State.setCore_byte_same (s : State) (c : Nat) (x : Core) (i : Nat) : (s.setCore c x).byte i = s.byte i := by simp [State.byte]

@[simp] theorem State.onCore_die_same (s : State) (c : Nat) (f : Core → Core) (k : Nat) : (s.onCore c f).die k = s.die k := by simp [State.die]
@[simp] theorem State.onCore_wave_same (s : State) (c : Nat) (f : Core → Core) (i j : Nat) : (s.onCore c f).wave i j = s.wave i j := by simp [State.wave]
@[simp] theorem State.onCore_group_same (s : State) (c : Nat) (f : Core → Core) (k : Nat) : (s.onCore c f).group k = s.group k := by simp [State.group]
@[simp] theorem State.onCore_launch_same (s : State) (c : Nat) (f : Core → Core) (k : Nat) : (s.onCore c f).launch k = s.launch k := by simp [State.launch]
@[simp] theorem State.onCore_svc_same (s : State) (c : Nat) (f : Core → Core) (k : Nat) : (s.onCore c f).svc k = s.svc k := by simp [State.svc]
@[simp] theorem State.onCore_csrAt_same (s : State) (c : Nat) (f : Core → Core) (i j : Nat) : (s.onCore c f).csrAt i j = s.csrAt i j := by simp [State.csrAt]
@[simp] theorem State.onCore_byte_same (s : State) (c : Nat) (f : Core → Core) (i : Nat) : (s.onCore c f).byte i = s.byte i := by simp [State.byte]

@[simp] theorem State.onDie_core_same (s : State) (n : Nat) (f : Die → Die) (k : Nat) : (s.onDie n f).core k = s.core k := by simp [State.core]
@[simp] theorem State.onDie_wave_same (s : State) (n : Nat) (f : Die → Die) (i j : Nat) : (s.onDie n f).wave i j = s.wave i j := by simp [State.wave]
@[simp] theorem State.onDie_group_same (s : State) (n : Nat) (f : Die → Die) (k : Nat) : (s.onDie n f).group k = s.group k := by simp [State.group]
@[simp] theorem State.onDie_launch_same (s : State) (n : Nat) (f : Die → Die) (k : Nat) : (s.onDie n f).launch k = s.launch k := by simp [State.launch]
@[simp] theorem State.onDie_svc_same (s : State) (n : Nat) (f : Die → Die) (k : Nat) : (s.onDie n f).svc k = s.svc k := by simp [State.svc]
@[simp] theorem State.onDie_csrAt_same (s : State) (n : Nat) (f : Die → Die) (i j : Nat) : (s.onDie n f).csrAt i j = s.csrAt i j := by simp [State.csrAt]
@[simp] theorem State.onDie_byte_same (s : State) (n : Nat) (f : Die → Die) (i : Nat) : (s.onDie n f).byte i = s.byte i := by simp [State.byte]

@[simp] theorem State.setWave_core_same (s : State) (c w : Nat) (x : Option Wave) (k : Nat) : (s.setWave c w x).core k = s.core k := by simp [State.core]
@[simp] theorem State.setWave_die_same (s : State) (c w : Nat) (x : Option Wave) (k : Nat) : (s.setWave c w x).die k = s.die k := by simp [State.die]
@[simp] theorem State.setWave_group_same (s : State) (c w : Nat) (x : Option Wave) (k : Nat) : (s.setWave c w x).group k = s.group k := by simp [State.group]
@[simp] theorem State.setWave_launch_same (s : State) (c w : Nat) (x : Option Wave) (k : Nat) : (s.setWave c w x).launch k = s.launch k := by simp [State.launch]
@[simp] theorem State.setWave_svc_same (s : State) (c w : Nat) (x : Option Wave) (k : Nat) : (s.setWave c w x).svc k = s.svc k := by simp [State.svc]
@[simp] theorem State.setWave_csrAt_same (s : State) (c w : Nat) (x : Option Wave) (i j : Nat) : (s.setWave c w x).csrAt i j = s.csrAt i j := by simp [State.csrAt]
@[simp] theorem State.setWave_byte_same (s : State) (c w : Nat) (x : Option Wave) (i : Nat) : (s.setWave c w x).byte i = s.byte i := by simp [State.byte]

@[simp] theorem State.onWave_core_same (s : State) (c w : Nat) (f : Wave → Wave) (k : Nat) : (s.onWave c w f).core k = s.core k := by simp [State.core]
@[simp] theorem State.onWave_die_same (s : State) (c w : Nat) (f : Wave → Wave) (k : Nat) : (s.onWave c w f).die k = s.die k := by simp [State.die]
@[simp] theorem State.onWave_group_same (s : State) (c w : Nat) (f : Wave → Wave) (k : Nat) : (s.onWave c w f).group k = s.group k := by simp [State.group]
@[simp] theorem State.onWave_launch_same (s : State) (c w : Nat) (f : Wave → Wave) (k : Nat) : (s.onWave c w f).launch k = s.launch k := by simp [State.launch]
@[simp] theorem State.onWave_svc_same (s : State) (c w : Nat) (f : Wave → Wave) (k : Nat) : (s.onWave c w f).svc k = s.svc k := by simp [State.svc]
@[simp] theorem State.onWave_csrAt_same (s : State) (c w : Nat) (f : Wave → Wave) (i j : Nat) : (s.onWave c w f).csrAt i j = s.csrAt i j := by simp [State.csrAt]
@[simp] theorem State.onWave_byte_same (s : State) (c w : Nat) (f : Wave → Wave) (i : Nat) : (s.onWave c w f).byte i = s.byte i := by simp [State.byte]

@[simp] theorem State.onGroup_core_same (s : State) (g : Nat) (f : Group → Group) (k : Nat) : (s.onGroup g f).core k = s.core k := by simp [State.core]
@[simp] theorem State.onGroup_die_same (s : State) (g : Nat) (f : Group → Group) (k : Nat) : (s.onGroup g f).die k = s.die k := by simp [State.die]
@[simp] theorem State.onGroup_wave_same (s : State) (g : Nat) (f : Group → Group) (i j : Nat) : (s.onGroup g f).wave i j = s.wave i j := by simp [State.wave]
@[simp] theorem State.onGroup_launch_same (s : State) (g : Nat) (f : Group → Group) (k : Nat) : (s.onGroup g f).launch k = s.launch k := by simp [State.launch]
@[simp] theorem State.onGroup_svc_same (s : State) (g : Nat) (f : Group → Group) (k : Nat) : (s.onGroup g f).svc k = s.svc k := by simp [State.svc]
@[simp] theorem State.onGroup_csrAt_same (s : State) (g : Nat) (f : Group → Group) (i j : Nat) : (s.onGroup g f).csrAt i j = s.csrAt i j := by simp [State.csrAt]
@[simp] theorem State.onGroup_byte_same (s : State) (g : Nat) (f : Group → Group) (i : Nat) : (s.onGroup g f).byte i = s.byte i := by simp [State.byte]

@[simp] theorem State.onLaunch_core_same (s : State) (n : Nat) (f : Launch → Launch) (k : Nat) : (s.onLaunch n f).core k = s.core k := by simp [State.core]
@[simp] theorem State.onLaunch_die_same (s : State) (n : Nat) (f : Launch → Launch) (k : Nat) : (s.onLaunch n f).die k = s.die k := by simp [State.die]
@[simp] theorem State.onLaunch_wave_same (s : State) (n : Nat) (f : Launch → Launch) (i j : Nat) : (s.onLaunch n f).wave i j = s.wave i j := by simp [State.wave]
@[simp] theorem State.onLaunch_group_same (s : State) (n : Nat) (f : Launch → Launch) (k : Nat) : (s.onLaunch n f).group k = s.group k := by simp [State.group]
@[simp] theorem State.onLaunch_svc_same (s : State) (n : Nat) (f : Launch → Launch) (k : Nat) : (s.onLaunch n f).svc k = s.svc k := by simp [State.svc]
@[simp] theorem State.onLaunch_csrAt_same (s : State) (n : Nat) (f : Launch → Launch) (i j : Nat) : (s.onLaunch n f).csrAt i j = s.csrAt i j := by simp [State.csrAt]
@[simp] theorem State.onLaunch_byte_same (s : State) (n : Nat) (f : Launch → Launch) (i : Nat) : (s.onLaunch n f).byte i = s.byte i := by simp [State.byte]

@[simp] theorem State.onSvc_core_same (s : State) (n : Nat) (f : SvcCore → SvcCore) (k : Nat) : (s.onSvc n f).core k = s.core k := by simp [State.core]
@[simp] theorem State.onSvc_die_same (s : State) (n : Nat) (f : SvcCore → SvcCore) (k : Nat) : (s.onSvc n f).die k = s.die k := by simp [State.die]
@[simp] theorem State.onSvc_wave_same (s : State) (n : Nat) (f : SvcCore → SvcCore) (i j : Nat) : (s.onSvc n f).wave i j = s.wave i j := by simp [State.wave]
@[simp] theorem State.onSvc_group_same (s : State) (n : Nat) (f : SvcCore → SvcCore) (k : Nat) : (s.onSvc n f).group k = s.group k := by simp [State.group]
@[simp] theorem State.onSvc_launch_same (s : State) (n : Nat) (f : SvcCore → SvcCore) (k : Nat) : (s.onSvc n f).launch k = s.launch k := by simp [State.launch]
@[simp] theorem State.onSvc_csrAt_same (s : State) (n : Nat) (f : SvcCore → SvcCore) (i j : Nat) : (s.onSvc n f).csrAt i j = s.csrAt i j := by simp [State.csrAt]
@[simp] theorem State.onSvc_byte_same (s : State) (n : Nat) (f : SvcCore → SvcCore) (i : Nat) : (s.onSvc n f).byte i = s.byte i := by simp [State.byte]

@[simp] theorem State.setCsr_core_same (s : State) (p a : Nat) (v : Word) (k : Nat) : (s.setCsr p a v).core k = s.core k := by simp [State.core]
@[simp] theorem State.setCsr_die_same (s : State) (p a : Nat) (v : Word) (k : Nat) : (s.setCsr p a v).die k = s.die k := by simp [State.die]
@[simp] theorem State.setCsr_wave_same (s : State) (p a : Nat) (v : Word) (i j : Nat) : (s.setCsr p a v).wave i j = s.wave i j := by simp [State.wave]
@[simp] theorem State.setCsr_group_same (s : State) (p a : Nat) (v : Word) (k : Nat) : (s.setCsr p a v).group k = s.group k := by simp [State.group]
@[simp] theorem State.setCsr_launch_same (s : State) (p a : Nat) (v : Word) (k : Nat) : (s.setCsr p a v).launch k = s.launch k := by simp [State.launch]
@[simp] theorem State.setCsr_svc_same (s : State) (p a : Nat) (v : Word) (k : Nat) : (s.setCsr p a v).svc k = s.svc k := by simp [State.svc]
@[simp] theorem State.setCsr_byte_same (s : State) (p a : Nat) (v : Word) (i : Nat) : (s.setCsr p a v).byte i = s.byte i := by simp [State.byte]

@[simp] theorem State.onCsr_core_same (s : State) (p a : Nat) (f : Word → Word) (k : Nat) : (s.onCsr p a f).core k = s.core k := by simp [State.core]
@[simp] theorem State.onCsr_die_same (s : State) (p a : Nat) (f : Word → Word) (k : Nat) : (s.onCsr p a f).die k = s.die k := by simp [State.die]
@[simp] theorem State.onCsr_wave_same (s : State) (p a : Nat) (f : Word → Word) (i j : Nat) : (s.onCsr p a f).wave i j = s.wave i j := by simp [State.wave]
@[simp] theorem State.onCsr_group_same (s : State) (p a : Nat) (f : Word → Word) (k : Nat) : (s.onCsr p a f).group k = s.group k := by simp [State.group]
@[simp] theorem State.onCsr_launch_same (s : State) (p a : Nat) (f : Word → Word) (k : Nat) : (s.onCsr p a f).launch k = s.launch k := by simp [State.launch]
@[simp] theorem State.onCsr_svc_same (s : State) (p a : Nat) (f : Word → Word) (k : Nat) : (s.onCsr p a f).svc k = s.svc k := by simp [State.svc]
@[simp] theorem State.onCsr_byte_same (s : State) (p a : Nat) (f : Word → Word) (i : Nat) : (s.onCsr p a f).byte i = s.byte i := by simp [State.byte]

@[simp] theorem State.setByte_core_same (s : State) (a : Nat) (v : Byte) (k : Nat) : (s.setByte a v).core k = s.core k := by simp [State.core]
@[simp] theorem State.setByte_die_same (s : State) (a : Nat) (v : Byte) (k : Nat) : (s.setByte a v).die k = s.die k := by simp [State.die]
@[simp] theorem State.setByte_wave_same (s : State) (a : Nat) (v : Byte) (i j : Nat) : (s.setByte a v).wave i j = s.wave i j := by simp [State.wave]
@[simp] theorem State.setByte_group_same (s : State) (a : Nat) (v : Byte) (k : Nat) : (s.setByte a v).group k = s.group k := by simp [State.group]
@[simp] theorem State.setByte_launch_same (s : State) (a : Nat) (v : Byte) (k : Nat) : (s.setByte a v).launch k = s.launch k := by simp [State.launch]
@[simp] theorem State.setByte_svc_same (s : State) (a : Nat) (v : Byte) (k : Nat) : (s.setByte a v).svc k = s.svc k := by simp [State.svc]
@[simp] theorem State.setByte_csrAt_same (s : State) (a : Nat) (v : Byte) (i j : Nat) : (s.setByte a v).csrAt i j = s.csrAt i j := by simp [State.csrAt]

@[simp] theorem State.send_core_same (s : State) (port : Nat) (m : Msg) (k : Nat) : (s.send port m).core k = s.core k := by simp [State.core]
@[simp] theorem State.send_die_same (s : State) (port : Nat) (m : Msg) (k : Nat) : (s.send port m).die k = s.die k := by simp [State.die]
@[simp] theorem State.send_wave_same (s : State) (port : Nat) (m : Msg) (i j : Nat) : (s.send port m).wave i j = s.wave i j := by simp [State.wave]
@[simp] theorem State.send_group_same (s : State) (port : Nat) (m : Msg) (k : Nat) : (s.send port m).group k = s.group k := by simp [State.group]
@[simp] theorem State.send_launch_same (s : State) (port : Nat) (m : Msg) (k : Nat) : (s.send port m).launch k = s.launch k := by simp [State.launch]
@[simp] theorem State.send_svc_same (s : State) (port : Nat) (m : Msg) (k : Nat) : (s.send port m).svc k = s.svc k := by simp [State.svc]
@[simp] theorem State.send_csrAt_same (s : State) (port : Nat) (m : Msg) (i j : Nat) : (s.send port m).csrAt i j = s.csrAt i j := by simp [State.csrAt]
@[simp] theorem State.send_byte_same (s : State) (port : Nat) (m : Msg) (i : Nat) : (s.send port m).byte i = s.byte i := by simp [State.byte]

@[simp] theorem State.onIssuer_core_same (s : State) (f : Wave → Wave) (k : Nat) : (s.onIssuer f).core k = s.core k := by simp [State.core]
@[simp] theorem State.onIssuer_die_same (s : State) (f : Wave → Wave) (k : Nat) : (s.onIssuer f).die k = s.die k := by simp [State.die]
@[simp] theorem State.onIssuer_group_same (s : State) (f : Wave → Wave) (k : Nat) : (s.onIssuer f).group k = s.group k := by simp [State.group]
@[simp] theorem State.onIssuer_launch_same (s : State) (f : Wave → Wave) (k : Nat) : (s.onIssuer f).launch k = s.launch k := by simp [State.launch]
@[simp] theorem State.onIssuer_svc_same (s : State) (f : Wave → Wave) (k : Nat) : (s.onIssuer f).svc k = s.svc k := by simp [State.svc]
@[simp] theorem State.onIssuer_csrAt_same (s : State) (f : Wave → Wave) (i j : Nat) : (s.onIssuer f).csrAt i j = s.csrAt i j := by simp [State.csrAt]
@[simp] theorem State.onIssuer_byte_same (s : State) (f : Wave → Wave) (i : Nat) : (s.onIssuer f).byte i = s.byte i := by simp [State.byte]

@[simp] theorem State.onIssuingSplit_core_same (s : State) (f : Split → Split) (k : Nat) : (s.onIssuingSplit f).core k = s.core k := by simp [State.core]
@[simp] theorem State.onIssuingSplit_die_same (s : State) (f : Split → Split) (k : Nat) : (s.onIssuingSplit f).die k = s.die k := by simp [State.die]
@[simp] theorem State.onIssuingSplit_group_same (s : State) (f : Split → Split) (k : Nat) : (s.onIssuingSplit f).group k = s.group k := by simp [State.group]
@[simp] theorem State.onIssuingSplit_launch_same (s : State) (f : Split → Split) (k : Nat) : (s.onIssuingSplit f).launch k = s.launch k := by simp [State.launch]
@[simp] theorem State.onIssuingSplit_svc_same (s : State) (f : Split → Split) (k : Nat) : (s.onIssuingSplit f).svc k = s.svc k := by simp [State.svc]
@[simp] theorem State.onIssuingSplit_csrAt_same (s : State) (f : Split → Split) (i j : Nat) : (s.onIssuingSplit f).csrAt i j = s.csrAt i j := by simp [State.csrAt]
@[simp] theorem State.onIssuingSplit_byte_same (s : State) (f : Split → Split) (i : Nat) : (s.onIssuingSplit f).byte i = s.byte i := by simp [State.byte]

@[simp] theorem State.wave_setWave_self (s : State) (c w : Nat) (x : Option Wave) : (s.setWave c w x).wave c w = x := by
  simp [State.wave, State.setWave]

theorem State.wave_setWave_ne (s : State) {c w i j : Nat} (x : Option Wave) (h : waveKey i j ≠ waveKey c w) :
    (s.setWave c w x).wave i j = s.wave i j := by
  simp [State.wave, State.setWave, Table.get_set_ne h]

@[simp] theorem State.wave_onWave_self (s : State) (c w : Nat) (f : Wave → Wave) :
    (s.onWave c w f).wave c w = (s.wave c w).map f := by
  unfold State.onWave
  split
  · next x h => simp [h]
  · next h => simp [h]

theorem State.wave_onWave_ne (s : State) {c w i j : Nat} (f : Wave → Wave) (h : waveKey i j ≠ waveKey c w) :
    (s.onWave c w f).wave i j = s.wave i j := by
  unfold State.onWave
  split
  · exact State.wave_setWave_ne s _ h
  · rfl

@[simp] theorem State.core_setCore_self (s : State) (c : Nat) (x : Core) : (s.setCore c x).core c = x := by
  simp [State.core, State.setCore]

theorem State.core_setCore_ne (s : State) {c k : Nat} (x : Core) (h : k ≠ c) : (s.setCore c x).core k = s.core k := by
  simp [State.core, State.setCore, Table.get_set_ne h]

@[simp] theorem State.core_onCore_self (s : State) (c : Nat) (f : Core → Core) : (s.onCore c f).core c = f (s.core c) := by
  simp [State.onCore]

theorem State.core_onCore_ne (s : State) {c k : Nat} (f : Core → Core) (h : k ≠ c) : (s.onCore c f).core k = s.core k :=
  State.core_setCore_ne s _ h

@[simp] theorem State.die_onDie_self (s : State) (n : Nat) (f : Die → Die) : (s.onDie n f).die n = f (s.die n) := by
  simp [State.die, State.onDie]

theorem State.die_onDie_ne (s : State) {n k : Nat} (f : Die → Die) (h : k ≠ n) : (s.onDie n f).die k = s.die k := by
  simp [State.die, State.onDie, Table.get_set_ne h]

@[simp] theorem State.svc_onSvc_self (s : State) (n : Nat) (f : SvcCore → SvcCore) : (s.onSvc n f).svc n = f (s.svc n) := by
  simp [State.svc, State.onSvc]

theorem State.svc_onSvc_ne (s : State) {n k : Nat} (f : SvcCore → SvcCore) (h : k ≠ n) : (s.onSvc n f).svc k = s.svc k := by
  simp [State.svc, State.onSvc, Table.get_set_ne h]

@[simp] theorem State.group_onGroup_self (s : State) (g : Nat) (f : Group → Group) :
    (s.onGroup g f).group g = (s.group g).map f := by
  unfold State.onGroup
  split
  · next x h => simp [State.group] at h ⊢; simp [h]
  · next h => simp [h]

@[simp] theorem State.launch_onLaunch_self (s : State) (n : Nat) (f : Launch → Launch) :
    (s.onLaunch n f).launch n = (s.launch n).map f := by
  unfold State.onLaunch
  split
  · next x h => simp [State.launch] at h ⊢; simp [h]
  · next h => simp [h]

@[simp] theorem State.csrAt_setCsr_self (s : State) (p a : Nat) (v : Word) : (s.setCsr p a v).csrAt p a = v := by
  simp [State.csrAt, State.setCsr]

theorem State.csrAt_setCsr_ne (s : State) {p a i j : Nat} (v : Word) (h : csrKey i j ≠ csrKey p a) :
    (s.setCsr p a v).csrAt i j = s.csrAt i j := by
  simp [State.csrAt, State.setCsr, Table.get_set_ne h]

@[simp] theorem State.csrAt_onCsr_self (s : State) (p a : Nat) (f : Word → Word) :
    (s.onCsr p a f).csrAt p a = f (s.csrAt p a) := by
  simp [State.onCsr]

theorem State.csrAt_onCsr_ne (s : State) {p a i j : Nat} (f : Word → Word) (h : csrKey i j ≠ csrKey p a) :
    (s.onCsr p a f).csrAt i j = s.csrAt i j :=
  State.csrAt_setCsr_ne s _ h

@[simp] theorem State.byte_setByte_self (s : State) (a : Nat) (v : Byte) : (s.setByte a v).byte a = v := by
  simp [State.byte, State.setByte]

theorem State.byte_setByte_ne (s : State) {a k : Nat} (v : Byte) (h : k ≠ a) : (s.setByte a v).byte k = s.byte k := by
  simp [State.byte, State.setByte, Table.get_set_ne h]

@[simp] theorem Wave.split_setSplit_self (w : Wave) (k : Nat) (x : Option Split) : (w.setSplit k x).split k = x := by
  simp [Wave.split, Wave.setSplit]

theorem Wave.split_setSplit_ne (w : Wave) {k j : Nat} (x : Option Split) (h : j ≠ k) : (w.setSplit k x).split j = w.split j := by
  simp [Wave.split, Wave.setSplit, Table.get_set_ne h]

@[simp] theorem Wave.split_onSplit_self (w : Wave) (k : Nat) (f : Split → Split) :
    (w.onSplit k f).split k = (w.split k).map f := by
  unfold Wave.onSplit
  split
  · next x h => simp [h]
  · next h => simp [h]

theorem Wave.split_onSplit_ne (w : Wave) {k j : Nat} (f : Split → Split) (h : j ≠ k) : (w.onSplit k f).split j = w.split j := by
  unfold Wave.onSplit
  split
  · exact Wave.split_setSplit_ne w _ h
  · rfl

@[simp] theorem Wave.setSplit_group (w : Wave) (k : Nat) (x : Option Split) : (w.setSplit k x).group = w.group := rfl
@[simp] theorem Wave.setSplit_index (w : Wave) (k : Nat) (x : Option Split) : (w.setSplit k x).index = w.index := rfl
@[simp] theorem Wave.setSplit_ctx (w : Wave) (k : Nat) (x : Option Split) : (w.setSplit k x).ctx = w.ctx := rfl
@[simp] theorem Wave.setSplit_width (w : Wave) (k : Nat) (x : Option Split) : (w.setSplit k x).width = w.width := rfl
@[simp] theorem Wave.setSplit_slot (w : Wave) (k : Nat) (x : Option Split) : (w.setSplit k x).slot = w.slot := rfl
@[simp] theorem Wave.setSplit_qbase (w : Wave) (k : Nat) (x : Option Split) : (w.setSplit k x).qbase = w.qbase := rfl
@[simp] theorem Wave.setSplit_kind (w : Wave) (k : Nat) (x : Option Split) : (w.setSplit k x).kind = w.kind := rfl
@[simp] theorem Wave.setSplit_order (w : Wave) (k : Nat) (x : Option Split) : (w.setSplit k x).order = w.order := rfl
@[simp] theorem Wave.setSplit_prio (w : Wave) (k : Nat) (x : Option Split) : (w.setSplit k x).prio = w.prio := rfl
@[simp] theorem Wave.setSplit_prioMax (w : Wave) (k : Nat) (x : Option Split) : (w.setSplit k x).prioMax = w.prioMax := rfl
@[simp] theorem Wave.setSplit_klass (w : Wave) (k : Nat) (x : Option Split) : (w.setSplit k x).klass = w.klass := rfl
@[simp] theorem Wave.setSplit_debug (w : Wave) (k : Nat) (x : Option Split) : (w.setSplit k x).debug = w.debug := rfl
@[simp] theorem Wave.setSplit_vres (w : Wave) (k : Nat) (x : Option Split) : (w.setSplit k x).vres = w.vres := rfl
@[simp] theorem Wave.setSplit_vmax (w : Wave) (k : Nat) (x : Option Split) : (w.setSplit k x).vmax = w.vmax := rfl
@[simp] theorem Wave.setSplit_sres (w : Wave) (k : Nat) (x : Option Split) : (w.setSplit k x).sres = w.sres := rfl
@[simp] theorem Wave.setSplit_smax (w : Wave) (k : Nat) (x : Option Split) : (w.setSplit k x).smax = w.smax := rfl
@[simp] theorem Wave.setSplit_vregs (w : Wave) (k : Nat) (x : Option Split) : (w.setSplit k x).vregs = w.vregs := rfl
@[simp] theorem Wave.setSplit_vbound (w : Wave) (k : Nat) (x : Option Split) : (w.setSplit k x).vbound = w.vbound := rfl
@[simp] theorem Wave.setSplit_vspilled (w : Wave) (k : Nat) (x : Option Split) : (w.setSplit k x).vspilled = w.vspilled := rfl
@[simp] theorem Wave.setSplit_vpoison (w : Wave) (k : Nat) (x : Option Split) : (w.setSplit k x).vpoison = w.vpoison := rfl
@[simp] theorem Wave.setSplit_vused (w : Wave) (k : Nat) (x : Option Split) : (w.setSplit k x).vused = w.vused := rfl
@[simp] theorem Wave.setSplit_stamp (w : Wave) (k : Nat) (x : Option Split) : (w.setSplit k x).stamp = w.stamp := rfl
@[simp] theorem Wave.setSplit_hist (w : Wave) (k : Nat) (x : Option Split) : (w.setSplit k x).hist = w.hist := rfl
@[simp] theorem Wave.setSplit_swrites (w : Wave) (k : Nat) (x : Option Split) : (w.setSplit k x).swrites = w.swrites := rfl
@[simp] theorem Wave.setSplit_sregs (w : Wave) (k : Nat) (x : Option Split) : (w.setSplit k x).sregs = w.sregs := rfl
@[simp] theorem Wave.setSplit_sbound (w : Wave) (k : Nat) (x : Option Split) : (w.setSplit k x).sbound = w.sbound := rfl
@[simp] theorem Wave.setSplit_sspilled (w : Wave) (k : Nat) (x : Option Split) : (w.setSplit k x).sspilled = w.sspilled := rfl
@[simp] theorem Wave.setSplit_spoison (w : Wave) (k : Nat) (x : Option Split) : (w.setSplit k x).spoison = w.spoison := rfl
@[simp] theorem Wave.setSplit_sused (w : Wave) (k : Nat) (x : Option Split) : (w.setSplit k x).sused = w.sused := rfl
@[simp] theorem Wave.setSplit_exited (w : Wave) (k : Nat) (x : Option Split) : (w.setSplit k x).exited = w.exited := rfl
@[simp] theorem Wave.setSplit_paths (w : Wave) (k : Nat) (x : Option Split) : (w.setSplit k x).paths = w.paths := rfl
@[simp] theorem Wave.setSplit_records (w : Wave) (k : Nat) (x : Option Split) : (w.setSplit k x).records = w.records := rfl
@[simp] theorem Wave.setSplit_made (w : Wave) (k : Nat) (x : Option Split) : (w.setSplit k x).made = w.made := rfl
@[simp] theorem Wave.setSplit_remap (w : Wave) (k : Nat) (x : Option Split) : (w.setSplit k x).remap = w.remap := rfl
@[simp] theorem Wave.setSplit_remapInvalid (w : Wave) (k : Nat) (x : Option Split) : (w.setSplit k x).remapInvalid = w.remapInvalid := rfl
@[simp] theorem Wave.setSplit_vlid (w : Wave) (k : Nat) (x : Option Split) : (w.setSplit k x).vlid = w.vlid := rfl
@[simp] theorem Wave.setSplit_helper (w : Wave) (k : Nat) (x : Option Split) : (w.setSplit k x).helper = w.helper := rfl
@[simp] theorem Wave.setSplit_batch (w : Wave) (k : Nat) (x : Option Split) : (w.setSplit k x).batch = w.batch := rfl
@[simp] theorem Wave.setSplit_cbdone (w : Wave) (k : Nat) (x : Option Split) : (w.setSplit k x).cbdone = w.cbdone := rfl
@[simp] theorem Wave.setSplit_rfence (w : Wave) (k : Nat) (x : Option Split) : (w.setSplit k x).rfence = w.rfence := rfl
@[simp] theorem Wave.setSplit_mticket (w : Wave) (k : Nat) (x : Option Split) : (w.setSplit k x).mticket = w.mticket := rfl
@[simp] theorem Wave.setSplit_mdone (w : Wave) (k : Nat) (x : Option Split) : (w.setSplit k x).mdone = w.mdone := rfl
@[simp] theorem Wave.setSplit_mdoneSet (w : Wave) (k : Nat) (x : Option Split) : (w.setSplit k x).mdoneSet = w.mdoneSet := rfl
@[simp] theorem Wave.setSplit_bhist (w : Wave) (k : Nat) (x : Option Split) : (w.setSplit k x).bhist = w.bhist := rfl
@[simp] theorem Wave.setSplit_latch (w : Wave) (k : Nat) (x : Option Split) : (w.setSplit k x).latch = w.latch := rfl
@[simp] theorem Wave.setSplit_windows (w : Wave) (k : Nat) (x : Option Split) : (w.setSplit k x).windows = w.windows := rfl
@[simp] theorem Wave.setSplit_nextOp (w : Wave) (k : Nat) (x : Option Split) : (w.setSplit k x).nextOp = w.nextOp := rfl
@[simp] theorem Wave.setSplit_ops (w : Wave) (k : Nat) (x : Option Split) : (w.setSplit k x).ops = w.ops := rfl
@[simp] theorem Wave.setSplit_queue (w : Wave) (k : Nat) (x : Option Split) : (w.setSplit k x).queue = w.queue := rfl
@[simp] theorem Wave.setSplit_run (w : Wave) (k : Nat) (x : Option Split) : (w.setSplit k x).run = w.run := rfl
@[simp] theorem Wave.setSplit_halt (w : Wave) (k : Nat) (x : Option Split) : (w.setSplit k x).halt = w.halt := rfl
@[simp] theorem Wave.setSplit_frame (w : Wave) (k : Nat) (x : Option Split) : (w.setSplit k x).frame = w.frame := rfl
@[simp] theorem Wave.setSplit_frameCause (w : Wave) (k : Nat) (x : Option Split) : (w.setSplit k x).frameCause = w.frameCause := rfl
@[simp] theorem Wave.setSplit_stepping (w : Wave) (k : Nat) (x : Option Split) : (w.setSplit k x).stepping = w.stepping := rfl
@[simp] theorem Wave.setSplit_stepped (w : Wave) (k : Nat) (x : Option Split) : (w.setSplit k x).stepped = w.stepped := rfl
@[simp] theorem Wave.setSplit_queries (w : Wave) (k : Nat) (x : Option Split) : (w.setSplit k x).queries = w.queries := rfl
@[simp] theorem Wave.setSplit_repack (w : Wave) (k : Nat) (x : Option Split) : (w.setSplit k x).repack = w.repack := rfl
@[simp] theorem Wave.setSplit_flow (w : Wave) (k : Nat) (x : Option Split) : (w.setSplit k x).flow = w.flow := rfl
@[simp] theorem Wave.setSplit_depth (w : Wave) (k : Nat) (x : Option Split) : (w.setSplit k x).depth = w.depth := rfl
@[simp] theorem Wave.setSplit_issued (w : Wave) (k : Nat) (x : Option Split) : (w.setSplit k x).issued = w.issued := rfl
@[simp] theorem Wave.setSplit_loghead (w : Wave) (k : Nat) (x : Option Split) : (w.setSplit k x).loghead = w.loghead := rfl
@[simp] theorem Wave.setSplit_loglost (w : Wave) (k : Nat) (x : Option Split) : (w.setSplit k x).loglost = w.loglost := rfl
@[simp] theorem Wave.setSplit_mendDone (w : Wave) (k : Nat) (x : Option Split) : (w.setSplit k x).mendDone = w.mendDone := rfl
@[simp] theorem Wave.setSplit_quadOf (w : Wave) (k : Nat) (x : Option Split) : (w.setSplit k x).quadOf = w.quadOf := rfl
@[simp] theorem Wave.setSplit_colour (w : Wave) (k : Nat) (x : Option Split) : (w.setSplit k x).colour = w.colour := rfl
@[simp] theorem Wave.setSplit_digest (w : Wave) (k : Nat) (x : Option Split) : (w.setSplit k x).digest = w.digest := rfl

@[simp] theorem Wave.onSplit_group (w : Wave) (k : Nat) (g : Split → Split) : (w.onSplit k g).group = w.group := by
  unfold Wave.onSplit; split <;> rfl
@[simp] theorem Wave.onSplit_index (w : Wave) (k : Nat) (g : Split → Split) : (w.onSplit k g).index = w.index := by
  unfold Wave.onSplit; split <;> rfl
@[simp] theorem Wave.onSplit_ctx (w : Wave) (k : Nat) (g : Split → Split) : (w.onSplit k g).ctx = w.ctx := by
  unfold Wave.onSplit; split <;> rfl
@[simp] theorem Wave.onSplit_width (w : Wave) (k : Nat) (g : Split → Split) : (w.onSplit k g).width = w.width := by
  unfold Wave.onSplit; split <;> rfl
@[simp] theorem Wave.onSplit_slot (w : Wave) (k : Nat) (g : Split → Split) : (w.onSplit k g).slot = w.slot := by
  unfold Wave.onSplit; split <;> rfl
@[simp] theorem Wave.onSplit_qbase (w : Wave) (k : Nat) (g : Split → Split) : (w.onSplit k g).qbase = w.qbase := by
  unfold Wave.onSplit; split <;> rfl
@[simp] theorem Wave.onSplit_kind (w : Wave) (k : Nat) (g : Split → Split) : (w.onSplit k g).kind = w.kind := by
  unfold Wave.onSplit; split <;> rfl
@[simp] theorem Wave.onSplit_order (w : Wave) (k : Nat) (g : Split → Split) : (w.onSplit k g).order = w.order := by
  unfold Wave.onSplit; split <;> rfl
@[simp] theorem Wave.onSplit_prio (w : Wave) (k : Nat) (g : Split → Split) : (w.onSplit k g).prio = w.prio := by
  unfold Wave.onSplit; split <;> rfl
@[simp] theorem Wave.onSplit_prioMax (w : Wave) (k : Nat) (g : Split → Split) : (w.onSplit k g).prioMax = w.prioMax := by
  unfold Wave.onSplit; split <;> rfl
@[simp] theorem Wave.onSplit_klass (w : Wave) (k : Nat) (g : Split → Split) : (w.onSplit k g).klass = w.klass := by
  unfold Wave.onSplit; split <;> rfl
@[simp] theorem Wave.onSplit_debug (w : Wave) (k : Nat) (g : Split → Split) : (w.onSplit k g).debug = w.debug := by
  unfold Wave.onSplit; split <;> rfl
@[simp] theorem Wave.onSplit_vres (w : Wave) (k : Nat) (g : Split → Split) : (w.onSplit k g).vres = w.vres := by
  unfold Wave.onSplit; split <;> rfl
@[simp] theorem Wave.onSplit_vmax (w : Wave) (k : Nat) (g : Split → Split) : (w.onSplit k g).vmax = w.vmax := by
  unfold Wave.onSplit; split <;> rfl
@[simp] theorem Wave.onSplit_sres (w : Wave) (k : Nat) (g : Split → Split) : (w.onSplit k g).sres = w.sres := by
  unfold Wave.onSplit; split <;> rfl
@[simp] theorem Wave.onSplit_smax (w : Wave) (k : Nat) (g : Split → Split) : (w.onSplit k g).smax = w.smax := by
  unfold Wave.onSplit; split <;> rfl
@[simp] theorem Wave.onSplit_vregs (w : Wave) (k : Nat) (g : Split → Split) : (w.onSplit k g).vregs = w.vregs := by
  unfold Wave.onSplit; split <;> rfl
@[simp] theorem Wave.onSplit_vbound (w : Wave) (k : Nat) (g : Split → Split) : (w.onSplit k g).vbound = w.vbound := by
  unfold Wave.onSplit; split <;> rfl
@[simp] theorem Wave.onSplit_vspilled (w : Wave) (k : Nat) (g : Split → Split) : (w.onSplit k g).vspilled = w.vspilled := by
  unfold Wave.onSplit; split <;> rfl
@[simp] theorem Wave.onSplit_vpoison (w : Wave) (k : Nat) (g : Split → Split) : (w.onSplit k g).vpoison = w.vpoison := by
  unfold Wave.onSplit; split <;> rfl
@[simp] theorem Wave.onSplit_vused (w : Wave) (k : Nat) (g : Split → Split) : (w.onSplit k g).vused = w.vused := by
  unfold Wave.onSplit; split <;> rfl
@[simp] theorem Wave.onSplit_stamp (w : Wave) (k : Nat) (g : Split → Split) : (w.onSplit k g).stamp = w.stamp := by
  unfold Wave.onSplit; split <;> rfl
@[simp] theorem Wave.onSplit_hist (w : Wave) (k : Nat) (g : Split → Split) : (w.onSplit k g).hist = w.hist := by
  unfold Wave.onSplit; split <;> rfl
@[simp] theorem Wave.onSplit_swrites (w : Wave) (k : Nat) (g : Split → Split) : (w.onSplit k g).swrites = w.swrites := by
  unfold Wave.onSplit; split <;> rfl
@[simp] theorem Wave.onSplit_sregs (w : Wave) (k : Nat) (g : Split → Split) : (w.onSplit k g).sregs = w.sregs := by
  unfold Wave.onSplit; split <;> rfl
@[simp] theorem Wave.onSplit_sbound (w : Wave) (k : Nat) (g : Split → Split) : (w.onSplit k g).sbound = w.sbound := by
  unfold Wave.onSplit; split <;> rfl
@[simp] theorem Wave.onSplit_sspilled (w : Wave) (k : Nat) (g : Split → Split) : (w.onSplit k g).sspilled = w.sspilled := by
  unfold Wave.onSplit; split <;> rfl
@[simp] theorem Wave.onSplit_spoison (w : Wave) (k : Nat) (g : Split → Split) : (w.onSplit k g).spoison = w.spoison := by
  unfold Wave.onSplit; split <;> rfl
@[simp] theorem Wave.onSplit_sused (w : Wave) (k : Nat) (g : Split → Split) : (w.onSplit k g).sused = w.sused := by
  unfold Wave.onSplit; split <;> rfl
@[simp] theorem Wave.onSplit_exited (w : Wave) (k : Nat) (g : Split → Split) : (w.onSplit k g).exited = w.exited := by
  unfold Wave.onSplit; split <;> rfl
@[simp] theorem Wave.onSplit_paths (w : Wave) (k : Nat) (g : Split → Split) : (w.onSplit k g).paths = w.paths := by
  unfold Wave.onSplit; split <;> rfl
@[simp] theorem Wave.onSplit_records (w : Wave) (k : Nat) (g : Split → Split) : (w.onSplit k g).records = w.records := by
  unfold Wave.onSplit; split <;> rfl
@[simp] theorem Wave.onSplit_made (w : Wave) (k : Nat) (g : Split → Split) : (w.onSplit k g).made = w.made := by
  unfold Wave.onSplit; split <;> rfl
@[simp] theorem Wave.onSplit_remap (w : Wave) (k : Nat) (g : Split → Split) : (w.onSplit k g).remap = w.remap := by
  unfold Wave.onSplit; split <;> rfl
@[simp] theorem Wave.onSplit_remapInvalid (w : Wave) (k : Nat) (g : Split → Split) : (w.onSplit k g).remapInvalid = w.remapInvalid := by
  unfold Wave.onSplit; split <;> rfl
@[simp] theorem Wave.onSplit_vlid (w : Wave) (k : Nat) (g : Split → Split) : (w.onSplit k g).vlid = w.vlid := by
  unfold Wave.onSplit; split <;> rfl
@[simp] theorem Wave.onSplit_helper (w : Wave) (k : Nat) (g : Split → Split) : (w.onSplit k g).helper = w.helper := by
  unfold Wave.onSplit; split <;> rfl
@[simp] theorem Wave.onSplit_batch (w : Wave) (k : Nat) (g : Split → Split) : (w.onSplit k g).batch = w.batch := by
  unfold Wave.onSplit; split <;> rfl
@[simp] theorem Wave.onSplit_cbdone (w : Wave) (k : Nat) (g : Split → Split) : (w.onSplit k g).cbdone = w.cbdone := by
  unfold Wave.onSplit; split <;> rfl
@[simp] theorem Wave.onSplit_rfence (w : Wave) (k : Nat) (g : Split → Split) : (w.onSplit k g).rfence = w.rfence := by
  unfold Wave.onSplit; split <;> rfl
@[simp] theorem Wave.onSplit_mticket (w : Wave) (k : Nat) (g : Split → Split) : (w.onSplit k g).mticket = w.mticket := by
  unfold Wave.onSplit; split <;> rfl
@[simp] theorem Wave.onSplit_mdone (w : Wave) (k : Nat) (g : Split → Split) : (w.onSplit k g).mdone = w.mdone := by
  unfold Wave.onSplit; split <;> rfl
@[simp] theorem Wave.onSplit_mdoneSet (w : Wave) (k : Nat) (g : Split → Split) : (w.onSplit k g).mdoneSet = w.mdoneSet := by
  unfold Wave.onSplit; split <;> rfl
@[simp] theorem Wave.onSplit_bhist (w : Wave) (k : Nat) (g : Split → Split) : (w.onSplit k g).bhist = w.bhist := by
  unfold Wave.onSplit; split <;> rfl
@[simp] theorem Wave.onSplit_latch (w : Wave) (k : Nat) (g : Split → Split) : (w.onSplit k g).latch = w.latch := by
  unfold Wave.onSplit; split <;> rfl
@[simp] theorem Wave.onSplit_windows (w : Wave) (k : Nat) (g : Split → Split) : (w.onSplit k g).windows = w.windows := by
  unfold Wave.onSplit; split <;> rfl
@[simp] theorem Wave.onSplit_nextOp (w : Wave) (k : Nat) (g : Split → Split) : (w.onSplit k g).nextOp = w.nextOp := by
  unfold Wave.onSplit; split <;> rfl
@[simp] theorem Wave.onSplit_ops (w : Wave) (k : Nat) (g : Split → Split) : (w.onSplit k g).ops = w.ops := by
  unfold Wave.onSplit; split <;> rfl
@[simp] theorem Wave.onSplit_queue (w : Wave) (k : Nat) (g : Split → Split) : (w.onSplit k g).queue = w.queue := by
  unfold Wave.onSplit; split <;> rfl
@[simp] theorem Wave.onSplit_run (w : Wave) (k : Nat) (g : Split → Split) : (w.onSplit k g).run = w.run := by
  unfold Wave.onSplit; split <;> rfl
@[simp] theorem Wave.onSplit_halt (w : Wave) (k : Nat) (g : Split → Split) : (w.onSplit k g).halt = w.halt := by
  unfold Wave.onSplit; split <;> rfl
@[simp] theorem Wave.onSplit_frame (w : Wave) (k : Nat) (g : Split → Split) : (w.onSplit k g).frame = w.frame := by
  unfold Wave.onSplit; split <;> rfl
@[simp] theorem Wave.onSplit_frameCause (w : Wave) (k : Nat) (g : Split → Split) : (w.onSplit k g).frameCause = w.frameCause := by
  unfold Wave.onSplit; split <;> rfl
@[simp] theorem Wave.onSplit_stepping (w : Wave) (k : Nat) (g : Split → Split) : (w.onSplit k g).stepping = w.stepping := by
  unfold Wave.onSplit; split <;> rfl
@[simp] theorem Wave.onSplit_stepped (w : Wave) (k : Nat) (g : Split → Split) : (w.onSplit k g).stepped = w.stepped := by
  unfold Wave.onSplit; split <;> rfl
@[simp] theorem Wave.onSplit_queries (w : Wave) (k : Nat) (g : Split → Split) : (w.onSplit k g).queries = w.queries := by
  unfold Wave.onSplit; split <;> rfl
@[simp] theorem Wave.onSplit_repack (w : Wave) (k : Nat) (g : Split → Split) : (w.onSplit k g).repack = w.repack := by
  unfold Wave.onSplit; split <;> rfl
@[simp] theorem Wave.onSplit_flow (w : Wave) (k : Nat) (g : Split → Split) : (w.onSplit k g).flow = w.flow := by
  unfold Wave.onSplit; split <;> rfl
@[simp] theorem Wave.onSplit_depth (w : Wave) (k : Nat) (g : Split → Split) : (w.onSplit k g).depth = w.depth := by
  unfold Wave.onSplit; split <;> rfl
@[simp] theorem Wave.onSplit_issued (w : Wave) (k : Nat) (g : Split → Split) : (w.onSplit k g).issued = w.issued := by
  unfold Wave.onSplit; split <;> rfl
@[simp] theorem Wave.onSplit_loghead (w : Wave) (k : Nat) (g : Split → Split) : (w.onSplit k g).loghead = w.loghead := by
  unfold Wave.onSplit; split <;> rfl
@[simp] theorem Wave.onSplit_loglost (w : Wave) (k : Nat) (g : Split → Split) : (w.onSplit k g).loglost = w.loglost := by
  unfold Wave.onSplit; split <;> rfl
@[simp] theorem Wave.onSplit_mendDone (w : Wave) (k : Nat) (g : Split → Split) : (w.onSplit k g).mendDone = w.mendDone := by
  unfold Wave.onSplit; split <;> rfl
@[simp] theorem Wave.onSplit_quadOf (w : Wave) (k : Nat) (g : Split → Split) : (w.onSplit k g).quadOf = w.quadOf := by
  unfold Wave.onSplit; split <;> rfl
@[simp] theorem Wave.onSplit_colour (w : Wave) (k : Nat) (g : Split → Split) : (w.onSplit k g).colour = w.colour := by
  unfold Wave.onSplit; split <;> rfl
@[simp] theorem Wave.onSplit_digest (w : Wave) (k : Nat) (g : Split → Split) : (w.onSplit k g).digest = w.digest := by
  unfold Wave.onSplit; split <;> rfl

end Sys2Proof.Machine
end

