-- ==== Sys2Proof/Laws/Issue.lean ====
section
/-! SUPPORT. What the shared operations of an instruction's issue do: `issueWith`, `prepare`, `forced`, `advance`, `takeStop`. -/

namespace Sys2Proof.Machine

/-! ## issueWith -/

/-- With no live split, nothing issues. -/
theorem State.issueWith_none (s : State) (u : Uses) (act : Wave → Split → State → State) (h : s.issuing = none) :
    s.issueWith u act = s := by simp [State.issueWith, h]

/-- An outstanding write stands against an instruction: it waits (05 R130). -/
theorem State.issueWith_busy {s : State} {u : Uses} {w : Wave} {sp : Split} (act : Wave → Split → State → State)
    (h : s.issuing = some (w, sp)) (hb : w.busy sp u = true) : s.issueWith u act = s := by simp [State.issueWith, h, hb]

/-- A stop at issue (05 R123, R127). -/
theorem State.issueWith_error {s : State} {u : Uses} {w : Wave} {sp : Split} {c : StopCause} (act : Wave → Split → State → State)
    (h : s.issuing = some (w, sp)) (hb : w.busy sp u = false)
    (hp : s.prepare s.cur.core s.cur.wave w sp u = .error c) :
    s.issueWith u act = if c = .poisonRegister then s.stopWith { cause := .poisonRegister } else s.stopHere c := by
  simp only [State.issueWith, h, hb, hp]
  cases c <;> simp

/-- Otherwise the instruction acts, on the state that `readied` gives. -/
theorem State.issueWith_ok {s : State} {u : Uses} {w w' : Wave} {sp : Split} (act : Wave → Split → State → State)
    (h : s.issuing = some (w, sp)) (hb : w.busy sp u = false) (hp : s.prepare s.cur.core s.cur.wave w sp u = .ok w') :
    s.issueWith u act = act (w.seen sp s.free) sp (s.readied u w w') := by
  simp [State.issueWith, h, hb, hp]

/-! ## breakWindows and readied -/

/-- `loseAcc` changes accumulator elements of one group and draws free values. -/
theorem State.loseAcc_frame (s : State) (g lo hi : Nat) :
    ∃ gs n, s.loseAcc g lo hi = { s with groups := gs, free := n } := by
  unfold State.loseAcc State.onGroup
  cases s.group g <;> exact ⟨_, _, rfl⟩

/-- A fold of them does too. -/
theorem State.loseAcc_fold (l : List MmaWindow) (s : State) :
    ∃ gs n, l.foldl (fun s x => s.loseAcc x.grp x.dlo x.dhi) s = { s with groups := gs, free := n } := by
  induction l generalizing s with
  | nil => exact ⟨_, _, rfl⟩
  | cons x l ih =>
    obtain ⟨gs, n, h⟩ := State.loseAcc_frame s x.grp x.dlo x.dhi
    obtain ⟨gs', n', h'⟩ := ih (s.loseAcc x.grp x.dlo x.dhi)
    exact ⟨gs', n', by rw [List.foldl_cons, h', h]⟩

/-- `breakWindows` changes the wave's windows, accumulator elements and the count of draws. -/
theorem State.breakWindows_frame {s : State} {c i : Nat} {w : Wave} (p : MmaWindow → Bool) (h : s.wave c i = some w) :
    ∃ ws gs n, s.breakWindows c i p = { s.setWave c i (some { w with windows := ws }) with groups := gs, free := n } := by
  simp only [State.breakWindows, h]
  obtain ⟨gs, n, h'⟩ := State.loseAcc_fold (w.windows.filter (fun x => p x && x.done)) (s.onWave c i (fun w =>
      { w with windows := w.windows.map (fun x => if p x && !x.done then { x with undef := true } else x) }))
  refine ⟨w.windows.map (fun x => if p x && !x.done then { x with undef := true } else x), gs, n, ?_⟩
  rw [h']
  simp [State.onWave, h]

/-- `readied` is the state with the prepared wave, but for its windows, what its split has seen of scalars, accumulator elements and the
count of draws. -/
theorem State.readied_frame (s : State) (u : Uses) (w w' : Wave) :
    ∃ ws gs n, s.readied u w w' =
      { s.setWave s.cur.core s.cur.wave (some { w'.noteSeen s.cur.split s.free u.sr with windows := ws }) with
        groups := gs, free := n } := by
  obtain ⟨ws, gs, n, h⟩ := State.breakWindows_frame
    (s := s.setWave s.cur.core s.cur.wave (some (w'.noteSeen s.cur.split s.free u.sr))) (c := s.cur.core)
    (i := s.cur.wave) (fun x => x.hit (u.vw ++ u.vfree)) (State.wave_setWave_self ..)
  have hset : ∀ x y : Wave, (s.setWave s.cur.core s.cur.wave (some y)).setWave s.cur.core s.cur.wave (some x) =
      s.setWave s.cur.core s.cur.wave (some x) := by
    intro x y
    simp [State.setWave, Table.set, Table.erase_insert_erase, noneAt]
  unfold State.readied
  simp only [h, hset]
  split
  · exact ⟨ws, gs, n, rfl⟩
  · exact ⟨ws, gs, n + 1024, rfl⟩

end Sys2Proof.Machine
end

