-- ==== Sys2Proof/Laws/Registers.lean ====
section
/-! SUPPORT. What writing, unbinding, spilling and preparing registers does to a wave, and the algebra of `reissued`, the state in which
only the issuing wave, groups and the count of draws have changed. -/

namespace Sys2Proof.Machine

/-! ## reissued -/

section
variable (s : State) (v : Wave) (gs : Table (Option Group)) (n : Nat)

@[simp] theorem State.reissued_cur : (s.reissued v gs n).cur = s.cur := rfl
@[simp] theorem State.reissued_free : (s.reissued v gs n).free = n := rfl
@[simp] theorem State.reissued_groups : (s.reissued v gs n).groups = gs := rfl
@[simp] theorem State.reissued_wave : (s.reissued v gs n).wave s.cur.core s.cur.wave = some v := by
  simp [State.wave, State.reissued, State.setWave]
@[simp] theorem State.reissued_setFree (m : Nat) : { s.reissued v gs n with free := m } = s.reissued v gs m := rfl

@[simp] theorem State.reissued_setWave (x : Wave) :
    (s.reissued v gs n).setWave s.cur.core s.cur.wave (some x) = s.reissued x gs n := by
  simp [State.reissued, State.setWave, Table.set_set]

@[simp] theorem State.reissued_onIssuer (f : Wave → Wave) : (s.reissued v gs n).onIssuer f = s.reissued (f v) gs n := by
  simp [State.onIssuer, State.onWave]

@[simp] theorem State.reissued_issuing :
    (s.reissued v gs n).issuing = (v.split s.cur.split).map (fun sp => (v, sp)) := by
  simp [State.issuing]

@[simp] theorem State.reissued_onIssuingSplit (f : Split → Split) :
    (s.reissued v gs n).onIssuingSplit f = s.reissued (v.onSplit s.cur.split f) gs n := by
  simp [State.onIssuingSplit]

@[simp] theorem State.reissued_advance (h : s.cur.svc = none) :
    (s.reissued v gs n).advance =
      s.reissued (v.onSplit s.cur.split (fun sp => sp.retire s.cur.aux s.cur.caddr s.cur.next)) gs n := by
  simp [State.advance, h]
end

/-- A quantity that no step of a fold changes. -/
theorem foldl_keeps {α β γ : Type} (g : α → γ) (f : α → β → α) (h : ∀ a b, g (f a b) = g a) (l : List β) (a : α) :
    g (l.foldl f a) = g a := by
  induction l generalizing a with
  | nil => rfl
  | cons b l ih => rw [List.foldl_cons, ih, h]

/-! ## Lanes of registers -/

theorem Wave.keepOld_v (w : Wave) (r i r' i' : Nat) : (w.keepOld r i).v r' i' = w.v r' i' := by
  unfold Wave.keepOld; split <;> rfl

theorem Wave.keepOld_vregs (w : Wave) (r i : Nat) : (w.keepOld r i).vregs = w.vregs := by
  unfold Wave.keepOld; split <;> rfl

theorem Wave.putLane_v (w : Wave) (r i : Nat) (x : Word) {r' i' : Nat} (hi : i < 64) (hi' : i' < 64) :
    (w.putLane r i x).v r' i' = if r' = r ∧ i' = i then x else w.v r' i' := by
  simp only [Wave.putLane, Wave.v, Wave.keepOld_vregs, Table.get_set]
  have : (64 * r' + i' = 64 * r + i) ↔ (r' = r ∧ i' = i) := by omega
  simp [this]

theorem Wave.putLane_sansRegs (w : Wave) (r i : Nat) (x : Word) : (w.putLane r i x).sansRegs = w.sansRegs := by
  unfold Wave.putLane Wave.keepOld; split <;> rfl

theorem Wave.putLane_s (w : Wave) (r i : Nat) (x : Word) (n : Nat) : (w.putLane r i x).s n = w.s n := by
  unfold Wave.putLane Wave.keepOld; split <;> rfl

theorem Wave.putLane_bound (w : Wave) (r i : Nat) (x : Word) (r' q : Nat) : (w.putLane r i x).bound r' q = w.bound r' q := by
  unfold Wave.putLane Wave.keepOld; split <;> rfl

theorem Wave.foldPut_v (w : Wave) (r : Nat) (l : List Nat) (f : Nat → Word) {r' i' : Nat} (hl : ∀ i ∈ l, i < 64)
    (hi' : i' < 64) : (l.foldl (fun w i => w.putLane r i (f i)) w).v r' i' = if r' = r ∧ i' ∈ l then f i' else w.v r' i' := by
  induction l generalizing w with
  | nil => simp
  | cons i l ih =>
    rw [List.foldl_cons, ih _ (fun j hj => hl j (List.mem_cons_of_mem _ hj)),
      Wave.putLane_v _ _ _ _ (hl i (List.mem_cons_self ..)) hi']
    by_cases h1 : r' = r
    · by_cases h2 : i' ∈ l
      · simp [h1, h2]
      · by_cases h3 : i' = i
        · simp [h1, h3]
        · simp [h1, h2, h3]
    · simp [h1]

theorem mem_lanesOf {m : Dword} {i : Nat} : i ∈ lanesOf m ↔ i < 64 ∧ m.getLsbD i = true := by
  simp [lanesOf]

/-! ## Unbinding -/

theorem Wave.unbindV_v (w : Wave) (r q : Nat) {r' i' : Nat} (hq : q < 16) (hi' : i' < 64) :
    (w.unbindV r q).v r' i' = if r' = r ∧ i' / 4 = q then 0 else w.v r' i' := by
  have h : ((List.range 4).foldl (fun w k => w.putLane r (4 * q + k) 0) w).v r' i' =
      if r' = r ∧ i' / 4 = q then 0 else w.v r' i' := by
    have := Wave.foldPut_v w r ((List.range 4).map (fun k => 4 * q + k)) (fun _ => 0) (r' := r') (i' := i')
      (by simp; omega) hi'
    rw [List.foldl_map] at this
    rw [this]
    have : i' ∈ (List.range 4).map (fun k => 4 * q + k) ↔ i' / 4 = q := by
      simp only [List.mem_map, List.mem_range]
      constructor
      · rintro ⟨k, hk, rfl⟩; omega
      · intro h; exact ⟨i' % 4, by omega, by omega⟩
    simp [this]
  unfold Wave.unbindV
  generalize (List.range 4).foldl (fun w k => w.putLane r (4 * q + k) 0) w = a at h ⊢
  dsimp only
  split <;> exact h

theorem Wave.unbindV_sansRegs (w : Wave) (r q : Nat) : (w.unbindV r q).sansRegs = w.sansRegs := by
  have h : ((List.range 4).foldl (fun w k => w.putLane r (4 * q + k) 0) w).sansRegs = w.sansRegs :=
    foldl_keeps Wave.sansRegs _ (fun _ _ => Wave.putLane_sansRegs ..) _ _
  unfold Wave.unbindV
  generalize (List.range 4).foldl (fun w k => w.putLane r (4 * q + k) 0) w = a at h ⊢
  dsimp only
  split <;> exact h

theorem Wave.unbindV_s (w : Wave) (r q n : Nat) : (w.unbindV r q).s n = w.s n := by
  have h : ((List.range 4).foldl (fun w k => w.putLane r (4 * q + k) 0) w).s n = w.s n :=
    foldl_keeps (fun w => Wave.s w n) _ (fun _ _ => Wave.putLane_s ..) _ _
  unfold Wave.unbindV
  generalize (List.range 4).foldl (fun w k => w.putLane r (4 * q + k) 0) w = a at h ⊢
  dsimp only
  split <;> exact h

theorem Wave.unbindS_v (w : Wave) (n r i : Nat) : (w.unbindS n).v r i = w.v r i := by
  unfold Wave.unbindS; dsimp only; split <;> rfl

theorem Wave.unbindS_sansRegs (w : Wave) (n : Nat) : (w.unbindS n).sansRegs = w.sansRegs := by
  unfold Wave.unbindS; dsimp only; split <;> rfl

theorem Wave.unbindS_s (w : Wave) (n k : Nat) : (w.unbindS n).s k = if k = n then 0 else w.s k := by
  have h : Table.get zeroWord (Table.set zeroWord w.sregs n 0) k = if k = n then 0 else Table.get zeroWord w.sregs k := by
    rw [Table.get_set]
  unfold Wave.unbindS
  dsimp only
  split <;> exact h

theorem Wave.unbindVs_v (w : Wave) (rs : List Nat) (q : Nat) {r' i' : Nat} (hq : q < 16) (hi' : i' < 64) :
    (rs.foldl (fun w r => w.unbindV r q) w).v r' i' = if r' ∈ rs ∧ i' / 4 = q then 0 else w.v r' i' := by
  induction rs generalizing w with
  | nil => simp
  | cons r rs ih =>
    rw [List.foldl_cons, ih, Wave.unbindV_v _ _ _ hq hi']
    by_cases h1 : i' / 4 = q <;> by_cases h2 : r' ∈ rs <;> by_cases h3 : r' = r <;> simp [h1, h2, h3]

theorem Wave.unbindQs_v (w : Wave) (rs qs : List Nat) {r' i' : Nat} (hq : ∀ q ∈ qs, q < 16) (hi' : i' < 64) :
    (qs.foldl (fun w q => rs.foldl (fun w r => w.unbindV r q) w) w).v r' i' =
      if r' ∈ rs ∧ i' / 4 ∈ qs then 0 else w.v r' i' := by
  induction qs generalizing w with
  | nil => simp
  | cons q qs ih =>
    rw [List.foldl_cons, ih _ (fun j hj => hq j (List.mem_cons_of_mem _ hj)),
      Wave.unbindVs_v _ _ _ (hq q (List.mem_cons_self ..)) hi']
    by_cases h1 : i' / 4 = q <;> by_cases h2 : r' ∈ rs <;> by_cases h3 : i' / 4 ∈ qs <;> simp [h1, h2, h3]

theorem Wave.unbindSs_s (w : Wave) (ns : List Nat) (k : Nat) :
    (ns.foldl (fun w n => w.unbindS n) w).s k = if k ∈ ns then 0 else w.s k := by
  induction ns generalizing w with
  | nil => simp
  | cons n ns ih =>
    rw [List.foldl_cons, ih, Wave.unbindS_s]
    by_cases h1 : k = n <;> by_cases h2 : k ∈ ns <;> simp [h1, h2]

/-! ## Spills -/

/-- Spilling moves no value. -/
structure Wave.Keeps (w w' : Wave) : Prop where
  rest : w'.sansRegs = w.sansRegs
  v : w'.vregs = w.vregs
  s : w'.sregs = w.sregs

theorem Wave.Keeps.refl (w : Wave) : w.Keeps w := ⟨rfl, rfl, rfl⟩

theorem Wave.Keeps.trans {a b c : Wave} (h : a.Keeps b) (k : b.Keeps c) : a.Keeps c :=
  ⟨k.rest.trans h.rest, k.v.trans h.v, k.s.trans h.s⟩

theorem Wave.makeRoomV_keeps (room need : Nat → Nat) (keep : List Nat) (n : Nat) (w : Wave) :
    w.Keeps (Wave.makeRoomV room need keep n w) := by
  induction n generalizing w with
  | zero => exact .refl w
  | succ n ih =>
    simp only [Wave.makeRoomV]
    split
    · exact .refl w
    · split
      · exact .refl w
      · next r _ => exact .trans (b := { w with vspilled := Table.set falseAt w.vspilled r true }) ⟨rfl, rfl, rfl⟩ (ih _)

theorem Wave.makeRoomS_keeps (room need : Nat) (keep : List Nat) (n : Nat) (w : Wave) :
    w.Keeps (Wave.makeRoomS room need keep n w) := by
  induction n generalizing w with
  | zero => exact .refl w
  | succ n ih =>
    simp only [Wave.makeRoomS]
    split
    · exact .refl w
    · split
      · exact .refl w
      · next r _ => exact .trans (b := { w with sspilled := Table.set falseAt w.sspilled r true }) ⟨rfl, rfl, rfl⟩ (ih _)

theorem State.reload_keeps (s : State) (c i : Nat) (w : Wave) (u : Uses) : w.Keeps (s.reload c i w u) := by
  unfold State.reload
  have h1 : ∀ x : Wave, w.Keeps x → w.Keeps (if (u.blocks.filter (fun b => Table.get falseAt x.sspilled b)) = [] then x
      else
        let y := Wave.makeRoomS (s.roomS c i x) (u.blocks.filter (fun b => Table.get falseAt x.sspilled b)).length u.blocks 256 x
        { y with sspilled := (u.blocks.filter (fun b => Table.get falseAt x.sspilled b)).foldl (fun t b => Table.set falseAt t b false) y.sspilled }) := by
    intro x hx
    split
    · exact hx
    · exact hx.trans ((Wave.makeRoomS_keeps ..).trans ⟨rfl, rfl, rfl⟩)
  apply h1
  split
  · exact .refl w
  · exact (Wave.makeRoomV_keeps ..).trans ⟨rfl, rfl, rfl⟩

theorem State.makeRoom_keeps (s : State) (c i : Nat) (w : Wave) (qs : List Nat) (u : Uses) :
    w.Keeps (s.makeRoom c i w qs u) := by
  unfold State.makeRoom
  have h1 : ∀ (x : Wave) (k : Nat), w.Keeps x → w.Keeps (if k = 0 then x else Wave.makeRoomS (s.roomS c i x) k u.blocks 256 x) := by
    intro x k hx
    split
    · exact hx
    · exact hx.trans (Wave.makeRoomS_keeps ..)
  apply h1
  split
  · exact .refl w
  · exact Wave.makeRoomV_keeps ..

theorem Wave.mem_ownQuads {w : Wave} {sp : Split} {q : Nat} (h : q ∈ w.ownQuads sp) : q < 16 := by
  simp only [Wave.ownQuads, quadsOf, List.mem_filter, List.mem_range] at h
  exact h.1.1

/-- What an instruction's issue does before it acts: the marked registers read 0 in the quads of the split's own, the marked scalars
read 0, and nothing else of the wave changes but what follows the register files. -/
theorem State.prepare_ok {s : State} {c i : Nat} {w w' : Wave} {sp : Split} {u : Uses} (h : s.prepare c i w sp u = .ok w') :
    w'.sansRegs = w.sansRegs ∧
    (∀ r k, k < 64 → w'.v r k = if r ∈ u.vfree ∧ k / 4 ∈ w.ownQuads sp then 0 else w.v r k) ∧
    (∀ n, w'.s n = if n ∈ u.sfree then 0 else w.s n) := by
  unfold State.prepare at h
  split at h
  · cases h
  · split at h
    · cases h
    · have h0 := State.reload_keeps s c i w u
      generalize s.reload c i w u = a at h h0
      have hq : a.ownQuads sp = w.ownQuads sp := by
        have e : a.liveLanes = w.liveLanes := by
          have := h0.rest
          have h1 := congrArg Wave.width this
          have h2 := congrArg Wave.exited this
          simp only [Wave.sansRegs] at h1 h2
          simp [Wave.liveLanes, h1, h2]
        simp [Wave.ownQuads, e]
      simp only at h
      split at h
      · cases h
      · cases h
        have hk := State.makeRoom_keeps s c i (u.sfree.foldl (fun w n => w.unbindS n)
          ((a.ownQuads sp).foldl (fun w q => u.vfree.foldl (fun w r => w.unbindV r q) w) a)) (quadsOf sp.lanes) u
        refine ⟨?_, ?_, ?_⟩
        · refine Eq.trans (b := Wave.sansRegs (s.makeRoom c i _ (quadsOf sp.lanes) u)) rfl ?_
          rw [hk.rest, foldl_keeps Wave.sansRegs _ (fun _ _ => Wave.unbindS_sansRegs ..),
            foldl_keeps Wave.sansRegs _ (fun _ _ => foldl_keeps Wave.sansRegs _ (fun _ _ => Wave.unbindV_sansRegs ..) _ _),
            h0.rest]
        · intro r k hk'
          refine Eq.trans (b := Wave.v (s.makeRoom c i _ (quadsOf sp.lanes) u) r k) rfl ?_
          rw [Wave.v, hk.v, ← Wave.v, foldl_keeps (fun w => Wave.v w r k) _ (fun _ _ => Wave.unbindS_v ..),
            Wave.unbindQs_v _ _ _ (fun q hq' => Wave.mem_ownQuads hq') hk', hq]
          rw [Wave.v, h0.v]; rfl
        · intro n
          refine Eq.trans (b := Wave.s (s.makeRoom c i _ (quadsOf sp.lanes) u) n) rfl ?_
          rw [Wave.s, hk.s, ← Wave.s, Wave.unbindSs_s,
            foldl_keeps (fun w => Wave.s w n) _ (fun _ _ => foldl_keeps (fun w => Wave.s w n) _ (fun _ _ => Wave.unbindV_s ..) _ _)]
          rw [Wave.s, h0.s]; rfl

end Sys2Proof.Machine
end

