-- ==== Sys2Proof/Laws/Lanes.lean ====
section
/-! SUPPORT. What an instruction on registers does as a whole: `writeVs`, `readied`, `issueWith`, `forced`, and with them lanewise
instructions, masks and scalars. -/

namespace Sys2Proof.Machine

/-! ## Writing registers -/

theorem Wave.bind_v (w : Wave) (qs : List Nat) (r r' i : Nat) : (w.bind qs r).v r' i = w.v r' i := rfl
theorem Wave.bind_s (w : Wave) (qs : List Nat) (r n : Nat) : (w.bind qs r).s n = w.s n := rfl
theorem Wave.bind_sansRegs (w : Wave) (qs : List Nat) (r : Nat) : (w.bind qs r).sansRegs = w.sansRegs := rfl
theorem Wave.clearPoison_v (w : Wave) (r : Nat) (m : Dword) (r' i : Nat) : (w.clearPoison r m).v r' i = w.v r' i := rfl
theorem Wave.clearPoison_s (w : Wave) (r : Nat) (m : Dword) (n : Nat) : (w.clearPoison r m).s n = w.s n := rfl
theorem Wave.clearPoison_sansRegs (w : Wave) (r : Nat) (m : Dword) : (w.clearPoison r m).sansRegs = w.sansRegs := rfl
theorem Wave.clearPoison_bound (w : Wave) (r : Nat) (m : Dword) (r' q : Nat) : (w.clearPoison r m).bound r' q = w.bound r' q := rfl

theorem get_foldl_setTrue (t : Table Bool) (l : List Nat) (g : Nat → Nat) (k : Nat) :
    Table.get falseAt (l.foldl (fun t q => Table.set falseAt t (g q) true) t) k = (decide (k ∈ l.map g) || Table.get falseAt t k) := by
  induction l generalizing t with
  | nil => simp
  | cons q l ih =>
    rw [List.foldl_cons, ih, Table.get_set]
    by_cases h : k = g q <;> simp [h]

theorem Wave.bind_bound (w : Wave) (qs : List Nat) (r : Nat) {r' q : Nat} (hq : q < 16) (hqs : ∀ x ∈ qs, x < 16) :
    (w.bind qs r).bound r' q = (decide (r' = r ∧ q ∈ qs) || w.bound r' q) := by
  simp only [Wave.bound, Wave.bind, get_foldl_setTrue]
  congr 1
  simp only [decide_eq_decide, List.mem_map]
  constructor
  · rintro ⟨x, hx, h⟩
    have := hqs x hx
    have h2 : x = q := by omega
    subst h2
    exact ⟨by omega, hx⟩
  · rintro ⟨rfl, h⟩; exact ⟨q, h, rfl⟩

theorem mem_quadsOf {m : Dword} {q : Nat} (h : q ∈ quadsOf m) : q < 16 := by
  simp only [quadsOf, List.mem_filter, List.mem_range] at h; exact h.1

theorem foldPutPairs_v (w : Wave) (r k : Nat) (l : List Nat) (f : Nat → List Word) {r' i' : Nat} (hl : ∀ i ∈ l, i < 64) (hi' : i' < 64) :
    ((l.map (fun i => (i, f i))).foldl (fun w x => w.putLane r x.1 (x.2.getD k 0)) w).v r' i' =
      if r' = r ∧ i' ∈ l then (f i').getD k 0 else w.v r' i' := by
  rw [List.foldl_map]
  exact Wave.foldPut_v w r l (fun i => (f i).getD k 0) hl hi'

theorem foldPutPairs_sansRegs (w : Wave) (r k : Nat) (l : List (Nat × List Word)) :
    (l.foldl (fun w x => w.putLane r x.1 (x.2.getD k 0)) w).sansRegs = w.sansRegs :=
  foldl_keeps Wave.sansRegs _ (fun _ _ => Wave.putLane_sansRegs ..) _ _

theorem foldPutPairs_s (w : Wave) (r k : Nat) (l : List (Nat × List Word)) (n : Nat) :
    (l.foldl (fun w x => w.putLane r x.1 (x.2.getD k 0)) w).s n = w.s n :=
  foldl_keeps (fun w => Wave.s w n) _ (fun _ _ => Wave.putLane_s ..) _ _

theorem foldPutPairs_bound (w : Wave) (r k : Nat) (l : List (Nat × List Word)) (r' q : Nat) :
    (l.foldl (fun w x => w.putLane r x.1 (x.2.getD k 0)) w).bound r' q = w.bound r' q :=
  foldl_keeps (fun w => Wave.bound w r' q) _ (fun _ _ => Wave.putLane_bound ..) _ _

section
variable (w : Wave) (qs : List Nat) (run : Dword) (r n : Nat) (f : Nat → List Word)

theorem Wave.writeVs_sansRegs : (w.writeVs qs run r n f).sansRegs = w.sansRegs := by
  unfold Wave.writeVs
  refine foldl_keeps Wave.sansRegs _ (fun a k => ?_) _ _
  rw [Wave.clearPoison_sansRegs, foldPutPairs_sansRegs, Wave.bind_sansRegs]

theorem Wave.writeVs_s (k : Nat) : (w.writeVs qs run r n f).s k = w.s k := by
  unfold Wave.writeVs
  refine foldl_keeps (fun w => Wave.s w k) _ (fun a j => ?_) _ _
  rw [Wave.clearPoison_s, foldPutPairs_s, Wave.bind_s]

/-- What a write of n registers leaves: in the lanes of `run` the result's words, elsewhere what was there. -/
theorem Wave.writeVs_v {r' i : Nat} (hi : i < 64) :
    (w.writeVs qs run r n f).v r' i = if r ≤ r' ∧ r' < r + n ∧ run.getLsbD i = true then (f i).getD (r' - r) 0 else w.v r' i := by
  unfold Wave.writeVs
  generalize hm : (lanesOf run).map (fun i => (i, f i)) = vals
  induction n with
  | zero => simp; omega
  | succ n ih =>
    rw [List.range_succ, List.foldl_append]
    simp only [List.foldl_cons, List.foldl_nil]
    rw [Wave.clearPoison_v]
    rw [← hm, foldPutPairs_v _ _ _ _ _ (fun i hi => (mem_lanesOf.1 hi).1) hi, Wave.bind_v, hm, ih]
    simp only [mem_lanesOf]
    by_cases h1 : r' = r + n
    · subst h1
      by_cases h2 : run.getLsbD i = true
      · simp [hi, h2]
      · simp [h2]
    · by_cases h2 : run.getLsbD i = true
      · simp only [h1, false_and, if_false, h2, and_true]
        congr 1
        simp only [eq_iff_iff]; omega
      · simp [h1, h2]

theorem Wave.writeVs_bound (hqs : ∀ x ∈ qs, x < 16) {r' q : Nat} (hq : q < 16) :
    (w.writeVs qs run r n f).bound r' q = (decide (r ≤ r' ∧ r' < r + n ∧ q ∈ qs) || w.bound r' q) := by
  unfold Wave.writeVs
  generalize (lanesOf run).map (fun i => (i, f i)) = vals
  induction n with
  | zero =>
    have : ¬ (r ≤ r' ∧ r' < r + 0 ∧ q ∈ qs) := by rintro ⟨a, b, -⟩; omega
    rw [decide_eq_false this]; rfl
  | succ n ih =>
    rw [List.range_succ, List.foldl_append]
    simp only [List.foldl_cons, List.foldl_nil]
    rw [Wave.clearPoison_bound, foldPutPairs_bound, Wave.bind_bound _ _ _ hq hqs, ih]
    rw [← Bool.or_assoc, ← Bool.decide_or]
    congr 2
    simp only [eq_iff_iff]
    constructor
    · rintro (⟨h, h'⟩ | ⟨h, h', h''⟩)
      · exact ⟨by omega, by omega, h'⟩
      · exact ⟨by omega, by omega, h''⟩
    · rintro ⟨h, h', h''⟩
      by_cases e : r' = r + n
      · exact .inl ⟨e, h''⟩
      · exact .inr ⟨h, by omega, h''⟩
end

/-! ## readied -/

theorem loseAcc_groups (s : State) (g lo hi : Nat) (k : Nat) :
    ((s.loseAcc g lo hi).group k).map Group.sansAcc = (s.group k).map Group.sansAcc := by
  unfold State.loseAcc State.onGroup
  cases h : s.group g with
  | none => rfl
  | some x =>
    simp only [State.group, Table.get_set]
    split
    · next e => subst e; rw [State.group] at h; simp [h, Group.sansAcc]
    · rfl

/-- What the breaking of MMA windows changes besides them: accumulator elements, and the count of draws. -/
theorem State.breakWindows_ok (s : State) (v : Wave) (gs : Table (Option Group)) (n : Nat) (p : MmaWindow → Bool) :
    ∃ ws gs' n', (s.reissued v gs n).breakWindows s.cur.core s.cur.wave p = s.reissued { v with windows := ws } gs' n' ∧
      (∀ k, (Table.get noneAt gs' k).map Group.sansAcc = (Table.get noneAt gs k).map Group.sansAcc) ∧
      (v.windows = [] → ws = [] ∧ gs' = gs ∧ n' = n) := by
  unfold State.breakWindows
  simp only [State.reissued_wave]
  generalize hl : v.windows.filter (fun x => p x && x.done) = late
  have key : ∀ (l : List MmaWindow) (a : Wave) (gs : Table (Option Group)) (n : Nat), ∃ gs' n',
      l.foldl (fun s x => s.loseAcc x.grp x.dlo x.dhi) (s.reissued a gs n) = s.reissued a gs' n' ∧
      (∀ k, (Table.get noneAt gs' k).map Group.sansAcc = (Table.get noneAt gs k).map Group.sansAcc) ∧
      (l = [] → gs' = gs ∧ n' = n) := by
    intro l
    induction l with
    | nil => exact fun a gs n => ⟨gs, n, rfl, fun _ => rfl, fun _ => ⟨rfl, rfl⟩⟩
    | cons x l ih =>
      intro a gs n
      have h1 : ∃ gs1 n1, (s.reissued a gs n).loseAcc x.grp x.dlo x.dhi = s.reissued a gs1 n1 := by
        unfold State.loseAcc State.onGroup
        cases (s.reissued a gs n).group x.grp <;> exact ⟨_, _, rfl⟩
      obtain ⟨gs1, n1, h1⟩ := h1
      have h2 : ∀ k, (Table.get noneAt gs1 k).map Group.sansAcc = (Table.get noneAt gs k).map Group.sansAcc := by
        intro k
        have := loseAcc_groups (s.reissued a gs n) x.grp x.dlo x.dhi k
        rw [h1] at this
        exact this
      obtain ⟨gs', n', h3, h4, -⟩ := ih a gs1 n1
      exact ⟨gs', n', by rw [List.foldl_cons, h1, h3], fun k => (h4 k).trans (h2 k), fun h => absurd h (by simp)⟩
  have h0 : (s.reissued v gs n).onWave s.cur.core s.cur.wave (fun w =>
      { w with windows := w.windows.map (fun x => if p x && !x.done then { x with undef := true } else x) }) =
      s.reissued { v with windows := v.windows.map (fun x => if p x && !x.done then { x with undef := true } else x) } gs n := by
    simp only [State.onWave, State.reissued_wave, State.reissued_setWave]
  rw [h0]
  obtain ⟨gs', n', h1, h2, h3⟩ := key late
    { v with windows := v.windows.map (fun x => if p x && !x.done then { x with undef := true } else x) } gs n
  refine ⟨_, gs', n', h1, h2, fun hv => ?_⟩
  obtain ⟨a, b⟩ := h3 (by rw [← hl, hv]; rfl)
  exact ⟨by rw [hv]; rfl, a, b⟩

theorem State.setWave_reissued (s : State) (v : Wave) :
    s.setWave s.cur.core s.cur.wave (some v) = s.reissued v s.groups s.free := rfl

/-- What a split sees of scalars changes nothing else. -/
theorem Wave.inSplit_sansRegs (w : Wave) (k : Nat) (f : Split → Split) (hf : ∀ sp, (f sp).sansSeen = sp.sansSeen) :
    (w.inSplit k f).sansRegs = w.sansRegs := by
  have e : (w.inSplit k f).splits.map (fun e => (e.1, e.2.map Split.sansSeen)) = w.splits.map (fun e => (e.1, e.2.map Split.sansSeen)) := by
    simp only [Wave.inSplit, List.map_map]
    refine List.map_congr_left fun x _ => ?_
    cases h : x.2 <;> by_cases hk : x.1 = k <;> simp [h, hk, hf]
  unfold Wave.sansRegs
  rw [e]; rfl

theorem Wave.noteSeen_sansRegs (w : Wave) (k m : Nat) (names : List Nat) : (w.noteSeen k m names).sansRegs = w.sansRegs := by
  unfold Wave.noteSeen
  split
  · rfl
  · exact Wave.inSplit_sansRegs _ _ _ (fun _ => rfl)

theorem Wave.noteSeen_v (w : Wave) (k m : Nat) (names : List Nat) (r i : Nat) : (w.noteSeen k m names).v r i = w.v r i := by
  unfold Wave.noteSeen; split <;> rfl

theorem Wave.noteSeen_s (w : Wave) (k m : Nat) (names : List Nat) (n : Nat) : (w.noteSeen k m names).s n = w.s n := by
  unfold Wave.noteSeen; split <;> rfl

theorem Wave.noteSeen_windows (w : Wave) (k m : Nat) (names : List Nat) : (w.noteSeen k m names).windows = w.windows := by
  unfold Wave.noteSeen; split <;> rfl

/-- The state in which an instruction's writes take place. -/
theorem State.readied_ok (s : State) (u : Uses) (w w' : Wave) :
    ∃ ws gs n, s.readied u w w' = s.reissued { w'.noteSeen s.cur.split s.free u.sr with windows := ws } gs n ∧
      (∀ k, (Table.get noneAt gs k).map Group.sansAcc = (s.group k).map Group.sansAcc) ∧
      (w'.windows = [] → gs = s.groups) := by
  obtain ⟨ws, gs, n, h1, h2, h3⟩ := State.breakWindows_ok s (w'.noteSeen s.cur.split s.free u.sr) s.groups s.free
    (fun x => x.hit (u.vw ++ u.vfree))
  rw [Wave.noteSeen_windows] at h3
  unfold State.readied
  rw [State.setWave_reissued, h1]
  split
  · exact ⟨ws, gs, n, rfl, h2, fun h => (h3 h).2.1⟩
  · exact ⟨ws, gs, n + 1024, rfl, h2, fun h => (h3 h).2.1⟩

/-! ## issueWith, as a whole -/

/-- The wave that an instruction's action starts from: `a` is it, with its marks acted. -/
structure Wave.Marked (w a : Wave) (sp : Split) (u : Uses) : Prop where
  rest : a.sansRegs = w.sansRegs
  v : ∀ r k, k < 64 → a.v r k = if r ∈ u.vfree ∧ k / 4 ∈ w.ownQuads sp then 0 else w.v r k
  s : ∀ n, a.s n = if n ∈ u.sfree then 0 else w.s n

/-- An instruction that nothing holds back acts from the wave with its marks acted. -/
theorem State.issueWith_acts {s : State} {u : Uses} {w w' : Wave} {sp : Split} (act : Wave → Split → State → State)
    (h : s.issuing = some (w, sp)) (hb : w.busy sp u = false) (hp : s.prepare s.cur.core s.cur.wave w sp u = .ok w') :
    ∃ a gs n, w.Marked a sp u ∧ (∀ k, (Table.get noneAt gs k).map Group.sansAcc = (s.group k).map Group.sansAcc) ∧
      s.issueWith u act = act (w.seen sp s.free) sp (s.reissued a gs n) := by
  obtain ⟨h1, h2, h3⟩ := State.prepare_ok hp
  obtain ⟨ws, gs, n, h4, h5, -⟩ := State.readied_ok s u w w'
  exact ⟨{ w'.noteSeen s.cur.split s.free u.sr with windows := ws }, gs, n,
    ⟨(Wave.noteSeen_sansRegs w' s.cur.split s.free u.sr).trans h1,
      fun r k hk => (Wave.noteSeen_v w' s.cur.split s.free u.sr r k).trans (h2 r k hk),
      fun n => (Wave.noteSeen_s w' s.cur.split s.free u.sr n).trans (h3 n)⟩, h5, by rw [State.issueWith_ok act h hb hp, h4]⟩

/-- Waves that agree beside their registers agree on their splits, beside what those have seen of scalars. -/
theorem Wave.sansRegs_split {a w : Wave} (h : a.sansRegs = w.sansRegs) (k : Nat) :
    (a.split k).map Split.sansSeen = (w.split k).map Split.sansSeen := by
  have e := congrArg (fun x : Wave => Table.get noneAt x.splits k) h
  simp only [Wave.sansRegs, Table.get, Table.look_map] at e
  cases ha : Table.look a.splits k <;> cases hw : Table.look w.splits k <;>
    simp_all [Wave.split, Table.get, noneAt]

theorem Wave.sansRegs_splitSome {a w : Wave} {k : Nat} {sp : Split} (h : a.sansRegs = w.sansRegs) (hs : w.split k = some sp) :
    ∃ x, a.split k = some x ∧ x.sansSeen = sp.sansSeen := by
  have e := Wave.sansRegs_split h k
  rw [hs] at e
  cases ha : a.split k with
  | none => simp [ha] at e
  | some x => exact ⟨x, rfl, by simpa [ha] using e⟩

/-- Going on keeps what a split has seen of scalars. -/
theorem Split.retire_sansSeen (sp : Split) (aux : Option Aux) (last next : Dword) :
    (sp.retire aux last next).sansSeen = sp.sansSeen.retire aux last next := by
  unfold Split.retire Split.advance Split.sansSeen
  split <;> (try split) <;> (try split) <;> (try split) <;> first | rfl | simp_all

theorem Split.retire_congr {x y : Split} (h : x.sansSeen = y.sansSeen) (aux : Option Aux) (last next : Dword) :
    (x.retire aux last next).sansSeen = (y.retire aux last next).sansSeen := by
  rw [Split.retire_sansSeen, h, Split.retire_sansSeen]

theorem State.issuing_split {s : State} {w : Wave} {sp : Split} (h : s.issuing = some (w, sp)) :
    s.wave s.cur.core s.cur.wave = some w ∧ w.split s.cur.split = some sp := by
  unfold State.issuing at h
  split at h
  · next x hx =>
    cases hs : x.split s.cur.split with
    | none => simp [hs] at h
    | some y => simp [hs] at h; obtain ⟨rfl, rfl⟩ := h; exact ⟨hx, hs⟩
  · cases h

theorem Wave.setSplit_v (w : Wave) (k : Nat) (x : Option Split) (r i : Nat) : (w.setSplit k x).v r i = w.v r i := rfl
theorem Wave.setSplit_s (w : Wave) (k : Nat) (x : Option Split) (n : Nat) : (w.setSplit k x).s n = w.s n := rfl
theorem Wave.setSplit_bound (w : Wave) (k : Nat) (x : Option Split) (r q : Nat) : (w.setSplit k x).bound r q = w.bound r q := rfl

theorem Wave.setSplit_sansRegs {v w : Wave} (h : v.sansRegs = w.sansRegs) (k : Nat) {x y : Split} (hx : x.sansSeen = y.sansSeen) :
    (v.setSplit k (some x)).sansRegs = (w.setSplit k (some y)).sansRegs := by
  have e : ∀ (v : Wave) (x : Split), (v.setSplit k (some x)).sansRegs = v.sansRegs.setSplit k (some x.sansSeen) := by
    intro v x
    have := Table.set_mapOpt v.splits Split.sansSeen k (some x)
    simp only [Wave.setSplit, Wave.sansRegs]
    rw [← this]; rfl
  rw [e, e, h, hx]

/-! ## Lanewise instructions -/

/-- A wide use reads no poison where `farPoison` finds none. -/
theorem State.issueF_acts {s : State} {op : FOp} {f : FArgs} {w w' : Wave} {sp : Split} (act : Wave → Split → State → State)
    (h : s.issuing = some (w, sp)) (hb : w.busy sp (op.uses f) = false)
    (hp : s.prepare s.cur.core s.cur.wave w sp (op.uses f) = .ok w')
    (hq : f.cls ≠ 0 → w.farPoison op f sp ((lanesOf (w.runOf sp f.g)).map f.modLane) = false) :
    ∃ a gs n, w.Marked a sp (op.uses f) ∧ (∀ k, (Table.get noneAt gs k).map Group.sansAcc = (s.group k).map Group.sansAcc) ∧
      s.issueF op f act = act (w.seen sp s.free) sp (s.reissued a gs n) := by
  unfold State.issueF State.issueFar
  split
  · exact State.issueWith_acts act h hb hp
  · next hc =>
    obtain ⟨a, gs, n, h1, h2, h3⟩ := State.issueWith_acts (fun w sp t =>
      if w.farPoison op f sp ((lanesOf (w.runOf sp f.g)).map f.modLane) then s.stopWith { cause := .poisonRegister } else act w sp t) h hb hp
    have e : (w.seen sp s.free).farPoison op f sp ((lanesOf ((w.seen sp s.free).runOf sp f.g)).map f.modLane) = false := hq hc
    exact ⟨a, gs, n, h1, h2, by rw [h3]; simp [e]⟩

/-- A lanewise instruction that nothing holds back. -/
theorem State.lanewise_next {s s₁ : State} {op : FOp} {f : FArgs} {w w' : Wave} {sp : Split}
    (res : Wave → Split → Nat → Nat → List Word) (hf : ∀ act, s.forced f.width act = act s₁) (hc : s₁.cur.svc = none)
    (h : s₁.issuing = some (w, sp)) (hb : w.busy sp (op.uses f) = false)
    (hp : s₁.prepare s₁.cur.core s₁.cur.wave w sp (op.uses f) = .ok w')
    (hq : f.cls ≠ 0 → w.farPoison op f sp ((lanesOf (w.runOf sp f.g)).map f.modLane) = false) :
    ∃ v gs n m, s.lanewise op f res = s₁.reissued v gs n ∧
      (∀ k, (Table.get noneAt gs k).map Group.sansAcc = (s₁.group k).map Group.sansAcc) ∧
      v.sansRegs = (w.setSplit s₁.cur.split (some (sp.retire s₁.cur.aux s₁.cur.caddr s₁.cur.next))).sansRegs ∧
      (∀ k, v.s k = w.s k) ∧
      (∀ r i, i < 64 → v.v r i =
        if f.d.toNat ≤ r ∧ r < f.d.toNat + op.dCount f.b ∧ ((w.seen sp s₁.free).runOf sp f.g).getLsbD i = true then
          (res (w.seen sp s₁.free) sp m i).getD (r - f.d.toNat) 0
        else if r ∈ (op.uses f).vfree ∧ i / 4 ∈ w.ownQuads sp then 0 else w.v r i) ∧
      (∀ r q, f.d.toNat ≤ r → r < f.d.toNat + op.dCount f.b → q ∈ quadsOf sp.lanes → v.bound r q = true) := by
  obtain ⟨a, gs, n, ha, hg, he⟩ := State.issueF_acts (op := op) (f := f) (fun w sp s =>
    let run := w.runOf sp f.g
    let n := s.free
    let s := s.onIssuer (fun x => x.writeVs (quadsOf sp.lanes) run f.d.toNat (op.dCount f.b) (res w sp n))
    (if f.cls = 0 then s else { s with free := s.free + 512 }).advance) h hb hp hq
  have hs := (State.issuing_split h).2
  unfold State.lanewise
  rw [hf, he]
  simp only [State.reissued_onIssuer, State.reissued_free, State.reissued_setFree]
  generalize hb' : a.writeVs (quadsOf sp.lanes) ((w.seen sp s₁.free).runOf sp f.g) f.d.toNat (op.dCount f.b)
      (res (w.seen sp s₁.free) sp n) = b
  have hr : b.sansRegs = w.sansRegs := by rw [← hb', Wave.writeVs_sansRegs, ha.rest]
  obtain ⟨x, hx, hxs⟩ := Wave.sansRegs_splitSome hr hs
  have key : ∀ m, (s₁.reissued b gs m).advance =
      s₁.reissued (b.setSplit s₁.cur.split (some (x.retire s₁.cur.aux s₁.cur.caddr s₁.cur.next))) gs m := by
    intro m
    rw [State.reissued_advance _ _ _ _ hc]
    simp [Wave.onSplit, hx]
  refine ⟨b.setSplit s₁.cur.split (some (x.retire s₁.cur.aux s₁.cur.caddr s₁.cur.next)), gs,
    if f.cls = 0 then n else n + 512, n, ?_, hg, ?_, ?_, ?_, ?_⟩
  · split <;> exact key _
  · exact Wave.setSplit_sansRegs hr _ (Split.retire_congr hxs ..)
  · intro k
    rw [Wave.setSplit_s, ← hb', Wave.writeVs_s, ha.s]
    simp [FOp.uses]
  · intro r i hi
    rw [Wave.setSplit_v, ← hb', Wave.writeVs_v _ _ _ _ _ _ hi, ha.v _ _ hi]
  · intro r q h1 h2 hq
    rw [Wave.setSplit_bound, ← hb', Wave.writeVs_bound _ _ _ _ _ _ (fun x hx => mem_quadsOf hx) (mem_quadsOf hq)]
    simp [h1, h2, hq]

/-! ## Scalars -/

theorem Wave.writeS_v (w : Wave) (k n : Nat) (x : Word) (r i : Nat) : (w.writeS k n x).v r i = w.v r i := by
  unfold Wave.writeS Wave.noteScalar; dsimp only; split <;> rfl

theorem Wave.noteScalar_sansRegs (w : Wave) (k n : Nat) (x : Word) : (w.noteScalar k n x).sansRegs = w.sansRegs := by
  unfold Wave.noteScalar
  dsimp only
  split
  · rfl
  · refine Eq.trans (Wave.inSplit_sansRegs _ k _ ?_) rfl
    intro sp; rfl

theorem Wave.writeS_sansRegs (w : Wave) (k n : Nat) (x : Word) : (w.writeS k n x).sansRegs = w.sansRegs :=
  Eq.trans (b := (w.noteScalar k n x).sansRegs) rfl (Wave.noteScalar_sansRegs w k n x)

theorem Wave.writeS_s (w : Wave) (k n : Nat) (x : Word) (j : Nat) : (w.writeS k n x).s j = if j = n then x else w.s j := by
  have h : Table.get zeroWord (Table.set zeroWord w.sregs n x) j = if j = n then x else Table.get zeroWord w.sregs j := by
    rw [Table.get_set]
  unfold Wave.writeS Wave.noteScalar; dsimp only; split <;> exact h

theorem Wave.writeS_sboundAt (w : Wave) (k n : Nat) (x : Word) (j : Nat) :
    (w.writeS k n x).sboundAt j = (decide (j = n) || w.sboundAt j) := by
  have h : Table.get falseAt (Table.set falseAt w.sbound n true) j = (decide (j = n) || Table.get falseAt w.sbound j) := by
    rw [Table.get_set]; by_cases e : j = n <;> simp [e]
  unfold Wave.writeS Wave.noteScalar; dsimp only; split <;> exact h

/-- The fold of `writeSs`, over any type of scalar file. -/
theorem foldWrite_s {σ : Type} (put : σ → Nat → Word → σ) (rd : σ → Nat → Word) (lim : Nat)
    (h : ∀ c n x j, j < lim → rd (put c n x) j = if j = n then x else rd c j) (c : σ) (n : Nat) (xs : List Word) (m : Nat) {j : Nat} (hj : j < lim) :
    rd ((List.range m).foldl (fun c k => put c (n + k) (xs.getD k 0)) c) j =
      if n ≤ j ∧ j < n + m then xs.getD (j - n) 0 else rd c j := by
  induction m with
  | zero => simp
  | succ m ih =>
    rw [List.range_succ, List.foldl_append]
    simp only [List.foldl_cons, List.foldl_nil]
    rw [h _ _ _ _ hj, ih]
    by_cases e : j = n + m
    · subst e; simp
    · simp only [e, if_false]
      congr 1
      simp only [eq_iff_iff]; omega

theorem Wave.writeSs_ok (w : Wave) (k n : Nat) (xs : List Word) :
    (w.writeSs k n xs).sansRegs = w.sansRegs ∧ (∀ r i, (w.writeSs k n xs).v r i = w.v r i) ∧
    (∀ j, (w.writeSs k n xs).s j = if n ≤ j ∧ j < n + xs.length then xs.getD (j - n) 0 else w.s j) ∧
    (∀ j, n ≤ j → j < n + xs.length → (w.writeSs k n xs).sboundAt j = true) := by
  have h1 : ((List.range xs.length).foldl (fun w j => w.writeS k (n + j) (xs.getD j 0)) w).sansRegs = w.sansRegs :=
    foldl_keeps Wave.sansRegs _ (fun _ _ => Wave.writeS_sansRegs ..) _ _
  have h2 : ∀ r i, ((List.range xs.length).foldl (fun w j => w.writeS k (n + j) (xs.getD j 0)) w).v r i = w.v r i :=
    fun r i => foldl_keeps (fun w => Wave.v w r i) _ (fun _ _ => Wave.writeS_v ..) _ _
  have h3 := fun j => foldWrite_s (fun w n x => Wave.writeS w k n x) Wave.s (j + 1) (fun c n x j _ => Wave.writeS_s c k n x j) w n xs xs.length (j := j) (by omega)
  have h4 : ∀ m j, n ≤ j → j < n + m → ((List.range m).foldl (fun w j => w.writeS k (n + j) (xs.getD j 0)) w).sboundAt j = true := by
    intro m
    induction m with
    | zero => omega
    | succ m ih =>
      intro j hj hm
      rw [List.range_succ, List.foldl_append]
      simp only [List.foldl_cons, List.foldl_nil]
      rw [Wave.writeS_sboundAt]
      by_cases e : j = n + m
      · simp [e]
      · rw [ih j hj (by omega)]; simp
  unfold Wave.writeSs
  dsimp only
  split
  · exact ⟨h1, h2, h3, h4 _⟩
  · exact ⟨h1, h2, h3, h4 _⟩

theorem State.reissued_putScalars (s : State) (v : Wave) (gs : Table (Option Group)) (n k : Nat) (xs : List Word) (h : s.cur.svc = none) :
    (s.reissued v gs n).putScalars k xs = s.reissued (v.writeSs s.cur.split k xs) gs n := by
  simp [State.putScalars, h]

/-- A scalar instruction of a wave that nothing holds back: its action writes scalars and replaces its split by `g` of it. -/
theorem State.scalars_next {s : State} {u : Uses} {w w' : Wave} {sp : Split} (h : s.issuing = some (w, sp))
    (hb : w.busy sp u = false) (hp : s.prepare s.cur.core s.cur.wave w sp u = .ok w') (hv : u.vfree = [])
    {act : Wave → Split → State → State} (d : Nat) (g : Split → Split) (res : List Word)
    (hg : ∀ x y : Split, x.sansSeen = y.sansSeen → (g x).sansSeen = (g y).sansSeen)
    (hact : ∀ (v : Wave) gs n, (∃ x, (v.writeSs s.cur.split d res).split s.cur.split = some x ∧ x.sansSeen = sp.sansSeen) →
      act (w.seen sp s.free) sp (s.reissued v gs n) =
        s.reissued ((v.writeSs s.cur.split d res).onSplit s.cur.split (fun x => (g x).retire s.cur.aux s.cur.caddr s.cur.next)) gs n) :
    ∃ v gs n, s.issueWith u act = s.reissued v gs n ∧
      (∀ k, (Table.get noneAt gs k).map Group.sansAcc = (s.group k).map Group.sansAcc) ∧
      v.sansRegs = (w.setSplit s.cur.split (some ((g sp).retire s.cur.aux s.cur.caddr s.cur.next))).sansRegs ∧
      (∀ r l, l < 64 → v.v r l = w.v r l) ∧
      (∀ k, v.s k = if d ≤ k ∧ k < d + res.length then res.getD (k - d) 0 else if k ∈ u.sfree then 0 else w.s k) ∧
      (∀ k, d ≤ k → k < d + res.length → v.sboundAt k = true) := by
  obtain ⟨a, gs, n, ha, hgs, he⟩ := State.issueWith_acts (u := u) act h hb hp
  have hs := (State.issuing_split h).2
  obtain ⟨k1, k2, k3, k4⟩ := Wave.writeSs_ok a s.cur.split d res
  obtain ⟨x, hx, hxs⟩ := Wave.sansRegs_splitSome (k1.trans ha.rest) hs
  rw [he, hact a gs n ⟨x, hx, hxs⟩]
  simp only [Wave.onSplit, hx]
  refine ⟨_, gs, n, rfl, hgs, Wave.setSplit_sansRegs (k1.trans ha.rest) _ (Split.retire_congr (hg x sp hxs) ..),
    fun r l hl => ?_, fun k => ?_, k4⟩
  · rw [Wave.setSplit_v, k2, ha.v r l hl, hv]; simp
  · rw [Wave.setSplit_s, k3, ha.s]

@[simp] theorem Wave.setSplit_split_self (w : Wave) (k : Nat) (y : Option Split) : (w.setSplit k y).split k = y := by
  simp [Wave.split, Wave.setSplit]

@[simp] theorem Wave.setSplit_setSplit (w : Wave) (k : Nat) (p q : Option Split) : (w.setSplit k p).setSplit k q = w.setSplit k q := by
  simp [Wave.setSplit, Table.set_set]

/-- Writing scalars and going on. -/
theorem State.reissued_putAdvance {s : State} {v : Wave} (gs : Table (Option Group)) (n d : Nat) (xs : List Word)
    (hc : s.cur.svc = none) :
    ((s.reissued v gs n).putScalars d xs).advance =
      s.reissued ((v.writeSs s.cur.split d xs).onSplit s.cur.split (fun x => x.retire s.cur.aux s.cur.caddr s.cur.next)) gs n := by
  rw [State.reissued_putScalars _ _ _ _ _ _ hc, State.reissued_advance _ _ _ _ hc]

/-- Changing the split and going on. -/
theorem State.reissued_splitAdvance {s : State} {v : Wave} {sp : Split} (gs : Table (Option Group)) (n : Nat) (g : Split → Split)
    (hc : s.cur.svc = none) (h : v.split s.cur.split = some sp) :
    ((s.reissued v gs n).onIssuingSplit g).advance =
      s.reissued (v.onSplit s.cur.split (fun x => (g x).retire s.cur.aux s.cur.caddr s.cur.next)) gs n := by
  rw [State.reissued_onIssuingSplit, State.reissued_advance _ _ _ _ hc]
  simp only [Wave.onSplit, h, Wave.setSplit_split_self, Wave.setSplit_setSplit]

theorem Wave.writeSs_nil (w : Wave) (k n : Nat) : w.writeSs k n [] = w := by
  simp [Wave.writeSs]


end Sys2Proof.Machine
end

