-- ==== Sys2Proof/Laws/Memory.lean ====
section
/-! SUPPORT. The laws of memory: reads after writes of bytes and of byte lists, and the canonical form that every write keeps. -/

namespace Sys2Proof.Machine

/-- A read after a write of a list of bytes. -/
theorem State.byte_setBytes (s : State) (a k : Nat) (l : List Byte) :
    (s.setBytes a l).byte k = if a ≤ k ∧ k < a + l.length then l.getD (k - a) 0 else s.byte k := by
  induction l generalizing s a with
  | nil => simp [State.setBytes]
  | cons b bs ih =>
    simp only [State.setBytes, ih, List.length_cons]
    by_cases h : k = a
    · subst h; simp
    · rw [State.byte_setByte_ne _ _ h]
      by_cases h1 : a + 1 ≤ k ∧ k < a + 1 + bs.length
      · have h2 : a ≤ k ∧ k < a + (bs.length + 1) := by omega
        obtain ⟨j, hj⟩ : ∃ j, k - a = j + 1 := ⟨k - a - 1, by omega⟩
        have : k - (a + 1) = j := by omega
        simp [h1, h2, hj, this]
      · have h2 : ¬ (a ≤ k ∧ k < a + (bs.length + 1)) := by omega
        rw [if_neg h1, if_neg h2]

/-- Bytes outside a written range read as before. -/
theorem State.byte_setBytes_ne (s : State) {a k : Nat} {l : List Byte} (h : k < a ∨ a + l.length ≤ k) :
    (s.setBytes a l).byte k = s.byte k := by
  rw [State.byte_setBytes, if_neg (by omega)]

/-- The bytes written read back. -/
theorem State.bytes_setBytes (s : State) (a : Nat) (l : List Byte) : (s.setBytes a l).bytes a l.length = l := by
  apply List.ext_getElem
  · simp [State.bytes]
  · intro i h1 h2
    simp [State.bytes, State.byte_setBytes, h2]

theorem State.setByte_wf (s : State) (a : Nat) (v : Byte) (h : Memory.wf s.mem = true) : Memory.wf (s.setByte a v).mem = true :=
  Table.wf_set _ _ _ h

theorem State.setBytes_wf (s : State) (a : Nat) (l : List Byte) (h : Memory.wf s.mem = true) :
    Memory.wf (s.setBytes a l).mem = true := by
  induction l generalizing s a with
  | nil => exact h
  | cons b bs ih => exact ih _ _ (State.setByte_wf s a b h)

@[simp] theorem State.clearPoison_mem (s : State) (a n : Nat) : (s.clearPoison a n).mem = s.mem := rfl

/-- The write of every unit: bytes, and the poison of the sectors they fill. -/
theorem State.putMem_wf (s : State) (a : Nat) (l : List Byte) (h : Memory.wf s.mem = true) :
    Memory.wf (s.putMem a l).mem = true := by
  simpa [State.putMem] using State.setBytes_wf s a l h

theorem State.byte_putMem (s : State) (a k : Nat) (l : List Byte) :
    (s.putMem a l).byte k = if a ≤ k ∧ k < a + l.length then l.getD (k - a) 0 else s.byte k := by
  rw [← State.byte_setBytes]; rfl

theorem reset_mem_wf : Memory.wf State.reset.mem = true := rfl

theorem reset_csr_wf : Csrs.wf State.reset.csr = true := rfl

theorem State.setCsr_wf (s : State) (p a : Nat) (v : Word) (h : Csrs.wf s.csr = true) : Csrs.wf (s.setCsr p a v).csr = true := by
  rw [State.setCsr]; exact Table.wf_set _ _ _ h

/-! ## Little-endian words -/

theorem leBytes_length (n x : Nat) : (leBytes n x).length = n := by
  induction n generalizing x with
  | zero => rfl
  | succ n ih => simp [leBytes, ih]

theorem leNat_leBytes (n x : Nat) : leNat (leBytes n x) = x % 256 ^ n := by
  induction n generalizing x with
  | zero => simp [leBytes, leNat, Nat.mod_one]
  | succ n ih =>
    simp only [leBytes, leNat, ih, BitVec.toNat_ofNat]
    have h : (256 : Nat) ^ (n + 1) = 256 * 256 ^ n := Nat.pow_succ'
    rw [h, Nat.mod_mul]

theorem State.dwordAt_setBytes (s : State) (a : Nat) (v : Dword) : (s.setBytes a (leBytes 8 v.toNat)).dwordAt a = v := by
  have h := State.bytes_setBytes s a (leBytes 8 v.toNat)
  rw [leBytes_length] at h
  rw [State.dwordAt, h, leNat_leBytes]
  apply BitVec.eq_of_toNat_eq
  have := v.isLt
  simp only [BitVec.toNat_ofNat]
  omega

end Sys2Proof.Machine
end

