-- ==== Sys2Proof/Laws/PerInstr.lean ====
section
/-! SUPPORT. For every instruction: a well-formed instruction has one to three words (02 R25, R40 to R44). -/

namespace Sys2Proof.Laws

theorem limmWords_length (f : FArgs) : (limmWords f).length ≤ 1 := by unfold limmWords; split <;> simp

/-- Every term of the opcode map that is well-formed is written in one to three words. -/
theorem encode_length (svc : Bool) (x : Decoded) (h : x.wellFormed svc = true) :
    1 ≤ (encode x).length ∧ (encode x).length ≤ 3 := by
  obtain ⟨i, aux⟩ := x
  rcases aux with _ | ⟨r, op, f⟩
  · unfold Decoded.wellFormed Decoded.shape at h
    unfold encode
    simp only at h ⊢
    split
    · simp
    · simp
    · split
      · next op f _ => have := limmWords_length f; simp; omega
      · split
        · simp
        · split
          · next o c ms hc =>
            split at h
            · next p ok hs =>
              simp only [Bool.and_eq_true] at h
              split at hs
              · simp_all
              · simp_all
              · simp_all [mwbsFit]
                grind
            · cases h
          · split
            · simp
            · split
              · simp
              · split
                · simp
                · split at h
                  · next p ok hs =>
                    split at hs <;> simp_all
                  · cases h
  · have := limmWords_length f
    cases r <;> simp [encode] <;> omega

namespace Words

/-- What the family says of an instruction: however its operands stand, it has one to three words. -/
def Statement (i : Instr) : Prop :=
  ∀ (svc : Bool) (aux : Option Aux), ({ instr := i, aux := aux } : Decoded).wellFormed svc = true →
    1 ≤ (encode { instr := i, aux := aux }).length ∧ (encode { instr := i, aux := aux }).length ≤ 3

theorem all (i : Instr) : Statement i := fun svc _ h => encode_length svc _ h

theorem pair (h0 h1 : Half) : Statement (.pair h0 h1) := all _
theorem smov (a : SArgs) : Statement (.smov a) := all _
theorem smovi (a : SArgs) : Statement (.smovi a) := all _
theorem smovhi (a : SArgs) : Statement (.smovhi a) := all _
theorem siadd (a : SArgs) : Statement (.siadd a) := all _
theorem siaddi (a : SArgs) : Statement (.siaddi a) := all _
theorem sisub (a : SArgs) : Statement (.sisub a) := all _
theorem simul (a : SArgs) : Statement (.simul a) := all _
theorem simulhi (a : SArgs) : Statement (.simulhi a) := all _
theorem simulhn (a : SArgs) : Statement (.simulhn a) := all _
theorem sand (a : SArgs) : Statement (.sand a) := all _
theorem sor (a : SArgs) : Statement (.sor a) := all _
theorem sxor (a : SArgs) : Statement (.sxor a) := all _
theorem sandi (a : SArgs) : Statement (.sandi a) := all _
theorem sori (a : SArgs) : Statement (.sori a) := all _
theorem sxori (a : SArgs) : Statement (.sxori a) := all _
theorem sshl (a : SArgs) : Statement (.sshl a) := all _
theorem sshr (a : SArgs) : Statement (.sshr a) := all _
theorem ssra (a : SArgs) : Statement (.ssra a) := all _
theorem sshli (a : SArgs) : Statement (.sshli a) := all _
theorem sshri (a : SArgs) : Statement (.sshri a) := all _
theorem ssrai (a : SArgs) : Statement (.ssrai a) := all _
theorem scmp (a : SArgs) : Statement (.scmp a) := all _
theorem scmpi (a : SArgs) : Statement (.scmpi a) := all _
theorem ssel (a : SArgs) : Statement (.ssel a) := all _
theorem smin (a : SArgs) : Statement (.smin a) := all _
theorem smax (a : SArgs) : Statement (.smax a) := all _
theorem sminn (a : SArgs) : Statement (.sminn a) := all _
theorem smaxn (a : SArgs) : Statement (.smaxn a) := all _
theorem spopc (a : SArgs) : Statement (.spopc a) := all _
theorem sclz (a : SArgs) : Statement (.sclz a) := all _
theorem sffs (a : SArgs) : Statement (.sffs a) := all _
theorem siadd64 (a : SArgs) : Statement (.siadd64 a) := all _
theorem sisub64 (a : SArgs) : Statement (.sisub64 a) := all _
theorem smov64 (a : SArgs) : Statement (.smov64 a) := all _
theorem sshl64 (a : SArgs) : Statement (.sshl64 a) := all _
theorem sshr64 (a : SArgs) : Statement (.sshr64 a) := all _
theorem smrd (a : SArgs) : Statement (.smrd a) := all _
theorem smwr (a : SArgs) : Statement (.smwr a) := all _
theorem srd (a : SArgs) : Statement (.srd a) := all _
theorem swr (a : SArgs) : Statement (.swr a) := all _
theorem sfree (a : SArgs) : Statement (.sfree a) := all _
theorem vfree (f : FArgs) : Statement (.vfree f) := all _
theorem bra (c : CArgs) : Statement (.bra c) := all _
theorem brs (c : CArgs) : Statement (.brs c) := all _
theorem brc (c : CArgs) : Statement (.brc c) := all _
theorem brm (c : CArgs) (mwbs : List Mwb) : Statement (.brm c mwbs) := all _
theorem call (c : CArgs) : Statement (.call c) := all _
theorem calli (c : CArgs) : Statement (.calli c) := all _
theorem ret (c : CArgs) : Statement (.ret c) := all _
theorem fuse (c : CArgs) : Statement (.fuse c) := all _
theorem loop (c : CArgs) : Statement (.loop c) := all _
theorem loopx (c : CArgs) : Statement (.loopx c) := all _
theorem sigchk (c : CArgs) : Statement (.sigchk c) := all _
theorem trap (c : CArgs) : Statement (.trap c) := all _
theorem csrrd (a : SArgs) : Statement (.csrrd a) := all _
theorem csrwr (a : SArgs) : Statement (.csrwr a) := all _
theorem csrset (a : SArgs) : Statement (.csrset a) := all _
theorem csrclr (a : SArgs) : Statement (.csrclr a) := all _
theorem wfe (a : SArgs) : Statement (.wfe a) := all _
theorem iadd (f : FArgs) : Statement (.iadd f) := all _
theorem isub (f : FArgs) : Statement (.isub f) := all _
theorem imul (f : FArgs) : Statement (.imul f) := all _
theorem imulhi (f : FArgs) : Statement (.imulhi f) := all _
theorem imulhn (f : FArgs) : Statement (.imulhn f) := all _
theorem imad (f : FArgs) : Statement (.imad f) := all _
theorem imadwi (f : FArgs) : Statement (.imadwi f) := all _
theorem imadwn (f : FArgs) : Statement (.imadwn f) := all _
theorem iadd64 (f : FArgs) : Statement (.iadd64 f) := all _
theorem isub64 (f : FArgs) : Statement (.isub64 f) := all _
theorem imin (f : FArgs) : Statement (.imin f) := all _
theorem imax (f : FArgs) : Statement (.imax f) := all _
theorem iminn (f : FArgs) : Statement (.iminn f) := all _
theorem imaxn (f : FArgs) : Statement (.imaxn f) := all _
theorem iabs (f : FArgs) : Statement (.iabs f) := all _
theorem ineg (f : FArgs) : Statement (.ineg f) := all _
theorem iaddsat (f : FArgs) : Statement (.iaddsat f) := all _
theorem iaddsatn (f : FArgs) : Statement (.iaddsatn f) := all _
theorem isubsat (f : FArgs) : Statement (.isubsat f) := all _
theorem isubsatn (f : FArgs) : Statement (.isubsatn f) := all _
theorem vand (f : FArgs) : Statement (.vand f) := all _
theorem vor (f : FArgs) : Statement (.vor f) := all _
theorem vxor (f : FArgs) : Statement (.vxor f) := all _
theorem andn (f : FArgs) : Statement (.andn f) := all _
theorem shl (f : FArgs) : Statement (.shl f) := all _
theorem shr (f : FArgs) : Statement (.shr f) := all _
theorem sra (f : FArgs) : Statement (.sra f) := all _
theorem shl64 (f : FArgs) : Statement (.shl64 f) := all _
theorem shr64 (f : FArgs) : Statement (.shr64 f) := all _
theorem bfe (f : FArgs) : Statement (.bfe f) := all _
theorem bfi (f : FArgs) : Statement (.bfi f) := all _
theorem popc (f : FArgs) : Statement (.popc f) := all _
theorem clz (f : FArgs) : Statement (.clz f) := all _
theorem brev (f : FArgs) : Statement (.brev f) := all _
theorem icmp (f : FArgs) : Statement (.icmp f) := all _
theorem sel (f : FArgs) : Statement (.sel f) := all _
theorem idp4 (f : FArgs) : Statement (.idp4 f) := all _
theorem lea (f : FArgs) : Statement (.lea f) := all _
theorem mov (f : FArgs) : Statement (.mov f) := all _
theorem mov64 (f : FArgs) : Statement (.mov64 f) := all _
theorem prmt (f : FArgs) : Statement (.prmt f) := all _
theorem vrds (f : FArgs) : Statement (.vrds f) := all _
theorem fadd (f : FArgs) : Statement (.fadd f) := all _
theorem fsub (f : FArgs) : Statement (.fsub f) := all _
theorem fmul (f : FArgs) : Statement (.fmul f) := all _
theorem ffma (f : FArgs) : Statement (.ffma f) := all _
theorem fmin (f : FArgs) : Statement (.fmin f) := all _
theorem fmax (f : FArgs) : Statement (.fmax f) := all _
theorem fabs (f : FArgs) : Statement (.fabs f) := all _
theorem fneg (f : FArgs) : Statement (.fneg f) := all _
theorem fcmp (f : FArgs) : Statement (.fcmp f) := all _
theorem frnd (f : FArgs) : Statement (.frnd f) := all _
theorem frcp (f : FArgs) : Statement (.frcp f) := all _
theorem frsq (f : FArgs) : Statement (.frsq f) := all _
theorem fsqrt (f : FArgs) : Statement (.fsqrt f) := all _
theorem fdiv (f : FArgs) : Statement (.fdiv f) := all _
theorem fexp2 (f : FArgs) : Statement (.fexp2 f) := all _
theorem flog2 (f : FArgs) : Statement (.flog2 f) := all _
theorem frred (f : FArgs) : Statement (.frred f) := all _
theorem fsinr (f : FArgs) : Statement (.fsinr f) := all _
theorem fcosr (f : FArgs) : Statement (.fcosr f) := all _
theorem ftanh (f : FArgs) : Statement (.ftanh f) := all _
theorem fclass (f : FArgs) : Statement (.fclass f) := all _
theorem dadd (f : FArgs) : Statement (.dadd f) := all _
theorem dsub (f : FArgs) : Statement (.dsub f) := all _
theorem dmul (f : FArgs) : Statement (.dmul f) := all _
theorem dfma (f : FArgs) : Statement (.dfma f) := all _
theorem dmin (f : FArgs) : Statement (.dmin f) := all _
theorem dmax (f : FArgs) : Statement (.dmax f) := all _
theorem dcmp (f : FArgs) : Statement (.dcmp f) := all _
theorem ddiv (f : FArgs) : Statement (.ddiv f) := all _
theorem dsqrt (f : FArgs) : Statement (.dsqrt f) := all _
theorem drnd (f : FArgs) : Statement (.drnd f) := all _
theorem hadd2 (f : FArgs) : Statement (.hadd2 f) := all _
theorem hmul2 (f : FArgs) : Statement (.hmul2 f) := all _
theorem hfma2 (f : FArgs) : Statement (.hfma2 f) := all _
theorem badd2 (f : FArgs) : Statement (.badd2 f) := all _
theorem bmul2 (f : FArgs) : Statement (.bmul2 f) := all _
theorem bfma2 (f : FArgs) : Statement (.bfma2 f) := all _
theorem bmax2 (f : FArgs) : Statement (.bmax2 f) := all _
theorem bmin2 (f : FArgs) : Statement (.bmin2 f) := all _
theorem fdp2b (f : FArgs) : Statement (.fdp2b f) := all _
theorem fdp4q (f : FArgs) : Statement (.fdp4q f) := all _
theorem fdp4w (f : FArgs) : Statement (.fdp4w f) := all _
theorem crxf (f : FArgs) : Statement (.crxf f) := all _
theorem rngh (f : FArgs) : Statement (.rngh f) := all _
theorem rngf (f : FArgs) : Statement (.rngf f) := all _
theorem cvt (f : FArgs) : Statement (.cvt f) := all _
theorem cvtpk (f : FArgs) : Statement (.cvtpk f) := all _
theorem cvtupk (f : FArgs) : Statement (.cvtupk f) := all _
theorem cvtsr (f : FArgs) : Statement (.cvtsr f) := all _
theorem bscale (f : FArgs) : Statement (.bscale f) := all _
theorem shfl (f : FArgs) : Statement (.shfl f) := all _
theorem shflv (f : FArgs) : Statement (.shflv f) := all _
theorem qswap (f : FArgs) : Statement (.qswap f) := all _
theorem qbcast (f : FArgs) : Statement (.qbcast f) := all _
theorem vote (f : FArgs) : Statement (.vote f) := all _
theorem scan (f : FArgs) : Statement (.scan f) := all _
theorem red (f : FArgs) : Statement (.red f) := all _
theorem laneMatch (f : FArgs) : Statement (.laneMatch f) := all _
theorem ddx (f : FArgs) : Statement (.ddx f) := all _
theorem ddy (f : FArgs) : Statement (.ddy f) := all _
theorem rdlane (f : FArgs) : Statement (.rdlane f) := all _
theorem wrlane (f : FArgs) : Statement (.wrlane f) := all _
theorem ldg (sz : LoadSize) (a : MArgs) : Statement (.ldg sz a) := all _
theorem stg (sz : StoreSize) (a : MArgs) : Statement (.stg sz a) := all _
theorem ldp (sz : LoadSize) (a : MArgs) : Statement (.ldp sz a) := all _
theorem stp (sz : StoreSize) (a : MArgs) : Statement (.stp sz a) := all _
theorem sld (sz : ScalarSize) (a : SmArgs) : Statement (.sld sz a) := all _
theorem sst (sz : ScalarSize) (a : SmArgs) : Statement (.sst sz a) := all _
theorem lds (sz : LoadSize) (a : MArgs) : Statement (.lds sz a) := all _
theorem sts (sz : StoreSize) (a : MArgs) : Statement (.sts sz a) := all _
theorem saadd (a : MArgs) : Statement (.saadd a) := all _
theorem samin (a : MArgs) : Statement (.samin a) := all _
theorem samax (a : MArgs) : Statement (.samax a) := all _
theorem saand (a : MArgs) : Statement (.saand a) := all _
theorem saor (a : MArgs) : Statement (.saor a) := all _
theorem saxor (a : MArgs) : Statement (.saxor a) := all _
theorem saxchg (a : MArgs) : Statement (.saxchg a) := all _
theorem sacas (a : MArgs) : Statement (.sacas a) := all _
theorem aadd (wide : Bool) (a : MArgs) : Statement (.aadd wide a) := all _
theorem amin (wide : Bool) (a : MArgs) : Statement (.amin wide a) := all _
theorem amax (wide : Bool) (a : MArgs) : Statement (.amax wide a) := all _
theorem aminn (wide : Bool) (a : MArgs) : Statement (.aminn wide a) := all _
theorem amaxn (wide : Bool) (a : MArgs) : Statement (.amaxn wide a) := all _
theorem aand (wide : Bool) (a : MArgs) : Statement (.aand wide a) := all _
theorem aor (wide : Bool) (a : MArgs) : Statement (.aor wide a) := all _
theorem axor (wide : Bool) (a : MArgs) : Statement (.axor wide a) := all _
theorem axchg (wide : Bool) (a : MArgs) : Statement (.axchg wide a) := all _
theorem acas (wide : Bool) (a : MArgs) : Statement (.acas wide a) := all _
theorem afadd (wide : Bool) (a : MArgs) : Statement (.afadd wide a) := all _
theorem afadd2b (a : MArgs) : Statement (.afadd2b a) := all _
theorem fence (a : MArgs) : Statement (.fence a) := all _
theorem pref (a : MArgs) : Statement (.pref a) := all _
theorem mmaE4m3 (x : XArgs) : Statement (.mmaE4m3 x) := all _
theorem mmaE5m2 (x : XArgs) : Statement (.mmaE5m2 x) := all _
theorem mmaMix (x : XArgs) : Statement (.mmaMix x) := all _
theorem mmaBf16 (x : XArgs) : Statement (.mmaBf16 x) := all _
theorem mmaF16 (x : XArgs) : Statement (.mmaF16 x) := all _
theorem mmaE2m1s (x : XArgs) : Statement (.mmaE2m1s x) := all _
theorem mmaE4m3s (x : XArgs) : Statement (.mmaE4m3s x) := all _
theorem mmaI8 (x : XArgs) : Statement (.mmaI8 x) := all _
theorem accld (x : XArgs) : Statement (.accld x) := all _
theorem accst (x : XArgs) : Statement (.accst x) := all _
theorem accz (x : XArgs) : Statement (.accz x) := all _
theorem acccvt (x : XArgs) : Statement (.acccvt x) := all _
theorem mwait (x : XArgs) : Statement (.mwait x) := all _
theorem cpy (a : MArgs) : Statement (.cpy a) := all _
theorem cpyt (a : MArgs) : Statement (.cpyt a) := all _
theorem cpym (a : MArgs) : Statement (.cpym a) := all _
theorem cpyg (a : MArgs) : Statement (.cpyg a) := all _
theorem cpys (a : MArgs) : Statement (.cpys a) := all _
theorem cpymma (a : MArgs) : Statement (.cpymma a) := all _
theorem cwait (a : SArgs) : Statement (.cwait a) := all _
theorem cblk (a : SArgs) : Statement (.cblk a) := all _
theorem binit (a : SArgs) : Statement (.binit a) := all _
theorem barr (a : SArgs) : Statement (.barr a) := all _
theorem bwait (a : SArgs) : Statement (.bwait a) := all _
theorem bsync (a : SArgs) : Statement (.bsync a) := all _
theorem bquery (a : SArgs) : Statement (.bquery a) := all _
theorem spawn (a : SArgs) : Statement (.spawn a) := all _
theorem dqpush (a : SArgs) : Statement (.dqpush a) := all _
theorem dqpop (a : SArgs) : Statement (.dqpop a) := all _
theorem dqsteal (a : SArgs) : Statement (.dqsteal a) := all _
theorem dqsize (a : SArgs) : Statement (.dqsize a) := all _
theorem launch (a : SArgs) : Statement (.launch a) := all _
theorem flowreq (a : SArgs) : Statement (.flowreq a) := all _
theorem iclk (a : SArgs) : Statement (.iclk a) := all _
theorem icunlk (a : SArgs) : Statement (.icunlk a) := all _
theorem dgrd (a : SArgs) : Statement (.dgrd a) := all _
theorem emitm (f : FArgs) : Statement (.emitm f) := all _
theorem mout (f : FArgs) : Statement (.mout f) := all _
theorem pout (f : FArgs) : Statement (.pout f) := all _
theorem mend (f : FArgs) : Statement (.mend f) := all _
theorem visq (f : FArgs) : Statement (.visq f) := all _
theorem hzq (f : FArgs) : Statement (.hzq f) := all _
theorem pixout (f : FArgs) : Statement (.pixout f) := all _
theorem sample (f : FArgs) : Statement (.sample f) := all _
theorem sampleg (f : FArgs) : Statement (.sampleg f) := all _
theorem tld (f : FArgs) : Statement (.tld f) := all _
theorem imgst (f : FArgs) : Statement (.imgst f) := all _
theorem rayq (f : FArgs) : Statement (.rayq f) := all _
theorem rayw (f : FArgs) : Statement (.rayw f) := all _
theorem repack (f : FArgs) : Statement (.repack f) := all _
theorem nop : Statement .nop := all _
theorem repRepeat : Statement .repRepeat := all _
theorem exit : Statement .exit := all _
theorem yield : Statement .yield := all _
theorem sigrst : Statement .sigrst := all _
theorem bkpt : Statement .bkpt := all _
theorem evret : Statement .evret := all _
theorem fenceOr : Statement .fenceOr := all _
theorem rfence : Statement .rfence := all _
theorem cbatch : Statement .cbatch := all _
theorem flowrel : Statement .flowrel := all _
theorem pixdisc : Statement .pixdisc := all _
theorem rayacc : Statement .rayacc := all _
theorem raycont : Statement .raycont := all _
theorem rayterm : Statement .rayterm := all _
theorem splitArrive : Statement .splitArrive := all _
theorem fuseTimerExpiry : Statement .fuseTimerExpiry := all _
theorem rejoinTimerExpiry : Statement .rejoinTimerExpiry := all _
theorem yieldExpiry : Statement .yieldExpiry := all _
theorem issuePromotion : Statement .issuePromotion := all _
theorem pageWalkComplete : Statement .pageWalkComplete := all _
theorem memoryAccessPerform : Statement .memoryAccessPerform := all _
theorem loadDataReturn : Statement .loadDataReturn := all _
theorem stopReport : Statement .stopReport := all _
theorem waveEnd : Statement .waveEnd := all _
theorem launchMsg : Statement .launchMsg := all _
theorem waitWordRead : Statement .waitWordRead := all _
theorem placeGroup : Statement .placeGroup := all _
theorem leaseTake : Statement .leaseTake := all _
theorem taskTake : Statement .taskTake := all _
theorem launchComplete : Statement .launchComplete := all _
theorem discardGo : Statement .discardGo := all _
theorem wcmdResume : Statement .wcmdResume := all _
theorem wcmdStep : Statement .wcmdStep := all _
theorem debugStepStop : Statement .debugStepStop := all _
theorem wcmdKill : Statement .wcmdKill := all _
theorem wcmdHalt : Statement .wcmdHalt := all _
theorem wdataloRead : Statement .wdataloRead := all _
theorem wdataloWrite : Statement .wdataloWrite := all _
theorem copyCommandStart : Statement .copyCommandStart := all _
theorem copyChunk : Statement .copyChunk := all _
theorem tensorRecordArrive : Statement .tensorRecordArrive := all _
theorem copyCommandComplete : Statement .copyCommandComplete := all _
theorem chainCopy : Statement .chainCopy := all _
theorem chainTcopy : Statement .chainTcopy := all _
theorem chainMcast : Statement .chainMcast := all _
theorem chainMmac : Statement .chainMmac := all _
theorem semwait : Statement .semwait := all _
theorem semwaitRetry : Statement .semwaitRetry := all _
theorem semsig : Statement .semsig := all _
theorem bararr : Statement .bararr := all _
theorem reduce : Statement .reduce := all _
theorem chainLink : Statement .chainLink := all _
theorem chainEnd : Statement .chainEnd := all _
theorem arrayOpBegin : Statement .arrayOpBegin := all _
theorem arrayOpComplete : Statement .arrayOpComplete := all _
theorem rayQueryUpdate : Statement .rayQueryUpdate := all _
theorem meshWavePlace : Statement .meshWavePlace := all _
theorem binBlock : Statement .binBlock := all _
theorem binwaitExpiry : Statement .binwaitExpiry := all _
theorem binpassGrow : Statement .binpassGrow := all _
theorem binpassDecline : Statement .binpassDecline := all _
theorem binpassResume : Statement .binpassResume := all _
theorem finalRender : Statement .finalRender := all _
theorem tileRender : Statement .tileRender := all _
theorem replayPlace : Statement .replayPlace := all _
theorem selfTestComplete : Statement .selfTestComplete := all _
theorem umpctxAbandon : Statement .umpctxAbandon := all _
theorem foulUnbench : Statement .foulUnbench := all _
theorem eccError : Statement .eccError := all _
theorem l2eccReqWrite : Statement .l2eccReqWrite := all _
theorem l2eccSwitchDone : Statement .l2eccSwitchDone := all _
theorem vsramTargetWrite : Statement .vsramTargetWrite := all _
theorem vsramStep : Statement .vsramStep := all _
theorem cfuSample : Statement .cfuSample := all _
theorem catWrite : Statement .catWrite := all _
theorem catCommit : Statement .catCommit := all _
theorem clockRaise : Statement .clockRaise := all _
theorem powerMeasure : Statement .powerMeasure := all _
theorem evacE2 : Statement .evacE2 := all _
theorem evacE3 : Statement .evacE3 := all _
theorem evacE4 : Statement .evacE4 := all _
theorem cpcQreqSet : Statement .cpcQreqSet := all _
theorem cpcDrainmode : Statement .cpcDrainmode := all _
theorem cpcQack : Statement .cpcQack := all _
theorem cpcRetsave : Statement .cpcRetsave := all _
theorem cpcRetdone : Statement .cpcRetdone := all _
theorem cpcClkgateSet : Statement .cpcClkgateSet := all _
theorem cpcRailoff : Statement .cpcRailoff := all _
theorem cpcWake : Statement .cpcWake := all _
theorem cpcClkgateClear : Statement .cpcClkgateClear := all _
theorem cpcRetload : Statement .cpcRetload := all _
theorem cpcRetloaded : Statement .cpcRetloaded := all _
theorem cpcQreqClear : Statement .cpcQreqClear := all _
theorem scEventTake : Statement .scEventTake := all _
theorem wfeTimeout : Statement .wfeTimeout := all _
theorem evpendClear : Statement .evpendClear := all _
theorem scRestart : Statement .scRestart := all _
theorem scInstall : Statement .scInstall := all _
theorem scInstallComplete : Statement .scInstallComplete := all _
theorem memrd : Statement .memrd := all _
theorem memwr : Statement .memwr := all _
theorem memrsp : Statement .memrsp := all _
theorem atomicMsg : Statement .atomicMsg := all _
theorem csrrdMsg : Statement .csrrdMsg := all _
theorem csrwrMsg : Statement .csrwrMsg := all _
theorem resumeMsg : Statement .resumeMsg := all _
theorem killctx : Statement .killctx := all _
theorem unbenchMsg : Statement .unbenchMsg := all _
theorem attest : Statement .attest := all _
theorem stageAdvance : Statement .stageAdvance := all _
theorem enableWrite : Statement .enableWrite := all _
theorem tlbinvGo : Statement .tlbinvGo := all _
theorem tlbinvDone : Statement .tlbinvDone := all _
theorem fusetimeWrite : Statement .fusetimeWrite := all _
theorem powerOnReset : Statement .powerOnReset := all _
theorem registerWrite : Statement .registerWrite := all _
theorem unassignedOpcIssue : Statement .unassignedOpcIssue := all _
theorem linkCreditReturn : Statement .linkCreditReturn := all _
theorem stageSelfTestDone : Statement .stageSelfTestDone := all _

end Words

end Sys2Proof.Laws
end

