-- ==== Sys2Proof/Tests/Slice0.lean ====
section
/-! SUPPORT. Tests: words of every family against their instructions, ill-formed terms, single steps against the worked examples of the chapters, and
for every obligation states and operands that meet its hypotheses. -/

namespace Sys2Proof.Tests

set_option Elab.async false

open Sys2Proof Sys2Proof.Machine Sys2Proof.Claims

/-! ## Small states -/

/-- A wave of eight lanes with lane 5 exited: v0 to v23 and s0 to s23 are bound, and registers 4 and 5 and scalars 4 to 7 hold numbers. -/
def wave8 : Wave :=
  { group := 1, width := 8, vres := 256, vmax := 256, sres := 1024, smax := 1024, exited := 0x20,
    vbound := (List.range 24).flatMap (fun r => [(16 * r, true), (16 * r + 1, true)]),
    vregs := [(256, 7), (257, 0x7FFFFFFF), (320, 0xFFFFFFFE), (321, 1)],
    sbound := (List.range 24).map (fun k => (k, true)), sregs := [(4, 0x10), (5, 0x80000000), (6, 3), (7, 9)],
    splits := [(0, some { pc := 0x1000, lanes := 0xFF, masks := [(1, 0xB5), (2, 0x7E)] })] }

/-- A state in which split 0 of wave 0 of core 0 issues a word at 0x1000, and which is `State.reset` but for that wave's group and launch. -/
def issuing (w : Wave) : State :=
  ({ State.reset with
      groups := [(1, some { live := [0] })], launches := [(0, some { segments := some [] })],
      cur := { iaddr := 0x1000, caddr := 0x1000, next := 0x1008 } } : State).setWave 0 0 (some w)

/-- That state for the wave of eight lanes. -/
def state8 : State := issuing wave8

/-- The split of that wave. -/
def split8 : Split := { pc := 0x1000, lanes := 0xFF, masks := [(1, 0xB5), (2, 0x7E)] }

/-- Whether the split that issues meets what `Issues` asks. -/
def mayIssueB (s : State) (u : Uses) : Bool :=
  match s.issuing with
  | some (w, sp) => s.cur.svc.isNone && !w.busy sp u && (match s.prepare s.cur.core s.cur.wave w sp u with | .ok _ => true | .error _ => false)
  | none => false

theorem issues_of {s : State} {u : Uses} (h : mayIssueB s u = true) : ∃ w sp, Issues s u w sp := by
  unfold mayIssueB at h
  split at h
  · rename_i w sp e
    simp only [Bool.and_eq_true, Bool.not_eq_true', Option.isNone_iff_eq_none] at h
    obtain ⟨⟨a, b⟩, c⟩ := h
    refine ⟨w, sp, a, e, b, ?_⟩
    split at c
    · rename_i w' q; exact ⟨w', q⟩
    · cases c
  · cases h

theorem gathers_narrow {s : State} {n : Nat} (h : (match s.issuing with | some (w, _) => decide (min n w.width < 8) | none => false) = true) :
    Gathers s n s := by
  split at h
  · rename_i w sp e; exact ⟨w, sp, e, .inl ⟨by simpa using h, rfl⟩⟩
  · cases h

/-- A lanewise instruction meets what its statement asks in a state where it may issue as it stands. -/
theorem lanewise_of {s : State} {n : Nat} {u : Uses}
    (h : ((match s.issuing with | some (w, _) => decide (min n w.width < 8) | none => false) && mayIssueB s u) = true) :
    ∃ s' w sp, Gathers s n s' ∧ Issues s' u w sp := by
  rw [Bool.and_eq_true] at h
  obtain ⟨w, sp, i⟩ := issues_of h.2
  exact ⟨s, w, sp, gathers_narrow h.1, i⟩

/-- The state from which an instruction of a minimum width of 8 or more acts in `s`, where wave 0 of core 0 is `w`. -/
def gatherAt (s : State) (w : Wave) : State :=
  State.captureRep ({ s with cur := { s.cur with split := (w.fuseHere s.cur.split).2 } }.setWave s.cur.core s.cur.wave
    (some ((w.fuseHere s.cur.split).1.onSplit (w.fuseHere s.cur.split).2
      (fun x => { x with state := 0, waitsAt := false, missWait := false, timer := 0 }))))

theorem gathers_wide {s : State} {n : Nat} {w : Wave} {sp : Split} (i : s.issuing = some (w, sp))
    (h : (decide (8 ≤ min n w.width) && decide (sp.rep = 0) && (w.fuseHere s.cur.split).1.soleSplit (w.fuseHere s.cur.split).2 &&
      ((w.spillTouched (w.fuseHere s.cur.split).1).findSome? (s.spillFault s.cur.core s.cur.wave w)).isNone) = true) :
    Gathers s n (gatherAt s w) := by
  simp only [Bool.and_eq_true, decide_eq_true_eq, Option.isNone_iff_eq_none] at h
  exact ⟨w, sp, i, .inr ⟨h.1.1.1, w, sp, i, .inr ⟨h.1.1.2, h.1.2, h.2, rfl⟩⟩⟩

/-- The operands of an F word: D, A, B, S and MOD, the rest clear. -/
def fw (d a b : BitVec 8) (s : BitVec 10) (mod : BitVec 11 := 0) : FArgs :=
  { d := d, a := a, b := b, s := s, mod := mod, rx := false, g := 0, la := false, lb := false, bs := false, limm := none }

/-- The operands of an S word. -/
def sw (d a b : BitVec 10) (imm : BitVec 16) : SArgs := { d := d, a := a, b := b, imm := imm, la := false, lb := false }

/-- The operands of a C word. -/
def cw (t j : BitVec 24) (k : BitVec 3) (p : Bool) : CArgs := { t := t, j := j, k := k, p := p }

/-- The operands of an M word: D, A, B, S, OFF7, SCOPE and ORD, the rest clear. -/
def mw (d a b : BitVec 8) (s : BitVec 10) (off : BitVec 7) (scope : BitVec 3) (ord : BitVec 2) : MArgs :=
  { d := d, a := a, b := b, s := s, off := off, scope := scope, ord := ord, g := 0, la := false, ms := false, ef := false }


/-! ## Decoding: words set out from the encoding tables of 02 R29–R50 and the operand rules of each entry -/

/-- Each word, followed by nothing, decodes to the instruction that it stands for. -/
def decodes (l : List (Dword × Instr)) : Bool := l.all (fun p => decide (decodeTableWord 64 p.1.toNat = some p.2))

/-- Words of scalar instructions. -/
def scalarWords1 : List (Dword × Instr) :=
  [(0x0000000000000000, .nop),
   (0x0010200400000000, .smov (sw 8 4 0 0)),
   (0x0020200000200040, .smovi (sw 8 0 0 32769)),
   (0x0030200000200040, .smovhi (sw 8 0 0 32769)),
   (0x0040200401800000, .siadd (sw 8 4 6 0)),
   (0x0050200400200040, .siaddi (sw 8 4 0 32769)),
   (0x0060200401800000, .sisub (sw 8 4 6 0)),
   (0x0070200401800000, .simul (sw 8 4 6 0)),
   (0x0080200401800000, .simulhi (sw 8 4 6 0)),
   (0x0090200401800000, .simulhn (sw 8 4 6 0)),
   (0x00A0200401800000, .sand (sw 8 4 6 0)),
   (0x00B0200401800000, .sor (sw 8 4 6 0)),
   (0x00C0200401800000, .sxor (sw 8 4 6 0)),
   (0x00D0200400200040, .sandi (sw 8 4 0 32769)),
   (0x00E0200400200040, .sori (sw 8 4 0 32769)),
   (0x00F0200400200040, .sxori (sw 8 4 0 32769)),
   (0x0100200401800000, .sshl (sw 8 4 6 0)),
   (0x0110200401800000, .sshr (sw 8 4 6 0)),
   (0x0120200401800000, .ssra (sw 8 4 6 0)),
   (0x0130200400200040, .sshli (sw 8 4 0 32769))]

/-- Words of scalar instructions. -/
def scalarWords2 : List (Dword × Instr) :=
  [(0x0140200400200040, .sshri (sw 8 4 0 32769)),
   (0x0150200400200040, .ssrai (sw 8 4 0 32769)),
   (0x01602004018000C0, .scmp (sw 8 4 6 3)),
   (0x0170200400BFFC00, .scmpi (sw 8 4 2 65520)),
   (0x0180200401800240, .ssel (sw 8 4 6 9)),
   (0x0190200401800000, .smin (sw 8 4 6 0)),
   (0x01A0200401800000, .smax (sw 8 4 6 0)),
   (0x01B0200401800000, .sminn (sw 8 4 6 0)),
   (0x01C0200401800000, .smaxn (sw 8 4 6 0)),
   (0x01D0200400000040, .spopc (sw 8 4 0 1)),
   (0x01E0200400000000, .sclz (sw 8 4 0 0)),
   (0x01F0200400000040, .sffs (sw 8 4 0 1)),
   (0x0200200401800000, .siadd64 (sw 8 4 6 0)),
   (0x0210200401800000, .sisub64 (sw 8 4 6 0)),
   (0x0220200400000000, .smov64 (sw 8 4 0 0)),
   (0x0230200401800000, .sshl64 (sw 8 4 6 0)),
   (0x0240200401800000, .sshr64 (sw 8 4 6 0)),
   (0x02502000000000C0, .smrd (sw 8 0 0 3)),
   (0x02600004000000C0, .smwr (sw 0 4 0 3)),
   (0x0270200000000480, .srd (sw 8 0 0 18))]

/-- Words of scalar instructions. -/
def scalarWords3 : List (Dword × Instr) :=
  [(0x02800004000004C0, .swr (sw 0 4 0 19)),
   (0x0290000401400000, .sfree (sw 0 4 5 0))]

theorem test_decode_scalar : decodes (scalarWords1 ++ scalarWords2 ++ scalarWords3) = true := by decide +kernel

/-- Words of control instructions. -/
def controlWords : List (Dword × Instr) :=
  [(0x0300000100000000, .bra (cw 16 0 0 false)),
   (0x0310000100000205, .brc (cw 16 32 2 true)),
   (0x032FFFFFE0140008, .brs (cw 16777214 81920 4 false)),
   (0x0330000100000206, .brm (cw 16 32 3 false) []),
   (0x0340000100800000, .call (cw 16 524288 0 false)),
   (0x0350000000804001, .calli (cw 0 525312 0 true)),
   (0x0360000000004001, .ret (cw 0 1024 0 true)),
   (0x0370000000000030, .fuse (cw 0 3 0 false)),
   (0x0380000000000000, .exit),
   (0x039000002FFC0030, .loop (cw 2 16760835 0 false)),
   (0x03A0000000000005, .loopx (cw 0 0 2 true)),
   (0x03B0000000000000, .sigrst),
   (0x03C1234567800000, .sigchk (cw 1193046 7864320 0 false)),
   (0x03D00000000004D0, .trap (cw 0 77 0 false)),
   (0x03E0000000000000, .bkpt),
   (0x03F0000000000000, .yield)]

theorem test_decode_control : decodes (controlWords) = true := by decide +kernel

/-- Words of service-core instructions. -/
def serviceWords : List (Dword × Instr) :=
  [(0x040023FF00004100, .csrrd (sw 8 1023 0 260)),
   (0x0410000401404100, .csrwr (sw 0 4 5 260)),
   (0x0420200201404100, .csrset (sw 8 2 5 260)),
   (0x0430200301404100, .csrclr (sw 8 3 5 260)),
   (0x044023FF01400000, .wfe (sw 8 1023 5 0)),
   (0x0450000000000000, .evret)]

theorem test_decode_service : decodes (serviceWords) = true := by decide +kernel

/-- Words of vector integer instructions. -/
def vectorWords1 : List (Dword × Instr) :=
  [(0x0800804050000000, .iadd (fw 8 4 5 0)),
   (0x0810804050000000, .isub (fw 8 4 5 0)),
   (0x0820804050000000, .imul (fw 8 4 5 0)),
   (0x0830804050000000, .imulhi (fw 8 4 5 0)),
   (0x0840804050000000, .imulhn (fw 8 4 5 0)),
   (0x0850804050180000, .imad (fw 8 4 5 6)),
   (0x0860804050180000, .imadwi (fw 8 4 5 6)),
   (0x0870804050180000, .imadwn (fw 8 4 5 6)),
   (0x0880804050000000, .iadd64 (fw 8 4 5 0)),
   (0x0890804050000000, .isub64 (fw 8 4 5 0)),
   (0x08A0804050000000, .imin (fw 8 4 5 0)),
   (0x08B0804050000000, .imax (fw 8 4 5 0)),
   (0x08C0804050000000, .iminn (fw 8 4 5 0)),
   (0x08D0804050000000, .imaxn (fw 8 4 5 0)),
   (0x08E0804000000000, .iabs (fw 8 4 0 0)),
   (0x08F0804000000000, .ineg (fw 8 4 0 0)),
   (0x0900804050000000, .iaddsat (fw 8 4 5 0)),
   (0x0910804050000000, .iaddsatn (fw 8 4 5 0)),
   (0x0920804050000000, .isubsat (fw 8 4 5 0)),
   (0x0930804050000000, .isubsatn (fw 8 4 5 0))]

/-- Words of vector integer instructions. -/
def vectorWords2 : List (Dword × Instr) :=
  [(0x0940804050000000, .vand (fw 8 4 5 0)),
   (0x0950804050000000, .vor (fw 8 4 5 0)),
   (0x0960804050000000, .vxor (fw 8 4 5 0)),
   (0x0970804050000000, .andn (fw 8 4 5 0)),
   (0x0980804050000000, .shl (fw 8 4 5 0)),
   (0x0990804050000000, .shr (fw 8 4 5 0)),
   (0x09A0804050000000, .sra (fw 8 4 5 0)),
   (0x09B0804050000000, .shl64 (fw 8 4 5 0)),
   (0x09C0804050000000, .shr64 (fw 8 4 5 0)),
   (0x09D0804050000000, .bfe (fw 8 4 5 0)),
   (0x09E0804050180000, .bfi (fw 8 4 5 6)),
   (0x09F0804000000000, .popc (fw 8 4 0 0)),
   (0x0A00804000000000, .clz (fw 8 4 0 0)),
   (0x0A10804000000000, .brev (fw 8 4 0 0)),
   (0x0A21104050000000, .icmp (fw 17 4 5 0)),
   (0x0A30804050180000, .sel (fw 8 4 5 6)),
   (0x0A40804050180000, .idp4 (fw 8 4 5 6)),
   (0x0A50804050000000, .lea (fw 8 4 5 0)),
   (0x0A60800050000000, .mov (fw 8 0 5 0)),
   (0x0A70800050000000, .mov64 (fw 8 0 5 0))]

/-- Words of vector integer instructions. -/
def vectorWords3 : List (Dword × Instr) :=
  [(0x0A80800010000000, .vrds (fw 8 0 1 0)),
   (0x0A90004050000000, .vfree (fw 0 4 5 0)),
   (0x0AA0804050180000, .prmt (fw 8 4 5 6))]

theorem test_decode_vector : decodes (vectorWords1 ++ vectorWords2 ++ vectorWords3) = true := by decide +kernel

/-- Words of floating-point instructions. -/
def floatWords1 : List (Dword × Instr) :=
  [(0x1000804050000000, .fadd (fw 8 4 5 0)),
   (0x1010804050000000, .fsub (fw 8 4 5 0)),
   (0x1020804050000000, .fmul (fw 8 4 5 0)),
   (0x1030804050180000, .ffma (fw 8 4 5 6)),
   (0x1040804050000000, .fmin (fw 8 4 5 0)),
   (0x1050804050000000, .fmax (fw 8 4 5 0)),
   (0x1060804000000000, .fabs (fw 8 4 0 0)),
   (0x1070804000000000, .fneg (fw 8 4 0 0)),
   (0x1081104050000000, .fcmp (fw 17 4 5 0)),
   (0x1090804000000000, .frnd (fw 8 4 0 0)),
   (0x10A0804000000000, .frcp (fw 8 4 0 0)),
   (0x10B0804000000000, .frsq (fw 8 4 0 0)),
   (0x10C0804000000000, .fsqrt (fw 8 4 0 0)),
   (0x10D0804050000000, .fdiv (fw 8 4 5 0)),
   (0x10E0804000000000, .fexp2 (fw 8 4 0 0)),
   (0x10F0804000000000, .flog2 (fw 8 4 0 0)),
   (0x1100804000000000, .frred (fw 8 4 0 0)),
   (0x1110804000000000, .fsinr (fw 8 4 0 0)),
   (0x1120804000000000, .fcosr (fw 8 4 0 0)),
   (0x1130804000000000, .ftanh (fw 8 4 0 0))]

/-- Words of floating-point instructions. -/
def floatWords2 : List (Dword × Instr) :=
  [(0x1140804000000000, .fclass (fw 8 4 0 0)),
   (0x1180804050000000, .dadd (fw 8 4 5 0)),
   (0x1190804050000000, .dsub (fw 8 4 5 0)),
   (0x11A0804050000000, .dmul (fw 8 4 5 0)),
   (0x11B0804050180000, .dfma (fw 8 4 5 6)),
   (0x11C0804050000000, .dmin (fw 8 4 5 0)),
   (0x11D0804050000000, .dmax (fw 8 4 5 0)),
   (0x11E1104050000000, .dcmp (fw 17 4 5 0)),
   (0x11F0804050000000, .ddiv (fw 8 4 5 0)),
   (0x1200804000000000, .dsqrt (fw 8 4 0 0)),
   (0x1210804000000000, .drnd (fw 8 4 0 0)),
   (0x1280804050000000, .hadd2 (fw 8 4 5 0)),
   (0x1290804050000000, .hmul2 (fw 8 4 5 0)),
   (0x12A0804050180000, .hfma2 (fw 8 4 5 6)),
   (0x12B0804050000000, .badd2 (fw 8 4 5 0)),
   (0x12C0804050000000, .bmul2 (fw 8 4 5 0)),
   (0x12D0804050180000, .bfma2 (fw 8 4 5 6)),
   (0x12E0804050000000, .bmax2 (fw 8 4 5 0)),
   (0x12F0804050000000, .bmin2 (fw 8 4 5 0)),
   (0x1300804050180000, .fdp2b (fw 8 4 5 6))]

/-- Words of floating-point instructions. -/
def floatWords3 : List (Dword × Instr) :=
  [(0x1310804050180000, .fdp4q (fw 8 4 5 6)),
   (0x1320804050180000, .fdp4w (fw 8 4 5 6)),
   (0x1380804000A00000, .crxf (fw 8 4 0 40)),
   (0x13C0804000A00000, .rngh (fw 8 4 0 40)),
   (0x13D0804000A00000, .rngf (fw 8 4 0 40))]

theorem test_decode_float : decodes (floatWords1 ++ floatWords2 ++ floatWords3) = true := by decide +kernel

/-- Words of conversion instructions. -/
def convertWords : List (Dword × Instr) :=
  [(0x1800804A50000000, .cvt (fw 8 4 165 0)),
   (0x1810804CA0000000, .cvtpk (fw 8 4 202 0)),
   (0x1820804AC0000000, .cvtupk (fw 8 4 172 0)),
   (0x1830804DA0000000, .cvtsr (fw 8 4 218 0)),
   (0x1840804CA0000000, .bscale (fw 8 4 202 0))]

theorem test_decode_convert : decodes (convertWords) = true := by decide +kernel

/-- Words of cross-lane instructions. -/
def crossWords : List (Dword × Instr) :=
  [(0x1900804050006400, .shfl (fw 8 4 5 0 200)),
   (0x1910804050000100, .shflv (fw 8 4 5 0 2)),
   (0x1920804030000000, .qswap (fw 8 4 3 0)),
   (0x1930804020000000, .qbcast (fw 8 4 2 0)),
   (0x1940A04000008180, .vote (fw 10 4 0 0 259)),
   (0x195080420000A500, .scan (fw 8 4 32 0 330)),
   (0x1960804010004000, .red (fw 8 4 1 0 128)),
   (0x1970804010000000, .laneMatch (fw 8 4 1 0)),
   (0x1980804010000000, .ddx (fw 8 4 1 0)),
   (0x1990804000000000, .ddy (fw 8 4 0 0)),
   (0x19A0804000006280, .rdlane (fw 8 4 0 0 197)),
   (0x19B08000001C6281, .wrlane { fw 8 0 0 7 197 with bs := true })]

theorem test_decode_cross : decodes (crossWords) = true := by decide +kernel

/-- Words of memory instructions. -/
def memoryWords1 : List (Dword × Instr) :=
  [(0x2000804000520A40, .ldg .n8 (mw 8 4 0 20 65 2 1)),
   (0x2010804000520A40, .ldg .i8 (mw 8 4 0 20 65 2 1)),
   (0x2020804000520A40, .ldg .n16 (mw 8 4 0 20 65 2 1)),
   (0x2030804000520A40, .ldg .i16 (mw 8 4 0 20 65 2 1)),
   (0x2040804000520A40, .ldg .b32 (mw 8 4 0 20 65 2 1)),
   (0x2050804000520A40, .ldg .b64 (mw 8 4 0 20 65 2 1)),
   (0x2060804000520A40, .ldg .b128 (mw 8 4 0 20 65 2 1)),
   (0x208000408FFC1B80, .stg .b8 (mw 0 4 8 1023 3 3 2)),
   (0x209000408FFC1B80, .stg .b16 (mw 0 4 8 1023 3 3 2)),
   (0x20A000408FFC1B80, .stg .b32 (mw 0 4 8 1023 3 3 2)),
   (0x20B000408FFC1B80, .stg .b64 (mw 0 4 8 1023 3 3 2)),
   (0x20C000408FFC1B80, .stg .b128 (mw 0 4 8 1023 3 3 2)),
   (0x2100804000520A40, .lds .n8 (mw 8 4 0 20 65 2 1)),
   (0x2110804000520A40, .lds .i8 (mw 8 4 0 20 65 2 1)),
   (0x2120804000520A40, .lds .n16 (mw 8 4 0 20 65 2 1)),
   (0x2130804000520A40, .lds .i16 (mw 8 4 0 20 65 2 1)),
   (0x2140804000520A40, .lds .b32 (mw 8 4 0 20 65 2 1)),
   (0x2150804000520A40, .lds .b64 (mw 8 4 0 20 65 2 1)),
   (0x2160804000520A40, .lds .b128 (mw 8 4 0 20 65 2 1)),
   (0x218000408FFC1B80, .sts .b8 (mw 0 4 8 1023 3 3 2))]

/-- Words of memory instructions. -/
def memoryWords2 : List (Dword × Instr) :=
  [(0x219000408FFC1B80, .sts .b16 (mw 0 4 8 1023 3 3 2)),
   (0x21A000408FFC1B80, .sts .b32 (mw 0 4 8 1023 3 3 2)),
   (0x21B000408FFC1B80, .sts .b64 (mw 0 4 8 1023 3 3 2)),
   (0x21C000408FFC1B80, .sts .b128 (mw 0 4 8 1023 3 3 2)),
   (0x2200804000520940, .ldp .n8 (mw 8 4 0 20 65 1 1)),
   (0x2210804000520940, .ldp .i8 (mw 8 4 0 20 65 1 1)),
   (0x2220804000520940, .ldp .n16 (mw 8 4 0 20 65 1 1)),
   (0x2230804000520940, .ldp .i16 (mw 8 4 0 20 65 1 1)),
   (0x2240804000520940, .ldp .b32 (mw 8 4 0 20 65 1 1)),
   (0x2250804000520940, .ldp .b64 (mw 8 4 0 20 65 1 1)),
   (0x2260804000520940, .ldp .b128 (mw 8 4 0 20 65 1 1)),
   (0x228000408FFC1980, .stp .b8 (mw 0 4 8 1023 3 1 2)),
   (0x229000408FFC1980, .stp .b16 (mw 0 4 8 1023 3 1 2)),
   (0x22A000408FFC1980, .stp .b32 (mw 0 4 8 1023 3 1 2)),
   (0x22B000408FFC1980, .stp .b64 (mw 0 4 8 1023 3 1 2)),
   (0x22C000408FFC1980, .stp .b128 (mw 0 4 8 1023 3 1 2)),
   (0x230023FF00200100, .sld .b32 { d := 8, a := 1023, scope := 0, ord := 0, imm := 0x8004, la := false, lb := false }),
   (0x2310200600200100, .sld .b64 { d := 8, a := 6, scope := 0, ord := 0, imm := 0x8004, la := false, lb := false }),
   (0x2320200600200100, .sld .b128 { d := 8, a := 6, scope := 0, ord := 0, imm := 0x8004, la := false, lb := false }),
   (0x2340200650200100, .sst .b32 { d := 8, a := 6, scope := 2, ord := 2, imm := 0x8004, la := false, lb := false })]

/-- Words of memory instructions. -/
def memoryWords3 : List (Dword × Instr) :=
  [(0x2350200650200100, .sst .b64 { d := 8, a := 6, scope := 2, ord := 2, imm := 0x8004, la := false, lb := false }),
   (0x23808040C0500CC0, .aadd false (mw 8 4 12 20 1 4 3)),
   (0x23908040C0500CC0, .amin false (mw 8 4 12 20 1 4 3)),
   (0x23A08040C0500CC0, .amax false (mw 8 4 12 20 1 4 3)),
   (0x23B08040C0500CC0, .aminn false (mw 8 4 12 20 1 4 3)),
   (0x23C08040C0500CC0, .amaxn false (mw 8 4 12 20 1 4 3)),
   (0x23D08040C0500CC0, .aand false (mw 8 4 12 20 1 4 3)),
   (0x23E08040C0500CC0, .aor false (mw 8 4 12 20 1 4 3)),
   (0x23F08040C0500CC0, .axor false (mw 8 4 12 20 1 4 3)),
   (0x24008040C0500CC0, .axchg false (mw 8 4 12 20 1 4 3)),
   (0x24108040C0500CC0, .acas false (mw 8 4 12 20 1 4 3)),
   (0x24208040C0500CC0, .afadd false (mw 8 4 12 20 1 4 3)),
   (0x24308040C0500CC0, .afadd2b (mw 8 4 12 20 1 4 3)),
   (0x24808040C0500CC0, .aadd true (mw 8 4 12 20 1 4 3)),
   (0x24908040C0500CC0, .amin true (mw 8 4 12 20 1 4 3)),
   (0x24A08040C0500CC0, .amax true (mw 8 4 12 20 1 4 3)),
   (0x24B08040C0500CC0, .aminn true (mw 8 4 12 20 1 4 3)),
   (0x24C08040C0500CC0, .amaxn true (mw 8 4 12 20 1 4 3)),
   (0x24D08040C0500CC0, .aand true (mw 8 4 12 20 1 4 3)),
   (0x24E08040C0500CC0, .aor true (mw 8 4 12 20 1 4 3))]

/-- Words of memory instructions. -/
def memoryWords4 : List (Dword × Instr) :=
  [(0x24F08040C0500CC0, .axor true (mw 8 4 12 20 1 4 3)),
   (0x25008040C0500CC0, .axchg true (mw 8 4 12 20 1 4 3)),
   (0x25108040C0500CC0, .acas true (mw 8 4 12 20 1 4 3)),
   (0x25208040C0500CC0, .afadd true (mw 8 4 12 20 1 4 3)),
   (0x25808040C0500AC0, .saadd (mw 8 4 12 20 1 2 3)),
   (0x25908040C0500AC0, .samin (mw 8 4 12 20 1 2 3)),
   (0x25A08040C0500AC0, .samax (mw 8 4 12 20 1 2 3)),
   (0x25B08040C0500AC0, .saand (mw 8 4 12 20 1 2 3)),
   (0x25C08040C0500AC0, .saor (mw 8 4 12 20 1 2 3)),
   (0x25D08040C0500AC0, .saxor (mw 8 4 12 20 1 2 3)),
   (0x25E08040C0500AC0, .saxchg (mw 8 4 12 20 1 2 3)),
   (0x25F08040C0500AC0, .sacas (mw 8 4 12 20 1 2 3)),
   (0x26000FF00FFC04C0, .fence (mw 0 255 0 1023 0 4 3)),
   (0x26100FF00FFC0000, .fenceOr),
   (0x26200FF00FFC0000, .rfence),
   (0x2640004000501000, .pref (mw 0 4 0 20 2 0 0))]

theorem test_decode_memory : decodes (memoryWords1 ++ memoryWords2 ++ memoryWords3 ++ memoryWords4) = true := by decide +kernel

/-- Words of matrix instructions. -/
def matrixWords : List (Dword × Instr) :=
  [(0x2807808000500100, .mmaE4m3 { nsz := 1, acc := true, tb := true, ru := true, sa := false, a := 8, sc := 0, s := 20, acc12 := 4, la := false }),
   (0x2817808000500100, .mmaE5m2 { nsz := 1, acc := true, tb := true, ru := true, sa := false, a := 8, sc := 0, s := 20, acc12 := 4, la := false }),
   (0x2827808000500100, .mmaMix { nsz := 1, acc := true, tb := true, ru := true, sa := false, a := 8, sc := 0, s := 20, acc12 := 4, la := false }),
   (0x2837808000500100, .mmaBf16 { nsz := 1, acc := true, tb := true, ru := true, sa := false, a := 8, sc := 0, s := 20, acc12 := 4, la := false }),
   (0x2847808000500100, .mmaF16 { nsz := 1, acc := true, tb := true, ru := true, sa := false, a := 8, sc := 0, s := 20, acc12 := 4, la := false }),
   (0x2857808030500100, .mmaE2m1s { nsz := 1, acc := true, tb := true, ru := true, sa := false, a := 8, sc := 3, s := 20, acc12 := 4, la := false }),
   (0x2867808030500100, .mmaE4m3s { nsz := 1, acc := true, tb := true, ru := true, sa := false, a := 8, sc := 3, s := 20, acc12 := 4, la := false }),
   (0x2877808030500100, .mmaI8 { nsz := 1, acc := true, tb := true, ru := true, sa := false, a := 8, sc := 3, s := 20, acc12 := 4, la := false }),
   (0x2884008020000100, .accld { nsz := 1, acc := false, tb := false, ru := false, sa := false, a := 8, sc := 2, s := 0, acc12 := 4, la := false }),
   (0x2894008020000100, .accst { nsz := 1, acc := false, tb := false, ru := false, sa := false, a := 8, sc := 2, s := 0, acc12 := 4, la := false }),
   (0x28A4000000000100, .accz { nsz := 1, acc := false, tb := false, ru := false, sa := false, a := 0, sc := 0, s := 0, acc12 := 4, la := false }),
   (0x28B5000000500100, .acccvt { nsz := 1, acc := false, tb := true, ru := false, sa := false, a := 0, sc := 0, s := 20, acc12 := 4, la := false }),
   (0x28C0000000004000, .mwait { nsz := 0, acc := false, tb := false, ru := false, sa := false, a := 0, sc := 0, s := 0, acc12 := 256, la := false }),
   (0x29005FF000500000, .cpy (mw 5 255 0 20 0 0 0)),
   (0x29101FF000500000, .cpyt (mw 1 255 0 20 0 0 0)),
   (0x29200FF000500000, .cpym (mw 0 255 0 20 0 0 0)),
   (0x29300FF000500000, .cpymma (mw 0 255 0 20 0 0 0)),
   (0x2970004000500000, .cpyg (mw 0 4 0 20 0 0 0)),
   (0x2980004000500000, .cpys (mw 0 4 0 20 0 0 0))]

theorem test_decode_matrix : decodes (matrixWords) = true := by decide +kernel

/-- Words of group instructions. -/
def groupWords : List (Dword × Instr) :=
  [(0x2940000000000000, .cbatch),
   (0x295003FF00000080, .cwait (sw 0 1023 0 2)),
   (0x2960000401800000, .cblk (sw 0 4 6 0)),
   (0x300023FF014000C0, .binit (sw 8 1023 5 3)),
   (0x301023FF000000C0, .barr (sw 8 1023 0 3)),
   (0x3020200401400000, .bwait (sw 8 4 5 0)),
   (0x303023FF000000C0, .bsync (sw 8 1023 0 3)),
   (0x3040200400000000, .bquery (sw 8 4 0 0)),
   (0x3080200401800000, .spawn (sw 8 4 6 0)),
   (0x30C0200400000000, .dqpush (sw 8 4 0 0)),
   (0x30D0200000000000, .dqpop (sw 8 0 0 0)),
   (0x30E0200400000000, .dqsteal (sw 8 4 0 0)),
   (0x30F0200400000000, .dqsize (sw 8 4 0 0)),
   (0x3100200400000000, .launch (sw 8 4 0 0)),
   (0x318023FF00000080, .flowreq (sw 8 1023 0 2)),
   (0x3190000000000000, .flowrel),
   (0x31C0200401800000, .iclk (sw 8 4 6 0)),
   (0x31D0200401800000, .icunlk (sw 8 4 6 0)),
   (0x3200200000000000, .dgrd (sw 8 0 0 0))]

theorem test_decode_group : decodes (groupWords) = true := by decide +kernel

/-- Words of unit instructions. -/
def unitWords : List (Dword × Instr) :=
  [(0x3800804000500000, .emitm (fw 8 4 0 20)),
   (0x3810304050000000, .mout (fw 3 4 5 0)),
   (0x3820004050000000, .pout (fw 0 4 5 0)),
   (0x3830000000780000, .mend (fw 0 0 0 30)),
   (0x3840804000500000, .visq (fw 8 4 0 20)),
   (0x3850804000500000, .hzq (fw 8 4 0 20)),
   (0x3860004010000000, .pixout (fw 0 4 1 0)),
   (0x3870000000000000, .pixdisc),
   (0x3880804000500000, .sample (fw 8 4 0 20)),
   (0x3890804000500000, .sampleg (fw 8 4 0 20)),
   (0x38A0804000500000, .tld (fw 8 4 0 20)),
   (0x38B0004080500000, .imgst (fw 0 4 8 20)),
   (0x3901008000780000, .rayq (fw 16 8 0 30)),
   (0x3911008020780000, .rayw (fw 16 8 2 30)),
   (0x3921000010000000, .rayacc),
   (0x3931000000000000, .raycont),
   (0x3941000000000000, .rayterm),
   (0x3950004030000000, .repack (fw 0 4 3 0))]

theorem test_decode_unit : decodes (unitWords) = true := by decide +kernel
/-! ## Witnesses: arithmetic -/

theorem test_meets_integer_arithmetic : ∃ i op f res s s' w sp, arithRow i = some (op, f, res) ∧ Gathers s f.width s' ∧ Issues s' (op.uses f) w sp ∧ farReads op f (w.seen sp s'.free) sp = false :=
  have ⟨s', w, sp, h⟩ := lanewise_of (s := state8) (n := (fw 8 4 5 0).width) (u := FOp.iadd.uses (fw 8 4 5 0)) (by decide +kernel)
  ⟨.iadd (fw 8 4 5 0), .iadd, fw 8 4 5 0, _, state8, s', w, sp, rfl, h.1, h.2, rfl⟩

theorem test_meets_bit_instructions : ∃ i op f res s s' w sp, bitRow i = some (op, f, res) ∧ Gathers s f.width s' ∧ Issues s' (op.uses f) w sp ∧ farReads op f (w.seen sp s'.free) sp = false :=
  have ⟨s', w, sp, h⟩ := lanewise_of (s := state8) (n := (fw 8 4 5 6).width) (u := FOp.bfi.uses (fw 8 4 5 6)) (by decide +kernel)
  ⟨.bfi (fw 8 4 5 6), .bfi, fw 8 4 5 6, _, state8, s', w, sp, rfl, h.1, h.2, rfl⟩

theorem test_meets_floating_point :
    (∃ i op f res s s' w sp, floatRow i = some (op, f, res) ∧ Gathers s f.width s' ∧ Issues s' (op.uses f) w sp ∧ farReads op f (w.seen sp s'.free) sp = false) ∧
    ∃ i op f res s s' w sp, doubleRow i = some (op, f, res) ∧ Gathers s f.width s' ∧ Issues s' (op.uses f) w sp ∧ farReads op f (w.seen sp s'.free) sp = false :=
  have ⟨s', w, sp, h⟩ := lanewise_of (s := state8) (n := (fw 8 4 5 6).width) (u := FOp.ffma.uses (fw 8 4 5 6)) (by decide +kernel)
  have ⟨t', v, sq, k⟩ := lanewise_of (s := state8) (n := (fw 8 4 6 0).width) (u := FOp.dadd.uses (fw 8 4 6 0)) (by decide +kernel)
  ⟨⟨.ffma (fw 8 4 5 6), .ffma, fw 8 4 5 6, _, state8, s', w, sp, rfl, h.1, h.2, rfl⟩, ⟨.dadd (fw 8 4 6 0), .dadd, fw 8 4 6 0, _, state8, t', v, sq, rfl, k.1, k.2, rfl⟩⟩

theorem test_meets_packed_and_conversions :
    (∃ i op f res s s' w sp, packedRow i = some (op, f, res) ∧ Gathers s f.width s' ∧ Issues s' (op.uses f) w sp ∧ farReads op f (w.seen sp s'.free) sp = false) ∧
    ∃ i op f res s s' w sp, convertRow i = some (op, f, res) ∧ Gathers s f.width s' ∧ Issues s' (op.uses f) w sp ∧ farReads op f (w.seen sp s'.free) sp = false :=
  have ⟨s', w, sp, h⟩ := lanewise_of (s := state8) (n := (fw 8 4 5 0).width) (u := FOp.hadd2.uses (fw 8 4 5 0)) (by decide +kernel)
  have ⟨t', v, sq, k⟩ := lanewise_of (s := state8) (n := (fw 8 4 0xA5 0).width) (u := FOp.cvt.uses (fw 8 4 0xA5 0)) (by decide +kernel)
  ⟨⟨.hadd2 (fw 8 4 5 0), .hadd2, fw 8 4 5 0, _, state8, s', w, sp, rfl, h.1, h.2, rfl⟩,
   ⟨.cvt (fw 8 4 0xA5 0), .cvt, fw 8 4 0xA5 0, _, state8, t', v, sq, rfl, k.1, k.2, rfl⟩⟩

theorem test_meets_compares : ∃ (f : FArgs) (s s' : State) (w : Wave) (sp : Split), Gathers s f.width s' ∧ Issues s' (FOp.icmp.uses f) w sp ∧
    farReads .icmp f (w.seen sp s'.free) sp = false :=
  have ⟨s', w, sp, h⟩ := lanewise_of (s := state8) (n := (fw 0x11 4 5 0).width) (u := FOp.icmp.uses (fw 0x11 4 5 0)) (by decide +kernel)
  ⟨fw 0x11 4 5 0, state8, s', w, sp, h.1, h.2, rfl⟩

theorem test_meets_special_reads : ∃ (f : FArgs) (s : State) (w : Wave) (sp : Split), f.mod = 0 ∧
    (∀ v x, s.issuing = some (v, x) → s.shadowOf v.group = false ∨ timingRegister f.b.toNat = false) ∧ Issues s (FOp.vrds.uses f) w sp :=
  have ⟨w, sp, h⟩ := issues_of (s := state8) (u := FOp.vrds.uses (fw 8 0 1 0)) (by decide +kernel)
  ⟨fw 8 0 1 0, state8, w, sp, rfl, fun _ _ _ => .inr (by decide +kernel), h⟩

theorem test_meets_frees : ∃ s w sp, Issues s { vfree := [4, 5] } w sp :=
  have ⟨w, sp, h⟩ := issues_of (s := state8) (u := { vfree := [4, 5] }) (by decide +kernel)
  ⟨state8, w, sp, h⟩

theorem issuing8 : state8.issuing = some (wave8, split8) := by decide +kernel

/-- The wave of eight lanes at a segment of eight lanes. -/
def gathered8 : State := gatherAt state8 wave8

theorem test_meets_cross_lane : ∃ i c s s' w sp, crossRow i = some c ∧ Gathers s c.width s' ∧
    (∀ v x, s.issuing = some (v, x) → (c.op = .wrlane ∨ (c.op = .rdlane ∧ c.f.bs = false)) → c.f.dist < segment c.f v) ∧
    Issues s' { c.op.uses c.f with wide := true } w sp ∧
    (w.seen sp s'.free).farPoison c.op c.f sp (c.from_ (w.seen sp s'.free) sp) = false :=
  have ⟨w, sp, h⟩ := issues_of (s := gathered8) (u := { FOp.shfl.uses (fw 8 4 5 0 (3 * 64 + 8)) with wide := true }) (by decide +kernel)
  have e : gathered8.issuing = some (wave8, split8) := by decide +kernel
  have q : (wave8, split8) = (w, sp) := Option.some.inj (e.symm.trans h.2.1)
  ⟨.shfl (fw 8 4 5 0 (3 * 64 + 8)), _, state8, gathered8, w, sp, rfl,
    gathers_wide issuing8 (by decide +kernel), (by rintro _ _ _ (h | h) <;> cases h; contradiction), h, by cases q; decide +kernel⟩

theorem test_meets_cross_lane_narrow : ∃ i c s s' w sp, crossRow i = some c ∧ c.op = .rdlane ∧ c.f.bs = false ∧ Gathers s c.width s' ∧
    c.f.dist < segment c.f w ∧ Issues s' { c.op.uses c.f with wide := true } w sp ∧
    (w.seen sp s'.free).farPoison c.op c.f sp (c.from_ (w.seen sp s'.free) sp) = false :=
  have ⟨w, sp, h⟩ := issues_of (s := state8) (u := { FOp.rdlane.uses (fw 8 4 0 0 (2 * 64 + 3)) with wide := true }) (by decide +kernel)
  have q : (wave8, split8) = (w, sp) := Option.some.inj (issuing8.symm.trans h.2.1)
  ⟨.rdlane (fw 8 4 0 0 (2 * 64 + 3)), _, state8, state8, w, sp, rfl, rfl, rfl, gathers_narrow (by decide +kernel), (by change 3 < 4; decide), h,
    by cases q; decide +kernel⟩

/-- A lane past the width, an exited lane, a lane of the split, and a lane of another split. -/
theorem test_meets_lane_reads : wave8.width ≤ 8 ∧ wave8.exited.getLsbD 5 = true ∧ (7 < wave8.width ∧ wave8.exited.getLsbD 7 = false) ∧
    split8.lanes.getLsbD 7 = true ∧ ({ split8 with lanes := 0x0F } : Split).lanes.getLsbD 7 = false := by decide +kernel

theorem test_meets_source_modifiers : (fw 8 4 5 0).mod.toNat / 512 = 0 ∧ (fw 8 4 5 0 (512 + 64 * 2 + 3)).mod.toNat / 512 = 1 := by decide

theorem test_meets_pair_frame : ∃ h0 h1 s w sp, known h0 ∧ known h1 ∧ (acts h0 = true → acts h1 = true → h0.d ≠ h1.d) ∧
    Issues s (pairUses h0 h1) w sp :=
  have ⟨w, sp, h⟩ := issues_of (s := state8) (u := pairUses ⟨1, 8, 4, 5⟩ ⟨0x52, 9, 6, 0x3C⟩) (by decide +kernel)
  ⟨⟨1, 8, 4, 5⟩, ⟨0x52, 9, 6, 0x3C⟩, state8, w, sp, by unfold known; decide, by unfold known; decide, by decide, h⟩

/-! ## Witnesses: scalars -/

theorem test_meets_scalar_arithmetic : ∃ i a dn an bn more res s w sp, scalarRow i = some (a, dn, an, bn, more, res) ∧
    Issues s (scalarUses a dn an bn more) w sp :=
  have ⟨w, sp, h⟩ := issues_of (s := state8) (u := scalarUses (sw 8 4 6 0) 1 1 1 []) (by decide +kernel)
  ⟨.siadd (sw 8 4 6 0), _, _, _, _, _, _, state8, w, sp, rfl, h⟩

/-- A state in which service core 2 executes. -/
def svcState : State := { State.reset with cur := { iaddr := 0x100, caddr := 0x100, next := 0x108, svc := some 2 }, svcs := [(2, { halted := false })] }

theorem test_meets_scalar_on_service_cores : ∃ (i : Instr) (a : SArgs) (dn an bn : Nat) (more : List Nat) (res : (Nat → Word) → List Word) (s : State) (n : Nat), scalarRow i = some (a, dn, an, bn, more, res) ∧ s.cur.svc = some n :=
  ⟨.siadd (sw 8 4 6 0), _, _, _, _, _, _, svcState, 2, rfl, rfl⟩

theorem test_meets_mask_moves : ∃ s w sp, Issues s { sw := [8, 9] } w sp :=
  have ⟨w, sp, h⟩ := issues_of (s := state8) (u := { sw := [8, 9] }) (by decide +kernel)
  ⟨state8, w, sp, h⟩

theorem test_meets_mask_write : ∃ (a : SArgs) (s : State) (w : Wave) (sp : Split), a.imm.toNat % 8 ≠ 0 ∧
    Issues s { sr := [a.a.toNat, a.a.toNat + 1], sfree := if a.la then [a.a.toNat, a.a.toNat + 1] else [] } w sp :=
  have ⟨w, sp, h⟩ := issues_of (s := state8) (u := { sr := [4, 5], sfree := [] }) (by decide +kernel)
  ⟨sw 0 4 0 3, state8, w, sp, by decide, h⟩

theorem test_meets_special_register_moves : ∃ (a : SArgs) (s : State) (w : Wave) (sp : Split),
    (∀ v x, s.issuing = some (v, x) → s.shadowOf v.group = false ∨ timingRegister a.imm.toNat = false) ∧
    Issues s { sw := (List.range (if wideSpecial a.imm.toNat then 2 else 1)).map (a.d.toNat + ·) } w sp :=
  have ⟨w, sp, h⟩ := issues_of (s := state8) (u := { sw := (List.range (if wideSpecial 0x12 then 2 else 1)).map (8 + ·) }) (by decide +kernel)
  ⟨sw 8 0 0 0x12, state8, w, sp, fun _ _ _ => .inr (by decide +kernel), h⟩

/-- The scalar that %frm and %prio are written from. -/
theorem test_meets_special_writes : ∃ s w sp, Issues s { sr := [4], sfree := [] } w sp :=
  have ⟨w, sp, h⟩ := issues_of (s := state8) (u := { sr := [4], sfree := [] }) (by decide +kernel)
  ⟨state8, w, sp, h⟩

theorem test_meets_special_reads_on_service_cores : svcState.cur.svc = some 2 ∧ (sw 8 0 0 0x0C).imm = 0x0C ∧ (sw 8 0 0 0x20).imm = 0x20 ∧
    (sw 8 0 0 0x13).imm ≠ 0x0C ∧ (sw 8 0 0 0x13).imm ≠ 0x20 := by decide

theorem test_meets_scalar_frees : ∃ s w sp, Issues s { sfree := [4, 5] } w sp :=
  have ⟨w, sp, h⟩ := issues_of (s := state8) (u := { sfree := [4, 5] }) (by decide +kernel)
  ⟨state8, w, sp, h⟩

/-! ## Witnesses: control -/

theorem test_meets_loop_end : let e : LoopEntry := { start := 0x1000, stop := 0x1008, count := 2, depth := 0 }
    ({ split8 with loops := [e] } : Split).loops = [e] ∧ e.stop = 0x1008 ∧ e.depth = split8.depth ∧ 1 < e.count.toNat ∧
      ({ e with count := 1 } : LoopEntry).count.toNat ≤ 1 ∧ ¬ (e.stop = 0x1010 ∧ e.depth = split8.depth) := by decide

theorem transfers8 : mayTransfer state8 split8 := by simp [mayTransfer, split8]

theorem test_meets_whole_split_control : Issues state8 {} wave8 split8 ∧ mayTransfer state8 split8 :=
  have ⟨w, sp, h⟩ := issues_of (s := state8) (u := {}) (by decide +kernel)
  have q : (wave8, split8) = (w, sp) := Option.some.inj (issuing8.symm.trans h.2.1)
  ⟨by cases q; exact h, transfers8⟩

theorem test_meets_mask_branches : state8.issuing = some (wave8, split8) ∧ split8.loops.head? = none ∧ wave8.liveOf split8 ≠ 0 := by decide +kernel

/-- A divergence with room, and one without. -/
theorem test_meets_divergence : wave8.split 0 = some split8 ∧ (∃ t, 1 ≤ t ∧ t ≤ 72 ∧ ∀ r ∈ wave8.records, r.tag ≠ t) ∧
    (let w : Wave := { wave8 with splits := wave8.splits ++ [(1, some {}), (2, some {}), (3, some {})]
                                  paths := List.replicate 8 {} ++ List.replicate 64 { queued := false }
                                  records := List.replicate 8 {} }
     (8 - (w.records.filter (fun r => r.inReg)).length) + (8 - (w.paths.filter (fun p => p.queued)).length) +
       (64 - ((w.paths.filter (fun p => !p.queued)).length + (w.records.filter (fun r => !r.inReg)).length)) < 1) ∧
    (wave8.diverge 0 split8 ⟨0x0F, split8⟩ [⟨0xD0, split8⟩] (some 0x2000) 0 false).map (fun v => wave8.spillTouched v) = some [] :=
  ⟨by decide +kernel, ⟨1, by decide +kernel⟩, by decide +kernel, by decide +kernel⟩

theorem test_meets_calls : Issues state8 { vw := [8, 9] } wave8 split8 ∧ mayTransfer state8 split8 ∧ split8.depth ≠ 0xFFFF :=
  have ⟨w, sp, h⟩ := issues_of (s := state8) (u := { vw := [8, 9] }) (by decide +kernel)
  have q : (wave8, split8) = (w, sp) := Option.some.inj (issuing8.symm.trans h.2.1)
  ⟨by cases q; exact h, transfers8, by decide⟩

theorem test_meets_indirect_calls : (∃ w sp, Issues state8 { vr := [4, 5], vw := [8, 9] } w sp) ∧ split8.loops = [] ∧ split8.depth ≠ 0xFFFF ∧
    wave8.liveOf split8 ≠ 0 :=
  ⟨issues_of (by decide +kernel), by decide +kernel⟩

/-- The wave at call depth 1, from which RET returns. -/
def wave8deep : Wave := { wave8 with splits := [(0, some { split8 with depth := 1 })] }

theorem test_meets_returns : ∃ w sp, Issues (issuing wave8deep) { vr := [4, 5] } w sp ∧ sp.depth ≠ 0 ∧ w.liveOf sp ≠ 0 ∧ sp.loops = [] :=
  match issues_of (s := issuing wave8deep) (u := { vr := [4, 5] }) (by decide +kernel) with
  | ⟨w, sp, i⟩ =>
    have e : (issuing wave8deep).issuing = some (wave8deep, { split8 with depth := 1 }) := by decide +kernel
    have q := Option.some.inj (e.symm.trans i.2.1)
    ⟨w, sp, i, by cases q; decide +kernel⟩

/-- A split within a loop that ends at another word. -/
def wave8loop : Wave := { wave8 with splits := [(0, some { split8 with loops := [{ start := 0xFF0, stop := 0x1010, count := 3 }] })] }

theorem test_meets_loop_exit : (issuing wave8loop).issuing =
      some (wave8loop, { split8 with loops := [{ start := 0xFF0, stop := 0x1010, count := 3 }] }) ∧
    (issuing wave8loop).cur.svc = none ∧ (0x1010 : Dword) ≠ (issuing wave8loop).cur.caddr ∧
    wave8loop.liveOf split8 ≠ 0 ∧ wave8loop.liveOf split8 &&& wave8loop.mask split8 1 ≠ 0 ∧
    wave8loop.liveOf split8 &&& wave8loop.mask split8 1 ≠ wave8loop.liveOf split8 := by decide +kernel

/-- FUSE 8 in a wave whose only split it is, and FUSE 4 outside of a miss pair. -/
theorem test_meets_fuse : (∃ s', Gathers state8 (2 ^ 3) s' ∧ state8.cur.aux = none) ∧ min (2 ^ 2) wave8.width < 8 ∧ split8.miss = none :=
  ⟨⟨gathered8, gathers_wide issuing8 (by decide +kernel), rfl⟩, by decide, rfl⟩

/-- A wave of two splits, the second elsewhere, of which FUSE waits for the other. -/
def wave8two : Wave :=
  { wave8 with splits := [(0, some { split8 with lanes := 0x0F, miss := some 1 }), (1, some { split8 with pc := 0x2000, lanes := 0xF0, miss := some 0 })] }

theorem test_meets_fuse_waits : wave8two.split 1 = some { split8 with pc := 0x2000, lanes := 0xF0, miss := some 0 } ∧
    ({ split8 with pc := 0x2000, lanes := 0xF0, miss := some 0 } : Split).waitsHere 0x1000 0 = false ∧
    split8.state = 0 ∧ split8.rep = 0 ∧ wave8two.fuseHere 0 = (wave8two, 0) ∧ wave8two.soleSplit 0 = false ∧ ∃ e < 4, wave8two.split e = none :=
  ⟨by decide +kernel, by decide +kernel, rfl, rfl, by decide +kernel, by decide +kernel, 2, by decide +kernel⟩

theorem test_meets_exit : state8.issuing = some (wave8, split8) ∧
    (wave8.spillTouched (wave8.exitLanes 0 (wave8.liveOf split8))).findSome? (state8.spillFault 0 0 wave8) = none ∧
    wave8.spillTouched (wave8.exitLanes 0 (wave8.liveOf split8)) = [] := ⟨issuing8, by decide +kernel, by decide +kernel⟩

theorem test_meets_stops_of_control : (wave8.run = .running ∧ state8.shadowOf wave8.group = false) ∧
    split8.sig = (0 : BitVec 24) ++ (0 : Byte) ∧
    (let s : State := { issuing wave8loop with cur := { (issuing wave8loop).cur with caddr := 0x1010 } }
     ∃ e ∈ ({ split8 with loops := [{ start := 0xFF0, stop := 0x1010, count := 3 }] } : Split).loops.head?, e.stop = s.cur.caddr) :=
  ⟨by decide +kernel, by decide, ⟨_, rfl, rfl⟩⟩

/-! ## Witnesses: memory operations -/

/-- What a load of two words names from a pair of registers, and the wave has room behind it. -/
theorem test_meets_memory_instructions : ∃ i m s w sp, memRow i = some m ∧ (m.kind = .load ∧ m.space ≠ .scratch → m.a.ms = false) ∧
    Issues s m.uses w sp ∧ w.ops.length < 16 :=
  have ⟨w, sp, h⟩ := issues_of (s := state8) (u := (loadRow (mw 8 4 0 0x3FF 1 0 0) .global .load .b64).uses) (by decide +kernel)
  have q : (wave8, split8) = (w, sp) := Option.some.inj (issuing8.symm.trans h.2.1)
  ⟨.ldg .b64 (mw 8 4 0 0x3FF 1 0 0), _, state8, w, sp, rfl, fun _ => rfl, h, by cases q; decide⟩

theorem test_meets_stores_and_atomics : (∃ w sp, Issues state8 { vr := [4, 5, 8] } w sp) ∧ (∃ w sp, Issues state8 { vr := [4, 5, 8], vw := [9] } w sp) ∧
    wave8.ops.length < 16 ∧ wave8.liveOf split8 ≠ 0 ∧ wave8.liveOf split8 &&& split8.guard 3 = 0 :=
  ⟨issues_of (by decide +kernel), issues_of (by decide +kernel), by decide +kernel⟩

/-- A load with MS whose second quad misses: lane 0 has its word in L1, and lane 4 not. -/
def missOp : MemOp := { ms := true, pc := 0x1000, run := 0x11, size := 4, addrs := [(0, 0x2000), (4, 0x4000)], passed := true }

/-- The wave with that load behind it. -/
def missWave : Wave := { wave8 with ops := [missOp], nextOp := 1 }

/-- State 8 with the page of lane 0 in core 0's TLB and its sector in that core's L1. -/
def missState : State :=
  ({ state8 with cores := [(0, { tlb := [{ ctx := 0, vbase := 0x2000, pbase := 0x2000, size := 4096, attr := 0, pin := false, wpl := false,
                                           dev := false, np := false, x := false, w := true, r := true }] })] } : State).fillL1 0 0 0x2000 false

theorem test_meets_miss_split : missState.issuing = some (wave8, split8) ∧ (missState.setWave 0 0 (some missWave)).issuing = some (missWave, split8) ∧
    missWave.ops.getLast? = some missOp ∧ missWave.nextOp ≠ wave8.nextOp ∧ missState.cur.aux = none ∧ split8.rep = 0 ∧
    (let atHand := fun (l : Nat) => (missState.partAddrs 0 0 missWave missOp l).all (fun p => missState.hitsL1 0 missWave.ctx p.2.2 p.2.1)
     atHand 0 = true ∧ atHand 4 = false) ∧ missOp.run.getLsbD 4 = true ∧
    missWave.split 1 = none ∧ (∀ j < 1, missWave.split j ≠ none) ∧ (∀ j < 4, j ≠ 0 → (missWave.split j).bind (fun x => x.miss) = none) := by
  decide +kernel

theorem test_meets_scalar_memory : (∃ w sp, Issues state8 { sr := [4, 5], sw := [8, 9], sfree := [] } w sp) ∧
    (∃ w sp, Issues state8 { sr := [], sw := [8], sfree := [] } w sp) ∧ (∃ w sp, Issues state8 { sr := [4, 5, 6, 7], sfree := [] } w sp) ∧
    state8.cur.svc = none :=
  ⟨issues_of (by decide +kernel), issues_of (by decide +kernel), issues_of (by decide +kernel), rfl⟩

/-- The wave of eight lanes with the descriptor of a texture of 4 by 4 texels of 4 bytes in s8 to s19. -/
def texWave : Wave := { wave8 with sregs := [(8, 0x8000), (10, 0x00040004), (11, 1), (12, 16), (14, 64)] }

theorem test_meets_textures : (let s := issuing texWave
      s.issuing = some (texWave, split8) ∧ descriptorOk (desc (texWave.seen split8 s.free) 8 12) = true ∧
      (∃ w sp, Issues s (FOp.uses .tld (fw 8 4 0 8)) w sp) ∧ (∃ w sp, Issues s (FOp.uses .sample (fw 8 4 0 8)) w sp) ∧
      (∃ w sp, Issues s (FOp.uses .sampleg (fw 8 4 0 8)) w sp) ∧ ∃ w sp, Issues s (FOp.uses .imgst (fw 0 4 8 8)) w sp) ∧
    (∃ w sp, Issues state8 (FOp.uses .tld (fw 8 4 0 0)) w sp) ∧ (∃ w sp, Issues state8 (FOp.uses .visq (fw 8 4 0 4)) w sp) ∧
    (∃ w sp, Issues state8 (FOp.uses .hzq (fw 8 4 0 4)) w sp) ∧ descriptorOk (desc wave8 12 12) = false :=
  ⟨⟨by decide +kernel, by decide +kernel, issues_of (by decide +kernel), issues_of (by decide +kernel), issues_of (by decide +kernel),
    issues_of (by decide +kernel)⟩, issues_of (by decide +kernel), issues_of (by decide +kernel), issues_of (by decide +kernel), by decide +kernel⟩

theorem test_meets_fences : state8.cur.svc = none ∧ state8.issuing = some (wave8, split8) ∧ wave8.ops.length < 16 ∧ runM (mw 0 255 0 1023 0 4 3) wave8 split8 ≠ 0 ∧
    (∀ o ∈ wave8.ops, o.passed = true ∧ ∀ u ∈ o.units, u.done = true) ∧
    (let w : Wave := { wave8 with ops := [{ missOp with passed := false }] }
     (issuing w).issuing = some (w, split8) ∧ { missOp with passed := false } ∈ w.ops) :=
  ⟨rfl, issuing8, by decide, by decide +kernel, by decide, by decide +kernel⟩

theorem test_meets_wave_fence : Fuses state8 gathered8 ∧ ∃ w sp, gathered8.issuing = some (w, sp) :=
  have h : Gathers state8 64 gathered8 := gathers_wide issuing8 (by decide +kernel)
  ⟨by
    obtain ⟨w, sp, i, h | h⟩ := h
    · rw [issuing8] at i; cases i; exact absurd h.1 (by decide)
    · exact h.2, wave8, split8, by decide +kernel⟩

/-- One lane prefetches from the page at hand, whose line is not in L1. -/
theorem test_meets_prefetch : (∃ w sp, Issues state8 { (loadRow (mw 0 4 0 0x3FF 0 0 0) .global .load .b32).uses with vw := [] } w sp) ∧
    let w : Wave := { wave8 with width := 4, exited := 0xE, vregs := [(256, 0x2040)], splits := [(0, some { pc := 0x1000, lanes := 1 })] }
    let s := { missState with waves := (issuing w).waves }
    let a := mw 0 4 0 0x3FF 0 0 0
    (∃ w sp, Issues s { (loadRow a .global .load .b32).uses with vw := [] } w sp) ∧ runM a w { pc := 0x1000, lanes := 1 } = laneBit 0 ∧
    ((loadRow a .global .load .n8).address w 0) = 0x2040 ∧
    (s.tlbLook 0 w.ctx 0x2040).map (fun e => ((pageCheck e 0x2040 { read := true, plain := true }).toOption, e.np, e.dev, decide (e.attr < 2))) =
      some (some 0x2040, false, false, true) ∧
    placeOf 0x2040 = .memory ∧ noLine 0x2040 = false ∧ s.poisoned 0x2040 1 = false ∧ 0 < s.l1Ways 0 :=
  ⟨issues_of (by decide +kernel), issues_of (by decide +kernel), by decide +kernel⟩

/-- The first words of a page table: a page of module memory, readable and writable. -/
def page : TlbEntry := { ctx := 1, vbase := 0x10000, pbase := 0x20000, size := 4096, attr := 0, pin := false, wpl := false, dev := false, np := false, x := false, w := true, r := true }

theorem test_meets_access_checks : let w : Walked := { page := page, cause := none }
    (0x10010 : Dword).toNat < 2 ^ 56 ∧ (0x10010 : Dword).toNat % 4 = 0 ∧ (0x10012 : Dword).toNat % 4 ≠ 0 ∧ w.cause = none ∧ page.x = false ∧ page.dev = false ∧
    placeOf (page.pbase + (0x10010 - page.vbase)) = .memory ∧ ({ page with dev := true } : TlbEntry).dev = true ∧ ({ page with wpl := true } : TlbEntry).wpl = true := by
  decide +kernel

/-- Context 1 with its root at 0x1000, and a chain of tables 0x2000, 0x3000, 0x4000 and 0x5000 to the page 0x6000, which may be read. -/
def pagedState : State :=
  ({ State.reset with
    mem := [(0x1000, 1), (0x1001, 0x80), (0x2000, 1), (0x2001, 0xC0), (0x3000, 1), (0x3002, 1), (0x4000, 1), (0x4001, 0x40), (0x4002, 1), (0x5000, 7), (0x5001, 0x80), (0x5002, 1)]
  } : State).setCsr 4 0x3010 0x1000 |>.setCsr 4 0x3018 0x80000000

theorem test_meets_page_walk : pagedState.ctxValid 1 = true ∧ State.reset.ctxValid 1 = false ∧
    (let frame := fun (e : Dword) => e.toNat / 2 ^ 14 % 2 ^ 34 * 4096
     frame (pagedState.dwordAt 0x1000) = 0x2000 ∧ frame (pagedState.dwordAt 0x2000) = 0x3000 ∧ frame (pagedState.dwordAt 0x3000) = 0x4000 ∧
     frame (pagedState.dwordAt 0x4000) = 0x5000 ∧ frame (pagedState.dwordAt 0x5000) = 0x6000 ∧
     [0x1000, 0x2000, 0x3000, 0x4000].all (fun a => entryMalformed 4 (pagedState.dwordAt a) = false ∧ (pagedState.dwordAt a).getLsbD 0 = true ∧
       (pagedState.dwordAt a).getLsbD 1 = false) = true ∧
     (pagedState.dwordAt 0x5000).getLsbD 1 = true ∧ (pagedState.dwordAt 0x5000).extractLsb' 10 4 = 0 ∧ (pagedState.dwordAt 0x5000).extractLsb' 56 8 = 0 ∧
     (pagedState.dwordAt 0x5008).getLsbD 0 = false ∧ (pagedState.dwordAt 0x1008).getLsbD 0 = false) ∧
    [(0x3000, 2, 0), (0x4000, 1, 0), (0x5000, 0, 0), (0x5000, 0, 1)].all (fun x => pagedState.entryChoices x.1 x.2.1 x.2.2 = [x.2.2]) = true ∧
    pageIndex 0 0x1000 = 1 ∧ pageIndex 4 (2 ^ 48) = 1 ∧
    (let s := { pagedState with mem := [(0x5000, 1)] }; (s.dwordAt 0x5000).getLsbD 0 = true ∧ (s.dwordAt 0x5000).getLsbD 1 = false) ∧
    (pagedState.walk 1 0).page.pbase = 0x6000 ∧ (pagedState.walk 1 0).cause = none := by decide +kernel

/-- A wave with one operation, a state in which it is resident, and an event that names the operation's part 0. -/
def opState (o : MemOp) : State := { issuing { wave8 with ops := [o] } with arg := .access 0 0 0 0 false }

/-- A load of lane 0 of 4 bytes at physical address 0x2000, whose checks have passed. -/
def loadOp : MemOp := { run := 1, live := 1, size := 4, addrs := [(0, 0x2000)], dst := .vec 8 1, passed := true, units := [{ lane := 0, len := 4, va := 0x2000, pa := 0x2000 }] }

/-- The hypotheses of a performance of part 0 of an operation that has one part. -/
theorem performs_of {s : State} {w : Wave} {o : MemOp} {u : AccUnit} (h : s.arg = .access 0 0 o.id 0 false) (hu : o.units = [u])
    (hw : s.wave 0 0 = some w) (ho : w.op o.id = some o) (hf : o.fault = none)
    (hp : (s.mayPerform 0 0 w o 0 false && decide (u.undef = none) && decide (0 < u.len) && decide (u.off % 16 + u.len ≤ 16)) = true) :
    Performs s 0 0 w o 0 u := by
  simp only [Bool.and_eq_true, decide_eq_true_eq] at hp
  refine ⟨h, hw, ho, by rw [hu]; rfl, hf, ?_, hp.1.1.1, hp.1.1.2, hp.1.2, hp.2⟩
  intro j hj hk
  rw [hu] at hj
  match j with
  | 0 => exact absurd rfl hk
  | j + 1 => exact absurd rfl hj

theorem test_meets_memory_accesses : ∃ s w o u, Performs s 0 0 w o 0 u ∧ o.space ≠ .scratch ∧ placeOf u.pa = .memory ∧ s.shadowOf w.group = false ∧
    s.poisoned u.pa u.len = false ∧ o.kind = .load :=
  ⟨opState loadOp, { wave8 with ops := [loadOp] }, loadOp, _, performs_of rfl rfl (by decide +kernel) (by decide +kernel) rfl (by decide +kernel), by decide +kernel⟩

theorem test_meets_stores_perform : let o := { loadOp with kind := .store, data := [(0, 0x11223344)] }
    ∃ s w u, Performs s 0 0 w o 0 u ∧ placeOf u.pa = .memory ∧ u.off + u.len ≤ 16 :=
  let o := { loadOp with kind := .store, data := [(0, 0x11223344)] }
  ⟨opState o, { wave8 with ops := [o] }, _, performs_of rfl rfl (by decide +kernel) (by decide +kernel) rfl (by decide +kernel), by decide +kernel⟩

theorem test_meets_atomics_perform : let o := { loadOp with kind := .atomic .add, data := [(0, 5)] }
    ∃ s w u, Performs s 0 0 w o 0 u ∧ placeOf u.pa = .memory ∧ u.len = 4 :=
  let o := { loadOp with kind := .atomic .add, data := [(0, 5)] }
  ⟨opState o, { wave8 with ops := [o] }, _, performs_of rfl rfl (by decide +kernel) (by decide +kernel) rfl (by decide +kernel), by decide +kernel⟩

theorem test_meets_scratchpad_accesses : let o := { loadOp with space := .scratch, units := [{ lane := 0, len := 4, pa := 0x20, grp := 1 }] }
    ∃ s w u g, Performs s 0 0 w o 0 u ∧ s.group u.grp = some g ∧ s.scratchBad u.grp u.pa u.len = false :=
  let o := { loadOp with space := .scratch, units := [{ lane := 0, len := 4, pa := 0x20, grp := 1 }] }
  ⟨opState o, { wave8 with ops := [o] }, _, { live := [0] }, performs_of rfl rfl (by decide +kernel) (by decide +kernel) rfl (by decide +kernel), by decide +kernel⟩

/-- An operation whose checks have not been made: the page of its address is at hand in the core's TLB, or the context is not valid; and one whose
translation is not at hand, in a valid context. -/
theorem test_meets_operation_checks : let o := { loadOp with passed := false, units := [] }
    let s := { opState o with cores := [(0, { tlb := [{ page with ctx := 0, vbase := 0x2000, pbase := 0x2000, r := true }] })], arg := .at3 0 0 0 }
    s.wave 0 0 = some { wave8 with ops := [o] } ∧ ({ wave8 with ops := [o] } : Wave).op 0 = some o ∧ s.shadowOf 1 = false ∧
    (s.opCheck 0 0 { wave8 with ops := [o] } o).toOption.isSome = true ∧ s.opKnown 0 0 { wave8 with ops := [o] } o = true ∧
    (match (opState o).opCheck 0 0 { wave8 with ops := [o] } o with
      | .error e => decide (e.cause ≠ .breakpoint) && decide (fateOf e.cause e.kind ≠ .kill)
      | .ok _ => false) = true ∧ 0 ∈ lanesOf (o.run &&& ~~~o.doneMask) ∧
    (match (opState o).laneCheck 0 0 { wave8 with ops := [o] } o 0 with
      | .error _ => true
      | .ok _ => false) = true ∧
    wave8.run = .running ∧ (opState o).shadowOf wave8.group = false ∧
    ((opState o).setCsr 4 0x3008 0x80000000).opKnown 0 0 { wave8 with ops := [o] } o = false := by decide +kernel

/-- A walker at the root of context 1, whose entry names a table, and one at its last, which is a page; and an operation that is gone. -/
theorem test_meets_walkers : let x : PageWalk := { ctx := 1, table := 0x1000 }
    let s : State := { pagedState with arg := .at2 0 0, dies := [(0, { walks := [x] })], free := 1 }
    (s.die 0).walks[0]? = some x ∧ s.walkRead 1 0 4 0x1000 = .on 0x2000 ∧
    (match s.walkRead 1 0 0 0x5000 with
      | .done r => decide (r.cause = none)
      | .on _ => false) = true ∧ (s.wave 0 0).bind (fun w => w.op 0) = none := by decide +kernel

theorem test_meets_loads_return : let o := { loadOp with units := [{ lane := 0, len := 4, pa := 0x2000, done := true }], got := [(0, 9)] }
    let s := { opState o with arg := .at3 0 0 0 }
    o.passed = true ∧ o.fault = none ∧
    s.arg = .at3 0 0 o.id ∧ s.wave 0 0 = some { wave8 with ops := [o] } ∧ ({ wave8 with ops := [o] } : Wave).op 0 = some o ∧
    o.size ∈ [1, 2, 4, 8, 16] ∧ o.kind = .load ∧ (∀ u ∈ o.units, u.done = true) := by decide +kernel

/-! ## Witnesses: the matrix array and the copy engine -/

/-- A wave of 64 lanes, one of whose registers' ranges is bound. -/
def wave64 : Wave :=
  { group := 1, width := 64, vres := 256, vmax := 256, sres := 1024, smax := 1024,
    sbound := (List.range 24).map (fun k => (k, true)), sregs := [(6, 0x1000), (7, 9)], splits := [(0, some { pc := 0x1000, lanes := BitVec.allOnes 64 })] }

/-- A state in which it issues, with 64 KiB of scratchpad and 256 KiB of accumulators. -/
def state64 : State :=
  { issuing wave64 with launches := [(0, some { segments := some [], words := List.replicate 11 0 ++ [0x10000, 256, 0, 0, 0] })] }

/-- That state once the split stands alone at a forced fuse point. -/
def gathered64 : State := gatherAt state64 wave64

/-- Its split. -/
def split64 : Split := { pc := 0x1000, lanes := BitVec.allOnes 64 }

theorem issuing64 : gathered64.issuing = some (wave64, split64) := by decide +kernel

theorem whole64 : Whole state64 gathered64 wave64 split64 :=
  ⟨gathers_wide (sp := split64) (by decide +kernel) (by decide +kernel), issuing64, rfl, wave64, split64, by decide +kernel, rfl⟩

/-- The operands of an MX word: N = 128, the accumulators from 4 KiB on, B at s6, A from v8 on. -/
def xw : XArgs := { nsz := 1, acc := true, tb := false, ru := true, sa := false, a := 8, sc := 0, s := 6, acc12 := 4, la := false }

theorem array_free : ArrayFree gathered64 2 := by
  unfold ArrayFree
  decide +kernel

theorem test_meets_matrix_multiplies : mmaRow (.mmaI8 xw) = some (0x287, xw) ∧ Whole state64 gathered64 wave64 split64 ∧
    xw.acc12.toNat * 1024 + 256 * xw.n ≤ gathered64.accSize wave64.group ∧
    OwnRegion gathered64 wave64.group ((wave64.seen split64 gathered64.free).s 6) (bytesOfB 0x287 xw) ∧ wave64.latch.differs 0x287 xw = false ∧
    ArrayFree gathered64 2 ∧ wave64.tickets < 64 ∧ ∃ w sp, Issues gathered64 { vr := (List.range 8).map (8 + ·), sr := [6], vfree := [] } w sp :=
  ⟨rfl, whole64, by decide +kernel, by unfold OwnRegion; decide +kernel, by decide, array_free, by decide, issues_of (by decide +kernel)⟩

theorem test_meets_accumulator_instructions : (∃ g, gathered64.group wave64.group = some g ∧ g.accPoison = [] ∧ wave64.windows = []) ∧
    gathered64.cur.svc = none ∧ (∃ w sp, Issues gathered64 { vw := (List.range 8).map (8 + ·) } w sp) ∧
    (∃ w sp, Issues gathered64 { vr := (List.range 8).map (8 + ·), vfree := [] } w sp) ∧ (∃ w sp, Issues gathered64 { sr := [6, 7] } w sp) ∧
    OwnRegion gathered64 wave64.group ((wave64.seen split64 gathered64.free).s 6) (64 * xw.n * 2) ∧
    (xw.acc12.getLsbD 8 = false ∧ ¬ (wave64.mticket - 4).toNat < (wave64.mticket - wave64.mdone).toNat) ∧
    (let w := { wave64 with mticket := 3 }; (w.mticket - 2).toNat < (w.mticket - w.mdone).toNat) :=
  ⟨⟨{ live := [0] }, by decide +kernel⟩, by decide +kernel, issues_of (by decide +kernel), issues_of (by decide +kernel), issues_of (by decide +kernel),
    by unfold OwnRegion; decide +kernel, by decide, by decide⟩

/-- An array whose queue holds one operation, waiting or begun. -/
def arrayState (o : ArrayOp) : State := { state64 with cores := [(0, { array := [o] })], arg := .at1 0 }

theorem test_meets_matrix_array : let o : ArrayOp := { wave := some 0, group := 1, kind := 0x287, x := xw, latched := true, bAddr := 0x1000, ticket := some 1 }
    (arrayState o).arg = .at1 0 ∧ ((arrayState o).core 0).array = o :: [] ∧ ((arrayState o).core 0).clear o.seq o.ranges = true ∧
    (arrayState o).wave 0 0 = some wave64 ∧ wave64.bhist = [] ∧ wave64.windows = [] ∧ o.arrive = [] ∧ o.lost = false ∧
    wave64.group = o.group ∧
    ((arrayState { o with begun := true }).core 0).array = { o with begun := true } :: [] ∧ (arrayState o).group o.group = some { live := [0] } ∧ o.x.n ≤ 256 := by
  decide +kernel

theorem test_meets_matrix_elements : (0 < xw.n ∧ 127 < xw.n ∧ plainForm 0x283 = some (.bf16, .bf16, 16)) := by decide

theorem test_meets_copy_instructions : (∃ w sp, Issues state8 { sr := from_ (mw 0 255 0 4 0 0 0) 6 } w sp) ∧
    (∃ w sp, Issues state8 { vr := [4, 5], sr := from_ (mw 0 4 0 4 0 0 0) 3, vfree := [] } w sp) ∧ wave8.rfence = false ∧
    (∃ w sp, Issues state8 { sr := [4, 5] ++ [6, 7], sfree := [] ++ [] } w sp) ∧ wave8.ops = [] ∧ (state8.core 0).waitq = [] ∧
    (state8.core 0).cmds = [] ∧ (state8.core 0).held = [] ∧
    (∃ x, x = fieldsX (pair (wave64.seen split64 gathered64.free).s 10) ∧ ∃ w sp, Issues gathered64 { sr := from_ (mw 0 255 0 6 0 0 0) 7 ++ [x.s.toNat], vfree := [] } w sp) :=
  ⟨issues_of (by decide +kernel), issues_of (by decide +kernel), rfl, issues_of (by decide +kernel), rfl, by decide +kernel, by decide +kernel, by decide +kernel,
    _, rfl, issues_of (by decide +kernel)⟩

/-- The longest copy, an aligned end and one that is not. -/
theorem test_meets_copy_commands : ((2 ^ 24 : Nat) % 4 = 0 ∧ (0x1000 : Dword).toNat % 4 = 0 ∧ (0x1002 : Dword).toNat % 4 ≠ 0 ∧ (2 : Word).toNat % 4 ≠ 0) ∧
    (state64.mkRows { wave64 with sregs := [(6, 0x1000), (7, 16)] } split64 (mw 0 10 0 6 0 0 0) false).toOption.isSome = true := by decide +kernel

theorem test_meets_batches : (wave8.batch - wave8.cbdone).toNat < 255 ∧ ¬ (wave8.batch - (0 : BitVec 16)).toNat < (wave8.batch - wave8.cbdone).toNat ∧
    (∃ w sp, Issues state8 { sr := [], sfree := [] } w sp) ∧ (∃ w sp, Issues state8 { sw := [8, 9] } w sp) ∧ state8.cur.svc = none ∧ wave8.ops = [] :=
  ⟨by decide, by decide, issues_of (by decide +kernel), issues_of (by decide +kernel), rfl, rfl⟩

/-! ## Witnesses: engine events, command blocks, barriers -/

/-- State 64 with one command in core 0's queue, which an event names. -/
def cmdState (c : Cmd) : State := { state64 with cores := [(0, { cmds := [c], nextCmd := 4, nextSeq := 2 })], arg := .at2 0 c.id }

/-- A copy within the scratchpad of group 1 of 64 bytes. -/
def copyRow : Chunk := { sspace := 1, sgrp := 1, dspace := 1, dst := 0x100, dgrps := [1], len := 64 }

/-- A tensor record of one dimension of 16 bytes, in a box of 16. -/
def tensorWords : List Word := [0x01005452, 0, 0x1000, 0, 16, 0, 0, 0, 0, 0, 0, 0, 0, 0, 0, 0, 16, 0, 0, 0, 16] ++ List.replicate 27 0

/-- A command that has not started. -/
def waitCmd : Cmd := { id := 3 }

theorem test_meets_copy_start : (cmdState waitCmd).arg = .at2 0 waitCmd.id ∧ (cmdState waitCmd).cmd 0 waitCmd.id = some waitCmd ∧
    waitCmd.started = false ∧ (((cmdState waitCmd).core 0).cmds.filter (fun x => x.started && decide (x.kind ≠ .chain))).length < 8 ∧
    waitCmd.recordWait = false ∧ ((cmdState waitCmd).core 0).clear waitCmd.seq waitCmd.ranges = true ∧
    ((cmdState waitCmd).core 0).cmds = [waitCmd] := by decide +kernel

/-- A chunk of the copy: not yet open; open, with words to read and none to write; with its first word read; and with every word written. -/
theorem test_meets_copy_chunk : let c : Cmd := { id := 3, started := true, rows := [copyRow] }
    let opened := { c with moves := List.replicate 48 (none, false) }
    let part := { c with moves := List.replicate 4 (some 7, false) ++ List.replicate 44 (none, false) }
    let moved := { c with moves := List.replicate 48 (some 7, true) }
    let p : Chunk := { copyRow with len := 48 }
    Moving (cmdState c) 0 c ∧ (∀ p ∈ c.parts, p.sspace = 1 ∧ p.dspace = 1) ∧ c.moves = [] ∧
    Moving (cmdState moved) 0 moved ∧ moved.moves ≠ [] ∧ nextMoves (chunkBytes moved.parts) moved.moves = [] ∧
    Moving (cmdState opened) 0 opened ∧ opened.parts = [p] ∧ opened.moves.length = p.len ∧ p.fill = none ∧
    (cmdState opened).scratchBad p.sgrp (p.src / 4 * 4) (p.len + 8) = false ∧
    (0, false) ∈ nextMoves (chunkBytes [p]) opened.moves ∧
    Moving (cmdState part) 0 part ∧ part.parts = [p] ∧ (0, true) ∈ nextMoves (chunkBytes [p]) part.moves ∧
    (∀ i < 48, ∀ j < 48, (p.dst + i) / 4 = (p.dst + j) / 4 → (part.moves.getD i (none, false)).2 = (part.moves.getD j (none, false)).2) := by
  refine ⟨?_, ?_, ?_, ?_, ?_, ?_, ?_, ?_, ?_, ?_, ?_, ?_, ?_, ?_, ?_, ?_⟩ <;> (try unfold Moving) <;> decide +kernel

theorem test_meets_tensor_record : let c : Cmd := { id := 3, recordWait := true, record := tensorWords }
    (cmdState c).cmd 0 c.id = some c ∧ c.wave = none ∧
    ((Tensor.parse (c.record.flatMap (fun x => leBytes 4 x.toNat))).map (fun f =>
      ((cmdState c).tensorPlace 1 f (BitVec.ofNat 32 c.spBase)).toOption.isSome)) = some true := by decide +kernel

theorem test_meets_copy_complete : (let c : Cmd := { id := 3, started := true }
      (cmdState c).cmd 0 c.id = some c ∧ c.kind ≠ .chain ∧ c.rows.length ≤ c.row ∧ c.mma = none ∧ c.arrive = []) ∧
    let c : Cmd := { id := 3, kind := .chain, chain := { waiting := some ⟨0, 0, 0, false, 0, 1, 0⟩, retryAt := 64 } }
    (cmdState c).cmd 0 c.id = some c ∧ ((cmdState c).core 0).cycle.toNat < c.chain.retryAt := by decide +kernel

/-- A chain whose next block is at 0x4000. -/
def chainCmd : Cmd := { id := 3, kind := .chain, started := true, group := 1, chain := { next := 0x4000 } }

/-- A block: its command byte, and other bytes by their place. -/
def block (code : Byte) (more : List (Nat × Byte)) : List Byte := (0, code) :: more |> fun t => (List.range 64).map (fun k => (t.lookup k).getD 0)

/-- The block at hand in the chain. -/
def blockState (bs : List Byte) : State := { cmdState chainCmd with arg := .block 0 3 bs }

theorem block_of {bs : List Byte} {code : Nat} {h : BlockHeader}
    (x : (decide (blockField bs 0 1 = code) && decide (blockHeader bs (code = 7) = some h)) = true) : Block (blockState bs) 0 chainCmd code bs h := by
  simp only [Bool.and_eq_true, decide_eq_true_eq] at x
  have e : (blockState bs).core 0 = { cmds := [chainCmd], nextCmd := 4, nextSeq := 2 } := rfl
  refine ⟨rfl, by rw [State.cmd, e]; decide +kernel, by rw [e]; decide +kernel, x.1, x.2, fun _ => by rw [e]; decide +kernel, by rw [e]; decide, ?_⟩
  intro y hy _
  rw [e] at hy
  simpa using hy

/-- Blocks of every command that pass their checks: the copies and TCOPY are of no bytes or of a sound record, MCAST goes to group rank 0,
SEMSIG to scratchpad, REDUCE is of one word, MMAC one of N = 64. -/
theorem test_meets_block_commands :
    (∃ h, Block (blockState (block 1 [])) 0 chainCmd 1 (block 1 []) h) ∧
    ((blockState (block 1 [])).mkLinear 1 0 0 0 0 (some []) 0 0).toOption.isSome = true ∧
    (∃ h, Block (blockState (block 2 [])) 0 chainCmd 2 (block 2 []) h) ∧
    (match (blockState (block 2 [])).mkTensor 1 0 0 0 (some []) false [0, 0, 0, 0] with
      | .error _ => false
      | .ok x => ((blockState (block 2 [])).tensorAtIssue 0 0 1 x).toOption.isSome) = true ∧
    (∃ h, Block (blockState (block 3 [(0x18, 1)])) 0 chainCmd 3 (block 3 [(0x18, 1)]) h) ∧
    (∃ h, Block (blockState (block 6 [(0x18, 4)])) 0 chainCmd 6 (block 6 [(0x18, 4)]) h) ∧
    ((blockState (block 6 [(0x18, 4)])).endPlace 1 1 0 4).toOption.isSome = true ∧
    (∃ h, Block (blockState (block 8 [(0x18, 1), (0x1D, 5)])) 0 chainCmd 8 (block 8 [(0x18, 1), (0x1D, 5)]) h) ∧
    (∃ h, Block (blockState (block 4 [])) 0 chainCmd 4 (block 4 []) h) ∧
    (chainCmd.id < 4) :=
  ⟨⟨_, block_of (h := ⟨false, false, false, 0⟩) (by decide +kernel)⟩, by decide +kernel, ⟨_, block_of (h := ⟨false, false, false, 0⟩) (by decide +kernel)⟩,
   by decide +kernel, ⟨_, block_of (h := ⟨false, false, false, 0⟩) (by decide +kernel)⟩, ⟨_, block_of (h := ⟨false, false, false, 0⟩) (by decide +kernel)⟩,
   by decide +kernel, ⟨_, block_of (h := ⟨false, false, false, 0⟩) (by decide +kernel)⟩, ⟨_, block_of (h := ⟨false, false, false, 0⟩) (by decide +kernel)⟩, by decide⟩

theorem test_meets_block_steps :
    (∃ h, Block (blockState (block 5 [(0x18, 0x40)])) 0 chainCmd 5 (block 5 [(0x18, 0x40)]) h ∧ h.arv = false) ∧
    ((blockState (block 5 [])).scratchPlace 1 0 4).isSome = true ∧ (blockState (block 5 [])).scratchBad 1 0 4 = false ∧
    (∃ h, Block (blockState (block 9 [(8, 0x40)])) 0 chainCmd 9 (block 9 [(8, 0x40)]) h ∧ h.arv = false) ∧
    (∃ h, Block (blockState (block 10 [])) 0 chainCmd 10 (block 10 []) h ∧ h.arv = false) ∧ chainCmd.chain.statusAt = none ∧
    blockHeader (block 1 [(4, 1)]) (1 = 7) = none ∧ blockInstr 1 = some .chainCopy :=
  ⟨⟨_, block_of (h := ⟨false, false, false, 0⟩) (by decide +kernel), rfl⟩, by decide +kernel, by decide +kernel,
   ⟨_, block_of (h := ⟨false, false, false, 0⟩) (by decide +kernel), rfl⟩, ⟨_, block_of (h := ⟨false, false, false, 0⟩) (by decide +kernel), rfl⟩, by decide +kernel⟩

/-- State 8 with a named barrier in its group. -/
def barState (b : Barrier) : State := { state8 with groups := [(1, some { live := [0], barriers := [b] })] }

/-- An immediate reference to barrier 0 of the own group, with s6 as B. -/
def barArgs : SArgs := sw 8 0x3FF 6 0

theorem at_barrier_of {s : State} {w : Wave} {sp : Split} (i : s.issuing = some (w, sp))
    (h : (decide (sp.state ≠ 2) && decide (sp.rep = 0) && (w.fuseHere s.cur.split).1.soleSplit (w.fuseHere s.cur.split).2 &&
      ((w.spillTouched (w.fuseHere s.cur.split).1).findSome? (s.spillFault s.cur.core s.cur.wave w)).isNone) = true) :
    AtBarrier s (gatherAt s w) := by
  simp only [Bool.and_eq_true, decide_eq_true_eq, Option.isNone_iff_eq_none] at h
  exact ⟨w, sp, i, .inr ⟨h.1.1.1, w, sp, i, .inr ⟨h.1.1.2, h.1.2, h.2, rfl⟩⟩⟩

theorem test_meets_barriers :
    (∃ w sp, Issues (barState {}) (barUses barArgs true) w sp) ∧ Names (barState {}) wave8 split8 barArgs (1, 0) {} ∧
    (let n := (wave8.seen split8 (barState {}).free).s 6; 0 < n.toNat ∧ n.toNat ≤ 4095) ∧
    (reference barArgs (wave8.seen split8 (barState {}).free).s).extractLsb' 12 4 = 0 ∧
    AtBarrier (barState {}) (gatherAt (barState {}) wave8) ∧
    (gatherAt (barState {}) wave8).mayRelease (refScope (reference barArgs (wave8.seen split8 (gatherAt (barState {}) wave8).free).s)) = true ∧
    (∃ w sp, Issues (gatherAt (barState {}) wave8) (barUses barArgs false) w sp) ∧
    (∃ w sp, Issues (gatherAt (barState {}) wave8) (barUses barArgs true) w sp) ∧ split8.bar = none ∧
    Names (gatherAt (barState {}) wave8) wave8 split8 barArgs (1, 0) {} ∧
    (({} : Barrier).phase ≠ ((wave8.seen split8 (gatherAt (barState {}) wave8).free).s 6).getLsbD 0 ∧ ({} : Barrier).abandoned = false) ∧
    ({ phase := true } : Barrier).phase = ((wave8.seen split8 (gatherAt (barState { phase := true }) wave8).free).s 6).getLsbD 0 ∧
    Names (gatherAt (barState { phase := true }) wave8) wave8 split8 barArgs (1, 0) { phase := true } ∧
    Names (gatherAt (barState { abandoned := true }) wave8) wave8 split8 barArgs (1, 0) { abandoned := true } ∧
    Names (gatherAt (barState { expected := 2 }) wave8) wave8 split8 barArgs (1, 0) { expected := 2 } ∧
    (({} : Barrier).expected.toNat ≤ ({} : Barrier).count.toNat + 1 ∧ ({ expected := 2 } : Barrier).count.toNat + 1 < ({ expected := 2 } : Barrier).expected.toNat) ∧
    (barState {}).shadowOf wave8.group = false :=
  ⟨issues_of (by decide +kernel), by unfold Names; decide +kernel, by decide +kernel, by decide +kernel,
   at_barrier_of (sp := split8) (by decide +kernel) (by decide +kernel),
   by decide +kernel, issues_of (by decide +kernel), issues_of (by decide +kernel), rfl, by unfold Names; decide +kernel, by decide +kernel,
   by decide +kernel, by unfold Names; decide +kernel, by unfold Names; decide +kernel, by unfold Names; decide +kernel, by decide, by decide +kernel⟩

/-- A split that waits on a barrier whose phase has changed. -/
def barSplit : Split := { split8 with state := 2, bar := some { grp := 1, index := 0, token := true } }

/-- Its wave. -/
def waiting8 : Wave := { wave8 with splits := [(0, some barSplit)] }

/-- Its state, with a barrier. -/
def waitingState (b : Barrier) : State := { issuing waiting8 with groups := [(1, some { live := [0], barriers := [b] })] }

theorem test_meets_barrier_waits : AtBarrier (waitingState {}) (waitingState {}) ∧
    AtBarrier (waitingState { abandoned := true }) (waitingState { abandoned := true }) ∧ (∃ w sp, Issues (waitingState {}) { sw := [8] } w sp) ∧
    (∃ w sp, Issues (waitingState { abandoned := true }) { sw := [8] } w sp) ∧ barSplit.bar = some { grp := 1, index := 0, token := true } ∧
    (waitingState {}).barrier 1 0 = some {} ∧ ({} : Barrier).phase ≠ true ∧ ({} : Barrier).abandoned = false ∧
    (waitingState { abandoned := true }).barrier 1 0 = some { abandoned := true } :=
  ⟨⟨waiting8, barSplit, by decide +kernel, .inl ⟨rfl, rfl⟩⟩, ⟨waiting8, barSplit, by decide +kernel, .inl ⟨rfl, rfl⟩⟩, issues_of (by decide +kernel), issues_of (by decide +kernel), rfl,
    by decide +kernel, by decide, rfl, by decide +kernel⟩

/-! ## Witnesses: queues, launches from a wave, the events of splits -/

/-- State 8 with a launch whose groups use deques, one of which it holds on core 0. -/
def dequeState (l : List Dword) : State :=
  { state8 with
    launches := [(0, some { segments := some [], words := [0, 0x80] })]
    cores := [(0, { deques := [{ launch := some 0, entries := l }, {}, {}, {}] })] }

theorem test_meets_deques : (dequeState []).issuing = some (wave8, split8) ∧
    (∃ w sp, Issues (dequeState []) (queueUses (sw 8 4 0 0) 1 2 0) w sp) ∧ (dequeState []).shadowOf 1 = false ∧ (dequeState []).hasDeque wave8 = true ∧
    state8.hasDeque wave8 = false ∧ state8.cur.svc = none ∧ wave8.ops.length < 16 ∧
    (∃ w sp, Issues (dequeState []) (queueUses (sw 8 0 0 0) 3 0 0) w sp) ∧ (∃ w sp, Issues (dequeState []) (queueUses (sw 8 0 0 0) 3 1 0) w sp) ∧
    ((wave8.seen split8 0).s 0).toNat < 64 ∧ 64 ≤ ((wave8.seen split8 0).s 5).toNat ∧
    (∃ w sp, Issues (dequeState []) (queueUses (sw 8 5 0 0) 3 1 0) w sp) ∧
    (∃ w sp, Issues (dequeState []) (queueUses (sw 8 0x3FF 0 0) 1 0 0) w sp) ∧ ∃ w sp, Issues (dequeState []) (queueUses (sw 8 4 6 0) 1 2 2) w sp :=
  ⟨by decide +kernel, issues_of (by decide +kernel), by decide +kernel, by decide +kernel, by decide +kernel, rfl, by decide, issues_of (by decide +kernel),
    issues_of (by decide +kernel), by decide +kernel, by decide +kernel, issues_of (by decide +kernel), issues_of (by decide +kernel),
    issues_of (by decide +kernel)⟩

/-- A queue operation of wave 8 that has issued. -/
def asyncOp (a : AsyncOp) : MemOp :=
  { kind := .async a, space := .scratch, size := 16, run := 1, live := 1, scope := 5, dst := .scal 8 1, passed := true, units := [{}] }

/-- Wave 8 with it. -/
def asyncWave (a : AsyncOp) : Wave := { wave8 with ops := [asyncOp a], nextOp := 1 }

/-- A state with that wave, in which an event names the operation. -/
def asyncState (s : State) (a : AsyncOp) : State := ({ s with arg := .access 0 0 0 0 false } : State).setWave 0 0 (some (asyncWave a))

theorem asyncAt_of {s : State} {a : AsyncOp} (h : (asyncState s a).mayPerform 0 0 (asyncWave a) (asyncOp a) 0 false = true)
    (hw : (asyncState s a).wave 0 0 = some (asyncWave a)) : AsyncAt (asyncState s a) 0 0 (asyncWave a) (asyncOp a) a :=
  ⟨rfl, hw, by decide, rfl, rfl, ⟨{}, rfl, rfl, rfl, rfl⟩, h⟩

theorem test_meets_deque_operations : (∀ a ∈ [AsyncOp.dqpush, .dqpop, .dqsteal, .dqsize], AsyncAt (asyncState (dequeState []) a) 0 0 (asyncWave a) (asyncOp a) a) ∧
    ((dequeState []).core 0).dequeOf ((dequeState []).ownLaunch wave8) ≠ none ∧
    (asyncState (dequeState []) .dqpush).dequeEntries 0 0 = [] ∧ (asyncState (dequeState [5]) .dqpop).dequeEntries 0 0 = [] ++ [5] ∧
    AsyncAt (asyncState (dequeState [5]) .dqpop) 0 0 (asyncWave .dqpop) (asyncOp .dqpop) .dqpop ∧
    256 ≤ ((asyncState (dequeState (List.replicate 256 0)) .dqpush).dequeEntries 0 0).length := by
  refine ⟨?_, by decide +kernel, by decide +kernel, by decide +kernel, asyncAt_of (by decide +kernel) (by decide +kernel), by decide +kernel⟩
  intro a h
  simp only [List.mem_cons, List.not_mem_nil, or_false] at h
  rcases h with rfl | rfl | rfl | rfl <;> exact asyncAt_of (by decide +kernel) (by decide +kernel)

theorem test_meets_spawn : AsyncAt (asyncState state8 .spawn) 0 0 (asyncWave .spawn) (asyncOp .spawn) .spawn ∧ state8.shadowOf 1 = false ∧
    wave8.depth < 15 ∧ ((asyncState state8 .spawn).taskQueue 0 0).length < 4096 ∧ (asyncState state8 .spawn).group 1 = some { live := [0] } ∧
    (asyncState state8 .spawn).launch 0 = some { segments := some [] } ∧ 15 ≤ ({ wave8 with depth := 15 } : Wave).depth :=
  ⟨asyncAt_of (by decide +kernel) (by decide +kernel), by decide +kernel⟩

/-- A task of context 1 waits on die 0, whose template cannot be read, or is not at a multiple of 64. -/
def taskState (a : Dword) : State := { State.reset with dies := [(0, { tasks := [(1, [{ ctx := 1, template := a }])] })], arg := .at3 0 1 3 }

theorem test_meets_task_take : (∀ a, (taskState a).taskQueue 0 1 = [{ ctx := 1, template := a }]) ∧ ((taskState 0).core 3).prefetch.length < 2 ∧
    (taskState 0).weight 1 ≠ 0 ∧ (∃ e, ((taskState 0).readWords (.task 0 1) 3 1 0 48).1 = .error (.fault e)) ∧ (4 : Dword).toNat % 64 ≠ 0 ∧
    ([] : List Byte).length ≠ 192 := by
  refine ⟨fun _ => rfl, by decide +kernel, by decide +kernel, ?_, by decide, by decide⟩
  have h : (match ((taskState 0).readWords (.task 0 1) 3 1 0 48).1 with
    | .error (.fault _) => true
    | _ => false) = true := by decide +kernel
  split at h
  · rename_i e q; exact ⟨e, q⟩
  · cases h

/-- LAUNCH of a record whose words have all been read. -/
def launchSplit : Split := { split8 with reads := { words := (List.range 48).map (fun k => (4 * k, some 0)) } }

/-- Its wave. -/
def launchWave : Wave := { wave8 with splits := [(0, some launchSplit)], sregs := [] }

theorem test_meets_launch : (∃ w sp, Issues (issuing launchWave) (queueUses (sw 8 4 0 0) 2 2 0) w sp) ∧ (issuing launchWave).issuing = some (launchWave, launchSplit) ∧
    (pair (launchWave.seen launchSplit 0).s 4).toNat % 64 = 0 ∧ (issuing launchWave).mayRelease 5 = true ∧ (issuing launchWave).shadowOf 1 = false ∧
    ((issuing launchWave).readWords (.split 0 0 0) 0 0 0 48).1.toOption = some (List.replicate 192 0) :=
  ⟨issues_of (by decide +kernel), by decide +kernel, by decide +kernel, by decide +kernel, by decide +kernel, by decide +kernel⟩

/-- A LAUNCH to be performed: before stage S1, after it, and with a record without its form. -/
theorem test_meets_launch_performs : let s := asyncState state8 .launch
    let t := asyncState (state8.setCsr 4 0x7B00 1) .launch
    AsyncAt s 0 0 (asyncWave .launch) (asyncOp .launch) .launch ∧ s.stage = 0 ∧ AsyncAt t 0 0 (asyncWave .launch) (asyncOp .launch) .launch ∧ t.stage ≠ 0 ∧
    ¬ queueFull t 0 ∧ t.badRecord { ctx := 0, words := (asyncOp .launch).desc } = true :=
  ⟨asyncAt_of (by decide +kernel) (by decide +kernel), by decide +kernel, asyncAt_of (by decide +kernel) (by decide +kernel), by decide +kernel,
    by unfold queueFull; decide +kernel, by decide +kernel⟩

/-- FLOWREQ asked, with a rise pending and without. -/
theorem test_meets_flow : (let w := { wave8 with splits := [(0, some { split8 with asked := true })] }
      (issuing w).issuing = some (w, { split8 with asked := true }) ∧ ((issuing w).core 0).flow.rise = false ∧
      (({ issuing w with cores := [(0, { flow := { rise := true } })] } : State).core 0).flow.rise = true) ∧ state8.cur.svc = none ∧
    ∃ w sp, Issues (issuing { wave8 with splits := [(0, some { split8 with asked := true })] }) (queueUses (sw 8 4 0 0) 1 1 0) w sp :=
  ⟨by decide +kernel, rfl, issues_of (by decide +kernel)⟩

theorem test_meets_line_operations : ∀ a ∈ [AsyncOp.iclk, .icunlk], AsyncAt (asyncState state8 a) 0 0 (asyncWave a) (asyncOp a) a := by
  intro a h
  simp only [List.mem_cons, List.not_mem_nil, or_false] at h
  rcases h with rfl | rfl <;> exact asyncAt_of (by decide +kernel) (by decide +kernel)

theorem test_meets_lines : ∃ w sp, Issues state8 (queueUses (sw 8 4 7 0) 1 2 1) w sp := issues_of (by decide +kernel)

/-- A split at its rejoin address, where lanes 4 to 7 are missing, or have arrived; and its record broken. -/
def arriving (arrived : Dword) (broken : Bool) : Wave :=
  { wave8 with
    records := [{ tag := 2, rejoin := 0x1000, members := 0xDF, arrived := arrived, broken := broken }]
    splits := [(0, some { split8 with lanes := 0x0F, tag := 2, rejoin := 0x1000 })] }

theorem test_meets_arrivals : let s := { issuing (arriving 0 false) with arg := .at3 0 0 0 }
    Runs s 0 0 (arriving 0 false) ∧ (arriving 0 false).spillUsed = 0 ∧ (arriving 0 false).split 0 = some { split8 with lanes := 0x0F, tag := 2, rejoin := 0x1000 } ∧
    (arriving 0 false).record 2 = some { tag := 2, rejoin := 0x1000, members := 0xDF } ∧
    (0xDF : Dword) &&& ~~~(arriving 0 false).exited &&& ~~~(0 ||| 0x0F) ≠ 0 ∧ (0xDF : Dword) &&& ~~~(arriving 0 false).exited &&& ~~~(0xD0 ||| 0x0F) = 0 ∧
    (arriving 0 true).record 2 = some { tag := 2, rejoin := 0x1000, members := 0xDF, broken := true } ∧ (arriving 0 true).paths = [] :=
  ⟨⟨by decide +kernel, rfl, rfl⟩, by decide +kernel⟩

/-- Timers at their limit: a split that waits at a forced fuse point, for its miss partner, at its rejoin address; a record with a parked path. -/
theorem test_meets_timers : let limit := (state8.csrAt 0 0x1018).toNat % 2 ^ 20
    limit ≠ 0 ∧ limit ≤ (0x2000 : BitVec 20).toNat ∧ (0 : BitVec 20).toNat < limit ∧
    (let w := { wave8 with splits := [(0, some { split8 with state := 1, timer := 0x2000, waitsAt := true })] }
     Runs (issuing w) 0 0 w ∧ w.split 0 = some { split8 with state := 1, timer := 0x2000, waitsAt := true } ∧ (issuing w).shadowOf 1 = false) ∧
    (let r : Record := { tag := 2, timer := 0x2000, parked := [{}] }
     let w := { wave8 with records := [r], splits := [(0, some {}), (1, some {}), (2, some {}), (3, some {})] }
     Runs (issuing w) 0 0 w ∧ w.record 2 = some r ∧ r.parked ≠ [] ∧ w.spillUsed = 0 ∧ w.paths.length < 8) ∧
    (let p : Path := { ctx := { timer := 0x2000, waitsAt := true }, order := 3, runnable := false }
     let w := { wave8 with paths := [p] }
     Runs (issuing w) 0 0 w ∧ w.paths.find? (fun x => decide (x.order = 3 ∧ x.runnable = false)) = some p ∧ (issuing w).shadowOf 1 = false) :=
  ⟨by decide +kernel, by decide +kernel, by decide +kernel, ⟨⟨by decide +kernel, rfl, rfl⟩, by decide +kernel⟩,
    ⟨⟨by decide +kernel, rfl, rfl⟩, by decide +kernel⟩, ⟨⟨by decide +kernel, rfl, rfl⟩, by decide +kernel⟩⟩

/-- A wave that has met a page that is not present, its load outstanding; and a wave whose lanes have exited, of a group with another. -/
theorem test_meets_stops_and_ends :
    (let w := { wave8 with run := .draining, ops := [{ passed := false, fault := some { cause := .pageNotPresent } }],
                           halt := some { info := { cause := .pageNotPresent } } }
     (issuing w).wave 0 0 = some w ∧ (clearOps 0 w.ops).any MemOp.drains = false ∧ (∀ o ∈ w.ops, ∀ x ∈ o.units, x.sent = false) ∧ w.halt.map (fun h => h.engine) = some false) ∧
    let w := { wave8 with exited := 0xFF, splits := [] }
    let s := { issuing w with groups := [(1, some { live := [0, 1] })] }
    s.wave 0 0 = some w ∧ w.run = .running ∧ w.liveLanes = 0 ∧ w.ops = [] ∧ w.queries = [] ∧ w.repack = none ∧ (s.core 0).cmds = [] ∧
      (s.core 0).array = [] ∧ w.flow = 0 ∧ w.kind = .grid ∧ s.group w.group = some { live := [0, 1] } ∧ ∃ k ∈ [0, 1], k ≠ 0 :=
  ⟨by decide +kernel, by decide +kernel, rfl, by decide +kernel, rfl, rfl, rfl, by decide +kernel, by decide +kernel, rfl, rfl, by decide +kernel, 1, by decide⟩


/-! ## Witnesses: service cores -/

/-- A CSR instruction of service core 2 names its own space with A = 0x3FF, space 4 with 4, and none with 5; an address that is aligned, and one
that is not. -/
theorem test_meets_csr_instructions : svcState.cur.svc = some 2 ∧ spaceOf 2 (sw 8 0x3FF 6 0x0A04) = some 2 ∧ spaceOf 2 (sw 8 4 6 0x0A04) = some 4 ∧
    spaceOf 2 (sw 8 5 6 0x0A04) = none ∧ (sw 8 4 6 0x0A04).imm.toNat % 4 = 0 ∧ (sw 8 4 6 2).imm.toNat % 4 ≠ 0 ∧ (sw 8 4 6 0x0A04).imm = 0x0A04 ∧
    state8.cur.svc = none ∧ state8.issuing = some (wave8, split8) :=
  ⟨rfl, by decide, by decide, by decide, by decide, by decide, by decide, rfl, issuing8⟩

/-- An image of 16 bytes of code, with its entry at 8 and key 0. -/
def image16 : List Byte :=
  [1, 0, 0x46, 0x45, 16, 0, 0, 0, 8, 0, 0, 0] ++ List.replicate 52 0 ++ List.replicate 16 0

/-- Service core 2 runs that image; sources 1, of level 1, and 2, of level 3, are pending, and source 1 is enabled, or both. -/
def eventState (c : SvcCore) (enabled : Word) : State :=
  (({ State.reset with arg := .at1 2, svcs := [(2, { c with image := some image16 })] } : State).setCsr 2 0x0A00 6).setCsr 2 0x0A04 enabled
    |>.setCsr 2 0x0A08 0x20

/-- The event levels that may be taken, by computation. -/
def eventAtB (s : State) (n l : Nat) : Bool :=
  decide ((s.svc n).level < l) && s.handlerOk n l && (List.range 11).any (fun i => (s.csrAt n 0x0A00).getLsbD i && (s.csrAt n 0x0A04).getLsbD i &&
    decide ((s.csrAt n 0x0A08).toNat / 4 ^ i % 4 + 1 = l))

theorem eventAt_iff (s : State) (n l : Nat) : Claims.eventAt s n l ↔ eventAtB s n l = true := by
  simp only [Claims.eventAt, eventAtB, Bool.and_eq_true, decide_eq_true_eq, List.any_eq_true, List.mem_range, and_assoc]

theorem test_meets_service_core_events :
    (let s : State := { svcState with svcs := [(2, { halted := false, saved := [(0, some (0x40, 0))] })] }
     s.cur.svc = some 2 ∧ Table.get noneAt (s.svc 2).saved (s.svc 2).level = some (0x40, 0)) ∧
    Table.get noneAt (svcState.svc 2).saved (svcState.svc 2).level = none ∧
    (let s := eventState { halted := false } 6
     s.arg = .at1 2 ∧ (s.svc 2).halted = false ∧ (s.svc 2).asked = false ∧ eventAtB s 2 3 = true ∧ eventAtB s 2 4 = false ∧ eventAtB s 2 1 = true) ∧
    (let s := eventState { halted := false, level := 1 } 2
     eventAtB s 2 1 = false ∧ eventAtB s 2 2 = false ∧ eventAtB s 2 3 = false ∧ eventAtB s 2 4 = false) ∧
    (let s := eventState { halted := false, waiting := some 64, cycle := 64, wfeDest := 1023 } 0
     (s.svc 2).waiting = some 64 ∧ 64 ≤ (s.svc 2).cycle.toNat ∧ (s.svc 2).wfeDest < 1024) ∧
    (let s := eventState { halted := false, waiting := some 65, cycle := 64 } 0
     (s.svc 2).waiting = some 65 ∧ (s.svc 2).cycle.toNat < 65) ∧
    (let s := eventState { halted := true } 0
     (s.svc 2).halted = true ∧ (s.svc 2).image = some image16) := by decide +kernel

theorem test_meets_event_level : takesLevel (eventState { halted := false } 6) 2 3 :=
  ⟨by decide, by decide, (eventAt_iff ..).2 (by decide +kernel), fun m h k e => by
    have : m = 4 := by omega
    subst this; exact absurd ((eventAt_iff ..).1 e) (by decide +kernel)⟩

/-- Service core 2 is to install what stands at 0x1040: memory holds these bytes there. -/
def installAt (b : List Byte) (poison : Table Bool) : State :=
  ({ State.reset with
    arg := .at1 2, memPoison := poison, mem := (b.zipIdx.filter (fun x => decide (x.1 ≠ 0))).map (fun x => (0x1040 + x.2, x.1)) } : State).setCsr 4 0x7024 0x1040

/-- The header of the image, as memory holds it, and its code. -/
def packed16 : List Byte := image16.take 64 ++ List.replicate 192 0 ++ [7, 0, 0, 0, 0, 0, 0, 0, 9]

/-- A header that cannot be read, a bad one, code that cannot be read, a key that is not allowed at stage S0, and an image whose signature is
checked; an install that waits; an image to be installed. -/
theorem test_meets_service_core_images :
    (imageAt (installAt packed16 []) 2 = 0x1040 ∧ installState (installAt packed16 []) 2 ≠ 1) ∧
    (installAt packed16 [(sectorOf 0x1040, true)]).poisoned 0x1040 256 = true ∧ imageOk ((installAt [] []).bytes 0x1040 256) = false ∧
    (let s := installAt packed16 []
     ¬ (2 ^ 39 < 0x1040 + 256 ∨ s.poisoned 0x1040 256 = true) ∧ imageOk (s.bytes 0x1040 256) = true ∧
     ¬ (2 ^ 39 < 0x1140 + 16 ∨ s.poisoned 0x1140 16 = true) ∧ s.keyAllowed 0 = true) ∧
    (let s := installAt packed16 [(sectorOf 0x1140, true)]
     s.poisoned 0x1040 256 = false ∧ imageOk (s.bytes 0x1040 256) = true ∧ s.poisoned 0x1140 16 = true) ∧
    (let s := installAt (packed16.set 12 1) []
     imageOk (s.bytes 0x1040 256) = true ∧ ((s.bytes 0x1040 256).getD 12 0).toNat = 1 ∧ s.keyAllowed 1 = false) ∧
    installState ((installAt packed16 []).setCsr 4 0x7028 0x01000000) 2 = 1 ∧
    (let s : State := { State.reset with arg := .at1 2, svcs := [(2, { installing := some image16 })] }
     (s.svc 2).installing = some image16 ∧ (s.svc 2).asked = false) := by decide +kernel

/-- A load relative to the PC of the last words of the SRAM, and one past its end; a load and a store of module memory, aligned and in it. -/
theorem test_meets_service_core_memory :
    (let s : State := { svcState with cur := { svcState.cur with iaddr := 0x3FFF8 } }
     let off := fun (d : BitVec 18) => (s.cur.iaddr + BitVec.ofInt 64 (d.toInt * 4)).toNat
     s.cur.svc = some 2 ∧ off 1 + 4 ≤ 262144 ∧ 262144 < off 2 + 4) ∧
    (let a : SmArgs := { d := 8, a := 4, scope := 0, ord := 0, imm := 8, la := false, lb := false }
     let s : State := { svcState with svcs := [(2, { halted := false, regs := [(4, 0x1000)] })] }
     svcAddress s 2 a 4 0x1008 ∧ placeOf 0x1008 = .memory ∧ a.a ≠ 0x3FF) := by
  refine ⟨by decide +kernel, ⟨by decide +kernel, by decide, by decide⟩, by decide +kernel, by decide⟩

/-! ## Witnesses: passes -/

/-- Context 0 with its root at 0x1000 and a chain of tables to the pages 0x6000 to 0xD000, which are its first eight and may be read and
written; the module stands at stage S2. -/
def tables : Table Byte :=
  ([(0x1000, 0x8001), (0x2000, 0xC001), (0x3000, 0x10001), (0x4000, 0x14001)] ++ (List.range 8).map (fun k => (0x5000 + 8 * k, (6 + k) * 0x4000 + 15))).flatMap
    (fun (e : Nat × Nat) => (List.range 3).filterMap (fun k => let b := BitVec.ofNat 8 (e.2 / 256 ^ k); if b = 0 then none else some (e.1 + k, b)))

/-- A state with those tables. -/
def mapped (s : State) : State :=
  ((({ s with mem := tables } : State).setCsr 4 0x3000 0x1000).setCsr 4 0x3008 0x80000000).setCsr 4 0x7B00 2

/-- A launch record of one group of one wave of eight lanes. -/
def record48 : List Word :=
  [0x00024C41, 0, 0, 0, 0, 0x00010103, 1, 1, 1, 0x2010, 0x8010, 0, 0, 0, 0x60] ++ List.replicate 29 0 ++ [0xF, 0, 0, 0]

/-- The record of a pass of one pixel that renders visibility only: its pool is at 0, its depth at 0x5000. -/
def passWords : List Word := [0x00035350, 0x00010001, 0, 0, 0, 0, 0x5000, 0, 0, 0, 64, 64, 0, 0, 16, 0, 0x6000, 0, 0x5040] ++ List.replicate 29 0

/-- That pass, with its bitmap cleared. -/
def pass0 : Pass := { words := passWords, cleared := 32, total := 16, meshLaunch := 0, pixelLaunch := 1 }

/-- A wave of eight lanes in a state with that pass in slot 0 of die 0. -/
def passState (w : Wave) (p : Pass) (amps : List AmpEntry) : State :=
  { mapped (issuing w) with dies := [(0, { passes := [(0, some p)], amps := amps })], launches := [(0, some { segments := some [], words := record48 })] }

theorem test_meets_amplification :
    (let s := passState wave8 pass0 []
     Gathers s 64 (gatherAt s wave8) ∧ (∃ w sp, Issues (gatherAt s wave8) (FOp.uses .emitm (fw 8 4 0 0)) w sp) ∧ (gatherAt s wave8).shadowOf 1 = false ∧
     wave8.kind = .grid ∧ (gatherAt s wave8).mayRelease 5 = true ∧ ((gatherAt s wave8).launch ((gatherAt s wave8).ownLaunch wave8)).isSome = true ∧
     ((gatherAt s wave8).die 0).passOf 0 (pair (wave8.seen split8 (gatherAt s wave8).free).s 0) = some 0 ∧ (gatherAt s wave8).passAt 0 0 = some pass0 ∧
     ((gatherAt s wave8).group 1).isSome = true) ∧
    let w := { wave8 with kind := .pixel 0 0 0 }
    Gathers (issuing w) 64 (gatherAt (issuing w) w) ∧ (gatherAt (issuing w) w).issuing = some (w, split8) ∧ (issuing w).cur.svc = none :=
  ⟨⟨gathers_wide (sp := split8) (by decide +kernel) (by decide +kernel), issues_of (by decide +kernel), by decide +kernel⟩,
   gathers_wide (sp := split8) (by decide +kernel) (by decide +kernel), by decide +kernel⟩

/-- A mesh wave of the pass's block 0: v6 holds indices of 0, v4 one of 2³¹−1; s6 and s7 count nothing, s8 and s9 a vertex or primitive too many. -/
def meshWave : Wave := { wave8 with kind := .mesh 0 0 0, sregs := [(8, 257), (9, 0x02010000)] }

/-- The pass with that block. -/
def meshPass : Pass := { pass0 with blocks := [{ seq := 0, first := 0 }], nextSeq := 1, used := [0, 1, 2, 3, 4] }

theorem test_meets_mesh_output :
    (let s := passState meshWave meshPass []
     MeshWave s meshWave 0 0 meshPass { seq := 0, first := 0 } ∧ (∃ w sp, Issues s (FOp.uses .mout (fw 0 6 10 0)) w sp) ∧ meshWave.ops.length < 16 ∧
     (∃ w sp, Issues s (FOp.uses .pout (fw 0 6 10 0)) w sp) ∧ Gathers s 64 (gatherAt s meshWave) ∧
     (gatherAt s meshWave).passAt 0 0 = some meshPass ∧
     (∃ w sp, Issues (gatherAt s meshWave) (FOp.uses .mend (fw 0 0 0 6)) w sp) ∧ (gatherAt s meshWave).mayRelease 5 = true ∧
     (∀ i ∈ runList (fw 0 6 10 0) meshWave split8, (meshWave.v 6 i).toNat < 256) ∧ (∃ i ∈ runList (fw 0 4 10 0) meshWave split8, 512 ≤ (meshWave.v 4 i).toNat) ∧
     (meshWave.s 6).toNat = 0 ∧ 256 < (meshWave.s 8).toNat % 2 ^ 9 ∧ 512 < (meshWave.s 9).toNat / 2 ^ 16 % 2 ^ 10) ∧
    (state8.issuing = some (wave8, split8) ∧ state8.cur.svc = none ∧ (∀ d k q, wave8.kind ≠ .mesh d k q) ∧
      ({ meshWave with mendDone := true } : Wave).mendDone = true) :=
  ⟨⟨⟨0, rfl, rfl, by decide +kernel, rfl⟩, issues_of (by decide +kernel), by decide, issues_of (by decide +kernel),
    gathers_wide (sp := split8) (by decide +kernel) (by decide +kernel), by decide +kernel, issues_of (by decide +kernel),
    by decide +kernel, by decide +kernel, ⟨1, by decide +kernel⟩, by decide +kernel⟩,
   issuing8, rfl, (by intro d k q h; cases h), rfl⟩

/-- What stands beside an instruction of an F word. -/
def auxOf (f : FArgs) : Aux := { op := .pixdisc, f := f }

theorem test_meets_pixel_output : let w := { wave8 with kind := .pixel 0 0 0, helper := 2 }
    (∃ w' sp, Issues (issuing w) (FOp.uses .pixout (fw 0 4 1 0)) w' sp) ∧ w.kind = .pixel 0 0 0 ∧
    (let s : State := { issuing w with cur := { (issuing w).cur with aux := some (auxOf (fw 0 0 0 0)) } }
     s.cur.svc = none ∧ s.issuing = some (w, split8) ∧ (auxOf (fw 0 0 0 0)).rep = none) ∧
    (∀ d k q, wave8.kind ≠ .pixel d k q) ∧ (run (fw 0 4 1 0) w split8).getLsbD 0 = true ∧ w.helper.getLsbD 0 = false ∧ w.helper.getLsbD 1 = true :=
  ⟨issues_of (by decide +kernel), rfl, ⟨rfl, by decide +kernel, rfl⟩, (by intro d k q h; cases h), by decide +kernel⟩

/-- A die with an entry to be placed. -/
def ampState (p : Pass) : State := { passState wave8 p [{ slot := 0, seq := 0 }] with arg := .at1 0 }

theorem test_meets_mesh_waves :
    ((ampState pass0).arg = .at1 0 ∧ ((ampState pass0).die 0).amps = { slot := 0, seq := 0 } :: [] ∧ (ampState pass0).passAt 0 0 = some pass0 ∧ 32 ≤ pass0.cleared) ∧
    ({ pass0 with state := 3 } : Pass).state ≠ 1 ∧ (pass0.state = 1 ∧ ({ pass0 with total := 12 } : Pass).total < pass0.used.length + 13 ∧ pass0.writes = [] ∧
      ({ pass0 with writes := [{}] } : Pass).writes ≠ []) ∧
    pass0.used.length + 13 ≤ pass0.total ∧ ((ampState pass0).launch 0).isSome = true ∧
    (let l : Launch := { segments := some [], words := record48 }
     (ampState pass0).launch 0 = some l ∧ l.nwaves = 1 ∧ (ampState pass0).coresFor 0 l false ((List.range 16).map (16 * 0 + ·)) = some (1 :: []) ∧
     (ampState pass0).freeWaveId 1 = 0 ∧ (ampState pass0).wave 1 0 = none) := by decide +kernel

/-- A block of five free chunks can begin at 11 of 16, and not at 12. -/
theorem test_meets_blocks_fit : blockFits pass0 11 ∧ ¬ blockFits pass0 12 :=
  ⟨by unfold blockFits; decide, by unfold blockFits; decide⟩

/-- The die's slot 0 is named, and its pass is p. -/
def slotState (p : Pass) : State := { passState wave8 p [] with arg := .at2 0 0 }

/-- A closed block of three vertices and one primitive, in sequence. -/
def closedBlock : MeshBlock := { seq := 0, first := 0, verts := 3, prims := 1, closed := true }

/-- A pass with a block to be binned. -/
def binPass : Pass := { pass0 with blocks := [closedBlock], nextSeq := 1 }

/-- The words of the block's primitive 0 and its vertices 0, 1 and 2, which stand at (−1, −1), (1, −1) and (−1, 1), each with w = 1. -/
def triWords : Reads :=
  { words := [(0, 0xBF800000), (4, 0xBF800000), (8, 0), (12, 0x3F800000), (64, 0x3F800000), (68, 0xBF800000), (72, 0), (76, 0x3F800000),
              (128, 0xBF800000), (132, 0x3F800000), (136, 0), (140, 0x3F800000), (16384, 0x020100), (16388, 0)].map (fun e => (e.1, some e.2)) }

/-- The reference to it. -/
def ref0 : Dword := BitVec.ofNat 64 (closedBlock.first * 2 ^ 40 + 0 * 2 ^ 31)

/-- That primitive. -/
def tri0 : Option Tri := (binPass.readTri triWords ref0).toOption.join

/-- The page of the bitmap at 0x25000, beside those of `tables`. -/
def clearState (p : Pass) : State := { slotState p with mem := tables ++ [(0x5128, 0x0F), (0x5129, 0x80), (0x512A, 0x03)] }

theorem test_meets_binning :
    ((slotState binPass).arg = .at2 0 0 ∧ (slotState binPass).passAt 0 0 = some binPass ∧ binPass.state = 1 ∧ binPass.binSeq < binPass.nextSeq ∧
      ((slotState binPass).die 0).amps = [] ∧ binPass.writes = []) ∧
    ({ pass0 with state := 2 } : Pass).state ≠ 1 ∧ pass0.nextSeq ≤ pass0.binSeq ∧
    binPass.blocks.find? (fun b => b.seq = binPass.binSeq) = some closedBlock ∧ binPass.binPrim < closedBlock.prims ∧
    ({ closedBlock with closed := false } : MeshBlock).closed = false ∧ ({ closedBlock with prims := 0 } : MeshBlock).prims ≤ binPass.binPrim ∧
    (match binPass.readTri {} ref0 with
      | .error a => decide (a = 16384)
      | .ok _ => false) = true ∧
    (({ slotState binPass with free := (slotState binPass).free + 1 } : State).hubCheck 0 16384 4 { read := true, plain := true }).toOption.map (fun x => x.1) = some 0xA000 ∧
    placeOf 0xA000 = .memory ∧ (slotState binPass).poisoned 0xA000 4 = false ∧
    (binPass.readTri { triWords with words := triWords.words.map (fun e => (e.1, some 0)) } ref0).toOption = some none ∧ tri0.isSome = true ∧
    (tri0.map (fun t => (binPass.record.touched t)[0]?)) = some (some 0) ∧
    (tri0.map (fun t => decide ((binPass.record.touched t).length ≤ 1))) = some true ∧
    (({ binPass with refs := [(0, 1)], lists := [(0, [5])] } : Pass).count 0) % 511 ≠ 0 := by decide +kernel

/-- The last page of a bitmap to be cleared, and a reference to be written. -/
theorem test_meets_pass_writes : let p := { pass0 with cleared := 31 }
    let q := { pass0 with writes := [{ addr := 8, n := 8 }] }
    (clearState p).passAt 0 0 = some p ∧ p.state ≠ 5 ∧ p.reads.wrote = false ∧
    ((clearState p).hubCheck p.ctx (BitVec.ofNat 64 (p.record.bitmap + 4096 * 31)) 4096 { write := true, plain := true }).toOption.map (fun x => placeOf x.1) =
      some .memory ∧
    (slotState q).passAt 0 0 = some q ∧ 32 ≤ q.cleared ∧ q.state = 1 ∧
    ((slotState q).hubCheck q.ctx (BitVec.ofNat 64 8) 8 { write := true, plain := true }).toOption.map (fun x => placeOf x.1) = some .memory := by
  decide +kernel

theorem test_meets_pass_events :
    (let s := (slotState { pass0 with state := 2 }).setCsr 0 0xE00 1000000
     let t : State := { s with svcs := [(0, { cycle := 1000000 })] }
     (t.csrAt 0 0xE00).toNat = 1000000 ∧ 1000000 ≤ (t.svc 0).cycle.toNat - 0 ∧ (s.svc 0).cycle.toNat - 0 < 1000000 ∧
       t.passAt 0 0 = some { pass0 with state := 2 }) ∧
    (let s : State := { slotState pass0 with arg := .at3 0 0 (2 ^ 24) }
     s.passAt 0 0 = some pass0 ∧ 2 ^ 24 < pass0.total + 2 ^ 24 ∧ pass0.total + (2 ^ 24 - 16) ≤ 2 ^ 24) ∧
    (let l : Launch := { segments := some [], words := record48, nextGroup := 1, ended := 1 }
     let s : State := { slotState pass0 with launches := [(0, some l)] }
     s.launch 0 = some l ∧ pass0.state = 1 ∧ l.groups ≤ l.nextGroup ∧ l.discarded = [] ∧ l.groups ≤ l.ended ∧ (s.die 0).amps = [] ∧
       pass0.meshWaves = 0 ∧ pass0.nextSeq ≤ pass0.binSeq ∧ 32 ≤ pass0.cleared) := by decide +kernel

/-- A pass that renders, whose tile 0 is to begin. -/
def renderPass : Pass := { pass0 with state := 4, todo := [0] }

/-- The same pass with tile 0 at core 0's engine. -/
def jobPass (j : TileJob) : Pass := { pass0 with state := 4, jobs := [(0, some j)] }

/-- The die's slot 0 and core 0 are named. -/
def renderState (p : Pass) : State := { slotState p with arg := .at3 0 0 0 }

theorem test_meets_tile_renders :
    ((renderState renderPass).arg = .at3 0 0 0 ∧ (renderState renderPass).passAt 0 0 = some renderPass ∧ renderPass.state = 4 ∧
      Table.get noneAt renderPass.jobs 0 = none ∧ renderPass.todo = 0 :: [] ∧
      (∀ x ∈ ((renderState renderPass).die 0).passes, (x.2.bind (fun q => Table.get noneAt q.jobs 0)) = none)) ∧
    pass0.state ≠ 3 ∧ pass0.state ≠ 4 ∧
    (let j : TileJob := { stage := 2 }
     (renderState (jobPass j)).passAt 0 0 = some (jobPass j) ∧ Table.get noneAt (jobPass j).jobs 0 = some j ∧ j.quads.length ≤ j.placed ∧ j.waves = 0 ∧
       ({ j with waves := 1 } : TileJob).waves ≠ 0) ∧
    (let j : TileJob := { stage := 3, writes := [{ addr := 0x5000 }] }
     (renderState (jobPass j)).passAt 0 0 = some (jobPass j) ∧ j.reads = {} ∧
     (({ renderState (jobPass j) with free := (renderState (jobPass j)).free + 1 } : State).readerCheck (.tile 0 0 0) 0 0 0x5000 4 true).1.toOption.map
       (fun x => decide (placeOf x.1 = .memory) && (renderState (jobPass j)).noStagedAt 0 x.1 4) = some true) ∧
    (({ renderPass with todo := [] } : Pass).jobs = [] ∧ ({ renderPass with state := 3, todo := [] } : Pass).state = 3) := by decide +kernel

theorem test_meets_tile_start : (renderState (jobPass {})).passAt 0 0 = some (jobPass {}) ∧
    ((jobPass {}).tileStart {} (renderState (jobPass {})).free 0).toOption.isSome = true := by decide +kernel

theorem readNext_one {s : State} {r : Reader} {core ctx va : Nat}
    (h : (match ({ s with free := s.free + 1 } : State).readerCheck r core ctx (BitVec.ofNat 64 va) 4 false with
      | (.error _, _) => false
      | (.ok (pa, e), t) => decide (placeOf pa = .memory) && (t.readerWord r core ctx t.free pa (cacheAttr e.attr e.dev pa)).1.isSome) = true) :
    (s.readNext r core ctx [va]).1 = none := by
  unfold State.readNext
  simp only [List.length_singleton, Nat.mod_one, List.getD_cons_zero]
  rcases q : ({ s with free := s.free + 1 } : State).readerCheck r core ctx (BitVec.ofNat 64 va) 4 false with ⟨_ | ⟨pa, e⟩, t⟩
  · rw [q] at h
    cases h
  · rw [q] at h
    simp only [Bool.and_eq_true, decide_eq_true_eq] at h
    simp only [q, h.1, if_true]
    rcases z : t.readerWord r core ctx t.free pa (cacheAttr e.attr e.dev pa) with ⟨_ | bs, u⟩
    · exact absurd (z ▸ h.2) (by simp)
    · rfl

/-- A tile whose depth buffer has been written before needs its word. -/
theorem test_meets_tile_reads : let p := { jobPass {} with rendered := [0] }
    (match p.tileStart {} 0 0 with
      | .error a => decide (a = 0x5000)
      | .ok _ => false) = true ∧ ((renderState p).readNext (.tile 0 0 0) 0 0 [0x5000]).1 = none :=
  ⟨by decide +kernel, readNext_one (by decide +kernel)⟩

/-! ## Witnesses: ray queries -/

/-- The operands of a query: its ray from v8 on, its result from v16 on, its root at s0. -/
def rayF : FArgs := fw 16 8 0 0

/-- A wave of eight lanes of whose rays those of lanes 0 to 6 start a walk: tmin is 0 and tmax 1. Lane 7's tmax is −1. -/
def rayWave : Wave := { wave8 with vregs := (List.range 8).map (fun l => (64 * 15 + l, if l = 7 then 0xBF800000 else 0x3F800000)) }

/-- Another wave, whose 64 lanes have queries in a ray unit. -/
def asking (u : Nat) : Wave := { wave8 with queries := (List.range 64).map (fun l => (l, some ({ unit := u } : Query))) }

/-- A state in which every ray unit of core 0 holds 128 queries. -/
def fullState : State := (List.range 8).foldl (fun s k => s.setWave 0 (k + 1) (some (asking (k / 2)))) (issuing rayWave)

theorem test_meets_ray_queries :
    (∃ w sp, Issues (issuing rayWave) (FOp.uses .rayq rayF) w sp) ∧ (issuing rayWave).mayRelease 5 = true ∧
    ((pair ({ rayWave with sregs := [(0, 32)] } : Wave).s 0).toNat % 64 ≠ 0 ∧ rayWave.run = .running ∧ (issuing rayWave).shadowOf 1 = false) ∧
    (pair rayWave.s 0).toNat % 64 = 0 ∧ (∃ l ∈ runList rayF (asking 0) split8, Table.get noneAt (asking 0).queries l ≠ none) ∧
    (∀ l ∈ runList rayF rayWave split8, Table.get noneAt rayWave.queries l = none) ∧ run rayF rayWave split8 ≠ 0 ∧
    run { rayF with g := 1 } rayWave { split8 with masks := [] } = 0 ∧
    (unitLoad (issuing rayWave) 0 0 + (runList rayF rayWave split8).length ≤ 128 ∧ (issuing rayWave).rayHeld 0 0 split8.rayWait = false) ∧
    (rayWalks ((List.range 8).map (fun k => rayWave.v (8 + k) 0)) = true ∧ rayWalks ((List.range 8).map (fun k => rayWave.v (8 + k) 7)) = false) :=
  ⟨issues_of (by decide +kernel), by decide +kernel, by decide +kernel, by decide +kernel, ⟨0, by decide +kernel⟩, by decide +kernel⟩

theorem test_meets_ray_queries_wait : (∃ w sp, Issues fullState (FOp.uses .rayq rayF) w sp) ∧
    ∀ u, u < 4 → 128 < unitLoad fullState 0 u + (runList rayF rayWave split8).length :=
  ⟨issues_of (by decide +kernel), by decide +kernel⟩

/-- A wave with a candidate that waits in lane 0, an instruction of the any-hit protocol at hand. -/
def hitWave : Wave := { wave8 with queries := [(0, some { d := 16, waiting := true, cand := some {} }), (1, some { d := 16 })] }

theorem test_meets_any_hit :
    let s : State := { issuing hitWave with cur := { (issuing hitWave).cur with aux := some (auxOf rayF) } }
    s.cur.svc = none ∧ s.issuing = some (hitWave, split8) ∧ s.cur.aux = some (auxOf rayF) ∧ (auxOf rayF).rep = none ∧
    (run rayF hitWave split8).getLsbD 0 = true ∧
    (Table.get noneAt hitWave.queries 0).map (fun q => decide (q.d = rayF.d.toNat ∧ q.waiting = true)) = some true := by decide +kernel

/-- Lane 0 of a wave walks, with an entry on its stack, in a state whose first pages are mapped. -/
def walkWave (q : Query) : Wave := { wave8 with queries := [(0, some q)] }

/-- A query from the origin along z, of the interval from 0 to 1, with a stack. -/
def walker (stack : List WalkItem) : Query := { d := 16, ray := [0, 0, 0, 0, 0, 0, 0x3F800000, 0x3F800000], stack := stack }

/-- Its state, with some bytes at address 0. -/
def walkState (q : Query) (bs : List Byte) : State := { (mapped (issuing (walkWave q))).putMem 0x6000 bs with arg := .at3 0 0 0 }

/-- An entry at address 0. -/
def entry0 (kind : Nat) : WalkItem := { kind := kind, near := f32 0 }

/-- The words of a structure at address 0. -/
def structureWords (bs : List Byte) : Reads :=
  { words := (List.range 48).map (fun k => (4 * k, some (BitVec.ofNat 32 (number (((bs ++ List.replicate 192 0).drop (4 * k)).take 4))))) }

/-- What the walk has read of that entry. -/
def walkBytes (kind : Nat) (bs : List Byte) : List Byte := (entry0 kind).structureBytes (structureWords bs)

/-- A triangle about the z axis at z = 1/2. -/
def triBytes : List Byte := [0xBF800000, 0xBF800000, 0x3F000000, 0x40000000, 0xBF800000, 0x3F000000, 0xBF800000, 0x40000000, 0x3F000000, 0x100000].flatMap
  (fun x => leBytes 4 x)

theorem test_meets_ray_walk :
    (let q := walker [entry0 1]
     let s := walkState q []
     s.arg = .at3 0 0 0 ∧ s.wave 0 0 = some (walkWave q) ∧ Table.get noneAt (walkWave q).queries 0 = some q ∧ q.waiting = false ∧ q.fault = none ∧
       s.shadowOf 1 = false ∧ Val.le (entry0 1).near q.tlim = true ∧ Val.le (f32 0x40000000) q.tlim = false ∧ (entry0 1).need q.reads ≠ [] ∧
       (entry0 1).need (structureWords []) = []) ∧
    nodeBad (walkBytes 1 []) = false ∧ (walkBytes 1 []).length = 192 ∧ nodeBad (walkBytes 1 (List.replicate 16 0 ++ [1])) = true ∧
    number (((walkBytes 2 triBytes).drop 0x24).take 4) < 2 ^ 22 ∧ triangleHit (walkBytes 2 []) [0, 0, 0] [0, 0, 1] none 0 = none ∧
    (let q := walker []
     (triangleHit (walkBytes 2 triBytes) (q.frame none).1 (q.frame none).2 none q.flags).map (fun x => (q.takes x.1.t, x.2)) = some (true, true) ∧
     (triangleHit (walkBytes 2 (triBytes.set 0x26 0)) (q.frame none).1 (q.frame none).2 none q.flags).map (fun x => (q.takes x.1.t, x.2)) = some (true, false)) ∧
    (let q : Query := { walker [] with ray := [0, 0, 0, 0, 0, 0, 0x3F800000, 0x3E800000] }
     (triangleHit (walkBytes 2 triBytes) (q.frame none).1 (q.frame none).2 none q.flags).map (fun x => q.takes x.1.t) = some false) ∧
    (instanceBad (walkBytes 3 []) = false ∧ instanceBad (walkBytes 3 (List.replicate 0x3C 0 ++ [8])) = true ∧
      (enterInstance (walkBytes 3 []) [0, 0, 0] [0, 0, 1]).isSome = true) := by decide +kernel

/-- A lane that still needs one word, of a page that is mapped, and of one that is not. -/
theorem test_meets_ray_reads : let q := { walker [entry0 2] with reads := { words := (structureWords []).words.filter (fun e => decide (e.1 ≠ 8)) } }
    let bad : Query := { walker [{ entry0 2 with addr := 0x8000 }] with
      reads := { words := (List.range 11).map (fun k => (0x8000 + 4 * k, some 0)) } }
    (entry0 2).need q.reads = [8] ∧ ((walkState q []).readNext (.query 0 0 0) 0 0 [8]).1 = none ∧
    ({ entry0 2 with addr := 0x8000 } : WalkItem).need bad.reads = [0x802C] ∧
    (match ({ walkState bad [] with free := (walkState bad []).free + 1 } : State).readerCheck (.query 0 0 0) 0 0 0x802C 4 false with
      | (.error e, t) => decide (e.cause ≠ .poisonLoad ∧ e.cause ≠ .poisonRegister ∧ e.cause ≠ .kill ∧ e.cause ≠ .discard) &&
          decide ((t.wave 0 0).map (fun w => (w.run, w.group)) = some (.running, 1)) && !t.shadowOf 1
      | (.ok _, _) => false) = true :=
  ⟨by decide +kernel, readNext_one (by decide +kernel), by decide +kernel, by decide +kernel⟩

/-- The two waves of a group, both of which are to repack. -/
def repackState (live : List Nat) : State := ({ state8 with groups := [(1, some { live := live })] } : State).setWave 0 1 (some wave8)

theorem test_meets_repacking :
    (let s := repackState [0, 1]
     Gathers s 64 (gatherAt s wave8) ∧ (∃ w sp, Issues (gatherAt s wave8) (FOp.uses .repack (fw 0 4 1 0)) w sp) ∧ wave8.repack = none ∧
     (gatherAt s wave8).group 1 = some { live := [0, 1] } ∧ 1 ∈ [0, 1] ∧ (1 : Nat) ≠ (gatherAt s wave8).cur.wave ∧ (gatherAt s wave8).wave 0 1 = some wave8 ∧
     (gatherAt s wave8).cur.wave < 512 ∧ ({ live := [0, 1] } : Group).core = (gatherAt s wave8).cur.core ∧ s.issuing = some (wave8, split8)) ∧
    (let s := repackState [0]
     Gathers s 64 (gatherAt s wave8) ∧ (∃ w sp, Issues (gatherAt s wave8) (FOp.uses .repack (fw 0 4 1 0)) w sp) ∧
     (gatherAt s wave8).group 1 = some { live := [0] } ∧ wave8.run = .running ∧ wave8.kind = .grid ∧ wave8.vlid = [] ∧
     (∀ l, l < 64 → wave8.liveLanes.getLsbD l = (wave8.liveOf split8).getLsbD l) ∧ wave8.liveOf split8 ≠ 0 ∧
     (gatherAt s wave8).cur.split < 4 ∧ (fw 0 4 1 0).la = false ∧ (runList (fw 0 4 1 0) wave8 split8).length ≤ wave8.width ∧
     (wave8.vnamesBound ++ [4, 5]).eraseDups.length ≤ wave8.vmax ∧ (gatherAt s wave8).issuing = some (wave8, split8) ∧
     (∀ j < 4, j ≠ 0 → wave8.split j = none) ∧ split8.rep = 0 ∧ (∀ l ∈ runList (fw 0 4 1 0) wave8 split8, Table.get noneAt wave8.queries l = none)) :=
  ⟨⟨gathers_wide (sp := split8) (by decide +kernel) (by decide +kernel), issues_of (by decide +kernel), by decide +kernel⟩,
   gathers_wide (sp := split8) (by decide +kernel) (by decide +kernel), issues_of (by decide +kernel), by decide +kernel⟩

/-! ## Witnesses: launches, placement, samples -/

/-- LAUNCH of context 0 with a record. -/
def launchMsg (words : List Word) : Msg :=
  { type := 1, ctx := 0, zero := 0, len := 6, tag := 7, args := 0, payload := words.flatMap (fun x => leBytes 4 x.toNat) }

/-- A state at stage S2 whose context 0 has its first pages, which a message of port 0 reaches. -/
def intakeState (m : Msg) : State := { mapped State.reset with arg := .message 0 m }

/-- State.reset at stage S0, and a record without its form; one that asks to be pinned, which context 1 may not. -/
theorem test_meets_launch_intake :
    (let l := launchOfMsg 0 (launchMsg record48)
     let s := intakeState (launchMsg record48)
     (launchMsg record48).type = 1 ∧ s.stage ≠ 0 ∧ s.badRecord l = false ∧ s.deniedRecord l = false ∧ l.pair 18 = 0 ∧
     (launchOfMsg 0 (launchMsg (record48.set 18 64))).pair 18 ≠ 0 ∧ s.badRecord (launchOfMsg 0 (launchMsg (record48.set 18 64))) = false) ∧
    State.reset.stage = 0 ∧ (intakeState (launchMsg [])).badRecord (launchOfMsg 0 (launchMsg [])) = true ∧
    (let l : Launch := launchOfMsg 0 { launchMsg (record48.set 1 2) with ctx := 1 }
     let s := intakeState (launchMsg record48)
     s.badRecord l = false ∧ s.deniedRecord l = true) := by decide +kernel

theorem test_meets_launch_queue : ¬ queueFull (intakeState (launchMsg record48)) 0 ∧ accepts (intakeState (launchMsg record48)) (launchOfMsg 0 (launchMsg record48)) ∧
    queueFull { State.reset with launches := (List.range 512).map (fun k => (k, some ({} : Launch))) } 0 := by
  have h : ¬ queueFull (intakeState (launchMsg record48)) 0 := by unfold queueFull; decide +kernel
  refine ⟨h, ⟨by decide +kernel, h, by decide +kernel, by decide +kernel⟩, by unfold queueFull; decide +kernel⟩

/-- A launch that waits for the word at 64 to reach 1; at 0x8000 no page is mapped. -/
def waitingLaunch (a v : Word) : Launch := { stage := .waiting, words := ((record48.set 18 a).set 20 v) }

/-- A state with one launch, named. -/
def launchState (l : Launch) : State := { mapped State.reset with arg := .at1 0, launches := [(0, some l)] }

theorem test_meets_wait_words :
    (let s := launchState (waitingLaunch 64 1)
     s.launch 0 = some (waitingLaunch 64 1) ∧ (s.hubCheck 0 64 8 { read := true, plain := true }).toOption.map (fun x => x.1) = some 0x6040 ∧
     placeOf 0x6040 = .memory ∧ s.poisoned 0x6040 8 = false ∧ number (s.bytes 0x6040 8) < ((waitingLaunch 64 1).pair 20).toNat ∧
     ((waitingLaunch 64 0).pair 20).toNat ≤ number (s.bytes 0x6040 8)) ∧
    ((launchState (waitingLaunch 0x8000 1)).hubCheck 0 ((waitingLaunch 0x8000 1).pair 18) 8 { read := true, plain := true }).toOption = none ∧
    ({} : Launch).stage ≠ .waiting := by decide +kernel

/-- A word in a poisoned sector, and one in the control node's window or of CSRs, on the page at 0x8000 that is added to `tables`. -/
theorem test_meets_wait_words_elsewhere :
    (let s := { launchState (waitingLaunch 64 1) with memPoison := [(sectorOf 0x6040, true)] }
     (s.hubCheck 0 64 8 { read := true, plain := true }).toOption.map (fun x => x.1) = some 0x6040 ∧ s.poisoned 0x6040 8 = true) ∧
    (let s := { launchState (waitingLaunch 0x8000 1) with mem := tables ++ [(0x5040, 0x0F), (0x5045, 0x80)] }
     (s.hubCheck 0 0x8000 8 { read := true, plain := true }).toOption.map (fun x => windowOf x.1) = some (some (0, 0)) ∧
     (waitingLaunch 0x8000 1).asked = false ∧ ({ waitingLaunch 0x8000 1 with asked := true } : Launch).asked = true) ∧
    (let s := { launchState (waitingLaunch 0x8000 1) with mem := tables ++ [(0x5040, 0x4F), (0x5045, 2), (0x5046, 2)] }
     (s.hubCheck 0 0x8000 8 { read := true, plain := true }).toOption.map (fun x => placeOf x.1) = some (.csr 0 0) ∧ (waitingLaunch 0x8000 1).reads = {} ∧
     Table.get noneAt ({ words := [(0x8000, some 1), (0x8004, some 0)] } : Reads).words 0x8004 = some 0) := by decide +kernel

/-- A launch whose group has ended. -/
def endedLaunch (a : Word) : Launch := { words := record48.set 22 a, nextGroup := 1, ended := 1 }

theorem test_meets_launch_complete : allEnded (launchState (endedLaunch 0)) 0 (endedLaunch 0) ∧ ¬ allEnded (launchState {}) 0 { words := record48 } ∧
    ((endedLaunch 0).replayFault = false ∧ (endedLaunch 0).pair 22 = 0 ∧ (endedLaunch 64).pair 22 ≠ 0 ∧ (endedLaunch 0x8000).pair 22 ≠ 0) ∧
    ((launchState (endedLaunch 0x8000)).hubCheck 0 0x8000 8 { read := true, write := true }).toOption = none ∧
    ((launchState (endedLaunch 64)).hubCheck 0 64 8 { read := true, write := true }).toOption.map (fun x => x.1) = some 0x6040 ∧
    placeOf 0x6040 = .memory ∧ (launchState (endedLaunch 64)).poisoned 0x6040 8 = false ∧
    (∀ e ∈ (launchState (endedLaunch 64)).launches, e.2.map (fun x => decide (x.stage = .waiting)) ≠ some true) := by
  refine ⟨⟨rfl, rfl, rfl, by decide, rfl, by decide, by decide +kernel, by decide, ?_⟩, fun h => absurd h.2.2.2.1 (by decide), by decide +kernel⟩
  intro e he; cases he

/-- The head group of a launch is the sole candidate of die 0, whose context has something left. -/
def placeState : State := (launchState { words := record48, segments := some [] }).setCsr 0 0xA404 1

theorem test_meets_placement :
    (let l : Launch := { words := record48, segments := some [] }
     let c : Candidate := { launch := 0, klass := 2, prio := 0, ctx := 0, age := 0, cores := [0] }
     placeState.arg = .at1 0 ∧ placeState.candidates 0 = [c] ∧ 0 < placeState.deficit 0 0 ∧ placeState.launch 0 = some l ∧ l.klass ≠ 0 ∧ l.csize = 1 ∧
     l.flag 2 = false ∧ l.flag 3 = false ∧ l.kind = .plain ∧ l.discarded = [] ∧ l.nextGroup < l.groups ∧ placeState.passes 0 l 0 false = true) ∧
    (launchState {}).candidates 0 = [] ∧
    (let l : Launch := { words := record48.set 1 1 }
     let s : State := { state8 with launches := [(0, some l)] }
     l.flag 0 = true ∧ l.flag 1 = false ∧ s.wave 0 0 = some wave8 ∧ s.group 1 = some { live := [0] } ∧ s.clusterOf 1 = [(1, { live := [0] })] ∧
       wave8.kind = .grid ∧ State.reset.wave 0 0 = none ∧ (0x80000000 : Word).getLsbD 31 = true ∧ (0x80000000 : Word).toNat % 2 ^ 9 = 0) := by decide +kernel

/-- A sampled group of a launch, whose run has ended or not. -/
def sampleState (l : Launch) (x : Sample) : State :=
  { launchState l with arg := .at1 1, groups := [(1, some { sampled := true })], dies := [(0, { samples := [x] })] }

theorem test_meets_sampling :
    (let l : Launch := { words := record48, segments := some [] }
     let s := sampleState l {}
     s.group 1 = some { sampled := true } ∧ s.launch 0 = some l ∧ s.sampleOf 0 0 = some (0, {}) ∧ leasePages s 0 l = some []) ∧
    (let l : Launch := { words := (record48.set 29 1).set 30 0x8000 |>.set 32 64 }
     leasePages (sampleState l {}) 0 l = none) ∧
    (let l : Launch := { words := record48, segments := some [] }
     let y : Sample := { pages := [0x1000] }
     let store : MemOp := { kind := .store, passed := true, units := [{ lane := 0, len := 4, va := 0x1000 }] }
     let s := { sampleState l y with groups := [(1, some { sampled := true, leasing := true })] }
     let t := s.setWave 0 0 (some { wave8 with ops := [store] })
     s.group 1 = some { sampled := true, leasing := true } ∧ s.sampleOf 0 0 = some (0, y) ∧ s.storesTo 0 y.pages = false ∧ t.storesTo 0 y.pages = true) ∧
    (let l : Launch := { words := record48, segments := some [] }
     let x : Sample := { cores := [0], digests := [(0, true)], running := false }
     let s : State := { sampleState l x with arg := .at2 0 0 }
     (s.die 0).samples[0]? = some x ∧ s.sampleOf 0 0 = some (0, x) ∧ l.csize = 1 ∧
     s.coresFor 0 l true ((List.range 64).filter (fun c => decide (c / 16 ≠ x.cores.headD 0 / 16) && !x.cores.contains c)) = some [16]) := by
  decide +kernel

/-! ## Witnesses: the state window -/

/-- A wave of core 0 that has stopped. -/
def stopped8 : Wave := { wave8 with run := .stopped, frame := List.replicate 6 0, queue := [loadOp] }

theorem test_meets_window_commands :
    (let s : State := { issuing stopped8 with arg := .command 0 0 3 }
     s.arg = .command 0 0 3 ∧ s.wave 0 0 = some stopped8 ∧ stopped8.run = .stopped ∧ stopped8.frameCause ≠ causeCode .zoneEvacuation ∧
       stopped8.frameCause ≠ causeCode .benched ∧ stopped8.split 0 ≠ none ∧ stopped8.split 3 = none) ∧
    (let w := { wave8 with stepping := some 7, stepped := true }
     (issuing w).wave 0 0 = some w ∧ w.run = .running ∧ w.replaying = false ∧ (issuing w).shadowOf w.group = false ∧ w.stepping ≠ none ∧ w.stepped = true) ∧
    (wave8.stepping = none ∧ State.reset.wave 0 0 = none) := by decide +kernel

theorem test_meets_barred : barred ((issuing stopped8).setCsr 4 0x6804 0x200) 0 { stopped8 with frameCause := causeCode .zoneEvacuation } ∧
    barred ((issuing stopped8).setCsr 0 0x200 0x20000) 0 { stopped8 with frameCause := causeCode .benched } ∧ ¬ barred (issuing stopped8) 0 stopped8 := by
  unfold barred; decide +kernel

theorem test_meets_kill_command :
    (let s : State := { issuing wave8 with arg := .command 0 0 0, groups := [(1, some { live := [0, 1] })] }
     s.wave 0 0 = some wave8 ∧ s.group 1 = some { live := [0, 1] } ∧ wave8.flow = 0 ∧ wave8.kind = .grid ∧ wave8.ops = [] ∧
       s.discardable 1 = false ∧ (∃ k ∈ [0, 1], k ≠ 0) ∧ s.clusterOf 1 = [(1, { live := [0, 1] })] ∧ ({ live := [0, 1] } : Group).core = 0) ∧
    State.reset.wave 0 0 = none ∧
    (let l : Launch := { words := record48.set 1 1 }
     let s : State := { issuing wave8 with launches := [(0, some l)] }
     s.discardable 1 = true ∧ s.launch 0 = some l ∧ s.group 1 = some { live := [0] } ∧ s.clusterOf 1 = [(1, { live := [0] })]) := by decide +kernel

/-- What the window of core 0 names: the last word of registers, of scalars, of a split, of an item of each space. -/
theorem test_meets_state_window :
    (let s : State := { issuing stopped8 with arg := .at1 0 }
     (s.csrAt 0 0x2000).toNat % 512 = 0 ∧ s.wave 0 0 = some stopped8 ∧ stopped8.run = .stopped ∧ (16383 : Nat) < 2 ^ 14 ∧ (16383 : Nat) / 2 ^ 28 = 0) ∧
    stopped8.split 0 = some split8 ∧ stopped8.queue[0]? = some loadOp ∧ loadOp.run.getLsbD 0 = true ∧
    (state64.scratchSize 1 = 65536 ∧ 8 * 8191 + 8 ≤ state64.scratchSize 1) ∧ (8 * 1 + 8 ≤ state64.accSize 1 ∧ state64.group 1 = some { live := [0] }) ∧
    (let w := arriving 0 false
     w.record (2 % 128) = some { tag := 2, rejoin := 0x1000, members := 0xDF }) ∧
    (let w : Wave := { stopped8 with paths := [{ ctx := split8 }] }
     w.paths[0]? = some { ctx := split8 }) ∧
    (7 % 64 < stopped8.width ∧ ¬ 8 % 64 < stopped8.width) ∧ wave8.run = .running := by decide +kernel

/-! ## Witnesses: the Umpire, soft errors, the SRAM rail -/

theorem test_meets_umpire_controls :
    (let s : State := { State.reset.setCsr 0 0x200 0x40000 with arg := .outcome 0 true }
     s.arg = .outcome 0 true ∧ fld (s.csrAt 0 (foulReg 0)) 19 18 = 1) ∧ fld (State.reset.csrAt 0 (foulReg 0)) 19 18 ≠ 1 ∧
    (let s : State := { sampleState { words := record48 } {} with
      arg := .at1 0, groups := [(1, some { sampled := true }), (2, some { shadow := some (0, 0) })] }
     sampleOfCtx s 0 {} = true ∧ s.group 2 = some { shadow := some (0, 0) }) := by decide +kernel

theorem reset_foul (k : Nat) (h : 0x200 ≤ k % 0x10000) (g : k % 0x10000 < 0x240) : csrReset k = 0 := by
  unfold csrReset
  dsimp only
  generalize k / 0x10000 = sp
  generalize k % 0x10000 = a at *
  repeat' split
  all_goals first | rfl | omega

theorem test_reset_benches_none : ∀ c, State.reset.benched c = false := by
  intro c
  have h : State.reset.csrAt (dieOf c) (0x0200 + 4 * (c % 16)) = csrReset (csrKey (dieOf c) (0x0200 + 4 * (c % 16))) := rfl
  unfold State.benched
  rw [h, reset_foul _ (by unfold csrKey; omega) (by unfold csrKey; omega)]; rfl

/-- Errors in each kind of storage: register 4 of quad 0, block 1 of the scalars, and the group's own storage are there to be poisoned. The
count of fouls has room at 0 and at 14. -/
theorem test_meets_soft_errors :
    (∀ c, State.reset.benched c = false) ∧ fld (State.reset.csrAt 0 (foulReg 0)) 7 0 < 15 ∧ fld ((State.reset.setCsr 0 (foulReg 0) 14).csrAt 0 (foulReg 0)) 7 0 < 15 ∧
    state8.wave 0 0 = some wave8 ∧ wave8.bound 4 0 = true ∧ 1 ∈ wave8.blocksBound ∧ state8.group 1 = some { live := [0] } ∧
    (∀ e : EccReport, ({ state8 with arg := .error e } : State).arg = .error e) :=
  ⟨test_reset_benches_none, by decide +kernel, by decide +kernel, by decide +kernel, by decide +kernel, by decide +kernel, by decide +kernel, fun _ => rfl⟩

/-- A request for the check on without its feature, as at stage S0; one for the check off at a level that no VSRAMLOW exceeds; targets at the
ends of the range with the check on; switches that run, and LEVEL below and above TARGET. -/
theorem test_meets_rail_and_check :
    ((1 : Word).getLsbD 0 = true ∧ State.reset.feature 7 = false) ∧
    (let s := State.reset.setCsr 0 0x610 0xFFFF0320
     ¬ (((0 : Word).getLsbD 0 = false ∧ fld (s.csrAt 0 0x610) 31 16 < (Config.vsramLow 0).toNat) ∨ ((0 : Word).getLsbD 0 = true ∧ s.feature 7 = false))) ∧
    ((599 : Word).toNat % 2 ^ 16 < 600 ∧ 900 < (901 : Word).toNat % 2 ^ 16) ∧
    (let s := State.reset.setCsr 0 0x604 2
     fld (s.csrAt 0 0x604) 1 0 = 2 ∧ ¬ ((600 : Word).toNat % 2 ^ 16 < 600 ∨ 900 < (600 : Word).toNat % 2 ^ 16) ∧
       ¬ ((900 : Word).toNat % 2 ^ 16 < 600 ∨ 900 < (900 : Word).toNat % 2 ^ 16)) ∧
    (fld (State.reset.csrAt 0 0x604) 1 0 = 0 ∧ fld ((State.reset.setCsr 0 0x604 1).csrAt 0 0x604) 1 0 = 1 ∧
      fld ((State.reset.setCsr 0 0x604 3).csrAt 0 0x604) 1 0 = 3) := by
  refine ⟨by decide +kernel, ?_, by decide, by decide +kernel, by decide +kernel⟩
  have e : fld ((State.reset.setCsr 0 0x610 0xFFFF0320).csrAt 0 0x610) 31 16 = 65535 := by decide +kernel
  have b := (Config.vsramLow 0).isLt
  show ¬ (_ ∨ _)
  rintro (⟨-, h⟩ | ⟨h, -⟩)
  · rw [e] at h; omega
  · exact absurd h (by decide)

/-- A rail that may move at cycle 1,000, and not at 999; one that does not move. -/
theorem test_meets_rail_times : let s : State := { State.reset.setCsr 0 0x610 0x03200258 with svcs := [(0, { cycle := 1000 })] }
    (fld (s.csrAt 0 0x610) 31 16 ≠ fld (s.csrAt 0 0x610) 15 0 ∧ railSince s 0 + 1000 ≤ (s.svc 0).cycle.toNat) ∧
    (({ s with svcs := [(0, { cycle := 999 })] } : State).svc 0).cycle.toNat < railSince s 0 + 1000 ∧
    fld (State.reset.csrAt 0 0x610) 31 16 = fld (State.reset.csrAt 0 0x610) 15 0 := by decide +kernel

/-! ## Witnesses: the cooling unit, clocks, power -/

/-- A reading of a zone: outlet at the limit of 96.0, over it, or dry. -/
def reading (z : Nat) (outlet : BitVec 16) (dry : Bool) : ZoneReading :=
  { zone := z, inlet := 0, outlet := outlet, dp := 0, flow := 0, dry := dry, valve := 0 }

theorem test_meets_coolant_sample : (reading 83 0 false).zone < 84 ∧
    (let limit : BitVec 16 := (State.reset.csrAt 4 0x6610).extractLsb' 16 16
     limit.toInt < (reading 0 (limit + 1) false).outlet.toInt ∧ (reading 0 limit false).outlet.toInt ≤ limit.toInt) ∧
    fld (entryHi State.reset 0) 10 8 ≤ 1 ∧ zoneCore 0 = some 0 ∧ zoneCore 79 = none ∧ zoneCore 83 = none := by decide +kernel

/-- A commit of zone 83 whose words wait, and the sums of guarantees within and beyond SUPPLYCAP. -/
def catState (b : Word) : State := { State.reset with catStaged := [(166, some 2), (167, some b)], arg := .value 0 0x80000053 }

theorem test_meets_allocation_table :
    (0x6A9C < 0x6AA0 ∧ ¬ ((0x6AA0 : Nat) < 0x6AA0)) ∧ ((0x80000053 : Word).getLsbD 31 = true ∧ (0x80000053 : Word).toNat % 256 = 83) ∧
    (84 ≤ (0x80000054 : Word).toNat % 256 ∧ (0x80000054 : Word).toNat % 256 ≠ 255) ∧
    (let s := catState 0x900
     fld (entryHi s 83) 10 8 ≠ 2 ∧ Table.get noneAt s.catStaged (2 * 83) = some 2 ∧ Table.get noneAt s.catStaged (2 * 83 + 1) = some 0x900 ∧
     guarantees s 83 1 2 ≤ min 4000 (fld (s.csrAt 4 0x6610) 11 0) ∧
     min 4000 (fld ((s.setCsr 4 0x6610 1).csrAt 4 0x6610) 11 0) < guarantees (s.setCsr 4 0x6610 1) 83 1 2) := by decide +kernel

theorem test_meets_cat_commit : commits (catState 0x900) 83 2 0x900 1 1 2 := by unfold commits; decide +kernel

theorem test_meets_clocks_and_power :
    (let s : State := { State.reset with arg := .at1 0, cores := [(0, { flow := { rise := true } })] }
     (s.core 0).flow.rise = true ∧ 95 * granted s 0 ≤ 100 * fld (s.csrAt 4 (sens 0 1)) 11 0) ∧ (State.reset.core 0).flow.rise = false ∧
    ((∀ c < 64, 40 ≤ (State.reset.core c).flow.powerCap) ∧ (3100000 < 3200000 ∧ 3200000 ≤ 3200000)) ∧
    (let s : State := { State.reset with cores := (List.range 64).map (fun c => (c, { flow := { powerCap := 0 } })) }
     ∀ c < 64, (s.core c).flow.powerCap = 0) := by decide +kernel

theorem test_meets_power_order : (0 < (State.reset.core 63).flow.powerCap ∧ ∀ k < 64, k ≠ 63 → lowersBefore State.reset 63 k) ∧
    (let s : State := { State.reset with cores := [(5, { flow := { powerCap := 39 } })] }
     (s.core 5).flow.powerCap < 40 ∧ ∀ k < 64, k ≠ 5 → ¬ (s.core k).flow.powerCap < 40) := by
  unfold lowersBefore; decide +kernel

/-- Zone 0 in evacuation, at a step, after a time. -/
def evacState (step : Word) (cycles : Nat) (arg : EventArgs) : State :=
  { ((State.reset.setCsr 4 0x6804 0x280).setCsr 4 0x6008 (step * 256)) with arg := arg, svcs := [(4, { cycle := BitVec.ofNat 64 cycles })] }

theorem test_meets_evacuation :
    (let s := evacState 1 0 (.at1 0)
     fld (entryHi s 0) 10 8 = 2 ∧ fld (s.csrAt 4 (sens 0 2)) 11 8 = 1 ∧ ∀ e ∈ s.wavesOn 0, e.2.run ≠ .running) ∧
    (let s := evacState 2 320000 (.outcome 0 true)
     fld (s.csrAt 4 (sens 0 2)) 11 8 = 2 ∧ 320000 ≤ stepTime s 0) ∧
    (let s := evacState 3 50000 (.outcome 0 false)
     fld (s.csrAt 4 (sens 0 2)) 11 8 = 3 ∧ 50000 ≤ stepTime s 0 ∧ fld (s.csrAt 4 (sens 0 2)) 7 4 < 2 ∧
       2 ≤ fld ((s.setCsr 4 0x6008 0x320).csrAt 4 (sens 0 2)) 7 4) ∧
    (let s := evacState 4 100000 (.at1 0)
     fld (s.csrAt 4 (sens 0 2)) 11 8 = 4 ∧ 100000 ≤ stepTime s 0) ∧
    (¬ 100000 ≤ stepTime (evacState 4 99999 (.at1 0)) 0 ∧ zoneCore 16 = none) ∧
    (let s := { (State.reset.setCsr 4 0x6A9C 0x280).setCsr 4 (sens 83 2) 0x400 with
       arg := .at1 83, svcs := [(4, { cycle := 100000 })], zoneWas := [(83, 1)] }
     fld (entryHi s 83) 10 8 = 2 ∧ fld (s.csrAt 4 (sens 83 2)) 11 8 = 4 ∧ 100000 ≤ stepTime s 83 ∧ zoneCore 83 = none) := by decide +kernel

/-- Each bit of CTL at a status that lets it change, or not; a cluster that asked to be quiet and holds nothing; and a return from retention. -/
theorem test_meets_cluster_power :
    (ctlEvents.all (fun e => decide ((State.reset.setCsr 0 0x800 (if e.2.2 then 0 else 0x3F)).csrAt 0 0x800 |>.getLsbD e.2.1) ≠ e.2.2) = true) ∧
    (ctlEvents.all (fun e => decide ((State.reset.setCsr 0 0x800 (if e.2.2 then 0x3F else 0)).csrAt 0 0x800 |>.getLsbD e.2.1) = e.2.2) = true) ∧
    (let s := State.reset.setCsr 0 0x804 0x110
     fld (stsOf s 0 0) 11 8 = 1 ∧ ∀ c ∈ (List.range 4).map (16 * 0 + 4 * 0 + ·), s.groupsOn c = [] ∧ s.wavesOn c = [] ∧ (s.core c).cmds = [] ∧ (s.core c).array = []) ∧
    ((0x18 : Word).getLsbD 3 = true ∧ (0x10 : Word).getLsbD 3 = false) ∧
    (let s := (State.reset.setCsr 0 0x800 4).setCsr 0 0x804 0x11
     (ctlOf s 0 0).getLsbD 2 = true ∧ (stsOf s 0 0).getLsbD 0 = true ∧ (stsOf s 0 0).getLsbD 1 = false ∧ imageBase s 0 0 = 0 ∧ placeOf (0 + 4096 * 3) = .memory) ∧
    (let s := (State.reset.setCsr 0 0x800 0x20).setCsr 0 0x804 0x12
     (ctlOf s 0 0).getLsbD 5 = true ∧ (stsOf s 0 0).getLsbD 1 = true ∧ (stsOf s 0 0).getLsbD 2 = false ∧ (stsOf s 0 0).getLsbD 5 = false) ∧
    (let s := (State.reset.setCsr 3 0x860 0).setCsr 3 0x864 0x15
     (ctlOf s 3 3).getLsbD 2 = false ∧ (ctlOf s 3 3).getLsbD 4 = false ∧ (stsOf s 3 3).getLsbD 0 = true ∧ (stsOf s 3 3).getLsbD 2 = true ∧
       ∀ c ∈ (List.range 4).map (16 * 3 + 4 * 3 + ·), ∀ g ∈ s.groupsOn c, s.discardable g.1 = false) := by decide +kernel

theorem test_meets_ctl_changes : (∀ e ∈ ctlEvents, mayChange (if e.2.1 = 0 then 0x10 else 0x13 ||| if e.2.1 = 4 then 4 else 0) e.2.1 e.2.2) ∧ ¬ mayChange 0x110 0 true := by
  unfold mayChange; decide +kernel

/-! ## Witnesses: the link and the hub -/

/-- A message of context 0 with no payload. -/
def bareMsg (type : BitVec 8) (args : Nat) : Msg := { type := type, ctx := 0, zero := 0, len := 0, tag := 7, args := BitVec.ofNat 192 args, payload := [] }

/-- ARGS of a read or write of n bytes at a, virtual or physical. -/
def memArgsOf (a n : Nat) (phys : Bool) : Nat := a + 2 ^ 64 * n + (if phys then 2 ^ 80 else 0)

/-- A module at stage S2 whose context 0 has its first pages, with a message of a port. -/
def linkState (port : Nat) (m : Msg) : State := { mapped State.reset with arg := .message port m }

/-- Reads of 4 and of 4,096 bytes; lengths of 0, 2 and 4,100 are malformed; a write of 8 bytes. -/
theorem test_meets_link_forms :
    memForm (bareMsg 2 (memArgsOf 0 4 false)) ∧ memForm (bareMsg 2 (memArgsOf 0 4096 true)) ∧ ¬ memForm (bareMsg 2 (memArgsOf 0 0 false)) ∧
    ¬ memForm (bareMsg 2 (memArgsOf 0 2 false)) ∧ ¬ memForm (bareMsg 2 (memArgsOf 0 4100 false)) := by
  unfold memForm; decide +kernel

theorem test_meets_link_payloads : bare (bareMsg 2 0) ∧
    holds { bareMsg 3 (memArgsOf 0 8 false) with len := 1, payload := List.replicate 8 1 } 8 := by
  unfold holds bare; decide +kernel

theorem test_meets_link_commands_form : csrForm 0 (bareMsg 6 (4 + 0x7B00 * 2 ^ 16)) 64 ∧
    ¬ csrForm 2 (bareMsg 6 0) 64 ∧ commands (linkState 0 (bareMsg 8 0)) 0 (bareMsg 8 0) 17 ∧ ¬ commands State.reset 0 (bareMsg 8 0) 17 := by
  unfold csrForm commands bare; decide +kernel

theorem test_meets_link_refusals : refusal (linkState 0 (bareMsg 2 0)) 0 { bareMsg 2 0 with ctx := 1 } true 2 ∧ refusal State.reset 2 (bareMsg 2 0) false 4 ∧
    refusal State.reset 0 (bareMsg 2 0) false 4 ∧
    refusal (linkState 2 (bareMsg 2 0)) 2 (bareMsg 2 0) false 2 ∧ actsFor (linkState 0 (bareMsg 2 0)) 0 (bareMsg 2 0) false 0 :=
  ⟨.inl (by decide +kernel), .inr (.inl (by decide +kernel)), .inr (.inl (by decide +kernel)), .inr (.inr (by decide +kernel)), .inl (by decide +kernel)⟩

/-- A peer's request, in a part that holds feature 4. -/
theorem test_meets_peer_requests (h : Config.features.getLsbD 4 = true) :
    let s := ((linkState 2 (bareMsg 5 0)).setCsr 4 0x7B00 3 |>.setCsr 4 0x7800 0x80000000).setCsr 4 0x7A10 0xFF
    actsFor s 2 (bareMsg 5 0) false 0 := by
  intro s
  have e : s.feature 4 = (0xFF &&& Config.features.setWidth 32 : Word).getLsbD 4 := rfl
  refine .inr ⟨by decide, by decide +kernel, rfl, by decide +kernel, ?_, by decide +kernel⟩
  rw [e, BitVec.getLsbD_and, BitVec.getLsbD_setWidth, h]; rfl

theorem test_meets_link_memory :
    liesAt (linkState 0 (bareMsg 2 0)) false 0 0 8 { read := true, plain := true } (fun k => 0x6000 + 4 * k) ∧
    liesAt (linkState 0 (bareMsg 2 0)) true 0 0x100 8 { read := true, plain := true } (fun k => 0x100 + 4 * k) ∧
    liesAt (linkState 0 (bareMsg 2 0)) false 0 0 8 { write := true, plain := true } (fun k => 0x6000 + 4 * k) := by
  have e : ∀ (want : Want), want.exec = false → want.plain = true → ∀ k < 2, ((linkState 0 (bareMsg 2 0)).hubCheck 0 (BitVec.ofNat 64 (0 + 4 * k)) 4 want).toOption.map (fun x => x.1) = some (0x6000 + 4 * k) := by
    intro want h1 h2
    obtain ⟨a, b, c, d⟩ := want
    cases h1; cases h2
    revert a b
    decide +kernel
  have get : ∀ {x : Except FaultInfo (Nat × TlbEntry)} {n : Nat}, x.toOption.map (fun y => y.1) = some n → ∃ e, x = .ok (n, e) := by
    intro x n h
    cases x with
    | error _ => cases h
    | ok y => exact ⟨y.2, by cases h; rfl⟩
  have p : ∀ k < 2, (linkState 0 (bareMsg 2 0)).poisoned (0x6000 + 4 * k) 4 = false := by decide +kernel
  refine ⟨⟨by decide +kernel, fun k h => ⟨?_, fun h => absurd h (by decide +kernel), fun h => (by cases h), fun _ => ⟨get (e _ rfl rfl k (by omega)), fun _ => p k (by omega)⟩⟩⟩,
    ⟨by decide +kernel, fun k h => ⟨?_, fun h => absurd h (by decide +kernel), fun _ => rfl, fun h => (by cases h)⟩⟩,
    ⟨by decide +kernel, fun k h => ⟨?_, fun h => absurd h (by decide +kernel), fun h => (by cases h), fun _ => ⟨get (e _ rfl rfl k (by omega)), fun _ => p k (by omega)⟩⟩⟩⟩ <;>
  · unfold placeOf; rw [if_pos (by dsimp only; omega)]

theorem test_meets_link_faults : stageOf (linkState 0 (bareMsg 2 0)) ≠ 0 ∧ (∃ e, (linkState 0 (bareMsg 2 0)).hubCheck 0 (BitVec.ofNat 64 (0x7FFC + 4 * 1)) 4 { read := true, plain := true } = .error e) ∧
    atomicByte 0x43 = some (.fadd2b, 4) ∧ atomicByte 0x44 = none ∧ atomicByte 0x52 = some (.fadd, 8) ∧ atomicByte 0x53 = none ∧ bareMsg 0 0 ≠ bareMsg 11 0 ∧
    ((linkState 2 (bareMsg 5 0)).hubCheck 0 0 8 { read := true, write := true }).toOption.map (fun x => x.1) = some 0x6000 :=
  ⟨by decide +kernel, ⟨_, rfl⟩, by decide, by decide, by decide, by decide, by decide, by decide +kernel⟩

theorem test_meets_register_access :
    ((stageOf State.reset = 0 ∧ (3 : Nat) ≠ 4) ∧ stageOf (linkState 0 (bareMsg 6 0)) ≠ 0 ∧ stageOf (linkState 0 (bareMsg 6 0)) ≠ 1) ∧
    plainReg 0 0x2F00 = some 0x1FF ∧ plainReg 0 0x087C = none ∧ plainReg 0 0x0870 = some 0xFFFFFFFF ∧ plainReg 4 0x3800 = some 0xFFFFF000 ∧ plainReg 4 0x7048 = none ∧
    plainReg 4 0x7044 = some 0xFFFFFFC0 ∧ plainReg 4 0x7878 = some 0x8000003F ∧
    (¬ dark State.reset 63 ∧ fld (40 : Word) 5 0 ≤ 40 ∧ 40 < fld (41 : Word) 5 0 ∧ dark ((State.reset.setCsr 3 0x864 0x518)) 63) := by
  unfold dark; decide +kernel

theorem test_meets_link_commands :
    (let s : State := { (issuing stopped8).setCsr 4 0x7B00 2 with arg := .message 0 (bareMsg 8 0) }
     s.wave 0 0 = some stopped8 ∧ stopped8.run = .stopped ∧ part (bareMsg 8 0) 0 6 = 0 ∧ State.reset.wave 63 511 = none) ∧
    (let l : Launch := { words := record48 }
     let s : State := { launchState l with arg := .message 1 (bareMsg 9 0) }
     s.launch 0 = some l ∧ l.ctx = 0 ∧ l.kind = .plain ∧ l.stage ≠ .finished ∧ s.dies = [] ∧ s.stagedAll = []) ∧
    (let s : State := { state8.setWave 0 1 (some { wave8 with group := 2, ctx := 5 }) with groups := [(1, some { live := [0] }), (2, some { live := [1], ctx := 5, cluster := 1 })] }
     (s.wave 0 1).map (fun w => w.ctx) = some 5 ∧ s.stagedAll = [] ∧ s.waves.all (fun e => (e.2.map (fun v =>
       v.ctx ≠ 0 || (s.clusterOf v.group).all (fun y => y.2.live.all (fun j => waveKey y.2.core j ≠ waveKey 0 1)))).getD true) = true) := by decide +kernel

/-- A request that waits for the answer of port 2 with tag 7: for another device, and for part 0 of a wave's load. -/
def peerState (r : PeerReq) (m : Msg) : State :=
  { issuing { wave8 with ops := [{ loadOp with units := [{ lane := 0, len := 4, sent := true }] }] } with arg := .message 2 m, peerReqs := [r] }

theorem test_meets_answers :
    holds { bareMsg 14 0 with len := 2, payload := List.replicate 48 0 } 48 ∧
    (let m := { bareMsg 4 0 with len := 1, payload := [1, 2, 3, 4] }
     let r : PeerReq := { port := 2, tag := 7, core := 68, bytes := 4, link := some (0, 9) }
     let s := peerState r m
     s.peerReqs.find? (fun r => decide (r.port = 2 ∧ r.tag = m.tag)) = some r ∧ r.engine = false ∧ r.split = none ∧ r.reader = none ∧ holds m r.bytes ∧
       ¬ holds (bareMsg 4 0) r.bytes ∧ part m 0 8 = 0 ∧ part (bareMsg 4 1) 0 8 ≠ 0) ∧
    (let m := { bareMsg 4 0 with len := 1, payload := [1, 2, 3, 4] }
     let r : PeerReq := { port := 2, tag := 7, bytes := 4 }
     let u : AccUnit := { lane := 0, len := 4, sent := true }
     let o := { loadOp with units := [u] }
     let w := { wave8 with ops := [o] }
     let s := peerState r m
     s.wave 0 0 = some w ∧ w.op r.op = some o ∧ o.kind = .load ∧ o.units[r.unit]? = some u ∧ w.order = r.order ∧ holds m r.bytes ∧ 0 < u.len ∧ u.off % 16 + u.len ≤ 16 ∧ u.va % 4 + u.len ≤ r.bytes ∧ u.undef = none ∧
       w.run = .running ∧ s.shadowOf w.group = false) ∧ State.reset.peerReqs = [] := by
  unfold holds; decide +kernel

theorem test_meets_hub_controls :
    (State.reset.tlbinvPending = false ∧ ({ State.reset with tlbinvPending := true } : State).tlbinvPending = true) ∧
    (∃ e ∈ state8.groups, e.2 ≠ none) ∧ (∀ e ∈ State.reset.groups, e.2 = none) ∧ stageOf State.reset < 3 ∧ stageOf (State.reset.setCsr 4 0x7B00 3) = 3 ∧
    State.reset.stageTest = false ∧ (fld (0x80000002 : Word) 1 0 ≠ 3 ∧ (0x80000002 : Word).getLsbD 31 = true) ∧ fld (0x80000003 : Word) 1 0 = 3 := by decide +kernel

theorem test_meets_tlb_waits : unperformed (opState loadOp) (fun c => decide (c = 0)) ∧ ¬ unperformed State.reset (fun _ => true) := by
  refine ⟨⟨(waveKey 0 0, some { wave8 with ops := [loadOp] }), by decide +kernel, _, rfl, by decide +kernel, loadOp, by decide +kernel, by decide +kernel,
    by decide, { lane := 0, len := 4, va := 0x2000, pa := 0x2000 }, by decide +kernel, by decide +kernel⟩, ?_⟩
  rintro ⟨e, h, -⟩
  cases h

theorem test_meets_unassigned_opcode :
    (let s : State := { state8 with arg := .fetchFault .illegalOpcode 0x1000 7 false 0 }
     s.cur.svc = none ∧ s.wave s.cur.core s.cur.wave = some wave8 ∧ wave8.run = .running ∧ s.shadowOf wave8.group = false ∧
       StopCause.illegalOpcode ∉ [StopCause.poisonRegister, .kill, .discard]) ∧ svcState.cur.svc = some 2 := by decide +kernel

/-! ## Witnesses: decoding and the step -/

/-- IADD v3, v1, v2, as the formats set it out. -/
def iaddWords : List Dword := [0x0800301020000000]

/-- The fields of that word. -/
def iaddF : FArgs := fw 3 1 2 0

theorem test_meets_decode_encode : (⟨.iadd iaddF, none⟩ : Decoded).wellFormed false = true ∧ (encode ⟨.iadd iaddF, none⟩) = iaddWords := by decide +kernel

theorem test_meets_decode_uses_words : decodeOn false iaddWords = .ok (⟨.iadd iaddF, none⟩, 1) ∧
    (decodeOn false [0x8212345678000000, 0x0800000000000001]).toOption.map (fun x => x.2) = some 2 := by decide +kernel

/-- The page of that code. -/
def codePage : TlbEntry := { page with ctx := 0, vbase := 0x1000, pbase := 0x1000, x := true }

/-- The wave of eight lanes at 0x1000, with a code segment from 0 to 0x2000, whose page 0x1000 of module memory stands in the core's TLB and the
die's, at stage S3; its split has its turn. -/
def stepState : State :=
  ({ issuing wave8 with
    mem := [(0x1003, 0x20), (0x1004, 0x10), (0x1005, 0x30), (0x1007, 8)]
    cores := [(0, { tlb := [codePage] })], dies := [(0, { tlb := [codePage] })]
    launches := [(0, some { segments := some [(0, 0x2000, 0)] })]
    cur := {}, agenda := [.issue 0 0 0] } : State).setCsr 4 0x7B00 3

theorem stepState_iwords : (stepState.core 0).iwords 0 0x1000 = [] := by decide +kernel

theorem test_meets_instruction_fetch : let s := stepState
    (∃ x ∈ ((s.launchOf 1).bind (fun l => l.segments)).getD [], x.1 ≤ 0x1000 ∧ 0x1000 + 8 ≤ x.1 + x.2.1) ∧
    (∃ e ∈ (s.die 0).tlb, e.serves 0 0x1000 = true ∧ (∀ x ∈ (s.core 0).tlb ++ (s.die 0).tlb, x.serves 0 0x1000 = true → x = e) ∧
      (s.check 0 0 0x1000 8 .fetch { exec := true }).toOption = some (0x1000, e)) ∧
    placeOf 0x1000 = .memory ∧ 0x1000 % 128 = 0x1000 % 128 ∧ number (s.bytes 0x1000 8) = (0x0800301020000000 : Dword).toNat ∧
    (∀ v ∈ (s.core 0).iwords 0 0x1000, v = 0x0800301020000000) ∧ frameOf 0x0800301020000000 ≠ 2 := by
  dsimp only
  refine ⟨by decide +kernel, by decide +kernel, by decide +kernel, by decide +kernel, by decide +kernel, fun v hv => ?_, by decide +kernel⟩
  rw [stepState_iwords] at hv
  cases hv

/-- A PC that is no multiple of 8, and one beyond the segment, are stops of the fetch. -/
theorem test_meets_fetch_faults :
    (match (stepState.fetchSplit 0 0 0 wave8 0x1004).1 with | .fault i => decide (i.cause = .misaligned) | _ => false) = true ∧
    (match (stepState.fetchSplit 0 0 0 wave8 0x2000).1 with | .fault i => decide (i.cause = .fetchSegment) | _ => false) = true := by decide +kernel

theorem test_meets_step_runs_decoded :
    (let s0 : State := { stepState with agenda := [] }
     s0.wave 0 0 = some wave8 ∧ wave8.split 0 = some split8 ∧ s0.mayIssue 0 wave8 0 split8 = true ∧
     (match (s0.fetchSplit 0 0 0 wave8 0x1000).1 with | .words ws => decide (ws = iaddWords) | _ => false) = true ∧
     (s0.fetchSplit 0 0 0 wave8 0x1000).2.execBreaks wave8 split8 0x1000 = [] ∧
     (s0.fetchSplit 0 0 0 wave8 0x1000).2.offers (opcOfWords (iaddWords.take 1)) = true) ∧
    (match decodeOn false [0x7FF0000000000000] with | .error _ => true | .ok _ => false) = true ∧
    (let s : State := { State.reset with svcs := [(2, { halted := false })] }
     let s1 := s.svcTake 2
     (s1.svc 2).halted = false ∧ (s1.svc 2).waiting = none ∧
       (match (s1.svc 2).fetchPc with | .words ws => decide (ws = [0]) | _ => false) = true ∧ (decodeOn true [0]).toOption.map (fun x => x.2) = some 1) ∧
    isEvent .cfuSample = true := by decide +kernel

/-- A load outstanding into v4, an instruction whose registers are beyond those reserved, one that would read poison, and a group of another wave. -/
theorem test_meets_issue_rules : aluRow (.iadd (fw 8 4 5 0)) = some (.iadd, fw 8 4 5 0) ∧ Gathers state8 (fw 8 4 5 0).width state8 ∧
    (let w := { wave8 with ops := [{ loadOp with dst := .vec 4 1 }] }
     ∃ o ∈ w.ops, ∃ d n, o.dst = .vec d n ∧ ∃ r ∈ (FOp.iadd.uses (fw 8 4 5 0)).vr, d ≤ r ∧ r < d + n ∧ ∃ q ∈ quadsOf o.run, q ∈ w.readQuads split8 (FOp.iadd.uses (fw 8 4 5 0))) ∧
    (let w := { wave8 with vres := 2 }
     w.busy split8 (FOp.iadd.uses (fw 8 4 5 0)) = false ∧ w.vres < w.vmax ∧ w.vres < (FOp.iadd.uses (fw 8 4 5 0)).vnames.length) ∧
    (let w := { wave8 with vpoison := [(64, true)] }
     w.readsPoison split8 (FOp.iadd.uses (fw 8 4 5 0)) = true ∧ w.busy split8 (FOp.iadd.uses (fw 8 4 5 0)) = false ∧ w.vmax ≤ w.vres ∧ w.smax ≤ w.sres) ∧
    (let s : State := { state8 with groups := [(1, some { live := [0, 1] })] }
     s.discardable 1 = false ∧ (∀ o ∈ wave8.ops, ∀ x ∈ o.units, x.sent = false) ∧ ({ live := [0, 1] } : Group).shadow = none ∧ ∃ k ∈ [0, 1], k ≠ s.cur.wave) :=
  ⟨rfl, gathers_narrow (by decide +kernel),
   ⟨_, List.mem_singleton.2 rfl, 4, 1, rfl, 4, by decide +kernel, by decide, by decide, 0, by decide +kernel, by decide +kernel⟩,
   by decide +kernel, by decide +kernel, by decide +kernel, by decide +kernel, by decide +kernel, 1, by decide +kernel⟩

/-- REP of IADD, at repeat 2 of 3, with D and A stepped. -/
theorem test_meets_rep :
    let r : RepArgs := { count := 3, sd := true, sa := true, sb := false, stride := 0 }
    let f := fw 8 4 5 0
    let s := { issuing (wave8.onSplit 0 (fun x => { x with rep := 2 })) with cur := { (issuing wave8).cur with aux := some { rep := some r, op := .iadd, f := f } } }
    (laneRow (Instr.ofF (stepped r .iadd f 2) .iadd)).map (fun x => (x.1, x.2.1)) = some (.iadd, stepped r .iadd f 2) ∧
    (s.issuing.map (fun x => x.2.rep)) = some 2 ∧ s.cur.aux = some { rep := some r, op := .iadd, f := f } ∧ stepped r .iadd f 2 = fw 10 6 5 0 := by decide +kernel

theorem test_meets_invariants : Memory.wf State.reset.mem = true ∧ Csrs.wf State.reset.csr = true ∧ State.reset.quiet ∧
    Memory.wf stepState.mem = true ∧ Csrs.wf stepState.csr = true ∧ stepState.quiet :=
  ⟨rfl, rfl, ⟨rfl, rfl⟩, by decide +kernel, by decide +kernel, by unfold State.quiet; decide +kernel⟩

/-- RAYACC, RAYCONT, RAYTERM and PIXDISC have their operands beside them. -/
theorem test_decode_any_hit :
    [(0x3921000000000000, FOp.rayacc, fw 16 0 0 0), (0x3921000010000000, .rayacc, fw 16 0 1 0), (0x3931000000000000, .raycont, fw 16 0 0 0),
     (0x3941000000000000, .rayterm, fw 16 0 0 0), (0x3870000000000000, .pixdisc, fw 0 0 0 0)].all
      (fun (x : Dword × FOp × FArgs) => match decodeOn false [x.1] with
        | .ok (d, _) => decide (d.instr = Instr.ofF x.2.2 x.2.1 ∧ d.aux = some { op := x.2.1, f := x.2.2 })
        | .error _ => false) = true := by decide +kernel

/-- Words that the chapters give as examples (02 R38, R42; 04 R101, R109; 05 R131; 06 R138, R150, R156; 10 R226; 12 R269; 14 R317, R325; 16 R372; 18 R404). -/
def manualWords : List (List Dword × Instr) :=
  [([0x40840202D209063C], .pair ⟨1, 8, 4, 5⟩ ⟨0x52, 9, 6, 0x3C⟩),
   ([0x823F800000000000, 0x1000804000000001], .fadd { fw 8 4 0 0 with bs := true, limm := some 0x3F800000 }),
   ([0x0310000030000043], .brc (cw 3 4 1 true)),
   ([0x00501404003FFF40], .siaddi (sw 5 4 0 0xFFFD)),
   ([0x0900604050000012], .iaddsat { fw 6 4 5 0 with g := 2, lb := true }),
   ([0x1380800000A00000], .crxf (fw 8 0 0 40)),
   ([0x18314089A0000000], .cvtsr (fw 20 8 0x9A 0)),
   ([0x1950604000000408], .scan { fw 6 4 0 0 8 with g := 1 }),
   ([0x8200000001000000, 0x1900704000000981], .shfl { fw 7 4 0 0 0x13 with bs := true, limm := some 1 }),
   ([0x03D0000000000510], .trap (cw 0 0x51 0 false)),
   ([0x31C0301405800000], .iclk (sw 12 20 22 0)),
   ([0x30C0500A00000000], .dqpush (sw 20 10 0 0)),
   ([0x30E0600C00000000], .dqsteal (sw 24 12 0 0)),
   ([0x2580302010000000 + 0xFFC0000], .saadd { mw 3 2 1 0x3FF 0 0 0 with g := 0 }),
   ([0x30302BFF00000000], .bsync (sw 10 0x3FF 0 0)),
   ([0x3800A04000500000], .emitm (fw 10 4 0 20)),
   ([0x3901008000780000], .rayq (fw 16 8 0 30)),
   ([0x3950004010000008], .repack { fw 0 4 1 0 with g := 1 }),
   ([0x0400100100020000], .csrrd (sw 4 1 0 0x800))]

theorem test_decode_manual_words : manualWords.all (fun e => [false, true].any (fun svc =>
    decide ((decodeOn svc e.1).toOption.map (fun x => (x.1.instr, x.2)) = some (e.2, e.1.length)))) = true := by decide +kernel

/-- REP of 02 R42: four repeats of FMUL, D and A rising by one. -/
theorem test_decode_rep : (decodeOn false [0x810F000000000000, 0x1021020000A00001]).toOption.map (fun x => x.1) =
    some ⟨.repRepeat, some { rep := some { count := 3, sd := true, sa := true, sb := false, stride := 0 }, op := .fmul, f := { fw 16 32 0 40 with bs := true } }⟩ := by
  decide +kernel

/-- A frame that no kind has, an unassigned OPC, a service core's OPC elsewhere, a prefix before a word that takes none, a bit that must be 0. -/
theorem test_decode_refuses : [([0xC000000000000000], StopCause.illegalEncoding), ([0x3FF0000000000000], .illegalOpcode), ([0x0400100100020000], .illegalOpcode),
    ([0x8200000001000000, 0x0310000030000043], .illegalEncoding), ([0x0000000000000001], .illegalEncoding)].all
    (fun (e : List Dword × StopCause) => match decodeOn false e.1 with | .error c => decide (c = e.2) | .ok _ => false) = true := by decide +kernel

/-! ## Well-formedness: an ill-formed term for each check is refused -/

/-- An immediate without BS; one beside a scalar in S; a guard that is beyond its field's use; a pair of halves that write one register. -/
def illFormed : List (Bool × Decoded) :=
  [(false, ⟨.iadd { fw 8 4 0 0 with limm := some 1 }, none⟩),
   (false, ⟨.iadd { fw 8 4 0 6 with bs := true, limm := some 1 }, none⟩),
   (false, ⟨.brm (cw 3 4 1 true) [⟨1, 0, 2, 0⟩, ⟨3, 0, 4, 0⟩, ⟨5, 0, 6, 0⟩], none⟩),
   (false, ⟨.bra (cw 3 0 0 false), some { rep := none, op := .rayacc, f := fw 16 0 1 0 }⟩),
   (false, ⟨.csrrd (sw 4 1 0 0x800), none⟩),
   (true, ⟨.iadd (fw 8 4 5 0), none⟩),
   (false, ⟨.rayacc, none⟩),
   (false, ⟨.cfuSample, none⟩),
   (false, ⟨.iadd64 (fw 255 4 6 0), none⟩),
   (false, ⟨.cvt (fw 8 4 0xFF 0), none⟩),
   (false, ⟨.pair ⟨1, 8, 4, 5⟩ ⟨1, 8, 6, 7⟩, none⟩)]

theorem test_wellformed_refuses : illFormed.all (fun x => !x.2.wellFormed x.1) = true := by decide +kernel

/-- Terms with every kind of operand, which their words decode to. -/
def roundTrips : List (Bool × Decoded) :=
  [(false, ⟨.iadd { fw 255 254 253 0 with g := 7, la := true, lb := true }, none⟩), (false, ⟨.imad { fw 0 255 1 200 with g := 3 }, none⟩),
   (false, ⟨.fadd { fw 8 4 0 0 with bs := true, limm := some 0xFFFFFFFF }, none⟩), (true, ⟨.csrwr (sw 0 4 1023 0xFFFC), none⟩),
   (false, ⟨.repRepeat, some { rep := some { count := 3, sd := true, sa := false, sb := true, stride := 2 }, op := .fadd, f := fw 0 1 2 0 }⟩),
   (false, ⟨.rayacc, some { rep := none, op := .rayacc, f := fw 16 0 1 0 }⟩)]

theorem test_round_trips : roundTrips.all (fun x => x.2.wellFormed x.1 &&
    (match decodeOn x.1 (encode x.2) with | .ok (d, n) => decide (d = x.2 ∧ n = (encode x.2).length) | .error _ => false)) = true := by decide +kernel

/-! ## One step each, against the worked examples of the chapters -/

/-- What a reading gives of the next state. -/
def after {α : Type} (o : Out) (f : State → α) : Option α :=
  match o with
  | .next t => some (f t)
  | _ => none

/-- A register of the wave that issued, in its first lanes. -/
def vAfter (o : Out) (r n : Nat) : Option (List Word) := after o (fun t => (List.range n).map (fun l => ((t.wave 0 0).getD {}).v r l))

/-- A scalar of it. -/
def sAfter (o : Out) (k : Nat) : Option Word := after o (fun t => ((t.wave 0 0).getD {}).s k)

/-- A wave of `n` lanes with registers 0 to 39 and scalars 0 to 63 bound, and lanes' words. -/
def laneWave (n : Nat) (exited : Dword) (masks : Table Dword) (v : List (Nat × List Word)) (s : Table Word) : Wave :=
  { group := 1, width := n, vres := 256, vmax := 256, sres := 1024, smax := 1024, exited := exited
    vbound := (List.range 40).flatMap (fun r => (List.range (n / 4)).map (fun q => (16 * r + q, true)))
    vregs := v.flatMap (fun e => e.2.zipIdx.map (fun x => (64 * e.1 + x.2, x.1)))
    sbound := (List.range 16).map (fun k => (k, true)), sregs := s
    splits := [(0, some { pc := 0x1000, lanes := BitVec.ofNat 64 (2 ^ n - 1), masks := masks })] }

/-- 06 R138: a guarded saturating add. -/
theorem test_iaddsat : let o := exec (.iaddsat { fw 6 4 5 0 with g := 2, lb := true }) (issuing (laneWave 4 8 [(2, 0xD)]
      [(4, [0x7FFFFFF0, 5, 0x80000000, 9]), (5, [0x20, 7, 0xFFFFFFFF, 1]), (6, List.replicate 4 0xAAAAAAAA)] []))
    vAfter o 6 4 = some [0x7FFFFFFF, 0xAAAAAAAA, 0x80000000, 0xAAAAAAAA] ∧ vAfter o 5 4 = some [0, 0, 0, 0] := by decide +kernel

/-- 06 R150: an offset 300 m out. -/
theorem test_crxf : let o := exec (.crxf (fw 8 0 0 40)) (issuing (laneWave 4 0 [] [(0, List.replicate 4 0x01000000), (1, List.replicate 4 0x4072C000)]
      [(41, 0x4072C000), (46, 0x3F800000), (51, 0x3F800000), (56, 0x3F800000)]))
    vAfter o 8 1 = some [0x35800000] ∧ vAfter o 9 1 = some [0] ∧ vAfter o 10 1 = some [0] := by decide +kernel

/-- 06 R156: stochastic rounding to BF16. -/
theorem test_cvtsr : vAfter (exec (.cvtsr (fw 20 8 0x9A 0)) (issuing (laneWave 4 0 []
      [(8, List.replicate 4 0x3F806000), (9, List.replicate 4 0x40000000), (20, List.replicate 4 0x12345FFF)] []))) 20 1 = some [0x40003F81] := by decide +kernel

/-- 06 R157: the scale of a block whose largest magnitude is 100. -/
theorem test_bscale : vAfter (exec (.bscale (fw 8 4 0xCA 0)) (issuing (laneWave 4 0 [] [(4, List.replicate 4 0x42C80000)] []))) 8 1 = some [0x7D] := by decide +kernel

/-- 05 R131: a scalar add of −3. -/
theorem test_siaddi : sAfter (exec (.siaddi (sw 5 4 0 0xFFFD)) (issuing (laneWave 4 0 [] [] [(4, 1)]))) 5 = some 0xFFFFFFFE := by decide +kernel

/-- 07: an exclusive scan. -/
theorem test_scan : vAfter (exec (.scan { fw 6 4 0 0 8 with g := 1 }) (issuing (laneWave 8 0x20 [(1, 0xFB)]
      [(4, [1, 2, 3, 4, 5, 6, 7, 8]), (6, List.replicate 8 0xEEEEEEEE)] []))) 6 8 = some [0, 1, 0xEEEEEEEE, 3, 7, 0xEEEEEEEE, 12, 19] := by decide +kernel

/-- 07: a shuffle down by one, with the status of each lane. -/
theorem test_shfl : let o := exec (.shfl { fw 7 4 0 0 0x13 with bs := true, limm := some 1 }) (issuing (laneWave 8 0x20 [(1, 0xFB)]
      [(4, [1, 2, 3, 4, 5, 6, 7, 8])] []))
    vAfter o 7 8 = some [2, 3, 4, 5, 0, 0, 8, 8] ∧
      after o (fun t => (((t.wave 0 0).getD {}).split 0).map (fun sp => Table.get (fun _ => 0) sp.masks 3)) = some (some 0x10) := by decide +kernel

/-- 04: a deferred branch of a wave of sixteen lanes. -/
theorem test_brc_defer : let o := exec (.brc (cw 3 4 1 true)) (issuing (laneWave 16 0 [(1, 0x0F0F)] [] []))
    after o (fun t => (((t.wave 0 0).getD {}).split 0).map (fun sp => (sp.lanes, sp.pc, sp.tag))) = some (some (0xF0F0, 0x1008, 1)) ∧
    after o (fun t => ((t.wave 0 0).getD {}).paths.map (fun p => (p.ctx.lanes, p.ctx.pc, p.ctx.tag))) = some [(0x0F0F, 0x1018, 1)] ∧
    after o (fun t => ((t.wave 0 0).getD {}).records.map (fun r => (r.members, r.arrived, r.rejoin, r.outerTag))) = some [(0xFFFF, 0, 0x1020, 0)] := by decide +kernel

/-- An instruction that acts once it is performed, issued, performed and returned, with what each turn leaves. -/
def performed (i : Instr) (s : State) : Out :=
  match exec i s with
  | .next t => match exec .memoryAccessPerform { t with arg := .access 0 0 0 0 false } with
    | .next u => exec .loadDataReturn { u with arg := .at3 0 0 0 }
    | o => o
  | o => o

/-- 13 R290: a pop takes the tail, a push adds there. -/
theorem test_deques :
    (let o := performed (.dqpop (sw 24 0 0 0)) (dequeState [0x11, 0x22])
     sAfter o 24 = some 0 ∧ sAfter o 25 = some 0x22 ∧ sAfter o 26 = some 0) ∧
    (let o := performed (.dqpush (sw 20 4 0 0)) (dequeState [])
     sAfter o 20 = some 0 ∧ after o (fun t => t.dequeEntries 0 0) = some [0x80000000_00000010]) := by decide +kernel

/-- 17: the first EMITM of a task wave whose queue has three free entries. -/
theorem test_emitm : let w := laneWave 4 0 [] [(4, [2, 0, 3, 1]), (5, [0x100, 0x200, 0x300, 0x400])] []
    let o := exec (.emitm (fw 10 4 0 20)) (passState w pass0 (List.replicate 4093 { slot := 1 }))
    vAfter o 10 4 = some [2, 0, 1, 0] ∧ after o (fun t => ((t.die 0).amps.drop 4093).map (fun e => e.payload)) = some [0x100, 0x101, 0x300] := by decide +kernel

/-- 18: the second of two waves comes to REPACK; the first, of the lower %waveid, waits. -/
theorem test_repack :
    let f : FArgs := { fw 0 4 1 0 with g := 1 }
    let p := laneWave 4 0 [(1, 0xA)] [(4, [0, 1, 2, 3]), (5, [100, 101, 102, 103]), (6, [7, 7, 7, 7])] []
    let q := laneWave 4 0 [(1, 5)] [(4, [16, 17, 18, 19]), (5, [116, 117, 118, 119]), (6, [7, 7, 7, 7])] []
    let s : State := ({ issuing p with groups := [(1, some { live := [0, 1] })] } : State).setWave 0 1 (some q)
    let t := (after (exec (.repack f) s) (fun t => ({ t with cur := { s.cur with wave := 1 } } : State))).getD {}
    let o := exec (.repack f) t
    vAfter o 4 4 = some [1, 3, 16, 18] ∧ vAfter o 5 4 = some [101, 103, 116, 118] ∧ vAfter o 6 4 = some [0, 0, 0, 0] ∧
      after o (fun t => (t.wave 0 1).map (fun w => w.liveLanes)) = some (some 0) := by decide +kernel

/-- 14 R317: TRAP moves the PC on and stops its wave. -/
theorem test_trap : after (exec (.trap (cw 0 0x51 0 false)) (issuing (laneWave 4 0 [] [] []))) (fun t => (t.wave 0 0).map (fun w =>
    (w.run, w.halt.map (fun h => h.info.cause), (w.split 0).map (fun sp => sp.pc)))) = some (some (.draining, some .softwareTrap, some 0x1008)) := by decide +kernel

/-- A step fetches the word at the split's PC and runs it: v3 becomes v1 + v2, and the PC goes on. -/
theorem test_step : let s := { stepState with waves := [(waveKey 0 0, some { wave8 with vregs := [(64, 5), (128, 0xFFFFFFFE)] })] }
    vAfter (step s) 3 2 = some [3, 0] ∧ after (step s) (fun t => (((t.wave 0 0).getD {}).split 0).map (fun sp => sp.pc)) = some (some 0x1008) := by decide +kernel

/-- A word laid at the place of the next instruction runs as the first one after reset: SMOVI s8, 0x8001. -/
theorem test_fetch_word : sAfter (step (State.reset.withFetchWord 64 0x0020200000200040)) 8 = some 0xFFFF8001 := by decide +kernel

end Sys2Proof.Tests
end

/-! Every step keeps the canonical form of memory and of the CSRs, and the quiet between steps (O60). The canonical form is the model's own
representation. Every operation of the model has one lemma here, named after it, in the order of the model's files. -/

namespace Sys2Proof.Machine

-- A lemma here stands on the one before it: elaborated at once, each would hold a thread that waits for the last.
set_option Elab.async false

/-- What the operations of the model keep of a state `s₀` in a later state `t`: canonical memory and canonical CSRs and, where `Q` holds, the
issuer and the event's arguments. -/
structure Keeps (Q : Prop) (s₀ t : State) : Prop where
  mem : Memory.wf s₀.mem = true → Memory.wf t.mem = true
  csr : Csrs.wf s₀.csr = true → Csrs.wf t.csr = true
  cur : Q → t.cur = s₀.cur
  arg : Q → t.arg = s₀.arg

/-- An outcome whose next state, where it has one, keeps what `Keeps` says. -/
def Ends (Q : Prop) (s₀ : State) (o : Out) : Prop := ∀ t, o = .next t → Keeps Q s₀ t

/-- An optional state that, where there is one, keeps what `Keeps` says. -/
def Gives (Q : Prop) (s₀ : State) (o : Option State) : Prop := ∀ t, o = some t → Keeps Q s₀ t

section
variable {Q : Prop} {s₀ s t : State} {α β : Type}

theorem Keeps.refl : Keeps Q s s := ⟨id, id, fun _ => rfl, fun _ => rfl⟩

theorem Keeps.trans (h : Keeps Q s₀ s) (h' : Keeps Q s t) : Keeps Q s₀ t :=
  ⟨fun w => h'.mem (h.mem w), fun w => h'.csr (h.csr w), fun x => (h'.cur x).trans (h.cur x),
   fun x => (h'.arg x).trans (h.arg x)⟩

/-- A change of other fields keeps it. -/
theorem Keeps.frame (h : Keeps Q s₀ s) (hm : t.mem = s.mem := by rfl) (hc : t.csr = s.csr := by rfl)
    (hi : t.cur = s.cur := by rfl) (ha : t.arg = s.arg := by rfl) : Keeps Q s₀ t :=
  ⟨fun w => hm ▸ h.mem w, fun w => hc ▸ h.csr w, fun x => hi.trans (h.cur x), fun x => ha.trans (h.arg x)⟩

/-- Where the issuer and the arguments do not matter, they may change too. -/
theorem Keeps.issuer (h : Keeps False s₀ s) (hm : t.mem = s.mem := by rfl) (hc : t.csr = s.csr := by rfl) : Keeps False s₀ t :=
  ⟨fun w => hm ▸ h.mem w, fun w => hc ▸ h.csr w, False.elim, False.elim⟩

theorem Keeps.ite {p : Prop} [Decidable p] (h : Keeps Q s₀ s) (h' : Keeps Q s₀ t) : Keeps Q s₀ (if p then s else t) := by
  split
  · exact h
  · exact h'

theorem Keeps.foldl {l : List α} {f : State → α → State} (h : Keeps Q s₀ s)
    (hf : ∀ t x, Keeps Q s₀ t → Keeps Q s₀ (f t x)) : Keeps Q s₀ (l.foldl f s) := by
  induction l generalizing s with
  | nil => exact h
  | cons x l ih => exact ih (hf s x h)

theorem Keeps.foldl_snd {l : List α} {f : β × State → α → β × State} {p : β × State} (h : Keeps Q s₀ p.2)
    (hf : ∀ p x, Keeps Q s₀ p.2 → Keeps Q s₀ (f p x).2) : Keeps Q s₀ (l.foldl f p).2 := by
  induction l generalizing p with
  | nil => exact h
  | cons x l ih => exact ih (hf p x h)

theorem Keeps.foldl_fst {l : List α} {f : State × β → α → State × β} {p : State × β} (h : Keeps Q s₀ p.1)
    (hf : ∀ p x, Keeps Q s₀ p.1 → Keeps Q s₀ (f p x).1) : Keeps Q s₀ (l.foldl f p).1 := by
  induction l generalizing p with
  | nil => exact h
  | cons x l ih => exact ih (hf p x h)

/-- Of a value and a state, the state counts. -/
theorem Keeps.pair {x : α} (h : Keeps Q s₀ s) : Keeps Q s₀ (x, s).2 := h

theorem Keeps.snd {p : α × State} {x : α} (e : p = (x, t)) (h : Keeps Q s₀ p.2) : Keeps Q s₀ t := by
  subst e; exact h

theorem Keeps.snd_snd {p : α × β × State} {x : α} {y : β} (e : p = (x, y, t)) (h : Keeps Q s₀ p.2.2) : Keeps Q s₀ t := by
  subst e; exact h

theorem Ends.next (h : Keeps Q s₀ s) : Ends Q s₀ (.next s) := by
  rintro t ⟨⟩; exact h

theorem Gives.none : Gives Q s₀ none := by
  rintro t ⟨⟩

theorem Gives.some (h : Keeps Q s₀ s) : Gives Q s₀ (some s) := by
  rintro t ⟨⟩; exact h

theorem Gives.ite {p : Prop} [Decidable p] {o o' : Option State} (h : Gives Q s₀ o) (h' : Gives Q s₀ o') :
    Gives Q s₀ (if p then o else o') := by
  split
  · exact h
  · exact h'

theorem Gives.map {o : Option α} {f : α → State} (hf : ∀ x, o = Option.some x → Keeps Q s₀ (f x)) : Gives Q s₀ (o.map f) := by
  intro t e
  obtain ⟨x, hx, rfl⟩ := Option.map_eq_some_iff.1 e
  exact hf x hx

theorem Gives.findSome? {l : List α} {f : α → Option State} (hf : ∀ x, Gives Q s₀ (f x)) : Gives Q s₀ (l.findSome? f) := by
  intro t e
  obtain ⟨x, -, hx⟩ := List.exists_of_findSome?_eq_some e
  exact hf x t hx

theorem Gives.getD {o : Option State} (h : Gives Q s₀ o) (hd : Keeps Q s₀ s) : Keeps Q s₀ (o.getD s) := by
  cases o with
  | none => exact hd
  | some t => exact h t rfl

theorem Keeps.setByte {k : Nat} {v : Byte} (h : Keeps Q s₀ s) : Keeps Q s₀ (s.setByte k v) :=
  ⟨fun w => State.setByte_wf s k v (h.mem w), h.csr, h.cur, h.arg⟩

theorem Keeps.setCsr {space addr : Nat} {v : Word} (h : Keeps Q s₀ s) : Keeps Q s₀ (s.setCsr space addr v) :=
  ⟨h.mem, fun w => State.setCsr_wf s space addr v (h.csr w), h.cur, h.arg⟩

/-! ## Base -/

theorem Keeps.setCore {c : Nat} {x : Core} (h : Keeps Q s₀ s) : Keeps Q s₀ (s.setCore c x) := h.frame

theorem Keeps.onCore {c : Nat} {f : Core → Core} (h : Keeps Q s₀ s) : Keeps Q s₀ (s.onCore c f) := h.setCore

theorem Keeps.onCores {f : Core → Core} (h : Keeps Q s₀ s) : Keeps Q s₀ (s.onCores f) := h.foldl (fun _ _ h => h.onCore)

theorem Keeps.onDie {d : Nat} {f : Die → Die} (h : Keeps Q s₀ s) : Keeps Q s₀ (s.onDie d f) := h.frame

theorem Keeps.onDies {f : Die → Die} (h : Keeps Q s₀ s) : Keeps Q s₀ (s.onDies f) := h.foldl (fun _ _ h => h.onDie)

theorem Keeps.setWave {c w : Nat} {x : Option Wave} (h : Keeps Q s₀ s) : Keeps Q s₀ (s.setWave c w x) := h.frame

theorem Keeps.onWave {c w : Nat} {f : Wave → Wave} (h : Keeps Q s₀ s) : Keeps Q s₀ (s.onWave c w f) := by
  unfold State.onWave
  split
  · exact h.setWave
  · exact h

theorem Keeps.onGroup {g : Nat} {f : Group → Group} (h : Keeps Q s₀ s) : Keeps Q s₀ (s.onGroup g f) := by
  unfold State.onGroup
  split
  · exact h.frame
  · exact h

theorem Keeps.onLaunch {l : Nat} {f : Launch → Launch} (h : Keeps Q s₀ s) : Keeps Q s₀ (s.onLaunch l f) := by
  unfold State.onLaunch
  split
  · exact h.frame
  · exact h

theorem Keeps.onSvc {n : Nat} {f : SvcCore → SvcCore} (h : Keeps Q s₀ s) : Keeps Q s₀ (s.onSvc n f) := h.frame

theorem Keeps.onCsr {space addr : Nat} {f : Word → Word} (h : Keeps Q s₀ s) : Keeps Q s₀ (s.onCsr space addr f) :=
  h.setCsr

theorem Keeps.freeDword (h : Keeps Q s₀ s) : Keeps Q s₀ s.freeDword.2 := .pair h.frame

theorem Keeps.freeChoice (h : Keeps Q s₀ s) : Keeps Q s₀ s.freeChoice.2 := .pair h.frame

theorem Keeps.setBytes {k : Nat} {l : List Byte} (h : Keeps Q s₀ s) : Keeps Q s₀ (s.setBytes k l) := by
  induction l generalizing s k with
  | nil => exact h
  | cons b l ih => exact ih h.setByte

theorem Keeps.clearPoison {a n : Nat} (h : Keeps Q s₀ s) : Keeps Q s₀ (s.clearPoison a n) := h.frame

theorem Keeps.send {port : Nat} {m : Msg} (h : Keeps Q s₀ s) : Keeps Q s₀ (s.send port m) := h.frame

theorem Keeps.event {source die core : Nat} {rest : Nat} {payload : List Byte} (h : Keeps Q s₀ s) :
    Keeps Q s₀ (s.event source die core rest payload) := h.send

theorem Keeps.complete {port : Option Nat} {ctx : Nat} {tag launchid : Word} {status : Nat} {intake : Bool} (h : Keeps Q s₀ s) :
    Keeps Q s₀ (s.complete port ctx tag launchid status intake) := h.send

theorem Keeps.linkErr (h : Keeps Q s₀ s) : Keeps Q s₀ s.linkErr := h.onCsr

theorem Keeps.onIssuer {f : Wave → Wave} (h : Keeps Q s₀ s) : Keeps Q s₀ (s.onIssuer f) := h.onWave

theorem Keeps.onIssuingSplit {f : Split → Split} (h : Keeps Q s₀ s) : Keeps Q s₀ (s.onIssuingSplit f) := h.onIssuer

theorem Keeps.advance (h : Keeps Q s₀ s) : Keeps Q s₀ s.advance := by
  unfold State.advance
  split
  · exact h.onSvc
  · exact h.onIssuingSplit

/-! ## Walk -/

theorem Keeps.tlbFill {core : Nat} {e : TlbEntry} (h : Keeps Q s₀ s) : Keeps Q s₀ (s.tlbFill core e) := h.onCore.onDie

theorem Keeps.tlbTouch {core ctx va : Nat} (h : Keeps Q s₀ s) : Keeps Q s₀ (s.tlbTouch core ctx va) := by
  unfold State.tlbTouch
  split
  · exact h.onCore
  · split
    · exact h.onCore.onDie
    · exact h

theorem Keeps.tlbDrop {p : TlbEntry → Bool} (h : Keeps Q s₀ s) : Keeps Q s₀ (s.tlbDrop p) := h.onCores.onDies

theorem Keeps.countWalk {die ctx : Nat} (h : Keeps Q s₀ s) : Keeps Q s₀ (s.countWalk die ctx) := h.onCsr

theorem Keeps.checkFill {core ctx : Nat} {va : Dword} {size : Nat} {kind : AccKind} {want : Want} (h : Keeps Q s₀ s) :
    Keeps Q s₀ (s.checkFill core ctx va size kind want).2 :=
  .pair (.ite h (.ite h.tlbTouch (.ite (Keeps.ite h.frame.countWalk h.frame).tlbFill (.ite h.frame.countWalk h.frame))))

theorem Keeps.requestWalk {x : PageWalk} (h : Keeps Q s₀ s) : Keeps Q s₀ (s.requestWalk x) :=
  .ite h.onDie (.ite h.onDie h)

theorem Keeps.takeWalks {die : Nat} (h : Keeps Q s₀ s) : Keeps Q s₀ (s.takeWalks die) :=
  h.onDie.foldl (fun _ _ h => h.requestWalk)

theorem Keeps.restartWalks {p : PageWalk → Bool} (h : Keeps Q s₀ s) : Keeps Q s₀ (s.restartWalks p) := h.onDies

theorem Keeps.forget {entry : TlbEntry → Bool} {hits : Nat → Bool} (h : Keeps Q s₀ s) :
    Keeps Q s₀ (s.forget entry hits) := h.tlbDrop.restartWalks.frame

theorem Keeps.setWpl {ctx va : Nat} {on : Bool} (h : Keeps Q s₀ s) : Keeps Q s₀ (s.setWpl ctx va on) :=
  .ite h (h.foldl (fun _ _ h => h.setBytes)).forget

theorem Keeps.ask {port : Nat} {type : BitVec 8} {ctx : Nat} {args : BitVec 192} {payload : List Byte} {req : PeerReq}
    (h : Keeps Q s₀ s) : Keeps Q s₀ (s.ask port type ctx args payload req) := h.frame

/-! ## Cache -/

theorem Keeps.onL1Set {core set : Nat} {f : List L1Line → List L1Line} (h : Keeps Q s₀ s) :
    Keeps Q s₀ (s.onL1Set core set f) := h.onCore

theorem Keeps.touchL1 {core ctx pa : Nat} (h : Keeps Q s₀ s) : Keeps Q s₀ (s.touchL1 core ctx pa) := by
  unfold State.touchL1
  split
  · exact h.onL1Set
  · exact h

theorem Keeps.fillL1 {core ctx pa : Nat} {ef : Bool} (h : Keeps Q s₀ s) : Keeps Q s₀ (s.fillL1 core ctx pa ef) :=
  .ite h h.onL1Set

theorem Keeps.dropSectors {core pa n : Nat} (h : Keeps Q s₀ s) : Keeps Q s₀ (s.dropSectors core pa n) := h.onCore

theorem Keeps.dropLines {core pa n : Nat} (h : Keeps Q s₀ s) : Keeps Q s₀ (s.dropLines core pa n) := h.onCore

theorem Keeps.trimL1 {core : Nat} (h : Keeps Q s₀ s) : Keeps Q s₀ (s.trimL1 core) := h.onCore

theorem Keeps.fillL2Die {die ctx line : Nat} {ef : Bool} (h : Keeps Q s₀ s) :
    Keeps Q s₀ (s.fillL2Die die ctx line ef) := h.onDie

theorem Keeps.fillL2 {die ctx pa : Nat} {ef : Bool} (h : Keeps Q s₀ s) : Keeps Q s₀ (s.fillL2 die ctx pa ef) :=
  .ite h (.ite h.fillL2Die h.fillL2Die.fillL2Die)

theorem Keeps.trimL2 {die : Nat} (h : Keeps Q s₀ s) : Keeps Q s₀ (s.trimL2 die) := h.onDie

theorem Keeps.putMem {pa : Nat} {bs : List Byte} (h : Keeps Q s₀ s) : Keeps Q s₀ (s.putMem pa bs) :=
  h.setBytes.clearPoison

theorem Keeps.writeHome {who : Post} {near : List Nat} {pa : Nat} {bs : List Byte} (h : Keeps Q s₀ s) :
    Keeps Q s₀ (s.writeHome who near pa bs) := h.putMem.foldl (fun _ _ h => .ite h (.ite h.dropSectors h.onCore))

theorem Keeps.acquireAt {core scope : Nat} (h : Keeps Q s₀ s) : Keeps Q s₀ (s.acquireAt core scope) := .ite h h.onCore

theorem Keeps.drainPart {x : Staged} (h : Keeps Q s₀ s) : Keeps Q s₀ (s.drainPart x) := h.writeHome.onWave

theorem Keeps.drainAt {core pa n : Nat} (h : Keeps Q s₀ s) : Keeps Q s₀ (s.drainAt core pa n) := by
  unfold State.drainAt
  split
  · exact h
  · exact h.foldl (fun _ _ h => h.drainPart)

theorem Keeps.unitPut {core k pa : Nat} {bs : List Byte} (h : Keeps Q s₀ s) : Keeps Q s₀ (s.unitPut core k pa bs) :=
  h.drainAt.dropLines.writeHome

theorem Keeps.drainWave {core wave : Nat} (h : Keeps Q s₀ s) : Keeps Q s₀ (s.drainWave core wave) := by
  unfold State.drainWave
  dsimp only
  split
  · exact h
  · exact h.foldl (fun _ _ h => h.drainPart)

/-! ## Coolant -/

theorem Keeps.onCatLo {z : Nat} {f : Word → Word} (h : Keeps Q s₀ s) : Keeps Q s₀ (s.onCatLo z f) := h.onCsr

theorem Keeps.onCatHi {z : Nat} {f : Word → Word} (h : Keeps Q s₀ s) : Keeps Q s₀ (s.onCatHi z f) := h.onCsr

theorem Keeps.setGrant {z g : Nat} (h : Keeps Q s₀ s) : Keeps Q s₀ (s.setGrant z g) := .ite h h.onCatLo.onCatHi

theorem Keeps.setZoneState {z st : Nat} (h : Keeps Q s₀ s) : Keeps Q s₀ (s.setZoneState z st) := h.onCatHi

theorem Keeps.regrant (h : Keeps Q s₀ s) : Keeps Q s₀ s.regrant := by
  unfold State.regrant
  extract_lets t base supply u left v
  have ht : Keeps Q s₀ t := h.foldl fun _ _ h => .ite h.onCatLo h
  clear_value t
  have hu : Keeps Q s₀ u := ht.foldl fun _ _ h => h.setGrant
  clear_value u left
  have hv : Keeps Q s₀ v := .foldl_fst (p := (u, left)) hu fun _ _ h => h.setGrant
  exact hv.foldl fun _ _ h => .ite h.onCatHi h

theorem Keeps.onFlow {c : Nat} {f : CoreFlow → CoreFlow} (h : Keeps Q s₀ s) : Keeps Q s₀ (s.onFlow c f) := h.onCore

theorem Keeps.refreshClock {c : Nat} (h : Keeps Q s₀ s) : Keeps Q s₀ (s.refreshClock c) := .ite h h.onCsr

theorem Keeps.setClass {c k : Nat} (h : Keeps Q s₀ s) : Keeps Q s₀ (s.setClass c k) :=
  .ite (.ite h.onFlow.regrant h) (.ite h.onFlow.refreshClock.regrant h)

theorem Keeps.applyClass {c : Nat} (h : Keeps Q s₀ s) : Keeps Q s₀ (s.applyClass c) :=
  (Keeps.ite h.setZoneState.regrant h).setClass

/-! ## Life -/

theorem Keeps.pend {space i : Nat} (h : Keeps Q s₀ s) : Keeps Q s₀ (s.pend space i) := h.onCsr

theorem Keeps.ringRecord {die : Nat} {record : List Dword} (h : Keeps Q s₀ s) :
    Keeps Q s₀ (s.ringRecord die record) := by
  unfold State.ringRecord
  refine .onDie (.foldl h fun _ _ h => ?_)
  exact h.setCsr.setCsr

theorem Keeps.postRecord {core ctx g : Nat} {record : List Dword} (h : Keeps Q s₀ s) :
    Keeps Q s₀ (s.postRecord core ctx g record) := h.send.ringRecord.pend

theorem Keeps.bench {core : Nat} (h : Keeps Q s₀ s) : Keeps Q s₀ (s.bench core) := h.onCsr.event.pend

theorem Keeps.foulStep {core : Nat} {f : Nat → Nat} (h : Keeps Q s₀ s) : Keeps Q s₀ (s.foulStep core f) :=
  .ite h.setCsr.bench h.setCsr

theorem Keeps.umpCount {die k : Nat} (h : Keeps Q s₀ s) : Keeps Q s₀ (s.umpCount die k) := h.onCsr

theorem Keeps.onSample {die launch linear : Nat} {f : Sample → Sample} (h : Keeps Q s₀ s) :
    Keeps Q s₀ (s.onSample die launch linear f) := h.onDie

theorem Keeps.freeSample {die launch linear : Nat} (h : Keeps Q s₀ s) :
    Keeps Q s₀ (s.freeSample die launch linear) := by
  unfold State.freeSample
  split
  · exact h
  · exact (h.onDie.foldl (fun _ _ h => .ite h h.setWpl)).onCsr

theorem Keeps.unresolved {die : Nat} {launch linear core : Nat} (h : Keeps Q s₀ s) :
    Keeps Q s₀ (s.unresolved die launch linear core) := h.event.umpCount

theorem Keeps.decideSample {die : Nat} {x : Sample} (h : Keeps Q s₀ s) : Keeps Q s₀ (s.decideSample die x) :=
  .ite (.ite h.foulStep.foulStep.umpCount.freeSample h.umpCount.onSample)
    (.ite (Keeps.ite h.foulStep (.ite h.foulStep h.foulStep.foulStep.foulStep.unresolved)).freeSample h)

theorem Keeps.drainTurn (h : Keeps Q s₀ t) : Keeps Q s₀ (s.drainTurn t) := .ite h.frame h

theorem Keeps.runEnded {launch linear : Nat} {digest : Dword} (h : Keeps Q s₀ s) :
    Keeps Q s₀ (s.runEnded launch linear digest) := by
  unfold State.runEnded
  split
  · exact h
  · exact h.onSample.decideSample.drainTurn

theorem Keeps.dropWork {cmd : Cmd → Bool} {op : ArrayOp → Bool} (h : Keeps Q s₀ s) : Keeps Q s₀ (s.dropWork cmd op) :=
  h.onCores

theorem Keeps.dropWalks {core wave : Nat} (h : Keeps Q s₀ s) : Keeps Q s₀ (s.dropWalks core wave) :=
  .ite h h.onDie.takeWalks

theorem Keeps.removeWave {core wave : Nat} (h : Keeps Q s₀ s) : Keeps Q s₀ (s.removeWave core wave) := by
  unfold State.removeWave
  split
  · exact h
  · exact .ite (.ite h.drainWave.dropWalks.setWave h.drainWave.dropWalks.setWave.applyClass)
      (Keeps.ite h.drainWave.dropWalks.setWave h.drainWave.dropWalks.setWave.applyClass).onCore

theorem Keeps.releaseDeques {core launch : Nat} (h : Keeps Q s₀ s) : Keeps Q s₀ (s.releaseDeques core launch) :=
  .ite h h.onCore

theorem Keeps.removeGroup {g : Nat} (h : Keeps Q s₀ s) : Keeps Q s₀ (s.removeGroup g) := by
  unfold State.removeGroup
  split
  · exact h
  · exact .ite h.frame.applyClass.releaseDeques h.frame.applyClass.releaseDeques.onCore

theorem Keeps.completionAdd {ctx : Nat} {addr add : Dword} {core launch : Nat} {b : Bool} (h : Keeps Q s₀ s)
    (e : s.completionAdd ctx addr add core launch = some (b, t)) : Keeps Q s₀ t := by
  unfold State.completionAdd at e
  split at e
  · cases e
  · split at e
    · split at e
      · cases e
      · cases e; exact h.writeHome
    · cases e; exact h.ask
    · cases e

theorem Keeps.drainCore {core : Nat} (h : Keeps Q s₀ s) : Keeps Q s₀ (s.drainCore core) := by
  unfold State.drainCore
  split
  · exact h
  · exact h.foldl (fun _ _ h => h.drainPart)

theorem Keeps.digestStore {l : Launch} {launch : Nat} {x : Group} (h : Keeps Q s₀ s) :
    Keeps Q s₀ (s.digestStore l launch x) := by
  unfold State.digestStore
  refine .ite h ?_
  dsimp only
  split
  · exact h.drainCore.onLaunch
  · split
    · exact h.drainCore.frame
    · exact h.drainCore.ask
    · exact h.drainCore.writeHome

theorem Keeps.taskEnd {n core : Nat} {l : Launch} (h : Keeps Q s₀ s) : Keeps Q s₀ (s.taskEnd n core l) := by
  unfold State.taskEnd
  refine Keeps.frame (s := if l.pair 22 = 0 then s else _) (.ite h ?_)
  split
  · next e => exact (h.drainCore.completionAdd e).frame
  · next e => exact h.drainCore.completionAdd e
  · exact h

theorem Keeps.endGroup {g : Nat} (h : Keeps Q s₀ s) : Keeps Q s₀ (s.endGroup g) := by
  unfold State.endGroup
  split
  · exact h
  · extract_lets t u v
    have ht : Keeps Q s₀ t := h.onGroup
    have hu : Keeps Q s₀ u := ht.releaseDeques
    have hv : Keeps Q s₀ v := by
      refine .ite hu.runEnded ?_
      split
      · exact hu
      · extract_lets w x
        have hw : Keeps Q s₀ w := hu.digestStore
        have hx : Keeps Q s₀ x := .ite hw.runEnded hw
        clear_value w x
        split
        · exact hx.taskEnd
        · exact hx.onLaunch
    clear_value t u v
    exact .ite (hv.foldl (fun _ _ h => h.removeGroup)) hv

theorem Keeps.setPass {die slot : Nat} {p : Option Pass} (h : Keeps Q s₀ s) : Keeps Q s₀ (s.setPass die slot p) :=
  h.onDie

theorem Keeps.onPass {die slot : Nat} {f : Pass → Pass} (h : Keeps Q s₀ s) : Keeps Q s₀ (s.onPass die slot f) := by
  unfold State.onPass
  split
  · exact h.setPass
  · exact h

theorem Keeps.passWaveGone {w : Wave} (h : Keeps Q s₀ s) : Keeps Q s₀ (s.passWaveGone w) := by
  unfold State.passWaveGone
  split
  · exact h.onPass
  · exact h.onPass
  · exact h

theorem Keeps.waveGone {core wave : Nat} (h : Keeps Q s₀ s) : Keeps Q s₀ (s.waveGone core wave) := by
  unfold State.waveGone
  split
  · exact h
  · dsimp only
    split
    · exact .ite h.removeWave.passWaveGone.onGroup.endGroup h.removeWave.passWaveGone.onGroup
    · exact h.removeWave.passWaveGone.onGroup

theorem Keeps.sampleBack {y : Group} (h : Keeps Q s₀ s) : Keeps Q s₀ (s.sampleBack y) := by
  unfold State.sampleBack
  refine .ite h ?_
  split
  · exact h.onSample
  · exact h

theorem Keeps.discardCluster {g : Nat} (h : Keeps Q s₀ s) : Keeps Q s₀ (s.discardCluster g) := by
  unfold State.discardCluster
  extract_lets members _ _ t
  have ht : Keeps Q s₀ t := by
    refine h.dropWork.foldl fun _ _ h => .sampleBack (.onCsr (.removeGroup (h.foldl fun _ _ h => ?_)))
    split
    · exact h.removeWave.passWaveGone
    · exact h
  clear_value members t
  split
  · exact .ite ht ht.onLaunch
  · exact ht

theorem Keeps.dropShadow {g : Nat} (h : Keeps Q s₀ s) : Keeps Q s₀ (s.dropShadow g) :=
  h.dropWork.foldl (fun _ _ h => (h.foldl (fun _ _ h => h.removeWave)).removeGroup)

theorem Keeps.sampleInvalid {x : Group} (h : Keeps Q s₀ s) : Keeps Q s₀ (s.sampleInvalid x) := by
  unfold State.sampleInvalid
  split
  · exact h
  · exact (Keeps.ite h.umpCount.unresolved h.umpCount).freeSample

theorem Keeps.invalidReplay {g : Nat} (h : Keeps Q s₀ s) : Keeps Q s₀ (s.invalidReplay g) :=
  h.dropShadow.foldl (fun _ _ h => h.sampleInvalid)

theorem Keeps.abandonSamples {ctx : Nat} (h : Keeps Q s₀ s) : Keeps Q s₀ (s.abandonSamples ctx) := by
  unfold State.abandonSamples
  refine h.foldl fun _ _ h => (h.foldl fun _ _ h => .freeSample (.umpCount (h.foldl fun _ _ h => ?_)))
  split
  · exact .ite h.discardCluster (.ite h.onGroup h)
  · exact h

theorem Keeps.abandonBarriers {g : Nat} (h : Keeps Q s₀ s) : Keeps Q s₀ (s.abandonBarriers g) := by
  unfold State.abandonBarriers
  split
  · exact h
  · exact (h.foldl (fun _ _ h => h.foldl (fun _ _ h => h.onWave))).onGroup

theorem Keeps.killWave {core wave : Nat} {info : FaultInfo} {pc : Dword} {split : Nat} (h : Keeps Q s₀ s) :
    Keeps Q s₀ (s.killWave core wave info pc split) := by
  unfold State.killWave
  split
  · exact h
  · exact h.dropWork.onCore.abandonBarriers.postRecord.waveGone

theorem Keeps.killOrDiscard {core wave : Nat} {info : FaultInfo} {pc : Dword} {split : Nat} (h : Keeps Q s₀ s) :
    Keeps Q s₀ (s.killOrDiscard core wave info pc split) := by
  unfold State.killOrDiscard
  split
  · exact h
  · exact .ite h.invalidReplay (.ite h.postRecord.discardCluster h.killWave)

/-! ## Ops -/

theorem Keeps.takeStop {core wave split : Nat} {info : FaultInfo} {pc : Dword} {engine : Bool} (h : Keeps Q s₀ s) :
    Keeps Q s₀ (s.takeStop core wave split info pc engine) := by
  unfold State.takeStop
  split
  · exact h
  · refine .ite h.invalidReplay ?_
    split
    · exact h.killOrDiscard
    · split
      · exact h.setWave
      · exact .ite h.postRecord h

theorem Keeps.reportStop {core wave : Nat} (h : Keeps Q s₀ s) : Keeps Q s₀ (s.reportStop core wave) := by
  unfold State.reportStop
  split
  · exact h
  · split
    · exact .ite h h.setWave.postRecord
    · exact h

theorem Keeps.resumeWave {core wave : Nat} {skip flush : Bool} (h : Keeps Q s₀ s) :
    Keeps Q s₀ (s.resumeWave core wave skip flush) := by
  unfold State.resumeWave
  split
  · exact h
  · exact .ite h.setWave.onCore.onCore h.setWave.onCore

theorem Keeps.svcHalt {n : Nat} {info : FaultInfo} {pc : Dword} (h : Keeps Q s₀ s) : Keeps Q s₀ (s.svcHalt n info pc) :=
  (Keeps.ite h.onSvc.ringRecord.pend h.onSvc.onDie).event

theorem Keeps.stopWith {info : FaultInfo} (h : Keeps Q s₀ s) : Keeps Q s₀ (s.stopWith info) := by
  unfold State.stopWith
  split
  · exact h.svcHalt
  · exact h.takeStop

theorem Keeps.stopHere {c : StopCause} (h : Keeps Q s₀ s) : Keeps Q s₀ (s.stopHere c) := h.stopWith

theorem Keeps.benchDrain (h : Keeps Q s₀ s) : Keeps Q s₀ s.benchDrain := by
  unfold State.benchDrain
  refine .foldl ?_ (fun _ _ h => .ite h.takeStop h)
  refine h.foldl fun _ _ h => ?_
  split
  · exact .ite h.discardCluster h
  · exact h

/-! ## Splits -/

theorem Keeps.spillEntry {core wave : Nat} {w : Wave} {entry : Nat} (h : Keeps Q s₀ s) :
    Keeps Q s₀ (State.spillEntry core wave w s entry) := by
  unfold State.spillEntry
  split
  · exact .ite h.frame.writeHome h
  · exact h

theorem Keeps.putSplits {core wave split : Nat} {pc : Dword} {w w' : Wave} (h : Keeps Q s₀ s) :
    Keeps Q s₀ (s.putSplits core wave split pc w w') := by
  unfold State.putSplits
  split
  · exact h.takeStop
  · exact (h.foldl (fun _ _ h => h.spillEntry)).setWave

theorem Keeps.pushOp {o : MemOp} (h : Keeps Q s₀ s) : Keeps Q s₀ (s.pushOp o) := h.onIssuer.advance

theorem Keeps.putMove {w w' : Wave} {m : SplitMove} (h : Keeps Q s₀ s) : Keeps Q s₀ (s.putMove w w' m) := by
  unfold State.putMove
  split
  · exact h.stopHere
  · split
    · exact h.putSplits
    · exact .ite h h.setWave.pushOp.takeStop

theorem Keeps.replayMove {core wave : Nat} {w : Wave} {o : MemOp} {m : SplitMove} (h : Keeps Q s₀ s) :
    Keeps Q s₀ (s.replayMove core wave w o m) := by
  unfold State.replayMove
  split
  · exact h
  · split
    · exact h.putSplits
    · exact h.setWave.takeStop

theorem Keeps.captureRep (h : Keeps Q s₀ s) : Keeps Q s₀ s.captureRep := by
  unfold State.captureRep
  split
  · exact .ite h.onIssuingSplit h
  · exact h

theorem Keeps.forceFuse {act : State → State} (h : Keeps False s₀ s) (hact : ∀ t, Keeps False s₀ t → Keeps False s₀ (act t)) :
    Keeps False s₀ (s.forceFuse act) := by
  unfold State.forceFuse
  split
  · exact h
  · refine .ite (hact _ h) (.ite ?_ h.issuer.putSplits)
    split
    · exact h.takeStop
    · exact hact _ h.issuer.setWave.captureRep

theorem Keeps.forced {width : Nat} {act : State → State} (h : Keeps False s₀ s)
    (hact : ∀ t, Keeps False s₀ t → Keeps False s₀ (act t)) : Keeps False s₀ (s.forced width act) := by
  unfold State.forced
  split
  · exact h
  · exact .ite (hact _ h) (h.forceFuse (fun _ h => hact _ h))

theorem Keeps.missFuse {act : State → State} (h : Keeps False s₀ s) (hact : ∀ t, Keeps False s₀ t → Keeps False s₀ (act t)) :
    Keeps False s₀ (s.missFuse act) := by
  unfold State.missFuse
  split
  · exact h
  · split
    · exact hact _ h.onIssuingSplit
    · split
      · refine .ite ?_ h.setWave
        extract_lets _ _ _
        split
        · exact h.takeStop
        · exact hact _ h.issuer.setWave
      · exact hact _ h.onIssuingSplit

theorem Keeps.pathExpiry {core wave order : Nat} (h : Keeps Q s₀ s) : Keeps Q s₀ (s.pathExpiry core wave order) := by
  unfold State.pathExpiry
  split
  · exact h
  · exact .ite h h.takeStop

theorem Keeps.fuseExpiry {core wave k : Nat} (h : Keeps Q s₀ s) : Keeps Q s₀ (s.fuseExpiry core wave k) := by
  unfold State.fuseExpiry
  refine .ite h.pathExpiry ?_
  split
  · exact h
  · split
    · exact h
    · exact .ite h (.ite h.setWave (.ite h.takeStop h.putSplits))

theorem Keeps.rejoinExpiry {core wave tag : Nat} (h : Keeps Q s₀ s) : Keeps Q s₀ (s.rejoinExpiry core wave tag) := by
  unfold State.rejoinExpiry
  split
  · exact h
  · split
    · exact h
    · exact .ite h h.putSplits

/-! ## Operands -/

theorem Keeps.loseAcc {g lo hi : Nat} (h : Keeps Q s₀ s) : Keeps Q s₀ (s.loseAcc g lo hi) := h.onGroup.frame

theorem Keeps.breakWindows {core wave : Nat} {p : MmaWindow → Bool} (h : Keeps Q s₀ s) :
    Keeps Q s₀ (s.breakWindows core wave p) := by
  unfold State.breakWindows
  split
  · exact h
  · exact h.onWave.foldl (fun _ _ h => h.loseAcc)

theorem Keeps.breakB {g off n : Nat} {p : Nat → Nat → MmaWindow → Bool} (h : Keeps Q s₀ s) :
    Keeps Q s₀ (s.breakB g off n p) := h.foldl (fun _ _ h => .ite h.breakWindows h)

theorem Keeps.readied {u : Uses} {w w' : Wave} (h : Keeps Q s₀ s) : Keeps Q s₀ (s.readied u w w') :=
  .ite h.setWave.breakWindows h.setWave.breakWindows.frame

theorem Keeps.issueWith {u : Uses} {act : Wave → Split → State → State} (h : Keeps Q s₀ s)
    (hact : ∀ x y t, Keeps Q s₀ t → Keeps Q s₀ (act x y t)) : Keeps Q s₀ (s.issueWith u act) := by
  unfold State.issueWith
  split
  · exact h
  · refine .ite h ?_
    split
    · exact h.stopWith
    · exact h.stopHere
    · exact hact _ _ _ h.readied

theorem Keeps.whenIssuable {u : Uses} {act : State → State} (h : Keeps Q s₀ s) (hact : ∀ t, Keeps Q s₀ t → Keeps Q s₀ (act t)) :
    Keeps Q s₀ (s.whenIssuable u act) := h.issueWith (fun _ _ _ _ => hact _ h)

theorem Keeps.issueFar {u : Uses} {op : FOp} {f : FArgs} {from_ : Wave → Split → List Nat} {act : Wave → Split → State → State}
    (h : Keeps Q s₀ s) (hact : ∀ x y t, Keeps Q s₀ t → Keeps Q s₀ (act x y t)) : Keeps Q s₀ (s.issueFar u op f from_ act) :=
  h.issueWith (fun _ _ _ h₁ => .ite h.stopWith (hact _ _ _ h₁))

theorem Keeps.issueF {op : FOp} {f : FArgs} {act : Wave → Split → State → State} (h : Keeps Q s₀ s)
    (hact : ∀ x y t, Keeps Q s₀ t → Keeps Q s₀ (act x y t)) : Keeps Q s₀ (s.issueF op f act) :=
  .ite (h.issueWith (fun _ _ _ h => hact _ _ _ h)) (h.issueFar (fun _ _ _ h => hact _ _ _ h))

theorem Keeps.lanewise {op : FOp} {f : FArgs} {res : Wave → Split → Nat → Nat → List Word} (h : Keeps False s₀ s) :
    Keeps False s₀ (s.lanewise op f res) :=
  h.forced (fun _ h => h.issueF (fun _ _ _ h => (Keeps.ite h.onIssuer h.onIssuer.frame).advance))

theorem Keeps.lanemask {op : FOp} {f : FArgs} {res : Wave → Split → Nat → Nat → Bool} (h : Keeps False s₀ s) :
    Keeps False s₀ (s.lanemask op f res) :=
  h.forced (fun _ h => h.issueF (fun _ _ _ h => (Keeps.ite h.onIssuingSplit h.onIssuingSplit.frame).advance))

theorem Keeps.lane1 {op : FOp} {f : FArgs} {g : Word → Word} (h : Keeps False s₀ s) : Keeps False s₀ (s.lane1 op f g) :=
  h.lanewise

theorem Keeps.lane2 {op : FOp} {f : FArgs} {g : Word → Word → Word} (h : Keeps False s₀ s) :
    Keeps False s₀ (s.lane2 op f g) := h.lanewise

theorem Keeps.lane3 {op : FOp} {f : FArgs} {g : Word → Word → Word → Word} (h : Keeps False s₀ s) :
    Keeps False s₀ (s.lane3 op f g) := h.lanewise

theorem Keeps.lane1r {op : FOp} {f : FArgs} {g : RMode → Word → Word} (h : Keeps False s₀ s) :
    Keeps False s₀ (s.lane1r op f g) := h.lanewise

theorem Keeps.lane2r {op : FOp} {f : FArgs} {g : RMode → Word → Word → Word} (h : Keeps False s₀ s) :
    Keeps False s₀ (s.lane2r op f g) := h.lanewise

theorem Keeps.lane3r {op : FOp} {f : FArgs} {g : RMode → Word → Word → Word → Word} (h : Keeps False s₀ s) :
    Keeps False s₀ (s.lane3r op f g) := h.lanewise

theorem Keeps.lane2d {op : FOp} {f : FArgs} {g : RMode → Dword → Dword → Dword} (h : Keeps False s₀ s) :
    Keeps False s₀ (s.lane2d op f g) := h.lanewise

theorem Keeps.scalarIssue {u : Uses} {act : (Nat → Word) → State → State} (h : Keeps Q s₀ s)
    (hact : ∀ x t, Keeps Q s₀ t → Keeps Q s₀ (act x t)) : Keeps Q s₀ (s.scalarIssue u act) := by
  unfold State.scalarIssue
  split
  · exact hact _ _ h.onSvc
  · exact h.issueWith (fun _ _ _ h => hact _ _ h)

theorem Keeps.putScalars {n : Nat} {xs : List Word} (h : Keeps Q s₀ s) : Keeps Q s₀ (s.putScalars n xs) := by
  unfold State.putScalars
  split
  · exact h.onSvc
  · exact h.onIssuer

theorem Keeps.scalar {a : SArgs} {dn an bn : Nat} {more : List Nat} {res : (Nat → Word) → List Word} (h : Keeps Q s₀ s) :
    Keeps Q s₀ (s.scalar a dn an bn more res) := by
  unfold State.scalar
  refine .scalarIssue h fun _ _ h => ?_
  exact h.putScalars.advance

/-! ## Vector -/

theorem Keeps.execVrds {f : FArgs} (h : Keeps False s₀ s) : Ends False s₀ (execVrds f s) := by
  unfold Machine.execVrds
  refine .next ?_
  split
  · exact .ite h.invalidReplay h.lanewise
  · exact h.lanewise

/-! ## Control -/

theorem Keeps.transfer {act : Wave → Split → State} (h : Keeps Q s₀ s) (hact : ∀ x y, Keeps Q s₀ (act x y)) :
    Keeps Q s₀ (s.transfer act) := by
  unfold State.transfer
  split
  · exact h
  · exact .ite h.stopHere (hact _ _)

theorem Keeps.sendGroups {w w' : Wave} {sp : Split} {stay : Branch} {parts : List Branch} {open? : Option (Dword × BitVec 16)}
    {defer : Bool} (h : Keeps Q s₀ s) : Keeps Q s₀ (s.sendGroups w w' sp stay parts open? defer) :=
  .ite h.setWave h.putMove

theorem Keeps.branchOn {w : Wave} {sp : Split} {targets : List (Dword × Dword)} {rejoin : Dword} {defer : Bool} (h : Keeps Q s₀ s) :
    Keeps Q s₀ (s.branchOn w sp targets rejoin defer) := by
  unfold State.branchOn
  split
  · dsimp only
    split
    · exact h.advance
    · exact h.sendGroups

theorem Keeps.execBra {c : CArgs} (h : Keeps Q s₀ s) : Ends Q s₀ (execBra c s) := by
  unfold Machine.execBra
  refine .next ?_
  split
  · exact h.onSvc
  · exact h.transfer (fun _ _ => h.onIssuingSplit)

theorem Keeps.execBrs {c : CArgs} (h : Keeps Q s₀ s) : Ends Q s₀ (execBrs c s) := by
  unfold Machine.execBrs
  refine .next ?_
  split
  · exact .ite h.onSvc h.advance
  · exact h.transfer (fun _ _ => h.issueWith (fun _ _ _ h => .ite h.onIssuingSplit h.advance))

theorem Keeps.execCalli {c : CArgs} (h : Keeps Q s₀ s) : Ends Q s₀ (execCalli c s) := by
  unfold Machine.execCalli
  refine .next (h.transfer fun _ _ => .ite h.stopHere (h.issueWith fun _ _ _ h => ?_))
  split
  · exact h
  · dsimp only
    split
    · exact h
    · exact h.sendGroups

theorem Keeps.execRet {c : CArgs} (h : Keeps Q s₀ s) : Ends Q s₀ (execRet c s) := by
  unfold Machine.execRet
  refine .next (h.transfer fun _ _ => .ite h.stopHere (h.issueWith fun _ _ _ h => ?_))
  split
  · exact h
  · dsimp only
    split
    · exact h
    · exact h.sendGroups

theorem Keeps.execFuse {c : CArgs} (h : Keeps False s₀ s) : Ends False s₀ (execFuse c s) := by
  unfold Machine.execFuse
  refine .next ?_
  split
  · exact h
  · exact .ite (h.forced (fun _ h => h.advance)) (h.missFuse (fun _ h => h.advance))

theorem Keeps.execLoop {c : CArgs} (h : Keeps Q s₀ s) : Ends Q s₀ (execLoop c s) := by
  unfold Machine.execLoop
  refine .next (h.transfer fun _ _ => .ite ?_ ?_)
  · dsimp only
    split
    · exact h
    · exact .ite h.onIssuingSplit (.ite h.stopHere h.onIssuingSplit)
  · refine h.issueWith fun _ _ _ h => ?_
    dsimp only
    split
    · exact h
    · exact .ite h.onIssuingSplit (.ite h.stopHere h.onIssuingSplit)

theorem Keeps.execLoopx {c : CArgs} (h : Keeps Q s₀ s) : Ends Q s₀ (execLoopx c s) := by
  unfold Machine.execLoopx
  refine .next (h.transfer fun _ _ => ?_)
  split
  · exact h.stopHere
  · exact .ite h.stopHere (.ite h.onIssuingSplit (.ite h.advance h.sendGroups))

theorem Keeps.execExit (h : Keeps Q s₀ s) : Ends Q s₀ (execExit s) := by
  unfold Machine.execExit
  refine .next ?_
  split
  · exact h
  · exact h.putMove

theorem Keeps.execSigchk {c : CArgs} (h : Keeps Q s₀ s) : Ends Q s₀ (execSigchk c s) := by
  unfold Machine.execSigchk
  refine .next ?_
  split
  · exact h
  · exact .ite h.onIssuingSplit.advance h.onIssuingSplit.advance.stopHere.foulStep.benchDrain

/-! ## CrossLane -/

theorem Keeps.cross {op : FOp} {f : FArgs} {width : Nat} {from_ : Wave → Split → Dword → List Nat}
    {act : Wave → Split → Dword → Nat → State → State} (h : Keeps False s₀ s)
    (hact : ∀ x y z u t, Keeps False s₀ t → Keeps False s₀ (act x y z u t)) : Keeps False s₀ (s.cross op f width from_ act) :=
  h.forced (fun _ h => h.issueFar (fun _ _ _ h => (hact _ _ _ _ _ h.frame).advance))

theorem Keeps.putD {sp : Split} {run : Dword} {f : FArgs} {x : Nat → Word} (h : Keeps Q s₀ s) :
    Keeps Q s₀ (s.putD sp run f x) := h.onIssuer

theorem Keeps.gatherLane {op : FOp} {f : FArgs} {width : Nat} {source : Wave → Nat → Nat} (h : Keeps False s₀ s) :
    Keeps False s₀ (s.gatherLane op f width source) := h.cross (fun _ _ _ _ _ h => h.putD)

theorem Keeps.putStatus {f : FArgs} {m : Dword} (h : Keeps Q s₀ s) : Keeps Q s₀ (s.putStatus f m) := h.onIssuingSplit

theorem Keeps.derivative {op : FOp} {f : FArgs} {hi lo : Nat → Nat} (h : Keeps False s₀ s) :
    Keeps False s₀ (s.derivative op f hi lo) := h.cross (fun _ _ _ _ _ h => h.putD)

theorem Keeps.indexed {f : FArgs} {act : State} (h : Keeps Q s₀ s) (h' : Keeps Q s₀ act) :
    Keeps Q s₀ (s.indexed f act) := by
  unfold State.indexed
  split
  · exact h
  · exact .ite h.stopHere h'

/-! ## Memory -/

theorem Keeps.requestWalks {core wave : Nat} {w : Wave} {o : MemOp} (h : Keeps Q s₀ s) :
    Keeps Q s₀ (s.requestWalks core wave w o) := h.foldl (fun _ _ h => .ite h h.requestWalk)

theorem Keeps.countHits {core wave : Nat} {w : Wave} {o : MemOp} (h : Keeps Q s₀ s) :
    Keeps Q s₀ (s.countHits core wave w o) := h.foldl (fun _ _ h => h.onCsr)

theorem Keeps.checkOp {core wave id : Nat} (h : Keeps Q s₀ s) : Keeps Q s₀ (s.checkOp core wave id) := by
  unfold State.checkOp
  split
  · exact h
  · split
    · exact h
    · refine .ite h ?_
      split
      · exact (Keeps.ite (h.foldl (fun _ _ h => h.tlbTouch)).countHits (h.foldl (fun _ _ h => h.tlbTouch))).setWave.takeStop
      · exact .ite (h.foldl (fun _ _ h => h.tlbTouch)).invalidReplay
          (Keeps.ite (h.foldl (fun _ _ h => h.tlbTouch)).frame (h.foldl (fun _ _ h => h.tlbTouch))).setWave

theorem Keeps.issueOp {u : Uses} {mk : Wave → Split → MemOp} (h : Keeps Q s₀ s) : Keeps Q s₀ (s.issueOp u mk) := by
  unfold State.issueOp
  split
  · exact h
  · refine .ite h (h.issueWith fun _ _ _ h => ?_)
    extract_lets _ t
    have ht : Keeps Q s₀ t := h.onIssuer
    clear_value t
    refine .ite ht.advance ?_
    split
    · exact ht.pushOp
    · extract_lets _
      exact .ite ht.pushOp (.ite ht.pushOp.checkOp ht.pushOp.requestWalks)

theorem Keeps.asyncIssue {op : AsyncOp} {u : Uses} {ord : BitVec 2} {d n : Nat} {mk : Wave → MemOp → MemOp} (h : Keeps Q s₀ s) :
    Keeps Q s₀ (s.asyncIssue op u ord d n mk) := h.issueOp

theorem Keeps.vecLoad {space : Space} {kind : AccKind} {sz : LoadSize} {a : MArgs} (h : Keeps Q s₀ s) :
    Keeps Q s₀ (s.vecLoad space kind sz a) := h.issueOp

theorem Keeps.vecStore {space : Space} {kind : AccKind} {sz : StoreSize} {a : MArgs} (h : Keeps Q s₀ s) :
    Keeps Q s₀ (s.vecStore space kind sz a) := h.issueOp

theorem Keeps.atomIssue {space : Space} {kind : AccKind} {op : AtomOp} {wide : Bool} {a : MArgs} (h : Keeps Q s₀ s) :
    Keeps Q s₀ (s.atomIssue space kind op wide a) := h.issueOp

theorem Keeps.missSplit {before after : State} (h : Keeps Q s₀ after) : Keeps Q s₀ (State.missSplit before after) := by
  unfold State.missSplit
  split
  · split
    · exact h
    · split
      · exact h
      · exact .ite h h.setWave
  · exact h

theorem Keeps.scalarLoad {sz : ScalarSize} {a : SmArgs} (h : Keeps Q s₀ s) : Keeps Q s₀ (s.scalarLoad sz a) := h.issueOp

theorem Keeps.scalarStore {sz : ScalarSize} {a : SmArgs} (h : Keeps Q s₀ s) : Keeps Q s₀ (s.scalarStore sz a) :=
  h.issueOp

theorem Keeps.execFence {a : MArgs} (h : Keeps False s₀ s) : Ends False s₀ (execFence a s) := by
  unfold Machine.execFence
  refine .next ?_
  extract_lets _
  refine .ite ?_ ?_
  · refine h.forceFuse fun _ h => ?_
    split
    · exact h
    · extract_lets _
      exact .ite h (.ite h.advance h.pushOp)
  · split
    · dsimp only
      split
      · exact h
      · exact .ite h (.ite h.advance h.pushOp)
    · dsimp only
      split
      · exact h
      · exact .ite h (.ite h.advance h.pushOp)

theorem Keeps.execPref {a : MArgs} (h : Keeps Q s₀ s) : Ends Q s₀ (execPref a s) := by
  unfold Machine.execPref
  refine .next (h.issueWith fun _ _ _ h => .advance (h.foldl fun _ _ h => .ite h ?_))
  split
  · next e =>
      have h := Keeps.snd e h.checkFill
      split
      · exact h
      · exact .ite (.ite h.fillL2 (h.fillL2.foldl (fun _ _ h => h.fillL1))) h

/-! ## Barrier -/

theorem Keeps.onBarrier {g k : Nat} {f : Barrier → Barrier} (h : Keeps Q s₀ s) : Keeps Q s₀ (s.onBarrier g k f) :=
  h.onGroup

theorem Keeps.withBarrier {a : SArgs} {b arrives : Bool} {act : (Nat → Word) → Nat × Nat → Barrier → Nat → State → State}
    (h : Keeps Q s₀ s) (hact : ∀ x y z u t, Keeps Q s₀ t → Keeps Q s₀ (act x y z u t)) :
    Keeps Q s₀ (s.withBarrier a b arrives act) := by
  unfold State.withBarrier
  refine h.whenIssuable fun _ h => ?_
  split
  · exact h
  · dsimp only
    split
    · exact h.stopHere
    · split
      · exact h.stopHere
      · exact .ite h (h.issueWith (fun _ _ _ h => hact _ _ _ _ _ h))

theorem Keeps.atBarrier {act : State → State} (h : Keeps False s₀ s) (hact : ∀ t, Keeps False s₀ t → Keeps False s₀ (act t)) :
    Keeps False s₀ (s.atBarrier act) := by
  unfold State.atBarrier
  split
  · exact h
  · exact .ite (hact _ h) (h.forceFuse (fun _ h => hact _ h))

theorem Keeps.endWait {a : SArgs} {scope : Nat} {abandoned : Bool} (h : Keeps Q s₀ s) :
    Keeps Q s₀ (s.endWait a scope abandoned) :=
  h.issueWith (fun _ _ _ h => .ite h.onIssuingSplit.putScalars.advance h.onIssuingSplit.putScalars.advance.acquireAt)

theorem Keeps.waitOn {a : SArgs} {x : BarWait} (h : Keeps Q s₀ s) : Keeps Q s₀ (s.waitOn a x) := by
  unfold State.waitOn
  refine .ite h.endWait ?_
  split
  · exact h.endWait
  · split
    · exact h.endWait
    · exact h.onIssuingSplit

theorem Keeps.resumeWait {a : SArgs} {begin_ : State → State} (h : Keeps Q s₀ s)
    (hbegin : ∀ t, Keeps Q s₀ t → Keeps Q s₀ (begin_ t)) : Keeps Q s₀ (s.resumeWait a begin_) := by
  unfold State.resumeWait
  split
  · exact h
  · split
    · exact h.waitOn
    · exact hbegin _ h

theorem Keeps.execBinit {a : SArgs} (h : Keeps Q s₀ s) : Ends Q s₀ (execBinit a s) := by
  unfold Machine.execBinit
  refine .next (h.whenIssuable fun _ h => ?_)
  split
  · exact h
  · exact .ite h.stopHere (h.withBarrier (fun _ _ _ _ _ h => (Keeps.ite h h.onBarrier).putScalars.advance))

theorem Keeps.execBquery {a : SArgs} (h : Keeps Q s₀ s) : Ends Q s₀ (execBquery a s) := by
  unfold Machine.execBquery
  refine .next ?_
  split
  · exact h
  · exact .ite h.invalidReplay (h.withBarrier (fun _ _ _ _ _ h => h.putScalars.advance))

/-! ## Matrix -/

theorem Keeps.putScratch {g off : Nat} {bs : List Byte} (h : Keeps Q s₀ s) : Keeps Q s₀ (s.putScratch g off bs) :=
  h.onGroup

theorem Keeps.storeScratch {g off : Nat} {bs : List Byte} (h : Keeps Q s₀ s) : Keeps Q s₀ (s.storeScratch g off bs) :=
  h.breakB.putScratch

theorem Keeps.mx {act : Wave → Split → State → State} (h : Keeps False s₀ s)
    (hact : ∀ x y t, Keeps False s₀ t → Keeps False s₀ (act x y t)) : Keeps False s₀ (s.mx act) := by
  unfold State.mx
  split
  · exact h
  · refine .ite h.stopHere (h.forced fun _ h => ?_)
    split
    · exact h
    · exact hact _ _ _ h

theorem Keeps.letIn {n : Nat} {copy : Bool} (h : Keeps Q s₀ s) : Keeps Q s₀ (s.letIn n copy).2 := by
  unfold State.letIn
  dsimp only
  split <;> split <;> exact .pair h.onCore

theorem Keeps.admitted {n : Nat} {copy : Bool} {act : State → State} (h : Keeps Q s₀ s)
    (hact : ∀ t, Keeps Q s₀ t → Keeps Q s₀ (act t)) : Keeps Q s₀ (s.admitted n copy act) :=
  .ite (hact _ h.letIn) h.letIn

theorem Keeps.enqueue {core : Nat} {o : ArrayOp} (h : Keeps Q s₀ s) : Keeps Q s₀ (s.enqueue core o) := h.onCore

theorem Keeps.takeTicket (h : Keeps Q s₀ s) : Keeps Q s₀ s.takeTicket := h.onIssuer

theorem Keeps.stopScratch {c : StopCause} {a : Word} (h : Keeps Q s₀ s) : Keeps Q s₀ (s.stopScratch c a) := h.stopWith

theorem Keeps.mma {kind : Nat} {x : XArgs} (h : Keeps False s₀ s) : Keeps False s₀ (s.mma kind x) := by
  unfold State.mma
  refine h.mx fun _ _ _ h => (h.whenIssuable fun _ h => .ite h.stopHere ?_)
  split
  · exact h.stopScratch
  · exact .ite h.stopHere (.ite h (h.admitted (fun _ h => h.issueWith (fun _ _ _ h => h.takeTicket.onIssuer.enqueue.advance))))

theorem Keeps.execAccld {x : XArgs} (h : Keeps False s₀ s) : Ends False s₀ (execAccld x s) := by
  unfold Machine.execAccld
  refine .next (h.mx fun _ _ _ h => .ite h.stopHere (.ite h ?_))
  dsimp only
  split
  · exact h.stopWith
  · exact h.issueWith (fun _ _ _ h => h.onIssuer.frame.advance)

theorem Keeps.execAcccvt {x : XArgs} (h : Keeps False s₀ s) : Ends False s₀ (execAcccvt x s) := by
  unfold Machine.execAcccvt
  refine .next (h.mx fun _ _ _ h => h.whenIssuable fun _ h => (.ite h.stopHere ?_))
  split
  · exact h.stopScratch
  · exact .ite h (h.admitted (fun _ h => h.issueWith (fun _ _ _ h => h.takeTicket.enqueue.advance)))

theorem Keeps.execArrayOpBegin (h : Keeps Q s₀ s) : Ends Q s₀ (execArrayOpBegin s) := by
  unfold Machine.execArrayOpBegin
  refine .next ?_
  split
  · dsimp only
    split
    · exact h
    · refine .ite h ?_
      split
      · exact h.takeStop
      · split
        · exact h.frame.onCsr.onWave
        · exact h.frame.onCsr
  · exact h

theorem Keeps.execArrayOpComplete (h : Keeps Q s₀ s) : Ends Q s₀ (execArrayOpComplete s) := by
  unfold Machine.execArrayOpComplete
  refine .next ?_
  split
  · split
    · exact h
    · refine .ite h ?_
      extract_lets t u v
      have ht : Keeps Q s₀ t := h.onCore
      have hu : Keeps Q s₀ u := .ite ht ht.onGroup
      have hv : Keeps Q s₀ v := hu.foldl (fun _ _ h => h.onBarrier)
      clear_value t u v
      split
      · split
        · exact hv
        · refine .ite hv ?_
          extract_lets _ _ w
          have hw : Keeps Q s₀ w := hv.setWave
          clear_value w
          exact .ite hw.loseAcc hw
      · exact hv
  · exact h

/-! ## Engine -/

theorem Keeps.pushCmd {core : Nat} {c : Cmd} (h : Keeps Q s₀ s) : Keeps Q s₀ (s.pushCmd core c) := h.onCore

theorem Keeps.issueCmd {u : Uses} {mk : Wave → Split → Except FaultInfo Cmd} {finish : Wave → Split → Cmd → State → State}
    (h : Keeps Q s₀ s) (hfinish : ∀ x y z t, Keeps Q s₀ t → Keeps Q s₀ (finish x y z t)) :
    Keeps Q s₀ (s.issueCmd u mk finish) := by
  unfold State.issueCmd
  refine h.issueWith fun _ _ _ h₁ => ?_
  split
  · exact h.stopWith
  · exact .ite h (.ite h.letIn (hfinish _ _ _ _ h₁.onCore.pushCmd).advance)

theorem Keeps.touchRecord {core : Nat} {c : Cmd} (h : Keeps Q s₀ s) : Keeps Q s₀ (s.touchRecord core c) :=
  .ite h h.onCore

theorem Keeps.tryRfence {core wave : Nat} (h : Keeps Q s₀ s) : Keeps Q s₀ (s.tryRfence core wave) := by
  unfold State.tryRfence
  split
  · exact h
  · exact .ite h.onWave.onCore h

theorem Keeps.afterRfence {act : State → State} (h : Keeps Q s₀ s) (hact : ∀ t, Keeps Q s₀ t → Keeps Q s₀ (act t)) :
    Keeps Q s₀ (s.afterRfence act) := by
  unfold State.afterRfence
  dsimp only
  split
  · exact h.tryRfence
  · exact .ite h.tryRfence (hact _ h.tryRfence)

theorem Keeps.execCpymma {a : MArgs} (h : Keeps False s₀ s) : Ends False s₀ (execCpymma a s) := by
  unfold Machine.execCpymma
  refine .next (h.mx fun _ _ _ h => .ite h (h.issueCmd fun _ _ _ _ h => ?_))
  split
  · exact h
  · exact h.takeTicket.onIssuer

theorem Keeps.batchDone {core wave n : Nat} (h : Keeps Q s₀ s) : Keeps Q s₀ (s.batchDone core wave n) := by
  induction n generalizing s with
  | zero => exact h
  | succ n ih =>
    unfold State.batchDone
    split
    · exact h
    · exact .ite h (ih h.onWave)

theorem Keeps.execCbatch (h : Keeps Q s₀ s) : Ends Q s₀ (execCbatch s) := by
  unfold Machine.execCbatch
  refine .next ?_
  split
  · exact h
  · exact .ite h h.onCore.onIssuer.batchDone.advance

theorem Keeps.execCwait {a : SArgs} (h : Keeps Q s₀ s) : Ends Q s₀ (execCwait a s) := by
  unfold Machine.execCwait
  refine .next ?_
  split
  · exact h
  · exact .ite h (h.issueWith (fun _ _ _ h => h.acquireAt.advance))

theorem Keeps.execDgrd {a : SArgs} (h : Keeps Q s₀ s) : Ends Q s₀ (execDgrd a s) := by
  unfold Machine.execDgrd
  refine .next ?_
  split
  · exact h
  · exact .ite h (h.issueWith (fun _ _ _ h => h.putScalars.advance))

/-! ## Copy -/

theorem Keeps.countWrite {core : Nat} {wave : Option Nat} {g va : Nat} {bs : List Byte} (h : Keeps Q s₀ s) :
    Keeps Q s₀ (s.countWrite core wave g va bs) := by
  unfold State.countWrite
  refine .ite ?_ h
  split
  · exact h.onGroup.onWave
  · exact h.onGroup

theorem Keeps.onCmd {core id : Nat} {f : Cmd → Cmd} (h : Keeps Q s₀ s) : Keeps Q s₀ (s.onCmd core id f) := h.onCore

theorem Keeps.engineBytes {core : Nat} {c : Cmd} {va : Nat} {bs : List Byte} {write : Bool} (h : Keeps Q s₀ s) :
    Keeps Q s₀ (s.engineBytes core c va bs write).2 := by
  unfold State.engineBytes
  split
  · exact .pair h.frame
  · exact h

theorem Keeps.engineRead {core : Nat} {c : Cmd} {va n : Nat} (h : Keeps Q s₀ s) :
    Keeps Q s₀ (s.engineRead core c va n).2 := by
  unfold State.engineRead
  split
  · exact h
  · split
    · next e =>
        have h := Keeps.snd e h.checkFill
        split
        · exact h
        · split
          · exact h
          · split
            · exact h
            · exact .pair h.engineBytes

theorem Keeps.countEngine {core ctx n : Nat} (h : Keeps Q s₀ s) : Keeps Q s₀ (s.countEngine core ctx n) := h.onCsr

theorem Keeps.engineWrite {core : Nat} {c : Cmd} {va : Nat} {bs : List Byte} (h : Keeps Q s₀ s) :
    Keeps Q s₀ (s.engineWrite core c va bs).2 := by
  unfold State.engineWrite
  split
  · exact h
  · split
    · next e =>
        have h := Keeps.snd e h.checkFill
        split
        · exact h
        · split
          · next e =>
              have h := Keeps.snd e h.engineBytes
              split
              · exact h
              · exact h
              · exact h
              · exact .pair h.unitPut

theorem Keeps.readParts {core : Nat} {c : Cmd} {l : List Byte} {ps : List Chunk} (h : Keeps Q s₀ s) :
    Keeps Q s₀ (s.readParts core c l ps).2 := by
  induction ps generalizing s l with
  | nil => exact h
  | cons p ps ih =>
    unfold State.readParts
    split
    next r t e =>
      have ht : Keeps Q s₀ t := Keeps.snd e (by
        split
        · exact h
        · split
          · exact h
          · exact h.engineRead)
      extract_lets go
      have hgo (x y : List Byte) : Keeps Q s₀ (go x y).2 := by
        unfold go
        split
        · next e' => exact Keeps.snd e' (ih ht)
        · exact ih ht
      split
      · exact hgo _ _
      · split
        · exact hgo _ _
        · exact ht
      · exact ht

theorem Keeps.suspend {core : Nat} {c : Cmd} {i : FaultInfo} (h : Keeps Q s₀ s) : Keeps Q s₀ (s.suspend core c i) := by
  unfold State.suspend
  split
  · exact h.onCmd.takeStop
  · exact h.onCmd

theorem Keeps.onMoved {core : Nat} {c : Cmd} {r : Moved} {req : Nat → Nat → State → State} (h : Keeps Q s₀ s)
    (hreq : ∀ x y t, Keeps Q s₀ t → Keeps Q s₀ (req x y t)) : Keeps Q s₀ (s.onMoved core c r req) := by
  unfold State.onMoved
  split
  · exact h
  · exact (hreq _ _ _ h).onCmd
  · exact h.suspend
  · exact h.invalidReplay

theorem Keeps.openChunk {core : Nat} {c : Cmd} {ps : List Chunk} (h : Keeps Q s₀ s) : Keeps Q s₀ (s.openChunk core c ps).2 := by
  induction ps generalizing s with
  | nil => exact h
  | cons p ps ih =>
    unfold State.openChunk
    extract_lets look
    have hlook {u : State} (x : Nat) (k : AccKind) (need : Want) (hu : Keeps Q s₀ u) : Keeps Q s₀ (look u x k need).2 := by
      unfold look
      dsimp only
      split <;> exact hu.checkFill (kind := k) (want := need)
    split
    next i t e =>
      have ht : Keeps Q s₀ t := Keeps.snd e (by
        split
        · exact hlook _ _ _ h
        · exact h)
      split
      next j u e' =>
        have hu : Keeps Q s₀ u := Keeps.snd e' (by
          split
          · exact hlook _ _ _ ht
          · exact ht)
        split
        · exact hu
        · exact ih hu

theorem Keeps.readMove {core : Nat} {c : Cmd} {bs : List (Chunk × Nat)} {k : Nat} (h : Keeps Q s₀ s) :
    Keeps Q s₀ (s.readMove core c bs k) := by
  unfold State.readMove
  refine .ite h.frame.onCmd ?_
  split
  · next e =>
      have h := Keeps.snd e h.engineRead
      split
      · exact h.onCmd
      · exact h.onMoved (fun _ _ _ h => h.ask.onCmd)

theorem Keeps.writeMove {core : Nat} {c : Cmd} {bs : List (Chunk × Nat)} {k : Nat} (h : Keeps Q s₀ s) :
    Keeps Q s₀ (s.writeMove core c bs k) := by
  unfold State.writeMove
  refine .ite (h.foldl (fun _ _ h => h.storeScratch)).countEngine.onCmd ?_
  split
  · next e =>
      have h := Keeps.snd e h.engineWrite
      split
      · exact h.countEngine.onCmd
      · dsimp only
        split
        · exact h.readMove
        · exact h.onMoved (fun _ _ _ h => h.ask.onCmd)

theorem Keeps.countChunk {core : Nat} {c : Cmd} {bs : List (Chunk × Nat)} (h : Keeps Q s₀ s) :
    Keeps Q s₀ (s.countChunk core c bs) := h.foldl (fun _ _ h => h.countWrite)

theorem Keeps.moveChunk {core : Nat} {c : Cmd} (h : Keeps Q s₀ s) : Keeps Q s₀ (s.moveChunk core c) := by
  unfold State.moveChunk
  refine .ite ?_ ?_
  · split
    · next e => exact (Keeps.snd e h.openChunk).suspend
    · next e => exact (Keeps.snd e h.openChunk).onCmd
  · split
    · exact (Keeps.ite h.countEngine h).onCmd
    · dsimp only
      split
      · exact h.countChunk.onCmd
      · exact .ite h.frame.writeMove h.frame.readMove

theorem Keeps.execCopyCommandStart (h : Keeps Q s₀ s) : Ends Q s₀ (execCopyCommandStart s) := by
  unfold Machine.execCopyCommandStart
  refine .next ?_
  split
  · split
    · exact h
    · exact .ite h h.onCmd
  · exact h

theorem Keeps.retireCmd {core : Nat} {c : Cmd} (h : Keeps Q s₀ s) : Keeps Q s₀ (s.retireCmd core c) := by
  unfold State.retireCmd
  split
  · exact h.onCore.batchDone.tryRfence
  · exact h.onCore

theorem Keeps.arriveAll {l : List (Nat × Nat)} (h : Keeps Q s₀ s) : Keeps Q s₀ (s.arriveAll l) :=
  h.foldl (fun _ _ h => h.onBarrier)

theorem Keeps.finishChain {core : Nat} {c : Cmd} (h : Keeps Q s₀ s) : Keeps Q s₀ (s.finishChain core c) := by
  unfold State.finishChain
  split
  · exact h.retireCmd
  · refine .ite h.countEngine.retireCmd ?_
    split
    · next e =>
        have h := Keeps.snd e h.engineWrite
        split
        · exact h.countEngine.retireCmd
        · exact h.onCmd.onMoved (fun _ _ _ h => h.ask)
  · exact h

theorem Keeps.endChain {core id st : Nat} (h : Keeps Q s₀ s) : Keeps Q s₀ (s.endChain core id st) := by
  unfold State.endChain
  dsimp only
  split
  · exact h.onCmd.finishChain
  · exact h.onCmd

theorem Keeps.execCopyCommandComplete (h : Keeps Q s₀ s) : Ends Q s₀ (execCopyCommandComplete s) := by
  unfold Machine.execCopyCommandComplete
  refine .next ?_
  split
  · split
    · exact h
    · refine .ite h (.ite h.finishChain (.ite h ?_))
      split
      · exact .ite h h.onCore.retireCmd.arriveAll
      · exact h.retireCmd.arriveAll
  · exact h

theorem Keeps.readRecord {core : Nat} {c : Cmd} {n : Nat} {got : List Byte} (h : Keeps Q s₀ s) :
    Keeps Q s₀ (s.readRecord core c n got).2.2 := by
  induction n generalizing s got with
  | zero => exact h
  | succ n ih =>
    unfold State.readRecord
    split
    · exact h
    · dsimp only
      split
      · exact ih h.engineRead
      · exact h.engineRead

theorem Keeps.recordArrived {core : Nat} {c : Cmd} {bs : List Byte} (h : Keeps Q s₀ s) :
    Keeps Q s₀ (s.recordArrived core c bs) := by
  unfold State.recordArrived
  extract_lets _ t r
  have ht : Keeps Q s₀ t := h.onCore
  clear_value t r
  split
  · split
    · exact ht.onCmd.tryRfence
    · exact ht.onCmd
  · split
    · exact ht.retireCmd.endChain
    · split
      · exact ht.retireCmd.takeStop
      · exact ht.retireCmd

theorem Keeps.execTensorRecordArrive (h : Keeps Q s₀ s) : Ends Q s₀ (execTensorRecordArrive s) := by
  unfold Machine.execTensorRecordArrive
  refine .next ?_
  split
  · split
    · exact h
    · refine .ite h (.ite h.recordArrived ?_)
      dsimp only
      split
      · exact h.readRecord.recordArrived
      · exact h.readRecord.onCmd.onMoved (fun _ _ _ h => h.ask)
  · exact h

/-! ## Block -/

theorem Keeps.chainTo {core id : Nat} {next : Dword} (h : Keeps Q s₀ s) : Keeps Q s₀ (s.chainTo core id next) := h.onCmd

theorem Keeps.chainOn {core id : Nat} (h : Keeps Q s₀ s) : Keeps Q s₀ (s.chainOn core id) := h.onCmd

theorem Keeps.onBlock {code : Nat} {act : Nat → Cmd → List Byte → BlockHeader → Option State} (h : Keeps Q s₀ s)
    (hact : ∀ core c bs x, Gives Q s₀ (act core c bs x)) : Keeps Q s₀ (s.onBlock code act) := by
  unfold State.onBlock
  split
  · split
    · exact h
    · refine .ite h ?_
      split
      · exact h.endChain
      · exact .ite h (Gives.getD (hact _ _ _ _) h.endChain)
  · exact h

theorem Keeps.pushBlock {core : Nat} {chain : Cmd} {r : Except FaultInfo Cmd} (h : Keeps Q s₀ s) :
    Gives Q s₀ (s.pushBlock core chain r) := by
  unfold State.pushBlock
  split
  · exact .none
  · exact .ite (.some h) (.some h.pushCmd.chainOn)

theorem Keeps.execChainTcopy (h : Keeps Q s₀ s) : Ends Q s₀ (execChainTcopy s) := by
  unfold Machine.execChainTcopy
  refine .next (h.onBlock fun _ _ _ _ => .ite .none (.map fun _ e => ?_))
  have h := h.pushBlock _ e
  split
  · exact h.frame.touchRecord
  · exact h

theorem Keeps.execChainMmac (h : Keeps Q s₀ s) : Ends Q s₀ (execChainMmac s) := by
  unfold Machine.execChainMmac
  refine .next (h.onBlock fun _ _ _ _ => .ite .none ?_)
  split
  · exact .ite (.some h) (.some h.enqueue.chainOn)
  · exact .none

theorem Keeps.semTry {core : Nat} {c : Cmd} {t : SemTest} (h : Keeps Q s₀ s) : Keeps Q s₀ (s.semTry core c t) := by
  unfold State.semTry
  extract_lets _
  split
  · next e =>
      have h := Keeps.snd e (by
        split
        · split
          · exact .pair h.frame
          · exact h
        · split
          · exact h
          · exact h.engineRead)
      extract_lets u
      have hu : Keeps Q s₀ u := h.onCmd
      clear_value u
      split
      · extract_lets _
        refine .ite hu.endChain (.ite hu.arriveAll.onCmd.acquireAt.chainOn ?_)
        split
        · exact hu.onCmd
        · exact hu.arriveAll.onCmd.chainOn
        · exact hu.arriveAll.onCmd.chainTo
      · exact hu.onMoved (fun _ _ _ h => h.ask)

theorem Keeps.execSemwait (h : Keeps Q s₀ s) : Ends Q s₀ (execSemwait s) := by
  unfold Machine.execSemwait
  refine .next (h.onBlock fun _ _ _ _ => .ite .none (.map fun _ e => ?_))
  dsimp only
  split
  · exact h.onCmd.semTry
  · exact h.onCmd

theorem Keeps.execSemwaitRetry (h : Keeps Q s₀ s) : Ends Q s₀ (execSemwaitRetry s) := by
  unfold Machine.execSemwaitRetry
  refine .next ?_
  split
  · split
    · exact h
    · split
      · exact h
      · exact .ite h h.semTry
  · exact h

theorem Keeps.execSemsig (h : Keeps Q s₀ s) : Ends Q s₀ (execSemsig s) := by
  unfold Machine.execSemsig
  refine .next (h.onBlock fun _ _ _ _ => .ite .none ?_)
  split
  · exact .ite .none h.pushBlock
  · exact .none

theorem Keeps.execReduce (h : Keeps Q s₀ s) : Ends Q s₀ (execReduce s) := by
  unfold Machine.execReduce
  refine .next (h.onBlock fun _ _ _ _ => .ite .none ?_)
  split
  · exact h.pushBlock
  · exact .none

theorem Keeps.updateAt {core : Nat} {c : Cmd} {p : Chunk} {f : Nat → Nat} {ask : Nat → Nat → State → State} (h : Keeps Q s₀ s)
    (hask : ∀ x y t, Keeps Q s₀ t → Keeps Q s₀ (ask x y t)) : Keeps Q s₀ (s.updateAt core c p f ask) := by
  unfold State.updateAt
  refine .ite h.frame.storeScratch.countEngine.onCmd (.ite h.invalidReplay ?_)
  split
  · next e =>
      have h := Keeps.snd e h.checkFill
      split
      · exact h.suspend
      · split
        · exact hask _ _ _ h
        · exact .ite h.suspend h.drainAt.unitPut.countEngine.onCmd

theorem Keeps.reduceStep {core : Nat} {c : Cmd} {r : ReduceArgs} (h : Keeps Q s₀ s) :
    Keeps Q s₀ (s.reduceStep core c r) := by
  unfold State.reduceStep
  refine .ite h.countEngine.onCmd ?_
  split
  · next e =>
      have h := Keeps.snd e (by
        split
        · exact h
        · split
          · next e => exact Keeps.snd e h.readParts
          · next e => exact Keeps.snd e h.readParts)
      split
      · exact h.onMoved (fun _ _ _ h => h.ask)
      · refine h.updateAt fun _ _ _ h => ?_
        split
        · exact h.ask.onCmd
        · split
          · exact h.ask.onCmd
          · exact .ite h.countEngine.onCmd h.ask.onCmd
          · exact h.ask.onCmd

theorem Keeps.signalStep {core : Nat} {c : Cmd} {add wide : Bool} {v : Dword} (h : Keeps Q s₀ s) :
    Keeps Q s₀ (s.signalStep core c add wide v) := by
  unfold State.signalStep
  refine .ite h.countEngine.onCmd (.ite (h.updateAt (fun _ _ _ h => h.ask.onCmd)) ?_)
  refine .ite h.storeScratch.countEngine.onCmd ?_
  split
  · next e =>
      have h := Keeps.snd e h.engineWrite
      split
      · exact h.countEngine.onCmd
      · exact h.onCmd.onMoved (fun _ _ _ h => h.ask)

theorem Keeps.execCopyChunk (h : Keeps Q s₀ s) : Ends Q s₀ (execCopyChunk s) := by
  unfold Machine.execCopyChunk
  refine .next ?_
  split
  · split
    · exact h
    · refine .ite h ?_
      split
      · exact h.reduceStep
      · exact h.signalStep
      · exact h.moveChunk
  · exact h

/-! ## Unit -/

theorem Keeps.onReads {r : Reader} {f : Reads → Reads} (h : Keeps Q s₀ s) : Keeps Q s₀ (s.onReads r f) := by
  unfold State.onReads
  split
  · exact h.onWave
  · exact h.onWave
  · exact h.onDie
  · exact h.onLaunch
  · exact h.onPass
  · exact h.onPass

theorem Keeps.readerAnswer {r : Reader} {va n : Nat} {ok : Bool} {bs : List Byte} (h : Keeps Q s₀ s) :
    Keeps Q s₀ (s.readerAnswer r va n ok bs) := h.onReads

theorem Keeps.farStop {r : Reader} {ctx : Nat} {write : Bool} {va pa n : Nat} {data : List Byte} (h : Keeps Q s₀ s) :
    Keeps Q s₀ (s.farStop r ctx write va pa n data).2 := by
  unfold State.farStop
  extract_lets _
  split
  · exact .pair h.onReads
  · split
    · exact h
    · split
      · exact .pair h.onReads.frame
      · exact .pair h.onReads.ask
      · exact .pair h.onReads

theorem Keeps.readerCheck {r : Reader} {core ctx : Nat} {va : Dword} {n : Nat} {write : Bool} (h : Keeps Q s₀ s) :
    Keeps Q s₀ (s.readerCheck r core ctx va n write).2 := by
  unfold State.readerCheck
  split
  · exact h.checkFill
  · exact h

theorem Keeps.readWords {r : Reader} {core ctx : Nat} {va : Dword} {n : Nat} (h : Keeps Q s₀ s) :
    Keeps Q s₀ (s.readWords r core ctx va n).2 := by
  induction n with
  | zero => exact h
  | succ n ih =>
    unfold State.readWords
    split
    · next e => exact Keeps.snd e ih
    · next e =>
      have h := Keeps.snd e ih
      dsimp only
      split
      · exact h
      · split
        · next e' => exact Keeps.snd e' h.readerCheck
        · next e' =>
          have h := Keeps.snd e' h.readerCheck
          split
          · exact h.farStop
          · split <;> exact h

theorem Keeps.unitWord {core ctx k pa attr : Nat} (h : Keeps Q s₀ s) :
    Keeps Q s₀ (s.unitWord core ctx k pa attr).2 := by
  unfold State.unitWord
  extract_lets near
  clear_value near
  split
  · exact h
  · split
    · exact .pair h.touchL1
    · split <;> exact h
  · split
    · exact h
    · exact .pair (.ite h.fillL1 h)

theorem Keeps.readerWord {r : Reader} {core ctx k pa attr : Nat} (h : Keeps Q s₀ s) :
    Keeps Q s₀ (s.readerWord r core ctx k pa attr).2 := by
  unfold State.readerWord
  split
  · exact h.unitWord
  · exact h

theorem Keeps.readNext {r : Reader} {core ctx : Nat} {need : List Nat} (h : Keeps Q s₀ s) :
    Keeps Q s₀ (s.readNext r core ctx need).2 := by
  unfold State.readNext
  dsimp only
  split
  · next e => exact Keeps.snd e h.frame.readerCheck
  · next e =>
      have h := Keeps.snd e h.frame.readerCheck
      split
      · split
        · next e =>
            have h := Keeps.snd e h.readerWord
            exact .pair h.onReads.frame
        · next e => exact Keeps.snd e h.readerWord
      · split
        · exact .pair h.invalidReplay
        · split
          · next e => exact Keeps.snd e h.farStop
          · next e => exact Keeps.snd e h.farStop

theorem Keeps.unitStore {r : Reader} {pa : Nat} {bs : List Byte} (h : Keeps Q s₀ s) :
    Keeps Q s₀ (s.unitStore r pa bs) := by
  unfold State.unitStore
  split
  · exact h.unitPut
  · exact h.writeHome
  · exact h

theorem Keeps.unitWrite {r : Reader} {core ctx : Nat} {x : UnitWrite} (h : Keeps Q s₀ s) :
    Keeps Q s₀ (s.unitWrite r core ctx x).2 := by
  unfold State.unitWrite
  split
  · exact .pair h.onReads
  · split
    · next e => exact Keeps.snd e h.readerCheck
    · next e =>
        have h := Keeps.snd e h.readerCheck
        split
        · exact .pair h.unitStore
        · refine .pair ?_
          split <;> exact h.farStop

theorem Keeps.unitWrites {r : Reader} {core ctx : Nat} {l : List UnitWrite} (h : Keeps Q s₀ s) :
    Keeps Q s₀ (s.unitWrites r core ctx l).2.2 := by
  induction l generalizing s with
  | nil => exact h
  | cons x l ih =>
    unfold State.unitWrites
    split
    next e => exact ih (Keeps.snd e h.unitWrite)
    next e => exact Keeps.snd e h.unitWrite

/-! ## Intake -/

theorem Keeps.waitCsr {n : Nat} {l : Launch} {pa : Nat} (h : Keeps Q s₀ s) : Keeps Q s₀ (s.waitCsr n l pa) := by
  unfold State.waitCsr
  dsimp only
  split
  · exact h.onLaunch
  · exact h.farStop
  · exact h.farStop

theorem Keeps.waitRead {n : Nat} (h : Keeps Q s₀ s) : Keeps Q s₀ (s.waitRead n) := by
  unfold State.waitRead
  split
  · exact h
  · refine .ite h ?_
    split
    · exact h.complete.onLaunch
    · split
      · exact .ite h.complete.onLaunch (.ite h.onLaunch h)
      · exact h.waitCsr
      · exact .ite h h.ask.onLaunch
      · exact h

theorem Keeps.intake {l : Launch} (h : Keeps Q s₀ s) : Keeps Q s₀ (s.intake l).2 := by
  unfold State.intake
  split
  · exact h
  · split
    · exact h
    · split
      · exact h
      · split
        · exact h
        · exact .pair h.frame.waitRead

theorem Keeps.execLaunchMsg (h : Keeps Q s₀ s) : Ends Q s₀ (execLaunchMsg s) := by
  unfold Machine.execLaunchMsg
  refine .next ?_
  split
  · refine .ite h.linkErr ?_
    extract_lets _ _
    split
    · next e => exact Keeps.snd e h.intake
    · next e => exact (Keeps.snd e h.intake).complete
  · exact h

theorem Keeps.execWaitWordRead (h : Keeps Q s₀ s) : Ends Q s₀ (execWaitWordRead s) := by
  unfold Machine.execWaitWordRead
  refine .next ?_
  split
  · exact h.waitRead
  · exact h

theorem Keeps.waitReadAll (h : Keeps Q s₀ s) : Keeps Q s₀ s.waitReadAll := h.foldl (fun _ _ h => h.waitRead)

theorem Keeps.launchDone {n : Nat} {l : Launch} {st : Nat} (h : Keeps Q s₀ s) : Keeps Q s₀ (s.launchDone n l st) :=
  .ite h.complete.onLaunch h.frame

theorem Keeps.execLaunchComplete (h : Keeps Q s₀ s) : Ends Q s₀ (execLaunchComplete s) := by
  unfold Machine.execLaunchComplete
  refine .next ?_
  split
  · split
    · exact h
    · refine .ite h (.ite h.launchDone (.ite h.launchDone ?_))
      split
      · exact h.launchDone
      · next e => exact (h.completionAdd e).launchDone.waitReadAll
      · next e => exact (h.completionAdd e).onLaunch
  · exact h

theorem Keeps.execLaunch {a : SArgs} (h : Keeps Q s₀ s) : Ends Q s₀ (execLaunch a s) := by
  unfold Machine.execLaunch
  refine .next ?_
  split
  · exact h
  · refine .ite h.invalidReplay (.ite h ?_)
    extract_lets _ _
    refine h.whenIssuable fun _ h => ?_
    extract_lets _
    refine .ite h.stopWith ?_
    split
    · next e => exact (Keeps.snd e h.readWords).onReads.stopWith
    · next e => exact Keeps.snd e h.readWords
    · next e => exact (Keeps.snd e h.readWords).asyncIssue

theorem Keeps.readCode {n core ctx : Nat} {base : Dword} (h : Keeps Q s₀ s) :
    Keeps Q s₀ (s.readCode n core ctx base).2 := by
  unfold State.readCode
  dsimp only
  split
  · next e => exact Keeps.snd e h.readWords
  · next e =>
      have h := Keeps.snd e h.readWords
      exact .pair h.onReads
  · next e =>
      have h := Keeps.snd e h.readWords
      split
      · exact .pair h.onReads
      · split
        · next e => exact Keeps.snd e h.readWords
        · next e =>
            have h := Keeps.snd e h.readWords
            exact .pair h.onReads
        · next e =>
            have h := Keeps.snd e h.readWords
            exact .pair h.onReads

/-! ## Place -/

theorem Keeps.addWaves {l : Launch} {g c : Nat} {kind : WaveKind} {low : Bool} {scalars : List (Nat × Word)} {k : Nat}
    {seats : List Seat} (h : Keeps Q s₀ s) : Keeps Q s₀ (s.addWaves l g c kind low scalars k seats) := by
  induction seats generalizing s k with
  | nil => exact h
  | cons seat seats ih => exact ih (h.frame.onGroup)

theorem Keeps.addGroup {n : Nat} {l : Launch} {c linear crank cluster : Nat} {shadow sampled leased : Bool} {kind : WaveKind}
    {scalars : List (Nat × Word)} (h : Keeps Q s₀ s) :
    Keeps Q s₀ (s.addGroup n l c linear crank cluster shadow sampled leased kind scalars) :=
  (Keeps.ite (Keeps.ite h.setCsr.trimL1 h).frame.onLaunch.onCore
    (Keeps.ite h.setCsr.trimL1 h).frame.onLaunch).addWaves.acquireAt.applyClass

theorem Keeps.sampleAt {n : Nat} {l : Launch} {linear c : Nat} {chosen : Bool} (h : Keeps Q s₀ s) :
    Keeps Q s₀ (s.sampleAt n l linear c chosen).2.2 := by
  unfold State.sampleAt
  split
  · exact h
  · split
    · exact h.onSample
    · split
      · exact h
      · dsimp only
        split
        · exact h.onCsr.umpCount
        · exact h.onCsr.onDie.umpCount

theorem Keeps.untask {n : Nat} {l : Launch} (h : Keeps Q s₀ s) : Keeps Q s₀ (s.untask n l) := .ite h.onCores h

theorem Keeps.withCode {n : Nat} {l : Launch} {c : Nat} {act : Launch → State → State} (h : Keeps Q s₀ s)
    (hact : ∀ x t, Keeps Q s₀ t → Keeps Q s₀ (act x t)) : Keeps Q s₀ (s.withCode n l c act) := by
  unfold State.withCode
  split
  · exact hact _ _ h
  · split
    · next e => exact Keeps.snd e h.readCode
    · next e => exact (Keeps.snd e h.readCode).untask.launchDone
    · next e =>
        have h := Keeps.snd e h.readCode
        exact hact _ _ h.onLaunch

theorem Keeps.gatedOut {n c : Nat} {l : Launch} {g : Nat} (h : Keeps Q s₀ s) : Keeps Q s₀ (s.gatedOut n c l g).2 := by
  unfold State.gatedOut
  extract_lets read
  have hread {t : State} {a k : Nat} {act : Nat → State → Option Bool × State} (ht : Keeps Q s₀ t)
      (hact : ∀ x t, Keeps Q s₀ t → Keeps Q s₀ (act x t).2) : Keeps Q s₀ (read t a k act).2 := by
    unfold read
    split
    · next e => exact Keeps.snd e ht.readWords
    · next e => exact Keeps.snd e ht.readWords
    · next e => exact hact _ _ (Keeps.snd e ht.readWords)
  clear_value read
  split
  · exact h
  · refine hread h fun _ _ h => ?_
    dsimp only
    split
    · exact hread h fun _ _ h => h
    · exact hread h fun _ _ h => hread h fun _ _ h => h

theorem Keeps.gates {n c : Nat} {l : Launch} {gs : List Nat} (h : Keeps Q s₀ s) : Keeps Q s₀ (s.gates n c l gs).2 := by
  induction gs generalizing s with
  | nil => exact h
  | cons g gs ih =>
    unfold State.gates
    split
    next e => exact Keeps.snd e h.gatedOut
    next e =>
      have h := ih (Keeps.snd e h.gatedOut)
      split
      next e' => exact Keeps.snd e' h
      next e' => exact Keeps.snd e' h

theorem Keeps.placeHead {n : Nat} {l : Launch} {cores : List Nat} (h : Keeps Q s₀ s) :
    Keeps Q s₀ (s.placeHead n l cores) := by
  unfold State.placeHead
  split
  · refine h.withCode fun _ _ h => ?_
    split
    · next e => exact Keeps.snd e h.gates
    · next e =>
        have h := Keeps.snd e h.gates
        exact h.onReads.untask.onLaunch.foldl (fun _ _ h => h.sampleAt.addGroup)
  · exact h

theorem Keeps.refill {d : Nat} {cs : List Candidate} (h : Keeps Q s₀ s) : Keeps Q s₀ (s.refill d cs) :=
  .ite (h.foldl (fun _ _ h => .ite h h.setCsr)) h

theorem Keeps.makeWay {d n : Nat} {l : Launch} (h : Keeps Q s₀ s) : Gives Q s₀ (s.makeWay d n l) :=
  .findSome? fun _ => .findSome? fun _ => .ite (.some (h.foldl fun _ _ h => h.discardCluster)) .none

theorem Keeps.clearForUrgent {d : Nat} (h : Keeps Q s₀ s) : Keeps Q s₀ (s.clearForUrgent d) :=
  Gives.getD (.findSome? fun _ => .ite .none h.makeWay) h

theorem Keeps.execPlaceGroup (h : Keeps Q s₀ s) : Ends Q s₀ (execPlaceGroup s) := by
  unfold Machine.execPlaceGroup
  refine .next ?_
  split
  · refine .ite h.clearForUrgent ?_
    dsimp only
    split
    · exact h.clearForUrgent.refill
    · split
      · exact h.clearForUrgent.refill
      · exact h.clearForUrgent.refill.placeHead
  · exact h

theorem Keeps.execLeaseTake (h : Keeps Q s₀ s) : Ends Q s₀ (execLeaseTake s) := by
  unfold Machine.execLeaseTake
  refine .next ?_
  split
  · split
    · exact h
    · refine .ite h ?_
      split
      · refine .ite (.ite h h.onGroup) ?_
        dsimp only
        split
        · exact h.onGroup.freeSample.umpCount
        · exact (h.foldl (fun _ _ h => h.setWpl)).onSample.onGroup
      · exact h.onGroup
  · exact h

theorem Keeps.execReplayPlace (h : Keeps Q s₀ s) : Ends Q s₀ (execReplayPlace s) := by
  unfold Machine.execReplayPlace
  refine .next ?_
  split
  · split
    · exact h
    · split
      · exact h
      · refine .ite h ?_
        dsimp only
        split
        · exact h
        · refine h.foldl fun _ _ h => (.addGroup ?_)
          split
          · exact h.onSample
          · exact h
  · exact h

theorem Keeps.execDiscardGo (h : Keeps Q s₀ s) : Ends Q s₀ (execDiscardGo s) := by
  unfold Machine.execDiscardGo
  refine .next ?_
  split
  · refine .ite h.setCsr ?_
    split
    · exact h.setCsr
    · exact .ite h.setCsr.discardCluster h.setCsr
  · exact h

/-! ## Scalar -/

theorem Keeps.scalar1 {a : SArgs} {g : Word → Word} (h : Keeps Q s₀ s) : Keeps Q s₀ (s.scalar1 a g) := h.scalar

theorem Keeps.scalar2 {a : SArgs} {g : Word → Word → Word} (h : Keeps Q s₀ s) : Keeps Q s₀ (s.scalar2 a g) := h.scalar

theorem Keeps.scalar64 {a : SArgs} {g : Dword → Dword → Dword} (h : Keeps Q s₀ s) : Keeps Q s₀ (s.scalar64 a g) :=
  h.scalar

theorem Keeps.scalarShift {a : SArgs} {g : Dword → Word → Dword} (h : Keeps Q s₀ s) : Keeps Q s₀ (s.scalarShift a g) :=
  h.scalar

theorem Keeps.scalarCount {a : SArgs} {g : Word → Word} {g64 : Dword → Word} (h : Keeps Q s₀ s) :
    Keeps Q s₀ (s.scalarCount a g g64) := .ite h.scalar h.scalar1

theorem Keeps.execSrd {a : SArgs} (h : Keeps Q s₀ s) : Ends Q s₀ (execSrd a s) := by
  unfold Machine.execSrd
  refine .next ?_
  split
  · exact .ite h.putScalars.advance (.ite h.putScalars.advance h.stopHere)
  · split
    · exact h
    · exact .ite h.invalidReplay (h.issueWith (fun _ _ _ h => h.putScalars.advance))

/-! ## Queue -/

theorem Keeps.setEntries {core n : Nat} {l : List Dword} (h : Keeps Q s₀ s) : Keeps Q s₀ (s.setEntries core n l) := by
  unfold State.setEntries
  split
  · exact h.onCore
  · exact h

theorem Keeps.queueOp {act : Wave → Split → State → State} (h : Keeps Q s₀ s)
    (hact : ∀ x y t, Keeps Q s₀ t → Keeps Q s₀ (act x y t)) : Keeps Q s₀ (s.queueOp act) := by
  unfold State.queueOp
  split
  · exact h
  · exact .ite h.invalidReplay (hact _ _ _ h)

theorem Keeps.setTaskQueue {die ctx : Nat} {l : List Task} (h : Keeps Q s₀ s) : Keeps Q s₀ (s.setTaskQueue die ctx l) :=
  h.onDie

theorem Keeps.taskRead {core : Nat} {t : Task} {bs : List Byte} (h : Keeps Q s₀ s) :
    Keeps Q s₀ (s.taskRead core t bs) := .ite h.frame.onCore h.complete

theorem Keeps.execTaskTake (h : Keeps Q s₀ s) : Ends Q s₀ (execTaskTake s) := by
  unfold Machine.execTaskTake
  refine .next ?_
  split
  · split
    · exact h
    · refine .ite h (.ite h.setTaskQueue.onDie.taskRead ?_)
      split
      · next e => exact Keeps.snd e h.readWords
      · next e => exact (Keeps.snd e h.readWords).setTaskQueue.onDie.taskRead
      · next e => exact (Keeps.snd e h.readWords).setTaskQueue.onDie.taskRead
  · exact h

theorem Keeps.execFlowreq {a : SArgs} (h : Keeps Q s₀ s) : Ends Q s₀ (execFlowreq a s) := by
  unfold Machine.execFlowreq
  refine .next ?_
  extract_lets _ _
  split
  · exact h
  · refine .ite (.ite h (h.issueWith (fun _ _ _ h => h.putScalars.advance))) (h.issueWith fun _ _ _ h => ?_)
    extract_lets _ _ _ t
    have ht : Keeps Q s₀ t := h.onIssuer.applyClass
    clear_value t
    exact .ite ht.onIssuingSplit (ht.issueWith (fun _ _ _ h => h.putScalars.advance))

theorem Keeps.lockLine {core ctx : Nat} {segs : List (Nat × Nat × Nat)} {line pa : Nat} (h : Keeps Q s₀ s) :
    Keeps Q s₀ (s.lockLine core ctx segs line pa) := .ite h.onCore h.onCore.onCore

theorem Keeps.lockLines {core : Nat} {w : Wave} {segs : List (Nat × Nat × Nat)} {n line : Nat} (h : Keeps Q s₀ s) :
    Keeps Q s₀ (s.lockLines core w segs n line).2 := by
  induction n generalizing s line with
  | zero => exact h
  | succ n ih =>
    unfold State.lockLines
    split
    · exact ih h
    · split
      · split
        · exact ih h.lockLine
        · exact h
      · exact h

theorem Keeps.lineOp {op : AsyncOp} {a : SArgs} (h : Keeps Q s₀ s) : Keeps Q s₀ (s.lineOp op a) := by
  unfold State.lineOp
  exact h.asyncIssue

theorem Keeps.spawn {core : Nat} {w : Wave} {o : MemOp} (h : Keeps Q s₀ s) : Keeps Q s₀ (s.spawn core w o).2 := by
  unfold State.spawn
  split
  · exact h
  · dsimp only
    split
    · exact h
    · exact .pair h.frame

theorem Keeps.dqPush {core : Nat} {w : Wave} {o : MemOp} (h : Keeps Q s₀ s) : Keeps Q s₀ (s.dqPush core w o).2 := by
  unfold State.dqPush
  dsimp only
  split
  · exact h
  · exact .pair h.setEntries

theorem Keeps.dqPop {core : Nat} {w : Wave} (h : Keeps Q s₀ s) : Keeps Q s₀ (s.dqPop core w).2 := by
  unfold State.dqPop
  dsimp only
  split
  · exact h
  · exact .pair h.setEntries.acquireAt

theorem Keeps.dqSteal {core : Nat} {w : Wave} {o : MemOp} (h : Keeps Q s₀ s) : Keeps Q s₀ (s.dqSteal core w o).2 := by
  unfold State.dqSteal
  split
  · exact h
  · exact .pair h.setEntries.acquireAt

theorem Keeps.dqSize {w : Wave} {o : MemOp} (h : Keeps Q s₀ s) : Keeps Q s₀ (s.dqSize w o).2 := h

theorem Keeps.launchFrom {w : Wave} {o : MemOp} (h : Keeps Q s₀ s) : Keeps Q s₀ (s.launchFrom w o).2 := by
  unfold State.launchFrom
  split
  · next e => exact Keeps.snd e h.intake
  · next e => exact Keeps.snd e h.intake
  · next e => exact Keeps.snd e h.intake

theorem Keeps.lockRange {core : Nat} {w : Wave} {o : MemOp} (h : Keeps Q s₀ s) : Keeps Q s₀ (s.lockRange core w o).2 :=
  .pair h.lockLines

theorem Keeps.unlockRange {core : Nat} {w : Wave} {o : MemOp} (h : Keeps Q s₀ s) :
    Keeps Q s₀ (s.unlockRange core w o).2 := .pair h.setCore

theorem Keeps.doAsync {core : Nat} {w : Wave} {o : MemOp} {op : AsyncOp} (h : Keeps Q s₀ s) :
    Keeps Q s₀ (s.doAsync core w o op).2 := by
  unfold State.doAsync
  split
  · exact h.spawn
  · exact h.dqPush
  · exact h.dqPop
  · exact h.dqSteal
  · exact h.dqSize
  · exact h.launchFrom
  · exact h.lockRange
  · exact h.unlockRange

theorem Keeps.execSplitArrive (h : Keeps Q s₀ s) : Ends Q s₀ (execSplitArrive s) := by
  unfold Machine.execSplitArrive
  refine .next ?_
  split
  · split
    · exact h
    · exact .ite h.putSplits h
  · exact h

theorem Keeps.execFuseTimerExpiry (h : Keeps Q s₀ s) : Ends Q s₀ (execFuseTimerExpiry s) := by
  unfold Machine.execFuseTimerExpiry
  refine .next ?_
  split
  · exact .ite h.fuseExpiry h
  · exact h

theorem Keeps.execRejoinTimerExpiry (h : Keeps Q s₀ s) : Ends Q s₀ (execRejoinTimerExpiry s) := by
  unfold Machine.execRejoinTimerExpiry
  refine .next ?_
  split
  · exact .ite h.rejoinExpiry h
  · exact h

theorem Keeps.execYieldExpiry (h : Keeps Q s₀ s) : Ends Q s₀ (execYieldExpiry s) := by
  unfold Machine.execYieldExpiry
  refine .next ?_
  split
  · exact h.onWave
  · exact h

theorem Keeps.execIssuePromotion (h : Keeps Q s₀ s) : Ends Q s₀ (execIssuePromotion s) := by
  unfold Machine.execIssuePromotion
  refine .next ?_
  split
  · exact h.onWave
  · exact h

theorem Keeps.execStopReport (h : Keeps Q s₀ s) : Ends Q s₀ (execStopReport s) := by
  unfold Machine.execStopReport
  refine .next ?_
  split
  · exact h.reportStop
  · exact h

theorem Keeps.execWaveEnd (h : Keeps Q s₀ s) : Ends Q s₀ (execWaveEnd s) := by
  unfold Machine.execWaveEnd
  refine .next ?_
  split
  · exact .ite h.waveGone h
  · exact h

/-! ## Pass -/

theorem Keeps.passFault {die slot core : Nat} {info : FaultInfo} (h : Keeps Q s₀ s) :
    Keeps Q s₀ (s.passFault die slot core info) := by
  unfold State.passFault
  split
  · exact h
  · exact h.onPass.send.ringRecord.pend

theorem Keeps.clearBitmap {die slot n : Nat} (h : Keeps Q s₀ s) : Keeps Q s₀ (s.clearBitmap die slot n) := by
  induction n generalizing s with
  | zero => exact h
  | succ n ih =>
    unfold State.clearBitmap
    split
    · exact h
    · refine .ite h ?_
      split
      next e => exact (Keeps.snd e h.unitWrite).passFault
      next e => exact Keeps.snd e h.unitWrite
      next e => exact ih (Keeps.snd e h.unitWrite).onPass

theorem Keeps.passTemplate {r : Reader} {core : Nat} {kind : LaunchKind} {task : Launch} {a : Dword} (h : Keeps Q s₀ s) :
    Keeps Q s₀ (s.passTemplate r core kind task a).2 := by
  unfold State.passTemplate
  split
  · next e => exact Keeps.snd e h.readWords
  · next e => exact Keeps.snd e h.readWords
  · next e => exact Keeps.snd e h.readWords

theorem Keeps.addTemplate {l : Launch} (h : Keeps Q s₀ s) : Keeps Q s₀ (s.addTemplate l) := h.frame

theorem Keeps.openPass {r : Reader} {core n : Nat} {a : Dword} (h : Keeps Q s₀ s) :
    Keeps Q s₀ (s.openPass r core n a).2 := by
  unfold State.openPass
  extract_lets _ bad
  clear_value bad
  split
  · exact h
  split
  · exact h
  extract_lets held
  clear_value held
  split
  · exact h
  split
  · next e => exact Keeps.snd e h.readWords
  next e =>
  have h := Keeps.snd e h.readWords
  dsimp only
  split
  · exact h
  split
  · next e => exact Keeps.snd e h.passTemplate
  · next e => exact Keeps.snd e h.passTemplate
  next t e =>
  have h := Keeps.snd e h.passTemplate
  have hp (b : Bool) {x : Except UnitStop (Option Launch)} {l : Launch} {p : Dword} :
      Keeps Q s₀ (if b then (x, t) else t.passTemplate r core .pixel l p).2 := by
    split
    · exact h
    · exact h.passTemplate
  split
  · next e => exact Keeps.snd e (hp _)
  · next e => exact Keeps.snd e (hp _)
  next e =>
  have h := Keeps.snd e (hp _)
  split
  · exact h
  · exact .pair h.addTemplate.addTemplate.setPass.clearBitmap

theorem Keeps.execEmitm {f : FArgs} (h : Keeps False s₀ s) : Ends False s₀ (execEmitm f s) := by
  unfold Machine.execEmitm
  refine .next (h.forced fun _ h₁ => ?_)
  split
  · exact h₁
  · refine .ite h₁.invalidReplay ?_
    split
    · exact h₁.stopHere
    · exact h₁.stopHere
    · refine .ite h₁ (h₁.issueWith fun _ _ _ h₂ => ?_)
      dsimp only
      split
      · exact h₁.stopWith
      · exact h₁.openPass
      · next e =>
          have h₃ := Keeps.snd e h₂.openPass
          refine .advance (.onIssuer (.onGroup ?_))
          split
          · exact h₃
          · exact h₃.onPass.onDie

theorem Keeps.growWait {die slot : Nat} (h : Keeps Q s₀ s) : Keeps Q s₀ (s.growWait die slot) := h.onPass.event.pend

theorem Keeps.meshPlaced {die : Nat} {e : AmpEntry} {p : Pass} {l : Launch} {c : Nat} {starts : List Nat} (h : Keeps Q s₀ s) :
    Keeps Q s₀ (s.meshPlaced die e p l c starts) := h.freeChoice.onLaunch.onPass.addGroup

theorem Keeps.execMeshWavePlace (h : Keeps Q s₀ s) : Ends Q s₀ (execMeshWavePlace s) := by
  unfold Machine.execMeshWavePlace
  refine .next ?_
  split
  · split
    · exact h
    · split
      · exact h
      · refine .ite h.clearBitmap (.ite h (.ite (.ite h.growWait h) ?_))
        split
        · exact h
        · split
          · split
            · exact h.onDie.meshPlaced
            · next e => exact Keeps.snd e h.readCode
            · next e => exact (Keeps.snd e h.readCode).onDie.complete
            · next e => exact (Keeps.snd e h.readCode).onDie.meshPlaced
          · exact h
  · exact h

theorem Keeps.inMesh {act : Nat → Nat → Pass → MeshBlock → State} (h : Keeps Q s₀ s) (hact : ∀ x y z u, Keeps Q s₀ (act x y z u)) :
    Keeps Q s₀ (s.inMesh act) := by
  unfold State.inMesh
  split
  · exact h
  · split
    · refine .ite h.stopHere ?_
      split
      · exact h
      · split
        · exact h
        · exact hact _ _ _ _
    · exact h.stopHere

theorem Keeps.meshWrite {op : FOp} {f : FArgs} {limit n : Nat} {at_ : Nat → Nat} {data : Wave → Nat → Nat} (h : Keeps Q s₀ s) :
    Keeps Q s₀ (s.meshWrite op f limit n at_ data) := by
  unfold State.meshWrite
  refine h.inMesh fun _ _ _ _ => ?_
  split
  · exact h
  · exact .ite (h.whenIssuable (fun _ h => h.stopHere)) h.issueOp

theorem Keeps.execPixout {f : FArgs} (h : Keeps Q s₀ s) : Ends Q s₀ (execPixout f s) := by
  unfold Machine.execPixout
  refine .next ?_
  split
  · exact h
  · split
    · exact h.issueWith (fun _ _ _ h => h.onIssuer.advance)
    · exact h.stopHere

theorem Keeps.execPixdisc (h : Keeps Q s₀ s) : Ends Q s₀ (execPixdisc s) := by
  unfold Machine.execPixdisc
  refine .next ?_
  split
  · split
    · exact h.onIssuer.advance
    · exact h.stopHere
  · exact h

theorem Keeps.appendRef {die slot : Nat} {p : Pass} {t : Nat} {r : Dword} (h : Keeps Q s₀ s) :
    Keeps Q s₀ (s.appendRef die slot p t r) := .ite h.setPass (.ite h.growWait h.frame.setPass)

theorem Keeps.binWrites {die slot : Nat} {p : Pass} (h : Keeps Q s₀ s) : Keeps Q s₀ (s.binWrites die slot p) := by
  unfold State.binWrites
  split
  · next e =>
      have h := Keeps.snd_snd e h.unitWrites
      split
      · exact h.onPass.passFault
      · exact h.onPass

theorem Keeps.execBinBlock (h : Keeps Q s₀ s) : Ends Q s₀ (execBinBlock s) := by
  unfold Machine.execBinBlock
  refine .next ?_
  split
  · split
    · exact h
    · refine .ite h.clearBitmap (.ite h (.ite h.binWrites (.ite h ?_)))
      split
      · exact h.setPass
      · refine .ite h (.ite h.setPass ?_)
        split
        · split
          · next e => exact (Keeps.snd e h.readNext).passFault
          · next e => exact Keeps.snd e h.readNext
        · exact h.setPass.onCsr
        · split
          · exact h.setPass
          · exact h.appendRef
  · exact h

theorem Keeps.declinePass {die slot : Nat} (h : Keeps Q s₀ s) : Keeps Q s₀ (s.declinePass die slot) := h.onPass

theorem Keeps.execBinwaitExpiry (h : Keeps Q s₀ s) : Ends Q s₀ (execBinwaitExpiry s) := by
  unfold Machine.execBinwaitExpiry
  refine .next ?_
  split
  · split
    · exact h
    · exact .ite h.declinePass h
  · exact h

theorem Keeps.execBinpassGrow (h : Keeps Q s₀ s) : Ends Q s₀ (execBinpassGrow s) := by
  unfold Machine.execBinpassGrow
  refine .next ?_
  split
  · exact h.onPass
  · exact h

theorem Keeps.execBinpassDecline (h : Keeps Q s₀ s) : Ends Q s₀ (execBinpassDecline s) := by
  unfold Machine.execBinpassDecline
  refine .next ?_
  split
  · exact h.declinePass
  · exact h

theorem Keeps.execBinpassResume (h : Keeps Q s₀ s) : Ends Q s₀ (execBinpassResume s) := by
  unfold Machine.execBinpassResume
  refine .next ?_
  split
  · exact h.onPass
  · exact h

theorem Keeps.execFinalRender (h : Keeps Q s₀ s) : Ends Q s₀ (execFinalRender s) := by
  unfold Machine.execFinalRender
  refine .next ?_
  split
  · split
    · exact h
    · exact .ite h.setPass h
  · exact h

theorem Keeps.onJob {die slot core : Nat} {f : TileJob → Option TileJob} (h : Keeps Q s₀ s) :
    Keeps Q s₀ (s.onJob die slot core f) := h.onPass

theorem Keeps.pixelPlace {die slot core : Nat} {p : Pass} {j : TileJob} (h : Keeps Q s₀ s) :
    Keeps Q s₀ (s.pixelPlace die slot core p j) := by
  unfold State.pixelPlace
  split
  · exact h
  · split
    · split
      · exact h.onLaunch.addGroup.onWave.onJob
      · split
        · next e => exact Keeps.snd e h.readCode
        · next e => exact (Keeps.snd e h.readCode).complete.onJob
        · next e => exact (Keeps.snd e h.readCode).onLaunch.addGroup.onWave.onJob
    · exact h

theorem Keeps.renderDone {die slot : Nat} {p : Pass} (h : Keeps Q s₀ s) : Keeps Q s₀ (s.renderDone die slot p) :=
  .ite h.setPass.onCsr h.frame

theorem Keeps.tileWrite {die slot core : Nat} {p : Pass} {j : TileJob} (h : Keeps Q s₀ s) :
    Keeps Q s₀ (s.tileWrite die slot core p j) := by
  unfold State.tileWrite
  extract_lets _ _ _
  split
  · next e => exact (Keeps.snd e h.frame.unitWrite).passFault
  · next e => exact (Keeps.snd e h.frame.unitWrite).onJob
  · next e => exact (Keeps.snd e h.frame.unitWrite).onJob

theorem Keeps.takeTile {die slot core : Nat} {p : Pass} (h : Keeps Q s₀ s) :
    Keeps Q s₀ (s.takeTile die slot core p) := by
  unfold State.takeTile
  split
  · exact .ite h h.setPass
  · exact .ite h.renderDone h

theorem Keeps.execTileRender (h : Keeps Q s₀ s) : Ends Q s₀ (execTileRender s) := by
  unfold Machine.execTileRender
  refine .next ?_
  split
  · split
    · exact h
    · refine .ite h ?_
      split
      · exact h.takeTile
      · split
        · split
          · exact h.onJob.frame
          · split
            · next e => exact (Keeps.snd e h.readNext).passFault
            · next e => exact Keeps.snd e h.readNext
        · exact .ite h.pixelPlace (.ite h h.onJob)
        · exact .ite h.tileWrite (.ite h.onJob h.onJob.onPass)
  · exact h

/-! ## Rays -/

theorem Keeps.rayIssue {op : FOp} {f : FArgs} {any : Bool} (h : Keeps Q s₀ s) : Keeps Q s₀ (s.rayIssue op f any) := by
  unfold State.rayIssue
  split
  · exact h
  · refine .ite h (h.issueWith fun _ _ _ h₁ => .ite h.stopWith (.ite h.stopHere (.ite h₁.onIssuer.advance ?_)))
    split
    · exact h.onIssuingSplit.frame
    · exact .ite h.onIssuingSplit.frame h₁.onIssuer.advance

theorem Keeps.onQueries {act : FArgs → Wave → Nat → Query → Wave} (h : Keeps Q s₀ s) :
    Keeps Q s₀ (s.onQueries act) := by
  unfold State.onQueries
  split
  · exact h.onIssuer.advance
  · exact h

theorem Keeps.execRayQueryUpdate (h : Keeps Q s₀ s) : Ends Q s₀ (execRayQueryUpdate s) := by
  unfold Machine.execRayQueryUpdate
  refine .next ?_
  split
  · split
    · exact h
    · split
      · exact h
      · refine .ite h ?_
        split
        · exact h.setWave
        · refine .ite h.setWave (.ite h.invalidReplay ?_)
          split
          · exact h.setWave
          · split
            · next e => exact Keeps.snd e h.readNext
            · next e => exact (Keeps.snd e h.readNext).onWave.takeStop
  · exact h

/-! ## Service -/

theorem Keeps.installStatus {n st : Nat} (h : Keeps Q s₀ s) : Keeps Q s₀ (s.installStatus n st) := h.onCsr

theorem Keeps.installGo {n : Nat} (h : Keeps Q s₀ s) : Keeps Q s₀ (s.installGo n) :=
  .ite h (.ite h.installStatus
    (.ite h.installStatus (.ite h.installStatus (.ite h.installStatus (.ite h.installStatus h.installStatus.onSvc)))))

theorem Keeps.execScInstall (h : Keeps Q s₀ s) : Ends Q s₀ (execScInstall s) := by
  unfold Machine.execScInstall
  refine .next ?_
  split
  · exact .ite h.installGo h
  · exact h

theorem Keeps.execScInstallComplete (h : Keeps Q s₀ s) : Ends Q s₀ (execScInstallComplete s) := by
  unfold Machine.execScInstallComplete
  refine .next ?_
  split
  · split
    · exact h
    · exact .ite h (h.onSvc.foldl (fun _ _ h => h.setCsr)).installStatus.onCsr
  · exact h

theorem Keeps.svcRestart {n : Nat} (h : Keeps Q s₀ s) : Keeps Q s₀ (s.svcRestart n) := by
  unfold State.svcRestart
  dsimp only
  split
  · exact h.onSvc
  · exact h

theorem Keeps.execScRestart (h : Keeps Q s₀ s) : Ends Q s₀ (execScRestart s) := by
  unfold Machine.execScRestart
  refine .next ?_
  split
  · exact .ite h.svcRestart h
  · exact h

theorem Keeps.svcTake {n : Nat} (h : Keeps Q s₀ s) : Keeps Q s₀ (s.svcTake n) := by
  unfold State.svcTake
  refine .ite h ?_
  split
  · exact h
  · exact h.onSvc

theorem Keeps.execScEventTake (h : Keeps Q s₀ s) : Ends Q s₀ (execScEventTake s) := by
  unfold Machine.execScEventTake
  refine .next ?_
  split
  · exact h.svcTake
  · exact h

theorem Keeps.execEvpendClear (h : Keeps Q s₀ s) : Ends Q s₀ (execEvpendClear s) := by
  unfold Machine.execEvpendClear
  refine .next ?_
  split
  · exact h.onCsr
  · exact h

theorem Keeps.execWfe {a : SArgs} (h : Keeps Q s₀ s) : Ends Q s₀ (execWfe a s) := by
  unfold Machine.execWfe
  refine .next ?_
  split
  · exact h.stopHere
  · exact h.scalarIssue (fun _ _ h => h.onSvc.advance)

theorem Keeps.execWfeTimeout (h : Keeps Q s₀ s) : Ends Q s₀ (execWfeTimeout s) := by
  unfold Machine.execWfeTimeout
  refine .next ?_
  split
  · exact h.onSvc
  · exact h

theorem Keeps.execEvret (h : Keeps Q s₀ s) : Ends Q s₀ (execEvret s) := by
  unfold Machine.execEvret
  refine .next ?_
  split
  · exact h.stopHere
  · dsimp only
    split
    · exact h.onSvc
    · exact h.stopHere

/-! ## Debug -/

theorem Keeps.windowErr {core : Nat} (h : Keeps Q s₀ s) : Keeps Q s₀ (s.windowErr core) := h.onCore

theorem Keeps.windowResume {core wave : Nat} {skip flush : Bool} (h : Keeps Q s₀ s) :
    Keeps Q s₀ (s.windowResume core wave skip flush) := by
  unfold State.windowResume
  split
  · exact h.windowErr
  · exact .ite h.resumeWave h.windowErr

theorem Keeps.execWcmdResume (h : Keeps Q s₀ s) : Ends Q s₀ (execWcmdResume s) := by
  unfold Machine.execWcmdResume
  refine .next ?_
  split
  · exact h.windowResume
  · exact h

theorem Keeps.execWcmdStep (h : Keeps Q s₀ s) : Ends Q s₀ (execWcmdStep s) := by
  unfold Machine.execWcmdStep
  refine .next ?_
  split
  · split
    · exact h.windowErr
    · exact .ite h.resumeWave.onWave h.windowErr
  · exact h

theorem Keeps.execDebugStepStop (h : Keeps Q s₀ s) : Ends Q s₀ (execDebugStepStop s) := by
  unfold Machine.execDebugStepStop
  refine .next ?_
  split
  · split
    · exact h
    · exact .ite h.takeStop h
  · exact h

theorem Keeps.execWcmdKill (h : Keeps Q s₀ s) : Ends Q s₀ (execWcmdKill s) := by
  unfold Machine.execWcmdKill
  refine .next ?_
  split
  · split
    · exact h.windowErr
    · exact h.killOrDiscard
  · exact h

theorem Keeps.execWcmdHalt (h : Keeps Q s₀ s) : Ends Q s₀ (execWcmdHalt s) := by
  unfold Machine.execWcmdHalt
  refine .next ?_
  split
  · split
    · exact h.takeStop
    · exact h
    · exact h.windowErr
  · exact h

theorem Keeps.putWindowItem {core wave : Nat} {w : Wave} {space index : Nat} {v : Dword} (h : Keeps Q s₀ s) :
    Keeps Q s₀ (s.putWindowItem core wave w space index v) := by
  unfold State.putWindowItem
  split
  · exact .ite h.setWave h
  · exact h.setWave
  · exact h.setWave
  · exact h.setWave
  · exact h.setWave
  · split <;> exact h.setWave
  · exact h.setWave
  · exact .ite h.storeScratch h
  · exact .ite h.onGroup h
  · exact h

theorem Keeps.bumpIndex {core : Nat} (h : Keeps Q s₀ s) : Keeps Q s₀ (s.bumpIndex core) := h.onCsr

theorem Keeps.windowRead {core : Nat} (h : Keeps Q s₀ s) : Keeps Q s₀ (s.windowRead core) := by
  unfold State.windowRead
  refine .bumpIndex (.setCsr (.setCsr ?_))
  split
  · exact h
  · split
    · exact .pair h.frame
    · exact h.freeDword

theorem Keeps.windowWrite {core : Nat} {v : Word} (h : Keeps Q s₀ s) : Keeps Q s₀ (s.windowWrite core v) := by
  unfold State.windowWrite
  refine .bumpIndex ?_
  split
  · exact h.setCsr
  · exact .ite h.setCsr.putWindowItem h.setCsr

theorem Keeps.execWdataloRead (h : Keeps Q s₀ s) : Ends Q s₀ (execWdataloRead s) := by
  unfold Machine.execWdataloRead
  refine .next ?_
  split
  · exact h.windowRead
  · exact h

theorem Keeps.execWdataloWrite (h : Keeps Q s₀ s) : Ends Q s₀ (execWdataloWrite s) := by
  unfold Machine.execWdataloWrite
  refine .next ?_
  split
  · exact h.windowWrite
  · exact h

/-! ## Umpire -/

theorem Keeps.execUmpctxAbandon (h : Keeps Q s₀ s) : Ends Q s₀ (execUmpctxAbandon s) := by
  unfold Machine.execUmpctxAbandon
  refine .next ?_
  split
  · exact h.abandonSamples
  · exact h

theorem Keeps.unbench {core : Nat} (h : Keeps Q s₀ s) : Keeps Q s₀ (s.unbench core) := h.setCsr

theorem Keeps.execFoulUnbench (h : Keeps Q s₀ s) : Ends Q s₀ (execFoulUnbench s) := by
  unfold Machine.execFoulUnbench
  refine .next ?_
  split
  · exact h.unbench
  · exact h

theorem Keeps.execSelfTestComplete (h : Keeps Q s₀ s) : Ends Q s₀ (execSelfTestComplete s) := by
  unfold Machine.execSelfTestComplete
  refine .next ?_
  split
  · exact h.onCsr
  · exact h

theorem Keeps.coreErr {core off : Nat} (h : Keeps Q s₀ s) : Keeps Q s₀ (s.coreErr core off) := h.onCsr

theorem Keeps.badEvent {die core : Nat} (h : Keeps Q s₀ s) : Keeps Q s₀ (s.badEvent die core) := h.event.pend

theorem Keeps.poolError {core : Nat} (h : Keeps Q s₀ s) : Keeps Q s₀ (s.poolError core) :=
  h.coreErr.badEvent.foulStep.benchDrain

theorem Keeps.poisonSector {addr : Nat} (h : Keeps Q s₀ s) : Keeps Q s₀ (s.poisonSector addr) := h.frame

theorem Keeps.eccError {e : EccReport} (h : Keeps Q s₀ s) : Keeps Q s₀ (s.eccError e) := by
  unfold State.eccError
  split
  · exact .ite h.onWave.poolError h.coreErr
  · exact .ite h.onWave.poolError h.coreErr
  · exact .ite h.onGroup.poolError h.coreErr
  · exact .ite h.onGroup.poolError h.coreErr
  · exact .ite h.dropLines.badEvent h.coreErr
  · exact .ite h.onCsr.poisonSector.badEvent h.onCsr
  · exact .ite h.onCsr.poisonSector.badEvent h.onCsr

theorem Keeps.execEccError (h : Keeps Q s₀ s) : Ends Q s₀ (execEccError s) := by
  unfold Machine.execEccError
  refine .next ?_
  split
  · exact h.eccError
  · exact h

theorem Keeps.eccStart {die : Nat} (h : Keeps Q s₀ s) : Keeps Q s₀ (s.eccStart die) := by
  unfold State.eccStart
  split
  · exact .ite h.onCsr.trimL2 h
  · exact .ite h h.onCsr
  · exact h

theorem Keeps.eccReq {die : Nat} {v : Word} (h : Keeps Q s₀ s) : Keeps Q s₀ (s.eccReq die v) :=
  .ite h (.ite h h.setCsr.eccStart)

theorem Keeps.execL2eccReqWrite (h : Keeps Q s₀ s) : Ends Q s₀ (execL2eccReqWrite s) := by
  unfold Machine.execL2eccReqWrite
  refine .next ?_
  split
  · exact h.eccReq
  · exact h

theorem Keeps.execL2eccSwitchDone (h : Keeps Q s₀ s) : Ends Q s₀ (execL2eccSwitchDone s) := by
  unfold Machine.execL2eccSwitchDone
  refine .next ?_
  split
  · split
    · exact h.onCsr.pend.eccStart
    · exact h.onCsr.pend.eccStart
    · exact h
  · exact h

theorem Keeps.railNow {die : Nat} (h : Keeps Q s₀ s) : Keeps Q s₀ (s.railNow die) := h.frame

theorem Keeps.vsramTarget {die : Nat} {v : Word} (h : Keeps Q s₀ s) : Keeps Q s₀ (s.vsramTarget die v) :=
  .ite h.onCsr (Keeps.ite h.railNow h).onCsr

theorem Keeps.execVsramTargetWrite (h : Keeps Q s₀ s) : Ends Q s₀ (execVsramTargetWrite s) := by
  unfold Machine.execVsramTargetWrite
  refine .next ?_
  split
  · exact h.vsramTarget
  · exact h

theorem Keeps.execVsramStep (h : Keeps Q s₀ s) : Ends Q s₀ (execVsramStep s) := by
  unfold Machine.execVsramStep
  refine .next ?_
  split
  · exact .ite h h.railNow.onCsr
  · exact h

/-! ## Cluster -/

theorem Keeps.onSts {die n : Nat} {f : Word → Word} (h : Keeps Q s₀ s) : Keeps Q s₀ (s.onSts die n f) :=
  .ite h.setCsr h.setCsr.pend

theorem Keeps.drainCluster {die n : Nat} (h : Keeps Q s₀ s) : Keeps Q s₀ (s.drainCluster die n) :=
  .ite (h.foldl (fun _ _ h => h.foldl (fun _ _ h => .ite h.discardCluster h))) h

theorem Keeps.coresReset {die n : Nat} (h : Keeps Q s₀ s) : Keeps Q s₀ (s.coresReset die n) :=
  h.foldl (fun _ _ h => h.setCsr.setCsr.setCsr.onCore)

theorem Keeps.retain {die n : Nat} (h : Keeps Q s₀ s) : Keeps Q s₀ (s.retain die n) := h.foldl (fun _ _ h => h.onCore)

theorem Keeps.cpcWrite {die n : Nat} {v : Word} (h : Keeps Q s₀ s) : Keeps Q s₀ (s.cpcWrite die n v) := by
  unfold State.cpcWrite
  extract_lets old new sts up down stored waking retained quiet fresh raised asleep
  split
  · exact h.onSts
  have hs : Keeps Q s₀ stored := h.setCsr
  have hw : Keeps Q s₀ waking := .ite hs.onSts hs
  have hr : Keeps Q s₀ retained := .ite hw.retain hw
  have hq : Keeps Q s₀ quiet := .ite hr.onSts hr
  have hf : Keeps Q s₀ fresh := .ite hq.coresReset.onSts hq
  have hu : Keeps Q s₀ raised := .ite hf.onSts hf
  have ha : Keeps Q s₀ asleep := .ite hu.onSts hu
  exact ha.drainCluster

theorem Keeps.cpcBit {die n k : Nat} {on : Bool} (h : Keeps Q s₀ s) : Keeps Q s₀ (s.cpcBit die n k on) := h.cpcWrite

theorem Keeps.cpcEvent {act : Nat → Nat → State} (h : Keeps Q s₀ s) (hact : ∀ x y, Keeps Q s₀ (act x y)) :
    Keeps Q s₀ (s.cpcEvent act) := by
  unfold State.cpcEvent
  split
  · exact .ite (hact _ _) h
  · exact h

theorem Keeps.cpcWake {die n : Nat} (h : Keeps Q s₀ s) : Keeps Q s₀ (s.cpcWake die n) := .ite h.onCsr.onSts h.onSts

/-! ## Thermal -/

theorem Keeps.setEstep {z e : Nat} (h : Keeps Q s₀ s) : Keeps Q s₀ (s.setEstep z e) := by
  unfold State.setEstep
  extract_lets t
  exact .frame (s := t) h.onCsr

theorem Keeps.setTries {z n : Nat} (h : Keeps Q s₀ s) : Keeps Q s₀ (s.setTries z n) := h.onCsr

theorem Keeps.zoneEvent {z i : Nat} (h : Keeps Q s₀ s) : Keeps Q s₀ (s.zoneEvent z i) := h.onCsr.onCsr.pend

theorem Keeps.recap {c : Nat} {f : CoreFlow → CoreFlow} (h : Keeps Q s₀ s) : Keeps Q s₀ (s.recap c f) :=
  h.onFlow.refreshClock

theorem Keeps.capAround {z : Nat} {on : Bool} (h : Keeps Q s₀ s) : Keeps Q s₀ (s.capAround z on) :=
  h.foldl (fun _ _ h => h.recap)

theorem Keeps.evacPurge {z : Nat} (h : Keeps Q s₀ s) : Keeps Q s₀ (s.evacPurge z) := h.onCatHi.setEstep

theorem Keeps.evacBegin {z : Nat} (h : Keeps Q s₀ s) : Keeps Q s₀ (s.evacBegin z) := by
  unfold State.evacBegin
  extract_lets r t
  have ht : Keeps Q s₀ t := Keeps.frame (s := r) h.setZoneState.setTries
  clear_value r t
  split
  · extract_lets u v
    have hv : Keeps Q s₀ v := ht.recap.setEstep.foldl fun _ _ h => .ite h.discardCluster h
    exact hv.foldl fun _ _ h => h.takeStop
  · exact .ite ht.capAround.evacPurge ht.evacPurge

theorem Keeps.execEvacE2 (h : Keeps Q s₀ s) : Ends Q s₀ (execEvacE2 s) := by
  unfold Machine.execEvacE2
  refine .next ?_
  split
  · split
    · exact .ite h.capAround.evacPurge h
    · exact h
  · exact h

theorem Keeps.evacRailoff {z : Nat} (h : Keeps Q s₀ s) : Keeps Q s₀ (s.evacRailoff z) := by
  unfold State.evacRailoff
  split
  · exact h
  · exact .ite h.onCsr.coresReset.onSts h

theorem Keeps.evacFail {z : Nat} (h : Keeps Q s₀ s) : Keeps Q s₀ (s.evacFail z) := by
  unfold State.evacFail
  refine .regrant ?_
  split
  · exact (Keeps.ite h.setZoneState.setEstep h.setZoneState.setEstep.bench).benchDrain.setEstep.evacRailoff
  · exact .ite (h.setZoneState.setEstep.foldl (fun _ _ h => .ite h h.bench)).benchDrain
      (h.setZoneState.setEstep.foldl (fun _ _ h => h.recap))

theorem Keeps.execEvacE3 (h : Keeps Q s₀ s) : Ends Q s₀ (execEvacE3 s) := by
  unfold Machine.execEvacE3
  refine .next ?_
  split
  · exact .ite h (.ite h.setEstep (.ite (.ite h.onCsr.setEstep (.ite h.onCsr.setTries.evacFail h.onCsr.setTries.evacPurge)) h))
  · exact h

theorem Keeps.execEvacE4 (h : Keeps Q s₀ s) : Ends Q s₀ (execEvacE4 s) := by
  unfold Machine.execEvacE4
  refine .next ?_
  split
  · refine .ite ?_ h
    split
    · exact h.setEstep.capAround.setZoneState.recap.regrant.applyClass
    · exact .ite (h.setEstep.capAround.setZoneState.regrant.foldl (fun _ _ h => h.recap)) h.setEstep.capAround.setZoneState.regrant
  · exact h

theorem Keeps.lowerClasses {n : Nat} (h : Keeps Q s₀ s) : Keeps Q s₀ (State.lowerClasses n s) := by
  induction n generalizing s with
  | zero => exact h
  | succ n ih =>
    unfold State.lowerClasses
    refine .ite h ?_
    split
    · exact h
    · exact ih h.frame.setClass

theorem Keeps.raiseClasses {n : Nat} (h : Keeps Q s₀ s) : Keeps Q s₀ (State.raiseClasses n s) := by
  induction n generalizing s with
  | zero => exact h
  | succ n ih =>
    unfold State.raiseClasses
    split
    · exact h
    · exact .ite (ih h.frame) (.ite h (ih h.setClass.frame))

theorem Keeps.storeReading {r : ZoneReading} (h : Keeps Q s₀ s) : Keeps Q s₀ (s.storeReading r) :=
  h.setCsr.setCsr.onCsr.onCatHi

theorem Keeps.testReading {r : ZoneReading} (h : Keeps Q s₀ s) : Keeps Q s₀ (s.testReading r) := by
  unfold State.testReading
  extract_lets z lim tlimit grant old t hot u v low w x diff stuck y p
  have hu : Keeps Q s₀ u := .ite h.storeReading.zoneEvent h.storeReading
  have hv : Keeps Q s₀ v := by
    show Keeps Q s₀ (match zoneCore z with | some c => _ | none => _)
    split
    · exact .ite hu.recap (.ite hu.recap hu)
    · exact hu
  have hx : Keeps Q s₀ x := .ite (Keeps.zoneEvent (hv.frame (t := w))) (hv.frame (t := w))
  have hp : Keeps Q s₀ p := .ite (Keeps.zoneEvent (hx.frame (t := y))) (hx.frame (t := y))
  exact .ite (.ite hp.zoneEvent.evacBegin hp.zoneEvent) hp

theorem Keeps.execCfuSample (h : Keeps Q s₀ s) : Ends Q s₀ (execCfuSample s) := by
  unfold Machine.execCfuSample
  refine .next ?_
  split
  · exact (Keeps.ite (h.foldl (fun _ _ h => h.testReading)).frame.pend.lowerClasses
      (h.foldl (fun _ _ h => h.testReading)).frame.raiseClasses).regrant.foldl (fun _ _ h => h.evacRailoff)
  · exact h

theorem Keeps.catStage {addr : Nat} {v : Word} (h : Keeps Q s₀ s) : Keeps Q s₀ (s.catStage addr v) := h.frame

theorem Keeps.execCatWrite (h : Keeps Q s₀ s) : Ends Q s₀ (execCatWrite s) := by
  unfold Machine.execCatWrite
  refine .next ?_
  split
  · exact .ite h.catStage h
  · exact h

theorem Keeps.catApply {z : Nat} (h : Keeps Q s₀ s) : Keeps Q s₀ (s.catApply z) := by
  unfold State.catApply
  refine .ite h ?_
  extract_lets lo hi t u
  clear_value lo hi
  have ht : Keeps Q s₀ t := by
    unfold t
    split
    · exact h
    · exact h.onCatHi
  have hu : Keeps Q s₀ u := by
    unfold u
    split
    · exact ht
    · exact ht.onCatLo
  clear_value t u
  split
  · exact .ite hu.onCatLo hu
  · exact hu

theorem Keeps.catCommit {v : Word} (h : Keeps Q s₀ s) : Keeps Q s₀ (s.catCommit v) :=
  .ite h.setCsr
    (.ite h.setCsr.onCsr
      ((h.setCsr.foldl (fun _ _ h => h.catApply)).frame.foldl (fun _ _ h => h.setZoneState.setTries.evacPurge)).regrant)

theorem Keeps.execCatCommit (h : Keeps Q s₀ s) : Ends Q s₀ (execCatCommit s) := by
  unfold Machine.execCatCommit
  refine .next ?_
  split
  · exact h.catCommit
  · exact h

theorem Keeps.execClockRaise (h : Keeps Q s₀ s) : Ends Q s₀ (execClockRaise s) := by
  unfold Machine.execClockRaise
  refine .next ?_
  split
  · exact .ite h.recap h
  · exact h

theorem Keeps.execPowerMeasure (h : Keeps Q s₀ s) : Ends Q s₀ (execPowerMeasure s) := by
  unfold Machine.execPowerMeasure
  refine .next ?_
  split
  · refine .ite ?_ ?_
    · split
      · exact h.recap
      · exact h
    · refine .ite ?_ h
      split
      · exact h.recap
      · exact h
  · exact h

/-! ## Csr -/

theorem Keeps.asEvent {e : EventArgs} {f : State → Out} (h : Keeps Q s₀ s) (hf : ∀ t, Ends Q t (f t)) :
    Keeps Q s₀ (s.asEvent e f) := by
  unfold State.asEvent
  split
  · next t ht =>
    have k := hf _ t ht
    exact h.trans ⟨k.mem, k.csr, k.cur, fun _ => rfl⟩
  · exact h

theorem Keeps.csrRead {space a : Nat} (h : Keeps Q s₀ s) : Keeps Q s₀ (s.csrRead space a).2 := by
  unfold State.csrRead
  split
  · exact h
  · split
    · exact .pair h.windowRead
    · exact h

theorem Keeps.tlbinvGo {v : Word} (h : Keeps Q s₀ s) : Keeps Q s₀ (s.tlbinvGo v) := .ite h.setCsr.frame h.setCsr

theorem Keeps.execTlbinvGo (h : Keeps Q s₀ s) : Ends Q s₀ (execTlbinvGo s) := by
  unfold Machine.execTlbinvGo
  refine .next ?_
  split
  · exact h.tlbinvGo
  · exact h

theorem Keeps.execTlbinvDone (h : Keeps Q s₀ s) : Ends Q s₀ (execTlbinvDone s) := by
  unfold Machine.execTlbinvDone
  refine .next (.ite h ?_)
  extract_lets t u v
  have hu : Keeps Q s₀ u := .ite h.forget h.forget.onCores
  clear_value u
  exact .frame (s := v) hu.onCsr

theorem Keeps.enableWrite {k : Nat} {v : Word} (h : Keeps Q s₀ s) : Keeps Q s₀ (s.enableWrite k v) :=
  .ite h.linkErr (h.setCsr.foldl (fun _ _ h => h.refreshClock))

theorem Keeps.execEnableWrite (h : Keeps Q s₀ s) : Ends Q s₀ (execEnableWrite s) := by
  unfold Machine.execEnableWrite
  refine .next ?_
  split
  · exact .ite h.enableWrite h
  · exact h

theorem Keeps.stageAdvance (h : Keeps Q s₀ s) : Keeps Q s₀ s.stageAdvance := .ite h.frame h

theorem Keeps.execStageSelfTestDone (h : Keeps Q s₀ s) : Ends Q s₀ (execStageSelfTestDone s) := by
  unfold Machine.execStageSelfTestDone
  refine .next ?_
  split
  · exact .ite h (.ite (h.frame.setCsr.foldl (fun _ _ h => h.refreshClock)) h.frame.event)
  · exact h

theorem Keeps.fusetimeWrite {core : Nat} {v : Word} (h : Keeps Q s₀ s) : Keeps Q s₀ (s.fusetimeWrite core v) :=
  .ite h h.setCsr

theorem Keeps.execFusetimeWrite (h : Keeps Q s₀ s) : Ends Q s₀ (execFusetimeWrite s) := by
  unfold Machine.execFusetimeWrite
  refine .next ?_
  split
  · exact h.fusetimeWrite
  · exact h

theorem Keeps.putBits {space a : Nat} {m v : Word} (h : Keeps Q s₀ s) : Keeps Q s₀ (s.putBits space a m v) := h.onCsr

theorem Keeps.wcmdWrite {core : Nat} {v : Word} (h : Keeps Q s₀ s) : Keeps Q s₀ (s.wcmdWrite core v) := by
  unfold State.wcmdWrite
  refine .ite h.putBits ?_
  split
  · exact h.putBits.asEvent (fun _ => Keeps.refl.execWcmdResume)
  · exact h.putBits.asEvent (fun _ => Keeps.refl.execWcmdStep)
  · exact h.putBits.asEvent (fun _ => Keeps.refl.execWcmdKill)
  · exact h.putBits.asEvent (fun _ => Keeps.refl.execWcmdHalt)
  · exact h.putBits

theorem Keeps.windowCsrWrite {core o : Nat} {v : Word} (h : Keeps Q s₀ s) : Keeps Q s₀ (s.windowCsrWrite core o v) := by
  unfold State.windowCsrWrite
  split
  · exact h.putBits
  · exact h.wcmdWrite
  · exact .ite h.onCore h
  · exact h.setCsr
  · exact h.windowWrite
  · exact h.setCsr
  · exact h

theorem Keeps.binpassWrite {die slot : Nat} {v : Word} (h : Keeps Q s₀ s) : Keeps Q s₀ (s.binpassWrite die slot v) := by
  unfold State.binpassWrite
  extract_lets t u
  have ht : Keeps Q s₀ t := h.putBits
  have hu : Keeps Q s₀ u := .ite (ht.asEvent (fun _ => Keeps.refl.execBinpassResume)) ht
  clear_value t u
  exact .ite (hu.asEvent (fun _ => Keeps.refl.execBinpassDecline)) (.ite (hu.asEvent (fun _ => Keeps.refl.execBinpassGrow)) hu)

theorem Keeps.eventCsrWrite {space a : Nat} {ag : Agent} {v : Word} (h : Keeps Q s₀ s) :
    Keeps Q s₀ (s.eventCsrWrite space a ag v) := by
  unfold State.eventCsrWrite
  split
  · exact h.onCsr
  · exact h.putBits
  · exact h.setCsr
  · exact .ite h.setCsr.pend h.setCsr
  · exact .ite h.setCsr h

theorem Keeps.dieCsrWrite {ag : Agent} {d a : Nat} {v : Word} (h : Keeps Q s₀ s) :
    Keeps Q s₀ (s.dieCsrWrite ag d a v) := by
  unfold State.dieCsrWrite
  refine .ite h.putBits (.ite (.ite h (h.asEvent (fun _ => Keeps.refl.execDiscardGo))) ?_)
  refine .ite (.ite h.unbench h) (.ite (.ite h.eccReq h) (.ite (.ite h.vsramTarget h) (.ite (.ite h.onCsr h) ?_)))
  refine .ite ?_
    (.ite (.ite h h.putBits.refreshClock)
      (.ite h.eventCsrWrite (.ite (.ite h h.binpassWrite) (.ite h.setCsr (.ite h.fusetimeWrite (.ite h.windowCsrWrite h))))))
  split
  · exact h.cpcWrite
  · exact h.onSts
  · exact .ite h.cpcWake h
  · exact h.setCsr
  · exact h.setCsr
  · exact h

theorem Keeps.entryWrite {a : Nat} {v : Word} (h : Keeps Q s₀ s) : Keeps Q s₀ (s.entryWrite a v) := by
  unfold State.entryWrite
  refine .ite (.ite h.putBits h) (.ite h.putBits (.ite h.putBits (.ite h.tlbinvGo (.ite ?_ ?_))))
  · split
    · exact h.setCsr
    · exact h.putBits
    · exact .ite h.putBits h
    · exact h
  · refine .ite ?_ ?_
    · split
      · exact h.putBits
      · exact h.putBits
      · exact .ite h.putBits h
      · exact h
    · refine .ite ?_ ?_
      · split
        · exact h.putBits
        · exact h.putBits
        · exact .ite h.putBits h
        · exact h
      · refine .ite ?_ ?_
        · split
          · exact .ite h.putBits h
          · exact h.setCsr
          · exact .ite h.abandonSamples h
          · exact h
        · refine .ite ?_ (.ite h.putBits (.ite h.enableWrite h))
          split
          · exact .ite h.svcRestart h
          · exact h.putBits
          · exact .ite h.putBits.installGo h.putBits
          · exact h

theorem Keeps.hubCsrWrite {ag : Agent} {a : Nat} {v : Word} (h : Keeps Q s₀ s) : Keeps Q s₀ (s.hubCsrWrite ag a v) := by
  unfold State.hubCsrWrite
  refine .ite h.eventCsrWrite ?_
  refine .ite ?_
    (.ite h.onCsr
      (.ite h.catCommit (.ite h.onCsr (.ite (.ite h.setCsr h) (.ite h.catStage (.ite (.ite h.stageAdvance h) (.ite h.entryWrite h)))))))
  refine .ite h ?_
  split
  · exact h.putBits
  · exact h.putBits
  · exact h.putBits
  · exact h

theorem Keeps.csrWrite {ag : Agent} {space a : Nat} {v : Word} (h : Keeps Q s₀ s) :
    Keeps Q s₀ (s.csrWrite ag space a v) := .ite h.hubCsrWrite h.dieCsrWrite

theorem Keeps.execRegisterWrite (h : Keeps Q s₀ s) : Ends Q s₀ (execRegisterWrite s) := by
  unfold Machine.execRegisterWrite
  refine .next ?_
  split
  · exact .ite h.csrWrite h
  · exact h

theorem Keeps.csrOp {a : SArgs} {u : Uses} {act : Nat → Nat → Nat → (Nat → Word) → State → State} (h : Keeps Q s₀ s)
    (hact : ∀ x y z u t, Keeps Q s₀ t → Keeps Q s₀ (act x y z u t)) : Keeps Q s₀ (s.csrOp a u act) := by
  unfold State.csrOp
  split
  · exact h.stopHere
  · split
    · exact h.stopHere
    · exact .ite h.stopWith (h.scalarIssue (fun _ _ h => (hact _ _ _ _ _ h).advance))

/-! ## Access -/

theorem Keeps.walkEnded {x : PageWalk} {r : Walked} (h : Keeps Q s₀ s) : Keeps Q s₀ (s.walkEnded x r) := by
  unfold State.walkEnded
  split
  · exact h
  · split
    · exact h
    · refine .ite h ?_
      dsimp only
      split
      · split
        · exact .ite h.setWave.checkOp h.setWave
        · exact h.setWave
      · exact h.setWave

theorem Keeps.walkStep {die n : Nat} (h : Keeps Q s₀ s) : Keeps Q s₀ (s.walkStep die n) := by
  unfold State.walkStep
  split
  · exact h
  · dsimp only
    split
    · exact h.frame.onDie
    · exact (Keeps.ite h.frame.onDie.countWalk.takeWalks.tlbFill h.frame.onDie.countWalk.takeWalks).walkEnded

theorem Keeps.execPageWalkComplete (h : Keeps Q s₀ s) : Ends Q s₀ (execPageWalkComplete s) := by
  unfold Machine.execPageWalkComplete
  refine .next ?_
  split
  · exact h.walkStep
  · split
    · exact h
    · split
      · exact h
      · exact .ite h (.ite h.checkOp h.requestWalks)
  · exact h

theorem Keeps.markDone {core wave id k : Nat} {bs : List Byte} (h : Keeps Q s₀ s) :
    Keeps Q s₀ (s.markDone core wave id k bs) := h.onWave

theorem Keeps.poisonStop {core wave : Nat} {o : MemOp} {u : AccUnit} (h : Keeps Q s₀ s) :
    Keeps Q s₀ (s.poisonStop core wave o u) := h.onWave.takeStop

theorem Keeps.noteScratch {core wave : Nat} {o : MemOp} {u : AccUnit} (h : Keeps Q s₀ s) :
    Keeps Q s₀ (s.noteScratch core wave o u) := by
  unfold State.noteScratch
  exact .breakB h.onWave

theorem Keeps.doScratch {core wave : Nat} {o : MemOp} {k : Nat} {u : AccUnit} (h : Keeps Q s₀ s) :
    Keeps Q s₀ (s.doScratch core wave o k u) := by
  unfold State.doScratch
  refine .ite h.poisonStop ?_
  split
  · exact h.noteScratch.putScratch.markDone
  · exact h.noteScratch.putScratch.markDone
  · exact h.markDone

theorem Keeps.doMemory {core wave ctx : Nat} {o : MemOp} {k : Nat} {u : AccUnit} (h : Keeps Q s₀ s) :
    Keeps Q s₀ (s.doMemory core wave ctx o k u) := by
  unfold State.doMemory
  refine .ite h.poisonStop ?_
  split
  · exact h.writeHome.markDone
  · exact (Keeps.ite h.writeHome h.writeHome.fillL2).markDone
  · exact (Keeps.ite (Keeps.ite h.dropSectors h.dropSectors.fillL2).fillL1 (.ite h.dropSectors h.dropSectors.fillL2)).markDone

theorem Keeps.doCsr {core wave ctx : Nat} {o : MemOp} {k : Nat} {u : AccUnit} {space a : Nat} (h : Keeps Q s₀ s) :
    Keeps Q s₀ (s.doCsr core wave ctx o k u space a) := by
  unfold State.doCsr
  split
  · exact (Keeps.ite h (h.foldl (fun _ _ h => h.csrWrite))).markDone
  · exact .ite h.freeDword.freeDword.markDone (h.foldl_snd (fun _ _ h => .pair h.csrRead)).markDone

theorem Keeps.unitCsr {r : Reader} {ctx va space a n : Nat} {data : List Byte} (h : Keeps Q s₀ s) :
    Keeps Q s₀ (s.unitCsr r ctx va space a n data) :=
  .ite (Keeps.ite h (h.foldl (fun _ _ h => h.csrWrite))).readerAnswer (.ite h.freeDword.readerAnswer h.csrRead.readerAnswer)

theorem Keeps.doWindow {core wave : Nat} {w : Wave} {o : MemOp} {k : Nat} {u : AccUnit} {port off : Nat} (h : Keeps Q s₀ s) :
    Keeps Q s₀ (s.doWindow core wave w o k u port off) := by
  unfold State.doWindow
  split <;> exact h.onWave.ask

theorem Keeps.acquired {core wave id k : Nat} (h : Keeps Q s₀ s) : Keeps Q s₀ (s.acquired core wave id k) := by
  unfold State.acquired
  split
  · exact h
  · exact .ite h.acquireAt h

theorem Keeps.countStore {core wave : Nat} {w : Wave} {o : MemOp} (h : Keeps Q s₀ s) :
    Keeps Q s₀ (s.countStore core wave w o) := .ite (h.foldl (fun _ _ h => .ite h.onGroup.onWave h)) h

theorem Keeps.finishStore {core wave id : Nat} (h : Keeps Q s₀ s) : Keeps Q s₀ (s.finishStore core wave id) := by
  unfold State.finishStore
  split
  · exact h
  · split
    · exact h
    · exact .ite h.countStore.onWave h

theorem Keeps.stealsLost {victim launch : Nat} (h : Keeps Q s₀ s) : Keeps Q s₀ (s.stealsLost victim launch) := by
  unfold State.stealsLost
  refine h.foldl fun _ _ h => ?_
  split
  · exact h
  · exact h.foldl (fun _ _ h => .ite (Keeps.ite h.frame h).markDone (.ite h.frame h))

theorem Keeps.performAsync {core wave : Nat} {w : Wave} {o : MemOp} {op : AsyncOp} (h : Keeps Q s₀ s) :
    Keeps Q s₀ (s.performAsync core wave w o op) := by
  unfold State.performAsync
  split
  next e =>
  have h := Keeps.snd e h.doAsync
  extract_lets u
  have hu : Keeps Q s₀ u := h.markDone
  clear_value u
  refine .ite hu ?_
  split
  · exact hu.stealsLost
  · exact .ite hu.stealsLost hu
  · exact hu

theorem Keeps.performUnit {core wave : Nat} {o : MemOp} {k : Nat} {u : AccUnit} (h : Keeps Q s₀ s) :
    Keeps Q s₀ (s.performUnit core wave o k u) := by
  unfold State.performUnit
  split
  · exact h
  · refine .finishStore (.acquired (.ite h.doScratch (.ite h.markDone ?_)))
    split
    · exact h.doMemory
    · exact h.doCsr
    · split
      · exact h.doWindow
      · exact h

theorem Keeps.performNear {core wave : Nat} {w : Wave} {o : MemOp} {k : Nat} {u : AccUnit} (h : Keeps Q s₀ s) :
    Keeps Q s₀ (s.performNear core wave w o k u) := by
  unfold State.performNear
  refine .ite h ?_
  split
  · exact .ite h h.onWave.frame
  · exact h
  · exact h
  · exact h
  · exact h
  · split
    · exact h.touchL1.markDone.acquired
    · exact h.poisonStop
    · exact h

theorem Keeps.reachCore {core wave id k dest : Nat} (h : Keeps Q s₀ s) :
    Keeps Q s₀ (s.reachCore core wave id k dest) := by
  unfold State.reachCore
  split
  · exact h
  · exact .ite h h.onWave

theorem Keeps.performFence {core wave : Nat} {w : Wave} {o : MemOp} {ord : BitVec 2} {k : Nat} {u : AccUnit} (h : Keeps Q s₀ s) :
    Keeps Q s₀ (s.performFence core wave w o ord k u) := .ite h (Keeps.ite h.acquireAt h).onWave

theorem Keeps.performUnits {core wave id : Nat} {ks : List Nat} (h : Keeps Q s₀ s) :
    Keeps Q s₀ (s.performUnits core wave id ks) := by
  unfold State.performUnits
  refine h.foldl fun _ _ h => ?_
  split
  · split
    · exact .ite h h.performUnit
    · exact h
  · exact h

theorem Keeps.execMemoryAccessPerform (h : Keeps Q s₀ s) : Ends Q s₀ (execMemoryAccessPerform s) := by
  unfold Machine.execMemoryAccessPerform
  refine .next ?_
  split
  · exact h.reachCore
  · split
    · exact h
    · split
      · exact h
      · split
        · exact h
        · split
          · exact h.performFence
          · exact .ite h.replayMove h
          · exact .ite h.performAsync h
          · exact .ite h.finishStore (.ite (.ite h.performNear h) (.ite h.performUnits h))
  · exact h

theorem Keeps.execLoadDataReturn (h : Keeps Q s₀ s) : Ends Q s₀ (execLoadDataReturn s) := by
  unfold Machine.execLoadDataReturn
  refine .next ?_
  split
  · split
    · exact h
    · split
      · exact h
      · refine .ite h ?_
        extract_lets t
        have ht : Keeps Q s₀ t := h.onWave
        clear_value t
        split
        · exact ht.frame
        · exact ht
  · exact h

theorem Keeps.svcWindow {n port : Nat} {va : Dword} {type : BitVec 8} {args : BitVec 192} {payload : List Byte}
    {act : List Byte → State → State} (h : Keeps Q s₀ s) (hact : ∀ x t, Keeps Q s₀ t → Keeps Q s₀ (act x t)) :
    Keeps Q s₀ (s.svcWindow n port va type args payload act) := by
  unfold State.svcWindow
  refine .ite h.ask.onSvc ?_
  split
  · exact h
  · exact hact _ _ h.onSvc

theorem Keeps.svcLoad {n : Nat} {sz : ScalarSize} {a : SmArgs} (h : Keeps Q s₀ s) : Keeps Q s₀ (s.svcLoad n sz a) := by
  unfold State.svcLoad
  extract_lets _ _ _
  refine .ite (.ite h.stopWith h.onSvc.putScalars.advance) ?_
  split
  · exact h.stopWith
  · split
    · exact h.onSvc.putScalars.advance
    · exact (h.foldl_snd (fun _ _ h => .pair h.csrRead)).onSvc.putScalars.advance
    · split
      · exact h.svcWindow (fun _ _ h => h.onSvc.putScalars.advance)
      · exact h

theorem Keeps.svcStore {n : Nat} {sz : ScalarSize} {a : SmArgs} (h : Keeps Q s₀ s) :
    Keeps Q s₀ (s.svcStore n sz a) := by
  unfold State.svcStore
  extract_lets _ _ _ _ _
  split
  · exact h.stopWith
  · split
    · exact h.writeHome.onSvc.advance
    · exact (h.foldl (fun _ _ h => h.csrWrite)).onSvc.advance
    · split
      · exact h.svcWindow (fun _ _ h => h.onSvc.advance)
      · exact h

theorem Keeps.execSld {sz : ScalarSize} {a : SmArgs} (h : Keeps Q s₀ s) : Ends Q s₀ (execSld sz a s) := by
  unfold Machine.execSld
  refine .next ?_
  split
  · exact h.scalarLoad
  · exact h.svcLoad

theorem Keeps.execSst {sz : ScalarSize} {a : SmArgs} (h : Keeps Q s₀ s) : Ends Q s₀ (execSst sz a s) := by
  unfold Machine.execSst
  refine .next ?_
  split
  · exact h.scalarStore
  · exact h.svcStore

/-! ## Link -/

theorem Keeps.respond {port ctx : Nat} {tag : Word} {status : Nat} {data : Dword} {payload : List Byte} (h : Keeps Q s₀ s) :
    Keeps Q s₀ (s.respond port ctx tag status data payload) := h.send

theorem Keeps.answer {port : Nat} {m : Msg} {status : Nat} {data : Dword} {payload : List Byte} (h : Keeps Q s₀ s) :
    Keeps Q s₀ (s.answer port m status data payload) := h.respond

theorem Keeps.strayType {port : Nat} {m : Msg} (h : Keeps Q s₀ s) : Keeps Q s₀ (s.strayType port m) := .ite h h.answer

theorem Keeps.forward {port : Nat} {m : Msg} {ctx out : Nat} {args : BitVec 192} {payload : List Byte} (h : Keeps Q s₀ s) :
    Keeps Q s₀ (s.forward port m ctx out args payload) := h.ask

theorem Keeps.execMemrd (h : Keeps Q s₀ s) : Ends Q s₀ (execMemrd s) := by
  unfold Machine.execMemrd
  refine .next ?_
  split
  · refine .ite h.strayType (.ite h.answer ?_)
    split
    · exact h.answer
    · split
      · exact h.answer
      · exact h.forward
      · refine .answer (h.foldl_snd fun _ _ h => ?_)
        split
        · split
          · exact h
          · exact .pair h.csrRead
        · exact h
  · exact h

theorem Keeps.execMemwr (h : Keeps Q s₀ s) : Ends Q s₀ (execMemwr s) := by
  unfold Machine.execMemwr
  refine .next ?_
  split
  · refine .ite h.strayType (.ite h.answer ?_)
    split
    · exact h.answer
    · split
      · exact h.answer
      · split
        · exact h.answer
        · exact h.forward
        · refine .answer (.ite h.writeHome (h.foldl fun _ _ h => ?_))
          split
          · exact .ite h h.csrWrite
          · exact h.writeHome
  · exact h

theorem Keeps.execAtomicMsg (h : Keeps Q s₀ s) : Ends Q s₀ (execAtomicMsg s) := by
  unfold Machine.execAtomicMsg
  refine .next ?_
  split
  · refine .ite h.strayType (.ite h.answer ?_)
    split
    · exact h.answer
    · refine .ite h.answer ?_
      split
      · exact h.answer
      · split
        · exact h.answer
        · split
          · exact h.forward
          · exact .ite h.answer h.writeHome.answer
  · exact h

theorem Keeps.execCsrrdMsg (h : Keeps Q s₀ s) : Ends Q s₀ (execCsrrdMsg s) := by
  unfold Machine.execCsrrdMsg
  refine .next ?_
  split
  · refine .ite h.strayType ?_
    split
    · exact h.answer
    · exact h.csrRead.answer
  · exact h

theorem Keeps.execCsrwrMsg (h : Keeps Q s₀ s) : Ends Q s₀ (execCsrwrMsg s) := by
  unfold Machine.execCsrwrMsg
  refine .next ?_
  split
  · refine .ite h.strayType ?_
    split
    · exact h.answer
    · exact h.csrWrite.answer
  · exact h

theorem Keeps.unitAnswer {r : PeerReq} {ok : Bool} {bs : List Byte} {data : Dword} (h : Keeps Q s₀ s) :
    Keeps Q s₀ (s.unitAnswer r ok bs data) := by
  unfold State.unitAnswer
  split
  · exact h
  · split
    · exact h
    · split
      · exact h
      · exact .ite h (.ite h.markDone.acquired.finishStore h.onWave.takeStop)

theorem Keeps.fetchAnswer {r : PeerReq} {k : Nat} {ok : Bool} {bs : List Byte} (h : Keeps Q s₀ s) :
    Keeps Q s₀ (s.fetchAnswer r k ok bs) := by
  unfold State.fetchAnswer
  split
  · exact h
  · exact .ite h (.ite h.onCore h.takeStop)

theorem Keeps.cmdAnswer {r : PeerReq} {ok : Bool} {bs : List Byte} (h : Keeps Q s₀ s) :
    Keeps Q s₀ (s.cmdAnswer r ok bs) := by
  unfold State.cmdAnswer
  split
  · exact h
  · exact .ite h.onCmd h.onCmd.suspend

theorem Keeps.hubAnswer {r : PeerReq} {ok : Bool} {bs : List Byte} (h : Keeps Q s₀ s) :
    Keeps Q s₀ (s.hubAnswer r ok bs) := by
  unfold State.hubAnswer
  refine .ite ?_ ?_
  · refine .ite ?_ h.onLaunch
    split
    · exact h.launchDone
    · exact h
  · refine .ite ?_ (.ite (.ite h.waitReadAll h) (.ite (.ite h h.onLaunch) h))
    refine .ite ?_ ?_
    · refine .waitReadAll ?_
      split
      · exact h.launchDone
      · exact h
    · split
      · exact h.launchDone
      · exact h

theorem Keeps.svcAnswer {n : Nat} {r : PeerReq} {ok : Bool} {bs : List Byte} (h : Keeps Q s₀ s) :
    Keeps Q s₀ (s.svcAnswer n r ok bs) := .ite h (.ite h.onSvc h.onSvc.svcHalt)

theorem Keeps.execMemrsp (h : Keeps Q s₀ s) : Ends Q s₀ (execMemrsp s) := by
  unfold Machine.execMemrsp
  refine .next ?_
  split
  · refine .ite h.strayType ?_
    split
    · exact h.linkErr
    · extract_lets _ _ _
      split
      · exact h.linkErr
      · refine .ite h.frame.cmdAnswer ?_
        split
        · exact h.frame.fetchAnswer
        · exact h.frame.respond
        · exact h.frame.readerAnswer
        · exact .ite h.frame.unitAnswer (.ite h.frame.svcAnswer h.frame.hubAnswer)
  · exact h

theorem Keeps.execResumeMsg (h : Keeps Q s₀ s) : Ends Q s₀ (execResumeMsg s) := by
  unfold Machine.execResumeMsg
  refine .next ?_
  split
  · exact .ite h.strayType (.ite h.linkErr h.windowResume)
  · exact h

theorem Keeps.execUnbenchMsg (h : Keeps Q s₀ s) : Ends Q s₀ (execUnbenchMsg s) := by
  unfold Machine.execUnbenchMsg
  refine .next ?_
  split
  · exact .ite h.strayType (.ite h.linkErr (.ite h h.unbench))
  · exact h

theorem Keeps.abortWrites {ctx : Nat} (h : Keeps Q s₀ s) : Keeps Q s₀ (s.abortWrites ctx) := by
  unfold State.abortWrites
  refine h.foldl fun _ _ h => (.ite h ?_)
  dsimp only
  split
  · exact h.ask
  · exact h

theorem Keeps.killContext {ctx : Nat} (h : Keeps Q s₀ s) : Keeps Q s₀ (s.killContext ctx) := by
  unfold State.killContext
  refine .abortWrites (.foldl ?_ (fun _ _ h => h.setTaskQueue.onDie))
  refine .foldl ?_ (fun _ _ h => h.onCore)
  refine .foldl ?_ ?_
  · refine .foldl ?_ (fun _ _ h => .ite h.removeGroup h)
    refine .foldl ?_ ?_
    · refine .dropWork (h.abandonSamples.foldl fun _ _ h => ?_)
      split
      · exact .ite h.onLaunch h
      · exact h
    · intro _ _ h
      split
      · exact .ite h h.killWave
      · exact h
  · intro _ _ h
    split
    · exact .ite h (Keeps.ite h.complete h).frame
    · exact h

theorem Keeps.execKillctx (h : Keeps Q s₀ s) : Ends Q s₀ (execKillctx s) := by
  unfold Machine.execKillctx
  refine .next ?_
  split
  · exact .ite h.strayType (.ite h.linkErr h.killContext)
  · exact h

theorem Keeps.execAttest (h : Keeps Q s₀ s) : Ends Q s₀ (execAttest s) := by
  unfold Machine.execAttest
  refine .next ?_
  split
  · refine .ite h.strayType (.ite h.answer ?_)
    split
    · exact h.answer
    · exact h.send
  · exact h

theorem Keeps.execLinkCreditReturn (h : Keeps Q s₀ s) : Ends Q s₀ (execLinkCreditReturn s) := by
  unfold Machine.execLinkCreditReturn
  refine .next ?_
  split
  · exact h.frame
  · exact h

/-! ## Repack -/

theorem Keeps.pixelsGone {w : Wave} {lanes : Dword} (h : Keeps Q s₀ s) : Keeps Q s₀ (s.pixelsGone w lanes) := by
  unfold State.pixelsGone
  split
  · exact h.onPass
  · exact h

theorem Keeps.repackStop {core wave : Nat} (h : Keeps Q s₀ s) : Keeps Q s₀ (s.repackStop core wave) := by
  unfold State.repackStop
  split
  · exact h
  · exact h.setWave.takeStop

theorem Keeps.repackAct {g : Nat} (h : Keeps Q s₀ s) : Keeps Q s₀ (s.repackAct g) := by
  unfold State.repackAct
  split
  · exact h
  · dsimp only
    split
    · exact h
    · exact .ite h
        (.ite (h.foldl (fun _ _ h => h.repackStop))
          (((h.foldl (fun _ _ h => h.repackStop)).foldl (fun _ _ h => h.repackStop)).foldl (fun _ _ h => h.pixelsGone.setWave)))

theorem Keeps.execRepack {f : FArgs} (h : Keeps False s₀ s) : Ends False s₀ (execRepack f s) := by
  unfold Machine.execRepack
  refine .next ?_
  split
  · exact .ite h.repackAct (h.forced (fun _ h => h.issueWith (fun _ _ _ h => h.onIssuer.onIssuingSplit.repackAct)))
  · exact h

/-! ## Sample -/

theorem Keeps.textured {op : FOp} {f : FArgs} {act : List Word → State → State} (h : Keeps Q s₀ s)
    (hact : ∀ x t, Keeps Q s₀ t → Keeps Q s₀ (act x t)) : Keeps Q s₀ (s.textured op f act) := by
  unfold State.textured
  refine h.whenIssuable fun _ h => ?_
  split
  · exact h
  · exact .ite (hact _ _ h) h.stopHere

/-! ## Rep -/

theorem Keeps.execUnassignedOpcIssue (h : Keeps Q s₀ s) : Ends Q s₀ (execUnassignedOpcIssue s) := by
  unfold Machine.execUnassignedOpcIssue
  refine .next ?_
  split
  · exact h.stopWith
  · exact h

/-! ## Fetch -/

theorem Keeps.fetchMemory {core : Nat} {w : Wave} {a pa : Nat} {held : List Dword} (h : Keeps Q s₀ s) :
    Keeps Q s₀ (s.fetchMemory core w a pa held).2 := by
  unfold State.fetchMemory
  extract_lets _ _
  split
  · exact .pair h.onCore
  · split
    · exact .pair h.onCore
    · exact .pair h.freeChoice.onCore

theorem Keeps.fetchWord {core wave split : Nat} {w : Wave} {a : Dword} (h : Keeps Q s₀ s) :
    Keeps Q s₀ (s.fetchWord core wave split w a).2 := by
  unfold State.fetchWord
  split
  · exact h
  · split
    · next e =>
        have h := Keeps.snd e h.checkFill
        split
        · exact h
        · extract_lets _
          split
          · exact h
          · split
            · exact h
            · exact .pair h.ask
          · exact .pair h.fetchMemory

theorem Keeps.prefetch {core wave split a : Nat} (h : Keeps Q s₀ s) : Keeps Q s₀ (s.prefetch core wave split a) := by
  unfold State.prefetch
  split
  · exact h
  · refine .ite h ?_
    split
    · next e =>
        have h₁ := Keeps.snd e h.checkFill
        exact .ite h h₁.onCore
    · exact h

theorem Keeps.fetchFrom {core wave split : Nat} {w : Wave} {segs : List (Nat × Nat × Nat)} {n : Nat} {x : Dword} (h : Keeps Q s₀ s) :
    Keeps Q s₀ (s.fetchFrom core wave split w segs n x).2 := by
  induction n generalizing s segs x with
  | zero => exact h
  | succ n ih =>
    unfold State.fetchFrom
    dsimp only
    split
    · exact h
    · split
      next e =>
        have h := Keeps.snd e h.fetchWord
        split
        · have h := ih (segs := segmentsWith segs x.toNat) (x := x + 8) h
          split
          next e' => exact Keeps.snd e' h
          · exact h
        · exact h
      · exact h.fetchWord

theorem Keeps.fetchSplit {core wave split : Nat} {w : Wave} {pc : Dword} (h : Keeps Q s₀ s) :
    Keeps Q s₀ (s.fetchSplit core wave split w pc).2 := by
  unfold State.fetchSplit
  split
  · exact h
  · exact h.fetchFrom

theorem Keeps.logPut {core wave ctx pa : Nat} {bs : List Byte} (h : Keeps Q s₀ s) :
    Keeps Q s₀ (s.logPut core wave ctx pa bs) := by
  unfold State.logPut
  split
  · exact h.writeHome
  · exact .ite h (h.foldl (fun _ _ h => h.csrWrite))
  · exact h.ask
  · exact h

theorem Keeps.logWrite {core wave : Nat} {e : LogEntry} (h : Keeps Q s₀ s) : Keeps Q s₀ (s.logWrite core wave e) := by
  unfold State.logWrite
  split
  · exact h
  · dsimp only
    split
    · exact h.onCsr.onWave
    · exact (h.foldl (fun _ _ h => h.logPut)).onWave

theorem Keeps.writeLog {core wave k : Nat} {i : Instr} {a : Wave} {sp : Split} {aux : Option Aux} (h : Keeps Q s₀ s) :
    Keeps Q s₀ (s.writeLog core wave k i a sp aux) := by
  unfold State.writeLog
  split
  · exact h
  · exact .ite h (h.frame.foldl (fun _ _ h => h.logWrite))

/-! ## Issue -/

theorem Keeps.breakAt {core wave split : Nat} {w : Wave} {pc : Dword} {hits : List Nat} (h : Keeps Q s₀ s) :
    Keeps Q s₀ (s.breakAt core wave split w pc hits) := (h.foldl (fun _ _ h => h.onCsr)).takeStop

theorem Keeps.passCycle {domain n : Nat} (h : Keeps Q s₀ s) : Keeps Q s₀ (s.passCycle domain n) :=
  .ite (.ite h.onSvc h) (.ite h (h.foldl (fun _ _ h => .ite (.ite h h.setWave) h)).onCore)

/-! ## Dispatch -/

theorem Keeps.runF {op : FOp} {f : FArgs} (h : Keeps False s₀ s) : Ends False s₀ (runF op f s) := by
  cases op with
  | iadd | isub | imul | imulhi | imulhn | imin | imax | iminn | imaxn | iaddsat | iaddsatn | isubsat | isubsatn | vand
    | vor | vxor | andn | shl | shr | sra | bfe | fmin | fmax | bmax2 | bmin2 => exact .next h.lane2
  | imad | bfi | sel | idp4 | prmt | fdp2b | fdp4q | fdp4w => exact .next h.lane3
  | imadwi | imadwn | iadd64 | isub64 | shl64 | shr64 | lea | mov | mov64 | frred | fsinr | fcosr | dfma | dsqrt | drnd
    | crxf | rngh | rngf | cvt | cvtpk | cvtupk | cvtsr => exact .next h.lanewise
  | iabs | ineg | popc | clz | brev | fabs | fneg | frcp | frsq | fexp2 | flog2 | ftanh | fclass | bscale => exact .next h.lane1
  | icmp | fcmp | dcmp => exact .next h.lanemask
  | vrds => exact h.execVrds
  | vfree => exact .next (h.issueWith (fun _ _ _ h => h.advance))
  | fadd | fsub | fmul | fdiv | hadd2 | hmul2 | badd2 | bmul2 => exact .next h.lane2r
  | ffma | hfma2 | bfma2 => exact .next h.lane3r
  | frnd | fsqrt => exact .next h.lane1r
  | dadd | dsub | dmul | dmin | dmax | ddiv => exact .next h.lane2d
  | shfl | shflv => exact .next (h.cross (fun _ _ _ _ _ h => h.putD.putStatus))
  | qswap | qbcast => exact .next h.gatherLane
  | vote => exact .next (h.cross (fun _ _ _ _ _ h => h.onIssuingSplit))
  | scan | red => exact .next (h.cross (fun _ _ _ _ _ h => h.putD))
  | laneMatch => exact .next (h.cross (fun _ _ _ _ _ h => h.onIssuer))
  | ddx | ddy => exact .next h.derivative
  | rdlane => exact .next (.ite (h.cross (fun _ _ _ _ _ h => h.putD)) (h.indexed (h.cross (fun _ _ _ _ _ h => h.putD))))
  | wrlane => exact .next (h.indexed (h.cross (fun _ _ _ _ _ h => h.putD)))
  | emitm => exact h.execEmitm
  | mout | pout => exact .next h.meshWrite
  | mend =>
    exact .next
      (h.forced
        (fun _ h₁ => h₁.inMesh (fun _ _ _ _ => .ite h₁ (h₁.issueWith (fun _ _ _ h₂ => .ite h₁.stopHere h₂.onPass.onIssuer.advance)))))
  | visq | hzq => exact .next h.issueOp
  | pixout => exact h.execPixout
  | pixdisc => exact h.execPixdisc
  | sample => exact .next (h.forced (fun _ h => h.textured (fun _ _ h => h.issueOp.frame)))
  | sampleg | tld | imgst => exact .next (h.textured (fun _ _ h => h.issueOp))
  | rayq | rayw => exact .next h.rayIssue
  | rayacc | raycont | rayterm => exact .next h.onQueries
  | repack => exact h.execRepack

theorem Keeps.settleIssue {core wave k : Nat} {i : Instr} {w : Wave} {sp : Split} {aux : Option Aux} {ws : List Dword}
    (h : Keeps Q s₀ s) : Keeps Q s₀ (s.settleIssue core wave k i w sp aux ws) := by
  unfold State.settleIssue
  split
  · exact h
  · exact .ite h h.onCsr.onCsr.setWave.writeLog

theorem Keeps.chainTurn {core id : Nat} (h : Keeps False s₀ s) : Keeps False s₀ (s.chainTurn core id).2 := by
  unfold State.chainTurn
  split
  · exact h
  split
  · exact h
  split
  next e =>
  have h := Keeps.snd e (by
    split
    · exact h
    · split
      · exact h
      · exact h.engineRead)
  split
  · dsimp only
    split
    · exact .pair h.onCmd.endChain
    · exact .pair h.issuer
  · exact .pair (h.onMoved fun _ _ _ h => h.ask)

theorem Keeps.execRepRepeat (h : Keeps False s₀ s) : Ends False s₀ (execRepRepeat s) := by
  unfold Machine.execRepRepeat
  split
  · exact h.issuer.captureRep.runF
  · exact .next h

/-- Reset gives both tables their canonical form, whatever they held. -/
theorem Keeps.execPowerOnReset : Ends False s₀ (execPowerOnReset s) :=
  .next ⟨fun _ => reset_mem_wf, fun _ => reset_csr_wf, False.elim, False.elim⟩

/-- An F instruction means what `runF` gives its operation. -/
theorem exec_eq_runF {i : Instr} {op : FOp} {f : FArgs} (e : i.asF = some (op, f)) : exec i s = runF op f s := by
  cases i <;> cases e <;> rfl

theorem Keeps.execF {i : Instr} {op : FOp} {f : FArgs} (h : Keeps False s₀ s) (e : i.asF = some (op, f)) :
    Ends False s₀ (exec i s) := exec_eq_runF e ▸ h.runF

/-- Every instruction and every event keeps the canonical forms. -/
theorem Keeps.exec {i : Instr} (h : Keeps False s₀ s) : Ends False s₀ (exec i s) := by
  cases i with
  | pair => exact .next (h.issueWith (fun _ _ _ h => h.onIssuer.advance))
  | smov | siaddi | sandi | sori | sxori | sshli | sshri | ssrai | scmpi => exact .next h.scalar1
  | smovi | smovhi | ssel | smov64 => exact .next h.scalar
  | siadd | sisub | simul | simulhi | simulhn | sand | sor | sxor | sshl | sshr | ssra | scmp | smin | smax | sminn
    | smaxn => exact .next h.scalar2
  | spopc | sclz | sffs => exact .next h.scalarCount
  | siadd64 | sisub64 => exact .next h.scalar64
  | sshl64 | sshr64 => exact .next h.scalarShift
  | smrd => exact .next (h.issueWith (fun _ _ _ h => h.putScalars.advance))
  | smwr => exact .next (h.issueWith (fun _ _ _ h => h.onIssuingSplit.advance))
  | srd => exact h.execSrd
  | swr => exact .next (h.issueWith (fun _ _ _ h => .ite h.onIssuingSplit.advance h.onIssuer.advance))
  | sfree => exact .next (h.issueWith (fun _ _ _ h => h.advance))
  | vfree | iadd | isub | imul | imulhi | imulhn | imad | imadwi | imadwn | iadd64 | isub64 | imin | imax | iminn
    | imaxn | iabs | ineg | iaddsat | iaddsatn | isubsat | isubsatn | vand | vor | vxor | andn | shl | shr | sra
    | shl64 | shr64 | bfe | bfi | popc | clz | brev | icmp | sel | idp4 | lea | mov | mov64 | prmt | vrds | fadd | fsub
    | fmul | ffma | fmin | fmax | fabs | fneg | fcmp | frnd | frcp | frsq | fsqrt | fdiv | fexp2 | flog2 | frred
    | fsinr | fcosr | ftanh | fclass | dadd | dsub | dmul | dfma | dmin | dmax | dcmp | ddiv | dsqrt | drnd | hadd2
    | hmul2 | hfma2 | badd2 | bmul2 | bfma2 | bmax2 | bmin2 | fdp2b | fdp4q | fdp4w | crxf | rngh | rngf | cvt | cvtpk
    | cvtupk | cvtsr | bscale | shfl | shflv | qswap | qbcast | vote | scan | red | laneMatch | ddx | ddy | rdlane
    | wrlane | emitm | mout | pout | mend | visq | hzq | pixout | sample | sampleg | tld | imgst | rayq | rayw | repack =>
    exact h.execF rfl
  | bra => exact h.execBra
  | brs => exact h.execBrs
  | brc | brm => exact .next (h.transfer (fun _ _ => h.branchOn))
  | call => exact .next (h.transfer (fun _ _ => .ite h.stopHere (h.issueWith (fun _ _ _ h => h.onIssuer.onIssuingSplit))))
  | calli => exact h.execCalli
  | ret => exact h.execRet
  | fuse => exact h.execFuse
  | loop => exact h.execLoop
  | loopx => exact h.execLoopx
  | sigchk => exact h.execSigchk
  | trap => exact .next h.advance.stopWith
  | csrrd => exact .next (h.csrOp (fun _ _ _ _ _ h => h.csrRead.putScalars))
  | csrwr => exact .next (h.csrOp (fun _ _ _ _ _ h => h.csrWrite))
  | csrset | csrclr => exact .next (h.csrOp (fun _ _ _ _ _ h => h.csrRead.csrWrite.putScalars))
  | wfe => exact h.execWfe
  | ldg | ldp => exact .next (.ite h.vecLoad.missSplit h.vecLoad)
  | stg | stp | sts => exact .next h.vecStore
  | sld => exact h.execSld
  | sst => exact h.execSst
  | lds => exact .next h.vecLoad
  | saadd | samin | samax | saand | saor | saxor | saxchg | sacas | aadd | amin | amax | aminn | amaxn | aand | aor
    | axor | axchg | acas | afadd | afadd2b => exact .next h.atomIssue
  | fence => exact h.execFence
  | pref => exact h.execPref
  | mmaE4m3 | mmaE5m2 | mmaMix | mmaBf16 | mmaF16 | mmaE2m1s | mmaE4m3s | mmaI8 => exact .next h.mma
  | accld => exact h.execAccld
  | accst =>
    exact .next (h.mx (fun _ _ _ h => .ite h.stopHere (.ite h (h.admitted (fun _ h => h.issueWith (fun _ _ _ h => h.enqueue.advance))))))
  | accz => exact .next (h.mx (fun _ _ _ h => .ite h.stopHere (.ite h (h.admitted (fun _ h => h.takeTicket.enqueue.advance)))))
  | acccvt => exact h.execAcccvt
  | mwait => exact .next (h.mx (fun _ _ _ h => .ite h h.onIssuer.advance))
  | cpy | cpym | cpyg | cpys => exact .next (h.issueCmd (fun _ _ _ _ h => h))
  | cpyt => exact .next (h.afterRfence (fun _ h => (h.issueCmd (fun _ _ _ _ h => h.touchRecord)).frame))
  | cpymma => exact h.execCpymma
  | cwait => exact h.execCwait
  | cblk => exact .next (h.afterRfence (fun _ h => h.issueCmd (fun _ _ _ _ h => h)))
  | binit => exact h.execBinit
  | barr => exact .next (h.atBarrier (fun _ h => h.withBarrier (fun _ _ _ _ _ h => h.putScalars.onBarrier.advance)))
  | bwait => exact .next (h.atBarrier (fun _ h => h.resumeWait (fun _ h => h.withBarrier (fun _ _ _ _ _ h => h.waitOn))))
  | bsync => exact .next (h.atBarrier (fun _ h => h.resumeWait (fun _ h => h.withBarrier (fun _ _ _ _ _ h => h.onBarrier.waitOn))))
  | bquery => exact h.execBquery
  | spawn | dqsize => exact .next (h.queueOp (fun _ _ _ h => h.asyncIssue))
  | dqpush | dqpop => exact .next (h.queueOp (fun _ _ _ h => .ite h.stopHere h.asyncIssue))
  | dqsteal => exact .next (h.queueOp (fun _ _ _ h => h.whenIssuable (fun _ h => .ite h.stopHere h.asyncIssue)))
  | launch => exact h.execLaunch
  | flowreq => exact h.execFlowreq
  | iclk | icunlk => exact .next h.lineOp
  | dgrd => exact h.execDgrd
  | nop => exact .next h.advance
  | repRepeat => exact h.execRepRepeat
  | exit => exact h.execExit
  | yield => exact .next h.advance.onIssuingSplit
  | sigrst => exact .next h.onIssuingSplit.advance
  | bkpt => exact .next h.stopHere
  | evret => exact h.execEvret
  | fenceOr => exact .next (.ite h.onIssuer.advance h)
  | rfence => exact .next h.onIssuer.tryRfence.advance
  | cbatch => exact h.execCbatch
  | flowrel => exact .next h.onIssuer.applyClass.advance
  | pixdisc => exact h.execPixdisc
  | rayacc | raycont | rayterm => exact .next h.onQueries
  | splitArrive => exact h.execSplitArrive
  | fuseTimerExpiry => exact h.execFuseTimerExpiry
  | rejoinTimerExpiry => exact h.execRejoinTimerExpiry
  | yieldExpiry => exact h.execYieldExpiry
  | issuePromotion => exact h.execIssuePromotion
  | pageWalkComplete => exact h.execPageWalkComplete
  | memoryAccessPerform => exact h.execMemoryAccessPerform
  | loadDataReturn => exact h.execLoadDataReturn
  | stopReport => exact h.execStopReport
  | waveEnd => exact h.execWaveEnd
  | launchMsg => exact h.execLaunchMsg
  | waitWordRead => exact h.execWaitWordRead
  | placeGroup => exact h.execPlaceGroup
  | leaseTake => exact h.execLeaseTake
  | taskTake => exact h.execTaskTake
  | launchComplete => exact h.execLaunchComplete
  | discardGo => exact h.execDiscardGo
  | wcmdResume => exact h.execWcmdResume
  | wcmdStep => exact h.execWcmdStep
  | debugStepStop => exact h.execDebugStepStop
  | wcmdKill => exact h.execWcmdKill
  | wcmdHalt => exact h.execWcmdHalt
  | wdataloRead => exact h.execWdataloRead
  | wdataloWrite => exact h.execWdataloWrite
  | copyCommandStart => exact h.execCopyCommandStart
  | copyChunk => exact h.execCopyChunk
  | tensorRecordArrive => exact h.execTensorRecordArrive
  | copyCommandComplete => exact h.execCopyCommandComplete
  | chainCopy | chainMcast => exact .next (h.onBlock (fun _ _ _ _ => .ite .none h.pushBlock))
  | chainTcopy => exact h.execChainTcopy
  | chainMmac => exact h.execChainMmac
  | semwait => exact h.execSemwait
  | semwaitRetry => exact h.execSemwaitRetry
  | semsig => exact h.execSemsig
  | bararr => exact .next (h.onBlock (fun _ _ _ _ => .ite .none (.map (fun _ _ => h.onBarrier.chainOn))))
  | reduce => exact h.execReduce
  | chainLink => exact .next (h.onBlock (fun _ _ _ _ => .ite .none (.map (fun _ _ => h.arriveAll.chainTo))))
  | chainEnd => exact .next (h.onBlock (fun _ _ _ _ => .ite .none (.map (fun _ _ => h.endChain.arriveAll))))
  | arrayOpBegin => exact h.execArrayOpBegin
  | arrayOpComplete => exact h.execArrayOpComplete
  | rayQueryUpdate => exact h.execRayQueryUpdate
  | meshWavePlace => exact h.execMeshWavePlace
  | binBlock => exact h.execBinBlock
  | binwaitExpiry => exact h.execBinwaitExpiry
  | binpassGrow => exact h.execBinpassGrow
  | binpassDecline => exact h.execBinpassDecline
  | binpassResume => exact h.execBinpassResume
  | finalRender => exact h.execFinalRender
  | tileRender => exact h.execTileRender
  | replayPlace => exact h.execReplayPlace
  | selfTestComplete => exact h.execSelfTestComplete
  | umpctxAbandon => exact h.execUmpctxAbandon
  | foulUnbench => exact h.execFoulUnbench
  | eccError => exact h.execEccError
  | l2eccReqWrite => exact h.execL2eccReqWrite
  | l2eccSwitchDone => exact h.execL2eccSwitchDone
  | vsramTargetWrite => exact h.execVsramTargetWrite
  | vsramStep => exact h.execVsramStep
  | cfuSample => exact h.execCfuSample
  | catWrite => exact h.execCatWrite
  | catCommit => exact h.execCatCommit
  | clockRaise => exact h.execClockRaise
  | powerMeasure => exact h.execPowerMeasure
  | evacE2 => exact h.execEvacE2
  | evacE3 => exact h.execEvacE3
  | evacE4 => exact h.execEvacE4
  | cpcQreqSet | cpcDrainmode | cpcRetsave | cpcClkgateSet | cpcRailoff | cpcClkgateClear | cpcRetload | cpcQreqClear =>
    exact .next (h.cpcEvent (fun _ _ => h.cpcBit))
  | cpcQack => exact .next (h.cpcEvent (fun _ _ => .ite h.onSts h))
  | cpcRetdone => exact .next (h.cpcEvent (fun _ _ => .ite (h.foldl (fun _ _ h => .ite h.putMem h)).onSts h))
  | cpcWake => exact .next (h.cpcEvent (fun _ _ => h.cpcWake))
  | cpcRetloaded => exact .next (h.cpcEvent (fun _ _ => .ite (h.foldl (fun _ _ h => h.setCsr.setCsr.setCsr.onCore.refreshClock)).onSts h))
  | scEventTake => exact h.execScEventTake
  | wfeTimeout => exact h.execWfeTimeout
  | evpendClear => exact h.execEvpendClear
  | scRestart => exact h.execScRestart
  | scInstall => exact h.execScInstall
  | scInstallComplete => exact h.execScInstallComplete
  | memrd => exact h.execMemrd
  | memwr => exact h.execMemwr
  | memrsp => exact h.execMemrsp
  | atomicMsg => exact h.execAtomicMsg
  | csrrdMsg => exact h.execCsrrdMsg
  | csrwrMsg => exact h.execCsrwrMsg
  | resumeMsg => exact h.execResumeMsg
  | killctx => exact h.execKillctx
  | unbenchMsg => exact h.execUnbenchMsg
  | attest => exact h.execAttest
  | stageAdvance => exact .next h.stageAdvance
  | enableWrite => exact h.execEnableWrite
  | tlbinvGo => exact h.execTlbinvGo
  | tlbinvDone => exact h.execTlbinvDone
  | fusetimeWrite => exact h.execFusetimeWrite
  | powerOnReset => exact Keeps.execPowerOnReset
  | registerWrite => exact h.execRegisterWrite
  | unassignedOpcIssue => exact h.execUnassignedOpcIssue
  | linkCreditReturn => exact h.execLinkCreditReturn
  | stageSelfTestDone => exact h.execStageSelfTestDone

end

/-! ## Turns -/

/-- What every step does: it keeps the canonical forms, and the quiet between steps. -/
structure Stepped (s₀ t : State) : Prop where
  keeps : Keeps False s₀ t
  quiet : s₀.quiet → t.quiet

/-- An outcome whose next state, where it has one, stands as after a step. -/
def Steps (s₀ : State) (o : Out) : Prop := ∀ t, o = .next t → Stepped s₀ t

section
variable {s₀ s t : State} {o : Out} {core wave split n : Nat}

theorem Keeps.weaken (h : Keeps True s₀ s) : Keeps False s₀ s := ⟨h.mem, h.csr, False.elim, False.elim⟩

theorem Keeps.stepped (h : Keeps True s₀ s) : Stepped s₀ s :=
  ⟨h.weaken, fun q => ⟨(h.cur trivial).trans q.1, (h.arg trivial).trans q.2⟩⟩

theorem Stepped.refl : Stepped s s := Keeps.refl.stepped

theorem Stepped.trans (h : Stepped s₀ s) (h' : Stepped s t) : Stepped s₀ t :=
  ⟨h.keeps.trans h'.keeps, fun q => h'.quiet (h.quiet q)⟩

/-- An operation that keeps the issuer may stand in a step anywhere. -/
theorem Stepped.then (h : Stepped s₀ s) (h' : Keeps True s t) : Stepped s₀ t := h.trans h'.stepped

/-- What follows an instruction or an event leaves nothing issuing. -/
theorem Keeps.idle (h : Keeps False s₀ s) : Stepped s₀ s.idle := ⟨h.issuer, fun _ => ⟨rfl, rfl⟩⟩

theorem Steps.next (h : Stepped s₀ s) : Steps s₀ (.next s) := by
  rintro t ⟨⟩; exact h

theorem Ends.thenDo {f : State → State} (h : Ends False s₀ o) (hf : ∀ t, Keeps False s₀ t → Stepped s₀ (f t)) :
    Steps s₀ (thenDo o f) := by
  cases o with
  | next s => exact .next (hf s (h s rfl))
  | fault | refused => rintro t ⟨⟩

theorem Stepped.issueWords {w : Wave} {sp : Split} {f : Fetched} (h : Stepped s₀ s) :
    Steps s₀ (s.issueWords core wave split w sp f) :=
  h.keeps.issuer.exec.thenDo fun _ h => h.settleIssue.idle

theorem Stepped.issueAt (h : Stepped s₀ s) : Steps s₀ (s.issueAt core wave split) := by
  unfold State.issueAt
  split
  · exact .next h
  split
  · exact .next h
  split
  · exact .next h
  split
  · next e => exact .next (h.then (Keeps.snd e Keeps.refl.fetchSplit))
  · next e => exact (h.then (Keeps.snd e Keeps.refl.fetchSplit)).issueWords
  next e =>
  have h := h.then (Keeps.snd e Keeps.refl.fetchSplit)
  split
  · exact h.issueWords
  · exact .next (h.then Keeps.refl.breakAt)

theorem Stepped.foldl {α : Type} {l : List α} {f : State → α → State} (h : Stepped s₀ s)
    (hf : ∀ t x, Stepped s₀ t → Stepped s₀ (f t x)) : Stepped s₀ (l.foldl f s) := by
  induction l generalizing s with
  | nil => exact h
  | cons x l ih => exact ih (hf s x h)

theorem Stepped.slotWaits {slot : Nat} (h : Stepped s₀ s) : Stepped s₀ (s.slotWaits core slot) := by
  refine h.foldl fun _ _ h => h.foldl fun _ _ h => ?_
  split
  · exact h
  split
  · exact h
  split
  · next e => exact h.issueAt _ e
  · exact h

theorem Stepped.slotTurn {slot : Nat} (h : Stepped s₀ s) : Steps s₀ (s.slotTurn core slot) := by
  unfold State.slotTurn
  extract_lets u
  have hu : Stepped s₀ u := h.slotWaits
  clear_value u
  split
  · exact .next hu
  split
  · next e =>
    have ht := hu.issueAt _ e
    split
    · exact ht.issueAt
    · exact .next ht
  · exact hu.issueAt

theorem Stepped.svcTurn (h : Stepped s₀ s) : Steps s₀ (s.svcTurn n) := by
  unfold State.svcTurn
  split
  · exact .next h
  extract_lets u c
  have hu : Stepped s₀ u := h.then Keeps.refl.svcTake
  clear_value u
  split
  · exact .next hu
  · exact hu.keeps.issuer.exec.thenDo fun _ h => h.idle

theorem Stepped.chainStep {cmd : Nat} (h : Stepped s₀ s) : Steps s₀ (s.chainStep core cmd) := by
  unfold State.chainStep
  split
  · next e => exact (Keeps.snd e h.keeps.chainTurn).exec.thenDo fun _ h => h.idle
  · next e => exact .next (Keeps.snd e h.keeps.chainTurn).idle

theorem Stepped.occur {e : Instr} {x : EventArgs} (h : Stepped s₀ s) : Steps s₀ (s.occur e x) := by
  unfold State.occur
  split
  · exact h.keeps.issuer.exec.thenDo fun _ h => h.idle
  · exact .next h

theorem Stepped.turn {t : Turn} (h : Stepped s₀ s) : Steps s₀ (s.turn t) := by
  cases t with
  | issue => exact h.issueAt
  | slot => exact h.slotTurn
  | svc => exact h.svcTurn
  | chain => exact h.chainStep
  | event => exact h.occur
  | pass => exact .next (h.then Keeps.refl.passCycle)
  | prefetch => exact .next (h.then Keeps.refl.prefetch)
  | unitCsr => exact .next (h.then Keeps.refl.unitCsr)
  | benchDrain => exact .next (h.then Keeps.refl.benchDrain)

/-- The turn found is one of the list's. -/
theorem State.firstTurn_eq {k : Nat} {ts : List Turn} (e : s.firstTurn k ts = some (n, o)) : ∃ t, o = s.turn t := by
  induction ts generalizing k with
  | nil => cases e
  | cons t ts ih =>
    unfold State.firstTurn at e
    split at e
    · cases e; exact ⟨t, rfl⟩
    · exact ih e

theorem State.defaultTurn_steps (s : State) : Steps s s.defaultTurn := by
  unfold State.defaultTurn
  extract_lets
  split
  · next e =>
    obtain ⟨t, rfl⟩ := State.firstTurn_eq e
    intro u hu
    cases ho : s.turn t with
    | next v =>
      rw [ho] at hu
      cases hu
      exact (Stepped.refl.turn v ho).then Keeps.refl.frame
    | fault | refused =>
      rw [ho] at hu
      cases hu
  · exact .next .refl

/-- One step, whichever turn it takes. -/
theorem step_steps (s : State) : Steps s (step s) := by
  unfold step State.advanceTurn
  split
  · exact Stepped.turn (Stepped.refl.then Keeps.refl.frame)
  · exact s.defaultTurn_steps

end

/-- Settles O60: each operation of the model keeps the canonical forms (`Keeps`), and a turn is made of such operations and ends with
nothing issuing (`Stepped`). -/
theorem stepKeepsInvariants : Obligations.StepKeepsInvariants :=
  ⟨fun s t hm hc e => ⟨(step_steps s t e).keeps.mem hm, (step_steps s t e).keeps.csr hc⟩,
   fun s t hq e => (step_steps s t e).quiet hq⟩

end Sys2Proof.Machine

/-! Decoding is the inverse of encoding (O54, O55): the fields of prefixes and pair frames, what the decoder makes of a word of each format, and
what well-formedness says of an instruction's words. -/

namespace Sys2Proof
open BitVec (extractLsb'_append_eq_of_le extractLsb'_append_eq_of_add_le)

/-! ## Fields of pair frames and prefixes, and the bits that have no field -/

theorem spare_wordSm (o : BitVec 10) (a : SmArgs) : spareZero 1 (wordSm o a) = true := by
  simp (disch := omega) only [spareZero, wordSm, extractLsb'_append_eq_of_le, extractLsb'_append_eq_of_add_le]
  simp

theorem spare_wordX (o : BitVec 10) (x : XArgs) : spareZero 2 (wordX o x) = true := by
  simp (disch := omega) only [spareZero, wordX, extractLsb'_append_eq_of_le, extractLsb'_append_eq_of_add_le]
  simp

theorem fieldsHalf_wordPair (x y : Half) : fieldsHalf (wordPair x y) 31 = x ∧ fieldsHalf (wordPair x y) 0 = y := by
  simp (disch := omega) only [fieldsHalf, wordPair, extractLsb'_append_eq_of_le, extractLsb'_append_eq_of_add_le]
  simp

theorem fieldsRep_wordRep (r : RepArgs) : fieldsRep (wordRep r) = r := by
  simp (disch := omega) only [fieldsRep, wordRep, bitOf, BitVec.getLsbD_append, bit1, extractLsb'_append_eq_of_le,
    extractLsb'_append_eq_of_add_le]
  simp

theorem fieldsMwb_wordMwb (m : Mwb) : fieldsMwb (wordMwb m) = m := by
  simp (disch := omega) only [fieldsMwb, wordMwb, extractLsb'_append_eq_of_le, extractLsb'_append_eq_of_add_le]
  simp

/-! ## Gathering prefixes (02 R40–R44) -/

theorem Prefixes.add_wordRep {p : Prefixes} (r : RepArgs) (hr : p.rep = none) (hl : p.limm = none) (hm : p.mwbs = []) :
    p.add (wordRep r) = some { p with rep := some r } := by
  have hk : ((wordRep r).extractLsb' 56 6).toNat = 1 := by
    simp (disch := omega) only [wordRep, extractLsb'_append_eq_of_le, extractLsb'_append_eq_of_add_le]
    rfl
  have hz : (wordRep r).extractLsb' 0 44 = 0 := by
    simp (disch := omega) only [wordRep, extractLsb'_append_eq_of_add_le]
    rfl
  simp [Prefixes.add, hk, hz, hr, hl, hm, fieldsRep_wordRep]

theorem Prefixes.add_wordLimm {p : Prefixes} (v : Word) (hl : p.limm = none) (hm : p.mwbs = []) :
    p.add (wordLimm v) = some { p with limm := some v } := by
  have hk : ((wordLimm v).extractLsb' 56 6).toNat = 2 := by
    simp (disch := omega) only [wordLimm, extractLsb'_append_eq_of_le, extractLsb'_append_eq_of_add_le]
    rfl
  have hz : (wordLimm v).extractLsb' 0 24 = 0 := by
    simp (disch := omega) only [wordLimm, extractLsb'_append_eq_of_add_le]
    rfl
  have hv : (wordLimm v).extractLsb' 24 32 = v := by
    simp (disch := omega) only [wordLimm, extractLsb'_append_eq_of_le, extractLsb'_append_eq_of_add_le]
    simp
  simp [Prefixes.add, hk, hz, hv, hl, hm]

theorem Prefixes.add_wordMwb {p : Prefixes} (m : Mwb) (hm : p.mwbs.length < 2) (hb : badMwb m = false) :
    p.add (wordMwb m) = some { p with mwbs := p.mwbs ++ [m] } := by
  have hk : ((wordMwb m).extractLsb' 56 6).toNat = 3 := by
    simp (disch := omega) only [wordMwb, extractLsb'_append_eq_of_le, extractLsb'_append_eq_of_add_le]
    rfl
  have hz : (wordMwb m).extractLsb' 0 2 = 0 := by
    simp (disch := omega) only [wordMwb, extractLsb'_append_eq_of_add_le]
    rfl
  simp [Prefixes.add, hk, hz, hm, hb, fieldsMwb_wordMwb]

theorem takePrefixes_add {w : Dword} {p q : Prefixes} (hw : frameOf w = 2) (h : p.add w = some q) (k : Nat) (ok : Bool) (n : Nat) (ws : List Dword) :
    takePrefixes (k + 1) p ok n (w :: ws) = takePrefixes k q ok (n + 1) ws := by simp [takePrefixes, hw, h]

theorem takePrefixes_last {w : Dword} (hw : frameOf w ≠ 2) (k : Nat) (p : Prefixes) (ok : Bool) (n : Nat) (ws : List Dword) :
    takePrefixes k p ok n (w :: ws) = (p, ok, n, w :: ws) := by cases k <;> simp [takePrefixes, hw]

/-- The REP before an F word, when it has one. -/
def repWords (rep : Option RepArgs) : List Dword := (rep.map wordRep).toList

/-- The prefixes of an F word are gathered. -/
theorem takePrefixes_ofF {w : Dword} (hw : frameOf w ≠ 2) (rep : Option RepArgs) (f : FArgs) :
    takePrefixes 4 {} true 0 (repWords rep ++ limmWords f ++ [w]) =
      ({ rep := rep, limm := f.limm }, true, (repWords rep ++ limmWords f).length, [w]) := by
  have hr (r : RepArgs) : Prefixes.add {} (wordRep r) = some { rep := some r } := Prefixes.add_wordRep r rfl rfl rfl
  have hv (rep : Option RepArgs) (v : Word) : Prefixes.add { rep := rep } (wordLimm v) = some { rep := rep, limm := some v } :=
    Prefixes.add_wordLimm v rfl rfl
  rcases rep with _ | r <;> rcases hl : f.limm with _ | v <;>
    simp [repWords, limmWords, hl, takePrefixes_last hw, takePrefixes_add (frameOf_wordRep _) (hr _),
      takePrefixes_add (frameOf_wordLimm _) (hv _ _)]

/-- The MWB prefixes of a C word are gathered. -/
theorem takePrefixes_mwbs {w : Dword} (hw : frameOf w ≠ 2) (ms : List Mwb) (hl : ms.length ≤ 2) (hb : ∀ m ∈ ms, badMwb m = false) :
    takePrefixes 4 {} true 0 (ms.map wordMwb ++ [w]) = ({ mwbs := ms }, true, ms.length, [w]) := by
  rcases ms with _ | ⟨a, _ | ⟨b, _ | ⟨c, ms⟩⟩⟩
  · simp [takePrefixes_last hw]
  · simp [takePrefixes_last hw, takePrefixes_add (frameOf_wordMwb _) (Prefixes.add_wordMwb (p := {}) a (by simp) (hb a (by simp)))]
  · have ha := Prefixes.add_wordMwb (p := {}) a (by simp) (hb a (by simp))
    have hb' := Prefixes.add_wordMwb (p := { mwbs := [a] }) b (by simp) (hb b (by simp))
    simp [takePrefixes_last hw, takePrefixes_add (frameOf_wordMwb _) ha, takePrefixes_add (frameOf_wordMwb _) hb']
  · simp at hl

theorem prefixesFit_wordF {p : Prefixes} {op : FOp} {f : FArgs} (hl : p.limm = f.limm) (hm : p.mwbs = []) (h : limmFits op f = true) :
    prefixesFit p (wordF op.code f) = true := by
  simpa only [prefixesFit, frameOf_wordF, opcOf_wordF, fopOf_code, bitOf, bs_wordF, s_wordF, hl, hm, limmFits, List.isEmpty_nil,
    Bool.true_and, if_neg (show ¬(0 = 1) by decide)] using h

/-- Without REP and LIMM, and with MWB before BRM alone, the prefixes fit a word that is no F word. -/
theorem prefixesFit_of_fopOf_none {p : Prefixes} {w : Dword} (hw : frameOf w = 0) (hf : fopOf (opcOf w) = none) (hr : p.rep = none)
    (hl : p.limm = none) (hm : p.mwbs = [] ∨ opcOf w = 0x033) : prefixesFit p w = true := by
  rcases hm with hm | hm
  · simp [prefixesFit, hw, hf, hr, hl, hm]
  · rw [hm] at hf; simp [prefixesFit, hw, hm, hf, hr, hl]

/-! ## What the decoder makes of a word (02 R27, R28) -/

/-- A word of frame 0b00 whose prefixes are gathered and fit decodes as its fields say. -/
theorem decodeOn_parseMain {svc : Bool} {ws : List Dword} {p : Prefixes} {n : Nat} {w : Dword}
    (ht : takePrefixes 4 {} true 0 ws = (p, true, n, [w])) (hw : frameOf w = 0) (ha : opcAssigned (opcOf w) = true)
    (hp : prefixesFit p w = true) (hh : opcHere svc (opcOf w) = true) : decodeOn svc ws = withCount (n + 1) (parseMain p w) := by
  simp [decodeOn, ht, hw, ha, hp, hh]

/-- What stands wrong with an F word and its REP, if any (02 R28). -/
def illegalPrefixed (rep : Option RepArgs) (op : FOp) (f : FArgs) : Option StopCause :=
  match rep with
  | some r => illegalRep r op f
  | none => illegalF op f

/-- An F word with its prefixes decodes to its instruction. -/
theorem decodeOn_wordF {svc : Bool} (rep : Option RepArgs) (op : FOp) (f : FArgs) (hl : limmFits op f = true)
    (hh : opcHere svc op.code.toNat = true) (hi : illegalPrefixed rep op f = none) :
    decodeOn svc (repWords rep ++ limmWords f ++ [wordF op.code f]) =
      .ok (Decoded.ofF rep op f, (repWords rep ++ limmWords f ++ [wordF op.code f]).length) := by
  have h0 : op.code.toNat ≠ 0 := by cases op <;> decide
  rw [decodeOn_parseMain (takePrefixes_ofF (by simp [frameOf_wordF]) rep f) (frameOf_wordF ..)
    (by simp [opcAssigned, opcOf_wordF, fopOf_code]) (prefixesFit_wordF rfl rfl hl) (by rwa [opcOf_wordF])]
  cases rep <;> simp_all [illegalPrefixed, parseMain, opcOf_wordF, fopOf_code, fieldsF_wordF, checked, withCount, Nat.add_assoc]

/-- An S word decodes to its instruction. -/
theorem decodeOn_wordS {svc : Bool} {i : Instr} {o : BitVec 10} {a : SArgs} (h : i.asS = some (o, a)) (hh : opcHere svc o.toNat = true)
    (hi : illegalS o.toNat a = none) : decodeOn svc [wordS o a] = .ok ({ instr := i }, 1) := by
  have h1 : o.toNat ≠ 0 ∧ opcAssigned o.toNat = true ∧ fopOf o.toNat = none ∧ Instr.ofS a o.toNat = some i := by
    cases i <;> cases h <;> exact ⟨by decide, rfl, rfl, rfl⟩
  obtain ⟨h0, ha, hf, ho⟩ := h1
  have hw := frameOf_wordS o a
  rw [decodeOn_parseMain (takePrefixes_last (by simp [hw]) 4 {} true 0 []) hw (by rwa [opcOf_wordS])
    (prefixesFit_of_fopOf_none hw (by rwa [opcOf_wordS]) rfl rfl (.inl rfl)) (by rwa [opcOf_wordS])]
  simp [parseMain, opcOf_wordS, h0, hf, fieldsS_wordS, ho, spare_wordS, hi, unlessSpare, checked, withCount]

/-- A C word with its MWB prefixes decodes to its instruction. -/
theorem decodeOn_wordC {svc : Bool} {i : Instr} {o : BitVec 10} {c : CArgs} {ms : List Mwb} (h : i.asC = some (o, c, ms))
    (hm : mwbsFit o ms = true) (hh : opcHere svc o.toNat = true) (hi : illegalC o.toNat c = none) :
    decodeOn svc (ms.map wordMwb ++ [wordC o c]) = .ok ({ instr := i }, (ms.map wordMwb ++ [wordC o c]).length) := by
  have h1 : o.toNat ≠ 0 ∧ opcAssigned o.toNat = true ∧ fopOf o.toNat = none ∧ (∀ a, Instr.ofS a o.toNat = none) ∧
      Instr.ofC c ms o.toNat = some i := by
    cases i <;> cases h <;> exact ⟨by decide, rfl, rfl, fun _ => rfl, rfl⟩
  obtain ⟨h0, ha, hf, hs, ho⟩ := h1
  simp only [mwbsFit, Bool.and_eq_true, Bool.or_eq_true, List.isEmpty_iff, decide_eq_true_eq, List.all_eq_true, Bool.not_eq_true'] at hm
  obtain ⟨⟨hm, hlen⟩, hb⟩ := hm
  have hw := frameOf_wordC o c
  rw [decodeOn_parseMain (takePrefixes_mwbs (by simp [hw]) ms hlen hb) hw (by rwa [opcOf_wordC])
    (prefixesFit_of_fopOf_none hw (by rwa [opcOf_wordC]) rfl rfl (by rw [opcOf_wordC]; exact hm.imp id (fun h => by rw [h]; rfl)))
    (by rwa [opcOf_wordC])]
  simp [parseMain, opcOf_wordC, h0, hf, hs, fieldsC_wordC, ho, hi, checked, withCount]

/-- An SM word decodes to its instruction. -/
theorem decodeOn_wordSm {svc : Bool} {i : Instr} {o : BitVec 10} {a : SmArgs} (h : i.asSm = some (o, a)) (hh : opcHere svc o.toNat = true)
    (hi : illegalSm o.toNat a = none) : decodeOn svc [wordSm o a] = .ok ({ instr := i }, 1) := by
  have h1 : o.toNat ≠ 0 ∧ opcAssigned o.toNat = true ∧ fopOf o.toNat = none ∧ (∀ a, Instr.ofS a o.toNat = none) ∧
      (∀ c ms, Instr.ofC c ms o.toNat = none) ∧ Instr.ofSm a o.toNat = some i := by
    cases i
    case sld sz x => cases sz <;> cases h <;> exact ⟨by decide, rfl, rfl, fun _ => rfl, fun _ _ => rfl, rfl⟩
    case sst sz x => cases sz <;> cases h <;> exact ⟨by decide, rfl, rfl, fun _ => rfl, fun _ _ => rfl, rfl⟩
    all_goals cases h
  obtain ⟨h0, ha, hf, hs, hc, ho⟩ := h1
  have hw := frameOf_wordSm o a
  rw [decodeOn_parseMain (takePrefixes_last (by simp [hw]) 4 {} true 0 []) hw (by rwa [opcOf_wordSm])
    (prefixesFit_of_fopOf_none hw (by rwa [opcOf_wordSm]) rfl rfl (.inl rfl)) (by rwa [opcOf_wordSm])]
  simp [parseMain, opcOf_wordSm, h0, hf, hs, hc, fieldsSm_wordSm, ho, spare_wordSm, hi, unlessSpare, checked, withCount]

/-- An M word decodes to its instruction. -/
theorem decodeOn_wordM {svc : Bool} {i : Instr} {o : BitVec 10} {a : MArgs} (h : i.asM = some (o, a)) (hh : opcHere svc o.toNat = true)
    (hi : illegalM o.toNat a = none) : decodeOn svc [wordM o a] = .ok ({ instr := i }, 1) := by
  have h1 : o.toNat ≠ 0 ∧ opcAssigned o.toNat = true ∧ fopOf o.toNat = none ∧ (∀ a, Instr.ofS a o.toNat = none) ∧
      (∀ c ms, Instr.ofC c ms o.toNat = none) ∧ (∀ a, Instr.ofSm a o.toNat = none) ∧ Instr.ofM a o.toNat = some i := by
    cases i with
    | ldg sz | lds sz | ldp sz | stg sz | sts sz | stp sz | aadd sz | amin sz | amax sz | aminn sz | amaxn sz | aand sz | aor sz
    | axor sz | axchg sz | acas sz | afadd sz =>
      cases sz <;> cases h <;> exact ⟨by decide, rfl, rfl, fun _ => rfl, fun _ _ => rfl, fun _ => rfl, rfl⟩
    | _ => cases h <;> exact ⟨by decide, rfl, rfl, fun _ => rfl, fun _ _ => rfl, fun _ => rfl, rfl⟩
  obtain ⟨h0, ha, hf, hs, hc, hsm, ho⟩ := h1
  have hw := frameOf_wordM o a
  rw [decodeOn_parseMain (takePrefixes_last (by simp [hw]) 4 {} true 0 []) hw (by rwa [opcOf_wordM])
    (prefixesFit_of_fopOf_none hw (by rwa [opcOf_wordM]) rfl rfl (.inl rfl)) (by rwa [opcOf_wordM])]
  simp [parseMain, opcOf_wordM, h0, hf, hs, hc, hsm, fieldsM_wordM, ho, hi, checked, withCount]

/-- An MX word decodes to its instruction. -/
theorem decodeOn_wordX {svc : Bool} {i : Instr} {o : BitVec 10} {x : XArgs} (h : i.asX = some (o, x)) (hh : opcHere svc o.toNat = true)
    (hi : illegalX o.toNat x = none) : decodeOn svc [wordX o x] = .ok ({ instr := i }, 1) := by
  have h1 : o.toNat ≠ 0 ∧ opcAssigned o.toNat = true ∧ fopOf o.toNat = none ∧ (∀ a, Instr.ofS a o.toNat = none) ∧
      (∀ c ms, Instr.ofC c ms o.toNat = none) ∧ (∀ a, Instr.ofSm a o.toNat = none) ∧ (∀ a, Instr.ofM a o.toNat = none) ∧
      Instr.ofX x o.toNat = some i := by
    cases i <;> cases h <;> exact ⟨by decide, rfl, rfl, fun _ => rfl, fun _ _ => rfl, fun _ => rfl, fun _ => rfl, rfl⟩
  obtain ⟨h0, ha, hf, hs, hc, hsm, hm, ho⟩ := h1
  have hw := frameOf_wordX o x
  rw [decodeOn_parseMain (takePrefixes_last (by simp [hw]) 4 {} true 0 []) hw (by rwa [opcOf_wordX])
    (prefixesFit_of_fopOf_none hw (by rwa [opcOf_wordX]) rfl rfl (.inl rfl)) (by rwa [opcOf_wordX])]
  simp [parseMain, opcOf_wordX, h0, hf, hs, hc, hsm, hm, fieldsX_wordX, ho, spare_wordX, hi, unlessSpare, checked, withCount]

/-- A pair frame decodes to itself on an Oltus core. -/
theorem decodeOn_wordPair {x y : Half} (h : badPair x y = false) :
    decodeOn false [wordPair x y] = .ok ({ instr := .pair x y }, 1) := by
  have hw := frameOf_wordPair x y
  simp [decodeOn, takePrefixes_last (show frameOf (wordPair x y) ≠ 2 by simp [hw]), hw, prefixesFit, fieldsHalf_wordPair, h, checked, withCount]

/-- NOP's word decodes to it. -/
theorem decodeOn_zero (svc : Bool) : decodeOn svc [0] = .ok ({ instr := .nop }, 1) := by cases svc <;> rfl

/-! ## The words of a well-formed instruction, format by format -/

/-- What `shape`, `illegal` and `encode` say of an instruction: its OPC and whether it is written as its constructor demands, what stands wrong
with its fields, and its words. -/
def Decoded.Reads (x : Decoded) (o : BitVec 10) (ok : Bool) (bad : Option StopCause) (ws : List Dword) : Prop :=
  x.shape = some (o, ok) ∧ x.illegal = bad ∧ encode x = ws

theorem Decoded.Reads.of_wellFormed {x : Decoded} {svc : Bool} {o : BitVec 10} {ok : Bool} {bad : Option StopCause} {ws : List Dword}
    (h : x.Reads o ok bad ws) (hx : x.wellFormed svc = true) : encode x = ws ∧ ok = true ∧ opcHere svc o.toNat = true ∧ bad = none := by
  obtain ⟨h1, h2, h3⟩ := h
  simpa [Decoded.wellFormed, h1, h2, h3, and_assoc] using hx

theorem reads_of_asF {i : Instr} {op : FOp} {f : FArgs} (h : i.asF = some (op, f)) :
    ({ instr := i } : Decoded).Reads op.code (limmFits op f) (illegalF op f) (limmWords f ++ [wordF op.code f]) ∧
      ({ instr := i } : Decoded) = Decoded.ofF none op f := by
  cases i <;> cases h <;> exact ⟨⟨rfl, rfl, rfl⟩, rfl⟩

theorem reads_of_asS {i : Instr} {o : BitVec 10} {a : SArgs} (h : i.asS = some (o, a)) :
    ({ instr := i } : Decoded).Reads o true (illegalS o.toNat a) [wordS o a] := by
  cases i <;> cases h <;> exact ⟨rfl, rfl, rfl⟩

theorem reads_of_asC {i : Instr} {o : BitVec 10} {c : CArgs} {ms : List Mwb} (h : i.asC = some (o, c, ms)) :
    ({ instr := i } : Decoded).Reads o (mwbsFit o ms) (illegalC o.toNat c) (ms.map wordMwb ++ [wordC o c]) := by
  cases i <;> cases h <;> exact ⟨rfl, rfl, rfl⟩

theorem reads_of_asSm {i : Instr} {o : BitVec 10} {a : SmArgs} (h : i.asSm = some (o, a)) :
    ({ instr := i } : Decoded).Reads o true (illegalSm o.toNat a) [wordSm o a] := by
  cases i with
  | sld sz | sst sz => cases sz <;> cases h <;> exact ⟨rfl, rfl, rfl⟩
  | _ => cases h

theorem reads_of_asM {i : Instr} {o : BitVec 10} {a : MArgs} (h : i.asM = some (o, a)) :
    ({ instr := i } : Decoded).Reads o true (illegalM o.toNat a) [wordM o a] := by
  cases i with
  | ldg sz | lds sz | ldp sz | stg sz | sts sz | stp sz | aadd sz | amin sz | amax sz | aminn sz | amaxn sz | aand sz | aor sz
  | axor sz | axchg sz | acas sz | afadd sz => cases sz <;> cases h <;> exact ⟨rfl, rfl, rfl⟩
  | _ => cases h <;> exact ⟨rfl, rfl, rfl⟩

theorem reads_of_asX {i : Instr} {o : BitVec 10} {x : XArgs} (h : i.asX = some (o, x)) :
    ({ instr := i } : Decoded).Reads o true (illegalX o.toNat x) [wordX o x] := by
  cases i <;> cases h <;> exact ⟨rfl, rfl, rfl⟩

/-- An instruction with no operands beside it that is written as words is NOP, a pair frame, or stands in one of the formats. -/
theorem format_of_shape {i : Instr} {y : BitVec 10 × Bool} (h : ({ instr := i } : Decoded).shape = some y) :
    i = .nop ∨ (∃ h0 h1, i = .pair h0 h1) ∨ (∃ op f, i.asF = some (op, f)) ∨ (∃ o a, i.asS = some (o, a)) ∨
      (∃ o c ms, i.asC = some (o, c, ms)) ∨ (∃ o a, i.asSm = some (o, a)) ∨ (∃ o a, i.asM = some (o, a)) ∨
      (∃ o x, i.asX = some (o, x)) := by
  unfold Decoded.shape at h
  simp only at h
  split at h
  · exact .inl rfl
  · exact .inr (.inl ⟨_, _, rfl⟩)
  split at h
  · next hf => exact .inr (.inr (.inl ⟨_, _, hf⟩))
  split at h
  · next hs => exact .inr (.inr (.inr (.inl ⟨_, _, hs⟩)))
  split at h
  · next hc => exact .inr (.inr (.inr (.inr (.inl ⟨_, _, _, hc⟩))))
  split at h
  · next hsm => exact .inr (.inr (.inr (.inr (.inr (.inl ⟨_, _, hsm⟩)))))
  split at h
  · next hm => exact .inr (.inr (.inr (.inr (.inr (.inr (.inl ⟨_, _, hm⟩))))))
  · obtain ⟨⟨o, x⟩, hx, -⟩ := Option.map_eq_some_iff.1 h
    exact .inr (.inr (.inr (.inr (.inr (.inr (.inr ⟨o, x, hx⟩))))))

/-- An instruction with operands beside it is the F instruction of those operands. -/
theorem reads_of_aux {i : Instr} {rep : Option RepArgs} {op : FOp} {f : FArgs} {svc : Bool}
    (h : ({ instr := i, aux := some { rep := rep, op := op, f := f } } : Decoded).wellFormed svc = true) :
    ({ instr := i, aux := some { rep := rep, op := op, f := f } } : Decoded) = Decoded.ofF rep op f ∧
      ({ instr := i, aux := some { rep := rep, op := op, f := f } } : Decoded).Reads op.code (limmFits op f)
        (illegalPrefixed rep op f) (repWords rep ++ limmWords f ++ [wordF op.code f]) := by
  cases rep with
  | some r =>
    simp only [Decoded.wellFormed, Decoded.shape, Bool.and_eq_true, decide_eq_true_eq] at h
    obtain ⟨⟨⟨rfl, -⟩, -⟩, -⟩ := h
    exact ⟨rfl, by simp [Decoded.shape], rfl, rfl⟩
  | none =>
    simp only [Decoded.wellFormed, Decoded.shape, Bool.and_eq_true, decide_eq_true_eq] at h
    obtain ⟨⟨⟨⟨rfl, hb⟩, -⟩, -⟩, -⟩ := h
    have he : (Instr.ofF f op).asF = none := by
      simp only [FOp.beside, Bool.or_eq_true, decide_eq_true_eq] at hb
      rcases hb with ((rfl | rfl) | rfl) | rfl <;> rfl
    exact ⟨by simp [Decoded.ofF, he], by simp [Decoded.shape, hb], rfl, rfl⟩

/-- The words of a well-formed instruction decode to it. -/
theorem decodeOn_encode {svc : Bool} {x : Decoded} (h : x.wellFormed svc = true) : decodeOn svc (encode x) = .ok (x, (encode x).length) := by
  obtain ⟨i, _ | ⟨rep, op, f⟩⟩ := x
  · obtain ⟨y, hy⟩ : ∃ y, ({ instr := i } : Decoded).shape = some y := by
      unfold Decoded.wellFormed at h; split at h
      · next hy => exact ⟨_, hy⟩
      · cases h
    rcases format_of_shape hy with rfl | ⟨h0, h1, rfl⟩ | ⟨op, f, hf⟩ | ⟨o, a, hs⟩ | ⟨o, c, ms, hc⟩ | ⟨o, a, hsm⟩ | ⟨o, a, hm⟩ | ⟨o, x, hx⟩
    · exact decodeOn_zero svc
    · cases svc
      · exact decodeOn_wordPair (by simpa [Decoded.wellFormed, Decoded.shape, Decoded.illegal, opcHere] using h)
      · simp [Decoded.wellFormed, Decoded.shape, opcHere, svcOpc] at h
    · obtain ⟨hr, he⟩ := reads_of_asF hf
      obtain ⟨hw, hl, hh, hi⟩ := hr.of_wellFormed h
      rw [hw, he]; exact decodeOn_wordF none op f hl hh hi
    · obtain ⟨hw, -, hh, hi⟩ := (reads_of_asS hs).of_wellFormed h
      rw [hw]; exact decodeOn_wordS hs hh hi
    · obtain ⟨hw, hm, hh, hi⟩ := (reads_of_asC hc).of_wellFormed h
      rw [hw]; exact decodeOn_wordC hc hm hh hi
    · obtain ⟨hw, -, hh, hi⟩ := (reads_of_asSm hsm).of_wellFormed h
      rw [hw]; exact decodeOn_wordSm hsm hh hi
    · obtain ⟨hw, -, hh, hi⟩ := (reads_of_asM hm).of_wellFormed h
      rw [hw]; exact decodeOn_wordM hm hh hi
    · obtain ⟨hw, -, hh, hi⟩ := (reads_of_asX hx).of_wellFormed h
      rw [hw]; exact decodeOn_wordX hx hh hi
  · obtain ⟨he, hr⟩ := reads_of_aux h
    obtain ⟨hw, hl, hh, hi⟩ := hr.of_wellFormed h
    rw [hw, he]; exact decodeOn_wordF rep op f hl hh hi

end Sys2Proof

/-- Settles O54, by evaluating the decoder on each of the words. -/
theorem wordsDecode : Obligations.WordsDecode := by
  unfold Obligations.WordsDecode
  decide

/-- Settles O55: the formats' words decode field by field, and a well-formed instruction is written in one of the formats. -/
theorem decodeEncode : Obligations.DecodeEncode := fun _ _ h => Sys2Proof.decodeOn_encode h

/-! The fetch of an instruction (O56): the words that the decoder uses, and the fetch of words that memory holds. -/

namespace Sys2Proof

/-! ## The words a decoding uses (02 R27) -/

/-- The gathering of prefixes stops at a word that is none: it reads what stands before that word and not what follows it. -/
theorem takePrefixes_split {k : Nat} {p q : Prefixes} {ok ok' : Bool} {n m : Nat} {ws rest : List Dword} {w : Dword}
    (h : takePrefixes k p ok n ws = (q, ok', m, w :: rest)) (hw : frameOf w ≠ 2) :
    ∃ pre, ws = pre ++ w :: rest ∧ pre.length ≤ k ∧ m = n + pre.length ∧
      ∀ more, takePrefixes k p ok n (pre ++ w :: more) = (q, ok', m, w :: more) := by
  induction k generalizing p ok n ws with
  | zero =>
    simp only [takePrefixes, Prod.mk.injEq] at h
    obtain ⟨rfl, rfl, rfl, rfl⟩ := h
    exact ⟨[], rfl, le_rfl, rfl, fun _ => rfl⟩
  | succ k ih =>
    rcases ws with _ | ⟨v, ws⟩
    · simp [takePrefixes] at h
    · by_cases hv : frameOf v = 2
      · -- `v` is one of the prefixes, taken with or without fault
        obtain ⟨p', ok'', hstep⟩ : ∃ p' ok'', ∀ l, takePrefixes (k + 1) p ok n (v :: l) = takePrefixes k p' ok'' (n + 1) l := by
          cases ha : p.add v with
          | some q => exact ⟨q, ok, fun l => by simp [takePrefixes, hv, ha]⟩
          | none => exact ⟨p, false, fun l => by simp [takePrefixes, hv, ha]⟩
        rw [hstep] at h
        obtain ⟨pre, rfl, hlen, rfl, hmore⟩ := ih h
        refine ⟨v :: pre, rfl, by simp [hlen], by simp only [List.length_cons]; omega, fun more => ?_⟩
        rw [List.cons_append, hstep, hmore]
      · simp only [takePrefixes, if_neg hv, Prod.mk.injEq, List.cons.injEq] at h
        obtain ⟨rfl, rfl, rfl, rfl, rfl⟩ := h
        exact ⟨[], rfl, by simp, rfl, fun _ => by simp [takePrefixes, hv]⟩

theorem withCount_ok {n m : Nat} {r : Except StopCause Decoded} {x : Decoded} (h : withCount n r = .ok (x, m)) : m = n := by
  cases r <;> simp_all [withCount]

/-- A decoding counts the words up to the first that is not one of the prefixes. -/
theorem decodeOn_count {svc : Bool} {ws : List Dword} {x : Decoded} {n : Nat} (h : decodeOn svc ws = .ok (x, n)) :
    ∃ p m w rest, takePrefixes 4 {} true 0 ws = (p, true, m, w :: rest) ∧ frameOf w ≠ 2 ∧ n = m + 1 := by
  unfold decodeOn at h
  split at h
  · cases h
  · next p ok m w rest ht =>
    split at h
    · cases h
    next hw =>
    have hw2 : frameOf w ≠ 2 := by omega
    dsimp only at h
    split at h
    · cases h
    next hok =>
    obtain rfl : ok = true := by cases ok <;> simp_all
    split at h
    · split at h
      · cases h
      · exact ⟨_, _, _, _, ht, hw2, withCount_ok h⟩
    · split at h
      · cases h
      · exact ⟨_, _, _, _, ht, hw2, withCount_ok h⟩

/-- What follows the first word that is not one of the prefixes is not decoded. -/
theorem decodeOn_congr {svc : Bool} {ws vs : List Dword} {r : Prefixes × Bool × Nat} {w : Dword} {l l' : List Dword}
    (h : takePrefixes 4 {} true 0 ws = (r.1, r.2.1, r.2.2, w :: l)) (h' : takePrefixes 4 {} true 0 vs = (r.1, r.2.1, r.2.2, w :: l')) :
    decodeOn svc ws = decodeOn svc vs := by
  simp only [decodeOn, h, h']

/-- The words that a decoding uses are its first one to five, and no others matter. -/
theorem decodeOn_uses {svc : Bool} {ws : List Dword} {x : Decoded} {n : Nat} (h : decodeOn svc ws = .ok (x, n)) (more : List Dword) :
    1 ≤ n ∧ n ≤ 5 ∧ n ≤ ws.length ∧ decodeOn svc (ws.take n ++ more) = .ok (x, n) := by
  obtain ⟨p, m, w, rest, ht, hw, rfl⟩ := decodeOn_count h
  obtain ⟨pre, rfl, hlen, rfl, hmore⟩ := takePrefixes_split ht hw
  have htake : (pre ++ w :: rest).take (0 + pre.length + 1) ++ more = pre ++ w :: more := by
    simp [List.take_append, List.take_of_length_le]
  refine ⟨by omega, by omega, by simp, ?_⟩
  rw [htake, ← decodeOn_congr (r := (p, true, _)) ht (hmore more), h]

end Sys2Proof

namespace Sys2Proof.Machine

open Sys2Proof.Claims

/-! ## The words that memory and the instruction cache hold -/

theorem number_eq_leNat (bs : List Byte) : number bs = leNat bs := by
  have shift : ∀ (l : List Byte) k, ((l.zipIdx k).map (fun x => x.1.toNat * 256 ^ x.2)).sum = 256 ^ k * leNat l := by
    intro l
    induction l with
    | nil => intro k; simp [leNat]
    | cons b l ih => intro k; simp only [List.zipIdx_cons, List.map_cons, List.sum_cons, ih, leNat]; ring
  simpa [number] using shift bs 0

theorem State.dwordAt_of_number {s : State} {a : Nat} {v : Dword} (h : number (s.bytes a 8) = v.toNat) : s.dwordAt a = v := by
  rw [State.dwordAt, ← number_eq_leNat, h, BitVec.ofNat_toNat, BitVec.setWidth_eq]

theorem Table.get_update {α : Type} [DecidableEq α] {d : Nat → α} (t : Table α) (j k : Nat) (f : α → α) :
    (t.update d j f).get d k = if k = j then f (t.get d j) else t.get d k := Table.get_set ..

/-- Words kept by their places in a line: a place holds those it held and the new ones. -/
theorem mem_get_foldl_keep {ws : List (Nat × Dword)} {t : Table (List Dword)} {k : Nat} {v : Dword}
    (h : v ∈ Table.get nilAt (ws.foldl (fun t x => Table.update nilAt t x.1 (fun l => x.2 :: l.filter (fun v => decide (v ≠ x.2)))) t) k) :
    v ∈ Table.get nilAt t k ∨ (k, v) ∈ ws := by
  induction ws generalizing t with
  | nil => exact .inl h
  | cons x ws ih =>
    rcases ih h with h | h
    · rw [Table.get_update] at h
      by_cases hk : k = x.1
      · rw [if_pos hk] at h
        rcases List.mem_cons.1 h with rfl | h
        · exact .inr (by rw [hk]; exact List.mem_cons_self ..)
        · exact .inl (by rw [hk]; exact (List.mem_filter.1 h).1)
      · exact .inl (by rwa [if_neg hk] at h)
    · exact .inr (List.mem_cons_of_mem _ h)

/-- A core's instruction cache after a line was put into it: of that line its words, of another set what stood there. -/
theorem Core.iwords_putLine {c : Core} {x : ILine} {ctx a : Nat} {v : Dword}
    (hset : (a / 128 = x.line ∧ ctx = x.ctx) ∨ a / 128 % 128 ≠ x.line % 128) (h : v ∈ (c.putLine x).iwords ctx a) :
    v ∈ c.iwords ctx a ∨ (a / 128 = x.line ∧ v ∈ Table.get nilAt x.words (a / 8 % 16)) := by
  simp only [Core.putLine, Core.iwords, Table.get_update] at h
  rcases hset with ⟨hl, rfl⟩ | hset
  · rw [if_pos (by rw [hl])] at h
    split at h
    · exact .inr ⟨hl, by simpa [List.find?_cons, hl] using h⟩
    · split at h
      · exact .inr ⟨hl, by simpa [List.find?_cons, hl] using h⟩
      · -- every line of the set is locked: the line does not come in
        rw [List.find?_filter, List.find?_eq_none.2] at h
        · cases h
        · intro y _; simp only [hl]; cases decide (y.ctx = x.ctx) && decide (y.line = x.line) <;> simp
  · rw [if_neg hset] at h; exact .inl h

/-- The line of a context that a core holds, or an empty one. -/
def Core.heldLine (c : Core) (ctx line : Nat) : ILine :=
  ((Table.get nilAt c.icache (line % 128)).find? (fun x => x.ctx = ctx && x.line = line)).getD { ctx := ctx, line := line }

theorem Core.heldLine_key (c : Core) (ctx line : Nat) : (c.heldLine ctx line).ctx = ctx ∧ (c.heldLine ctx line).line = line := by
  unfold Core.heldLine
  cases hf : (Table.get nilAt c.icache (line % 128)).find? (fun x => x.ctx = ctx && x.line = line) with
  | none => exact ⟨rfl, rfl⟩
  | some y => simpa using List.find?_some hf

theorem Core.heldLine_words (c : Core) (ctx a : Nat) : Table.get nilAt (c.heldLine ctx (a / 128)).words (a / 8 % 16) = c.iwords ctx a := by
  unfold Core.heldLine Core.iwords
  cases (Table.get nilAt c.icache (a / 128 % 128)).find? (fun x => x.ctx = ctx && x.line = a / 128) <;> rfl

theorem Core.keepWords_eq (c : Core) (ctx line : Nat) (ws : List (Nat × Dword)) : c.keepWords ctx line ws =
    c.putLine { c.heldLine ctx line with
      words := ws.foldl (fun t x => Table.update nilAt t x.1 (fun l => x.2 :: l.filter (fun v => decide (v ≠ x.2))))
        (c.heldLine ctx line).words } := rfl

/-- A core's instruction cache after it has kept words of a line: of that line the words it held and the new ones, of another set what it
held. -/
theorem Core.iwords_keepWords {c : Core} {ctx line a : Nat} {ws : List (Nat × Dword)} {v : Dword}
    (hset : a / 128 = line ∨ a / 128 % 128 ≠ line % 128) (h : v ∈ (c.keepWords ctx line ws).iwords ctx a) :
    v ∈ c.iwords ctx a ∨ (a / 128 = line ∧ (a / 8 % 16, v) ∈ ws) := by
  obtain ⟨hc, hl⟩ := c.heldLine_key ctx line
  rw [Core.keepWords_eq] at h
  have hput := Core.iwords_putLine (x := { c.heldLine ctx line with words := _ }) (a := a) (ctx := ctx) (by
    rcases hset with e | e
    · exact .inl ⟨e.trans hl.symm, hc.symm⟩
    · exact .inr (by rw [hl]; exact e)) h
  rcases hput with h | ⟨ha, h⟩
  · exact .inl h
  · have ha : a / 128 = line := ha.trans hl
    rcases mem_get_foldl_keep h with h | h
    · rw [← ha, c.heldLine_words ctx a] at h
      exact .inl h
    · exact .inr ⟨ha, h⟩

/-! ## What the fetch of words changes -/

/-- What fetching words that a core has translations of changes: its instruction cache, the order of its TLB and of its die's, and the count
of draws. The die's TLB keeps its entries, and the core's gets none but those of the two. -/
structure FetchOnly (core : Nat) (s t : State) : Prop where
  rest : t = { s with cores := t.cores, dies := t.dies, free := t.free }
  cores : ∀ c, c ≠ core → t.core c = s.core c
  dies : ∀ d, d ≠ core / 16 → t.die d = s.die d
  ofCore : t.core core = { s.core core with icache := (t.core core).icache, tlb := (t.core core).tlb }
  ofDie : t.die (core / 16) = { s.die (core / 16) with tlb := (t.die (core / 16)).tlb }
  coreTlb : ∀ e ∈ (t.core core).tlb, e ∈ (s.core core).tlb ++ (s.die (core / 16)).tlb
  dieTlb : ∀ e, e ∈ (t.die (core / 16)).tlb ↔ e ∈ (s.die (core / 16)).tlb

section
variable {core : Nat} {s t u : State}

theorem FetchOnly.refl (core : Nat) (s : State) : FetchOnly core s s where
  rest := rfl
  cores _ _ := rfl
  dies _ _ := rfl
  ofCore := rfl
  ofDie := rfl
  coreTlb _ h := List.mem_append_left _ h
  dieTlb _ := Iff.rfl

theorem FetchOnly.trans (h : FetchOnly core s t) (k : FetchOnly core t u) : FetchOnly core s u where
  rest := by rw [k.rest, h.rest]
  cores c hc := (k.cores c hc).trans (h.cores c hc)
  dies d hd := (k.dies d hd).trans (h.dies d hd)
  ofCore := by rw [k.ofCore, h.ofCore]
  ofDie := by rw [k.ofDie, h.ofDie]
  coreTlb e he := by
    rcases List.mem_append.1 (k.coreTlb e he) with he | he
    · exact h.coreTlb e he
    · exact List.mem_append_right _ ((h.dieTlb e).1 he)
  dieTlb e := (k.dieTlb e).trans (h.dieTlb e)

theorem FetchOnly.drawn (h : FetchOnly core s t) (n : Nat) : FetchOnly core s { t with free := n } :=
  { h with rest := by rw [h.rest] }

/-- A change of a core's instruction cache. -/
theorem FetchOnly.onIcache {f : Core → Core} (hf : ∀ c, f c = { c with icache := (f c).icache }) : FetchOnly core s (s.onCore core f) where
  rest := rfl
  cores c hc := State.core_onCore_ne _ _ hc
  dies _ _ := rfl
  ofCore := by rw [State.core_onCore_self, hf]
  ofDie := rfl
  coreTlb e he := by rw [State.core_onCore_self, hf] at he; exact List.mem_append_left _ he
  dieTlb _ := Iff.rfl

/-- A change of a core's TLB. -/
theorem FetchOnly.onTlb {l : List TlbEntry} (hl : ∀ e ∈ l, e ∈ (s.core core).tlb ++ (s.die (core / 16)).tlb) :
    FetchOnly core s (s.onCore core (fun c => { c with tlb := l })) where
  rest := rfl
  cores c hc := State.core_onCore_ne _ _ hc
  dies _ _ := rfl
  ofCore := by rw [State.core_onCore_self]
  ofDie := rfl
  coreTlb e he := by rw [State.core_onCore_self] at he; exact hl e he
  dieTlb _ := Iff.rfl

/-- A change of the order of a die's TLB. -/
theorem FetchOnly.onDieTlb {l : List TlbEntry} (hl : ∀ e, e ∈ l ↔ e ∈ (s.die (core / 16)).tlb) :
    FetchOnly core s (s.onDie (core / 16) (fun d => { d with tlb := l })) where
  rest := rfl
  cores _ _ := rfl
  dies d hd := State.die_onDie_ne _ _ hd
  ofCore := rfl
  ofDie := by rw [State.die_onDie_self]
  coreTlb e he := List.mem_append_left _ he
  dieTlb e := by rw [State.die_onDie_self]; exact hl e

theorem FetchOnly.byte (h : FetchOnly core s t) (a : Nat) : t.byte a = s.byte a := by rw [h.rest]; rfl

theorem FetchOnly.bytes (h : FetchOnly core s t) (a n : Nat) : t.bytes a n = s.bytes a n := by rw [h.rest]; rfl

theorem FetchOnly.dwordAt (h : FetchOnly core s t) (a : Nat) : t.dwordAt a = s.dwordAt a := by rw [h.rest]; rfl

/-! ## Translations at hand (09 R200) -/

/-- A core has one translation of an address of a context, and its die holds it. -/
def State.Translates (s : State) (core ctx a : Nat) (e : TlbEntry) : Prop :=
  e ∈ (s.die (core / 16)).tlb ∧ e.serves ctx a = true ∧ ∀ x ∈ (s.core core).tlb ++ (s.die (core / 16)).tlb, x.serves ctx a = true → x = e

variable {ctx a : Nat} {e : TlbEntry}

theorem State.Translates.fetchOnly (h : s.Translates core ctx a e) (k : FetchOnly core s t) : t.Translates core ctx a e := by
  obtain ⟨hd, hs, hu⟩ := h
  refine ⟨(k.dieTlb e).2 hd, hs, fun x hx => hu x ?_⟩
  rcases List.mem_append.1 hx with hx | hx
  · exact k.coreTlb x hx
  · exact List.mem_append_right _ ((k.dieTlb x).1 hx)

/-- Any translation of the address that a search of the core's TLB or of its die's finds is that one. -/
theorem State.Translates.found (h : s.Translates core ctx a e) {x : TlbEntry} {l : List TlbEntry}
    (hl : ∀ y ∈ l, y ∈ (s.core core).tlb ++ (s.die (core / 16)).tlb) (hf : l.find? (fun e => e.serves ctx a) = some x) : x = e :=
  h.2.2 x (hl x (List.mem_of_find?_eq_some hf)) (by simpa using List.find?_some hf)

theorem State.Translates.findDie (h : s.Translates core ctx a e) :
    (s.die (dieOf core)).tlb.find? (fun e => e.serves ctx a) = some e := by
  cases hf : (s.die (dieOf core)).tlb.find? (fun e => e.serves ctx a) with
  | none => exact absurd h.2.1 (by simpa using List.find?_eq_none.1 hf e h.1)
  | some x => rw [h.found (fun y hy => List.mem_append_right _ hy) hf]

theorem State.Translates.tlbLook (h : s.Translates core ctx a e) : s.tlbLook core ctx a = some e := by
  unfold State.tlbLook
  split
  · next x hf => rw [h.found (fun y hy => List.mem_append_left _ hy) hf]
  · exact h.findDie

theorem mem_l1Fill {l : List TlbEntry} {x : TlbEntry} (h : x ∈ l1Fill l e) : x = e ∨ x ∈ l := by
  rcases List.mem_cons.1 (List.mem_of_mem_take h) with h | h
  · exact .inl h
  · exact .inr (List.mem_filter.1 h).1

/-- The use of a translation at hand moves it to the front. -/
theorem State.Translates.tlbTouch (h : s.Translates core ctx a e) :
    FetchOnly core s (s.tlbTouch core ctx a) ∧ ((s.tlbTouch core ctx a).core core).icache = (s.core core).icache := by
  have hfill : ∀ x ∈ l1Fill (s.core core).tlb e, x ∈ (s.core core).tlb ++ (s.die (core / 16)).tlb := fun x hx =>
    (mem_l1Fill hx).elim (fun hx => List.mem_append_right _ (hx ▸ h.1)) (List.mem_append_left _)
  have hcore := FetchOnly.onTlb hfill
  unfold State.tlbTouch
  split
  · next x hf =>
    obtain rfl := h.found (fun y hy => List.mem_append_left _ hy) hf
    exact ⟨hcore, by rw [State.core_onCore_self]⟩
  · rw [h.findDie]
    refine ⟨hcore.trans (FetchOnly.onDieTlb fun x => ?_), ?_⟩
    · by_cases hx : x = e
      · simpa [hx] using h.1
      · simp [hx, dieOf]
    · simp
end

/-! ## The fetch of a word (14 R323) -/

/-- Memory holds a word of code for a context: a core has a translation of its address, which passes the checks of a fetch, and keeps no other
version of the word. -/
structure State.HoldsCode (s : State) (core ctx a pa : Nat) (v : Dword) : Prop where
  translated : ∃ e, s.Translates core ctx a e ∧ s.check core ctx (BitVec.ofNat 64 a) 8 .fetch { exec := true } = .ok (pa, e)
  place : placeOf pa = .memory
  offset : pa % 128 = a % 128
  word : s.dwordAt pa = v
  kept : ∀ x ∈ (s.core core).iwords ctx a, x = v

/-- A core's instruction cache after the fetch of a word: it keeps words of that line as memory holds them. -/
def KeepsLine (core ctx a pa : Nat) (s t : State) : Prop :=
  ∃ l, (∀ x ∈ l, x.2 = s.dwordAt (pa - a % 128 + 8 * x.1)) ∧ (t.core core).icache = ((s.core core).keepWords ctx (a / 128) l).icache

section
variable {core wave split ctx a pa : Nat} {w : Wave} {s t : State} {v : Dword} {e : TlbEntry}

theorem Core.iwords_congr {c d : Core} (h : c.icache = d.icache) (ctx a : Nat) : c.iwords ctx a = d.iwords ctx a := by
  rw [Core.iwords, h, Core.iwords]

theorem Core.keepWords_icache_congr {c d : Core} (h : c.icache = d.icache) (hl : c.locked = d.locked) (ctx line : Nat) (l : List (Nat × Dword)) :
    (c.keepWords ctx line l).icache = (d.keepWords ctx line l).icache := by
  simp only [Core.keepWords, Core.putLine, h, hl]

/-- The checks of a fetch depend on the translation alone, where it is at hand. -/
theorem State.Translates.check_eq (h : s.Translates core ctx a e) (ha : a < 2 ^ 64) :
    s.check core ctx (BitVec.ofNat 64 a) 8 .fetch { exec := true } = checkWalked { page := e } (BitVec.ofNat 64 a) 8 .fetch { exec := true } := by
  rw [State.check, State.resolve, BitVec.toNat_ofNat, Nat.mod_eq_of_lt ha, h.tlbLook]

/-- A fetch leaves what memory holds at another word of the code: in the same line it keeps that word as memory holds it, and the next line
stands in another set. -/
theorem State.HoldsCode.afterFetch {a' pa' : Nat} {v' : Dword} (h : s.HoldsCode core ctx a' pa' v') (k : FetchOnly core s t)
    (kl : KeepsLine core ctx a pa s t) (ha : a % 8 = 0) (ha' : a' % 8 = 0) (hpa : pa % 128 = a % 128) (hlt : a < a') (hle : a' < a + 128)
    (hmax : a' < 2 ^ 64) (hline : a / 128 = a' / 128 → pa' = pa + (a' - a)) : t.HoldsCode core ctx a' pa' v' where
  translated := by
    obtain ⟨e, he, hc⟩ := h.translated
    exact ⟨e, he.fetchOnly k, by rw [(he.fetchOnly k).check_eq hmax, ← he.check_eq hmax, hc]⟩
  place := h.place
  offset := h.offset
  word := by rw [k.dwordAt, h.word]
  kept x hx := by
    obtain ⟨l, hl, hi⟩ := kl
    rw [Core.iwords_congr hi] at hx
    rcases Core.iwords_keepWords (by omega) hx with hx | ⟨he, hx⟩
    · exact h.kept x hx
    · have hpl : pa - a % 128 + 8 * (a' / 8 % 16) = pa' := by
        have := hline he.symm
        have := Nat.mod_le pa 128
        omega
      rw [← h.word, ← hpl]
      exact hl _ hx

/-- A line kept in a core's instruction cache. -/
theorem KeepsLine.onCore {l : List (Nat × Dword)} {n : Nat} (hl : ∀ x ∈ l, x.2 = s.dwordAt (pa - a % 128 + 8 * x.1)) :
    FetchOnly core s ({ s with free := n }.onCore core (fun c => c.keepWords ctx (a / 128) l)) ∧
      KeepsLine core ctx a pa s ({ s with free := n }.onCore core (fun c => c.keepWords ctx (a / 128) l)) :=
  ⟨((FetchOnly.refl core s).drawn n).trans (FetchOnly.onIcache fun _ => rfl), l, hl, by rw [State.core_onCore_self]; rfl⟩

/-- What a split fetches of a word that memory holds, where the core keeps no other version. -/
theorem State.HoldsCode.fetchMemory (h : s.HoldsCode core w.ctx a pa v) (ha : a % 8 = 0) {held : List Dword} (hk : ∀ x ∈ held, x = v) :
    ∃ t, s.fetchMemory core w a pa held = (v, t) ∧ FetchOnly core s t ∧ KeepsLine core w.ctx a pa s t := by
  -- `v` is what memory holds at its place in the line
  have hv : v = s.dwordAt (pa - a % 128 + 8 * (a / 8 % 16)) := by
    have hpa := h.offset
    have := Nat.mod_le pa 128
    rw [show pa - a % 128 + 8 * (a / 8 % 16) = pa by omega, h.word]
  rcases held with _ | ⟨y, ys⟩
  · refine ⟨_, by rw [State.fetchMemory, h.word], KeepsLine.onCore (n := s.free) fun x hx => ?_⟩
    obtain ⟨k, -, rfl⟩ := List.mem_map.1 hx
    rfl
  · obtain rfl := hk y (List.mem_cons_self ..)
    unfold State.fetchMemory
    dsimp only [State.freeChoice]
    split
    · exact ⟨_, rfl, KeepsLine.onCore (n := s.free) fun x hx => by rw [List.mem_singleton.1 hx]; exact hv⟩
    · generalize hl : (if (s.core core).locked.contains (w.ctx, a / 128) then y :: ys else s.dwordAt pa :: y :: ys) = l
      have hall : ∀ x ∈ l, x = y := by
        subst hl
        split
        · exact hk
        · exact List.forall_mem_cons.2 ⟨h.word, hk⟩
      have hx : l.getD (Config.freeChoice s.free % l.length) (s.dwordAt pa) = y := by
        rw [List.getD_eq_getElem?_getD]
        cases hg : l[Config.freeChoice s.free % l.length]? with
        | none => exact h.word
        | some x => exact hall x (List.mem_of_getElem? hg)
      rw [hx]
      refine ⟨_, rfl, KeepsLine.onCore (n := s.free + 1) fun x hx => ?_⟩
      simp only [List.mem_append, List.mem_map, List.mem_filter, List.mem_singleton] at hx
      rcases hx with ⟨z, ⟨hz, -⟩, rfl⟩ | rfl
      · exact (hk z hz).trans hv
      · exact hv

/-- A split fetches a word that memory holds. -/
theorem State.HoldsCode.fetchWord (h : s.HoldsCode core w.ctx a pa v) (ha : a % 8 = 0) (hmax : a < 2 ^ 64) :
    ∃ t, s.fetchWord core wave split w (BitVec.ofNat 64 a) = (.words [v], t) ∧ FetchOnly core s t ∧ KeepsLine core w.ctx a pa s t := by
  obtain ⟨e, he, hc⟩ := h.translated
  have hn : (BitVec.ofNat 64 a).toNat = a := by rw [BitVec.toNat_ofNat, Nat.mod_eq_of_lt hmax]
  have hmay : s.mayTranslate core w.ctx a = true := by simp [State.mayTranslate, he.tlbLook]
  -- the use of the translation changes the order of the TLBs alone
  obtain ⟨u, hu, ku, iu⟩ : ∃ u, s.checkFill core w.ctx (BitVec.ofNat 64 a) 8 .fetch { exec := true } = (.ok (pa, e), u) ∧
      FetchOnly core s u ∧ (u.core core).icache = (s.core core).icache := by
    simp only [State.checkFill, hc, hn, he.tlbLook, Option.isSome_some, if_true]
    split
    · exact ⟨_, rfl, FetchOnly.refl .., rfl⟩
    · exact ⟨_, rfl, he.tlbTouch⟩
  have hu' : u.HoldsCode core w.ctx a pa v :=
    ⟨⟨e, he.fetchOnly ku, by rw [(he.fetchOnly ku).check_eq hmax, ← he.check_eq hmax, hc]⟩, h.place, h.offset,
      by rw [ku.dwordAt, h.word], by rw [Core.iwords_congr iu]; exact h.kept⟩
  obtain ⟨t, ht, kt, l, hl, hi⟩ := hu'.fetchMemory ha hu'.kept
  have hwin : windowOf pa = none := by simp [windowOf, h.place]
  refine ⟨t, ?_, ku.trans kt, l, fun x hx => (hl x hx).trans (ku.dwordAt _), hi.trans ?_⟩
  · simp only [State.fetchWord, hn, hmay, hu, hwin, ht, Bool.not_true, Bool.false_eq_true, if_false]
  · exact Core.keepWords_icache_congr iu (by rw [ku.ofCore]) ..

/-! ## The fetch of an instruction (02 R27) -/

/-- The words from an address on: memory holds them for the context, one segment of the code holds them all, in a line they stand in one piece,
and all but the last are prefixes, and the last is none unless it is the fifth. -/
structure State.HoldsWords (s : State) (core ctx : Nat) (segs : List (Nat × Nat × Nat)) (fuel a : Nat) (pa : Nat → Nat) (ws : List Dword) : Prop where
  nonempty : ws ≠ []
  atMost : ws.length ≤ fuel
  prefixes : ∀ k, k + 1 < ws.length → frameOf (ws.getD k 0) = 2
  last : frameOf (ws.getD (ws.length - 1) 0) ≠ 2 ∨ ws.length = fuel
  top : a + 8 * ws.length ≤ 2 ^ 64
  segment : ∃ x ∈ segs, x.1 ≤ a ∧ a + 8 * ws.length ≤ x.1 + x.2.1
  line : ∀ j k, j < k → k < ws.length → (a + 8 * j) / 128 = (a + 8 * k) / 128 → pa k = pa j + 8 * (k - j)
  words : ∀ k < ws.length, s.HoldsCode core ctx (a + 8 * k) (pa k) (ws.getD k 0)

/-- After the first word, the others stand as they stood. -/
theorem State.HoldsWords.tail {segs : List (Nat × Nat × Nat)} {fuel : Nat} {pa : Nat → Nat} {u : Dword} {ws : List Dword}
    (h : s.HoldsWords core ctx segs (fuel + 1) a pa (v :: u :: ws)) (ha : a % 8 = 0) (hfuel : fuel < 5) (k : FetchOnly core s t) (kl : KeepsLine core ctx a (pa 0) s t) :
    t.HoldsWords core ctx (segmentsWith segs a) fuel (a + 8) (fun k => pa (k + 1)) (u :: ws) where
  nonempty := by simp
  atMost := by simpa using h.atMost
  prefixes j hj := by simpa using h.prefixes (j + 1) (by simpa using hj)
  last := by simpa using h.last
  top := by have := h.top; simp only [List.length_cons] at this ⊢; omega
  segment := by
    obtain ⟨x, hx, h1, h2⟩ := h.segment
    simp only [List.length_cons] at h2 ⊢
    refine ⟨x, List.mem_filter.2 ⟨hx, ?_⟩, by omega, by omega⟩
    simp only [Bool.and_eq_true, decide_eq_true_eq]
    omega
  line j k hjk hk he := by
    have := h.line (j + 1) (k + 1) (by omega) (by simpa using hk) (by convert he using 1 <;> ring_nf)
    omega
  words j hj := by
    have hlen := h.atMost
    have htop := h.top
    have h0 := (h.words 0 (by simp)).offset
    have hw := h.words (j + 1) (by simpa using hj)
    simp only [List.length_cons] at hj hlen htop
    rw [show a + 8 + 8 * j = a + 8 * (j + 1) by ring]
    refine State.HoldsCode.afterFetch (by simpa using hw) k kl ha (by omega) (by simpa using h0) (by omega) (by omega) (by omega) fun he => ?_
    have := h.line 0 (j + 1) (by omega) (by simp; omega) (by simpa using he)
    omega

/-- The fetch of words that memory holds gives them, and changes nothing but what is at hand at the core. -/
theorem State.HoldsWords.fetchFrom {fuel : Nat} {ws : List Dword} {s : State} {segs : List (Nat × Nat × Nat)} {a : Nat} {pa : Nat → Nat}
    (h : s.HoldsWords core w.ctx segs fuel a pa ws) (ha : a % 8 = 0) (hfuel : fuel ≤ 5) :
    ∃ t, s.fetchFrom core wave split w segs fuel (BitVec.ofNat 64 a) = (.words ws, t) ∧ FetchOnly core s t := by
  induction fuel generalizing ws s segs a pa with
  | zero => exact absurd (List.length_eq_zero_iff.1 (Nat.le_zero.1 h.atMost)) h.nonempty
  | succ fuel ih =>
    rcases ws with _ | ⟨v, ws⟩
    · exact absurd rfl h.nonempty
    have htop := h.top
    simp only [List.length_cons] at htop
    obtain ⟨t, ht, kt, kl⟩ := State.HoldsCode.fetchWord (wave := wave) (split := split) (by simpa using h.words 0 (by simp)) ha (by omega)
    have hn : (BitVec.ofNat 64 a).toNat = a := by rw [BitVec.toNat_ofNat, Nat.mod_eq_of_lt (by omega)]
    have hseg : segmentsWith segs a ≠ [] := by
      obtain ⟨x, hx, h1, h2⟩ := h.segment
      refine List.ne_nil_of_mem (a := x) (List.mem_filter.2 ⟨hx, ?_⟩)
      simp only [List.length_cons] at h2
      simp only [Bool.and_eq_true, decide_eq_true_eq]
      omega
    simp only [State.fetchFrom, hn, if_neg hseg, ht, List.headD_cons]
    rcases ws with _ | ⟨u, ws⟩
    · by_cases hf : frameOf v = 2
      · -- the fifth word is among the prefixes: no more are fetched
        obtain rfl : fuel = 0 := by simpa [hf] using h.last
        exact ⟨t, by simp [hf, State.fetchFrom], kt⟩
      · exact ⟨t, by simp [hf], kt⟩
    · have hf : frameOf v = 2 := by simpa using h.prefixes 0 (by simp)
      obtain ⟨t', ht', kt'⟩ := ih (h.tail ha (by omega) kt kl) (by omega) (by omega)
      refine ⟨t', ?_, kt.trans kt'⟩
      rw [if_pos hf, show (BitVec.ofNat 64 a + 8 : Dword) = BitVec.ofNat 64 (a + 8) by rw [BitVec.ofNat_add]; rfl, ht']
      rfl
end

/-- Settles O56: word after word, the translation at hand gives the place, and memory or the instruction cache the word; a decoding stops at
the first word that is not one of the prefixes. -/
theorem instructionFetch : Obligations.InstructionFetch := by
  refine ⟨fun s core wave split w pc ws pa hpc hpos hlen hpre hlast htop hseg hline hwords => ?_, fun svc ws more x n h => decodeOn_uses h more⟩
  have hw : s.HoldsWords core w.ctx (s.codeOf w) 5 pc.toNat pa ws :=
    { nonempty := List.ne_nil_of_length_pos hpos, atMost := hlen, prefixes := hpre, last := hlast, top := htop, segment := hseg, line := hline
      words := fun k hk => by
        obtain ⟨⟨e, he, hs, hu, hc⟩, hp, ho, hn, hi⟩ := hwords k hk
        exact ⟨⟨e, ⟨he, hs, hu⟩, hc⟩, hp, ho, State.dwordAt_of_number hn, hi⟩ }
  obtain ⟨t, ht, k⟩ := hw.fetchFrom (wave := wave) (split := split) hpc le_rfl
  refine ⟨t, ?_, k.rest, k.cores, k.dies, k.ofCore, k.ofDie⟩
  rw [State.fetchSplit, if_neg (by omega), ← ht, BitVec.ofNat_toNat, BitVec.setWidth_eq]

end Sys2Proof.Machine

/-! A step runs the decoded instruction (O57): the turns of a split, of a service core and of an event, and that every turn ends in a next state. -/

namespace Sys2Proof.Machine

open Sys2Proof.Claims

/-! ## Every outcome is a next state (14 R301) -/

theorem runF_next (op : FOp) (f : FArgs) (s : State) : ∃ t, runF op f s = .next t := by cases op <;> exact ⟨_, rfl⟩

theorem execRepRepeat_next (s : State) : ∃ t, execRepRepeat s = .next t := by
  unfold execRepRepeat
  split
  · exact runF_next ..
  · exact ⟨_, rfl⟩

/-- Every instruction and every event answers a next state. -/
theorem exec_next (i : Instr) (s : State) : ∃ t, exec i s = .next t := by
  cases i with
  | repRepeat => exact execRepRepeat_next s
  | _ => exact ⟨_, rfl⟩

theorem thenDo_next {o : Out} (h : ∃ t, o = .next t) (f : State → State) : ∃ t, thenDo o f = .next t := by
  obtain ⟨t, rfl⟩ := h
  exact ⟨f t, rfl⟩

theorem State.issueWords_next (s : State) (core wave split : Nat) (w : Wave) (sp : Split) (f : Fetched) :
    ∃ t, s.issueWords core wave split w sp f = .next t := thenDo_next (exec_next ..) _

theorem State.issueAt_next (s : State) (core wave split : Nat) : ∃ t, s.issueAt core wave split = .next t := by
  unfold State.issueAt
  split
  · exact ⟨_, rfl⟩
  split
  · exact ⟨_, rfl⟩
  split
  · exact ⟨_, rfl⟩
  split
  · exact ⟨_, rfl⟩
  · exact State.issueWords_next ..
  · split
    · exact State.issueWords_next ..
    · exact ⟨_, rfl⟩

theorem State.svcTurn_next (s : State) (n : Nat) : ∃ t, s.svcTurn n = .next t := by
  unfold State.svcTurn
  split
  · exact ⟨_, rfl⟩
  dsimp only
  split
  · exact ⟨_, rfl⟩
  · exact thenDo_next (exec_next ..) _

theorem State.chainStep_next (s : State) (core cmd : Nat) : ∃ t, s.chainStep core cmd = .next t := by
  unfold State.chainStep
  split
  · exact thenDo_next (exec_next ..) _
  · exact ⟨_, rfl⟩

theorem State.occur_next (s : State) (e : Instr) (a : EventArgs) : ∃ t, s.occur e a = .next t := by
  unfold State.occur
  split
  · exact thenDo_next (exec_next ..) _
  · exact ⟨_, rfl⟩

theorem State.slotTurn_next (s : State) (core slot : Nat) : ∃ t, s.slotTurn core slot = .next t := by
  unfold State.slotTurn
  dsimp only
  split
  · exact ⟨_, rfl⟩
  · next x xs _ =>
    obtain ⟨t, ht⟩ := State.issueAt_next (s.slotWaits core slot) core x.wave x.split
    rw [ht]
    dsimp only
    split
    · exact State.issueAt_next ..
    · exact ⟨_, rfl⟩

theorem State.turn_next (s : State) (t : Turn) : ∃ u, s.turn t = .next u := by
  cases t with
  | issue core wave split => exact s.issueAt_next core wave split
  | slot core slot => exact s.slotTurn_next core slot
  | svc n => exact s.svcTurn_next n
  | chain core cmd => exact s.chainStep_next core cmd
  | event e a => exact s.occur_next e a
  | _ => exact ⟨_, rfl⟩

theorem State.defaultTurn_next (s : State) : ∃ t, s.defaultTurn = .next t := by
  unfold State.defaultTurn
  dsimp only
  split
  · next n o h =>
    obtain ⟨t, rfl⟩ := State.firstTurn_eq h
    exact thenDo_next (s.turn_next t) _
  · exact ⟨_, rfl⟩

theorem step_next (s : State) : ∃ t, step s = .next t := by
  unfold step State.advanceTurn
  split
  · exact State.turn_next ..
  · exact s.defaultTurn_next

/-! ## The turn of a split (02 R27, R28; 15 R343) -/

theorem step_of_agenda {s : State} {t : Turn} {ts : List Turn} (h : s.agenda = t :: ts) : step s = { s with agenda := ts }.turn t := by
  rw [step, State.advanceTurn, h]

/-- A split that may issue, and meets no breakpoint, issues the words that it has fetched. -/
theorem State.issueAt_words {s s1 : State} {core wave split : Nat} {w : Wave} {sp : Split} {ws : List Dword} (hw : s.wave core wave = some w)
    (hsp : w.split split = some sp) (hm : s.mayIssue core w split sp = true) (hf : s.fetchSplit core wave split w sp.pc = (.words ws, s1))
    (hb : s1.execBreaks w sp sp.pc = []) : s.issueAt core wave split = s1.issueWords core wave split w sp (.words ws) := by
  simp [State.issueAt, hw, hsp, hm, hf, hb]

/-- A split whose words cannot be fetched issues the fault. -/
theorem State.issueAt_fault {s s1 : State} {core wave split : Nat} {w : Wave} {sp : Split} {i : FaultInfo} (hw : s.wave core wave = some w)
    (hsp : w.split split = some sp) (hm : s.mayIssue core w split sp = true) (hf : s.fetchSplit core wave split w sp.pc = (.fault i, s1)) :
    s.issueAt core wave split = s1.issueWords core wave split w sp (.fault i) := by
  simp [State.issueAt, hw, hsp, hm, hf]

theorem issueChoice_ok {svc : Bool} {offered : Nat → Bool} {pc : Dword} {ws : List Dword} {d : Decoded} {n : Nat}
    (h : decodeOn svc ws = .ok (d, n)) (ho : offered (opcOfWords (ws.take n)) = true) :
    issueChoice svc offered pc (.words ws) = (d.instr, .none, d.aux, ws.take n) := by simp [issueChoice, h, ho]

theorem issueChoice_error {svc : Bool} {offered : Nat → Bool} {pc : Dword} {ws : List Dword} {c : StopCause} (h : decodeOn svc ws = .error c) :
    issueChoice svc offered pc (.words ws) = (.unassignedOpcIssue, .fetchFault c pc 7 false 0, none, ws) := by simp [issueChoice, h]

/-- Settles O57: a step is the first turn of the agenda, and each turn's meaning is the decoded instruction's or the event's. -/
theorem stepRunsDecoded : Obligations.StepRunsDecoded := by
  refine ⟨⟨?_, ?_, ?_, ?_⟩, step_next⟩
  · intro s s1 core wave split ts w sp ws ha s0 hw hsp hm hf hb
    have hstep : step s = s1.issueWords core wave split w sp (.words ws) := (step_of_agenda ha).trans (State.issueAt_words hw hsp hm hf hb)
    refine ⟨fun d n hd ho => ?_, fun c hc => ?_⟩
    · rw [hstep, State.issueWords, issueChoice_ok hd (by simp [ho])]
      rfl
    · rw [hstep, State.issueWords, issueChoice_error hc]
      rfl
  · intro s s1 core wave split ts w sp i ha s0 hw hsp hm hf
    exact (step_of_agenda ha).trans (State.issueAt_fault hw hsp hm hf)
  · intro s n ts ws d k ha hn s1 hh hwt hf hd
    have hturn : step s = { s with agenda := ts }.svcTurn n := step_of_agenda ha
    rw [hturn, State.svcTurn, if_neg (by omega)]
    simp only [show ({ s with agenda := ts } : State).svcTake n = s1 from rfl, hh, hwt, hf, issueChoice_ok (offered := fun _ => true) hd rfl]
    rfl
  · intro s e a ts ha he
    rw [step_of_agenda ha, State.turn, State.occur, if_pos he]
    rfl

end Sys2Proof.Machine

/-! Source modifiers and the pair frame (O7): the lane that a modifier names, the value of each half, and the writing of both. -/

namespace Sys2Proof.Machine

open Sys2Proof.Claims

/-! ## Operations on words as operations on numbers (03 R82) -/

theorem mul_eq_ofNat (a b : Word) : a * b = BitVec.ofNat 32 (a.toNat * b.toNat) := by
  apply BitVec.eq_of_toNat_eq
  rw [BitVec.toNat_mul, BitVec.toNat_ofNat]

theorem mulAdd_eq_ofNat (a b c : Word) : a * b + c = BitVec.ofNat 32 (a.toNat * b.toNat + c.toNat) := by
  apply BitVec.eq_of_toNat_eq
  rw [BitVec.toNat_add, BitVec.toNat_mul, BitVec.toNat_ofNat, Nat.mod_add_mod]

theorem shiftL_eq_ofNat {n : Nat} (a : BitVec n) (b : Word) :
    shiftL a b = if n ≤ b.toNat then 0 else BitVec.ofNat n (a.toNat * 2 ^ b.toNat) := by
  unfold shiftL
  split
  · rfl
  · apply BitVec.eq_of_toNat_eq
    rw [BitVec.toNat_shiftLeft, BitVec.toNat_ofNat, Nat.shiftLeft_eq]

theorem shiftR_eq_ofNat {n : Nat} (a : BitVec n) (b : Word) :
    shiftR a b = if n ≤ b.toNat then 0 else BitVec.ofNat n (a.toNat / 2 ^ b.toNat) := by
  unfold shiftR
  split
  · rfl
  · apply BitVec.eq_of_toNat_eq
    rw [BitVec.toNat_ushiftRight, BitVec.toNat_ofNat, Nat.shiftRight_eq_div_pow,
      Nat.mod_eq_of_lt (lt_of_le_of_lt (Nat.div_le_self ..) a.isLt)]

/-- A shift right keeps the sign: by the width or more it leaves copies of it. -/
theorem shiftA_eq_ofInt (a b : Word) : shiftA a b =
    if 32 ≤ b.toNat then (if a.toInt < 0 then 0xFFFFFFFF else 0) else BitVec.ofInt 32 (a.toInt / 2 ^ b.toNat) := by
  have key : ∀ k, a.sshiftRight k = BitVec.ofInt 32 (a.toInt / 2 ^ k) := by
    intro k
    rw [BitVec.sshiftRight, Int.shiftRight_eq_div_pow]
    norm_cast
  unfold shiftA
  split
  · next h =>
    have hlt := BitVec.toInt_lt (x := a)
    have hle := BitVec.le_toInt a
    rw [show min b.toNat (32 - 1) = 31 by omega, key]
    norm_num at hlt hle ⊢
    split
    · next hneg => rw [show a.toInt / 2147483648 = -1 by omega]; rfl
    · next hpos => rw [show a.toInt / 2147483648 = 0 by omega]; rfl
  · next h => rw [show min b.toNat (32 - 1) = b.toNat by omega, key]

theorem minS_eq_ite {n : Nat} (a b : BitVec n) : minS a b = if a.toInt ≤ b.toInt then a else b := by
  unfold minS
  simp only [BitVec.slt_eq_decide, decide_eq_true_eq, ← not_lt, ite_not]

theorem maxS_eq_ite {n : Nat} (a b : BitVec n) : maxS a b = if a.toInt ≤ b.toInt then b else a := by
  unfold maxS
  simp only [BitVec.slt_eq_decide, decide_eq_true_eq]
  split
  · rw [if_pos (by omega)]
  · split
    · exact BitVec.eq_of_toInt_eq (by omega)
    · rfl

/-- Two 16-bit elements in a word. -/
theorem packElements_pair (x y : Nat) : BitVec.ofNat 32 (packElements 16 [x, y]) = halves x y := by
  simp [packElements, halves]

theorem element_eq_half (a : Word) (j : Nat) : element a 16 j = half a j := by
  rw [element, half, Nat.mul_comm]

/-- A rounded result on each of two elements. -/
theorem packed_eq_eachHalf (fm : Fmt) (g : Bool → Val → Val → Val → Val) (m : RMode) (a b c : Word) :
    packed fm g m a b c = eachHalf fm m (fun j => g m.isRd (fm.decode (half a j)) (fm.decode (half b j)) (fm.decode (half c j))) := by
  simp only [packed, each2, List.range_succ, List.range_zero, List.nil_append, List.map_cons, List.map_nil, List.cons_append,
    packElements_pair, element_eq_half, eachHalf]

/-! ## The halves of a pair (02 R37, R38) -/

/-- A half that is not NOP has one of the codes of 02 R37. -/
theorem mem_codes_of_known {h : Half} (hk : known h) (ha : acts h = true) : h.pop.toNat % 64 ∈
    [0x01, 0x02, 0x03, 0x04, 0x05, 0x06, 0x07, 0x08, 0x09, 0x0A, 0x0B, 0x0C, 0x0D, 0x10, 0x11, 0x12, 0x13, 0x14, 0x15,
      0x18, 0x19, 0x1A, 0x1B, 0x1C, 0x1D] := by
  simp only [known, acts, decide_eq_true_eq] at hk ha
  simp only [List.mem_cons, List.not_mem_nil, or_false]
  omega

/-- The values that the model's halves take are those of the rule's. -/
theorem halfResult_eq_halfOf {h : Half} (hk : known h) (ha : acts h = true) (a b c : Word) :
    halfResult (h.pop.toNat % 64) a b c = halfOf (h.pop.toNat % 64) a b c := by
  have hm := mem_codes_of_known hk ha
  generalize h.pop.toNat % 64 = k at hm
  simp only [List.mem_cons, List.not_mem_nil, or_false] at hm
  rcases hm with rfl | rfl | rfl | rfl | rfl | rfl | rfl | rfl | rfl | rfl | rfl | rfl | rfl | rfl | rfl | rfl | rfl | rfl | rfl |
    rfl | rfl | rfl | rfl | rfl | rfl
  all_goals simp only [halfResult, halfOf, ↓mulAdd_eq_ofNat, mul_eq_ofNat, shiftL_eq_ofNat, shiftR_eq_ofNat, shiftA_eq_ofInt, minS_eq_ite,
    maxS_eq_ite, packedAdd, packedMul, packedFma, packed_eq_eachHalf]
  all_goals rfl

theorem halfImm_eq_halfB {h : Half} (hi : h.isImm = true) (w : Wave) (i : Nat) : halfImm h = halfB h w i := by
  have hp : ¬ h.pop.toNat < 64 := by simpa [Half.isImm] using hi
  simp only [halfImm, halfB, if_neg hp, Half.code, packElements_pair, eachHalf, BitVec.signExtend]
  split
  · rfl
  · split
    · rfl
    · split <;> rfl

/-- What a half leaves in its destination. -/
theorem halfValue_eq_halfOut {h : Half} (hk : known h) (ha : acts h = true) (w : Wave) (i : Nat) : halfValue h w i = halfOut h w i := by
  have hb : (if h.isImm then halfImm h else w.v h.b.toNat i) = halfB h w i := by
    split
    · next hi => exact halfImm_eq_halfB hi w i
    · next hi =>
      have hp : h.pop.toNat < 64 := by simpa [Half.isImm] using hi
      simp [halfB, hp]
  rw [halfValue, hb, Half.code, halfResult_eq_halfOf hk ha, halfOut]

theorem isNop_eq_not_acts (h : Half) : h.isNop = !acts h := by
  by_cases hp : h.pop.toNat % 64 = 0 <;> simp [Half.isNop, Half.code, acts, hp]

/-- The model names what the rule's frame names. -/
theorem pairUses_eq (h0 h1 : Half) :
    ({ vr := h0.reads ++ h1.reads, vw := halfWrites h0 ++ halfWrites h1 } : Uses) = pairUses h0 h1 := by
  simp only [pairUses, halfWrites, isNop_eq_not_acts]
  cases acts h0 <;> cases acts h1 <;> rfl

/-! ## The writes of a pair (02 R38) -/

section
variable (h : Half) (old w : Wave) (qs : List Nat) (run : Dword)

theorem Wave.writeV_sansRegs (r : Nat) (f : Nat → Word) : (w.writeV qs run r f).sansRegs = w.sansRegs := by
  unfold Wave.writeV
  rw [Wave.clearPoison_sansRegs, foldl_keeps Wave.sansRegs _ (fun _ _ => Wave.putLane_sansRegs ..), Wave.bind_sansRegs]

theorem Wave.writeV_s (r : Nat) (f : Nat → Word) (k : Nat) : (w.writeV qs run r f).s k = w.s k := by
  unfold Wave.writeV
  rw [Wave.clearPoison_s, foldl_keeps (fun w => Wave.s w k) _ (fun _ _ => Wave.putLane_s ..), Wave.bind_s]

theorem Wave.writeV_v (r : Nat) (f : Nat → Word) {r' i : Nat} (hi : i < 64) :
    (w.writeV qs run r f).v r' i = if r' = r ∧ run.getLsbD i = true then f i else w.v r' i := by
  unfold Wave.writeV
  rw [Wave.clearPoison_v, Wave.foldPut_v _ _ _ _ (fun i hi => (mem_lanesOf.1 hi).1) hi, Wave.bind_v]
  simp [mem_lanesOf, hi]

theorem halfPut_sansRegs : (halfPut h old qs run w).sansRegs = w.sansRegs := by
  unfold halfPut; split
  · rfl
  · exact Wave.writeV_sansRegs ..

theorem halfPut_s (k : Nat) : (halfPut h old qs run w).s k = w.s k := by
  unfold halfPut; split
  · rfl
  · exact Wave.writeV_s ..

theorem halfPut_v (hk : known h) {r i : Nat} (hi : i < 64) : (halfPut h old qs run w).v r i =
    if run.getLsbD i = true ∧ acts h = true ∧ r = h.d.toNat then halfOut h old i else w.v r i := by
  unfold halfPut
  cases ha : acts h with
  | false => simp [isNop_eq_not_acts, ha]
  | true =>
    rw [isNop_eq_not_acts, ha, Bool.not_true, if_neg Bool.false_ne_true, Wave.writeV_v _ _ _ _ _ hi, halfValue_eq_halfOut hk ha]
    simp only [true_and, and_comm]
end

/-- A pair frame that nothing holds back: both halves act on the registers as they stood, in the split's live lanes. -/
theorem execPair_next {h0 h1 : Half} {s : State} {w : Wave} {sp : Split} (h : Issues s (pairUses h0 h1) w sp) :
    ∃ (a : Wave) (x : Split) (gs : Table (Option Group)) (n : Nat), execPair h0 h1 s = .next (s.reissued
        ((halfPut h1 (w.seen sp s.free) (quadsOf sp.lanes) (w.liveOf sp) (halfPut h0 (w.seen sp s.free) (quadsOf sp.lanes) (w.liveOf sp) a)).setSplit
          s.cur.split (some (x.retire s.cur.aux s.cur.caddr s.cur.next))) gs n) ∧
      (∀ k, (Table.get noneAt gs k).map Group.sansAcc = (s.group k).map Group.sansAcc) ∧
      w.Marked a sp (pairUses h0 h1) ∧ x.sansSeen = sp.sansSeen := by
  obtain ⟨hc, hi, hb, w', hp⟩ := h
  obtain ⟨a, gs, n, ha, hg, he⟩ := State.issueWith_acts (fun w sp s => (s.onIssuer (fun x =>
      halfPut h1 w (quadsOf sp.lanes) (w.liveOf sp) (halfPut h0 w (quadsOf sp.lanes) (w.liveOf sp) x))).advance) hi hb hp
  generalize hv : halfPut h1 (w.seen sp s.free) (quadsOf sp.lanes) (w.liveOf sp) (halfPut h0 (w.seen sp s.free) (quadsOf sp.lanes) (w.liveOf sp) a) = v
  have hr : v.sansRegs = w.sansRegs := by rw [← hv, halfPut_sansRegs, halfPut_sansRegs, ha.rest]
  obtain ⟨x, hx, hxs⟩ := Wave.sansRegs_splitSome hr (State.issuing_split hi).2
  refine ⟨a, x, gs, n, ?_, hg, ha, hxs⟩
  rw [hv, execPair, pairUses_eq, he, State.reissued_onIssuer]
  change Host.Outcome.next ((s.reissued (halfPut h1 (w.seen sp s.free) (quadsOf sp.lanes) (w.liveOf sp)
    (halfPut h0 (w.seen sp s.free) (quadsOf sp.lanes) (w.liveOf sp) a)) gs n).advance) = _
  rw [hv, State.reissued_advance _ _ _ _ hc]
  simp only [Wave.onSplit, hx]

/-! ## Source modifiers (02 R45, R46) -/

/-- The lane that a modifier of each class names. -/
theorem modLane_eq (f : FArgs) (i : Nat) (h : f.mod.toNat / 512 ≠ 0) : f.modLane i =
    if f.mod.toNat / 512 = 1 then
      i / 2 ^ (f.mod.toNat / 64 % 8) * 2 ^ (f.mod.toNat / 64 % 8) + (i % 2 ^ (f.mod.toNat / 64 % 8) + f.mod.toNat % 64) % 2 ^ (f.mod.toNat / 64 % 8)
    else if f.mod.toNat / 512 = 2 then Nat.xor i (f.mod.toNat % 64)
    else i / 2 ^ (f.mod.toNat / 64 % 8) * 2 ^ (f.mod.toNat / 64 % 8) + f.mod.toNat % 64 := by
  have hlt : f.mod.toNat / 512 < 4 := by have := f.mod.isLt; omega
  have hbase : ∀ seg : Nat, i - i % seg = i / seg * seg := fun seg => by
    have := Nat.div_add_mod' i seg; omega
  have hrest : ∀ seg : Nat, i - i / seg * seg = i % seg := fun seg => by
    have := Nat.div_add_mod' i seg; omega
  simp only [FArgs.modLane, FArgs.cls, FArgs.lseg, FArgs.dist, hbase, hrest]
  generalize f.mod.toNat / 512 = c at h hlt
  obtain rfl | rfl | rfl : c = 1 ∨ c = 2 ∨ c = 3 := by omega
  · rfl
  · rfl
  · rfl

/-- Settles O7: the modifier's lane class by class, and the pair frame as two writes of values read before both. -/
theorem modifiersAndPairs : Obligations.ModifiersAndPairs := by
  refine ⟨fun f w sp n i k => ⟨fun h => by rw [FArgs.srcA, if_pos (show f.cls = 0 from h)], fun h => ⟨n + 8 * i + k, ?_⟩⟩, ?_⟩
  · rw [FArgs.srcA, if_neg (show f.cls ≠ 0 from h), modLane_eq f i h]
  · intro h0 h1 s w sp hk0 hk1 hd hi
    obtain ⟨a, x, gs, n, he, hg, ha, hx⟩ := execPair_next hi
    refine ⟨_, _, he, ⟨gs, n, rfl, hg⟩, ?_, fun k => ?_, fun r l hl => ?_⟩
    · exact Wave.setSplit_sansRegs (by rw [halfPut_sansRegs, halfPut_sansRegs, ha.rest]) _ (Split.retire_congr hx ..)
    · rw [Wave.setSplit_s, halfPut_s, halfPut_s, ha.s]
      simp [pairUses]
    · have hv : a.v r l = w.v r l := by rw [ha.v r l hl]; simp [pairUses]
      rw [Wave.setSplit_v, halfPut_v _ _ _ _ _ hk1 hl, halfPut_v _ _ _ _ _ hk0 hl, hv]
      exact ite_ite_comm _ _ _ _ fun ⟨_, ha1, hr1⟩ ⟨_, ha0, hr0⟩ => hd ha0 ha1 (BitVec.eq_of_toNat_eq (hr0.symm.trans hr1))

end Sys2Proof.Machine

/-! The kill of a wave that reads poison (O58), in a state whose wave table lists one wave's key twice. -/

namespace Sys2Proof.Machine

open Sys2Proof.Claims

/-- The split that issues. -/
def poisonedSplit : Split := { pc := 0x1000, lanes := 0xFF }

/-- A wave of eight lanes that has reserved nothing and floats nothing, whose register 0 is poisoned in quad 0. -/
def poisonedWave : Wave :=
  { group := 1, width := 8, vpoison := [(0, true)], splits := [(0, some poisonedSplit)] }

/-- A wave with a store of four bytes at address 0 that stands in its core's staging buffer. -/
def storingWave : Wave :=
  { group := 1, ops := [{ kind := .store, access := .store, data := [(0, 1)], units := [{ len := 4, sent := true }] }] }

/-- The poisoned wave issues, of a group whose list of live waves names only another; its key stands a second time in the wave table, with the
storing wave, where reads of the table do not see it. -/
def shadowedStore : State :=
  { State.reset with
      waves := [(0, some poisonedWave), (0, some storingWave)], groups := [(1, some { live := [1] })]
      launches := [(0, some { segments := some [] })], cur := { iaddr := 0x1000, caddr := 0x1000, next := 0x1008 } }

/-- An IADD of the poisoned register. -/
def poisonedAdd : FArgs :=
  { d := 0, a := 0, b := 0, s := 0, mod := 0, rx := false, g := 0, la := false, lb := false, bs := false, limm := none }

/-- The memory of the state that an outcome leads to. -/
def nextMem : Out → Option (Table Byte)
  | .next t => some t.mem
  | _ => none

/-- The kill writes the store of the shadowed entry to memory. -/
theorem nextMem_poisonedAdd : nextMem (exec (.iadd poisonedAdd) shadowedStore) = some [(0, 1)] := by decide +kernel

/-- Refutes O58: the kill of a wave drains every staged store that the wave table lists under its key, also one behind the entry that reads
of the table see; so memory changes, though the wave that dies has no store on its way. The statement's hypotheses do not say that a key is
listed once; the REP clause and the other checks at issue play no part in this. -/
theorem not_repeatsAndIssue : ¬ Obligations.RepeatsAndIssue := by
  rintro ⟨-, h⟩
  have hi : shadowedStore.issuing = some (poisonedWave, poisonedSplit) := by decide +kernel
  have hg : Gathers shadowedStore poisonedAdd.width shadowedStore := ⟨_, _, hi, .inl ⟨by decide, rfl⟩⟩
  obtain ⟨-, -, hkill⟩ := h (.iadd poisonedAdd) .iadd poisonedAdd rfl _ _ _ _ rfl hg hi
  obtain ⟨t, ht, hmem, -⟩ := hkill { live := [1] } (by decide +kernel) (.inl (by decide)) (.inl (by decide)) (by decide +kernel)
    (by decide +kernel) rfl (by decide +kernel) rfl rfl ⟨1, by decide, by decide⟩ (by decide)
  have hwritten := nextMem_poisonedAdd
  rw [ht, nextMem, hmem] at hwritten
  exact absurd hwritten (by decide)

end Sys2Proof.Machine

/-! What the operations of control flow do to the issuing wave, shared by O10 to O15 and O32: transfers, the loop stack, an instruction that
completes for its whole split, and the stops it takes. -/

namespace Sys2Proof.Machine

open Sys2Proof.Claims

/-! ## The issuing split -/

/-- Of two writes of one wave the last stays. -/
theorem State.setWave_again (s : State) (c i : Nat) (x y : Option Wave) : (s.setWave c i x).setWave c i y = s.setWave c i y := by
  simp [State.setWave, Table.set_set]

/-- Changing the issuing split writes its wave. -/
theorem State.onIssuingSplit_eq {s : State} {w : Wave} {sp : Split} (h : s.issuing = some (w, sp)) (f : Split → Split) :
    s.onIssuingSplit f = s.setWave s.cur.core s.cur.wave (some (w.setSplit s.cur.split (some (f sp)))) := by
  obtain ⟨hw, hs⟩ := State.issuing_split h
  simp only [State.onIssuingSplit, State.onIssuer, State.onWave, hw, Wave.onSplit, hs]

/-- The wave written at the issuer's place is the one that issues. -/
theorem State.issuing_setWave (s : State) (w : Wave) :
    (s.setWave s.cur.core s.cur.wave (some w)).issuing = (w.split s.cur.split).map (fun x => (w, x)) := by
  simp [State.issuing]

/-- An instruction of a wave goes on past itself. -/
theorem State.advance_eq {s : State} {w : Wave} {sp : Split} (hc : s.cur.svc = none) (h : s.issuing = some (w, sp)) :
    s.advance = s.setWave s.cur.core s.cur.wave (some (w.setSplit s.cur.split (some (past s sp)))) := by
  simp only [State.advance, hc, State.onIssuingSplit_eq h, past]

/-- Changing the issuing split and going on. -/
theorem State.advance_onIssuingSplit {s : State} {w : Wave} {sp : Split} (hc : s.cur.svc = none) (h : s.issuing = some (w, sp)) (f : Split → Split) :
    (s.onIssuingSplit f).advance = s.setWave s.cur.core s.cur.wave (some (w.setSplit s.cur.split (some (past s (f sp))))) := by
  have hi : (s.onIssuingSplit f).issuing = some (w.setSplit s.cur.split (some (f sp)), f sp) := by
    rw [State.onIssuingSplit_eq h, State.issuing_setWave, Wave.setSplit_split_self, Option.map_some]
  rw [State.advance_eq (by rw [State.onIssuingSplit_cur]; exact hc) hi, State.onIssuingSplit_eq h, State.setWave_cur, State.setWave_again,
    Wave.setSplit_setSplit]
  rfl

/-- The state in which only the issuing wave has changed. -/
theorem onlyIssuer_setWave (s : State) (v : Wave) : OnlyIssuer s (s.setWave s.cur.core s.cur.wave (some v)) v :=
  ⟨s.groups, s.free, rfl, fun _ => rfl⟩

/-! ## Targets and the loop stack (04 R101, R110) -/

/-- A word offset in the words of the statements. -/
theorem State.offset_eq_away (s : State) (t : BitVec 24) : s.offset t = away s t := by
  have h : t.signExtend 64 * 8 = BitVec.ofInt 64 (t.toInt * 8) := by
    rw [BitVec.ofInt_mul]; rfl
  rw [State.offset, away, h]

/-- The entries that a jump leaves. -/
theorem unwind_eq_leaves (depth : BitVec 16) (pc : Dword) (es : List LoopEntry) : unwind depth pc es = leaves depth pc es := by
  induction es with
  | nil => rfl
  | cons e es ih =>
    simp only [unwind, leaves, List.dropWhile_cons, decide_eq_true_eq, BitVec.lt_def] at ih ⊢
    rw [ih]

/-- A jump does not look at what the split has seen of scalars. -/
theorem Split.goto_sansSeen (sp : Split) (next pc : Dword) : (sp.goto next pc).sansSeen = sp.sansSeen.goto next pc := by
  unfold Split.goto
  split <;> rfl

theorem Split.goto_congr {x y : Split} (h : x.sansSeen = y.sansSeen) (next pc : Dword) :
    (x.goto next pc).sansSeen = (y.goto next pc).sansSeen := by
  rw [Split.goto_sansSeen, h, Split.goto_sansSeen]

/-- Splits that agree beside what they have seen of scalars are one split with another list of that. -/
theorem Split.eq_of_sansSeen {x y : Split} (h : x.sansSeen = y.sansSeen) : x = { y with sseen := x.sseen } := by
  cases x; cases y
  simp only [Split.sansSeen, Split.mk.injEq] at h ⊢
  simp [h]

/-! ## Transfers (04 R101) -/

/-- A transfer acts where its last word ends no loop. -/
theorem State.transfer_acts {s : State} {w : Wave} {sp : Split} (h : s.issuing = some (w, sp)) (hm : mayTransfer s sp)
    (act : Wave → Split → State) : s.transfer act = act w sp := by
  simp only [State.transfer, h]
  cases hl : sp.loops.head? with
  | none => simp
  | some e => simp [hm e (by rw [hl]; rfl)]

/-- A transfer at the end of the top loop entry stops. -/
theorem State.transfer_stops {s : State} {w : Wave} {sp : Split} (h : s.issuing = some (w, sp)) (hm : ¬ mayTransfer s sp)
    (act : Wave → Split → State) : s.transfer act = s.stopHere .illegalOperand := by
  simp only [State.transfer, h]
  cases hl : sp.loops.head? with
  | none => exact absurd (by simp [mayTransfer, hl]) hm
  | some e =>
    have he : e.stop = s.cur.caddr := by
      by_contra hne
      exact hm (by simpa [mayTransfer, hl] using hne)
    simp [he]

/-! ## An instruction that completes for its whole split -/

/-- An instruction that names no register and writes its split's context completes. -/
theorem goes_of_setSplit {o : Out} {s : State} {u : Uses} {ok : Wave → Split → Prop} {after : Wave → Split → Split}
    (h : ∀ w sp, s.cur.svc = none → s.issuing = some (w, sp) → ok (w.seen sp s.free) sp →
      o = .next (s.setWave s.cur.core s.cur.wave (some (w.setSplit s.cur.split (some (after (w.seen sp s.free) sp)))))) :
    Goes o s u ok after := fun w sp hi hok =>
  ⟨_, _, h w sp hi.1 hi.2.1 hok, onlyIssuer_setWave s _, rfl, fun _ _ _ => rfl, fun _ => rfl⟩

/-- An instruction that names registers and marks none of them, and whose action replaces its split by `g` of it, completes. -/
theorem goes_of_issueWith {o : Out} {s : State} {u : Uses} {ok : Wave → Split → Prop} {after : Wave → Split → Split}
    (hv : u.vfree = []) (hs : u.sfree = []) {act : Wave → Split → State → State}
    (ho : ∀ w sp, s.cur.svc = none → s.issuing = some (w, sp) → ok (w.seen sp s.free) sp → o = .next (s.issueWith u act))
    (hact : ∀ (w : Wave) (sp : Split) (a : Wave) (x : Split) gs n, s.cur.svc = none → ok (w.seen sp s.free) sp →
      a.split s.cur.split = some x → x.sansSeen = sp.sansSeen →
      ∃ y, act (w.seen sp s.free) sp (s.reissued a gs n) = s.reissued (a.setSplit s.cur.split (some y)) gs n ∧
        y.sansSeen = (after (w.seen sp s.free) sp).sansSeen) :
    Goes o s u ok after := by
  rintro w sp ⟨hc, hi, hb, w', hp⟩ hok
  obtain ⟨a, gs, n, ha, hg, he⟩ := State.issueWith_acts act hi hb hp
  obtain ⟨x, hx, hxs⟩ := Wave.sansRegs_splitSome ha.rest (State.issuing_split hi).2
  obtain ⟨y, hy, hys⟩ := hact w sp a x gs n hc hok hx hxs
  refine ⟨_, a.setSplit s.cur.split (some y), (ho w sp hc hi hok).trans (by rw [he, hy]), ⟨gs, n, rfl, hg⟩, Wave.setSplit_sansRegs ha.rest _ hys,
    fun r l hl => ?_, fun k => ?_⟩
  · rw [Wave.setSplit_v, ha.v r l hl, hv]; simp
  · rw [Wave.setSplit_s, ha.s, hs]; simp

/-! ## Stops (14 R299–R301) -/

/-- A wave that runs and is no replay is halted by a cause that stops. -/
theorem State.takeStop_halts {s : State} {core wave k : Nat} {w : Wave} {c : StopCause} {addr pc : Dword} (hw : s.wave core wave = some w)
    (hr : w.run = .running) (hs : s.shadowOf w.group = false) (hf : fateOf c .fetch = .stop) :
    s.takeStop core wave k { cause := c, addr := addr } pc = s.setWave core wave (some (halted w c addr pc k)) := by
  simp [State.takeStop, hw, hs, hf, hr, halted]

/-- An instruction of a wave that stops with its PC where it stands. -/
theorem State.stopWith_stopsAt {s : State} {w : Wave} {sp : Split} {c : StopCause} (addr : Dword) (hc : s.cur.svc = none)
    (h : s.issuing = some (w, sp)) (hf : fateOf c .fetch = .stop) : StopsAt s (s.stopWith { cause := c, addr := addr }) w c addr := fun hr hs => by
  rw [State.stopWith, hc]
  exact State.takeStop_halts (State.issuing_split h).1 hr hs hf

theorem State.stopHere_stopsAt {s : State} {w : Wave} {sp : Split} {c : StopCause} (hc : s.cur.svc = none) (h : s.issuing = some (w, sp))
    (hf : fateOf c .fetch = .stop) : StopsAt s (s.stopHere c) w c s.cur.iaddr :=
  State.stopWith_stopsAt s.cur.iaddr hc h hf

end Sys2Proof.Machine

/-! Whole-split control (O11). -/

namespace Sys2Proof.Machine

open Sys2Proof.Claims

/-- The condition of BRS on a signed number. -/
theorem branchCond_eq (c : CArgs) (x : Word) : branchCond c.k.toNat x = branchesOn c x.toInt := by
  have hz : x.toInt = 0 ↔ x = 0 := by rw [← BitVec.toInt_inj]; rfl
  have hlt : x.slt 0#32 = decide (x.toInt < 0) := rfl
  have hgt : (0#32).slt x = decide (0 < x.toInt) := rfl
  have hk : ∀ k : BitVec 3, k = 0 ∨ k = 1 ∨ k = 2 ∨ k = 3 ∨ k = 4 ∨ k = 5 ∨ k = 6 ∨ k = 7 := by decide
  rcases hk c.k with h | h | h | h | h | h | h | h <;> 
    rw [Bool.eq_iff_iff, branchesOn, h] <;> simp [branchCond, hlt, hgt, hz]

/-- BRS takes its branch as its scalar says. -/
theorem execBrs_goes (c : CArgs) (s : State) : Goes (exec (.brs c) s) s { sr := [c.j.toNat / 2 ^ 14] } (fun _ sp => mayTransfer s sp) (fun w sp =>
    if branchesOn c (w.s (c.j.toNat / 2 ^ 14)).toInt = true then sp.goto s.cur.next (away s c.t) else past s sp) := by
  refine goes_of_issueWith (act := fun w _ s => if branchCond c.k.toNat (w.s (c.j.toNat / 2 ^ 14)) then
    s.onIssuingSplit (fun sp => sp.goto s.cur.next (s.offset c.t)) else s.advance) rfl rfl (fun w sp hc h hok => ?_) ?_
  · change execBrs c s = _
    rw [execBrs, hc]
    exact congrArg _ (State.transfer_acts h hok _)
  · intro w sp a x gs n hc _ hx hxs
    simp only [branchCond_eq]
    by_cases hb : branchesOn c ((w.seen sp s.free).s (c.j.toNat / 2 ^ 14)).toInt = true
    · simp only [hb, if_true, State.reissued_onIssuingSplit, Wave.onSplit, hx]
      exact ⟨_, rfl, State.offset_eq_away s c.t ▸ Split.goto_congr hxs ..⟩
    · simp only [hb, State.reissued_advance _ _ _ _ hc, Wave.onSplit, hx]
      exact ⟨_, rfl, Split.retire_congr hxs ..⟩

/-- Settles O11: each instruction writes its split's context and nothing else. -/
theorem wholeSplitControl : Obligations.WholeSplitControl := by
  refine ⟨⟨fun c s => goes_of_setSplit fun w sp hc h hm => ?_, execBrs_goes, fun s => goes_of_setSplit fun w sp hc h _ => ?_,
    fun s => goes_of_setSplit fun w sp hc h _ => ?_, fun s => goes_of_setSplit fun w sp hc h _ => ?_⟩,
    fun s n hn => ?_, fun c s n hn => ?_, fun c s n hn => ?_⟩
  · change execBra c s = _
    rw [execBra, hc, State.transfer_acts h hm, State.onIssuingSplit_eq h, State.offset_eq_away]
  · exact congrArg _ (State.advance_eq hc h)
  · change execYield s = _
    have hi := State.issuing_setWave s (w.setSplit s.cur.split (some (past s sp)))
    rw [Wave.setSplit_split_self] at hi
    rw [execYield, State.advance_eq hc h, State.onIssuingSplit_eq hi, State.setWave_cur, State.setWave_again, Wave.setSplit_setSplit]
  · exact congrArg _ (State.advance_onIssuingSplit hc h _)
  · change execNop s = _
    rw [execNop, State.advance, hn]
  · change execBra c s = _
    rw [execBra, hn, State.offset_eq_away]
  · change execBrs c s = _
    simp only [execBrs, hn, branchCond_eq, State.offset_eq_away, State.advance]
    split <;> rfl

end Sys2Proof.Machine

/-! Where the groups of a divergent instruction go (04 R91), shared by O10, O12 and O13; transfers, LOOP and LOOPX (O10). -/

namespace Sys2Proof.Machine

open Sys2Proof.Claims

/-! ## The order of parts -/

theorem insertBy_perm {α : Type} (before : α → α → Bool) (x : α) (l : List α) : (insertBy before x l).Perm (x :: l) := by
  induction l with
  | nil => exact .refl _
  | cons y l ih =>
    simp only [insertBy]
    split
    · exact .refl _
    · exact (ih.cons y).trans (.swap x y l)

theorem sortBy_perm {α : Type} (before : α → α → Bool) (l : List α) : (sortBy before l).Perm l := by
  induction l with
  | nil => exact .refl _
  | cons x l ih => exact (insertBy_perm before x _).trans (ih.cons x)

/-- An insertion by a key keeps the keys in order. -/
theorem insertBy_pairwise {α : Type} (key : α → Nat) {before : α → α → Bool} (hb : ∀ a b, before a b = decide (key a ≤ key b)) (x : α) {l : List α}
    (hl : l.Pairwise (fun a b => key a ≤ key b)) : (insertBy before x l).Pairwise (fun a b => key a ≤ key b) := by
  induction hl with
  | nil => exact List.pairwise_singleton _ _
  | @cons y m hy hm ih =>
    simp only [insertBy, hb, decide_eq_true_eq]
    split
    · next h => exact .cons (fun z hz => (List.mem_cons.1 hz).elim (· ▸ h) (fun hz => h.trans (hy z hz))) (.cons hy hm)
    · next h =>
      refine .cons (fun z hz => ?_) ih
      rcases List.mem_cons.1 ((insertBy_perm before x m).mem_iff.1 hz) with rfl | hz
      · omega
      · exact hy z hz

theorem sortBy_pairwise {α : Type} (key : α → Nat) {before : α → α → Bool} (hb : ∀ a b, before a b = decide (key a ≤ key b)) (l : List α) :
    (sortBy before l).Pairwise (fun a b => key a ≤ key b) := by
  induction l with
  | nil => exact .nil
  | cons x l ih => exact insertBy_pairwise key hb x ih

/-- The lowest lane of a mask, in the words of the statements. -/
theorem lowest_of_firstLane {m : Dword} {l : Nat} (h : firstLane m l) : lowest m = l := by
  obtain ⟨hl, hlow⟩ := h
  have hlt : l < 64 := by
    by_contra hge
    simp [BitVec.getLsbD_of_ge m l (by omega)] at hl
  have hd : lanesOf m = (List.range l).filter (fun i => m.getLsbD i) ++ ((List.range (64 - l)).map (l + ·)).filter (fun i => m.getLsbD i) := by
    rw [lanesOf, ← List.filter_append, ← List.range_add, Nat.add_sub_cancel' hlt.le]
  obtain ⟨n, hn⟩ : ∃ n, 64 - l = n + 1 := ⟨63 - l, by omega⟩
  have hnil : (List.range l).filter (fun i => m.getLsbD i) = [] := by
    simp only [List.filter_eq_nil_iff, List.mem_range]
    intro i hi
    simp [hlow i hi]
  rw [lowest, hd, hnil, hn, List.range_succ_eq_map]
  simp [hl]

/-! ## Sending groups (04 R91) -/

/-- A divergence does not look at what the split has seen of scalars. -/
theorem Wave.diverge_sansSeen (w : Wave) (k : Nat) {x sp : Split} (h : x.sansSeen = sp.sansSeen) (stay : Branch) (parts : List Branch)
    (opens : Option Dword) (rdepth : BitVec 16) (defer : Bool) :
    w.diverge k x stay parts opens rdepth defer = w.diverge k sp stay parts opens rdepth defer := by
  rw [Split.eq_of_sansSeen h]; rfl

/-- A change of the splits that touches no spill entry writes the wave. -/
theorem State.putSplits_untouched (s : State) (core wave k : Nat) (pc : Dword) {w w' : Wave} (h : w.spillTouched w' = []) :
    s.putSplits core wave k pc w w' = s.setWave core wave (some w') := by
  simp [State.putSplits, h]

/-- What an instruction does to its split, where there is no room for it. -/
theorem State.putMove_none {s : State} {w w' : Wave} {m : SplitMove} (h : w'.moved s.cur.split m = none) :
    s.putMove w w' m = s.stopHere .divergenceSpillLimit := by
  rw [State.putMove, h]

/-- What it does where no spill entry that it touches faults. -/
theorem State.putMove_some {s : State} {w w' v : Wave} {m : SplitMove} (h : w'.moved s.cur.split m = some v)
    (ht : (w.spillTouched v).findSome? (s.spillFault s.cur.core s.cur.wave w) = none) :
    s.putMove w w' m = s.putSplits s.cur.core s.cur.wave s.cur.split s.cur.iaddr w v := by
  simp only [State.putMove, h, ht]

/-- Groups of lanes go their ways. -/
theorem State.sendGroups_sends {s : State} {w w' : Wave} {x sp : Split} (hx : w'.split s.cur.split = some x) (hs : x.sansSeen = sp.sansSeen)
    (stay : Branch) (others : List Branch) (tag : Option (Dword × BitVec 16)) (defer : Bool) :
    Sends s (s.sendGroups w w' sp stay others tag defer) w w' sp stay others tag defer := by
  have hmoved : ∀ parts, w'.moved s.cur.split (.diverge stay parts (tag.map Prod.fst) ((tag.map Prod.snd).getD 0) defer) =
      w'.diverge s.cur.split sp stay parts (tag.map Prod.fst) ((tag.map Prod.snd).getD 0) defer := fun parts => by
    simp only [Wave.moved, hx, Wave.diverge_sansSeen w' _ hs]
  have hsend : others ≠ [] → s.sendGroups w w' sp stay others tag defer =
      s.putMove w w' (.diverge stay (sortBy Branch.before others) (tag.map Prod.fst) ((tag.map Prod.snd).getD 0) defer) := fun h => by
    rw [State.sendGroups, if_neg (by simpa using h)]
  refine ⟨fun h => by simp [State.sendGroups, h], fun h => ⟨sortBy Branch.before others, sortBy_perm _ _, ?_, fun hd => ?_, fun v hd ht => ?_⟩⟩
  · refine (sortBy_pairwise (fun b : Branch => lowest b.lanes) (fun _ _ => rfl) others).imp fun hab i j hi hj => ?_
    rwa [lowest_of_firstLane hi, lowest_of_firstLane hj] at hab
  · rw [hsend h, State.putMove_none ((hmoved _).trans hd)]
  · rw [hsend h, State.putMove_some ((hmoved _).trans hd) (by simp [ht]), State.putSplits_untouched _ _ _ _ _ ht]

/-! ## Transfers, the loop end, LOOP and LOOPX (O10) -/

/-- The context after a transfer (04 R101). -/
theorem Split.goto_context (sp : Split) (next pc : Dword) : (sp.goto next pc).pc = pc ∧
    (sp.goto next pc).loops = (if pc = next then sp.loops else leaves sp.depth pc sp.loops) ∧
    (sp.goto next pc).lanes = sp.lanes ∧ (sp.goto next pc).depth = sp.depth ∧ (sp.goto next pc).tag = sp.tag ∧
    (sp.goto next pc).rejoin = sp.rejoin ∧ (sp.goto next pc).rdepth = sp.rdepth ∧ (sp.goto next pc).masks = sp.masks ∧
    (sp.goto next pc).frm = sp.frm ∧ (sp.goto next pc).sig = sp.sig := by
  rw [← unwind_eq_leaves]
  unfold Split.goto Split.jump
  split <;> exact ⟨rfl, rfl, rfl, rfl, rfl, rfl, rfl, rfl, rfl, rfl⟩

/-- The loop end, entry by entry (04 R110). -/
theorem loopEnd_cons (depth : BitVec 16) (last : Dword) (e : LoopEntry) (es : List LoopEntry) :
    loopEnd depth last (e :: es) = if e.stop = last ∧ e.depth = depth then
      if 1 < e.count.toNat then ({ e with count := e.count - 1 } :: es, some e.start) else loopEnd depth last es
    else (e :: es, none) := rfl

/-- What LOOP does with its count, on the issuing split (04 R109). -/
def pushLoop (c : CArgs) (s : State) (n : Word) (sp : Split) : Split :=
  if n = 0 then sp.goto s.cur.next (away s c.t + 8)
  else { sp.goto s.cur.next s.cur.next with
    loops := { start := s.cur.next, stop := away s c.t, count := n, depth := sp.depth } :: (sp.goto s.cur.next s.cur.next).loops }

theorem pushLoop_congr (c : CArgs) (s : State) (n : Word) {x y : Split} (h : x.sansSeen = y.sansSeen) :
    (pushLoop c s n x).sansSeen = (pushLoop c s n y).sansSeen := by
  have hd : x.depth = y.depth := (congrArg Split.depth h :)
  unfold pushLoop
  split
  · exact Split.goto_congr h ..
  · have hg := Split.goto_congr h s.cur.next s.cur.next
    simp only [Split.sansSeen, Split.mk.injEq] at hg ⊢
    simp only [hg, hd, and_self]

/-- LOOP to the end address `stop`, once its count is known. -/
def loopBy (stop : Dword) (n : Word) (s : State) : State :=
  match s.issuing with
  | none => s
  | some (_, sp) =>
    if n = 0 then s.onIssuingSplit (fun x => x.goto s.cur.next (stop + 8))
    else if 4 ≤ sp.loops.length then s.stopHere .loopStackOverflow
    else s.onIssuingSplit (fun x =>
      let x := x.goto s.cur.next s.cur.next
      { x with loops := { start := s.cur.next, stop := stop, count := n, depth := x.depth } :: x.loops })

/-- Where the loop stack has room, LOOP writes its split. -/
theorem loopBy_eq {c : CArgs} {n : Word} {s : State} {w : Wave} {sp : Split} (h : s.issuing = some (w, sp)) (hr : n = 0 ∨ sp.loops.length < 4) :
    loopBy (away s c.t) n s = s.setWave s.cur.core s.cur.wave (some (w.setSplit s.cur.split (some (pushLoop c s n sp)))) := by
  simp only [loopBy, h, State.onIssuingSplit_eq h, pushLoop, (Split.goto_context sp s.cur.next s.cur.next).2.2.2.1]
  by_cases hn : n = 0
  · simp only [hn, if_true]
  · simp only [hn, if_false, show ¬ 4 ≤ sp.loops.length from (hr.resolve_left hn).not_ge]

/-- LOOP reads its count from its word or from a scalar. -/
theorem execLoop_eq {c : CArgs} {s : State} {w : Wave} {sp : Split} (h : s.issuing = some (w, sp)) (hm : mayTransfer s sp) :
    exec (.loop c) s = .next (if c.j.toNat / 2 ^ 14 = 0x3FF then loopBy (away s c.t) (BitVec.ofNat 32 (c.j.toNat % 2 ^ 14)) s
      else s.issueWith { sr := [c.j.toNat / 2 ^ 14] } (fun w _ s' => loopBy (away s c.t) (w.s (c.j.toNat / 2 ^ 14)) s')) := by
  rw [← State.offset_eq_away, ← State.transfer_acts h hm (fun _ _ => if c.j.toNat / 2 ^ 14 = 0x3FF then _ else _)]
  rfl

theorem execLoop_goes (c : CArgs) (s : State) :
    let k := c.j.toNat / 2 ^ 14
    let n := fun (w : Wave) => if k = 0x3FF then BitVec.ofNat 32 (c.j.toNat % 2 ^ 14) else w.s k
    Goes (exec (.loop c) s) s { sr := if k = 0x3FF then [] else [k] }
      (fun w sp => mayTransfer s sp ∧ (n w = 0 ∨ sp.loops.length < 4)) (fun w sp => pushLoop c s (n w) sp) := by
  intro k n
  by_cases hk : k = 0x3FF
  · refine goes_of_setSplit fun w sp hc h ⟨hm, hr⟩ => ?_
    simp only [n, hk, if_true] at hr ⊢
    rw [execLoop_eq h hm, if_pos hk, loopBy_eq h hr]
  · simp only [hk, if_false, n]
    refine goes_of_issueWith rfl rfl (fun w sp hc h hok => (execLoop_eq h hok.1).trans (by rw [if_neg hk])) fun w sp a x gs m hc hok hx hxs => ?_
    have hi : (s.reissued a gs m).issuing = some (a, x) := by rw [State.reissued_issuing, hx]; rfl
    have hl : x.loops = sp.loops := (congrArg Split.loops hxs :)
    refine ⟨pushLoop c s ((w.seen sp s.free).s k) x, ?_, pushLoop_congr c s _ hxs⟩
    exact (loopBy_eq hi (hl ▸ hok.2)).trans (State.reissued_setWave ..)

/-- LOOPX with every live lane, with none, and with some of them selected (04 R111). -/
theorem execLoopx_sends {c : CArgs} {s : State} {w : Wave} {sp : Split} {e : LoopEntry} {es : List LoopEntry} (hc : s.cur.svc = none)
    (h : s.issuing = some (w, sp)) (hm : mayTransfer s sp) (hl : sp.loops = e :: es) (hd : e.depth = sp.depth) (hlive : w.liveOf sp ≠ 0) :
    let sel := if c.k = 0 then w.liveOf sp else w.liveOf sp &&& w.mask sp c.k.toNat
    let out := ({ sp with loops := es } : Split).goto s.cur.next (e.stop + 8)
    ∃ t, exec (.loopx c) s = .next t ∧
      (sel = w.liveOf sp → t = s.setWave s.cur.core s.cur.wave (some (w.setSplit s.cur.split (some { out with lanes := sp.lanes })))) ∧
      (sel = 0 → t = s.setWave s.cur.core s.cur.wave (some (w.setSplit s.cur.split (some (past s sp))))) ∧
      (sel ≠ w.liveOf sp → sel ≠ 0 → Sends s t w w sp ⟨w.liveOf sp &&& ~~~sel, sp.advance s.cur.caddr s.cur.next⟩ [⟨sel, out⟩]
        (some (e.stop + 8, sp.depth)) c.p) := by
  intro sel out
  have hexec : exec (.loopx c) s = .next (if sel = w.liveOf sp then s.onIssuingSplit (fun _ => { out with lanes := sp.lanes })
      else if sel = 0 then s.advance
      else s.sendGroups w w sp ⟨w.liveOf sp &&& ~~~sel, sp.advance s.cur.caddr s.cur.next⟩ [⟨sel, out⟩] (some (e.stop + 8, sp.depth)) c.p) := by
    change Host.Outcome.next _ = _
    rw [State.transfer_acts h hm]
    simp only [hl, hd, ne_eq, not_true_eq_false, if_false]
    rfl
  refine ⟨_, hexec, fun hs => ?_, fun hs => ?_, fun hs hs0 => ?_⟩
  · rw [if_pos hs, State.onIssuingSplit_eq h]
  · rw [if_neg (by rw [hs]; exact hlive.symm), if_pos hs, State.advance_eq hc h]
  · rw [if_neg hs, if_neg hs0]
    exact State.sendGroups_sends (State.issuing_split h).2 rfl _ _ _ _

/-- Settles O10: the context after a transfer, the loop end entry by entry, and the two loop instructions. -/
theorem branchesAndLoops : Obligations.BranchesAndLoops := by
  refine ⟨Split.goto_context, fun sp last next => ⟨fun h => ?_, fun e es h => ⟨fun he => ?_, fun hs hd hn => ?_, fun hs hd hn => ?_⟩⟩,
    execLoop_goes, fun c s w sp e es hc h hm hl hd hlive => execLoopx_sends hc h hm hl hd hlive⟩
  · simp [Split.advance, h, loopEnd]
  · simp [Split.advance, h, loopEnd_cons, he]
  · simp [Split.advance, h, loopEnd_cons, hs, hd, hn]
  · simp [Split.advance, h, loopEnd_cons, hs, hd, show ¬ 1 < e.count.toNat by omega]

end Sys2Proof.Machine

/-! Branches on candidates (O12; 04 R103): the groups in candidate order, and the lanes that fall through. -/

namespace Sys2Proof.Machine

open Sys2Proof.Claims

/-- A union of masks, mask by mask. -/
theorem union_cons (m : Dword) (ms : List Dword) : union (m :: ms) = m ||| union ms := by
  have h : ∀ (ms : List Dword) (x y : Dword), ms.foldl (· ||| ·) (x ||| y) = x ||| ms.foldl (· ||| ·) y := by
    intro ms
    induction ms with
    | nil => exact fun _ _ => rfl
    | cons a ms ih => exact fun x y => by rw [List.foldl_cons, List.foldl_cons, BitVec.or_assoc, ih]
  rw [union, union, List.foldl_cons, BitVec.or_comm, h]

theorem and_not_union_nil (live : Dword) : live &&& ~~~(union []) = live :=
  (congrArg (live &&& ·) BitVec.not_zero).trans BitVec.and_allOnes

/-- The groups of a branch on candidates, the empty ones among them: each candidate takes its lanes of those that are left. -/
def branchGroups (next : Dword) (sp : Split) : Dword → List (Dword × Dword) → List Branch
  | _, [] => []
  | live, c :: cs => ⟨live &&& c.1, sp.goto next c.2⟩ :: branchGroups next sp (live &&& ~~~c.1) cs

theorem and_not_union_cons (live m : Dword) (ms : List Dword) : live &&& ~~~(union (m :: ms)) = live &&& ~~~m &&& ~~~(union ms) := by
  rw [union_cons, BitVec.not_or, BitVec.and_assoc]

/-- The groups in the statements' words. -/
theorem candidateGroups_eq (live next : Dword) (sp : Split) (cs : List (Dword × Dword)) :
    candidateGroups live next sp cs = (branchGroups next sp live cs).filter (fun b => decide (b.lanes ≠ 0)) := by
  rw [candidateGroups]
  congr 1
  induction cs generalizing live with
  | nil => rfl
  | cons c cs ih =>
    rw [branchGroups, ← ih, List.length_cons, List.range_succ_eq_map, List.map_cons, List.map_map]
    congr 1
    · exact congrArg (fun m => (⟨m, sp.goto next c.2⟩ : Branch)) (and_not_union_nil _)
    · refine List.map_congr_left fun j _ => ?_
      simp only [Function.comp, List.getD_cons_succ, List.take_succ_cons, List.map_cons, union_cons, BitVec.not_or]
      congr 1
      rw [← BitVec.and_assoc, BitVec.and_assoc live, BitVec.and_comm _ (~~~c.1), ← BitVec.and_assoc]

/-- The model's fold over the targets. -/
theorem foldl_candidates (next : Dword) (sp : Split) (cs : List (Dword × Dword)) (live : Dword) (taken : List Branch) :
    cs.foldl (fun (acc : Dword × List Branch) t =>
      (acc.1 &&& ~~~t.1, acc.2 ++ [{ lanes := acc.1 &&& t.1, next := sp.goto next t.2 }])) (live, taken) =
      (live &&& ~~~(union (cs.map Prod.fst)), taken ++ branchGroups next sp live cs) := by
  induction cs generalizing live taken with
  | nil => rw [List.foldl_nil, branchGroups, List.append_nil, List.map_nil, and_not_union_nil]
  | cons c cs ih => rw [List.foldl_cons, ih, List.map_cons, and_not_union_cons, branchGroups, List.append_assoc, List.singleton_append]

/-- Candidates that take no lane leave every lane. -/
theorem and_not_union_of_candidates {next live : Dword} {sp : Split} {cs : List (Dword × Dword)} (h : ∀ b ∈ branchGroups next sp live cs, b.lanes = 0) :
    live &&& ~~~(union (cs.map Prod.fst)) = live := by
  induction cs generalizing live with
  | nil => exact and_not_union_nil live
  | cons c cs ih =>
    rw [branchGroups, List.forall_mem_cons] at h
    obtain ⟨h0 : live &&& c.1 = 0, htail⟩ := h
    have hc : live &&& ~~~c.1 = live := BitVec.eq_of_getLsbD_eq fun i hi => by
      have hi0 : (live.getLsbD i && c.1.getLsbD i) = false := by rw [← BitVec.getLsbD_and, h0]; exact BitVec.getLsbD_zero
      rw [BitVec.getLsbD_and, BitVec.getLsbD_not]
      revert hi0
      cases live.getLsbD i <;> cases c.1.getLsbD i <;> simp [hi]
    rw [List.map_cons, and_not_union_cons, hc, ih (hc ▸ htail)]

/-- A branch on candidates sends its groups. -/
theorem State.branchOn_sends {s : State} {w : Wave} {sp : Split} (h : s.issuing = some (w, sp)) (hl : w.liveOf sp ≠ 0) (cs : List (Dword × Dword))
    (rejoin : Dword) (defer : Bool) :
    let t := s.branchOn w sp cs rejoin defer
    let rest := w.liveOf sp &&& ~~~(union (cs.map Prod.fst))
    let taken := candidateGroups (w.liveOf sp) s.cur.next sp cs
    if rest = 0 then
      match taken with
      | [] => False
      | stay :: others => Sends s t w w sp stay others (some (rejoin, sp.depth)) defer
    else Sends s t w w sp ⟨rest, sp.advance s.cur.caddr s.cur.next⟩ taken (some (rejoin, sp.depth)) defer := by
  intro t rest taken
  have ht : t = match ((⟨rest, sp.advance s.cur.caddr s.cur.next⟩ : Branch) :: branchGroups s.cur.next sp (w.liveOf sp) cs).filter
        (fun b => decide (b.lanes ≠ 0)) with
      | [] => s.advance
      | stay :: parts => s.sendGroups w w sp stay parts (some (rejoin, sp.depth)) defer := by
    simp only [t, State.branchOn, foldl_candidates, List.nil_append]
    rfl
  have hsend := State.sendGroups_sends (s := s) (w := w) (State.issuing_split h).2 (rfl : sp.sansSeen = sp.sansSeen)
  rw [List.filter_cons, ← candidateGroups_eq] at ht
  change t = match (if decide (rest ≠ 0) = true then _ :: taken else taken) with | [] => _ | stay :: parts => _ at ht
  by_cases hr : rest = 0
  · simp only [hr, ne_eq, not_true_eq_false, decide_false, Bool.false_eq_true, if_false, if_true] at ht ⊢
    cases htk : taken with
    | nil =>
      have hall : ∀ b ∈ branchGroups s.cur.next sp (w.liveOf sp) cs, b.lanes = 0 := by
        simpa [taken, candidateGroups_eq] using htk
      exact hl ((and_not_union_of_candidates hall).symm.trans hr)
    | cons stay others =>
      rw [htk] at ht
      exact ht ▸ hsend ..
  · simp only [hr, ne_eq, not_false_eq_true, decide_true, if_true, if_false] at ht ⊢
    exact ht ▸ hsend ..

/-- A branch on the candidates `cs` is one in the statements' sense. -/
theorem branchesOn_of_exec {o : Out} {s : State} {c : CArgs} {cs : Wave → Split → List (Dword × Dword)}
    (h : ∀ w sp, s.issuing = some (w, sp) → mayTransfer s sp → o = .next (s.branchOn w sp (cs w sp) (away s c.j) c.p)) : BranchesOn o s c cs :=
  fun w sp hi hm hl => ⟨_, h w sp hi hm, State.branchOn_sends hi hl ..⟩

theorem execBrc_branchesOn (c : CArgs) (s : State) : BranchesOn (exec (.brc c) s) s c (fun w sp => [(w.mask sp c.k.toNat, away s c.t)]) :=
  branchesOn_of_exec fun w sp h hm => by
    change Host.Outcome.next _ = _
    rw [State.transfer_acts h hm, State.offset_eq_away, State.offset_eq_away]

/-- BRM's candidates: its own, and those of its prefixes that name a mask. -/
theorem execBrm_branchesOn (c : CArgs) (ms : List Mwb) (s : State) : BranchesOn (exec (.brm c ms) s) s c (fun w sp =>
    (w.mask sp c.k.toNat, away s c.t) :: (ms.flatMap (fun m => [(m.ka, m.ta), (m.kb, m.tb)])).filterMap (fun t =>
      if t.1 = 0 then none else some (w.mask sp t.1.toNat, away s t.2))) :=
  branchesOn_of_exec fun w sp h hm => by
    change Host.Outcome.next _ = _
    rw [State.transfer_acts h hm]
    simp only [List.map_cons, State.offset_eq_away]
    congr 3
    induction ms with
    | nil => rfl
    | cons m ms ih =>
      rw [List.flatMap_cons, List.flatMap_cons, List.map_append, List.filterMap_append, ih]
      congr 1
      by_cases ha : m.ka = 0 <;> by_cases hb : m.kb = 0 <;> 
        simp only [Mwb.targets, ha, hb, List.filterMap_cons, List.filterMap_nil, if_true, if_false] <;> rfl

end Sys2Proof.Machine

/-! Divergence (O12; 04 R91–R93): the frame of what moves splits, the opening of a tag, and the places of the parts. -/

namespace Sys2Proof.Machine

open Sys2Proof.Claims

/-! ## What moves splits changes nothing else of the wave -/

/-- A wave less its splits, paths and records and what counts or follows them. -/
def Wave.sansSplits (w : Wave) : Wave := { w with splits := [], paths := [], records := [], made := 0, hist := [], together := [] }

theorem Wave.eq_of_sansSplits {v w : Wave} (h : v.sansSplits = w.sansSplits) :
    v = { w with splits := v.splits, paths := v.paths, records := v.records, made := v.made, hist := v.hist, together := v.together } := by
  cases v; cases w
  simp only [Wave.sansSplits, Wave.mk.injEq] at h ⊢
  simp [h]

section
variable (w : Wave)

@[simp] theorem Wave.setSplit_sansSplits (k : Nat) (x : Option Split) : (w.setSplit k x).sansSplits = w.sansSplits := rfl
@[simp] theorem Wave.pushPath_sansSplits (x : Split) (r : Bool) : (w.pushPath x r).sansSplits = w.sansSplits := rfl
@[simp] theorem Wave.onRecord_sansSplits (t : Nat) (f : Record → Record) : (w.onRecord t f).sansSplits = w.sansSplits := rfl
@[simp] theorem Wave.freeRecords_sansSplits : w.freeRecords.sansSplits = w.sansSplits := rfl

@[simp] theorem Wave.onSplit_sansSplits (k : Nat) (f : Split → Split) : (w.onSplit k f).sansSplits = w.sansSplits := by
  unfold Wave.onSplit; split <;> rfl

@[simp] theorem Wave.settle_sansSplits : w.settle.sansSplits = w.sansSplits := by unfold Wave.settle; split <;> rfl

@[simp] theorem Wave.part_sansSplits (lanes : Dword) : (w.part lanes).sansSplits = w.sansSplits := w.settle_sansSplits

@[simp] theorem Wave.freeReg_sansSplits : w.freeReg.sansSplits = w.sansSplits := by
  unfold Wave.freeReg
  split
  · rfl
  · split <;> rfl

theorem Wave.settle_splits : w.settle.splits = w.splits := by unfold Wave.settle; split <;> rfl
theorem Wave.settle_paths : w.settle.paths = w.paths := by unfold Wave.settle; split <;> rfl
theorem Wave.settle_records : w.settle.records = w.records := by unfold Wave.settle; split <;> rfl
theorem Wave.settle_made : w.settle.made = w.made := by unfold Wave.settle; split <;> rfl

theorem Wave.part_splits (lanes : Dword) : (w.part lanes).splits = w.splits := w.settle_splits
theorem Wave.part_paths (lanes : Dword) : (w.part lanes).paths = w.paths := w.settle_paths
theorem Wave.part_records (lanes : Dword) : (w.part lanes).records = w.records := w.settle_records

theorem Wave.freeReg_splits : w.freeReg.splits = w.splits := by
  unfold Wave.freeReg
  split
  · rfl
  · split <;> rfl

theorem Wave.freeReg_paths : w.freeReg.paths = w.paths := by
  unfold Wave.freeReg
  split
  · rfl
  · split <;> rfl

/-- Making room in the registers moves records and changes none. -/
theorem Wave.freeReg_records : w.freeReg.records.map (fun x => { x with inReg := true }) = w.records.map (fun x => { x with inReg := true }) := by
  unfold Wave.freeReg
  split
  · rfl
  · split
    · simp only [Wave.onRecord, List.map_map]
      refine List.map_congr_left fun x _ => ?_
      simp only [Function.comp]
      split <;> rfl
    · rfl

theorem Wave.freeReg_tags : w.freeReg.records.map Record.tag = w.records.map Record.tag := by
  have h := congrArg (List.map Record.tag) w.freeReg_records
  rw [List.map_map, List.map_map] at h
  exact h
end

/-! ## Tags (04 R92) -/

theorem Wave.record_isNone {w : Wave} {t : Nat} : (w.record t).isNone = true ↔ t ∉ w.records.map Record.tag := by
  simp [Wave.record, List.find?_eq_none]

/-- The lowest free tag. -/
theorem Wave.freeTag_spec {w : Wave} (h : ∃ t, 1 ≤ t ∧ t ≤ 72 ∧ t ∉ w.records.map Record.tag) :
    w.freeTag ∉ w.records.map Record.tag ∧ 1 ≤ w.freeTag ∧ w.freeTag ≤ 72 ∧ ∀ t, 1 ≤ t → t < w.freeTag → t ∈ w.records.map Record.tag := by
  obtain ⟨t, h1, h72, ht⟩ := h
  cases hf : (List.range 72).find? ((fun t => (w.record t).isNone) ∘ (· + 1)) with
  | none =>
    rw [List.find?_eq_none] at hf
    have := hf (t - 1) (List.mem_range.2 (by omega))
    rw [Function.comp, Nat.sub_add_cancel h1, Wave.record_isNone] at this
    exact absurd ht this
  | some i =>
    have he : w.freeTag = i + 1 := by rw [Wave.freeTag, List.find?_map, hf]; rfl
    obtain ⟨hi, hlt, hlow⟩ := List.find?_range_eq_some.1 hf
    rw [List.mem_range] at hlt
    rw [he]
    refine ⟨Wave.record_isNone.1 hi, by omega, by omega, fun u h1 hu => ?_⟩
    have := hlow (u - 1) (by omega)
    rw [Function.comp, Nat.sub_add_cancel h1, Bool.not_eq_true', ← Bool.not_eq_true, Wave.record_isNone] at this
    exact not_not.1 this

/-! ## The parts of a divergence (04 R91) -/

/-- The context of a branch, with the tag that opens, if one does. -/
def branchCtx (rejoin : Option Dword) (tag : Nat) (rdepth : BitVec 16) (b : Branch) : Split :=
  { b.next with
    lanes := b.lanes, timer := 0, tag := if rejoin.isSome = true then tag else b.next.tag, rejoin := rejoin.getD b.next.rejoin,
    rdepth := if rejoin.isSome = true then rdepth else b.next.rdepth }

/-- The record of a tag that a divergence of the split `sp` opens. -/
def Wave.newRecord (w : Wave) (sp : Split) (a : Dword) (rdepth : BitVec 16) : Record :=
  { tag := w.freeTag, rejoin := a, rdepth := rdepth, members := w.liveOf sp, outerTag := sp.tag, outerRejoin := sp.rejoin,
    outerDepth := sp.rdepth, order := w.made }

/-- The wave once a divergence of the split `sp` has opened its tag, if it opens one. -/
def Wave.opened (w : Wave) (sp : Split) (rdepth : BitVec 16) : Option Dword → Wave
  | none => w.part sp.lanes
  | some a =>
    let x := (w.part sp.lanes).freeReg
    { x with made := x.made + 1, records := x.records ++ [x.newRecord sp a rdepth] }

/-- Entries that parts may take. -/
def Wave.openEntries (w : Wave) (defer : Bool) : List Nat := if defer then [] else (List.range 4).filter (fun e => (w.split e).isNone)

/-- A part takes the lowest free entry, or becomes a path. -/
def Wave.placePart (ctx : Branch → Split) (defer : Bool) (w : Wave) (b : Branch) : Wave :=
  match if defer then none else w.freeEntry with
  | some e => w.setSplit e (some { ctx b with state := 0 })
  | none => w.pushPath (ctx b)

/-- A divergence, in these words. -/
theorem Wave.diverge_eq (w : Wave) (k : Nat) (sp : Split) (stay : Branch) (parts : List Branch) (rejoin : Option Dword) (rdepth : BitVec 16) (defer : Bool) :
    w.diverge k sp stay parts rejoin rdepth defer =
      if w.roomLeft < (if rejoin.isSome = true then 1 else 0) + (if defer = true then parts.length else parts.length - w.freeEntries) then none
      else some ((parts.foldl (Wave.placePart (branchCtx rejoin (w.part sp.lanes).freeReg.freeTag rdepth) defer) (w.opened sp rdepth rejoin)).setSplit k
        (some { branchCtx rejoin (w.part sp.lanes).freeReg.freeTag rdepth stay with timer := stay.next.timer })) := by
  cases rejoin <;> rfl

theorem Wave.freeEntry_eq (w : Wave) (defer : Bool) : (if defer then none else w.freeEntry) = (w.openEntries defer).head? := by
  cases defer
  · simp [Wave.openEntries, Wave.freeEntry, List.head?_filter]
  · rfl

/-- Once the lowest open entry is taken, the others are open. -/
theorem Wave.openEntries_setSplit {w : Wave} {defer : Bool} {e : Nat} {es : List Nat} (h : w.openEntries defer = e :: es) (x : Split) :
    (w.setSplit e (some x)).openEntries defer = es := by
  cases defer with
  | true => cases h
  | false =>
    simp only [Wave.openEntries, Bool.false_eq_true, if_false] at h ⊢
    have hn : (e :: es).Nodup := h ▸ List.nodup_range.filter _
    have hf : (List.range 4).filter (fun j => ((w.setSplit e (some x)).split j).isNone) = (e :: es).filter (fun j => decide (j ≠ e)) := by
      rw [← h, List.filter_filter]
      refine List.filter_congr fun j _ => ?_
      by_cases hj : j = e
      · simp [hj]
      · simp [hj, Wave.split_setSplit_ne]
    rw [hf, List.filter_cons_of_neg (by simp), List.filter_eq_self]
    intro j hj
    exact decide_eq_true fun he => (List.nodup_cons.1 hn).1 (he ▸ hj)

/-- What the placing of parts leaves: the open entries from the lowest on hold the first of them, the others are paths. -/
structure Wave.Placed (w v : Wave) (ctx : Branch → Split) (parts : List Branch) (es : List Nat) : Prop where
  taken : ∀ j < min parts.length es.length, v.split (es.getD j 4) = (parts[j]?).map (fun b => { ctx b with state := 0 })
  kept : ∀ e, e ∉ es.take (min parts.length es.length) → v.split e = w.split e
  paths : v.paths.map (fun p => (p.ctx, p.runnable)) =
    w.paths.map (fun p => (p.ctx, p.runnable)) ++ (parts.drop (min parts.length es.length)).map (fun b => (ctx b, true))
  records : v.records = w.records
  rest : v.sansSplits = w.sansSplits

theorem Wave.foldl_placePart (ctx : Branch → Split) (defer : Bool) (parts : List Branch) (w : Wave) :
    w.Placed (parts.foldl (Wave.placePart ctx defer) w) ctx parts (w.openEntries defer) := by
  induction parts generalizing w with
  | nil => exact ⟨by simp, fun _ _ => rfl, by simp, rfl, rfl⟩
  | cons b parts ih =>
    rw [List.foldl_cons]
    cases hes : w.openEntries defer with
    | nil =>
      have hp : w.placePart ctx defer b = w.pushPath (ctx b) := by rw [Wave.placePart, Wave.freeEntry_eq, hes]; rfl
      obtain ⟨-, hkept, hpaths, hrec, hrest⟩ := ih (w.pushPath (ctx b))
      rw [show (w.pushPath (ctx b)).openEntries defer = [] from hes] at hkept hpaths
      rw [hp]
      exact ⟨by simp, fun i _ => hkept i (by simp), by simpa [Wave.pushPath] using hpaths, hrec, hrest⟩
    | cons e es =>
      have hp : w.placePart ctx defer b = w.setSplit e (some { ctx b with state := 0 }) := by rw [Wave.placePart, Wave.freeEntry_eq, hes]; rfl
      have hn : e ∉ es := by
        have : (w.openEntries defer).Nodup := by unfold Wave.openEntries; split; exacts [List.nodup_nil, List.nodup_range.filter _]
        exact (List.nodup_cons.1 (hes ▸ this)).1
      obtain ⟨htaken, hkept, hpaths, hrec, hrest⟩ := ih (w.setSplit e (some { ctx b with state := 0 }))
      rw [Wave.openEntries_setSplit hes] at htaken hkept hpaths
      rw [hp]
      have hmin : min (b :: parts).length (e :: es).length = min parts.length es.length + 1 := by simp [Nat.succ_min_succ]
      refine ⟨fun j hj => ?_, fun i hi => ?_, ?_, hrec, hrest⟩
      · cases j with
        | zero => simpa using hkept e fun hm => hn (List.mem_of_mem_take hm)
        | succ j => exact htaken j (by omega)
      · rw [hmin, List.take_succ_cons, List.mem_cons, not_or] at hi
        rw [hkept i hi.2, Wave.split_setSplit_ne _ _ hi.1]
      · rw [hmin, List.drop_succ_cons]
        exact hpaths

/-! ## Opening a tag, and the divergence as a whole -/

section
variable (w : Wave) (sp : Split) (rdepth : BitVec 16) (rejoin : Option Dword)

theorem Wave.opened_splits : (w.opened sp rdepth rejoin).splits = w.splits := by
  cases rejoin
  · exact w.settle_splits
  · have h := (w.part sp.lanes).freeReg_splits.trans (w.part_splits sp.lanes)
    rw [Wave.opened]
    generalize (w.part sp.lanes).freeReg = x at h ⊢
    exact h

theorem Wave.opened_paths : (w.opened sp rdepth rejoin).paths = w.paths := by
  cases rejoin
  · exact w.settle_paths
  · have h := (w.part sp.lanes).freeReg_paths.trans (w.part_paths sp.lanes)
    rw [Wave.opened]
    generalize (w.part sp.lanes).freeReg = x at h ⊢
    exact h

theorem Wave.opened_sansSplits : (w.opened sp rdepth rejoin).sansSplits = w.sansSplits := by
  cases rejoin
  · exact w.part_sansSplits sp.lanes
  · have h := (w.part sp.lanes).freeReg_sansSplits.trans (w.part_sansSplits sp.lanes)
    rw [Wave.opened]
    generalize (w.part sp.lanes).freeReg = x at h ⊢
    exact h
end

/-- The record of the tag that a divergence opens. -/
theorem Wave.opened_records (w : Wave) (sp : Split) (rdepth : BitVec 16) (a : Dword) :
    ∃ r : Record, (w.opened sp rdepth (some a)).records.map (fun x : Record => { x with inReg := true }) =
        w.records.map (fun x : Record => { x with inReg := true }) ++ [r] ∧
      r.tag = (w.part sp.lanes).freeReg.freeTag ∧ r.rejoin = a ∧ r.rdepth = rdepth ∧ r.members = w.liveOf sp ∧ r.arrived = 0 ∧ r.broken = false ∧
      r.outerTag = sp.tag ∧ r.outerRejoin = sp.rejoin ∧ r.outerDepth = sp.rdepth ∧ r.parked = [] := by
  have hrest := (w.part sp.lanes).freeReg_sansSplits.trans (w.part_sansSplits sp.lanes)
  have hrec := (w.part sp.lanes).freeReg_records
  rw [w.part_records sp.lanes] at hrec
  rw [Wave.opened]
  generalize (w.part sp.lanes).freeReg = x at hrest hrec ⊢
  have hex : x.exited = w.exited := (congrArg Wave.exited hrest :)
  have hlive : x.liveOf sp = w.liveOf sp := by rw [Wave.liveOf, hex]; rfl
  refine ⟨x.newRecord sp a rdepth, by simp only [List.map_append, hrec, List.map_cons, List.map_nil, Wave.newRecord], rfl, rfl, rfl, hlive, rfl, rfl, rfl, rfl, rfl, rfl⟩

end Sys2Proof.Machine

/-! Divergence and branches on candidates, put together (O12). -/

namespace Sys2Proof.Machine

open Sys2Proof.Claims

/-- What stands open for the parts of a divergence does not depend on its tag. -/
theorem Wave.opened_openEntries (w : Wave) (sp : Split) (rdepth : BitVec 16) (rejoin : Option Dword) (defer : Bool) :
    (w.opened sp rdepth rejoin).openEntries defer = w.openEntries defer := by
  simp only [Wave.openEntries, Wave.split, Wave.opened_splits]

/-- How many parts find an entry. -/
theorem min_openEntries (w : Wave) (parts : List Branch) (defer : Bool) : min parts.length (w.openEntries defer).length =
    if defer = true then 0 else min parts.length ((List.range 4).filter (fun e => (w.split e).isNone)).length := by
  cases defer <;> simp [Wave.openEntries]

/-- A divergence with room: the wave that it leaves. -/
theorem Wave.diverge_some {w : Wave} {k : Nat} {sp : Split} {stay : Branch} {parts : List Branch} {rejoin : Option Dword} {rdepth : BitVec 16}
    {defer : Bool} (hroom : ¬ w.roomLeft <
      (if rejoin.isSome = true then 1 else 0) + (if defer = true then parts.length else parts.length - w.freeEntries)) :
    ∃ x, w.diverge k sp stay parts rejoin rdepth defer =
        some (x.setSplit k (some { branchCtx rejoin (w.part sp.lanes).freeReg.freeTag rdepth stay with timer := stay.next.timer })) ∧
      (w.opened sp rdepth rejoin).Placed x (branchCtx rejoin (w.part sp.lanes).freeReg.freeTag rdepth) parts (w.openEntries defer) :=
  ⟨_, by rw [Wave.diverge_eq, if_neg hroom], by rw [← w.opened_openEntries sp rdepth rejoin]; exact Wave.foldl_placePart ..⟩

/-- The tag that opens is the lowest that no record of the wave holds. -/
theorem Wave.openedTag_spec {w : Wave} {lanes : Dword} (h : ∃ t, 1 ≤ t ∧ t ≤ 72 ∧ ∀ r ∈ w.records, r.tag ≠ t) :
    let tag := (w.part lanes).freeReg.freeTag
    (∀ r ∈ w.records, r.tag ≠ tag) ∧ 1 ≤ tag ∧ tag ≤ 72 ∧ ∀ t, 1 ≤ t → t < tag → ∃ r ∈ w.records, r.tag = t := by
  have htags : (w.part lanes).freeReg.records.map Record.tag = w.records.map Record.tag := by rw [Wave.freeReg_tags, Wave.part_records]
  have hspec := Wave.freeTag_spec (w := (w.part lanes).freeReg)
  rw [htags] at hspec
  simpa only [List.mem_map, not_exists, not_and] using hspec (by simpa only [List.mem_map, not_exists, not_and] using h)

/-- The split that diverges stands in no entry that a part takes. -/
theorem Wave.ne_of_mem_openEntries {w : Wave} {k e : Nat} {sp : Split} {defer : Bool} (h : w.split k = some sp) (he : e ∈ w.openEntries defer) :
    e ≠ k := by
  rintro rfl
  unfold Wave.openEntries at he
  split at he
  · cases he
  · simp [h] at he

/-- Settles O12: branches on candidates send their groups, and a divergence with room places the parts and opens its tag. -/
theorem divergentBranches : Obligations.DivergentBranches := by
  refine ⟨⟨execBrc_branchesOn, execBrm_branchesOn⟩, fun w k sp stay parts rejoin rdepth defer hk => ?_⟩
  intro free n room need
  have hn : min parts.length (w.openEntries defer).length = n := min_openEntries w parts defer
  have hneed : (if rejoin.isSome = true then 1 else 0) + (if defer = true then parts.length else parts.length - w.freeEntries) = need := by
    change _ = (if rejoin.isSome = true then 1 else 0) + (parts.length - n)
    have hf : w.freeEntries = free.length := rfl
    have hdef : n = if defer = true then 0 else min parts.length free.length := rfl
    rw [hf, hdef]
    cases defer <;> simp only [Bool.false_eq_true, if_false, if_true] <;> omega
  refine ⟨fun hlt => by rw [Wave.diverge_eq, if_pos (by rw [hneed]; exact hlt)], fun hle ⟨t, ht1, ht72, ht⟩ => ?_⟩
  obtain ⟨x, hd, htaken, hkept, hpaths, hrec, hrest⟩ := Wave.diverge_some (w := w) (k := k) (sp := sp) (stay := stay) (rdepth := rdepth)
    (by rw [hneed]; exact Nat.not_lt.2 hle)
  rw [hn] at htaken hkept hpaths
  generalize htag : (w.part sp.lanes).freeReg.freeTag = tag at *
  have hopen : n = 0 ∨ w.openEntries defer = free := by
    cases defer
    · exact .inr rfl
    · exact .inl rfl
  have htake : (w.openEntries defer).take n = free.take n := by
    rcases hopen with h0 | h0
    · rw [h0]; rfl
    · rw [h0]
  refine ⟨_, tag, hd, Wave.split_setSplit_self .., fun j hj => ?_, fun e he hfree => ?_, ?_, fun hr => ?_, fun a ha => ?_, ?_⟩
  · have hj' : j < (w.openEntries defer).length := by omega
    rw [hopen.resolve_left (by omega)] at htaken hj'
    have hne : free.getD j 4 ≠ k := by
      refine Wave.ne_of_mem_openEntries (defer := defer) hk ?_
      rw [hopen.resolve_left (by omega), List.getD_eq_getElem _ _ hj']
      exact List.getElem_mem hj'
    rw [Wave.split_setSplit_ne _ _ hne]
    exact htaken j hj
  · rw [Wave.split_setSplit_ne _ _ he, hkept e (htake ▸ hfree), Wave.split, Wave.opened_splits, Wave.split]
  · rw [Wave.opened_paths] at hpaths
    exact hpaths
  · rw [hr] at hrec
    exact hrec.trans (w.part_records sp.lanes)
  · obtain ⟨hfresh, h1, h72, hlow⟩ := Wave.openedTag_spec (lanes := sp.lanes) ⟨t, ht1, ht72, ht⟩
    obtain ⟨r, hr, hrtag, hrest⟩ := w.opened_records sp rdepth a
    rw [htag] at hfresh h1 h72 hlow hrtag
    rw [ha] at hrec
    exact ⟨hfresh, h1, h72, hlow, r, (congrArg _ hrec).trans hr, hrtag, hrest⟩
  · exact Wave.eq_of_sansSplits (hrest.trans (w.opened_sansSplits sp rdepth rejoin))

end Sys2Proof.Machine

/-! Calls and returns (O13; 04 R104–R106): the groups of equal addresses, and the return address. -/

namespace Sys2Proof.Machine

open Sys2Proof.Claims

/-! ## Groups of equal addresses -/

theorem laneBit_getLsbD {i l : Nat} (hl : l < 64) : (laneBit i).getLsbD l = decide (l = i) := by
  rw [laneBit, BitVec.getLsbD_shiftLeft, BitVec.getLsbD_one, Bool.eq_iff_iff]
  simp
  omega

/-- Takes a lane into the group of its address. -/
def groupLane (target : Nat → Dword) (gs : List (Dword × Dword)) (i : Nat) : List (Dword × Dword) :=
  if gs.any (fun g => decide (g.1 = target i)) then gs.map (fun g => if g.1 = target i then (g.1, g.2 ||| laneBit i) else g)
  else gs ++ [(target i, laneBit i)]

/-- The groups hold the lanes `ls` by address: each address once, the first lane's first. -/
structure Grouped (target : Nat → Dword) (ls : List Nat) (gs : List (Dword × Dword)) : Prop where
  once : (gs.map Prod.fst).Nodup
  lanes : ∀ g ∈ gs, ∀ l < 64, g.2.getLsbD l = decide (l ∈ ls ∧ target l = g.1)
  covers : ∀ a, a ∈ gs.map Prod.fst ↔ ∃ l ∈ ls, target l = a
  first : (gs.map Prod.fst).head? = (ls.map target).head?

theorem groupLane_grouped {target : Nat → Dword} {ls : List Nat} {gs : List (Dword × Dword)} {i : Nat} (h : Grouped target ls gs) :
    Grouped target (ls ++ [i]) (groupLane target gs i) := by
  obtain ⟨honce, hlanes, hcovers, hfirst⟩ := h
  by_cases hm : target i ∈ gs.map Prod.fst
  · have hg : groupLane target gs i = gs.map (fun g => if g.1 = target i then (g.1, g.2 ||| laneBit i) else g) := by
      rw [groupLane, if_pos]
      simpa using hm
    have hfst : (groupLane target gs i).map Prod.fst = gs.map Prod.fst := by
      rw [hg, List.map_map]
      refine List.map_congr_left fun g _ => ?_
      simp only [Function.comp]
      split <;> rfl
    refine ⟨hfst ▸ honce, fun g hgm l hl => ?_, fun a => ?_, ?_⟩
    · rw [hg, List.mem_map] at hgm
      obtain ⟨g', hg', rfl⟩ := hgm
      have hb := hlanes g' hg' l hl
      by_cases he : g'.1 = target i
      · simp only [if_pos he, BitVec.getLsbD_or, hb, laneBit_getLsbD hl, List.mem_append, List.mem_singleton]
        by_cases hli : l = i
        · simp [hli, he]
        · simp [hli]
      · simp only [if_neg he, hb, List.mem_append, List.mem_singleton]
        by_cases hli : l = i
        · simp [hli, Ne.symm he]
        · simp [hli]
    · rw [hfst, hcovers]
      constructor
      · rintro ⟨l, hl, he⟩
        exact ⟨l, List.mem_append_left _ hl, he⟩
      · rintro ⟨l, hl, rfl⟩
        rcases List.mem_append.1 hl with hl | hl
        · exact ⟨l, hl, rfl⟩
        · rw [List.mem_singleton.1 hl]
          exact (hcovers _).1 hm
    · rw [hfst, hfirst]
      cases ls with
      | nil => exact absurd ((hcovers _).1 hm) (by simp)
      | cons => rfl
  · have hg : groupLane target gs i = gs ++ [(target i, laneBit i)] := by
      rw [groupLane, if_neg]
      simpa using hm
    have hnew : ∀ l ∈ ls, target l ≠ target i := fun l hl he => hm ((hcovers _).2 ⟨l, hl, he⟩)
    have hfst : (groupLane target gs i).map Prod.fst = gs.map Prod.fst ++ [target i] := by rw [hg, List.map_append]; rfl
    refine ⟨?_, fun g hgm l hl => ?_, fun a => ?_, ?_⟩
    · rw [hfst]
      exact List.nodup_append.2 ⟨honce, List.nodup_singleton _, fun a ha b hb => by rw [List.mem_singleton.1 hb]; rintro rfl; exact hm ha⟩
    · rw [hg, List.mem_append, List.mem_singleton] at hgm
      rcases hgm with hgm | rfl
      · rw [hlanes g hgm l hl]
        have : g.1 ≠ target i := fun he => hm (he ▸ List.mem_map_of_mem hgm)
        by_cases hli : l = i
        · simp [hli, Ne.symm this]
        · simp [hli]
      · rw [laneBit_getLsbD hl]
        by_cases hli : l = i
        · simp [hli]
        · simpa [hli] using fun h => hnew l h
    · rw [hfst, List.mem_append, List.mem_singleton, hcovers]
      constructor
      · rintro (⟨l, hl, he⟩ | rfl)
        · exact ⟨l, List.mem_append_left _ hl, he⟩
        · exact ⟨i, by simp, rfl⟩
      · rintro ⟨l, hl, rfl⟩
        rcases List.mem_append.1 hl with hl | hl
        · exact .inl ⟨l, hl, rfl⟩
        · exact .inr (by rw [List.mem_singleton.1 hl])
    · rw [hfst, List.map_append, List.head?_append, List.head?_append, hfirst]
      rfl

theorem addressGroups_grouped (live : Dword) (target : Nat → Dword) : Grouped target (lanesOf live) (addressGroups live target) := by
  have h : ∀ (ls done : List Nat) gs, Grouped target done gs → Grouped target (done ++ ls) (ls.foldl (groupLane target) gs) := by
    intro ls
    induction ls with
    | nil => exact fun done gs h => by rwa [List.append_nil]
    | cons i ls ih =>
      intro done gs h
      have := ih _ _ (groupLane_grouped (i := i) h)
      rwa [List.append_assoc, List.singleton_append] at this
  exact h (lanesOf live) [] [] ⟨List.nodup_nil, by simp, by simp, rfl⟩

/-- The first of a mask's lanes is its lowest. -/
theorem head?_lanesOf {m : Dword} {l : Nat} (h : firstLane m l) (hm : lanesOf m ≠ []) : (lanesOf m).head? = some l := by
  have := lowest_of_firstLane h
  rw [lowest] at this
  cases hs : lanesOf m with
  | nil => exact absurd hs hm
  | cons i is =>
    rw [hs] at this
    exact congrArg some this

theorem lanesOf_ne_nil {m : Dword} (h : m ≠ 0) : lanesOf m ≠ [] := fun hn => h <| BitVec.eq_of_getLsbD_eq fun l hl => by
  have : l ∉ lanesOf m := by simp [hn]
  simpa [mem_lanesOf, hl] using this

/-- Live lanes sorted by the address that they read make the parts of an indirect transfer. -/
theorem addressGroups_byAddress {w : Wave} {sp : Split} (hlive : w.liveOf sp ≠ 0) (a : Nat) (go : Dword → Split) :
    ∃ stay others, (addressGroups (w.liveOf sp) (w.v2 a)).map (fun g => (⟨g.2, go g.1⟩ : Branch)) = stay :: others ∧
      ByAddress w sp a go stay others := by
  have hgs := addressGroups_grouped (w.liveOf sp) (w.v2 a)
  have hne := lanesOf_ne_nil hlive
  generalize hg : addressGroups (w.liveOf sp) (w.v2 a) = gs at hgs
  obtain ⟨honce, hlanes, hcovers, hfirst⟩ := hgs
  cases gs with
  | nil =>
    obtain ⟨i, hi⟩ := List.exists_mem_of_ne_nil _ hne
    exact absurd ((hcovers _).2 ⟨i, hi, rfl⟩) (by simp)
  | cons g gs =>
    rw [List.map_cons, List.nodup_cons] at honce
    obtain ⟨hg0, honce⟩ := honce
    have hbits : ∀ x ∈ g :: gs, ∀ l < 64, x.2.getLsbD l = ((w.liveOf sp).getLsbD l && decide (w.v2 a l = x.1)) := fun x hx l hl => by
      rw [hlanes x hx l hl]
      simp only [mem_lanesOf, hl, true_and, Bool.decide_and, Bool.decide_eq_true]
    refine ⟨⟨g.2, go g.1⟩, gs.map (fun g => ⟨g.2, go g.1⟩), rfl, fun l hl => ?_, fun b hb => ?_, fun l hl hlv hst => ?_, ?_⟩
    · have he : w.v2 a l = g.1 := by
        have := hfirst
        rw [List.head?_map, List.head?_map, head?_lanesOf hl hne] at this
        exact (Option.some.inj this).symm
      exact ⟨congrArg go he.symm, fun j hj => (hbits g (List.mem_cons_self ..) j hj).trans (by rw [← he]; rfl)⟩
    · obtain ⟨x, hx, rfl⟩ := List.mem_map.1 hb
      obtain ⟨l, hl, he⟩ := (hcovers x.1).1 (List.mem_map_of_mem (List.mem_cons_of_mem _ hx))
      obtain ⟨hl, hlv⟩ := mem_lanesOf.1 hl
      refine ⟨l, hl, hlv, ?_, congrArg go he.symm, fun j hj => (hbits x (List.mem_cons_of_mem _ hx) j hj).trans (by rw [← he]; rfl)⟩
      have hne' : w.v2 a l ≠ g.1 := fun h => hg0 (h ▸ he ▸ List.mem_map_of_mem hx)
      rw [hbits g (List.mem_cons_self ..) l hl, decide_eq_false hne', Bool.and_false]
    · rw [hbits g (List.mem_cons_self ..) l hl, hlv, Bool.true_and, decide_eq_false_iff_not] at hst
      obtain ⟨x, hx, he⟩ := List.mem_map.1 ((hcovers (w.v2 a l)).2 ⟨l, mem_lanesOf.2 ⟨hl, hlv⟩, rfl⟩)
      have hx' : x ∈ gs := (List.mem_cons.1 hx).resolve_left fun h => hst (by rw [← he, h])
      exact ⟨_, List.mem_map_of_mem hx', by rw [hbits x hx l hl, hlv, he, decide_eq_true rfl]; rfl⟩
    · rw [List.pairwise_map]
      refine (List.pairwise_map.1 honce).imp_of_mem fun {x y} hx hy hxy => BitVec.eq_of_getLsbD_eq fun l hl => ?_
      change _ = (0#64).getLsbD l
      rw [BitVec.getLsbD_and, hbits x (List.mem_cons_of_mem _ hx) l hl, hbits y (List.mem_cons_of_mem _ hy) l hl, BitVec.getLsbD_zero]
      by_cases h : w.v2 a l = x.1
      · simp [h, hxy]
      · simp [h]

/-! ## The return address (04 R104) -/

theorem Wave.writeReturn_returns (w : Wave) (sp : Split) (d : Nat) (addr : Dword) : Returns w (w.writeReturn sp d addr) sp d addr := by
  refine ⟨Wave.writeVs_sansRegs .., fun k => Wave.writeVs_s .., fun r l hl => ?_⟩
  rw [Wave.writeReturn, Wave.writeVs_v _ _ _ _ _ _ hl]
  by_cases hlv : (w.liveOf sp).getLsbD l = true
  · by_cases h0 : r = d
    · simp [hlv, h0, words2, loWord]
    · by_cases h1 : r = d + 1
      · simp [hlv, h1, words2, hiWord]
      · simp only [hlv, h0, h1, and_false, if_false, and_true]
        rw [if_neg (by omega)]
  · simp [hlv]

/-! ## CALL, CALLI and RET -/

/-- An instruction that marks no register acts once room is made for what it names. -/
theorem State.issueWith_readied {s : State} {u : Uses} {w : Wave} {sp : Split} (act : Wave → Split → State → State) (hu : Issues s u w sp)
    (hv : u.vfree = []) (hs : u.sfree = []) :
    ∃ a gs n, (∀ v, OnlyIssuer s (s.reissued v gs n) v) ∧ Readied s (s.reissued a gs n) w a ∧ s.issueWith u act = act (w.seen sp s.free) sp (s.reissued a gs n) := by
  obtain ⟨-, hi, hb, w', hp⟩ := hu
  obtain ⟨a, gs, n, ha, hg, he⟩ := State.issueWith_acts act hi hb hp
  refine ⟨a, gs, n, fun _ => ⟨gs, n, rfl, hg⟩, ⟨⟨gs, n, rfl, hg⟩, ha.rest, fun r l hl => ?_, fun k => ?_⟩, he⟩
  · rw [ha.v r l hl, hv]; simp
  · rw [ha.s k, hs]; simp

/-- Waves that agree beside their registers have the same live lanes. -/
theorem Wave.liveOf_congr {a w : Wave} (h : a.sansRegs = w.sansRegs) (sp : Split) : a.liveOf sp = w.liveOf sp := by
  have hx : a.exited = w.exited := (congrArg Wave.exited h :)
  rw [Wave.liveOf, Wave.liveOf, hx]

/-- An indirect transfer in the readied state: the lanes go by the addresses that they read. -/
def State.sendByAddress (s : State) (target : Nat → Dword) (go : Dword → Split) (w' : Wave → Wave) (sp : Split)
    (tag : Option (Dword × BitVec 16)) (defer : Bool) : State :=
  match s.wave s.cur.core s.cur.wave with
  | none => s
  | some w =>
    match (addressGroups (w.liveOf sp) target).map (fun g => (⟨g.2, go g.1⟩ : Branch)) with
    | [] => s
    | stay :: parts => s.sendGroups w (w' w) sp stay parts tag defer

/-- It sends the groups of `ByAddress`. -/
theorem State.sendByAddress_sends {s : State} {a w : Wave} {gs : Table (Option Group)} {n : Nat} {sp : Split}
    (hs : w.split s.cur.split = some sp) (hw : a.sansRegs = w.sansRegs) (hlive : w.liveOf sp ≠ 0) (r : Nat) (go : Dword → Split) {w' : Wave → Wave}
    (hw' : (w' a).sansRegs = a.sansRegs) (tag : Option (Dword × BitVec 16)) (defer : Bool) :
    ∃ stay others, ByAddress w sp r go stay others ∧
      Sends (s.reissued a gs n) ((s.reissued a gs n).sendByAddress (w.v2 r) go w' sp tag defer) a (w' a) sp stay others tag defer := by
  obtain ⟨stay, others, hg, hby⟩ := addressGroups_byAddress hlive r go
  obtain ⟨x, hx, hxs⟩ := Wave.sansRegs_splitSome (hw'.trans hw) hs
  refine ⟨stay, others, hby, ?_⟩
  simp only [State.sendByAddress, State.reissued_cur, State.reissued_wave, Wave.liveOf_congr hw, hg]
  exact State.sendGroups_sends (s := s.reissued a gs n) hx hxs ..

theorem regs_two (k : Nat) : regs k 2 = [k, k + 1] := rfl

/-- The D field of a call, whose pair takes the return address (04 R104). -/
def linkReg (c : CArgs) : Nat := c.j.toNat / 2 ^ 16

/-- The A field of an indirect transfer, whose pair holds the target (04 R105). -/
def targetReg (c : CArgs) : Nat := c.j.toNat / 2 ^ 8 % 256

theorem State.reissued_offset (s : State) (v : Wave) (gs : Table (Option Group)) (n : Nat) (t : BitVec 24) : (s.reissued v gs n).offset t = away s t :=
  State.offset_eq_away s t

/-- CALL, at a depth that may rise. -/
theorem execCall_eq {c : CArgs} {s : State} {w : Wave} {sp : Split} (h : s.issuing = some (w, sp)) (hm : mayTransfer s sp) (hd : sp.depth ≠ 0xFFFF) :
    exec (.call c) s = .next (s.issueWith { vw := [linkReg c, linkReg c + 1] } (fun _ sp s' =>
      (s'.onIssuer (fun w => w.writeReturn sp (linkReg c) s'.cur.next)).onIssuingSplit (fun x =>
        { x with depth := x.depth + 1 }.goto s'.cur.next (s'.offset c.t)))) := by
  change execCall c s = _
  rw [execCall, State.transfer_acts h hm, if_neg hd, regs_two]
  rfl

theorem execCalli_eq {c : CArgs} {s : State} {w : Wave} {sp : Split} (h : s.issuing = some (w, sp)) (hm : mayTransfer s sp) (hd : sp.depth ≠ 0xFFFF) :
    exec (.calli c) s = .next (s.issueWith { vr := [targetReg c, targetReg c + 1], vw := [linkReg c, linkReg c + 1] } (fun r sp s' =>
      s'.sendByAddress (r.v2 (targetReg c)) (fun x => ({ sp with depth := sp.depth + 1 } : Split).goto s'.cur.next x)
        (fun w => w.writeReturn sp (linkReg c) s'.cur.next) sp (some (s'.cur.next, sp.depth)) c.p)) := by
  change execCalli c s = _
  rw [execCalli, State.transfer_acts h hm, if_neg hd, regs_two, regs_two]
  rfl

theorem execRet_eq {c : CArgs} {s : State} {w : Wave} {sp : Split} (h : s.issuing = some (w, sp)) (hm : mayTransfer s sp) (hd : sp.depth ≠ 0) :
    exec (.ret c) s = .next (s.issueWith { vr := [targetReg c, targetReg c + 1] } (fun r sp s' =>
      s'.sendByAddress (r.v2 (targetReg c)) (fun x => ({ sp with
        depth := sp.depth - 1, loops := unwind (sp.depth - 1) x sp.loops } : Split).goto s'.cur.next x) id sp none c.p)) := by
  change execRet c s = _
  rw [execRet, State.transfer_acts h hm, if_neg hd, regs_two]
  rfl

/-- CALL writes the return address and sends its whole split. -/
theorem execCall_next {c : CArgs} {s : State} {w : Wave} {sp : Split} (hi : Issues s { vw := [linkReg c, linkReg c + 1] } w sp)
    (hm : mayTransfer s sp) (hd : sp.depth ≠ 0xFFFF) :
    ∃ t v, exec (.call c) s = .next t ∧ OnlyIssuer s t v ∧
      OnlyRegisters w v s.cur.split (({ sp with depth := sp.depth + 1 } : Split).goto s.cur.next (away s c.t)) ∧ (∀ k, v.s k = w.s k) ∧
      ∀ r l, l < 64 → v.v r l =
        if (w.liveOf sp).getLsbD l = true ∧ r = linkReg c then s.cur.next.extractLsb' 0 32
        else if (w.liveOf sp).getLsbD l = true ∧ r = linkReg c + 1 then s.cur.next.extractLsb' 32 32
        else w.v r l := by
  rw [execCall_eq hi.2.1 hm hd]
  obtain ⟨a, gs, n, honly, ⟨-, hrest, hv, hs⟩, he⟩ := State.issueWith_readied _ hi rfl rfl
  obtain ⟨hret, hrets, hretv⟩ := a.writeReturn_returns sp (linkReg c) s.cur.next
  obtain ⟨x, hx, hxs⟩ := Wave.sansRegs_splitSome (hret.trans hrest) (State.issuing_split hi.2.1).2
  rw [he]
  simp only [State.reissued_onIssuer, State.reissued_onIssuingSplit, State.reissued_cur, Wave.onSplit, hx, State.reissued_offset]
  refine ⟨_, _, rfl, honly _, Wave.setSplit_sansRegs (hret.trans hrest) _ (Split.goto_congr ?_ ..), fun k => ?_, fun r l hl => ?_⟩
  · rw [Split.eq_of_sansSeen hxs]; rfl
  · rw [Wave.setSplit_s, hrets, hs]
  · rw [Wave.setSplit_v, hretv r l hl, Wave.liveOf_congr hrest, hv r l hl]

/-- Settles O13: CALL sends its whole split; CALLI and RET send the groups of equal addresses. -/
theorem callsAndReturns : Obligations.CallsAndReturns := by
  refine ⟨fun c s w sp hi hm hd => execCall_next hi hm hd, fun c s w sp hi hm hd hlive => ?_, fun c s w sp hi hm hd hlive => ?_⟩
  · obtain ⟨a, gs, n, -, hr, he⟩ := State.issueWith_readied _ hi rfl rfl
    obtain ⟨hret, -, -⟩ := a.writeReturn_returns sp (linkReg c) s.cur.next
    obtain ⟨stay, others, hby, hsend⟩ := State.sendByAddress_sends (gs := gs) (n := n)
      (w' := fun w => w.writeReturn sp (linkReg c) s.cur.next) (State.issuing_split hi.2.1).2 hr.2.1 hlive (targetReg c)
      (fun x => ({ sp with depth := sp.depth + 1 } : Split).goto s.cur.next x) hret (some (s.cur.next, sp.depth)) c.p
    exact ⟨_, _, a, _, stay, others, (execCalli_eq hi.2.1 hm hd).trans (congrArg _ he), hr, a.writeReturn_returns .., hby, hsend⟩
  · obtain ⟨a, gs, n, -, hr, he⟩ := State.issueWith_readied _ hi rfl rfl
    obtain ⟨stay, others, hby, hsend⟩ := State.sendByAddress_sends (gs := gs) (n := n) (w' := id) (State.issuing_split hi.2.1).2 hr.2.1 hlive
      (targetReg c) (fun x => ({ sp with
        depth := sp.depth - 1, loops := leaves (sp.depth - 1) x sp.loops } : Split).goto s.cur.next x) rfl none c.p
    simp only [← unwind_eq_leaves] at hby hsend ⊢
    exact ⟨_, _, a, stay, others, (execRet_eq hi.2.1 hm hd).trans (congrArg _ he), hr, hby, hsend⟩

end Sys2Proof.Machine

/-! The wait at a FUSE of width 8 (O14), in a wave that holds a tag twice. -/

namespace Sys2Proof.Machine

open Sys2Proof.Claims

/-- The split that comes to the FUSE. -/
def fusingSplit : Split := { lanes := 0x0F }

/-- A wave of eight lanes in two splits, with one record of tag 1 in a register and another in a spill entry. -/
def twiceTagged : Wave :=
  { width := 8, splits := [(0, some fusingSplit), (1, some { lanes := 0xF0 })], records := [{ tag := 1 }, { tag := 1, inReg := false }] }

/-- The module right after reset, but for that wave: no page of its context is present. -/
def fusingState : State := { State.reset with waves := [(0, some twiceTagged)] }

/-- FUSE of width 8. -/
def fuse8 : CArgs := { t := 0, j := 1, k := 0, p := false }

/-- Whether the issuing wave of `fusingState` still issues after an outcome. -/
def runAfter : Out → Option RunState
  | .next t => (t.wave 0 0).map Wave.run
  | _ => none

/-- The wave parks: the split's wait reads the spill entry of tag 1, and that page is not there. -/
theorem runAfter_fuse8 : runAfter (exec (.fuse fuse8) fusingState) = some .draining := by decide +kernel

/-- Refutes O14: where a record in a spill entry has the tag of one in a register, the model counts the first as read by every change of
the wave's splits, also by the wait at a FUSE; the access faults and the wave parks, where the statement has its split wait. The statement's
hypotheses do not say that a tag is held once. The other clauses, the fields of a fused split among them, play no part in this. -/
theorem not_fusing : ¬ Obligations.Fusing := by
  rintro ⟨⟨-, -, -, hwait⟩, -⟩
  have hissue : fusingState.issuing = some (twiceTagged, fusingSplit) := by decide +kernel
  have h := hwait fuse8 fusingState twiceTagged fusingSplit hissue (by decide) rfl (by decide +kernel) (by decide +kernel) rfl
    ⟨2, by decide, by decide +kernel⟩
  have hrun := runAfter_fuse8
  rw [h, runAfter, show fusingState.cur.core = 0 from rfl, show fusingState.cur.wave = 0 from rfl, State.wave_setWave_self] at hrun
  exact absurd hrun (by decide)

end Sys2Proof.Machine

/-! What fusing, filling and leaving keep of a wave (O15, O32; 04 R90–R94, R108). -/

namespace Sys2Proof.Machine

open Sys2Proof.Claims

/-! ## Entries that fill, and miss pairs that end -/

section
variable (w : Wave)

@[simp] theorem Wave.wakePaths_records : w.wakePaths.records = w.records := by unfold Wave.wakePaths; split <;> rfl
@[simp] theorem Wave.wakePaths_sansSplits : w.wakePaths.sansSplits = w.sansSplits := by unfold Wave.wakePaths; split <;> rfl

@[simp] theorem Wave.fill_records (k : Nat) : (w.fill k).records = w.records := by
  unfold Wave.fill
  split
  · exact w.wakePaths_records
  · rfl

@[simp] theorem Wave.fill_sansSplits (k : Nat) : (w.fill k).sansSplits = w.sansSplits := by
  unfold Wave.fill
  split
  · exact w.wakePaths_sansSplits
  · rfl

@[simp] theorem Wave.fillAll_records (ks : List Nat) : (w.fillAll ks).records = w.records :=
  foldl_keeps Wave.records _ (fun a k => a.fill_records k) _ _

@[simp] theorem Wave.fillAll_sansSplits (ks : List Nat) : (w.fillAll ks).sansSplits = w.sansSplits :=
  foldl_keeps Wave.sansSplits _ (fun a k => a.fill_sansSplits k) _ _

/-- One entry's part in the end of a miss pair whose partner is gone. -/
def Wave.fixMissAt (w : Wave) (x : Nat × Split) : Wave :=
  match x.2.miss with
  | some p => if ((w.split p).map (fun y => decide (y.miss = some x.1))).getD false then w
      else w.onSplit x.1 (fun sp => if sp.missWait then
          { sp with miss := none, missWait := false, waitsAt := false, state := 0, timer := 0 } else { sp with miss := none })
  | none => w

theorem Wave.fixMiss_eq : w.fixMiss = w.live4.foldl Wave.fixMissAt w := rfl

theorem Wave.fixMissAt_records (x : Nat × Split) : (w.fixMissAt x).records = w.records := by
  unfold Wave.fixMissAt
  split
  · split
    · rfl
    · exact w.onSplit_records ..
  · rfl

theorem Wave.fixMissAt_sansSplits (x : Nat × Split) : (w.fixMissAt x).sansSplits = w.sansSplits := by
  unfold Wave.fixMissAt
  split
  · split
    · rfl
    · exact w.onSplit_sansSplits ..
  · rfl

@[simp] theorem Wave.fixMiss_records : w.fixMiss.records = w.records := foldl_keeps Wave.records _ Wave.fixMissAt_records _ _
@[simp] theorem Wave.fixMiss_sansSplits : w.fixMiss.sansSplits = w.sansSplits := foldl_keeps Wave.sansSplits _ Wave.fixMissAt_sansSplits _ _

theorem Wave.freeRecords_records : w.freeRecords.records.Sublist w.records := List.filter_sublist
end

/-! ## Fusing at a tag (04 R94) -/

/-- The splits in entries that fuse at a record's tag, with the split `also` if one comes. -/
def Wave.fusing (w : Wave) (r : Record) (also : Option Nat) : List (Nat × Split) :=
  w.live4.filter (fun x => also = some x.1 || (x.2.tag = r.tag && x.2.state = 1 && !x.2.waitsAt))

/-- The parts that fuse: those splits, and the record's parked ones. -/
def Wave.fusingParts (w : Wave) (r : Record) (also : Option Nat) : List Split :=
  (w.fusing r also).map (fun x => x.2) ++ r.parked.map (fun p => p.ctx)

/-- The wave once its fusing splits and the record have gone. -/
def Wave.unfused (w : Wave) (r : Record) (also : Option Nat) : Wave :=
  { (w.fusing r also).foldl (fun w x => w.setSplit x.1 none) w with
    records := ((w.fusing r also).foldl (fun w x => w.setSplit x.1 none) w).records.filter (fun x => decide (x.tag ≠ r.tag)) }

/-- The fused split takes the first part's entry, else a free one, else it becomes a path. -/
def Wave.putFused (w : Wave) (parts : List Split) (first : Option (Nat × Split)) (fused : Split) : Wave :=
  if parts = [] then w
  else match first with
    | some x => w.setSplit x.1 (some fused)
    | none => match w.freeEntry with
      | some e => w.setSplit e (some fused)
      | none => w.pushPath fused

theorem Wave.fuseTag_eq (w : Wave) (r : Record) (also : Option Nat) : w.fuseTag r also =
    (((((w.unfused r also).putFused (w.fusingParts r also) (w.fusing r also).head? (fuseSplits (w.fusingParts r also) r.outer)).freeRecords).fillAll
      (((w.fusing r also).drop 1).map (fun x => x.1))).fixMiss).settle := rfl

section
variable (w : Wave) (r : Record) (also : Option Nat)

theorem Wave.unfused_records : (w.unfused r also).records = w.records.filter (fun x => decide (x.tag ≠ r.tag)) :=
  congrArg (List.filter _) (foldl_keeps Wave.records (fun w (x : Nat × Split) => w.setSplit x.1 none) (fun _ _ => rfl) (w.fusing r also) w)

theorem Wave.unfused_sansSplits : (w.unfused r also).sansSplits = w.sansSplits :=
  foldl_keeps Wave.sansSplits (fun w (x : Nat × Split) => w.setSplit x.1 none) (fun _ _ => rfl) (w.fusing r also) w

theorem Wave.putFused_records (parts : List Split) (first : Option (Nat × Split)) (fused : Split) :
    (w.putFused parts first fused).records = w.records := by
  unfold Wave.putFused
  split
  · rfl
  · split
    · rfl
    · split <;> rfl

theorem Wave.putFused_sansSplits (parts : List Split) (first : Option (Nat × Split)) (fused : Split) :
    (w.putFused parts first fused).sansSplits = w.sansSplits := by
  unfold Wave.putFused
  split
  · rfl
  · split
    · rfl
    · split <;> rfl

/-- Fusing at a tag drops its record, and may free others. -/
theorem Wave.fuseTag_records : (w.fuseTag r also).records.Sublist (w.records.filter (fun x => decide (x.tag ≠ r.tag))) := by
  rw [Wave.fuseTag_eq, Wave.settle_records, Wave.fixMiss_records, Wave.fillAll_records]
  refine (Wave.freeRecords_records _).trans ?_
  rw [Wave.putFused_records, Wave.unfused_records]

theorem Wave.fuseTag_sansSplits : (w.fuseTag r also).sansSplits = w.sansSplits := by
  rw [Wave.fuseTag_eq, Wave.settle_sansSplits, Wave.fixMiss_sansSplits, Wave.fillAll_sansSplits, Wave.freeRecords_sansSplits,
    Wave.putFused_sansSplits, Wave.unfused_sansSplits]
end

/-! ## EXIT (04 R108) -/

/-- The test of one record for completion. -/
def Wave.completeAt (w : Wave) (r0 : Record) : Wave :=
  match w.record r0.tag with
  | some r =>
    if !r.broken && w.complete r && (r.parked ≠ [] || w.live4.any (fun x =>
        x.2.tag = r.tag && x.2.state = 1 && !x.2.waitsAt)) then w.fuseTag r none else w
  | none => w

theorem Wave.completeAt_or (w : Wave) (r0 : Record) : w.completeAt r0 = w ∨ ∃ r, w.completeAt r0 = w.fuseTag r none := by
  unfold Wave.completeAt
  split
  · next r _ =>
    split
    · exact .inr ⟨r, rfl⟩
    · exact .inl rfl
  · exact .inl rfl

theorem Wave.completeAll_records (w : Wave) : w.completeAll.records.Sublist w.records := by
  have h : ∀ (l : List Record) (v : Wave), (l.foldl Wave.completeAt v).records.Sublist v.records := by
    intro l
    induction l with
    | nil => exact fun _ => .refl _
    | cons r l ih =>
      refine fun v => (ih _).trans ?_
      rcases v.completeAt_or r with h | ⟨r', h⟩
      · rw [h]
      · rw [h]; exact (v.fuseTag_records r' none).trans List.filter_sublist
  exact h w.records w

theorem Wave.completeAll_sansSplits (w : Wave) : w.completeAll.sansSplits = w.sansSplits :=
  foldl_keeps Wave.sansSplits Wave.completeAt (fun v r => by
    rcases v.completeAt_or r with h | ⟨r', h⟩
    · rw [h]
    · rw [h, Wave.fuseTag_sansSplits]) w.records w

section
variable (w : Wave) (k : Nat) (lanes : Dword)

/-- The wave whose lanes have left, with its splits and records as they were. -/
def Wave.left (w : Wave) (lanes : Dword) : Wave :=
  { w with exited := w.exited ||| lanes, queries := w.queries.filter (fun e => !lanes.getLsbD e.1) }

/-- A record without the lanes that have left. -/
def Record.without (lanes : Dword) (r : Record) : Record := { r with members := r.members &&& ~~~lanes }

theorem Wave.exitLanes_eq : w.exitLanes k lanes =
    ((({ ((((w.left lanes).setSplit k none).fixMiss).fill k) with
      records := ((((w.left lanes).setSplit k none).fixMiss).fill k).records.map (Record.without lanes) } : Wave).freeRecords.completeAll).fill k).settle := rfl

/-- The lanes leave every record that stays. -/
theorem Wave.exitLanes_records : (w.exitLanes k lanes).records.Sublist (w.records.map (Record.without lanes)) := by
  rw [Wave.exitLanes_eq, Wave.settle_records, Wave.fill_records]
  refine (Wave.completeAll_records _).trans ((Wave.freeRecords_records _).trans ?_)
  rw [Wave.fill_records, Wave.fixMiss_records]
  exact .refl _

theorem Wave.exitLanes_sansSplits : (w.exitLanes k lanes).sansSplits = (w.left lanes).sansSplits := by
  rw [Wave.exitLanes_eq, Wave.settle_sansSplits, Wave.fill_sansSplits, Wave.completeAll_sansSplits, Wave.freeRecords_sansSplits]
  refine ((((w.left lanes).setSplit k none).fixMiss).fill_sansSplits k).trans ?_
  rw [Wave.fixMiss_sansSplits, Wave.setSplit_sansSplits]
end

/-- What stays of a wave whose lanes have left, beside its splits and records. -/
theorem Wave.left_frame {v w : Wave} {lanes : Dword} (h : v.sansSplits = (w.left lanes).sansSplits) : v.exited = w.exited ||| lanes ∧
    v.queries = w.queries.filter (fun e => !lanes.getLsbD e.1) ∧ v.vregs = w.vregs ∧ v.sregs = w.sregs ∧ v.ops = w.ops ∧ v.run = w.run ∧
    v.group = w.group :=
  ⟨(congrArg Wave.exited h :), (congrArg Wave.queries h :), (congrArg Wave.vregs h :), (congrArg Wave.sregs h :), (congrArg Wave.ops h :),
    (congrArg Wave.run h :), (congrArg Wave.group h :)⟩

/-- A change of the splits whose spill entries do not fault writes the wave, and those entries in memory. -/
theorem State.putSplits_wave {s : State} {core wave k : Nat} {pc : Dword} {w v : Wave}
    (h : (w.spillTouched v).findSome? (s.spillFault core wave w) = none) : (s.putSplits core wave k pc w v).wave core wave = some v := by
  rw [State.putSplits, h]
  exact State.wave_setWave_self ..

theorem execExit_next {s : State} {w : Wave} {sp : Split} (h : s.issuing = some (w, sp))
    (hf : (w.spillTouched (w.exitLanes s.cur.split (w.liveOf sp))).findSome? (s.spillFault s.cur.core s.cur.wave w) = none) :
    exec .exit s = .next (s.putSplits s.cur.core s.cur.wave s.cur.split s.cur.iaddr w (w.exitLanes s.cur.split (w.liveOf sp))) := by
  have hm : w.moved s.cur.split (.exit (w.liveOf sp)) = some (w.exitLanes s.cur.split (w.liveOf sp)) := by
    simp only [Wave.moved, (State.issuing_split h).2]
  change execExit s = _
  rw [execExit, h]
  exact congrArg _ (State.putMove_some hm hf)

/-! ## Stops of control flow (14 R317, R318; 04 R101) -/

/-- A stop after the instruction: the wave is halted as it goes on. -/
theorem State.advance_stopsAt {s : State} {w : Wave} {sp : Split} {c : StopCause} (addr : Dword) (hc : s.cur.svc = none)
    (h : s.issuing = some (w, sp)) (hf : fateOf c .fetch = .stop) :
    StopsAt s (s.advance.stopWith { cause := c, addr := addr }) (w.setSplit s.cur.split (some (past s sp))) c addr := by
  rw [State.advance_eq hc h]
  generalize hw : w.setSplit s.cur.split (some (past s sp)) = w'
  have hi : (s.setWave s.cur.core s.cur.wave (some w')).issuing = some (w', past s sp) := by
    rw [State.issuing_setWave, ← hw, Wave.setSplit_split_self]; rfl
  intro hr hs
  rw [State.stopWith_stopsAt (s := s.setWave s.cur.core s.cur.wave (some w')) addr hc hi hf hr hs, State.setWave_cur, State.setWave_again]

/-- Every transfer of control at a loop's end stops. -/
theorem exec_transfers_stops {i : Instr} {s : State} {w : Wave} {sp : Split} (ht : transfers i = true) (hc : s.cur.svc = none)
    (h : s.issuing = some (w, sp)) (hm : ¬ mayTransfer s sp) : exec i s = .next (s.stopHere .illegalOperand) := by
  have hstop := fun act => congrArg (Host.Outcome.next (φ := Fault) (ρ := Refusal)) (State.transfer_stops h hm act)
  cases i with
  | bra c =>
    change execBra c s = _
    rw [execBra, hc]
    exact hstop _
  | brs c =>
    change execBrs c s = _
    rw [execBrs, hc]
    exact hstop _
  | brc c => exact hstop _
  | brm c ms => exact hstop _
  | call c => exact hstop _
  | calli c => exact hstop _
  | ret c => exact hstop _
  | loop c => exact hstop _
  | loopx c => exact hstop _
  | _ => cases ht

/-- Settles O15: EXIT by what it keeps of the wave, and the stops by what `takeStop` does to a wave that runs. -/
theorem exitAndStops : Obligations.ExitAndStops := by
  refine ⟨fun s w sp h => ?_, fun c s => goes_of_setSplit fun w sp hc h hs => ?_, fun c s w sp hc h => ?_, fun s w sp hc h =>
    ⟨_, rfl, State.stopHere_stopsAt hc h rfl⟩, fun i s w sp ht hc h hm => ⟨_, exec_transfers_stops ht hc h hm, State.stopHere_stopsAt hc h rfl⟩⟩
  · intro v hf
    obtain ⟨hexit, hqueries, hkept⟩ := Wave.left_frame (w.exitLanes_sansSplits s.cur.split (w.liveOf sp))
    have hrec := w.exitLanes_records s.cur.split (w.liveOf sp)
    refine ⟨⟨_, execExit_next h hf, State.putSplits_wave hf, fun ht => State.putSplits_untouched _ _ _ _ _ ht⟩, hexit,
      fun r hr => ?_, fun l hl hlv q hq => ?_, hkept⟩
    · obtain ⟨r', hr', rfl⟩ := List.mem_map.1 (hrec.subset hr)
      exact ⟨by rw [Record.without, BitVec.and_assoc]; simp, r', hr', rfl⟩
    · rw [hqueries] at hq
      simp [hlv] at hq
  · change execSigchk c s = _
    simp only [execSigchk, h]
    rw [if_pos hs, State.advance_onIssuingSplit hc h]
  · exact ⟨_, rfl, by rw [BitVec.ofNat_toNat]; exact State.advance_stopsAt _ hc h rfl⟩

end Sys2Proof.Machine

/-! Arrival at a rejoin address and the timers of splits (O32; 04 R94, R96, R97). -/

namespace Sys2Proof.Machine

open Sys2Proof.Claims

/-! ## Waves with no spill entry in use (04 R93) -/

theorem Wave.spillUsed_eq_zero {w : Wave} : w.spillUsed = 0 ↔ (∀ p ∈ w.paths, p.queued = true) ∧ ∀ r ∈ w.records, r.inReg = true := by
  simp [Wave.spillUsed, List.filter_eq_nil_iff]

/-- A change from such a wave to such a wave touches no spill entry. -/
theorem Wave.spillTouched_of_unused {w v : Wave} (hw : w.spillUsed = 0) (hv : v.spillUsed = 0) : w.spillTouched v = [] := by
  have hnone : ∀ x : Wave, x.spillUsed = 0 → x.spilledPaths = [] ∧ x.spilledTags = [] := fun x hx => by
    obtain ⟨hp, hr⟩ := Wave.spillUsed_eq_zero.1 hx
    simp only [Wave.spilledPaths, Wave.spilledTags, List.map_eq_nil_iff, List.filter_eq_nil_iff]
    exact ⟨fun p hm => by simp [hp p hm], fun r hm => by simp [hr r hm]⟩
  simp [Wave.spillTouched, Wave.spillReads, Wave.spillWrites, hnone w hw, hnone v hv]

/-- Records and paths that come from those of such a wave stay so. -/
theorem State.putSplits_unused {s : State} {core wave k : Nat} {pc : Dword} {w v : Wave} (hw : w.spillUsed = 0)
    (hp : ∀ p ∈ v.paths, p.queued = true) (hr : ∀ r ∈ v.records, r.inReg = true) : s.putSplits core wave k pc w v = s.setWave core wave (some v) :=
  State.putSplits_untouched _ _ _ _ _ (Wave.spillTouched_of_unused hw (Wave.spillUsed_eq_zero.2 ⟨hp, hr⟩))

/-! ## Records -/

theorem Wave.record_tag {w : Wave} {t : Nat} {r : Record} (h : w.record t = some r) : r.tag = t := by
  simpa using List.find?_some h

theorem Wave.record_mem {w : Wave} {t : Nat} {r : Record} (h : w.record t = some r) : r ∈ w.records := List.mem_of_find?_eq_some h

/-- The record of a tag after a change of it that keeps its tag. -/
theorem Wave.record_onRecord {w : Wave} {t : Nat} {r : Record} {f : Record → Record} (hf : ∀ x, (f x).tag = x.tag) (h : w.record t = some r) :
    (w.onRecord t f).record t = some (f r) := by
  have hcomp : ((fun x : Record => decide (x.tag = t)) ∘ fun x => if x.tag = t then f x else x) = fun x => decide (x.tag = t) := by
    funext x
    simp only [Function.comp]
    split
    · rw [hf]
    · rfl
  rw [Wave.record, Wave.onRecord, List.find?_map, hcomp, show w.records.find? _ = some r from h, Option.map_some, if_pos (Wave.record_tag h)]

/-- A change of a record that keeps it in its register. -/
theorem Wave.onRecord_inReg {w : Wave} {t : Nat} {f : Record → Record} (hf : ∀ x, (f x).inReg = x.inReg) (h : ∀ r ∈ w.records, r.inReg = true) :
    ∀ r ∈ (w.onRecord t f).records, r.inReg = true := by
  intro r hr
  obtain ⟨x, hx, rfl⟩ := List.mem_map.1 hr
  split
  · rw [hf]; exact h x hx
  · exact h x hx

/-- Of the records of a tag after a change of it. -/
theorem Wave.mem_onRecord {w : Wave} {t : Nat} {f : Record → Record} {r : Record} (hr : r ∈ (w.onRecord t f).records)
    (ht : r.tag = t) : ∃ x, r = f x := by
  obtain ⟨x, -, rfl⟩ := List.mem_map.1 hr
  split at ht
  · next h => exact ⟨x, if_pos h⟩
  · next h => exact absurd ht h

/-! ## Fusing with no path and no miss pair -/

theorem Wave.fill_of_no_paths {w : Wave} (h : w.paths = []) (k : Nat) : w.fill k = w := by
  have hy : youngest w.wakePaths.paths = none := by
    unfold Wave.wakePaths
    split <;> simp [h, youngest]
  unfold Wave.fill
  split
  · next he => rw [hy] at he; cases he
  · rfl

theorem Wave.fillAll_of_no_paths {w : Wave} (h : w.paths = []) (ks : List Nat) : w.fillAll ks = w := by
  induction ks with
  | nil => rfl
  | cons k ks ih => rw [Wave.fillAll, List.foldl_cons, Wave.fill_of_no_paths h]; exact ih

theorem Wave.mem_live4 {w : Wave} {j : Nat} {x : Split} : (j, x) ∈ w.live4 ↔ j < 4 ∧ w.split j = some x := by
  simp only [Wave.live4, List.mem_filterMap, List.mem_range, Option.map_eq_some_iff, Prod.mk.injEq]
  constructor
  · rintro ⟨i, hi, y, hy, rfl, rfl⟩; exact ⟨hi, hy⟩
  · rintro ⟨hj, hx⟩; exact ⟨j, hj, x, hx, rfl, rfl⟩

theorem Wave.fixMiss_of_no_miss {w : Wave} (h : ∀ j x, w.split j = some x → x.miss = none) : w.fixMiss = w := by
  have hl : ∀ l : List (Nat × Split), (∀ e ∈ l, e.2.miss = none) → l.foldl Wave.fixMissAt w = w := by
    intro l
    induction l with
    | nil => exact fun _ => rfl
    | cons e l ih =>
      intro he
      rw [List.foldl_cons, show w.fixMissAt e = w by rw [Wave.fixMissAt, he e (List.mem_cons_self ..)]]
      exact ih fun e' h' => he e' (List.mem_cons_of_mem _ h')
  exact hl w.live4 fun e he => h e.1 e.2 (Wave.mem_live4.1 he).2

/-- Splits that fuse leave their entries. -/
theorem Wave.split_foldl_none (l : List (Nat × Split)) (w : Wave) (j : Nat) :
    (l.foldl (fun w x => w.setSplit x.1 none) w).split j = if j ∈ l.map Prod.fst then none else w.split j := by
  induction l generalizing w with
  | nil => simp
  | cons x l ih =>
    rw [List.foldl_cons, ih]
    by_cases hj : j = x.1
    · simp [hj]
    · simp only [List.map_cons, List.mem_cons, hj, false_or, Wave.split_setSplit_ne _ _ hj]

/-- The lanes of a fused split. -/
theorem fuseSplits_lanes {parts : List Split} {r : Record} (h : parts ≠ []) {l : Nat} :
    (fuseSplits parts r.outer).lanes.getLsbD l = parts.any (fun p => p.lanes.getLsbD l) := by
  have hor : ∀ (ps : List Split) (m : Dword), (ps.foldl (fun m p => m ||| p.lanes) m).getLsbD l = (m.getLsbD l || ps.any (fun p => p.lanes.getLsbD l)) := by
    intro ps
    induction ps with
    | nil => simp
    | cons p ps ih => intro m; rw [List.foldl_cons, ih, BitVec.getLsbD_or, List.any_cons, Bool.or_assoc]
  cases parts with
  | nil => exact absurd rfl h
  | cons a rest => exact (hor (a :: rest) 0).trans (by rw [show (0 : Dword).getLsbD l = false from BitVec.getLsbD_zero, Bool.false_or])

/-- The context of a fused split outward of a record (04 R90, R94). -/
theorem fuseSplits_outer {parts : List Split} {r : Record} (h : parts ≠ []) :
    (fuseSplits parts r.outer).tag = r.outerTag ∧ (fuseSplits parts r.outer).rejoin = r.outerRejoin ∧ (fuseSplits parts r.outer).rdepth = r.outerDepth ∧
      (fuseSplits parts r.outer).state = 0 ∧ (fuseSplits parts r.outer).timer = 0 ∧ (fuseSplits parts r.outer).miss = none := by
  cases parts with
  | nil => exact absurd rfl h
  | cons a rest => exact ⟨rfl, rfl, rfl, rfl, rfl, rfl⟩

end Sys2Proof.Machine

/-! A split that arrives at its rejoin address (O32; 04 R94). -/

namespace Sys2Proof.Machine

open Sys2Proof.Claims

/-! ## The fuse of a complete tag -/

theorem Wave.mem_fusing {w : Wave} {r : Record} {also : Option Nat} {j : Nat} {x : Split} : (j, x) ∈ w.fusing r also ↔
    (j < 4 ∧ w.split j = some x) ∧ (also = some j ∨ (x.tag = r.tag ∧ x.state = 1 ∧ x.waitsAt = false)) := by
  simp [Wave.fusing, Wave.mem_live4, and_assoc]

theorem Wave.unfused_paths (w : Wave) (r : Record) (also : Option Nat) : (w.unfused r also).paths = w.paths :=
  foldl_keeps Wave.paths (fun w (x : Nat × Split) => w.setSplit x.1 none) (fun _ _ => rfl) (w.fusing r also) w

theorem Wave.unfused_split (w : Wave) (r : Record) (also : Option Nat) (j : Nat) :
    (w.unfused r also).split j = if j ∈ (w.fusing r also).map Prod.fst then none else w.split j :=
  Wave.split_foldl_none (w.fusing r also) w j

/-- The wave whose splits have fused into `y` in the entry `e`, where no path can take what becomes free. -/
def Wave.fusedAt (w : Wave) (r : Record) (also : Option Nat) (e : Nat) (y : Split) : Wave :=
  ((w.unfused r also).setSplit e (some y)).freeRecords.settle

theorem Wave.fusedAt_split (w : Wave) (r : Record) (also : Option Nat) (e : Nat) (y : Split) (j : Nat) :
    (w.fusedAt r also e y).split j = ((w.unfused r also).setSplit e (some y)).split j := by
  rw [Wave.split, Wave.fusedAt, Wave.settle_splits]
  rfl

theorem Wave.putFused_first (w : Wave) {parts : List Split} (h : parts ≠ []) (a : Nat × Split) (fused : Split) :
    w.putFused parts (some a) fused = w.setSplit a.1 (some fused) := if_neg h

/-- Fusing at a tag with no lane parked, no path deferred and no miss pair. -/
theorem Wave.fuseTag_plain {w : Wave} {r : Record} {also : Option Nat} {a : Nat × Split} {as : List (Nat × Split)} (hp : w.paths = [])
    (hm : ∀ j x, w.split j = some x → x.miss = none) (hk : r.parked = []) (hf : w.fusing r also = a :: as) :
    w.fuseTag r also = w.fusedAt r also a.1 (fuseSplits ((w.fusing r also).map Prod.snd) r.outer) := by
  have hparts : w.fusingParts r also = (w.fusing r also).map Prod.snd := by rw [Wave.fusingParts, hk]; simp
  have hne : (w.fusing r also).map Prod.snd ≠ [] := by rw [hf]; simp
  have hfix : ∀ j x, ((w.unfused r also).setSplit a.1 (some (fuseSplits ((w.fusing r also).map Prod.snd) r.outer))).split j = some x →
      x.miss = none := by
    intro j x hx
    by_cases hj : j = a.1
    · subst hj
      rw [Wave.setSplit_split_self, Option.some.injEq] at hx
      exact hx ▸ (fuseSplits_outer hne).2.2.2.2.2
    · rw [Wave.split_setSplit_ne _ _ hj, Wave.unfused_split] at hx
      split at hx
      · cases hx
      · exact hm j x hx
  rw [Wave.fuseTag_eq, hparts, congrArg List.head? hf, List.head?_cons, Wave.putFused_first _ hne, Wave.fillAll_of_no_paths, Wave.fixMiss_of_no_miss]
  · rfl
  · exact fun j x hx => hfix j x hx
  · exact (w.unfused_paths r also).trans hp

/-- What such a fuse leaves in the entries (04 R90, R94). -/
theorem Wave.fusedAt_entries {w : Wave} {r : Record} {k : Nat} {a : Nat × Split} {as : List (Nat × Split)}
    (hf : w.fusing r (some k) = a :: as) :
    let y := fuseSplits ((w.fusing r (some k)).map Prod.snd) r.outer
    let waits := fun (x : Split) => decide (x.tag = r.tag ∧ x.state = 1 ∧ x.waitsAt = false)
    (w.fusedAt r (some k) a.1 y).split a.1 = some y ∧
    (∀ l < 64, y.lanes.getLsbD l = true ↔ ∃ j < 4, ∃ x, w.split j = some x ∧ (j = k ∨ waits x = true) ∧ x.lanes.getLsbD l = true) ∧
    (∀ j < 4, j ≠ a.1 → (w.fusedAt r (some k) a.1 y).split j = match w.split j with
      | some x => if j = k ∨ waits x = true then none else some x
      | none => none) := by
  have hne : (w.fusing r (some k)).map Prod.snd ≠ [] := by rw [hf]; simp
  have hmem : ∀ j x, (j, x) ∈ w.fusing r (some k) ↔ (j < 4 ∧ w.split j = some x) ∧
      (j = k ∨ decide (x.tag = r.tag ∧ x.state = 1 ∧ x.waitsAt = false) = true) := fun j x => by
    rw [Wave.mem_fusing, decide_eq_true_iff, Option.some.injEq, eq_comm (a := k)]
  refine ⟨by rw [Wave.fusedAt_split, Wave.setSplit_split_self], fun l _ => ?_, fun j hj hja => ?_⟩
  · rw [fuseSplits_lanes hne, List.any_map, List.any_eq_true]
    constructor
    · rintro ⟨⟨j, x⟩, hx, hl⟩
      obtain ⟨⟨hj, hw⟩, hor⟩ := (hmem j x).1 hx
      exact ⟨j, hj, x, hw, hor, hl⟩
    · rintro ⟨j, hj, x, hw, hor, hl⟩
      exact ⟨(j, x), (hmem j x).2 ⟨⟨hj, hw⟩, hor⟩, hl⟩
  · have hkeys : j ∈ (w.fusing r (some k)).map Prod.fst ↔ ∃ x, w.split j = some x ∧
        (j = k ∨ decide (x.tag = r.tag ∧ x.state = 1 ∧ x.waitsAt = false) = true) := by
      simp only [List.mem_map, Prod.exists, exists_and_right, exists_eq_right, hmem, hj, true_and]
    rw [Wave.fusedAt_split, Wave.split_setSplit_ne _ _ hja, Wave.unfused_split, if_congr hkeys rfl rfl]
    cases hw : w.split j with
    | none => simp
    | some x => simp

/-! ## The three ways of an arrival -/

theorem Wave.freeRecords_split (w : Wave) (j : Nat) : w.freeRecords.split j = w.split j := rfl
theorem Wave.onRecord_split (w : Wave) (t : Nat) (f : Record → Record) (j : Nat) : (w.onRecord t f).split j = w.split j := rfl

section
variable {w : Wave} {k : Nat} {sp : Split} {r : Record}

/-- The wave whose arriving split is counted in its record. -/
def Wave.counted (w : Wave) (sp : Split) (r : Record) : Wave := w.onRecord r.tag (fun x => { x with arrived := x.arrived ||| sp.lanes })

/-- A record with an arriving split counted. -/
def Record.counting (sp : Split) (r : Record) : Record := { r with arrived := r.arrived ||| sp.lanes }

/-- A record that a split's lanes have left. -/
def Record.leaving (sp : Split) (r : Record) : Record := { r with members := r.members &&& ~~~sp.lanes }

/-- The wave whose split goes on with a broken record's outer context. -/
def Wave.pastBroken (w : Wave) (k : Nat) (sp : Split) (r : Record) : Wave :=
  ((w.onRecord r.tag (Record.leaving sp)).setSplit k (some (outerOf r { sp with state := 0, timer := 0 }))).freeRecords

theorem Wave.arrive_broken (hs : w.split k = some sp) (hr : w.record sp.tag = some r) (hi : r.inReg = true) (hb : r.broken = true) :
    w.arrive k = w.pastBroken k sp r := by
  simp only [Wave.arrive, hs, hr, hi, hb, if_true]
  rfl

theorem Wave.arrive_complete (hs : w.split k = some sp) (hr : w.record sp.tag = some r) (hi : r.inReg = true) (hb : r.broken = false)
    (hm : r.members &&& ~~~w.exited &&& ~~~(r.arrived ||| sp.lanes) = 0) : w.arrive k = (w.counted sp r).fuseTag (r.counting sp) (some k) := by
  have hc : (w.counted sp r).record r.tag = some (r.counting sp) := Wave.record_onRecord (fun _ => rfl) ((Wave.record_tag hr).symm ▸ hr)
  have hf : (w.counted sp r).complete (r.counting sp) = true := decide_eq_true hm
  simp only [Wave.counted] at hc hf ⊢
  simp only [Wave.arrive, hs, hr, hi, hb, if_true, Bool.false_eq_true, if_false, hc, hf]

theorem Wave.arrive_waits (hs : w.split k = some sp) (hr : w.record sp.tag = some r) (hi : r.inReg = true) (hb : r.broken = false)
    (hm : r.members &&& ~~~w.exited &&& ~~~(r.arrived ||| sp.lanes) ≠ 0) (hp : w.paths = []) :
    w.arrive k = (w.counted sp r).setSplit k (some { sp with state := 1, timer := 0, waitsAt := false }) := by
  have hc : (w.counted sp r).record r.tag = some (r.counting sp) := Wave.record_onRecord (fun _ => rfl) ((Wave.record_tag hr).symm ▸ hr)
  have hf : (w.counted sp r).complete (r.counting sp) = false := decide_eq_false hm
  have hpaths : (w.counted sp r).paths = [] := hp
  simp only [Wave.counted] at hc hf hpaths ⊢
  simp only [Wave.arrive, hs, hr, hi, hb, if_true, Bool.false_eq_true, if_false, hc, hf, hpaths, List.any_nil, Bool.and_false, Bool.or_false]

theorem Wave.pastBroken_records {x : Record} (hx : x ∈ (w.pastBroken k sp r).records) : x ∈ (w.onRecord r.tag (Record.leaving sp)).records :=
  (Wave.freeRecords_records ((w.onRecord r.tag (Record.leaving sp)).setSplit k _)).subset hx

/-- Of a record that stays no lane that has gone on is a member. -/
theorem Wave.pastBroken_members {x : Record} (hx : x ∈ (w.pastBroken k sp r).records) (ht : x.tag = r.tag) : x.members &&& sp.lanes = 0 := by
  obtain ⟨y, rfl⟩ := Wave.mem_onRecord (Wave.pastBroken_records hx) ht
  rw [Record.leaving, BitVec.and_assoc]
  simp

theorem Wave.pastBroken_inReg (h : ∀ x ∈ w.records, x.inReg = true) : ∀ x ∈ (w.pastBroken k sp r).records, x.inReg = true := fun x hx =>
  Wave.onRecord_inReg (f := Record.leaving sp) (fun _ => rfl) h x (Wave.pastBroken_records hx)

theorem Wave.pastBroken_paths : (w.pastBroken k sp r).paths = w.paths := rfl

theorem Wave.pastBroken_split : (w.pastBroken k sp r).split k = some (outerOf r { sp with state := 0, timer := 0 }) := by
  rw [Wave.pastBroken, Wave.freeRecords_split, Wave.setSplit_split_self]

theorem Wave.pastBroken_split_ne {j : Nat} (h : j ≠ k) : (w.pastBroken k sp r).split j = w.split j := by
  rw [Wave.pastBroken, Wave.freeRecords_split, Wave.split_setSplit_ne _ _ h, Wave.onRecord_split]

end

/-! ## SPLIT_ARRIVE -/

theorem State.running_of_runs {s : State} {core wave : Nat} {w : Wave} (h : Runs s core wave w) : s.running core wave = some w := by
  obtain ⟨hw, hr, hp⟩ := h
  simp [State.running, hw, hr, hp]

/-- A split at its rejoin address arrives there, in a wave that uses no spill entry before and after. -/
theorem execSplitArrive_becomes {s : State} {core wave k : Nat} {w : Wave} {sp : Split} (ha : s.arg = .at3 core wave k) (hr : Runs s core wave w)
    (hs : w.split k = some sp) (hat : sp.atRejoin = true) (hw : w.spillUsed = 0) (hp : ∀ p ∈ (w.arrive k).paths, p.queued = true)
    (hi : ∀ r ∈ (w.arrive k).records, r.inReg = true) : BecomesWave (exec .splitArrive s) s core wave (w.arrive k) := by
  change execSplitArrive s = _
  simp only [execSplitArrive, ha, State.running_of_runs hr, hs, Option.map_some, Option.getD_some, hat, if_true]
  rw [State.putSplits_unused hw hp hi]

/-- An arrival that waits for members of its record, and one at a broken record. -/
theorem splitArrive_cases {s : State} {core wave k : Nat} {w : Wave} {sp : Split} {r : Record} (ha : s.arg = .at3 core wave k)
    (hr : Runs s core wave w) (hs : w.split k = some sp) (hat : sp.atRejoin = true) (hrec : w.record sp.tag = some r) (hu : w.spillUsed = 0)
    (hp : w.paths = []) :
    (r.broken = false → r.members &&& ~~~w.exited &&& ~~~(r.arrived ||| sp.lanes) ≠ 0 → BecomesWave (exec .splitArrive s) s core wave
      ((w.counted sp r).setSplit k (some { sp with state := 1, timer := 0, waitsAt := false }))) ∧
    (r.broken = true → BecomesWave (exec .splitArrive s) s core wave (w.pastBroken k sp r)) := by
  obtain ⟨hq, hi⟩ := Wave.spillUsed_eq_zero.1 hu
  have hir := hi r (Wave.record_mem hrec)
  have hbecomes := execSplitArrive_becomes ha hr hs hat hu
  constructor
  · intro hb hm
    rw [Wave.arrive_waits hs hrec hir hb hm hp] at hbecomes
    exact hbecomes hq (Wave.onRecord_inReg (f := Record.counting sp) (fun _ => rfl) hi)
  · intro hb
    rw [Wave.arrive_broken hs hrec hir hb] at hbecomes
    exact hbecomes hq (Wave.pastBroken_inReg hi)

/-- An arrival by which the tag is complete (04 R94). -/
theorem splitArrive_completes {s : State} {core wave k : Nat} {w : Wave} {sp : Split} {r : Record} (ha : s.arg = .at3 core wave k)
    (hr : Runs s core wave w) (hs : w.split k = some sp) (hat : sp.atRejoin = true) (hrec : w.record sp.tag = some r) (hu : w.spillUsed = 0)
    (hp : w.paths = []) (hpk : r.parked = []) (hb : r.broken = false) (hm : r.members &&& ~~~w.exited &&& ~~~(r.arrived ||| sp.lanes) = 0)
    (hmiss : ∀ j x, w.split j = some x → x.miss = none) (hk : k < 4) :
    let waits := fun (x : Split) => decide (x.tag = r.tag ∧ x.state = 1 ∧ x.waitsAt = false)
    ∃ v e y, BecomesWave (exec .splitArrive s) s core wave v ∧ v.split e = some y ∧ (∀ x ∈ v.records, x.tag ≠ r.tag) ∧
      (∀ l < 64, y.lanes.getLsbD l = true ↔ ∃ j < 4, ∃ x, w.split j = some x ∧ (j = k ∨ waits x = true) ∧ x.lanes.getLsbD l = true) ∧
      y.tag = r.outerTag ∧ y.rejoin = r.outerRejoin ∧ y.rdepth = r.outerDepth ∧ y.state = 0 ∧ y.timer = 0 ∧
      (∀ j < 4, j ≠ e → v.split j = match w.split j with
        | some x => if j = k ∨ waits x = true then none else some x
        | none => none) ∧ v.vregs = w.vregs ∧ v.exited = w.exited := by
  obtain ⟨-, hi⟩ := Wave.spillUsed_eq_zero.1 hu
  have harr := Wave.arrive_complete hs hrec (hi r (Wave.record_mem hrec)) hb hm
  have hmem : (k, sp) ∈ (w.counted sp r).fusing (r.counting sp) (some k) := Wave.mem_fusing.2 ⟨⟨hk, hs⟩, .inl rfl⟩
  obtain ⟨a, as, hf⟩ := List.exists_cons_of_ne_nil (List.ne_nil_of_mem hmem)
  have hfused : w.arrive k = _ := harr.trans (Wave.fuseTag_plain (w := w.counted sp r) hp hmiss hpk hf)
  obtain ⟨hself, hlanes, hothers⟩ := Wave.fusedAt_entries (w := w.counted sp r) hf
  obtain ⟨htag, hrejoin, hdepth, hstate, htimer, -⟩ :=
    fuseSplits_outer (parts := ((w.counted sp r).fusing (r.counting sp) (some k)).map Prod.snd) (r := r.counting sp) (by rw [hf]; simp)
  have hrecords : (w.arrive k).records.Sublist ((w.counted sp r).records.filter (fun x : Record => decide (x.tag ≠ r.tag))) := by
    rw [harr]
    exact Wave.fuseTag_records ..
  have hrest : (w.arrive k).sansSplits = w.sansSplits := by rw [harr]; exact Wave.fuseTag_sansSplits ..
  refine ⟨w.arrive k, a.1, _, execSplitArrive_becomes ha hr hs hat hu ?_ ?_, by rw [hfused]; exact hself, fun x hx => ?_, hlanes, htag, hrejoin,
    hdepth, hstate, htimer, by rw [hfused]; exact hothers, (congrArg Wave.vregs hrest :), (congrArg Wave.exited hrest :)⟩
  · have hnone : (w.arrive k).paths = [] := by
      rw [hfused, Wave.fusedAt, Wave.settle_paths]
      exact (Wave.unfused_paths ..).trans hp
    rw [hnone]
    simp
  · exact fun x hx => Wave.onRecord_inReg (f := Record.counting sp) (fun _ => rfl) hi x (List.mem_filter.1 (hrecords.subset hx)).1
  · exact of_decide_eq_true (List.mem_filter.1 (hrecords.subset hx)).2

end Sys2Proof.Machine

/-! The timers of splits, paths and records, and O32 (04 R96, R97, R112; 13 R287). -/

namespace Sys2Proof.Machine

open Sys2Proof.Claims

/-- LIMIT of FUSETIME is its low 20 bits. -/
theorem State.fuseLimit_eq (s : State) (core : Nat) : s.fuseLimit core = (s.csrAt (core / 16) (0x1018 + 64 * (core % 16))).toNat % 2 ^ 20 := by
  simp only [State.fuseLimit, dieOf, field, bits, BitVec.toNat_setWidth, BitVec.extractLsb'_toNat, Nat.shiftRight_zero]
  omega

/-- The limit, as the statement of O32 writes it. -/
theorem not_before_limit {P : Prop} {s : State} {core n : Nat} (hP : ¬ P)
    (h0 : (s.csrAt (core / 16) (0x1018 + 64 * (core % 16))).toNat % 2 ^ 20 ≠ 0)
    (hn : (s.csrAt (core / 16) (0x1018 + 64 * (core % 16))).toNat % 2 ^ 20 ≤ n) : ¬ (P ∨ s.fuseLimit core = 0 ∨ n < s.fuseLimit core) := by
  rw [State.fuseLimit_eq]
  exact fun h => h.elim hP fun h => h.elim h0 (Nat.not_lt.2 hn)

section
variable {s : State} {core wave : Nat} {w : Wave}

theorem execFuseTimerExpiry_eq {k : Nat} (ha : s.arg = .at3 core wave k) (hr : Runs s core wave w) :
    exec .fuseTimerExpiry s = .next (s.fuseExpiry core wave k) := by
  change execFuseTimerExpiry s = _
  simp only [execFuseTimerExpiry, ha, State.running_of_runs hr, Option.isSome_some, if_true]

theorem execRejoinTimerExpiry_eq {tag : Nat} (ha : s.arg = .at3 core wave tag) (hr : Runs s core wave w) :
    exec .rejoinTimerExpiry s = .next (s.rejoinExpiry core wave tag) := by
  change execRejoinTimerExpiry s = _
  simp only [execRejoinTimerExpiry, ha, State.running_of_runs hr, Option.isSome_some, if_true]

/-! ## The timer of a split (04 R97) -/

/-- A part of a miss pair that goes on alone. -/
def Split.alone (sp : Split) : Split := { sp with miss := none, missWait := false, waitsAt := false, state := 0, timer := 0 }

/-- A record whose timer has reached the limit. -/
def Record.breaks (r : Record) : Record := { r with broken := true }

/-- The wave whose waiting split and record have reached the limit. -/
def Wave.timedOut (w : Wave) (k : Nat) (sp : Split) : Wave := (w.onRecord sp.tag Record.breaks).setSplit k (some { sp with state := 0 })

variable {k : Nat} {sp : Split}

theorem State.fuseExpiry_before (hk : k < 4) (hw : s.wave core wave = some w) (hs : w.split k = some sp)
    (h : sp.state ≠ 1 ∨ s.fuseLimit core = 0 ∨ sp.timer.toNat < s.fuseLimit core) : s.fuseExpiry core wave k = s := by
  simp only [State.fuseExpiry, if_neg (Nat.not_le.2 hk), hw, hs, if_pos h]

theorem State.fuseExpiry_missWait (hk : k < 4) (hw : s.wave core wave = some w) (hs : w.split k = some sp)
    (h : ¬ (sp.state ≠ 1 ∨ s.fuseLimit core = 0 ∨ sp.timer.toNat < s.fuseLimit core)) (hm : sp.missWait = true) :
    s.fuseExpiry core wave k = s.setWave core wave (some (w.setSplit k (some sp.alone)).fixMiss) := by
  simp only [State.fuseExpiry, if_neg (Nat.not_le.2 hk), hw, hs, if_neg h, hm, if_true]
  rfl

theorem State.fuseExpiry_waitsAt (hk : k < 4) (hw : s.wave core wave = some w) (hs : w.split k = some sp)
    (h : ¬ (sp.state ≠ 1 ∨ s.fuseLimit core = 0 ∨ sp.timer.toNat < s.fuseLimit core)) (hm : sp.missWait = false) (ht : sp.waitsAt = true) :
    s.fuseExpiry core wave k = s.takeStop core wave k { cause := .fuseTimeout, addr := sp.pc } sp.pc := by
  simp only [State.fuseExpiry, if_neg (Nat.not_le.2 hk), hw, hs, if_neg h, hm, ht, if_true, Bool.false_eq_true, if_false]

theorem State.fuseExpiry_rejoin (hk : k < 4) (hw : s.wave core wave = some w) (hs : w.split k = some sp)
    (h : ¬ (sp.state ≠ 1 ∨ s.fuseLimit core = 0 ∨ sp.timer.toNat < s.fuseLimit core)) (hm : sp.missWait = false) (ht : sp.waitsAt = false) :
    s.fuseExpiry core wave k = s.putSplits core wave k sp.pc w ((w.timedOut k sp).arrive k) := by
  have hx : (w.onRecord sp.tag Record.breaks).onSplit k (fun x => { x with state := 0 }) = w.timedOut k sp := by
    rw [Wave.onSplit, Wave.onRecord_split, hs]
    rfl
  rw [← hx]
  simp only [State.fuseExpiry, if_neg (Nat.not_le.2 hk), hw, hs, if_neg h, hm, ht, Bool.false_eq_true, if_false]
  rfl

/-- The end of miss pairs leaves a split that belongs to none. -/
theorem Wave.fixMiss_split_of_no_miss (h : ∀ x, w.split k = some x → x.miss = none) : w.fixMiss.split k = w.split k := by
  have hl : ∀ (l : List (Nat × Split)) (v : Wave), (∀ e ∈ l, e.1 = k → e.2.miss = none) → (l.foldl Wave.fixMissAt v).split k = v.split k := by
    intro l
    induction l with
    | nil => exact fun _ _ => rfl
    | cons e l ih =>
      intro v he
      rw [List.foldl_cons, ih _ fun e' h' => he e' (List.mem_cons_of_mem _ h')]
      by_cases hk : e.1 = k
      · rw [Wave.fixMissAt, he e (List.mem_cons_self ..) hk]
      · unfold Wave.fixMissAt
        split
        · split
          · rfl
          · rw [Wave.onSplit]
            split
            · exact Wave.split_setSplit_ne _ _ (Ne.symm hk)
            · rfl
        · rfl
  refine hl w.live4 w fun e he hk => ?_
  obtain ⟨j, x⟩ := e
  subst hk
  exact h x (Wave.mem_live4.1 he).2

/-- A split whose record breaks goes on with the outer context (04 R96). -/
theorem Wave.timedOut_arrive {r : Record} (hr : w.record sp.tag = some r) (hi : r.inReg = true) :
    (w.timedOut k sp).arrive k = (w.timedOut k sp).pastBroken k { sp with state := 0 } r.breaks := by
  have hrec : (w.timedOut k sp).record sp.tag = some r.breaks := Wave.record_onRecord (f := Record.breaks) (fun _ => rfl) hr
  exact Wave.arrive_broken (Wave.setSplit_split_self ..) hrec hi rfl

theorem Wave.timedOut_records {r : Record} (hr : r.tag = sp.tag) :
    ∀ x ∈ (w.timedOut k sp).records, x.tag = r.breaks.tag → x.broken = true := fun x hx hxt => by
  obtain ⟨y, rfl⟩ := Wave.mem_onRecord (w := w) (f := Record.breaks) hx (hxt.trans hr)
  rfl

/-- Going on from a broken record mends none. -/
theorem Wave.pastBroken_breaks {r x : Record} (hw : ∀ x ∈ w.records, x.tag = r.tag → x.broken = true)
    (hx : x ∈ (w.pastBroken k sp r).records) (hxt : x.tag = r.tag) : x.broken = true := by
  obtain ⟨y, hy, rfl⟩ := List.mem_map.1 (Wave.pastBroken_records hx)
  split at hxt
  · next ht => rw [if_pos ht]; exact hw y hy ht
  · next ht => exact absurd hxt ht

/-- FUSE_TIMER_EXPIRY of a split that waits at its rejoin address, in a wave with no spill entry in use. -/
theorem fuseTimerExpiry_breaks {r : Record} (ha : s.arg = .at3 core wave k) (hk : k < 4) (hr : Runs s core wave w) (hs : w.split k = some sp)
    (h : ¬ (sp.state ≠ 1 ∨ s.fuseLimit core = 0 ∨ sp.timer.toNat < s.fuseLimit core)) (hm : sp.missWait = false) (ht : sp.waitsAt = false)
    (hrec : w.record sp.tag = some r) (hu : w.spillUsed = 0) :
    ∃ v, BecomesWave (exec .fuseTimerExpiry s) s core wave v ∧
      v.split k = some (outerOf r { sp with state := 0, timer := 0 }) ∧ (∀ j, j ≠ k → v.split j = w.split j) ∧
      ∀ x ∈ v.records, x.tag = r.tag → x.broken = true ∧ x.members &&& sp.lanes = 0 := by
  obtain ⟨hp, hi⟩ := Wave.spillUsed_eq_zero.1 hu
  have hexec := (execFuseTimerExpiry_eq ha hr).trans (congrArg _ (State.fuseExpiry_rejoin hk hr.1 hs h hm ht))
  have hbroken := Wave.timedOut_records (w := w) (k := k) (Wave.record_tag hrec)
  have hreg : ∀ x ∈ (w.timedOut k sp).records, x.inReg = true := Wave.onRecord_inReg (f := Record.breaks) (fun _ => rfl) hi
  have hpaths : (w.timedOut k sp).paths = w.paths := rfl
  have hothers : ∀ j, j ≠ k → (w.timedOut k sp).split j = w.split j := fun j hj => Wave.split_setSplit_ne _ _ hj
  rw [Wave.timedOut_arrive hrec (hi r (Wave.record_mem hrec))] at hexec
  generalize w.timedOut k sp = u at hexec hbroken hreg hpaths hothers
  refine ⟨u.pastBroken k { sp with state := 0 } r.breaks, ?_, Wave.pastBroken_split, fun j hj => (Wave.pastBroken_split_ne hj).trans (hothers j hj),
    fun x hx hxt => ⟨Wave.pastBroken_breaks hbroken hx hxt, Wave.pastBroken_members hx hxt⟩⟩
  rw [BecomesWave, hexec, State.putSplits_unused hu]
  · rw [Wave.pastBroken_paths, hpaths]
    exact hp
  · exact Wave.pastBroken_inReg hreg

/-! ## The timer of a path that waits at a forced fuse point (04 R97, R99) -/

theorem State.pathExpiry_eq {order : Nat} {p : Path} (hw : s.wave core wave = some w)
    (hp : w.paths.find? (fun x => decide (x.order = order ∧ x.runnable = false)) = some p) : s.fuseExpiry core wave (4 + order) =
      if s.fuseLimit core = 0 ∨ p.ctx.timer.toNat < s.fuseLimit core then s
      else s.takeStop core wave (s.noSplit core) { cause := .fuseTimeout, addr := p.ctx.pc } p.ctx.pc := by
  have hf : w.paths.find? (fun x => decide (x.order = order) && !x.runnable) = some p := by
    rw [← hp]
    congr 1
    funext x
    cases x.runnable <;> simp
  simp only [State.fuseExpiry, if_pos (Nat.le_add_right 4 order), State.pathExpiry, hw, Option.bind_some, Nat.add_sub_cancel_left, hf]

/-! ## The timer of a record (04 R97) -/

/-- A record whose parked lanes have left it as it broke. -/
def Record.released (lanes : Dword) (r : Record) : Record :=
  { r with broken := true, parked := [], timer := 0, members := r.members &&& ~~~lanes }

/-- The context of a record's parked lanes. -/
def Record.parkedCtx (r : Record) : Split := fuseSplits (r.parked.map (fun p => p.ctx)) r.outer

/-- The wave once a record's parked lanes have become its youngest path. -/
def Wave.unparked (w : Wave) (r : Record) : Wave := ((w.onRecord r.tag (Record.released r.parkedCtx.lanes)).freeRecords).pushPath r.parkedCtx

theorem State.rejoinExpiry_eq {tag : Nat} {r : Record} (hw : s.wave core wave = some w) (hr : w.record tag = some r) :
    s.rejoinExpiry core wave tag = if r.parked = [] ∨ s.fuseLimit core = 0 ∨ r.timer.toNat < s.fuseLimit core then s
      else s.putSplits core wave (s.noSplit core) r.rejoin w (w.unparked r) := by
  obtain rfl := Wave.record_tag hr
  simp only [State.rejoinExpiry, hw, hr]
  rfl

/-- The parked lanes are a path of the queue, where that has room. -/
theorem Wave.unparked_paths (r : Record) (h : w.paths.length < 8) : (w.unparked r).paths = w.paths ++ [{ ctx := r.parkedCtx, order := w.made }] := by
  have hq : decide (((w.onRecord r.tag (Record.released r.parkedCtx.lanes)).freeRecords).queueUsed < 8) = true :=
    decide_eq_true (Nat.lt_of_le_of_lt (List.length_filter_le ..) h)
  rw [Wave.unparked, Wave.pushPath, hq]
  rfl

theorem Wave.unparked_records {r x : Record} (h : x ∈ (w.unparked r).records) : x ∈ (w.onRecord r.tag (Record.released r.parkedCtx.lanes)).records :=
  (Wave.freeRecords_records _).subset h

/-- REJOIN_TIMER_EXPIRY of a record with parked lanes, in a wave with no spill entry in use and room in the queue. -/
theorem rejoinTimerExpiry_unparks {tag : Nat} {r : Record} (ha : s.arg = .at3 core wave tag) (hr : Runs s core wave w) (hrec : w.record tag = some r)
    (h : ¬ (r.parked = [] ∨ s.fuseLimit core = 0 ∨ r.timer.toNat < s.fuseLimit core)) (hu : w.spillUsed = 0) (h8 : w.paths.length < 8) :
    ∃ v p, BecomesWave (exec .rejoinTimerExpiry s) s core wave v ∧ v.paths = w.paths ++ [p] ∧ p.runnable = true ∧ p.order = w.made ∧
      (∀ l < 64, p.ctx.lanes.getLsbD l = r.parked.any (fun q => q.ctx.lanes.getLsbD l)) ∧
      p.ctx.tag = r.outerTag ∧ p.ctx.rejoin = r.outerRejoin ∧ p.ctx.rdepth = r.outerDepth ∧ v.splits = w.splits ∧
      ∀ x ∈ v.records, x.tag = tag → x.broken = true ∧ x.parked = [] ∧ x.members &&& p.ctx.lanes = 0 := by
  obtain ⟨hp, hi⟩ := Wave.spillUsed_eq_zero.1 hu
  have hne : r.parked.map (fun p => p.ctx) ≠ [] := fun hn => h (.inl (List.map_eq_nil_iff.1 hn))
  have hpaths := w.unparked_paths r h8
  obtain ⟨htag, hrejoin, hdepth, -⟩ := fuseSplits_outer (r := r) hne
  refine ⟨w.unparked r, { ctx := r.parkedCtx, order := w.made }, ?_, hpaths, rfl, rfl, fun l _ => ?_, htag, hrejoin, hdepth, rfl, fun x hx hxt => ?_⟩
  · rw [BecomesWave, execRejoinTimerExpiry_eq ha hr, State.rejoinExpiry_eq hr.1 hrec, if_neg h, State.putSplits_unused hu]
    · rw [hpaths]
      exact fun p hm => (List.mem_append.1 hm).elim (hp p) fun h1 => by rw [List.mem_singleton.1 h1]
    · exact fun x hx => Wave.onRecord_inReg (f := Record.released r.parkedCtx.lanes) (fun _ => rfl) hi x (Wave.unparked_records hx)
  · exact (fuseSplits_lanes hne).trans (List.any_map ..)
  · obtain ⟨y, rfl⟩ := Wave.mem_onRecord (Wave.unparked_records hx) (hxt.trans (Wave.record_tag hrec).symm)
    refine ⟨rfl, rfl, ?_⟩
    rw [Record.released, BitVec.and_assoc]
    simp

/-! ## Events of one split (04 R112; 13 R287) -/

theorem State.onWave_onSplit (hw : s.wave core wave = some w) (hs : w.split k = some sp) (f : Split → Split) :
    s.onWave core wave (fun w => w.onSplit k f) = s.setWave core wave (some (w.setSplit k (some (f sp)))) := by
  simp only [State.onWave, hw, Wave.onSplit, hs]

end

/-! ## O32 -/

/-- Settles O32: an arrival by its three ways, each timer by what it does once it has reached the limit. -/
theorem arrivalsAndTimers : Obligations.ArrivalsAndTimers := by
  refine ⟨?_, ?_, ?_, ?_, ?_⟩
  · intro s core wave k w sp r ha hr hs ht hst hpc hd hrep hrec hu hp hpk missing waits
    have hat : sp.atRejoin = true := by simp [Split.atRejoin, ht, hst, hpc, hd, hrep]
    obtain ⟨hwaits, hbroken⟩ := splitArrive_cases ha hr hs hat hrec hu hp
    exact ⟨hwaits, fun hb hm hmiss hk => splitArrive_completes ha hr hs hat hrec hu hp hpk hb hm hmiss hk, fun hb =>
      ⟨_, hbroken hb, Wave.pastBroken_split, fun j hj => Wave.pastBroken_split_ne hj, fun x hx hxt => Wave.pastBroken_members hx hxt⟩⟩
  · intro s core wave k w sp ha hk hr hs limit
    refine ⟨fun hb => ?_, fun hst h0 hn => ?_⟩
    · rw [execFuseTimerExpiry_eq ha hr, State.fuseExpiry_before hk hr.1 hs (by rw [State.fuseLimit_eq]; exact hb)]
    · have hlimit := not_before_limit (not_not.2 hst) h0 hn
      refine ⟨fun hm => ?_, fun hm hat hsh => ?_, fun r hm hat hrec hu => fuseTimerExpiry_breaks ha hk hr hs hlimit hm hat hrec hu⟩
      · refine ⟨(w.setSplit k (some sp.alone)).fixMiss, ?_, ?_⟩
        · rw [BecomesWave, execFuseTimerExpiry_eq ha hr, State.fuseExpiry_missWait hk hr.1 hs hlimit hm]
        · have hself := Wave.setSplit_split_self w k (some sp.alone)
          rw [Wave.fixMiss_split_of_no_miss, hself]
          · rfl
          · intro x hx
            rw [hself, Option.some.injEq] at hx
            rw [← hx]
            rfl
      · rw [BecomesWave, execFuseTimerExpiry_eq ha hr, State.fuseExpiry_waitsAt hk hr.1 hs hlimit hm hat, State.takeStop_halts hr.1 hr.2.1 hsh rfl]
  · intro s core wave order w p ha hr hp limit
    have hexec := (execFuseTimerExpiry_eq ha hr).trans (congrArg _ (State.pathExpiry_eq hr.1 hp))
    refine ⟨fun hb => ?_, fun h0 hn hsh => ⟨s.noSplit core, Nat.mod_lt _ (by decide), ?_⟩⟩
    · rw [hexec, if_pos (by rw [State.fuseLimit_eq]; exact hb)]
    · have hlimit := not_before_limit not_false h0 hn
      rw [false_or] at hlimit
      rw [BecomesWave, hexec, if_neg hlimit, State.takeStop_halts hr.1 hr.2.1 hsh rfl]
  · intro s core wave tag w r ha hr hrec limit
    refine ⟨fun hb => ?_, fun hpk h0 hn hu h8 => rejoinTimerExpiry_unparks ha hr hrec (not_before_limit hpk h0 hn) hu h8⟩
    rw [execRejoinTimerExpiry_eq ha hr, State.rejoinExpiry_eq hr.1 hrec, if_pos (by rw [State.fuseLimit_eq]; exact hb)]
  · intro s core wave k w sp ha hw hs
    constructor
    · change execYieldExpiry s = _
      simp only [execYieldExpiry, ha, State.onWave_onSplit hw hs, Bool.and_eq_true, decide_eq_true_eq]
    · change execIssuePromotion s = _
      simp only [execIssuePromotion, ha, State.onWave_onSplit hw hs]

end Sys2Proof.Machine

/-! What the rows of the scalar ALU say (O8; 05 R131): the model's operations on words as operations on numbers, and each instruction of
`scalarRow` as one use of `State.scalar`. -/

namespace Sys2Proof.Machine

open Sys2Proof.Claims

/-! ## Operations of the scalar ALU as operations on numbers (03 R82) -/

/-- The high word of a 64-bit number. -/
theorem hiWord_ofInt (z : Int) : hiWord (BitVec.ofInt 64 z) = BitVec.ofInt 32 (z / 2 ^ 32) := by
  apply BitVec.eq_of_toNat_eq
  rw [hiWord, BitVec.extractLsb'_toNat, BitVec.toNat_ofInt, BitVec.toNat_ofInt, Nat.shiftRight_eq_div_pow]
  norm_num
  omega

theorem mulHi_eq_ofInt (a b : Word) : mulHi a b = BitVec.ofInt 32 (a.toInt * b.toInt / 2 ^ 32) := by
  rw [mulHi, BitVec.signExtend, BitVec.signExtend, ← BitVec.ofInt_mul, hiWord_ofInt]

theorem mulHiN_eq_ofNat (a b : Word) : mulHiN a b = BitVec.ofNat 32 (a.toNat * b.toNat / 2 ^ 32) := by
  have h : a.setWidth 64 * b.setWidth 64 = BitVec.ofInt 64 (a.toNat * b.toNat : Nat) := by
    rw [BitVec.ofInt_natCast, BitVec.ofNat_mul, BitVec.ofNat_toNat, BitVec.ofNat_toNat]
  rw [mulHiN, h, hiWord_ofInt]
  norm_cast

theorem minU_eq_ite {n : Nat} (a b : BitVec n) : minU a b = if a.toNat ≤ b.toNat then a else b := by
  simp only [minU, BitVec.ult_eq_decide, decide_eq_true_eq, ← not_le, ite_not]

theorem maxU_eq_ite {n : Nat} (a b : BitVec n) : maxU a b = if a.toNat ≤ b.toNat then b else a := by
  simp only [maxU, BitVec.ult_eq_decide, decide_eq_true_eq]
  rcases lt_trichotomy a.toNat b.toNat with h | h | h
  · rw [if_pos h, if_pos h.le]
  · rw [if_neg h.not_lt, if_pos h.le, BitVec.eq_of_toNat_eq h]
  · rw [if_neg h.not_gt, if_neg h.not_ge]

/-- The conditions of compares: `slt` and `ult` are the orders of the numbers. -/
theorem intCond_eq_intTest {n : Nat} (c : Nat) (a b : BitVec n) : intCond c a b = intTest c a b := by
  rw [Bool.eq_iff_iff]
  match c with
  | 0 | 1 => simp [intCond, intTest]
  | 2 | 3 => simp [intCond, intTest, BitVec.slt_eq_decide]
  | 4 | 5 => simp [intCond, intTest, BitVec.ult_eq_decide]
  | _ + 6 => simp [intCond, intTest]

/-- A count kept along a list. -/
theorem foldl_count {α : Type} (p : α → Bool) (l : List α) (k : Nat) :
    l.foldl (fun k i => if p i then k + 1 else k) k = k + l.countP p := by
  induction l generalizing k with
  | nil => rfl
  | cons i l ih => rw [List.foldl_cons, ih, List.countP_cons]; split <;> omega

theorem popCount_eq_countP {n : Nat} (a : BitVec n) : popCount a = BitVec.ofNat 32 ((List.range n).countP (fun k => a.getLsbD k)) := by
  rw [popCount, foldl_count, Nat.zero_add]

theorem leadingZeros_eq_ite {n : Nat} (a : BitVec n) :
    leadingZeros a = if a = 0 then BitVec.ofNat 32 n else BitVec.ofNat 32 (n - 1 - Nat.log2 a.toNat) := by
  rw [leadingZeros, apply_ite (BitVec.ofNat 32)]

theorem immN_eq_zimm (a : SArgs) : immN a = zimm a := BitVec.eq_of_toNat_eq (by simp [immN, zimm])

theorem zimm_toNat (a : SArgs) : (zimm a).toNat = a.imm.toNat := by
  rw [zimm, BitVec.toNat_ofNat, Nat.mod_eq_of_lt (lt_trans a.imm.isLt (by decide))]

/-- SMOVHI puts its immediate above the low half that stays. -/
theorem zimm_shiftLeft_or (a : SArgs) (x : Word) :
    (zimm a <<< 16) ||| (x &&& 0xFFFF#32) = BitVec.ofNat 32 (a.imm.toNat * 2 ^ 16 + x.toNat % 2 ^ 16) := by
  have hi := a.imm.isLt
  have hx : x.toNat % 2 ^ 16 < 2 ^ 16 := Nat.mod_lt _ (by decide)
  have hm : x.toNat &&& (0xFFFF#32).toNat = x.toNat % 2 ^ 16 := Nat.and_two_pow_sub_one_eq_mod x.toNat 16
  apply BitVec.eq_of_toNat_eq
  rw [BitVec.toNat_or, BitVec.toNat_shiftLeft, BitVec.toNat_and, hm, zimm_toNat, BitVec.toNat_ofNat, Nat.shiftLeft_eq,
    Nat.mod_eq_of_lt (a := a.imm.toNat * 2 ^ 16) (by omega), Nat.mod_eq_of_lt (a := _ + _) (by omega), Nat.mul_comm,
    Nat.two_pow_add_eq_or_of_lt hx]

theorem immS_eq_simm (a : SArgs) : immS a = simm a := rfl

theorem shiftL_eq_shl {n : Nat} (x : BitVec n) (k : Word) : shiftL x k = shl x k.toNat := shiftL_eq_ofNat x k

theorem shiftR_eq_shr {n : Nat} (x : BitVec n) (k : Word) : shiftR x k = shr x k.toNat := shiftR_eq_ofNat x k

theorem shiftA_eq_sra (x k : Word) : shiftA x k = sra x k.toNat := shiftA_eq_ofInt x k

theorem lowestSet_eq_firstSet {n : Nat} (x : BitVec n) : lowestSet x = firstSet x := rfl

theorem boolWord_eq_bool (b : Bool) : boolWord b = bool b := rfl

theorem words2_eq_low (x : Dword) : words2 x = low x := rfl

theorem pairAt_eq_pair (r : Nat → Word) (k : Nat) : pairAt r k = pair r k := rfl

/-! ## Each row as a use of `State.scalar` (05 R131) -/

/-- A count takes a scalar or, with IMM16[0], a pair. -/
theorem State.scalarCount_eq (s : State) (a : SArgs) (g : Word → Word) (g64 : Dword → Word) :
    s.scalarCount a g g64 = s.scalar a 1 (if a.imm.getLsbD 0 then 2 else 1) 0 []
      (fun r => [if a.imm.getLsbD 0 then g64 (pair r a.a.toNat) else g (r a.a.toNat)]) := by
  unfold State.scalarCount
  cases a.imm.getLsbD 0 <;> rfl

/-- An instruction of the scalar ALU issues with what its row names, and writes the row's value. -/
theorem exec_eq_scalar {i : Instr} {a : SArgs} {dn an bn : Nat} {more : List Nat} {res : (Nat → Word) → List Word}
    (h : scalarRow i = some (a, dn, an, bn, more, res)) (s : State) : exec i s = .next (s.scalar a dn an bn more res) := by
  unfold scalarRow at h
  split at h <;> cases h
  all_goals
    refine congrArg Host.Outcome.next ?_
    simp only [State.scalar1, State.scalar2, State.scalar64, State.scalarShift, State.scalarCount_eq, words2_eq_low, pairAt_eq_pair,
      immS_eq_simm, immN_eq_zimm, zimm_toNat, zimm_shiftLeft_or, mul_eq_ofNat, mulHi_eq_ofInt, mulHiN_eq_ofNat, shiftL_eq_shl, shiftR_eq_shr,
      shiftA_eq_sra, boolWord_eq_bool, intCond_eq_intTest, minS_eq_ite, maxS_eq_ite, minU_eq_ite, maxU_eq_ite, popCount_eq_countP,
      leadingZeros_eq_ite, lowestSet_eq_firstSet, ne_eq, ite_not, apply_ite (BitVec.ofNat 32), BitVec.ofNat_eq_ofNat]

end Sys2Proof.Machine

/-! What an instruction that writes scalars does as a whole, on an Oltus core and on a service core, and the scalar ALU (O8; 05 R120, R131;
16 R367, R371). -/

namespace Sys2Proof.Machine

open Sys2Proof.Claims

/-! ## On an Oltus core -/

/-- An instruction that marks no vector register, and whose action writes the words of `res` and replaces its split by `next` of it,
completes. -/
theorem writesScalars_of_issueWith {o : Out} {s : State} {u : Uses} {d : Nat} {next : Wave → Split → Split}
    {res : Wave → Split → (Nat → Word) → List Word} (act : Wave → Split → State → State) (hv : u.vfree = [])
    (hnext : ∀ w x y, x.sansSeen = y.sansSeen → (next w x).sansSeen = (next w y).sansSeen)
    (ho : s.cur.svc = none → ∀ w sp, s.issuing = some (w, sp) → o = .next (s.issueWith u act))
    (hact : s.cur.svc = none → ∀ w sp a gs n, (∃ x, (a.writeSs s.cur.split d (res w sp w.s)).split s.cur.split = some x) →
      act w sp (s.reissued a gs n) =
        s.reissued ((a.writeSs s.cur.split d (res w sp w.s)).onSplit s.cur.split (fun x => past s (next w x))) gs n) :
    WritesScalars o s u d next res := by
  rintro w sp ⟨hc, hi, hb, w', hp⟩
  obtain ⟨v, gs, n, he, hgs, hrest, hkv, hs, hbound⟩ := State.scalars_next hi hb hp hv d (next (w.seen sp s.free)) _ (hnext _)
    (fun a gs n ⟨x, hx, _⟩ => hact hc _ sp a gs n ⟨x, hx⟩)
  exact ⟨_, v, (ho hc w sp hi).trans (congrArg _ he), ⟨gs, n, rfl, hgs⟩, hrest, hkv, hs, hbound⟩

/-- An action that writes scalars and goes on. -/
theorem writesScalars_of_put {o : Out} {s : State} {u : Uses} {d : Nat} {res : Wave → Split → (Nat → Word) → List Word} (hv : u.vfree = [])
    (ho : s.cur.svc = none → ∀ w sp, s.issuing = some (w, sp) →
      o = .next (s.issueWith u (fun w sp t => (t.putScalars d (res w sp w.s)).advance))) :
    WritesScalars o s u d (fun _ sp => sp) res :=
  writesScalars_of_issueWith _ hv (fun _ _ _ h => h) ho fun hc _ _ _ gs n _ => State.reissued_putAdvance gs n _ _ hc

/-- An action that replaces its split and goes on. -/
theorem writesScalars_of_onIssuingSplit {o : Out} {s : State} {u : Uses} {next : Wave → Split → Split} (hv : u.vfree = [])
    (hnext : ∀ w x y, x.sansSeen = y.sansSeen → (next w x).sansSeen = (next w y).sansSeen)
    (ho : o = .next (s.issueWith u (fun w _ t => (t.onIssuingSplit (next w)).advance))) :
    WritesScalars o s u 0 next (fun _ _ _ => []) :=
  writesScalars_of_issueWith _ hv hnext (fun _ _ _ _ => ho) fun hc w _ a gs n ⟨x, hx⟩ => by
    rw [Wave.writeSs_nil] at hx ⊢
    exact State.reissued_splitAdvance gs n _ hc hx

/-! ## On a service core (16 R367, R371) -/

/-- A service core less its scalars. -/
def SvcCore.sansScalars (c : SvcCore) : SvcCore := { c with regs := [], banks := [] }

/-- Service cores that agree beside their scalars. -/
theorem SvcCore.eq_of_sansScalars {c x : SvcCore} (h : x.sansScalars = c.sansScalars) : x = { c with regs := x.regs, banks := x.banks } := by
  cases x; cases c
  simp only [SvcCore.sansScalars, SvcCore.mk.injEq] at h ⊢
  simp [h]

theorem SvcCore.writeS_sansScalars (c : SvcCore) (n : Nat) (x : Word) : (c.writeS n x).sansScalars = c.sansScalars := by
  unfold SvcCore.writeS; split <;> rfl

/-- Within the names of scalars a level's bank lies apart from the others. -/
theorem SvcCore.writeS_s (c : SvcCore) (n : Nat) (x : Word) {k : Nat} (hk : k < 1024) :
    (c.writeS n x).s k = if k = n then x else c.s k := by
  unfold SvcCore.writeS
  split
  · next hn =>
    unfold SvcCore.s
    split
    · rw [Table.get_set]
    · rw [if_neg (by omega)]
  · next hn =>
    unfold SvcCore.s
    split
    · rw [if_neg (by omega)]
    · have hi : 64 * c.level + (k - 960) = 64 * c.level + (n - 960) ↔ k = n := by omega
      rw [Table.get_set]
      exact if_congr hi rfl rfl

/-- A service core with the scalars `ks` unbound. -/
def SvcCore.unbindAll (c : SvcCore) (ks : List Nat) : SvcCore := ks.foldl (fun c k => c.unbindS k) c

theorem SvcCore.unbindAll_sansScalars (c : SvcCore) (ks : List Nat) : (c.unbindAll ks).sansScalars = c.sansScalars :=
  foldl_keeps SvcCore.sansScalars _ (fun _ _ => SvcCore.writeS_sansScalars ..) _ _

theorem SvcCore.unbindAll_s (c : SvcCore) (ks : List Nat) {k : Nat} (hk : k < 1024) :
    (c.unbindAll ks).s k = if k ∈ ks then 0 else c.s k := by
  unfold SvcCore.unbindAll
  induction ks generalizing c with
  | nil => simp
  | cons j ks ih =>
    rw [List.foldl_cons, ih, SvcCore.unbindS, SvcCore.writeS_s _ _ _ hk]
    by_cases h1 : k = j <;> by_cases h2 : k ∈ ks <;> simp [h1, h2]

/-- A service core with the words `xs` in its scalars from `d` on. -/
def SvcCore.put (c : SvcCore) (d : Nat) (xs : List Word) : SvcCore :=
  (List.range xs.length).foldl (fun c k => c.writeS (d + k) (xs.getD k 0)) c

theorem SvcCore.put_sansScalars (c : SvcCore) (d : Nat) (xs : List Word) : (c.put d xs).sansScalars = c.sansScalars :=
  foldl_keeps SvcCore.sansScalars _ (fun _ _ => SvcCore.writeS_sansScalars ..) _ _

theorem SvcCore.put_s (c : SvcCore) (d : Nat) (xs : List Word) {k : Nat} (hk : k < 1024) :
    (c.put d xs).s k = if d ≤ k ∧ k < d + xs.length then xs.getD (k - d) 0 else c.s k :=
  foldWrite_s SvcCore.writeS SvcCore.s 1024 (fun c n x _ hj => SvcCore.writeS_s c n x hj) c d xs xs.length hk

theorem State.onSvc_onSvc (s : State) (n : Nat) (f g : SvcCore → SvcCore) : (s.onSvc n f).onSvc n g = s.onSvc n (fun c => g (f c)) := by
  simp [State.onSvc, State.svc, Table.set_set]

/-- A service core writes scalars and goes on. -/
theorem State.putScalars_advance {s : State} {n : Nat} (h : s.cur.svc = some n) (d : Nat) (xs : List Word) :
    (s.putScalars d xs).advance = s.onSvc n (fun c => { c.put d xs with pc := s.cur.next }) := by
  simp only [State.putScalars, State.advance, h, State.onSvc_cur, State.onSvc_onSvc]
  rfl

/-- A service core with its marks acted, its scalars written and its PC gone on. -/
theorem writesSvc_of_onSvc {o : Out} {s : State} {n : Nat} {u : Uses} {d : Nat} {res : (Nat → Word) → List Word}
    (ho : s.cur.svc = some n →
      o = .next (s.onSvc n (fun c => { (c.unbindAll u.sfree).put d (res (s.svc n).s) with pc := s.cur.next }))) :
    WritesSvc o s n u d res := fun h => by
  generalize hx : ((s.svc n).unbindAll u.sfree).put d (res (s.svc n).s) = x
  have hrest : x.sansScalars = (s.svc n).sansScalars := by
    rw [← hx, SvcCore.put_sansScalars, SvcCore.unbindAll_sansScalars]
  refine ⟨_, { x with pc := s.cur.next }, ho h, rfl, fun k hk => State.svc_onSvc_ne _ _ hk, ?_, ?_, fun k hk => ?_⟩
  · rw [State.svc_onSvc_self, hx]
  · rw [SvcCore.eq_of_sansScalars hrest]
  · change x.s k = _
    rw [← hx, SvcCore.put_s _ _ _ hk, SvcCore.unbindAll_s _ _ hk]

/-! ## The scalar ALU -/

/-- Settles O8: each row is a use of `State.scalar`, which writes the scalars of the core that issues. -/
theorem scalarArithmetic : Obligations.ScalarArithmetic := by
  constructor
  · intro i a dn an bn more res s h
    refine writesScalars_of_put rfl fun hc _ _ _ => ?_
    rw [exec_eq_scalar h, State.scalar, State.scalarIssue, hc]
    rfl
  · intro i a dn an bn more res s n h
    refine writesSvc_of_onSvc fun hn => ?_
    simp only [exec_eq_scalar h, State.scalar, State.scalarIssue, hn]
    rw [State.putScalars_advance (by rw [State.onSvc_cur]; exact hn), State.onSvc_onSvc]
    rfl

end Sys2Proof.Machine

/-! Mask registers, special registers and SFREE (O9; 05 R132, R134, R135; 03 R65). -/

namespace Sys2Proof.Machine

open Sys2Proof.Claims

/-! ## Masks and %frm in the words of the statements -/

theorem Split.setMask_of_ne_zero (sp : Split) {k : Nat} (h : k ≠ 0) (v : Dword) :
    sp.setMask k v = { sp with masks := Table.set (fun _ => 0) sp.masks k v } := if_neg h

/-- The low bits of a word as a number. -/
theorem field_two_zero (x : Word) : field x 2 0 = x.toNat % 8 := by
  simp [field, bits]
  omega

/-- 5 to 7 leave %frm unchanged (03 R65). -/
theorem Split.setFrm_eq_ite (sp : Split) (x : Word) :
    sp.setFrm x = if x.toNat % 8 < 5 then { sp with frm := x.extractLsb' 0 3 } else sp := by
  rw [Split.setFrm, field_two_zero]
  split
  · rw [if_neg (by omega)]
  · rw [if_pos (by omega)]

/-- A write of %frm does not look at what the split has seen of scalars. -/
theorem Split.setFrm_congr {x y : Split} (h : x.sansSeen = y.sansSeen) (v : Word) : (x.setFrm v).sansSeen = (y.setFrm v).sansSeen := by
  rw [Split.eq_of_sansSeen h, Split.setFrm, Split.setFrm]
  split <;> rfl

theorem Split.setMask_congr {x y : Split} (h : x.sansSeen = y.sansSeen) (k : Nat) (v : Dword) :
    (x.setMask k v).sansSeen = (y.setMask k v).sansSeen := by
  rw [Split.eq_of_sansSeen h, Split.setMask, Split.setMask]
  split <;> rfl

/-! ## SMRD and SMWR (05 R132) -/

theorem execSmrd_writes (a : SArgs) (s : State) : WritesScalars (exec (.smrd a) s) s { sw := [a.d.toNat, a.d.toNat + 1] } a.d.toNat
    (fun _ sp => sp) (fun w sp _ => low (if a.imm.toNat % 8 = 0 then sp.lanes &&& ~~~w.exited
      else Table.get (fun _ => 0) sp.masks (a.imm.toNat % 8))) :=
  writesScalars_of_put rfl fun _ _ _ _ => rfl

theorem execSmwr_writes (a : SArgs) (s : State) (h : a.imm.toNat % 8 ≠ 0) : WritesScalars (exec (.smwr a) s) s
    { sr := [a.a.toNat, a.a.toNat + 1], sfree := if a.la then [a.a.toNat, a.a.toNat + 1] else [] } 0
    (fun w sp => { sp with masks := Table.set (fun _ => 0) sp.masks (a.imm.toNat % 8) (pair w.s a.a.toNat) }) (fun _ _ _ => []) := by
  simp only [← Split.setMask_of_ne_zero _ h]
  exact writesScalars_of_onIssuingSplit rfl (fun _ _ _ h => Split.setMask_congr h ..) rfl

/-! ## SRD and SWR of an Oltus core (05 R134) -/

/-- What SRD writes of a register: both words of a wide one. -/
theorem words_of_special (n : Nat) (x : Dword) :
    (if wideSpecial n then words2 x else [loWord x]).length = if wideSpecial n then 2 else 1 := by
  split <;> rfl

theorem execSrd_writes (a : SArgs) (s : State)
    (h : ∀ w sp, s.issuing = some (w, sp) → s.shadowOf w.group = false ∨ timingRegister a.imm.toNat = false) :
    WritesScalars (exec (.srd a) s) s { sw := (List.range (if wideSpecial a.imm.toNat then 2 else 1)).map (a.d.toNat + ·) } a.d.toNat
      (fun _ sp => sp) (fun w sp _ => if wideSpecial a.imm.toNat then low (s.special w sp 0 a.imm.toNat)
        else [(s.special w sp 0 a.imm.toNat).extractLsb' 0 32]) := by
  refine writesScalars_of_put rfl fun hc w sp hi => ?_
  have hlive : (timingRegister a.imm.toNat && s.shadowOf w.group) = false := by
    rw [Bool.and_eq_false_iff]; exact (h w sp hi).symm
  change execSrd a s = _
  simp only [execSrd, hc, hi, hlive, words_of_special]
  rfl

theorem execSwr_frm_writes (a : SArgs) (s : State) (h : a.imm = 0x13) : WritesScalars (exec (.swr a) s) s
    { sr := [a.a.toNat], sfree := if a.la then [a.a.toNat] else [] } 0
    (fun w sp => if (w.s a.a.toNat).toNat % 8 < 5 then { sp with frm := (w.s a.a.toNat).extractLsb' 0 3 } else sp) (fun _ _ _ => []) := by
  simp only [← Split.setFrm_eq_ite]
  refine writesScalars_of_onIssuingSplit rfl (fun _ _ _ h => Split.setFrm_congr h _) ?_
  change execSwr a s = _
  simp only [execSwr, h]
  rfl

/-- A wave of another priority, clamped to its launch's. -/
def Wave.withPrio (w : Wave) (x : Nat) : Wave := { w with prio := min x w.prioMax }

/-- The priority is apart from the registers. -/
theorem Wave.withPrio_congr {v w : Wave} (h : v.sansRegs = w.sansRegs) (x : Nat) : (v.withPrio x).sansRegs = (w.withPrio x).sansRegs :=
  congrArg (fun z => Wave.withPrio z x) h

/-- SWR of %prio writes the wave (05 R134). -/
theorem execSwr_prio (a : SArgs) {s : State} {w : Wave} {sp : Split} (h : a.imm = 0x1A)
    (hi : Issues s { sr := [a.a.toNat], sfree := if a.la then [a.a.toNat] else [] } w sp) :
    ∃ t v, exec (.swr a) s = .next t ∧ OnlyIssuer s t v ∧
      v.sansRegs = ((w.withPrio (((w.seen sp s.free).s a.a.toNat).toNat % 8)).setSplit s.cur.split (some (past s sp))).sansRegs ∧
      (∀ r l, l < 64 → v.v r l = w.v r l) ∧ ∀ k, v.s k = if a.la = true ∧ k = a.a.toNat then 0 else w.s k := by
  obtain ⟨hc, hi, hb, w', hp⟩ := hi
  obtain ⟨v, gs, n, hv, hgs, he⟩ := State.issueWith_acts
    (fun w _ t => (t.onIssuer (fun y => y.withPrio (field (w.s a.a.toNat) 2 0))).advance) hi hb hp
  generalize (w.seen sp s.free).s a.a.toNat = k at he ⊢
  obtain ⟨x, hx, hxs⟩ := Wave.sansRegs_splitSome hv.rest (State.issuing_split hi).2
  have hprio : (v.withPrio (k.toNat % 8)).split s.cur.split = some x := hx
  rw [field_two_zero, State.reissued_onIssuer, State.reissued_advance _ _ _ _ hc] at he
  simp only [Wave.onSplit, hprio] at he
  refine ⟨_, (v.withPrio (k.toNat % 8)).setSplit s.cur.split (some (past s x)), ?_, ⟨gs, n, rfl, hgs⟩,
    Wave.setSplit_sansRegs (Wave.withPrio_congr hv.rest _) _ (Split.retire_congr hxs ..), fun r l hl => ?_, fun j => ?_⟩
  · change execSwr a s = _
    simp only [execSwr, h]
    exact congrArg _ he
  · exact (hv.v r l hl).trans (by simp)
  · refine (hv.s j).trans ?_
    cases a.la <;> simp

/-! ## SRD of a service core (05 R134; 16 R367) -/

/-- A read that names no scalar but its destination. -/
theorem writesSvc_of_put {o : Out} {s : State} {n d : Nat} {res : (Nat → Word) → List Word}
    (ho : s.cur.svc = some n → o = .next ((s.putScalars d (res (s.svc n).s)).advance)) : WritesSvc o s n {} d res :=
  writesSvc_of_onSvc fun hn => (ho hn).trans (congrArg _ (State.putScalars_advance hn ..))

theorem execSrd_coreid (a : SArgs) (s : State) (n : Nat) (h : a.imm = 0x0C) :
    WritesSvc (exec (.srd a) s) s n {} a.d.toNat (fun _ => [BitVec.ofNat 32 (0x40 + n)]) :=
  writesSvc_of_put fun hn => by
    change execSrd a s = _
    simp only [execSrd, hn, h]
    rfl

theorem execSrd_cycle (a : SArgs) (s : State) (n : Nat) (h : a.imm = 0x20) :
    WritesSvc (exec (.srd a) s) s n {} a.d.toNat (fun _ => low (s.svc n).cycle) :=
  writesSvc_of_put fun hn => by
    change execSrd a s = _
    simp only [execSrd, hn, h]
    rfl

/-- Every other number is an illegal operand there. -/
theorem execSrd_stops (a : SArgs) {s : State} {n : Nat} (hn : s.cur.svc = some n) (h1 : a.imm ≠ 0x0C) (h2 : a.imm ≠ 0x20) :
    exec (.srd a) s = .next (s.svcHalt n { cause := .illegalOperand, addr := s.cur.iaddr } s.cur.iaddr) := by
  have hcore : ¬ a.imm.toNat = 0x0C := fun h => h1 (BitVec.eq_of_toNat_eq h)
  have hcycle : ¬ a.imm.toNat = 0x20 := fun h => h2 (BitVec.eq_of_toNat_eq h)
  change execSrd a s = _
  simp only [execSrd, hn, hcore, hcycle, if_false, State.stopHere, State.stopWith]

/-! ## SFREE (05 R135) -/

theorem execSfree_writes (a : SArgs) (s : State) : WritesScalars (exec (.sfree a) s) s
    { sfree := (List.range (a.b.toNat - a.a.toNat + 1)).map (a.a.toNat + ·) } 0 (fun _ sp => sp) (fun _ _ _ => []) :=
  writesScalars_of_issueWith (fun _ _ t => t.advance) rfl (fun _ _ _ h => h) (fun _ _ _ _ => rfl) fun hc w sp v gs n _ => by
    rw [Wave.writeSs_nil]
    exact State.reissued_advance _ _ _ _ hc

/-- Settles O9, instruction by instruction: moves of masks and special registers write scalars or the split, %prio the wave. -/
theorem masksAndSpecialRegisters : Obligations.MasksAndSpecialRegisters :=
  ⟨⟨execSmrd_writes, execSmwr_writes⟩, ⟨execSrd_writes, execSwr_frm_writes⟩,
    ⟨execSrd_coreid, execSrd_cycle, fun a _ _ => execSrd_stops a⟩, fun a _ _ _ => execSwr_prio a, execSfree_writes⟩

end Sys2Proof.Machine

/-! Lanewise instructions as wholes (06 R137): from the state in which a word's minimum width lets it act, one with register results and one
with a mask result do what `Claims.Lanewise` and `Claims.LanewiseMask` ask. -/

namespace Sys2Proof.Machine

open Sys2Proof.Claims

/-- An instruction of a minimum width acts from the state that `Gathers` names (02 R48; 04 R99). -/
theorem State.forced_of_gathers {s s' : State} {width : Nat} (h : Gathers s width s') (act : State → State) :
    s.forced width act = act s' := by
  obtain ⟨w, sp, hi, ⟨hnarrow, rfl⟩ | ⟨hwide, w₁, sp₁, hi₁, hf⟩⟩ := h
  · rw [State.forced, hi]
    exact if_pos hnarrow
  · cases hi.symm.trans hi₁
    rw [State.forced, hi]
    simp only [State.forceFuse, hi, if_neg (Nat.not_lt.2 hwide)]
    obtain ⟨hrep, rfl⟩ | ⟨hrep, hsole, hspill, rfl⟩ := hf
    · rw [if_pos hrep]
    · rw [if_neg (by simp [hrep]), if_pos hsole, hspill]

/-! ## Register results -/

/-- A word whose lanes read no poison elsewhere, in the words of the model. -/
theorem farPoison_of_farReads {op : FOp} {f : FArgs} {w : Wave} {sp : Split} {k : Nat} (h : farReads op f (w.seen sp k) sp = false)
    (hc : f.cls ≠ 0) : w.farPoison op f sp ((lanesOf (w.runOf sp f.g)).map f.modLane) = false := by
  rw [farReads, decide_eq_true hc, Bool.true_and] at h
  exact h

/-- A lanewise instruction with register results that acts from `s'`. -/
theorem writes_of_lanewise {o : Out} {s s' : State} {op : FOp} {f : FArgs} {res : Wave → Split → Nat → Nat → List Word}
    (ho : o = .next (s.lanewise op f res)) (hf : ∀ act, s.forced f.width act = act s') :
    Writes o s' (op.uses f) f.d.toNat (op.dCount f.b) (run f) noMask res (farReads op f) := by
  rintro w sp ⟨hc, hi, hb, w', hp⟩ hfar
  obtain ⟨v, gs, n, m, he, hgs, hrest, hs, hv, hbound⟩ := State.lanewise_next res hf hc hi hb hp (farPoison_of_farReads hfar)
  exact ⟨_, v, m, sp, ho.trans (congrArg _ he), ⟨gs, n, rfl, hgs⟩, rfl, hrest, hs, hv, hbound⟩

/-- An instruction that is `State.lanewise` of a row's values. -/
theorem lanewise_of_exec {i : Instr} {op : FOp} {f : FArgs} {res : Wave → Split → Nat → Nat → List Word}
    (h : ∀ s, exec i s = .next (s.lanewise op f res)) : Lanewise i op f res :=
  fun s _ hg => writes_of_lanewise (h s) (State.forced_of_gathers hg)

/-! ## The shapes of the rows in the words of the model -/

theorem one_eq (f : FArgs) (g : Word → Word) : one f g = fun w sp n i => [g (f.srcA w sp n i 0)] := rfl

theorem two_eq (f : FArgs) (g : Word → Word → Word) : two f g = fun w sp n i => [g (f.srcA w sp n i 0) (f.srcB w i)] := rfl

theorem three_eq (f : FArgs) (g : Word → Word → Word → Word) :
    three f g = fun w sp n i => [g (f.srcA w sp n i 0) (f.srcB w i) (f.srcC w i)] := rfl

theorem wide_eq (g : Wave → Split → Nat → Nat → Dword) : wide g = fun w sp n i => words2 (g w sp n i) := rfl

/-! ## Mask results -/

theorem maskWhere_getLsbD (p : Nat → Bool) {l : Nat} (hl : l < 64) : (maskWhere p).getLsbD l = p l := by
  have key : ∀ (xs : List Nat) (m : Dword), (xs.foldl (fun m i => if p i then m ||| laneBit i else m) m).getLsbD l =
      (m.getLsbD l || (decide (l ∈ xs) && p l)) := by
    intro xs
    induction xs with
    | nil => simp
    | cons i xs ih =>
      intro m
      rw [List.foldl_cons, ih]
      by_cases hil : l = i
      · subst hil
        cases hp : p l <;> simp [laneBit_getLsbD hl]
      · cases hp : p i <;> simp [hil, laneBit_getLsbD hl]
  rw [maskWhere, key]
  simp [hl]

/-- A lanewise instruction with a mask result that nothing holds back: `n` is its number of a free draw. -/
theorem State.lanemask_next {s s' : State} {op : FOp} {f : FArgs} {w : Wave} {sp : Split} (cond : Wave → Split → Nat → Nat → Bool)
    (hf : ∀ act, s.forced f.width act = act s') (hi : Issues s' (op.uses f) w sp) (hq : farReads op f (w.seen sp s'.free) sp = false) :
    ∃ v gs n m, s.lanemask op f cond = s'.reissued v gs m ∧
      (∀ k, (Table.get noneAt gs k).map Group.sansAcc = (s'.group k).map Group.sansAcc) ∧
      OnlyRegisters w v s'.cur.split (past s' (sp.setMask (f.d.toNat % 8)
        (maskWhere (fun l => (run f (w.seen sp s'.free) sp).getLsbD l && cond (w.seen sp s'.free) sp n l)))) ∧
      (∀ k, v.s k = w.s k) ∧ ∀ r l, l < 64 → v.v r l = kept w sp (op.uses f) r l := by
  obtain ⟨hc, hi, hb, w', hp⟩ := hi
  obtain ⟨a, gs, n, ha, hg, he⟩ := State.issueF_acts (op := op) (f := f) (fun w sp s =>
    let run := w.runOf sp f.g
    let n := s.free
    let m := maskWhere (fun i => run.getLsbD i && cond w sp n i)
    let s := s.onIssuingSplit (fun x => x.setMask (f.d.toNat % 8) m)
    (if f.cls = 0 then s else { s with free := s.free + 512 }).advance) hi hb hp (farPoison_of_farReads hq)
  obtain ⟨x, hx, hxs⟩ := Wave.sansRegs_splitSome ha.rest (State.issuing_split hi).2
  rw [State.lanemask, hf, he]
  simp only [State.reissued_onIssuingSplit, State.reissued_free, State.reissued_setFree, Wave.onSplit, hx]
  generalize hm : maskWhere (fun l => ((w.seen sp s'.free).runOf sp f.g).getLsbD l && cond (w.seen sp s'.free) sp n l) = m
  have key : ∀ j, (s'.reissued (a.setSplit s'.cur.split (some (x.setMask (f.d.toNat % 8) m))) gs j).advance =
      s'.reissued (a.setSplit s'.cur.split (some (past s' (x.setMask (f.d.toNat % 8) m)))) gs j := fun j => by
    rw [State.reissued_advance _ _ _ _ hc]
    simp only [Wave.onSplit, Wave.setSplit_split_self, Wave.setSplit_setSplit, past]
  refine ⟨a.setSplit s'.cur.split (some (past s' (x.setMask (f.d.toNat % 8) m))), gs, n, if f.cls = 0 then n else n + 512, ?_, hg, ?_,
    fun k => ?_, fun r l hl => ha.v r l hl⟩
  · split <;> exact key _
  · exact Wave.setSplit_sansRegs ha.rest _ (Split.retire_congr (hm ▸ Split.setMask_congr hxs ..) ..)
  · rw [Wave.setSplit_s, ha.s]
    simp [FOp.uses]

/-- An instruction that is `State.lanemask` of a condition. -/
theorem lanewiseMask_of_exec {i : Instr} {op : FOp} {f : FArgs} {cond : Wave → Split → Nat → Nat → Bool}
    (h : ∀ s, exec i s = .next (s.lanemask op f cond)) : LanewiseMask i op f cond := by
  intro s s' hg
  by_cases hi : ∃ w sp, Issues s' (op.uses f) w sp ∧ farReads op f (w.seen sp s'.free) sp = false
  · obtain ⟨w, sp, hi, hfar⟩ := hi
    obtain ⟨v, gs, n, m, he, hgs, hrest, hs, hv⟩ := State.lanemask_next cond (State.forced_of_gathers hg) hi hfar
    refine ⟨n, fun w₁ sp₁ hi₁ _ => ?_⟩
    cases hi.2.1.symm.trans hi₁.2.1
    refine ⟨_, v, m, _, (h s).trans (congrArg _ he), ⟨gs, m, rfl, hgs⟩, ⟨_, fun l hl => maskWhere_getLsbD _ hl, rfl⟩, hrest, hs,
      fun r l hl => ?_, fun r q _ hlt => by omega⟩
    rw [hv r l hl, if_neg (by omega)]
  · exact ⟨0, fun w sp h₁ h₂ => absurd ⟨w, sp, h₁, h₂⟩ hi⟩

end Sys2Proof.Machine

/-! Integer arithmetic of the vector datapath on numbers (O1; 06 R139). -/

namespace Sys2Proof.Machine

open Sys2Proof.Claims

/-! ## Operations of the integer ALU as operations on numbers (03 R82) -/

theorem mulAddWide_eq_ofInt (a b : Word) (c : Dword) :
    a.signExtend 64 * b.signExtend 64 + c = BitVec.ofInt 64 (a.toInt * b.toInt + c.toInt) := by
  rw [BitVec.ofInt_add, BitVec.ofInt_mul, BitVec.ofInt_toInt]
  rfl

theorem mulAddWideN_eq_ofNat (a b : Word) (c : Dword) :
    a.setWidth 64 * b.setWidth 64 + c = BitVec.ofNat 64 (a.toNat * b.toNat + c.toNat) := by
  rw [BitVec.ofNat_add, BitVec.ofNat_mul, BitVec.ofNat_toNat, BitVec.ofNat_toNat, BitVec.ofNat_toNat, BitVec.setWidth_eq]

theorem neg_eq_ofInt (a : Word) : -a = BitVec.ofInt 32 (-a.toInt) := by
  rw [BitVec.ofInt_neg, BitVec.ofInt_toInt]

theorem abs_eq_ofNat (a : Word) : (if a.slt 0 then -a else a) = BitVec.ofNat 32 a.toInt.natAbs := by
  have hsign : a.slt 0 = true ↔ a.toInt < 0 := by simp [BitVec.slt_eq_decide]
  rw [← BitVec.ofInt_natCast, Int.natCast_natAbs]
  split
  · next h => rw [abs_of_neg (hsign.1 h), ← neg_eq_ofInt]
  · next h => rw [abs_of_nonneg (not_lt.1 (mt hsign.2 h)), BitVec.ofInt_toInt]

theorem satS_eq_clampS (x : Int) : satS x = clampS x := by
  rw [satS, clampS, clampInt, apply_ite (BitVec.ofInt 32), apply_ite (BitVec.ofInt 32)]
  rfl

theorem satU_eq_clampN (x : Int) : satU x = clampN x := by
  rw [satU, clampN, clampInt, apply_ite (BitVec.ofInt 32), apply_ite (BitVec.ofInt 32)]
  rfl

/-! ## The rows of 06 R139 -/

/-- An instruction of integer arithmetic writes its row's value. -/
theorem exec_arithRow {i : Instr} {op : FOp} {f : FArgs} {res : Wave → Split → Nat → Nat → List Word}
    (h : arithRow i = some (op, f, res)) (s : State) : exec i s = .next (s.lanewise op f res) := by
  unfold arithRow at h
  split at h <;> cases h
  all_goals
    refine congrArg Host.Outcome.next ?_
    simp only [State.lane1, State.lane2, State.lane3, one_eq, two_eq, three_eq, wide_eq, mul_eq_ofNat, mulHi_eq_ofInt, mulHiN_eq_ofNat,
      ↓mulAdd_eq_ofNat, ↓mulAddWide_eq_ofInt, ↓mulAddWideN_eq_ofNat, minS_eq_ite, maxS_eq_ite, minU_eq_ite, maxU_eq_ite, ↓abs_eq_ofNat,
      neg_eq_ofInt, satS_eq_clampS, satU_eq_clampN]

/-- Settles O1, row by row: each is a lanewise instruction of its operation on numbers. -/
theorem integerArithmetic : Obligations.IntegerArithmetic := fun _ _ _ _ h => lanewise_of_exec (exec_arithRow h)

end Sys2Proof.Machine

/-! Logic, shifts, bit fields, selection, moves and PRMT of the vector datapath on numbers (O2; 06 R140, R142). -/

namespace Sys2Proof.Machine

open Sys2Proof.Claims

/-! ## Bit fields (06 R140) -/

/-- The sign bit of a field of `l` bits as a comparison. -/
theorem testBit_pred_iff {x l : Nat} (hl : 0 < l) (hx : x < 2 ^ l) : x.testBit (l - 1) = true ↔ 2 ^ (l - 1) ≤ x := by
  obtain ⟨k, rfl⟩ : ∃ k, l = k + 1 := ⟨l - 1, by omega⟩
  rw [Nat.add_sub_cancel, Nat.testBit_eq_decide_div_mod_eq, decide_eq_true_eq]
  rw [pow_succ] at hx
  have hdiv : x / 2 ^ k < 2 := Nat.div_lt_of_lt_mul hx
  rw [← Nat.one_le_div_iff (Nat.two_pow_pos k)]
  generalize x / 2 ^ k = q at hdiv
  omega

/-- A field extended by copies of its sign: the word of the number that it stands for. -/
theorem ofNat_signExtended (x : Nat) {l : Nat} (hl : l ≤ 32) :
    BitVec.ofNat 32 (x + (2 ^ 32 - 2 ^ l)) = BitVec.ofInt 32 ((x : Int) - 2 ^ l) := by
  have hle : 2 ^ l ≤ 2 ^ 32 := Nat.pow_le_pow_right (by decide) hl
  rw [← BitVec.ofInt_natCast, Nat.cast_add, Nat.cast_sub hle]
  apply BitVec.eq_of_toInt_eq
  rw [BitVec.toInt_ofInt, BitVec.toInt_ofInt]
  push_cast
  rw [show (x : Int) + (4294967296 - 2 ^ l) = (x : Int) - 2 ^ l + (4294967296 : Nat) by push_cast; ring]
  exact Int.add_bmod_right ..

theorem fieldExtract_eq_extract (a b : Word) : fieldExtract a b = extract a b := by
  unfold fieldExtract extract
  dsimp only
  split
  · rfl
  · next h =>
    have hx := Nat.mod_lt (a.toNat / 2 ^ (b.toNat % 256)) (Nat.two_pow_pos (min (b.toNat / 256 % 256) (32 - b.toNat % 256)))
    simp only [Bool.and_eq_true, testBit_pred_iff (by omega) hx,
      ofNat_signExtended _ (show min (b.toNat / 256 % 256) (32 - b.toNat % 256) ≤ 32 by omega)]

/-- A field of ones: bit k lies in it from `pos` on, for `l` bits. -/
theorem ones_getLsbD (pos l : Nat) {k : Nat} (hk : k < 32) :
    (BitVec.ofNat 32 ((2 ^ l - 1) * 2 ^ pos)).getLsbD k = (decide (pos ≤ k) && decide (k - pos < l)) := by
  rw [BitVec.getLsbD_ofNat, Nat.testBit_mul_two_pow, Nat.testBit_two_pow_sub_one, decide_eq_true hk, Bool.true_and]

/-- BFI bit by bit. -/
theorem inserts_fieldInsert (a b c : Word) : inserts a b c (fieldInsert a b c) := by
  intro k hk
  unfold fieldInsert
  dsimp only
  split
  · next h => rw [if_neg (by omega)]
  · next h =>
    simp only [BitVec.getLsbD_or, BitVec.getLsbD_and, BitVec.getLsbD_not, BitVec.getLsbD_shiftLeft, ones_getLsbD _ _ hk, decide_eq_true hk,
      Bool.true_and]
    by_cases hpos : b.toNat % 256 ≤ k
    · by_cases hend : k < b.toNat % 256 + b.toNat / 256 % 256
      · rw [if_pos ⟨hpos, hend⟩, decide_eq_true hpos, decide_eq_true (show k - b.toNat % 256 < min _ _ by omega)]
        simp [hpos]
      · rw [if_neg (by omega), decide_eq_false (show ¬ k - b.toNat % 256 < min _ _ by omega)]
        simp
    · rw [if_neg (by omega), decide_eq_false hpos]
      simp

/-! ## PRMT byte by byte (06 R142) -/

/-- Byte k of packed bytes. -/
theorem byteOf_packElements (x y z w : Nat) {k : Nat} (hk : k < 4) :
    byteOf (BitVec.ofNat 32 (packElements 8 [x, y, z, w])) k = BitVec.ofNat 8 ([x, y, z, w].getD k 0) := by
  apply BitVec.eq_of_toNat_eq
  simp only [byteOf, packElements, BitVec.extractLsb'_toNat, BitVec.toNat_ofNat, Nat.shiftRight_eq_div_pow]
  obtain rfl | rfl | rfl | rfl : k = 0 ∨ k = 1 ∨ k = 2 ∨ k = 3 := by omega
  all_goals
    simp only [Nat.reduceMul, Nat.reducePow, List.getD_cons_zero, List.getD_cons_succ]
    omega

/-- Byte j of the pool of A and B. -/
theorem pool_byte (a b : Word) {j : Nat} (hj : j < 8) :
    (b.toNat * 2 ^ 32 + a.toNat) / 2 ^ (8 * j) % 256 = (if j < 4 then byteOf a j else byteOf b (j - 4)).toNat := by
  have ha := a.isLt
  have hb := b.isLt
  obtain rfl | rfl | rfl | rfl | rfl | rfl | rfl | rfl :
      j = 0 ∨ j = 1 ∨ j = 2 ∨ j = 3 ∨ j = 4 ∨ j = 5 ∨ j = 6 ∨ j = 7 := by omega
  all_goals
    simp only [byteOf, apply_ite BitVec.toNat, BitVec.extractLsb'_toNat, Nat.shiftRight_eq_div_pow]
    norm_num
    omega

/-- What a selector picks of the pool of A and B: a byte, or copies of its sign. -/
def pickedByte (a b : Word) (n : Nat) : Nat :=
  let x := (b.toNat * 2 ^ 32 + a.toNat) / 2 ^ (8 * (n % 8)) % 256
  if n < 8 then x else if 128 ≤ x then 255 else 0

theorem permute_eq (a b c : Word) : permute a b c =
    BitVec.ofNat 32 (packElements 8 ((List.range 4).map (fun k => pickedByte a b (c.toNat / 2 ^ (4 * k) % 16)))) := rfl

theorem ofNat_pickedByte (a b : Word) (n : Nat) : BitVec.ofNat 8 (pickedByte a b n) =
    let x := if n % 8 < 4 then byteOf a (n % 8) else byteOf b (n % 8 - 4)
    if n < 8 then x else if 0x80 ≤ x.toNat then 0xFF else 0 := by
  simp only [pickedByte, pool_byte a b (Nat.mod_lt n (by decide : 0 < 8)), apply_ite (BitVec.ofNat 8), BitVec.ofNat_toNat, BitVec.setWidth_eq]
  rfl

theorem permutes_permute (a b c : Word) : permutes a b c (permute a b c) := by
  intro k hk
  have hget : ((List.range 4).map (fun k => pickedByte a b (c.toNat / 2 ^ (4 * k) % 16))).getD k 0 =
      pickedByte a b (c.extractLsb' (4 * k) 4).toNat := by
    simp [hk, Nat.shiftRight_eq_div_pow]
  rw [permute_eq]
  exact (byteOf_packElements _ _ _ _ hk).trans ((congrArg (BitVec.ofNat 8) hget).trans (ofNat_pickedByte ..))

/-! ## The rows of 06 R140 and R142 -/

/-- An instruction on bits writes its row's value. -/
theorem exec_bitRow {i : Instr} {op : FOp} {f : FArgs} {res : Wave → Split → Nat → Nat → List Word}
    (h : bitRow i = some (op, f, res)) (s : State) : exec i s = .next (s.lanewise op f res) := by
  unfold bitRow at h
  split at h <;> cases h
  all_goals
    refine congrArg Host.Outcome.next ?_
    simp only [State.lane1, State.lane2, State.lane3, one_eq, two_eq, three_eq, wide_eq, shiftL_eq_ofNat, shiftR_eq_ofNat, shiftA_eq_ofInt,
      fieldExtract_eq_extract, popCount_eq_countP, leadingZeros_eq_ite, dot4, ne_eq, ite_not, BitVec.ofNat_eq_ofNat]

/-- Settles O2: each row is a lanewise instruction of its operation on numbers; BFI and PRMT bit by bit and byte by byte. -/
theorem bitInstructions : Obligations.BitInstructions :=
  ⟨fun _ _ _ _ h => lanewise_of_exec (exec_bitRow h), inserts_fieldInsert, permutes_permute⟩

end Sys2Proof.Machine

/-! FP32 and FP64 instructions (O3; 06 R144, R146, R147). -/

namespace Sys2Proof.Machine

open Sys2Proof.Claims

/-- FABS keeps the 31 low bits. -/
theorem and_eq_ofNat_mod (a : Word) : a &&& 0x7FFFFFFF = BitVec.ofNat 32 (a.toNat % 2 ^ 31) := by
  apply BitVec.eq_of_toNat_eq
  rw [BitVec.toNat_and, BitVec.toNat_ofNat, Nat.mod_eq_of_lt (by omega)]
  exact Nat.and_two_pow_sub_one_eq_mod a.toNat 31

/-- An FP32 instruction writes one rounding of its row's value, or the word of its function. -/
theorem exec_floatRow {i : Instr} {op : FOp} {f : FArgs} {res : Wave → Split → Nat → Nat → List Word}
    (h : floatRow i = some (op, f, res)) (s : State) : exec i s = .next (s.lanewise op f res) := by
  unfold floatRow at h
  split at h <;> cases h
  all_goals
    refine congrArg Host.Outcome.next ?_
    simp only [State.lane1, State.lane2, State.lane1r, State.lane2r, State.lane3r, one_eq, two_eq, mode, f32Op2, Val.minus, integral32,
      and_eq_ofNat_mod]

/-- An FP64 instruction writes one rounding of its row's value. -/
theorem exec_doubleRow {i : Instr} {op : FOp} {f : FArgs} {res : Wave → Split → Nat → Nat → List Word}
    (h : doubleRow i = some (op, f, res)) (s : State) : exec i s = .next (s.lanewise op f res) := by
  unfold doubleRow at h
  split at h <;> cases h
  all_goals
    refine congrArg Host.Outcome.next ?_
    simp only [State.lane2d, wide_eq, mode, f64Op2, Val.minus]

/-- Settles O3: each row is a lanewise instruction whose value is rounded once, in the mode of its word and its split. -/
theorem floatingPoint : Obligations.FloatingPoint :=
  ⟨fun _ _ _ _ h => lanewise_of_exec (exec_floatRow h), fun _ _ _ _ h => lanewise_of_exec (exec_doubleRow h)⟩

end Sys2Proof.Machine

/-! Packed halves, dot products, the camera transform, the hash and the conversions (O4; 06 R148–R157). -/

namespace Sys2Proof.Machine

open Sys2Proof.Claims

/-- Packed extrema. -/
theorem packedExtremum_eq_halves (isMax : Bool) (a b : Word) : packedExtremum isMax a b =
    halves (Fmt.bf16.extremum isMax (half a 0) (half b 0)) (Fmt.bf16.extremum isMax (half a 1) (half b 1)) := by
  simp only [packedExtremum, each2, List.range_succ, List.range_zero, List.nil_append, List.map_cons, List.map_nil, List.cons_append,
    packElements_pair, element_eq_half]

theorem element_eq_div {n : Nat} (x : BitVec n) (width j : Nat) : element x width j = x.toNat / 2 ^ (width * j) % 2 ^ width := by
  rw [element, Nat.mul_comm]

/-- The elements of a dot product as products for an exact sum. -/
theorem dotProduct_eq_exactSum (fm : Fmt) (a b c : Word) : dotProduct fm a b c = exactSum c (products fm (32 / fm.width) a b) false := by
  simp only [dotProduct, products, element_eq_div]

/-- RNGF's value as a quotient; 0 needs no case of its own. -/
theorem unitFloat_eq_toF32 (h : Word) :
    unitFloat h = toF32 .rne (.fin false (((h.toNat / 256 : Nat) : Rat) / ((2 ^ 24 : Nat) : Rat))) := by
  have hscale : pow2 (-24) = 1 / ((2 ^ 24 : Nat) : Rat) := rfl
  unfold unitFloat
  dsimp only
  split
  · next h0 =>
    rw [h0, Nat.cast_zero, zero_div]
    rfl
  · rw [hscale, mul_one_div]

/-- A packed, dot-product, camera or random instruction writes its row's value. -/
theorem exec_packedRow {i : Instr} {op : FOp} {f : FArgs} {res : Wave → Split → Nat → Nat → List Word}
    (h : packedRow i = some (op, f, res)) (s : State) : exec i s = .next (s.lanewise op f res) := by
  unfold packedRow at h
  split at h <;> cases h
  all_goals
    refine congrArg Host.Outcome.next ?_
    simp only [State.lane2, State.lane3, State.lane2r, State.lane3r, two_eq, three_eq, mode, packedAdd, packedMul, packedFma, packed_eq_eachHalf,
      packedExtremum_eq_halves, dotProduct_eq_exactSum, Fmt.width, Fmt.expBits, Fmt.fracBits, Nat.reduceAdd, Nat.reduceDiv, cameraRows, Val.minus,
      List.range_succ, List.range_zero, List.nil_append, List.cons_append, List.map_cons, List.map_nil, unitFloat_eq_toF32]

/-- A conversion writes what the type codes of its selector give. -/
theorem exec_convertRow {i : Instr} {op : FOp} {f : FArgs} {res : Wave → Split → Nat → Nat → List Word}
    (h : convertRow i = some (op, f, res)) (s : State) : exec i s = .next (s.lanewise op f res) := by
  unfold convertRow at h
  split at h <;> cases h
  all_goals refine congrArg Host.Outcome.next ?_
  -- CVTUPK's elements are the only ones that the model names otherwise.
  case h_3.refl => simp only [src, tgt, element_eq_div]
  all_goals rfl

/-- Settles O4: each row is a lanewise instruction of its value on elements. -/
theorem packedAndConversions : Obligations.PackedAndConversions :=
  ⟨fun _ _ _ _ h => lanewise_of_exec (exec_packedRow h), fun _ _ _ _ h => lanewise_of_exec (exec_convertRow h)⟩

end Sys2Proof.Machine

/-! The compares, VRDS and VFREE (O5; 06 R141, R143, R145, R147; 05 R135). -/

namespace Sys2Proof.Machine

open Sys2Proof.Claims

/-! ## Floating-point conditions (06 R145) -/

/-- The strict order of exact values, in which a NaN has no place. -/
def valBelow (a b : Val) : Bool :=
  match a, b with
  | .inf n, .inf m => n && !m
  | .inf n, .fin _ _ => n
  | .fin _ _, .inf m => !m
  | .fin _ p, .fin _ q => decide (p < q)
  | _, _ => false

/-- The equality of exact values, whatever the sign of a zero. -/
def valEqual (a b : Val) : Bool :=
  match a, b with
  | .inf n, .inf m => n == m
  | .fin _ p, .fin _ q => decide (p = q)
  | _, _ => false

/-- A compare by the order of its values. -/
def conditionOf (c : Nat) (unordered below equal : Bool) : Bool :=
  match c with
  | 0 => !unordered && equal
  | 1 => unordered || !equal
  | 2 => !unordered && below
  | 3 => !unordered && !below
  | 4 => !unordered && (below || equal)
  | 5 => !unordered && !(below || equal)
  | 6 => !unordered
  | 7 => unordered
  | _ => false

theorem floatCond_eq_conditionOf (c : Nat) (a b : Val) :
    floatCond c a b = conditionOf c (a.isNaN || b.isNaN) (valBelow a b) (valEqual a b) := rfl

theorem floatTest_eq (c : Nat) (a b : Val) : floatTest c a b =
    let equal := !(a.isNaN || b.isNaN) && !valBelow a b && !valBelow b a
    match c with
    | 0 => equal
    | 1 => !equal
    | 2 => valBelow a b
    | 3 => !(a.isNaN || b.isNaN) && !valBelow a b
    | 4 => !(a.isNaN || b.isNaN) && !valBelow b a
    | 5 => valBelow b a
    | 6 => !(a.isNaN || b.isNaN)
    | 7 => a.isNaN || b.isNaN
    | _ => false := rfl

/-- Two values are unordered, or one lies below the other, or they are equal, and only one of these holds. -/
theorem values_trichotomy (a b : Val) :
    ((a.isNaN || b.isNaN) = true ∧ valBelow a b = false ∧ valBelow b a = false) ∨
    ((a.isNaN || b.isNaN) = false ∧
      (valBelow a b = true ∧ valBelow b a = false ∧ valEqual a b = false ∨
       valBelow a b = false ∧ valBelow b a = true ∧ valEqual a b = false ∨
       valBelow a b = false ∧ valBelow b a = false ∧ valEqual a b = true)) := by
  match a, b with
  | .nan, .nan | .nan, .inf _ | .nan, .fin _ _ | .inf _, .nan | .fin _ _, .nan => exact .inl ⟨rfl, rfl, rfl⟩
  | .inf n, .inf m => exact .inr ⟨rfl, by revert n m; decide⟩
  | .inf n, .fin _ _ | .fin _ _, .inf n => exact .inr ⟨rfl, by revert n; simp [valBelow, valEqual]⟩
  | .fin _ p, .fin _ q =>
    refine .inr ⟨rfl, ?_⟩
    simp only [valBelow, valEqual, decide_eq_true_eq, decide_eq_false_iff_not]
    obtain h | h | h := lt_trichotomy p q
    · exact .inl ⟨h, h.not_gt, h.ne⟩
    · exact .inr (.inr ⟨h.not_lt, h.not_gt, h⟩)
    · exact .inr (.inl ⟨h.not_gt, h, h.ne'⟩)

theorem floatCond_eq_floatTest (c : Nat) (a b : Val) : floatCond c a b = floatTest c a b := by
  rw [floatCond_eq_conditionOf, floatTest_eq]
  obtain ⟨hu, hab, hba⟩ | ⟨hu, ⟨hab, hba, he⟩ | ⟨hab, hba, he⟩ | ⟨hab, hba, he⟩⟩ := values_trichotomy a b
  · simp only [hu, hab, hba, conditionOf]
    rfl
  all_goals
    simp only [hu, hab, hba, he, conditionOf]
    rfl

/-! ## The compares (06 R141, R145, R147) -/

theorem icmp_lanewiseMask (f : FArgs) : LanewiseMask (.icmp f) .icmp f (fun w sp n i =>
    if f.d.toNat / 8 < 8 then intTest (f.d.toNat / 8) (f.srcA w sp n i 0) (f.srcB w i)
    else intTest (f.d.toNat / 8 - 8) (f.srcA2 w sp n i) (f.srcB2 w i)) :=
  lanewiseMask_of_exec fun s => by
    simp only [← intCond_eq_intTest]
    rfl

theorem fcmp_lanewiseMask (f : FArgs) : LanewiseMask (.fcmp f) .fcmp f (fun w sp n i =>
    floatTest (f.d.toNat / 8) (f32 (f.srcA w sp n i 0)) (f32 (f.srcB w i))) :=
  lanewiseMask_of_exec fun s => by
    simp only [← floatCond_eq_floatTest]
    rfl

theorem dcmp_lanewiseMask (f : FArgs) : LanewiseMask (.dcmp f) .dcmp f (fun w sp n i =>
    floatTest (f.d.toNat / 8) (f64 (f.srcA2 w sp n i)) (f64 (f.srcBd w i))) :=
  lanewiseMask_of_exec fun s => by
    simp only [← floatCond_eq_floatTest]
    rfl

/-! ## VRDS (06 R143) -/

/-- A word without a source modifier acts from the state as it is (02 R48). -/
theorem gathers_of_mod_zero {f : FArgs} (h : f.mod = 0) {s : State} {w : Wave} {sp : Split} (hi : s.issuing = some (w, sp)) :
    Gathers s f.width s := by
  refine ⟨w, sp, hi, .inl ⟨lt_of_le_of_lt (min_le_left ..) ?_, rfl⟩⟩
  rw [FArgs.width, if_pos (show f.cls = 0 by rw [FArgs.cls, h]; rfl)]
  decide

theorem execVrds_writes (f : FArgs) (s : State) (hmod : f.mod = 0)
    (hlive : ∀ w sp, s.issuing = some (w, sp) → s.shadowOf w.group = false ∨ timingRegister f.b.toNat = false) :
    Writes (exec (.vrds f) s) s (FOp.uses .vrds f) f.d.toNat (FOp.dCount .vrds f.b) (run f) noMask
      (fun w sp _ i => [loWord (s.special w sp i f.b.toNat), hiWord (s.special w sp i f.b.toNat)]) := by
  intro w sp hi _
  have hissuing := hi.2.1
  have htimed : (timingRegister f.b.toNat && s.shadowOf w.group) = false := Bool.and_eq_false_iff.2 (hlive w sp hissuing).symm
  have hact : exec (.vrds f) s = .next (s.lanewise .vrds f (fun w sp _ i => words2 (s.special w sp i f.b.toNat))) := by
    change execVrds f s = _
    simp only [execVrds, hissuing, htimed]
    rfl
  have hfar : farReads .vrds f (w.seen sp s.free) sp = false := by
    rw [farReads, decide_eq_false (by rw [FArgs.cls, hmod]; decide), Bool.false_and]
  exact writes_of_lanewise hact (State.forced_of_gathers (gathers_of_mod_zero hmod hissuing)) w sp hi hfar

/-! ## VFREE (05 R135) -/

theorem execVfree_writes (f : FArgs) (s : State) : Writes (exec (.vfree f) s) s
    { vfree := (List.range (f.b.toNat - f.a.toNat + 1)).map (f.a.toNat + ·) } 0 0 (run f) noMask (fun _ _ _ _ => []) := by
  rintro w sp ⟨hc, hi, hb, w', hp⟩ -
  obtain ⟨a, gs, n, ha, hgs, he⟩ := State.issueWith_acts (fun _ _ t => t.advance) hi hb hp
  obtain ⟨x, hx, hxs⟩ := Wave.sansRegs_splitSome ha.rest (State.issuing_split hi).2
  rw [State.reissued_advance _ _ _ _ hc, Wave.onSplit, hx] at he
  refine ⟨_, _, 0, sp, congrArg Host.Outcome.next he, ⟨gs, n, rfl, hgs⟩, rfl,
    Wave.setSplit_sansRegs ha.rest _ (Split.retire_congr hxs ..), fun k => ?_, fun r l hl => ?_, fun r q _ hlt => by omega⟩
  · rw [Wave.setSplit_s, ha.s]
    simp
  · exact (ha.v r l hl).trans (if_neg (by omega)).symm

/-- Settles O5: the compares by their tests, a special register as each lane reads it, and the marks of VFREE. -/
theorem comparesAndReads : Obligations.ComparesAndReads :=
  ⟨⟨icmp_lanewiseMask, fcmp_lanewiseMask, dcmp_lanewiseMask⟩, execVrds_writes, execVfree_writes⟩

end Sys2Proof.Machine

/-! What the cross-lane opcodes share (O6; 07 R159–R163): what a lane reads in another, and an opcode that writes registers and a mask from
what its lanes read of each other. -/

namespace Sys2Proof.Machine

open Sys2Proof.Claims

/-! ## What a lane reads in another (07 R159, R160) -/

section
variable {w : Wave} {sp : Split} {j : Nat} (n r i : Nat)

theorem Wave.fetch_of_width_le (h : w.width ≤ j) : w.fetch sp n r i j = 0 := if_pos (.inl h)

theorem Wave.fetch_of_exited (h : w.exited.getLsbD j = true) : w.fetch sp n r i j = 0 := if_pos (.inr h)

theorem Wave.fetch_of_mem_split (hw : j < w.width) (he : w.exited.getLsbD j = false) (hl : sp.lanes.getLsbD j = true) :
    w.fetch sp n r i j = w.v r j := by
  rw [Wave.fetch, if_neg (by simp [he, hw]), if_pos hl]

/-- A lane of another split shows its register's value, or one that the register has held since the two lanes parted. -/
theorem Wave.fetch_of_other_split (hw : j < w.width) (he : w.exited.getLsbD j = false) (hl : sp.lanes.getLsbD j = false) :
    w.fetch sp n r i j = w.v r j ∨ ∃ e ∈ Table.get nilAt w.hist (64 * r + j), w.parted i j < e.1 ∧ w.fetch sp n r i j = e.2 := by
  rw [Wave.fetch, if_neg (by simp [he, hw]), if_neg (by simp [hl])]
  generalize hheld : w.v r j :: ((Table.get nilAt w.hist (64 * r + j)).filter (fun e => decide (w.parted i j < e.1))).map (fun e => e.2) = held
  have hlen : Config.freeChoice n % held.length < held.length := Nat.mod_lt _ (by simp [← hheld])
  have hmem := List.getElem_mem hlen
  rw [← List.getD_eq_getElem _ (w.v r j) hlen] at hmem
  obtain h | h := List.mem_cons.1 (hheld.symm ▸ hmem)
  · exact .inl h
  · obtain ⟨e, he, hv⟩ := List.mem_map.1 h
    obtain ⟨he, hp⟩ := List.mem_filter.1 he
    exact .inr ⟨e, he, of_decide_eq_true hp, hv.symm⟩
end

/-! ## What an opcode leaves of a wave -/

theorem Wave.writeV_eq_writeVs (w : Wave) (qs : List Nat) (run : Dword) (r : Nat) (x : Nat → Word) :
    w.writeV qs run r x = w.writeVs qs run r 1 (fun i => [x i]) := by
  simp [Wave.writeV, Wave.writeVs, List.foldl_map]

/-- The issuing wave after the writes of a row, at draw m: its registers, then its mask. -/
def crossLeaves (c : CrossRow) (w : Wave) (sp : Split) (m split : Nat) (a : Wave) : Wave :=
  let b := a.writeVs (quadsOf sp.lanes) (c.lanes w sp) c.f.d.toNat c.n (c.res w sp m)
  match c.mask w sp with
  | none => b
  | some (k, p) => b.onSplit split (fun x => x.setMask k (maskWhere p))

/-- A row's mask is written in the split, whatever becomes of the split after it. -/
theorem crossLeaves_onSplit (c : CrossRow) (w : Wave) (m : Nat) {a : Wave} {sp x : Split} {k : Nat} (hx : a.split k = some x)
    (hxs : x.sansSeen = sp.sansSeen) {g : Split → Split} (hg : ∀ x y : Split, x.sansSeen = y.sansSeen → (g x).sansSeen = (g y).sansSeen) :
    ∃ y z, MaskPut sp y (c.mask w sp) ∧ z.sansSeen = (g y).sansSeen ∧
      (crossLeaves c w sp m k a).onSplit k g =
        (a.writeVs (quadsOf sp.lanes) (c.lanes w sp) c.f.d.toNat c.n (c.res w sp m)).setSplit k (some z) := by
  obtain ⟨x', hx', hxs'⟩ := Wave.sansRegs_splitSome (Wave.writeVs_sansRegs a (quadsOf sp.lanes) (c.lanes w sp) c.f.d.toNat c.n (c.res w sp m)) hx
  cases hm : c.mask w sp with
  | none => exact ⟨sp, g x', rfl, hg _ _ (hxs'.trans hxs), by simp only [crossLeaves, hm, Wave.onSplit, hx']⟩
  | some kp =>
    obtain ⟨j, p⟩ := kp
    exact ⟨_, _, ⟨maskWhere p, fun l hl => maskWhere_getLsbD p hl, rfl⟩, hg _ _ (Split.setMask_congr (hxs'.trans hxs) j (maskWhere p)),
      by simp only [crossLeaves, hm, Wave.onSplit, hx', Wave.setSplit_split_self, Wave.setSplit_setSplit]⟩

/-! ## An opcode as a whole -/

/-- An action that, of a wave ready to be written, leaves what a row says. -/
def LeavesRow (c : CrossRow) (act : Wave → Split → Dword → Nat → State → State) : Prop :=
  ∀ (s : State) a gs n w sp m, act w sp (run c.f w sp) m (s.reissued a gs n) = s.reissued (crossLeaves c w sp m s.cur.split a) gs n

/-- A cross-lane opcode that acts from `s'`. -/
theorem writes_of_cross {o : Out} {s s' : State} {c : CrossRow} {from_ : Wave → Split → Dword → List Nat}
    {act : Wave → Split → Dword → Nat → State → State} (ho : o = .next (s.cross c.op c.f c.width from_ act))
    (hf : ∀ act, s.forced c.width act = act s') (hfrom : ∀ w sp, from_ w sp (run c.f w sp) = c.from_ w sp) (hact : LeavesRow c act) :
    Writes o s' { c.op.uses c.f with wide := true } c.f.d.toNat c.n c.lanes c.mask c.res
      (fun w sp => w.farPoison c.op c.f sp (c.from_ w sp)) := by
  rintro w sp ⟨hc, hi, hb, w', hp⟩ (hfar : (w.seen sp s'.free).farPoison c.op c.f sp (c.from_ (w.seen sp s'.free) sp) = false)
  obtain ⟨a, gs, n, ha, hgs, he⟩ := State.issueWith_acts (fun w sp t =>
    if w.farPoison c.op c.f sp (from_ w sp (run c.f w sp)) then s'.stopWith { cause := .poisonRegister }
    else (act w sp (run c.f w sp) t.free { t with free := t.free + 512 }).advance) hi hb hp
  obtain ⟨x, hx, hxs⟩ := Wave.sansRegs_splitSome ha.rest (State.issuing_split hi).2
  obtain ⟨y, z, hy, hz, hleft⟩ := crossLeaves_onSplit c (w.seen sp s'.free) n hx hxs
    (g := fun x => x.retire s'.cur.aux s'.cur.caddr s'.cur.next) fun _ _ h => Split.retire_congr h ..
  rw [hfrom, hfar, if_neg Bool.false_ne_true, State.reissued_free, State.reissued_setFree, hact, State.reissued_advance _ _ _ _ hc, hleft] at he
  have hnext : o = _ := ho.trans (congrArg Host.Outcome.next ((hf _).trans he))
  refine ⟨_, _, n, y, hnext, ⟨gs, n + 512, rfl, hgs⟩, hy, ?_, fun k => ?_, fun r l hl => ?_, fun r q h₁ h₂ hq => ?_⟩
  · exact Wave.setSplit_sansRegs ((Wave.writeVs_sansRegs ..).trans ha.rest) _ hz
  · rw [Wave.setSplit_s, Wave.writeVs_s, ha.s]
    simp [FOp.uses]
  · rw [Wave.setSplit_v, Wave.writeVs_v _ _ _ _ _ _ hl, ha.v _ _ hl]
    rfl
  · rw [Wave.setSplit_bound, Wave.writeVs_bound _ _ _ _ _ _ (fun _ => mem_quadsOf) (mem_quadsOf hq)]
    simp [h₁, h₂, hq]

/-- An opcode that is `State.cross`, where a literal index of it lies within the segment, does what its row says. -/
theorem crossLane_of_exec {i : Instr} {c : CrossRow} {from_ : Wave → Split → Dword → List Nat}
    {act : Wave → Split → Dword → Nat → State → State}
    (hexec : ∀ s w sp, s.issuing = some (w, sp) → ((c.op = .wrlane ∨ (c.op = .rdlane ∧ c.f.bs = false)) → c.f.dist < segment c.f w) →
      exec i s = .next (s.cross c.op c.f c.width from_ act))
    (hfrom : ∀ w sp, from_ w sp (run c.f w sp) = c.from_ w sp) (hact : LeavesRow c act) : CrossLane i c := by
  intro s s' hg hidx
  have ⟨w, sp, hi, _⟩ := hg
  exact writes_of_cross (hexec s w sp hi (hidx w sp hi)) (State.forced_of_gathers hg) hfrom hact

theorem State.reissued_putD (s : State) (a : Wave) (gs : Table (Option Group)) (n : Nat) (sp : Split) (run : Dword) (f : FArgs) (x : Nat → Word) :
    (s.reissued a gs n).putD sp run f x = s.reissued (a.writeVs (quadsOf sp.lanes) run f.d.toNat 1 (fun i => [x i])) gs n := by
  rw [State.putD, State.reissued_onIssuer, Wave.writeV_eq_writeVs]

/-- A row whose D takes one word in the lanes of `lanes`, and that writes no mask. -/
theorem leavesRow_putD {c : CrossRow} {lanes : Wave → Split → Dword → Dword} {val : Wave → Split → Dword → Nat → Nat → Word}
    (hn : c.n = 1) (hmask : ∀ w sp, c.mask w sp = none) (hlanes : ∀ w sp, lanes w sp (run c.f w sp) = c.lanes w sp)
    (hres : ∀ w sp m i, [val w sp (run c.f w sp) m i] = c.res w sp m i) :
    LeavesRow c (fun w sp run m s => s.putD sp (lanes w sp run) c.f (val w sp run m)) := by
  intro s a gs n w sp m
  simp only [State.reissued_putD, hlanes, hres, crossLeaves, hmask, hn]

/-- A row whose D takes one word in the lanes of run, and that writes the status mask (07 R166). -/
theorem leavesRow_putStatus {c : CrossRow} {val : Wave → Split → Dword → Nat → Nat → Word} {bit : Wave → Split → Dword → Nat → Bool}
    (hn : c.n = 1) (hlanes : c.lanes = run c.f) (hres : ∀ w sp m i, [val w sp (run c.f w sp) m i] = c.res w sp m i)
    (hmask : ∀ w sp, some (c.f.dist % 8, bit w sp (run c.f w sp)) = c.mask w sp) :
    LeavesRow c (fun w sp run m s => (s.putD sp run c.f (val w sp run m)).putStatus c.f (maskWhere (bit w sp run))) := by
  intro s a gs n w sp m
  simp only [State.putStatus, State.reissued_putD, State.reissued_onIssuingSplit, hres, crossLeaves, ← hmask, hn, hlanes]

/-- A row that writes no register and a mask. -/
theorem leavesRow_setMask {c : CrossRow} {k : Nat} {bit : Wave → Split → Dword → Nat → Bool} (hn : c.n = 0)
    (hmask : ∀ w sp, some (k, bit w sp (run c.f w sp)) = c.mask w sp) :
    LeavesRow c (fun w sp run _ s => s.onIssuingSplit (fun x => x.setMask k (maskWhere (bit w sp run)))) := by
  intro s a gs n w sp m
  simp only [State.reissued_onIssuingSplit, crossLeaves, ← hmask, hn]
  rfl

end Sys2Proof.Machine

/-! The cross-lane opcodes one by one (O6; 07 R164–R172). -/

namespace Sys2Proof.Machine

open Sys2Proof.Claims

/-- The first lane of a lane's segment, in the words of the rule (07 R163). -/
theorem base_eq_segBase (f : FArgs) (w : Wave) (i : Nat) : f.base w.width i = segBase f w i := rfl

/-! ## SHFL and SHFLV (07 R164–R166) -/

theorem shflLane_eq_shuffled (f : FArgs) (w : Wave) (i b : Nat) : shflLane f w.width i b = shuffled f w i b := by
  have hup : f.base w.width i + b ≤ i ↔ b ≤ i ∧ f.base w.width i ≤ i - b := by omega
  simp only [shflLane, hup]
  rfl

theorem shflStatus_eq_strange (w : Wave) (sp : Split) (j : Nat) : shflStatus w sp j = strange w sp j := by
  simp only [shflStatus, strange, Bool.not_and, Bool.not_not, ← decide_not, Nat.not_lt]

theorem shfl_crossLane {f : FArgs} {c : CrossRow} (h : crossRow (.shfl f) = some c) : CrossLane (.shfl f) c := by
  cases h
  refine crossLane_of_exec (fun _ _ _ _ _ => rfl) (fun w sp => ?_) (leavesRow_putStatus rfl rfl (fun w sp m i => ?_) (fun w sp => ?_))
  · simp only [shflLane_eq_shuffled]
  · simp only [shflLane_eq_shuffled]
    rfl
  · simp only [shflLane_eq_shuffled, shflStatus_eq_strange]

theorem shflv_crossLane {f : FArgs} {c : CrossRow} (h : crossRow (.shflv f) = some c) : CrossLane (.shflv f) c := by
  cases h
  refine crossLane_of_exec (fun _ _ _ _ _ => rfl) (fun _ _ => rfl) (leavesRow_putStatus rfl rfl (fun w sp m i => ?_) (fun w sp => ?_))
  · change [match entry w _ with | some k => laneA f w sp m i k | none => 0] = [match entry w _ with | some k => _ | none => _]
    cases entry w ((f.srcB w i).toNat % 64) <;> rfl
  · refine congrArg some (congrArg _ (funext fun l => congrArg _ ?_))
    change ((entry w ((f.srcB w l).toNat % 64)).map (shflStatus w sp)).getD true = _
    cases entry w ((f.srcB w l).toNat % 64) with
    | none => rfl
    | some j => exact shflStatus_eq_strange w sp j

/-! ## QSWAP, QBCAST and the derivatives (07 R167, R168) -/

/-- The first lane of a quad. -/
theorem sub_mod_four (i : Nat) : i - i % 4 = 4 * (i / 4) := by omega

theorem qswap_crossLane {f : FArgs} {c : CrossRow} (h : crossRow (.qswap f) = some c) : CrossLane (.qswap f) c := by
  cases h
  exact crossLane_of_exec (fun _ _ _ _ _ => rfl) (fun _ _ => rfl)
    (leavesRow_putD rfl (fun _ _ => rfl) (fun _ _ => rfl) (fun _ _ _ _ => rfl))

theorem qbcast_crossLane {f : FArgs} {c : CrossRow} (h : crossRow (.qbcast f) = some c) : CrossLane (.qbcast f) c := by
  cases h
  refine crossLane_of_exec (fun _ _ _ _ _ => rfl) (fun w sp => ?_)
    (leavesRow_putD rfl (fun _ _ => rfl) (fun _ _ => rfl) (fun w sp m i => ?_))
  · simp only [sub_mod_four]
  · simp only [sub_mod_four]
    rfl

/-- The row of a derivative between the lanes `hi` and `lo` of a quad. -/
def derivativeRow (op : FOp) (f : FArgs) (hi lo : Nat → Nat) : CrossRow where
  op := op
  f := f
  width := 4
  lanes := run f
  res := fun w sp n i => [toF32 (mode f sp) (Val.add (mode f sp).isRd (f32 (w.fetch sp (n + 2 * i) f.a.toNat i (4 * (i / 4) + hi i)))
    (f32 (w.fetch sp (n + 2 * i + 1) f.a.toNat i (4 * (i / 4) + lo i))).negate)]
  from_ := fun w sp => (lanesOf (run f w sp)).flatMap (fun i => [4 * (i / 4) + hi i, 4 * (i / 4) + lo i])

theorem derivative_crossLane {i : Instr} {op : FOp} {f : FArgs} {hi lo : Nat → Nat} (hexec : ∀ s, exec i s = .next (s.derivative op f hi lo)) :
    CrossLane i (derivativeRow op f hi lo) := by
  refine crossLane_of_exec (fun s _ _ _ _ => hexec s) (fun w sp => ?_)
    (leavesRow_putD rfl (fun _ _ => rfl) (fun _ _ => rfl) (fun w sp m i => ?_))
  · simp only [sub_mod_four]
    rfl
  · simp only [sub_mod_four]
    rfl

theorem ddx_crossLane {f : FArgs} {c : CrossRow} (h : crossRow (.ddx f) = some c) : CrossLane (.ddx f) c := by
  have hrow := derivative_crossLane (i := .ddx f) fun _ => rfl
  simp only [derivativeRow, mul_ite, Nat.mul_zero, Nat.add_assoc] at hrow
  cases h
  simpa only [Nat.add_assoc] using hrow

theorem ddy_crossLane {f : FArgs} {c : CrossRow} (h : crossRow (.ddy f) = some c) : CrossLane (.ddy f) c := by
  have hrow := derivative_crossLane (i := .ddy f) fun _ => rfl
  simp only [derivativeRow, Nat.add_assoc, Nat.add_comm 2] at hrow
  cases h
  simpa only [Nat.add_assoc, Nat.add_comm 2] using hrow

/-! ## Contributors (07 R163) -/

theorem contributors_getLsbD (f : FArgs) (w : Wave) (sp : Split) (j : Nat) :
    (w.contributors sp f (run f w sp)).getLsbD j = contributes f w sp j := by
  by_cases hj : j < 64
  · simp [Wave.contributors, contributes, hj]
  · simp [contributes, BitVec.getLsbD_of_ge _ _ (Nat.not_lt.1 hj)]

theorem lanesOf_contributors (f : FArgs) (w : Wave) (sp : Split) :
    lanesOf (w.contributors sp f (run f w sp)) = (List.range 64).filter (contributes f w sp) :=
  List.filter_congr fun j _ => contributors_getLsbD f w sp j

theorem inSegment_eq_group (f : FArgs) (w : Wave) (sp : Split) (i : Nat) :
    inSegment f w.width (w.contributors sp f (run f w sp)) i = group f w sp i := by
  rw [inSegment, lanesOf_contributors, List.filter_filter]
  exact List.filter_congr fun _ _ => Bool.and_comm ..

/-- Contributors lie in run, so those of run or Cset are those of run. -/
theorem contributors_or_run (f : FArgs) (w : Wave) (sp : Split) : w.contributors sp f (run f w sp) ||| run f w sp = run f w sp := by
  refine BitVec.eq_of_getLsbD_eq fun l _ => ?_
  rw [BitVec.getLsbD_or, contributors_getLsbD, contributes]
  cases (run f w sp).getLsbD l <;> simp

/-! ## VOTE, SCAN and RED (07 R169, R170) -/

/-- The predicates of a segment are all true where none of them is false, and equal where not both values occur. -/
theorem vote_crossLane {f : FArgs} {c : CrossRow} (h : crossRow (.vote f) = some c) : CrossLane (.vote f) c := by
  cases h
  refine crossLane_of_exec (fun _ _ _ _ _ => rfl) (lanesOf_contributors f) (leavesRow_setMask rfl fun w sp => ?_)
  refine congrArg some (congrArg _ (funext fun l => congrArg _ ?_))
  simp only [inSegment_eq_group, contributors_getLsbD, FArgs.cond, List.contains_map, List.all_eq_not_any_not, Bool.true_beq, Bool.false_beq,
    Bool.not_not]
  match f.d.toNat / 8 with
  | 0 | 1 | _ + 3 => rfl
  | 2 => exact (Bool.or_comm ..).trans (Bool.not_and ..).symm

theorem scanOp_eq_combination (op ty : Nat) : scanOp op ty = combination op ty := by
  match op, ty with
  | 0, _ | 3, _ | 4, _ | 5, _ | _ + 6, _ => rfl
  | 1, 0 | 1, _ + 1 | 2, 0 | 2, _ + 1 =>
    refine Prod.ext rfl (funext fun a => funext fun b => ?_)
    simp only [scanOp, combination, minS, minU, maxS, maxU, BitVec.slt_eq_decide, BitVec.ult_eq_decide]
    simp

theorem combine_eq_combined (op ty : Nat) (xs : List Word) : combine op ty xs = combined op ty xs := by
  rw [combined]
  split
  · rfl
  · next h => rw [combine.eq_def, if_neg h, scanOp_eq_combination]

theorem scan_crossLane {f : FArgs} {c : CrossRow} (h : crossRow (.scan f) = some c) : CrossLane (.scan f) c := by
  cases h
  refine crossLane_of_exec (fun _ _ _ _ _ => rfl) (lanesOf_contributors f)
    (leavesRow_putD rfl (fun _ _ => rfl) (fun _ _ => rfl) (fun w sp m i => ?_))
  simp only [inSegment_eq_group, combine_eq_combined, decide_eq_true_eq]

theorem red_crossLane {f : FArgs} {c : CrossRow} (h : crossRow (.red f) = some c) : CrossLane (.red f) c := by
  cases h
  refine crossLane_of_exec (fun _ _ _ _ _ => rfl) (lanesOf_contributors f)
    (leavesRow_putD rfl (fun _ _ => rfl) (fun _ _ => rfl) (fun w sp m i => ?_))
  simp only [inSegment_eq_group, combine_eq_combined]

/-! ## MATCH (07 R171) -/

theorem foldl_or_laneBit_getLsbD (xs : List Nat) (m : Dword) {l : Nat} (hl : l < 64) :
    (xs.foldl (fun m j => m ||| laneBit j) m).getLsbD l = (m.getLsbD l || xs.contains l) := by
  induction xs generalizing m with
  | nil => simp
  | cons x xs ih => rw [List.foldl_cons, ih, BitVec.getLsbD_or, laneBit_getLsbD hl, Bool.or_assoc, List.contains_cons, beq_eq_decide]

/-- The mask of the lanes of a list that meet a test. -/
theorem foldl_or_laneBit_filter (xs : List Nat) (p : Nat → Bool) :
    (xs.filter p).foldl (fun m j => m ||| laneBit j) 0 = maskWhere (fun j => xs.contains j && p j) := by
  refine BitVec.eq_of_getLsbD_eq fun l hl => ?_
  rw [foldl_or_laneBit_getLsbD _ _ hl, maskWhere_getLsbD _ hl]
  simp

theorem v2_eq_iff (w : Wave) (r i j : Nat) : w.v2 r i = w.v2 r j ↔ w.v r i = w.v r j ∧ w.v (r + 1) i = w.v (r + 1) j := by
  refine ⟨fun h => ⟨?_, ?_⟩, fun ⟨hlo, hhi⟩ => by rw [Wave.v2, hlo, hhi, Wave.v2]⟩
  · simpa only [Wave.v2, pairOf, loWord, hiWord, BitVec.extractLsb'_append_eq_right] using congrArg loWord h
  · simpa only [Wave.v2, pairOf, loWord, hiWord, BitVec.extractLsb'_append_eq_left] using congrArg hiWord h

theorem setWidth_sixtyFour_eq_iff (a b : Word) : a.setWidth 64 = b.setWidth 64 ↔ a = b :=
  ⟨fun h => by simpa using congrArg (BitVec.setWidth 32) h, congrArg _⟩

theorem laneMatch_crossLane {f : FArgs} {c : CrossRow} (h : crossRow (.laneMatch f) = some c) : CrossLane (.laneMatch f) c := by
  cases h
  refine crossLane_of_exec (fun _ _ _ _ _ => rfl) (fun w sp => congrArg lanesOf (contributors_or_run f w sp)) fun s a gs n w sp m => ?_
  refine (State.reissued_onIssuer ..).trans (congrArg (s.reissued · gs n) (congrArg (a.writeVs _ _ _ _) (funext fun i => ?_)))
  simp only [inSegment_eq_group, foldl_or_laneBit_filter]
  refine congrArg words2 (congrArg maskWhere (funext fun j => congrArg _ ?_))
  obtain hb | hb := Nat.mod_two_eq_zero_or_one f.b.toNat
  · simp [hb, setWidth_sixtyFour_eq_iff]
  · simp [hb, v2_eq_iff]

/-! ## RDLANE and WRLANE (07 R172) -/

/-- A literal index within the segment is no stop. -/
theorem State.indexed_of_lt {s : State} {f : FArgs} {w : Wave} {sp : Split} (hi : s.issuing = some (w, sp)) (h : f.dist < segment f w)
    (act : State) : s.indexed f act = act := by
  rw [State.indexed, hi]
  exact if_neg (Nat.not_le.2 h)

theorem execRdlane_eq {f : FArgs} {s : State} {w : Wave} {sp : Split} (hi : s.issuing = some (w, sp))
    (h : f.bs = false → f.dist < segment f w) : execRdlane f s = .next (s.gatherLane .rdlane f (segWidth f) (fun w i =>
      f.base w.width i + if f.bs then (f.srcB w 0).toNat % 64 % f.seg w.width else f.dist)) := by
  refine congrArg Host.Outcome.next ?_
  cases hbs : f.bs with
  | true => rfl
  | false => exact State.indexed_of_lt hi (h hbs) _

theorem rdlane_crossLane {f : FArgs} {c : CrossRow} (h : crossRow (.rdlane f) = some c) : CrossLane (.rdlane f) c := by
  cases h
  exact crossLane_of_exec (fun _ _ _ hi hidx => execRdlane_eq hi fun hbs => hidx (.inr ⟨rfl, hbs⟩)) (fun _ _ => rfl)
    (leavesRow_putD rfl (fun _ _ => rfl) (fun _ _ => rfl) (fun _ _ _ _ => rfl))

theorem execWrlane_eq {f : FArgs} {s : State} {w : Wave} {sp : Split} (hi : s.issuing = some (w, sp)) (h : f.dist < segment f w) :
    execWrlane f s = .next (s.cross .wrlane f (segWidth f) (fun _ _ _ => []) (fun w sp run _ s =>
      s.putD sp (maskWhere (fun i => run.getLsbD i && decide (i = f.base w.width i + f.dist))) f (fun _ => f.srcB w 0))) :=
  congrArg Host.Outcome.next (State.indexed_of_lt hi h _)

theorem wrlane_crossLane {f : FArgs} {c : CrossRow} (h : crossRow (.wrlane f) = some c) : CrossLane (.wrlane f) c := by
  cases h
  exact crossLane_of_exec (fun _ _ _ hi hidx => execWrlane_eq hi (hidx (.inl rfl))) (fun _ _ => rfl)
    (leavesRow_putD rfl (fun _ _ => rfl) (fun _ _ => by simp only [base_eq_segBase]; rfl) (fun _ _ _ _ => rfl))

/-! ## All of them -/

theorem crossLane_of_crossRow {i : Instr} {c : CrossRow} (h : crossRow i = some c) : CrossLane i c := by
  unfold crossRow at h
  split at h
  case h_13 => cases h
  exacts [shfl_crossLane h, shflv_crossLane h, qswap_crossLane h, qbcast_crossLane h, ddx_crossLane h, ddy_crossLane h, vote_crossLane h,
    scan_crossLane h, red_crossLane h, laneMatch_crossLane h, rdlane_crossLane h, wrlane_crossLane h]

/-- Settles O6, opcode by opcode: each writes what its row says of what its lanes read of each other, and what a lane reads in another
depends on where that lane stands. -/
theorem crossLaneOpcodes : Obligations.CrossLaneOpcodes :=
  ⟨fun _ _ => crossLane_of_crossRow, fun _ _ n r i _ => ⟨Wave.fetch_of_width_le n r i, Wave.fetch_of_exited n r i,
    Wave.fetch_of_mem_split n r i, Wave.fetch_of_other_split n r i⟩⟩

end Sys2Proof.Machine

/-! The issue of an instruction that names scalars alone (05 R123, R130), shared by the barrier instructions of O29: it leaves the groups as
they are, and another instruction that writes the same scalar issues in the state it leaves. -/

namespace Sys2Proof.Machine

open Sys2Proof.Claims

/-! ## The place of a scalar (05 R123, R124) -/

/-- An instruction that names scalar `d` alone, to write it, meets no limit in a wave (05 R123). -/
def Wave.HasPlace (w : Wave) (d : Nat) : Prop :=
  (w.sres < w.smax → 0 < w.sres) ∧ (w.blocksBound ++ [d / 4]).eraseDups.length ≤ (w.smax + 3) / 4

/-- The limits on scalars of a wave, and the blocks bound in it, have stayed as they were. -/
structure Wave.SamePlaces (w a : Wave) : Prop where
  sres : a.sres = w.sres
  smax : a.smax = w.smax
  blocks : a.blocksBound = w.blocksBound

theorem Wave.SamePlaces.trans {a b c : Wave} (h : a.SamePlaces b) (k : b.SamePlaces c) : a.SamePlaces c :=
  ⟨k.sres.trans h.sres, k.smax.trans h.smax, k.blocks.trans h.blocks⟩

theorem Wave.samePlaces_vspilled (w : Wave) (t : Table Bool) : w.SamePlaces { w with vspilled := t } := ⟨rfl, rfl, rfl⟩

theorem Wave.samePlaces_sspilled (w : Wave) (t : Table Bool) : w.SamePlaces { w with sspilled := t } := ⟨rfl, rfl, rfl⟩

theorem Wave.SamePlaces.refl (w : Wave) : w.SamePlaces w := ⟨rfl, rfl, rfl⟩

theorem Wave.makeRoomV_samePlaces (room need : Nat → Nat) (keep : List Nat) (n : Nat) (w : Wave) :
    w.SamePlaces (Wave.makeRoomV room need keep n w) := by
  induction n generalizing w with
  | zero => exact .refl w
  | succ n ih =>
    rw [Wave.makeRoomV]
    split
    · exact .refl w
    · split
      · exact .refl w
      · exact (Wave.samePlaces_vspilled ..).trans (ih _)

theorem Wave.makeRoomS_samePlaces (room need : Nat) (keep : List Nat) (n : Nat) (w : Wave) :
    w.SamePlaces (Wave.makeRoomS room need keep n w) := by
  induction n generalizing w with
  | zero => exact .refl w
  | succ n ih =>
    rw [Wave.makeRoomS]
    split
    · exact .refl w
    · split
      · exact .refl w
      · exact (Wave.samePlaces_sspilled ..).trans (ih _)

/-- The reload of spilled names moves no place (05 R124). -/
theorem State.reload_samePlaces (s : State) (c i : Nat) (w : Wave) (u : Uses) : w.SamePlaces (s.reload c i w u) := by
  unfold State.reload
  extract_lets back need roomV x sback roomS
  have hx : w.SamePlaces x := by
    unfold x
    split
    · exact .refl w
    · exact (Wave.makeRoomV_samePlaces ..).trans (Wave.samePlaces_vspilled ..)
  split
  · exact hx
  · exact hx.trans ((Wave.makeRoomS_samePlaces ..).trans (Wave.samePlaces_sspilled ..))

theorem State.makeRoom_samePlaces (s : State) (c i : Nat) (w : Wave) (qs : List Nat) (u : Uses) : w.SamePlaces (s.makeRoom c i w qs u) := by
  unfold State.makeRoom
  extract_lets need x fresh
  have hx : w.SamePlaces x := by
    unfold x
    split
    · exact .refl w
    · exact Wave.makeRoomV_samePlaces ..
  split
  · exact hx
  · exact hx.trans (Wave.makeRoomS_samePlaces ..)

theorem Wave.noteSeen_samePlaces (w : Wave) (k m : Nat) (names : List Nat) : w.SamePlaces (w.noteSeen k m names) := by
  unfold Wave.noteSeen
  split <;> exact ⟨rfl, rfl, rfl⟩

theorem Wave.HasPlace.of_samePlaces {w a : Wave} {d : Nat} (h : w.HasPlace d) (ha : w.SamePlaces a) : a.HasPlace d := by
  rwa [Wave.HasPlace, ha.sres, ha.smax, ha.blocks]

theorem Wave.sansRegs_limits {w a : Wave} (h : a.sansRegs = w.sansRegs) : a.sres = w.sres ∧ a.smax = w.smax :=
  ⟨(congrArg Wave.sres h :), (congrArg Wave.smax h :)⟩

/-- An instruction that writes scalar `d` leaves its wave with a place for it. -/
theorem State.prepare_hasPlace {s : State} {c i d : Nat} {w w' : Wave} {sp : Split} {u : Uses} (h : s.prepare c i w sp u = .ok w')
    (hd : u.sw = [d]) : w'.HasPlace d := by
  obtain ⟨hsres, hsmax⟩ := Wave.sansRegs_limits (State.prepare_ok h).1
  unfold State.prepare at h
  split at h
  · cases h
  next hlim =>
  split at h
  · cases h
  extract_lets a b z y at h
  split at h
  · cases h
  next hroom =>
  have hz : z.SamePlaces w' := by
    cases h
    exact (State.makeRoom_samePlaces ..).trans ⟨rfl, rfl, rfl⟩
  have hpos : 0 < u.blocks.length := List.length_pos_of_mem (a := d / 4) (by simp [Uses.blocks, hd])
  refine ⟨fun hres => ?_, ?_⟩
  · rw [hsres, hsmax] at hres
    rw [hsres]
    by_contra hzero
    exact hlim (.inr ⟨hres, by omega⟩)
  · rw [hz.blocks, hz.smax]
    rw [hd] at hroom
    exact Nat.not_lt.1 fun hlt => hroom (.inr ⟨by simp, hlt⟩)

/-- An instruction that names a scalar alone, to write it, meets no limit where it has a place. -/
theorem State.prepare_of_hasPlace (s : State) (c i : Nat) {w : Wave} (sp : Split) {d : Nat} (h : w.HasPlace d) :
    ∃ w', s.prepare c i w sp { sw := [d] } = .ok w' := by
  obtain ⟨-, hroom⟩ := h.of_samePlaces (s.reload_samePlaces c i w { sw := [d] })
  have hlim : ¬ ((w.vres < w.vmax ∧ w.vres < ({ sw := [d] } : Uses).vnames.length) ∨
      (w.sres < w.smax ∧ (w.sres + 3) / 4 < ({ sw := [d] } : Uses).blocks.length)) := by
    rintro (⟨-, hv⟩ | ⟨hs, hb⟩)
    · exact Nat.not_lt_zero _ hv
    · have hone : ({ sw := [d] } : Uses).blocks.length = 1 := rfl
      have hres := h.1 hs
      omega
  have hpoison : ¬ w.readsPoison sp { sw := [d] } = true := by simp [Wave.readsPoison, Wave.poisonIn]
  unfold State.prepare
  simp only [if_neg hlim, if_neg hpoison, List.foldl_nil, List.foldl_fixed]
  rw [if_neg]
  · exact ⟨_, rfl⟩
  · rintro (⟨hv, -⟩ | ⟨-, hs⟩)
    · exact hv rfl
    · exact Nat.not_lt.2 hroom hs

/-! ## The issuing wave as an instruction on scalars changes it -/

/-- Wave `b` is `w` but for its registers and its split `k`, which is `y` but for what it has seen of scalars; vector registers read
the same. -/
structure Wave.Amid (w b : Wave) (k : Nat) (y : Split) : Prop where
  rest : ∀ p q : Split, p.sansSeen = q.sansSeen → (b.setSplit k (some p)).sansRegs = (w.setSplit k (some q)).sansRegs
  split : ∃ x, b.split k = some x ∧ x.sansSeen = y.sansSeen
  v : ∀ r l, l < 64 → b.v r l = w.v r l

theorem Wave.Amid.refl {w : Wave} {k : Nat} {y : Split} (h : w.split k = some y) : w.Amid w k y :=
  ⟨fun _ _ => Wave.setSplit_sansRegs rfl k, ⟨y, h, rfl⟩, fun _ _ _ => rfl⟩

/-- A change to registers that vector registers do not show. -/
theorem Wave.Amid.of_sansRegs {w b c : Wave} {k : Nat} {y : Split} (h : w.Amid b k y) (hr : c.sansRegs = b.sansRegs)
    (hv : ∀ r l, l < 64 → c.v r l = b.v r l) : w.Amid c k y where
  rest p q hpq := (Wave.setSplit_sansRegs hr k rfl).trans (h.rest p q hpq)
  split := by
    obtain ⟨x, hx, hxy⟩ := h.split
    obtain ⟨z, hz, hzx⟩ := Wave.sansRegs_splitSome hr hx
    exact ⟨z, hz, hzx.trans hxy⟩
  v r l hl := (hv r l hl).trans (h.v r l hl)

theorem Wave.Amid.writeSs {w b : Wave} {k : Nat} {y : Split} (h : w.Amid b k y) (n : Nat) (xs : List Word) : w.Amid (b.writeSs k n xs) k y :=
  h.of_sansRegs (Wave.writeSs_ok ..).1 fun r l _ => (Wave.writeSs_ok ..).2.1 r l

theorem Wave.onSplit_s (w : Wave) (k : Nat) (f : Split → Split) (n : Nat) : (w.onSplit k f).s n = w.s n := by
  unfold Wave.onSplit
  split <;> rfl

section
variable {w b : Wave} {k : Nat} {y : Split} {g : Split → Split}

/-- The split changes by a function that does not look at what it has seen of scalars. -/
theorem Wave.Amid.onSplit (h : w.Amid b k y) (hg : ∀ x y : Split, x.sansSeen = y.sansSeen → (g x).sansSeen = (g y).sansSeen) :
    w.Amid (b.onSplit k g) k (g y) := by
  obtain ⟨x, hx, hxy⟩ := h.split
  rw [Wave.onSplit, hx]
  exact ⟨fun p q hpq => by rw [Wave.setSplit_setSplit]; exact h.rest p q hpq, ⟨g x, Wave.setSplit_split_self .., hg x y hxy⟩, h.v⟩

/-- The same in the words of the statements. -/
theorem Wave.Amid.onlyRegisters (h : w.Amid b k y) (hg : ∀ x y : Split, x.sansSeen = y.sansSeen → (g x).sansSeen = (g y).sansSeen) :
    OnlyRegisters w (b.onSplit k g) k (g y) := by
  obtain ⟨x, hx, hxy⟩ := h.split
  rw [OnlyRegisters, Wave.onSplit, hx]
  exact h.rest _ _ (hg x y hxy)
end

/-! ## Issue -/

theorem State.reissued_reissued (s : State) (v x : Wave) (gs hs : Table (Option Group)) (n m : Nat) :
    (s.reissued v gs n).reissued x hs m = s.reissued x hs m := by
  simp [State.reissued, State.setWave, Table.set_set]

theorem State.issueWith_of_issues {s : State} {u : Uses} {w : Wave} {sp : Split} (h : Issues s u w sp) :
    ∃ w', s.prepare s.cur.core s.cur.wave w sp u = .ok w' ∧ ∀ act, s.issueWith u act = act (w.seen sp s.free) sp (s.readied u w w') := by
  obtain ⟨-, hi, hb, w', hp⟩ := h
  exact ⟨w', hp, fun act => State.issueWith_ok act hi hb hp⟩

theorem State.whenIssuable_of_issues {s : State} {u : Uses} {w : Wave} {sp : Split} (h : Issues s u w sp) (act : State → State) :
    s.whenIssuable u act = act s := by
  obtain ⟨w', -, he⟩ := State.issueWith_of_issues h
  rw [State.whenIssuable, he]

/-- An instruction that writes and frees no vector register breaks no MMA's window (10 R230). -/
theorem State.readied_of_noVector (s : State) {u : Uses} (w w' : Wave) (hv : u.vw = []) (hf : u.vfree = []) :
    ∃ n, s.readied u w w' = s.reissued (w'.noteSeen s.cur.split s.free u.sr) s.groups n := by
  have hmiss : (fun x : MmaWindow => x.hit (u.vw ++ u.vfree)) = fun _ => false := by
    funext x
    simp [MmaWindow.hit, hv, hf]
  have hkeep : (s.setWave s.cur.core s.cur.wave (some (w'.noteSeen s.cur.split s.free u.sr))).breakWindows s.cur.core s.cur.wave
      (fun x => x.hit (u.vw ++ u.vfree)) = s.reissued (w'.noteSeen s.cur.split s.free u.sr) s.groups s.free := by
    rw [hmiss, State.setWave_reissued, State.breakWindows, State.reissued_wave]
    simp [State.onWave]
  rw [State.readied, hkeep]
  split <;> exact ⟨_, rfl⟩

/-- Wave `b` is `w` as an instruction that names `u`, scalars alone, and writes scalar `d` acts from it: its marks have acted, and there is a
place for `d`. -/
structure Wave.Prepared (w b : Wave) (k : Nat) (sp : Split) (u : Uses) (d : Nat) : Prop where
  amid : w.Amid b k sp
  scalars : ∀ j, b.s j = if j ∈ u.sfree then 0 else w.s j
  place : b.HasPlace d

/-- An instruction that writes scalar `d` and names no vector register acts from a state in which only its wave has changed. -/
theorem State.issueWith_prepared {s : State} {u : Uses} {w : Wave} {sp : Split} {d : Nat} (h : Issues s u w sp) (hv : u.vw = [])
    (hf : u.vfree = []) (hd : u.sw = [d]) : ∃ b n, w.Prepared b s.cur.split sp u d ∧
      ∀ act, s.issueWith u act = act (w.seen sp s.free) sp (s.reissued b s.groups n) := by
  obtain ⟨w', hp, he⟩ := State.issueWith_of_issues h
  obtain ⟨n, hn⟩ := s.readied_of_noVector w w' hv hf
  obtain ⟨hrest, hregs, hscal⟩ := State.prepare_ok hp
  refine ⟨w'.noteSeen s.cur.split s.free u.sr, n, ⟨?_, fun j => (Wave.noteSeen_s ..).trans (hscal j),
    (State.prepare_hasPlace hp hd).of_samePlaces (Wave.noteSeen_samePlaces ..)⟩, fun act => by rw [he, hn]⟩
  refine (Wave.Amid.refl (State.issuing_split h.2.1).2).of_sansRegs ((Wave.noteSeen_sansRegs ..).trans hrest) fun r l hl => ?_
  rw [Wave.noteSeen_v, hregs r l hl, hf]
  simp

/-- What stands against a write of scalar `d` alone is an operation whose result goes there (05 R130). -/
theorem Wave.busy_of_ops {w a : Wave} {sp x : Split} {u : Uses} {d : Nat} (h : w.busy sp u = false) (hd : u.sw = [d])
    (ha : a.ops = w.ops) : a.busy x { sw := [d] } = false := by
  rw [Wave.busy, Bool.or_eq_false_iff, List.any_eq_false, List.any_eq_false] at h ⊢
  refine ⟨fun o ho => ?_, fun e _ => ?_⟩
  · have hw := h.1 o (ha ▸ ho)
    cases hdst : o.dst with
    | none => simp
    | vec d n => simp
    | scal r n =>
      simp only [hdst, hd, List.any_append, Bool.or_eq_true, not_or] at hw ⊢
      obtain ⟨⟨-, hwrite⟩, -⟩ := hw
      exact ⟨⟨Bool.false_ne_true, hwrite⟩, Bool.false_ne_true⟩
  · cases e.2 <;> simp

/-- A write of scalar `d` alone issues in the state that an instruction which writes it acts from. -/
theorem Wave.Prepared.issues {s : State} {u : Uses} {w b : Wave} {sp x : Split} {d : Nat} (hb : w.Prepared b s.cur.split sp u d)
    (h : Issues s u w sp) (hd : u.sw = [d]) (hx : b.split s.cur.split = some x) (gs : Table (Option Group)) (n : Nat) :
    Issues (s.reissued b gs n) { sw := [d] } b x := by
  obtain ⟨hc, -, hbusy, -⟩ := h
  have hops : b.ops = w.ops := (congrArg Wave.ops (hb.amid.rest x x rfl) :)
  exact ⟨hc, by rw [State.reissued_issuing, hx, Option.map_some], Wave.busy_of_ops hbusy hd hops, State.prepare_of_hasPlace _ _ _ x hb.place⟩

end Sys2Proof.Machine

/-! Barriers (O29; 08 R185–R192): a group's barriers, what a barrier instruction writes of the issuing wave, and each instruction. -/

namespace Sys2Proof.Machine

open Sys2Proof.Claims

/-! ## The barriers of groups (08 R185) -/

/-- The groups `gs` are those of `s`, with the barrier at `p` set to `new`. -/
def State.BarrierSet (s : State) (gs : Table (Option Group)) (p : Nat × Nat) (new : Barrier) : Prop :=
  ∀ g, Table.get noneAt gs g =
    if g = p.1 then (s.group g).map (fun z => { z with barriers := z.barriers.set p.2 new }) else s.group g

section
variable {s : State} {p : Nat × Nat} {b : Barrier}

theorem State.barrier_eq_some (h : s.barrier p.1 p.2 = some b) : ∃ z, s.group p.1 = some z ∧ z.barriers[p.2]? = some b := by
  unfold State.barrier at h
  split at h
  · next z hz => exact ⟨z, hz, h⟩
  · cases h

theorem State.barrierSet_self (h : s.barrier p.1 p.2 = some b) : s.BarrierSet s.groups p b := by
  obtain ⟨z, hz, hb⟩ := State.barrier_eq_some h
  intro g
  split
  · next hg =>
    obtain ⟨hlt, rfl⟩ := List.getElem?_eq_some_iff.1 hb
    rw [hg, hz, Option.map_some, List.set_getElem_self]
    exact hz
  · rfl

/-- A barrier changes in the groups and nowhere else. -/
theorem State.reissued_onBarrier (h : s.barrier p.1 p.2 = some b) (f : Barrier → Barrier) :
    ∃ gs, s.BarrierSet gs p (f b) ∧ ∀ v n, (s.reissued v s.groups n).onBarrier p.1 p.2 f = s.reissued v gs n := by
  obtain ⟨z, hz, hb⟩ := State.barrier_eq_some h
  have hmod : z.barriers.modify p.2 f = z.barriers.set p.2 (f b) := by
    rw [List.modify_eq_set_getElem?, hb]
    rfl
  refine ⟨Table.set noneAt s.groups p.1 (some { z with barriers := z.barriers.set p.2 (f b) }), fun g => ?_, fun v n => ?_⟩
  · rw [Table.get_set]
    split
    · next hg => rw [hg, hz, Option.map_some]
    · rfl
  · have hz' : (s.reissued v s.groups n).group p.1 = some z := hz
    simp only [State.onBarrier, State.onGroup, hz', hmod]
    rfl

theorem State.BarrierSet.barrier {gs : Table (Option Group)} {new : Barrier} (hs : s.BarrierSet gs p new) (h : s.barrier p.1 p.2 = some b)
    (v : Wave) (n : Nat) : (s.reissued v gs n).barrier p.1 p.2 = some new := by
  obtain ⟨z, hz, hb⟩ := State.barrier_eq_some h
  have hg : (s.reissued v gs n).group p.1 = some { z with barriers := z.barriers.set p.2 new } := by
    rw [State.group, State.reissued_groups, hs p.1, if_pos rfl, hz, Option.map_some]
  obtain ⟨hlt, -⟩ := List.getElem?_eq_some_iff.1 hb
  simp only [State.barrier, hg]
  exact List.getElem?_set_self hlt
end

/-- An arrival in the words of the statement (08 R187). -/
theorem Barrier.arrive_eq_arrived {b : Barrier} (h : b.count.toNat < 4095) : b.arrive = arrived b := by
  have hle : b.expected ≤ b.count + 1 ↔ b.expected.toNat ≤ b.count.toNat + 1 := by
    rw [BitVec.le_def, BitVec.toNat_add_of_lt (by simpa using by omega)]
    rfl
  simp only [Barrier.arrive, arrived, hle]

/-- The token of BARR in the words of the statement (08 R189). -/
theorem token_eq (abandoned phase : Bool) : (if abandoned then 0x80000000 else 0 : Word) ||| boolWord phase =
    BitVec.ofNat 32 ((if abandoned then 0x80000000 else 0) + (if phase then 1 else 0)) := by
  cases abandoned <;> cases phase <;> decide

theorem toNat_append_eq_add {n m : Nat} (x : BitVec n) (y : BitVec m) : (x ++ y).toNat = x.toNat * 2 ^ m + y.toNat := by
  rw [BitVec.toNat_append, Nat.shiftLeft_eq, Nat.mul_comm, Nat.two_pow_add_eq_or_of_lt y.isLt]

/-- The state word in the words of the statement (08 R185, R189). -/
theorem Barrier.word_eq (b : Barrier) : b.word = BitVec.ofNat 32 ((if b.abandoned then 2 ^ 31 else 0) + (if b.isDefault then 2 ^ 30 else 0) +
    (if b.phase then 2 ^ 29 else 0) + b.count.toNat * 2 ^ 12 + b.expected.toNat) := by
  refine ((BitVec.ofNat_toNat 32 b.word).trans (BitVec.setWidth_eq _)).symm.trans (congrArg _ ?_)
  simp only [Barrier.word, toNat_append_eq_add, BitVec.toNat_ofBool]
  cases b.abandoned <;> cases b.isDefault <;> cases b.phase <;> simp <;> omega

/-- The abandonment of a barrier, before its phase, tells what becomes of a wait (08 R187, R192). -/
theorem Barrier.waited_of_abandoned {b : Barrier} (h : b.abandoned = true) (token : Bool) : b.waited token = some true := if_pos h

theorem Barrier.waited_of_flipped {b : Barrier} {token : Bool} (h : b.abandoned = false) (hp : b.phase ≠ token) :
    b.waited token = some false := by
  rw [Barrier.waited, h, if_neg Bool.false_ne_true, if_pos hp]

theorem Barrier.waited_of_phase {b : Barrier} {token : Bool} (h : b.abandoned = false) (hp : b.phase = token) : b.waited token = none := by
  rw [Barrier.waited, h, if_neg Bool.false_ne_true, if_neg (not_not.2 hp)]

/-! ## The issue of a barrier instruction (08 R186, R189, R190) -/

theorem refOf_eq_reference (a : SArgs) (r : Nat → Word) : refOf a r = reference a r := by
  unfold refOf reference
  split
  · exact BitVec.eq_of_toNat_eq (by simp)
  · rfl

/-- A split that fuses acts from the state that `Fuses` names (04 R99). -/
theorem State.forceFuse_of_fuses {s s' : State} (h : Fuses s s') (act : State → State) : s.forceFuse act = act s' := by
  obtain ⟨w, sp, hi, ⟨hrep, rfl⟩ | ⟨hrep, hsole, hspill, rfl⟩⟩ := h
  · rw [State.forceFuse, hi]
    exact if_pos hrep
  · simp only [State.forceFuse, hi]
    rw [if_neg (by simp [hrep]), if_pos hsole, hspill]

theorem State.atBarrier_acts {s s' : State} (h : AtBarrier s s') (act : State → State) : s.atBarrier act = act s' := by
  obtain ⟨w, sp, hi, ⟨hwait, rfl⟩ | ⟨hgo, hf⟩⟩ := h
  · rw [State.atBarrier, hi]
    exact if_pos hwait
  · simp only [State.atBarrier, hi]
    rw [if_neg hgo, State.forceFuse_of_fuses hf]

/-- A barrier instruction acts on the barrier that its reference names, and one that arrives once the release may be performed. -/
theorem State.withBarrier_acts {s : State} {a : SArgs} {b arrives : Bool} {w : Wave} {sp : Split} {p : Nat × Nat} {bar : Barrier}
    (hi : Issues s (barUses a b) w sp) (hn : Names s w sp a p bar)
    (hr : arrives = true → s.mayRelease (refScope (reference a (w.seen sp s.free).s)) = true)
    (act : (Nat → Word) → Nat × Nat → Barrier → Nat → State → State) :
    s.withBarrier a b arrives act =
      s.issueWith (barUses a b) (fun x _ t => act x.s p bar (refScope (reference a (w.seen sp s.free).s)) t) := by
  obtain ⟨href, hbar, -⟩ := hn
  have hissue := hi.2.1
  refine (State.whenIssuable_of_issues hi _).trans ?_
  simp only [hissue, refOf_eq_reference, href, hbar]
  refine (if_neg ?_).trans rfl
  cases arrives with
  | false => simp
  | true => simp [hr rfl]

/-- A wait that a split has begun is tested again. -/
theorem State.resumeWait_of_some {s : State} {a : SArgs} {w : Wave} {sp : Split} {x : BarWait} (h : s.issuing = some (w, sp))
    (hx : sp.bar = some x) (act : State → State) : s.resumeWait a act = s.waitOn a x := by
  simp only [State.resumeWait, h, hx]

theorem State.resumeWait_of_none {s : State} {a : SArgs} {w : Wave} {sp : Split} (h : s.issuing = some (w, sp)) (hx : sp.bar = none)
    (act : State → State) : s.resumeWait a act = act s := by
  simp only [State.resumeWait, h, hx]

/-! ## What a barrier instruction writes -/

/-- `t` is `s` with the groups `gs`, but for L1 lines that an acquire drops, the count of draws, and the issuing wave: it is `v`, in which
scalar `d` is `x`, the marked scalars `fr` read 0 and the split is `y`. -/
structure State.PutsScalar (s t : State) (gs : Table (Option Group)) (w v : Wave) (d : Nat) (fr : List Nat) (x : Word) (y : Split) : Prop where
  state : t = { s.reissued v gs t.free with cores := t.cores }
  cores : ∀ c, t.core c = { s.core c with l1 := (t.core c).l1 }
  rest : OnlyRegisters w v s.cur.split y
  vector : ∀ r l, l < 64 → v.v r l = w.v r l
  scalars : ∀ k, v.s k = if k = d then x else if k ∈ fr then 0 else w.s k

theorem State.PutsScalar.barrierStep {s t : State} {gs : Table (Option Group)} {w v : Wave} {a : SArgs} {u : Uses} {x : Word} {y : Split}
    {p : Nat × Nat} {new : Barrier} (h : s.PutsScalar t gs w v a.d.toNat u.sfree x y) (hs : s.BarrierSet gs p new) :
    BarrierStep s t w v a u x y p new := by
  obtain ⟨hstate, hcores, hrest, hv, hscal⟩ := h
  refine ⟨s.reissued v s.groups t.free, ⟨s.groups, t.free, rfl, fun _ => rfl⟩, hrest, hv, hscal, ?_, fun g => ?_, hcores⟩
  · rw [hstate]
    rfl
  · rw [hstate]
    exact hs g

theorem Split.past_congr (s : State) {x y : Split} (h : x.sansSeen = y.sansSeen) : (past s x).sansSeen = (past s y).sansSeen :=
  Split.retire_congr h ..

section
variable {s : State} {w b : Wave} {y : Split} {fr : List Nat}

/-- A write of D, and the split past its instruction. -/
theorem putsScalar_putAdvance (hc : s.cur.svc = none) (hb : w.Amid b s.cur.split y) (hs : ∀ j, b.s j = if j ∈ fr then 0 else w.s j)
    (gs : Table (Option Group)) (n d : Nat) (x : Word) :
    ∃ v, s.PutsScalar (((s.reissued b gs n).putScalars d [x]).advance) gs w v d fr x (past s y) := by
  rw [State.reissued_putAdvance gs n d [x] hc]
  have hput := hb.writeSs d [x]
  refine ⟨(b.writeSs s.cur.split d [x]).onSplit s.cur.split (past s), rfl, fun _ => rfl, hput.onlyRegisters fun _ _ => Split.past_congr s,
    (hput.onSplit fun _ _ => Split.past_congr s).v, fun k => ?_⟩
  rw [Wave.onSplit_s, (Wave.writeSs_ok ..).2.2.1, hs, List.length_singleton]
  have hk : d ≤ k ∧ k < d + 1 ↔ k = d := by omega
  simp only [hk]
  split
  · next h => simp [h]
  · rfl

/-- What happens in the state that an instruction acts from happens to the state in which it issues. -/
theorem State.PutsScalar.of_prepared {t : State} {gs : Table (Option Group)} {u : Uses} {v : Wave} {n d : Nat} {x : Word} {z z' : Split}
    (h : (s.reissued b gs n).PutsScalar t gs b v d [] x z') (hz : z'.sansSeen = z.sansSeen) (hb : w.Prepared b s.cur.split y u d) :
    s.PutsScalar t gs w v d u.sfree x z where
  state := by rw [← State.reissued_reissued s b v gs gs n]; exact h.state
  cores := h.cores
  rest := h.rest.trans (hb.amid.rest _ _ hz)
  vector r l hl := (h.vector r l hl).trans (hb.amid.v r l hl)
  scalars k := by rw [h.scalars, hb.scalars]; rfl
end

/-- An acquire drops L1 lines (10 R224). -/
theorem State.PutsScalar.acquireAt {s t : State} {gs : Table (Option Group)} {w v : Wave} {d : Nat} {fr : List Nat} {x : Word} {y : Split}
    (h : s.PutsScalar t gs w v d fr x y) (core scope : Nat) : s.PutsScalar (t.acquireAt core scope) gs w v d fr x y := by
  unfold State.acquireAt
  split
  · exact h
  · obtain ⟨hstate, hcores, hrest, hv, hs⟩ := h
    refine ⟨?_, fun c => ?_, hrest, hv, hs⟩
    · rw [hstate]
      rfl
    · by_cases hc : c = core
      · rw [hc, State.core_onCore_self, hcores core]
      · rw [State.core_onCore_ne _ _ hc, hcores c]

/-! ## Waits (08 R187, R189, R190) -/

/-- A split that waits no longer. -/
def Split.endBar (sp : Split) : Split := { sp with state := 0, bar := none }

/-- A split that waits on a barrier. -/
def Split.waitBar (x : BarWait) (sp : Split) : Split := { sp with state := 2, bar := some x }

theorem Split.endBar_congr (x y : Split) (h : x.sansSeen = y.sansSeen) : x.endBar.sansSeen = y.endBar.sansSeen := congrArg Split.endBar h

theorem Split.waitBar_congr (b : BarWait) (x y : Split) (h : x.sansSeen = y.sansSeen) : (x.waitBar b).sansSeen = (y.waitBar b).sansSeen :=
  congrArg (Split.waitBar b) h

/-- A wait ends with its status in D. -/
theorem State.endWait_puts {s : State} {a : SArgs} {w : Wave} {sp : Split} (h : Issues s { sw := [a.d.toNat] } w sp) (scope : Nat) (st : Bool) :
    ∃ v, s.PutsScalar (s.endWait a scope st) s.groups w v a.d.toNat [] (boolWord st) (past s sp.endBar) := by
  obtain ⟨b, n, hb, he⟩ := State.issueWith_prepared h rfl rfl rfl
  obtain ⟨v, hv⟩ := putsScalar_putAdvance (fr := []) h.1 (hb.amid.onSplit Split.endBar_congr)
    (fun j => (Wave.onSplit_s ..).trans (hb.scalars j)) s.groups n a.d.toNat (boolWord st)
  refine ⟨v, ?_⟩
  rw [State.endWait, he]
  change s.PutsScalar (if st = true then _ else _) _ _ _ _ _ _ _
  rw [State.reissued_onIssuingSplit]
  split
  · exact hv
  · exact hv.acquireAt ..

/-- A wait is over once its phase has flipped, and with status 1 once its barrier is abandoned before. -/
theorem State.waitOn_ends {s : State} {x : BarWait} {b : Barrier} {st : Bool} (a : SArgs) (hb : s.barrier x.grp x.index = some b)
    (h : (x.flipped = true ∧ st = false) ∨ (x.flipped = false ∧ b.waited x.token = some st)) :
    ∃ scope, s.waitOn a x = s.endWait a scope st := by
  refine ⟨if x.cluster then 3 else 2, ?_⟩
  obtain ⟨hf, rfl⟩ | ⟨hf, hw⟩ := h
  · rw [State.waitOn, if_pos hf]
  · simp only [State.waitOn, hf, hb, hw]
    rfl

theorem State.waitOn_waits {s : State} {x : BarWait} {b : Barrier} (a : SArgs) (hf : x.flipped = false)
    (hb : s.barrier x.grp x.index = some b) (hw : b.waited x.token = none) : s.waitOn a x = s.onIssuingSplit (Split.waitBar x) := by
  simp only [State.waitOn, hf, hb, hw]
  rfl

section
variable {s : State} {a : SArgs} {u : Uses} {w b : Wave} {sp : Split} {p : Nat × Nat} {old new : Barrier} {gs : Table (Option Group)}
  {token cluster : Bool}

/-- An instruction's own test of its barrier, which is `new` by then, ends its wait. -/
theorem barrierStep_of_waitOn {st : Bool} (h : Issues s u w sp) (hd : u.sw = [a.d.toNat]) (hb : w.Prepared b s.cur.split sp u a.d.toNat)
    (hset : s.BarrierSet gs p new) (hbar : s.barrier p.1 p.2 = some old) (hw : new.waited token = some st) (n : Nat) :
    ∃ v, BarrierStep s ((s.reissued b gs n).waitOn a ⟨p.1, p.2, token, cluster, false⟩) w v a u (boolWord st) (past s sp.endBar) p new := by
  obtain ⟨x, hx, hxs⟩ := hb.amid.split
  obtain ⟨scope, he⟩ := State.waitOn_ends (x := ⟨p.1, p.2, token, cluster, false⟩) a (hset.barrier hbar b n) (.inr ⟨rfl, hw⟩)
  obtain ⟨v, hv⟩ := State.endWait_puts (hb.issues h hd hx gs n) scope st
  rw [he]
  exact ⟨v, (hv.of_prepared (Split.past_congr s (Split.endBar_congr _ _ hxs)) hb).barrierStep hset⟩

/-- An instruction's own test of its barrier, which is `new` by then, begins a wait. -/
theorem waitOn_reissued (hset : s.BarrierSet gs p new) (hbar : s.barrier p.1 p.2 = some old) (hw : new.waited token = none) (n : Nat) :
    (s.reissued b gs n).waitOn a ⟨p.1, p.2, token, cluster, false⟩ =
      s.reissued (b.onSplit s.cur.split (Split.waitBar ⟨p.1, p.2, token, cluster, false⟩)) gs n :=
  (State.waitOn_waits a rfl (hset.barrier hbar b n) hw).trans (State.reissued_onIssuingSplit ..)
end

/-! ## BINIT, BARR and BQUERY (08 R189) -/

section
variable {a : SArgs} {s s' : State} {w : Wave} {sp : Split} {p : Nat × Nat} {b : Barrier}

theorem exec_binit (hi : Issues s (barUses a true) w sp) (hn : Names s w sp a p b) (hpos : 0 < ((w.seen sp s.free).s a.b.toNat).toNat)
    (hle : ((w.seen sp s.free).s a.b.toNat).toNat ≤ 4095) (hown : (reference a (w.seen sp s.free).s).extractLsb' 12 4 = 0) :
    exec (.binit a) s = .next (s.issueWith (barUses a true) (fun x _ t =>
      ((if b.abandoned then t else t.onBarrier p.1 p.2 (fun y =>
        { y with expected := (x.s a.b.toNat).extractLsb' 0 12, count := 0, isDefault := false })).putScalars a.d.toNat
          [boolWord b.abandoned]).advance)) := by
  have hissue := hi.2.1
  refine congrArg Host.Outcome.next ((State.whenIssuable_of_issues hi _).trans ?_)
  simp only [hissue, refOf_eq_reference]
  rw [if_neg, State.withBarrier_acts hi hn (fun h => absurd h Bool.false_ne_true)]
  rintro (hzero | hbig | hrank)
  · rw [hzero] at hpos
    exact absurd hpos (by decide)
  · omega
  · exact hrank (congrArg BitVec.toNat hown)

theorem binit_step (hi : Issues s (barUses a true) w sp) (hn : Names s w sp a p b) (hpos : 0 < ((w.seen sp s.free).s a.b.toNat).toNat)
    (hle : ((w.seen sp s.free).s a.b.toNat).toNat ≤ 4095) (hown : (reference a (w.seen sp s.free).s).extractLsb' 12 4 = 0) :
    ∃ t v, exec (.binit a) s = .next t ∧ BarrierStep s t w v a (barUses a true) (if b.abandoned then 1 else 0) (past s sp) p
      (if b.abandoned then b
        else { b with expected := BitVec.ofNat 12 ((w.seen sp s.free).s a.b.toNat).toNat, count := 0, isDefault := false }) := by
  obtain ⟨c, n, hc, he⟩ := State.issueWith_prepared hi rfl rfl rfl
  have hbar := hn.2.1
  rw [exec_binit hi hn hpos hle hown, he]
  cases hab : b.abandoned with
  | true =>
    obtain ⟨v, hv⟩ := putsScalar_putAdvance hi.1 hc.amid hc.scalars s.groups n a.d.toNat 1
    exact ⟨_, v, rfl, hv.barrierStep (State.barrierSet_self hbar)⟩
  | false =>
    obtain ⟨gs, hset, hon⟩ := State.reissued_onBarrier hbar (fun y =>
      { y with expected := ((w.seen sp s.free).s a.b.toNat).extractLsb' 0 12, count := 0, isDefault := false })
    obtain ⟨v, hv⟩ := putsScalar_putAdvance hi.1 hc.amid hc.scalars gs n a.d.toNat 0
    refine ⟨_, v, congrArg (fun t : State => Host.Outcome.next ((t.putScalars a.d.toNat [0]).advance)) (hon c n), hv.barrierStep ?_⟩
    have hexp : ((w.seen sp s.free).s a.b.toNat).extractLsb' 0 12 = BitVec.ofNat 12 ((w.seen sp s.free).s a.b.toNat).toNat :=
      BitVec.eq_of_toNat_eq (by simp)
    rw [hab, hexp] at hset
    exact hset

/-- An instruction that arrives acts from a state in which only its wave has changed; its arrival then changes only its barrier. -/
theorem State.issueWith_arrives (hi : Issues s (barUses a false) w sp) (hn : Names s w sp a p b) :
    ∃ c n gs, w.Prepared c s.cur.split sp (barUses a false) a.d.toNat ∧ s.BarrierSet gs p (arrived b) ∧
      (∀ act, s.issueWith (barUses a false) act = act (w.seen sp s.free) sp (s.reissued c s.groups n)) ∧
      ∀ v n, (s.reissued v s.groups n).onBarrier p.1 p.2 Barrier.arrive = s.reissued v gs n := by
  obtain ⟨-, hbar, hcount⟩ := hn
  obtain ⟨c, n, hc, he⟩ := State.issueWith_prepared hi rfl rfl rfl
  obtain ⟨gs, hset, hon⟩ := State.reissued_onBarrier hbar Barrier.arrive
  rw [Barrier.arrive_eq_arrived hcount] at hset
  exact ⟨c, n, gs, hc, hset, he, hon⟩

theorem exec_barr (hat : AtBarrier s s') (hi : Issues s' (barUses a false) w sp) (hn : Names s' w sp a p b)
    (hr : s'.mayRelease (refScope (reference a (w.seen sp s'.free).s)) = true) :
    exec (.barr a) s = .next (s'.issueWith (barUses a false) (fun _ _ t =>
      ((t.putScalars a.d.toNat [(if b.abandoned then 0x80000000 else 0) ||| boolWord b.phase]).onBarrier p.1 p.2 Barrier.arrive).advance)) :=
  congrArg Host.Outcome.next ((State.atBarrier_acts hat _).trans (State.withBarrier_acts hi hn (fun _ => hr) _))

theorem barr_step (hat : AtBarrier s s') (hi : Issues s' (barUses a false) w sp) (hn : Names s' w sp a p b)
    (hr : s'.mayRelease (refScope (reference a (w.seen sp s'.free).s)) = true) : ∃ t v, exec (.barr a) s = .next t ∧
      BarrierStep s' t w v a (barUses a false) (BitVec.ofNat 32 ((if b.abandoned then 0x80000000 else 0) + (if b.phase then 1 else 0)))
        (past s' sp) p (arrived b) := by
  obtain ⟨c, n, gs, hc, hset, he, hon⟩ := State.issueWith_arrives hi hn
  obtain ⟨v, hv⟩ := putsScalar_putAdvance hi.1 hc.amid hc.scalars gs n a.d.toNat
    ((if b.abandoned then 0x80000000 else 0) ||| boolWord b.phase)
  refine ⟨_, v, (exec_barr hat hi hn hr).trans (congrArg Host.Outcome.next (he _)), ?_⟩
  rw [State.reissued_putScalars _ _ _ _ _ _ hi.1, hon, ← State.reissued_putScalars _ _ _ _ _ _ hi.1, ← token_eq]
  exact hv.barrierStep hset

theorem exec_bquery (hs : s.shadowOf w.group = false) (hi : Issues s (barUses a false) w sp) (hn : Names s w sp a p b) :
    exec (.bquery a) s = .next (s.issueWith (barUses a false) (fun _ _ t => (t.putScalars a.d.toNat [b.word]).advance)) := by
  have hissue := hi.2.1
  refine congrArg Host.Outcome.next ?_
  simp only [hissue]
  rw [hs, if_neg Bool.false_ne_true, State.withBarrier_acts hi hn (fun h => absurd h Bool.false_ne_true)]

theorem bquery_writes (hs : s.shadowOf w.group = false) (hissue : s.issuing = some (w, sp)) (hn : Names s w sp a p b) :
    WritesScalars (exec (.bquery a) s) s (barUses a false) a.d.toNat (fun _ sp => sp) (fun _ _ _ => [b.word]) := by
  intro w' sp' hi
  cases hissue.symm.trans hi.2.1
  have hput : WritesScalars (exec (.bquery a) s) s (barUses a false) a.d.toNat (fun _ sp => sp) (fun _ _ _ => [b.word]) :=
    writesScalars_of_put rfl (fun _ _ _ _ => exec_bquery hs hi hn)
  exact hput w sp hi

/-! ## BWAIT and BSYNC (08 R187, R189) -/

theorem exec_bwait (hat : AtBarrier s s') (hsp : sp.bar = none) (hi : Issues s' (barUses a true) w sp) (hn : Names s' w sp a p b) :
    exec (.bwait a) s = .next (s'.issueWith (barUses a true) (fun x _ t => t.waitOn a ⟨p.1, p.2, (x.s a.b.toNat).getLsbD 0,
      decide (refScope (reference a (w.seen sp s'.free).s) = 3), false⟩)) :=
  congrArg Host.Outcome.next ((State.atBarrier_acts hat _).trans ((State.resumeWait_of_none hi.2.1 hsp _).trans
    (State.withBarrier_acts hi hn (fun h => absurd h Bool.false_ne_true) _)))

theorem exec_bsync (hat : AtBarrier s s') (hsp : sp.bar = none) (hi : Issues s' (barUses a false) w sp) (hn : Names s' w sp a p b)
    (hr : s'.mayRelease (refScope (reference a (w.seen sp s'.free).s)) = true) :
    exec (.bsync a) s = .next (s'.issueWith (barUses a false) (fun _ _ t => (t.onBarrier p.1 p.2 Barrier.arrive).waitOn a
      ⟨p.1, p.2, b.phase, decide (refScope (reference a (w.seen sp s'.free).s) = 3), false⟩)) :=
  congrArg Host.Outcome.next ((State.atBarrier_acts hat _).trans ((State.resumeWait_of_none hi.2.1 hsp _).trans
    (State.withBarrier_acts hi hn (fun _ => hr) _)))

/-- A split that has begun to wait tests its barrier again, in either instruction. -/
theorem exec_again {i : Instr} {x : BarWait} (hat : AtBarrier s s') (hissue : s'.issuing = some (w, sp)) (hx : sp.bar = some x)
    (h : i = .bwait a ∨ i = .bsync a) : exec i s = .next (s'.waitOn a x) := by
  obtain rfl | rfl := h <;>
    exact congrArg Host.Outcome.next ((State.atBarrier_acts hat _).trans (State.resumeWait_of_some hissue hx _))

/-- A wait whose phase has flipped is complete, with status 0, also where its barrier is abandoned since (08 R191, R192; log 85). -/
theorem again_step {i : Instr} {x : BarWait} {st : Bool} (hat : AtBarrier s s') (hx : sp.bar = some x)
    (hi : Issues s' { sw := [a.d.toNat] } w sp) (hbar : s'.barrier x.grp x.index = some b) (h : i = .bwait a ∨ i = .bsync a)
    (hw : (x.flipped = true ∧ st = false) ∨ (x.flipped = false ∧ b.waited x.token = some st)) :
    ∃ t v, exec i s = .next t ∧ BarrierStep s' t w v a {} (boolWord st) (past s' sp.endBar) (x.grp, x.index) b := by
  obtain ⟨scope, he⟩ := State.waitOn_ends a hbar hw
  obtain ⟨v, hv⟩ := State.endWait_puts hi scope st
  exact ⟨_, v, (exec_again hat hi.2.1 hx h).trans (congrArg _ he), hv.barrierStep (State.barrierSet_self hbar)⟩

theorem bwait_ends {st : Bool} (hat : AtBarrier s s') (hsp : sp.bar = none) (hi : Issues s' (barUses a true) w sp)
    (hn : Names s' w sp a p b) (hw : b.waited (((w.seen sp s'.free).s a.b.toNat).getLsbD 0) = some st) :
    ∃ t v, exec (.bwait a) s = .next t ∧ BarrierStep s' t w v a (barUses a true) (boolWord st) (past s' sp.endBar) p b := by
  obtain ⟨c, n, hc, he⟩ := State.issueWith_prepared hi rfl rfl rfl
  obtain ⟨v, hv⟩ := barrierStep_of_waitOn hi rfl hc (State.barrierSet_self hn.2.1) hn.2.1 hw n
  exact ⟨_, v, (exec_bwait hat hsp hi hn).trans (congrArg _ (he _)), hv⟩

theorem bwait_waits (hat : AtBarrier s s') (hsp : sp.bar = none) (hi : Issues s' (barUses a true) w sp) (hn : Names s' w sp a p b)
    (hw : b.waited (((w.seen sp s'.free).s a.b.toNat).getLsbD 0) = none) :
    ∃ t v, exec (.bwait a) s = .next t ∧ OnlyIssuer s' t v ∧ OnlyRegisters w v s'.cur.split (sp.waitBar
      ⟨p.1, p.2, ((w.seen sp s'.free).s a.b.toNat).getLsbD 0, decide (refScope (reference a (w.seen sp s'.free).s) = 3), false⟩) := by
  obtain ⟨c, n, hc, he⟩ := State.issueWith_prepared hi rfl rfl rfl
  exact ⟨_, _, (exec_bwait hat hsp hi hn).trans (congrArg _ ((he _).trans (waitOn_reissued (State.barrierSet_self hn.2.1) hn.2.1 hw n))),
    ⟨s'.groups, n, rfl, fun _ => rfl⟩, hc.amid.onlyRegisters (Split.waitBar_congr _)⟩

/-- The arrival that flips the phase ends a wait on the phase before it (08 R187). -/
theorem arrived_waited_of_last (ha : b.abandoned = false) (h : b.expected.toNat ≤ b.count.toNat + 1) :
    (arrived b).waited b.phase = some false := by
  rw [arrived, if_neg (by simp [ha]), if_pos h]
  exact Barrier.waited_of_flipped ha (by simp)

/-- Behind an arrival that leaves the phase as it is, such a wait goes on. -/
theorem arrived_waited_of_early (ha : b.abandoned = false) (h : b.count.toNat + 1 < b.expected.toNat) :
    (arrived b).waited b.phase = none := by
  rw [arrived, if_neg (by simp [ha]), if_neg (Nat.not_le.2 h)]
  exact Barrier.waited_of_phase ha rfl

theorem bsync_ends (hat : AtBarrier s s') (hsp : sp.bar = none) (hi : Issues s' (barUses a false) w sp) (hn : Names s' w sp a p b)
    (hr : s'.mayRelease (refScope (reference a (w.seen sp s'.free).s)) = true) (ha : b.abandoned = false)
    (h : b.expected.toNat ≤ b.count.toNat + 1) :
    ∃ t v, exec (.bsync a) s = .next t ∧ BarrierStep s' t w v a (barUses a false) 0 (past s' sp.endBar) p (arrived b) := by
  obtain ⟨c, n, gs, hc, hset, he, hon⟩ := State.issueWith_arrives hi hn
  obtain ⟨v, hv⟩ := barrierStep_of_waitOn hi rfl hc hset hn.2.1 (arrived_waited_of_last ha h) n
  exact ⟨_, v, (exec_bsync hat hsp hi hn hr).trans (congrArg _ ((he _).trans (congrArg (State.waitOn · a _) (hon c n)))), hv⟩

theorem bsync_waits (hat : AtBarrier s s') (hsp : sp.bar = none) (hi : Issues s' (barUses a false) w sp) (hn : Names s' w sp a p b)
    (hr : s'.mayRelease (refScope (reference a (w.seen sp s'.free).s)) = true) (ha : b.abandoned = false)
    (h : b.count.toNat + 1 < b.expected.toNat) :
    ∃ t v r, exec (.bsync a) s = .next t ∧ OnlyIssuer s' r v ∧ OnlyRegisters w v s'.cur.split (sp.waitBar
      ⟨p.1, p.2, b.phase, decide (refScope (reference a (w.seen sp s'.free).s) = 3), false⟩) ∧ t = { r with groups := t.groups } ∧
      t.barrier p.1 p.2 = some (arrived b) := by
  obtain ⟨c, n, gs, hc, hset, he, hon⟩ := State.issueWith_arrives hi hn
  exact ⟨_, _, s'.reissued _ s'.groups n, (exec_bsync hat hsp hi hn hr).trans (congrArg _ ((he _).trans
      ((congrArg (State.waitOn · a _) (hon c n)).trans (waitOn_reissued hset hn.2.1 (arrived_waited_of_early ha h) n)))),
    ⟨s'.groups, n, rfl, fun _ => rfl⟩, hc.amid.onlyRegisters (Split.waitBar_congr _), rfl, hset.barrier hn.2.1 _ n⟩
end

/-- Settles O29, instruction by instruction: each acts on the barrier that its reference names from the wave as its issue leaves it, and a
wait ends by another issue, of a write of D alone. -/
theorem barriers : Obligations.Barriers := by
  refine ⟨fun a s w sp p b hi hn => binit_step hi hn, fun a s s' w sp p b hat hi hn => barr_step hat hi hn, ?_, ?_, ?_, ?_⟩
  · intro a s s' w sp p b hat hsp hi hn token
    exact ⟨fun ha hp => bwait_ends hat hsp hi hn (Barrier.waited_of_flipped ha hp),
      fun ha => bwait_ends hat hsp hi hn (Barrier.waited_of_abandoned ha _),
      fun hp ha => bwait_waits hat hsp hi hn (Barrier.waited_of_phase ha hp)⟩
  · intro a s s' w sp p b hat hsp hi hn hr ha
    exact ⟨bsync_ends hat hsp hi hn hr ha, bsync_waits hat hsp hi hn hr ha⟩
  · intro a s s' w sp x b hat hx hi hbar i h
    refine ⟨fun hend => again_step (st := false) hat hx hi hbar h ?_,
      fun hf ha => again_step (st := true) hat hx hi hbar h (.inr ⟨hf, Barrier.waited_of_abandoned ha _⟩)⟩
    cases hf : x.flipped with
    | true => exact .inl ⟨rfl, rfl⟩
    | false =>
      obtain ⟨ha, hp⟩ := hend.resolve_left (by simp [hf])
      exact .inr ⟨rfl, Barrier.waited_of_flipped ha hp⟩
  · intro a s hs w sp p b hissue hn
    rw [← Barrier.word_eq]
    exact bquery_writes (hs w sp hissue) hissue hn

end Sys2Proof.Machine

/-! Translation and its checks (O20; 09 R195–R199): the checks on an access in their order, what a walk makes of each entry it reads, and the
walk down a chain of valid tables. -/

namespace Sys2Proof.Machine

open Sys2Proof.Claims

/-! ## The checks on an access (09 R199) -/

/-- An access stops with a cause at its address. -/
def StopsAccess (o : Except FaultInfo (Nat × TlbEntry)) (c : StopCause) (va : Dword) : Prop :=
  ∃ i, o = .error i ∧ i.cause = c ∧ i.addr = va

section
variable {w : Walked} {va : Dword} {size : Nat} {kind : AccKind} {want : Want}

theorem checkWalked_range (h : 2 ^ 56 ≤ va.toNat) : StopsAccess (checkWalked w va size kind want) .pageProtection va := by
  unfold checkWalked checkTo8
  rw [if_pos h]
  exact ⟨_, rfl, rfl, rfl⟩

theorem checkWalked_misaligned (h : va.toNat < 2 ^ 56) (ha : va.toNat % size ≠ 0) :
    StopsAccess (checkWalked w va size kind want) .misaligned va := by
  unfold checkWalked checkTo8
  rw [if_neg (Nat.not_le.2 h), if_pos ha]
  exact ⟨_, rfl, rfl, rfl⟩

theorem checkWalked_walk {c : StopCause} (h : va.toNat < 2 ^ 56) (ha : va.toNat % size = 0) (hc : w.cause = some c) :
    StopsAccess (checkWalked w va size kind want) c va := by
  unfold checkWalked checkTo8
  rw [if_neg (Nat.not_le.2 h), if_neg (not_not.2 ha)]
  simp only [hc]
  exact ⟨_, rfl, rfl, rfl⟩

section
variable (h : va.toNat < 2 ^ 56) (ha : va.toNat % size = 0) (hw : w.cause = none)
include h ha hw

/-- A page that is found, and that checks 6 to 8 refuse. -/
theorem checkWalked_pageFault {c : StopCause} (hc : pageFault w.page want = some c) :
    StopsAccess (checkWalked w va size kind want) c va := by
  unfold checkWalked checkTo8
  rw [if_neg (Nat.not_le.2 h), if_neg (not_not.2 ha)]
  simp only [hw, hc]
  exact ⟨_, rfl, rfl, rfl⟩

/-- A page that is found, and that checks 6 to 8 let pass: check 10 decides. -/
theorem checkWalked_place (hc : pageFault w.page want = none) :
    (check10 w.page (w.page.pbase + (va.toNat - w.page.vbase)) = true →
      checkWalked w va size kind want = .ok (w.page.pbase + (va.toNat - w.page.vbase), w.page)) ∧
    (check10 w.page (w.page.pbase + (va.toNat - w.page.vbase)) = false →
      StopsAccess (checkWalked w va size kind want) .pageProtection va) := by
  unfold checkWalked checkTo8
  rw [if_neg (Nat.not_le.2 h), if_neg (not_not.2 ha)]
  simp only [hw, hc]
  refine ⟨fun hp => if_pos hp, fun hp => ?_⟩
  rw [if_neg (by simp [hp])]
  exact ⟨_, rfl, rfl, rfl⟩
end
end

/-- A page refuses what an access asks of it (check 6). -/
def Refuses (e : TlbEntry) (want : Want) : Prop :=
  (want.read = true ∧ e.r = false) ∨ (want.write = true ∧ e.w = false) ∨ (want.exec = true ∧ e.x = false)

section
variable {e : TlbEntry} {want : Want}

theorem pageFault_of_refuses (h : Refuses e want) : pageFault e want = some .pageProtection := by
  refine if_pos ?_
  obtain ⟨hr, he⟩ | ⟨hr, he⟩ | ⟨hr, he⟩ := h <;> simp [hr, he]

/-- Checks 7 and 8, on a page that grants the access. -/
theorem pageFault_of_grants (h : ¬ Refuses e want) : pageFault e want =
    if e.dev && want.exec then some .fetchDevice
    else if e.dev && !want.plain then some .pageProtection
    else if want.write && e.wpl then some .leaseWrite
    else none := by
  refine if_neg fun hf => h ?_
  simpa [Refuses, or_assoc] using hf

theorem check10_iff {pa : Nat} :
    check10 e pa = true ↔ placeOf pa ≠ .reserved ∧ ∀ sp a, placeOf pa = .csr sp a → e.dev = true := by
  unfold check10
  split
  · next h => simp [h]
  · next sp a h => simp [h]
  · next hr hc =>
    exact iff_of_true rfl ⟨hr, fun sp a h => absurd h (hc sp a)⟩
end

/-! ## The walk (09 R195–R198) -/

section
variable {s : State} {ctx va level table : Nat}

/-- The entry of an address in a table. -/
def State.entryOf (s : State) (va level table : Nat) : Dword := s.dwordAt (table + 8 * pageIndex level va)

/-- The frame of an entry. -/
def frameOfEntry (e : Dword) : Nat := e.toNat / 2 ^ 14 % 2 ^ 34 * 4096

theorem frameOfEntry_eq (e : Dword) : (e.extractLsb' 14 34).toNat * 4096 = frameOfEntry e := by
  rw [frameOfEntry, BitVec.extractLsb'_toNat, Nat.shiftRight_eq_div_pow]

/-- No page of several entries covers the entry of an address (09 R197). -/
def State.Alone (s : State) (va level table : Nat) : Prop :=
  s.entryChoices table level (pageIndex level va) = [pageIndex level va]

/-- From level 3 up no page has several entries. -/
theorem State.alone_of_top (s : State) (va table : Nat) (h : 3 ≤ level) : s.Alone va level table := by
  have hc : ∀ c, contigAllowed level c = false := by
    intro c
    unfold contigAllowed
    split <;> first | omega | rfl
  simp [State.Alone, State.entryChoices, hc]

theorem State.walkEntry_of_alone (h : s.Alone va level table) :
    s.walkEntry table level va = (table + 8 * pageIndex level va, s.entryOf va level table) := by
  rw [State.Alone] at h
  simp [State.walkEntry, h, State.entryOf]

theorem State.walkRead_invalid (h : s.Alone va level table) (h0 : (s.entryOf va level table).getLsbD 0 = false) :
    ∃ w, s.walkRead ctx va level table = .done w ∧
      w.cause = some (if (s.entryOf va level table).getLsbD 9 = true then .privateGrow else .pageNotPresent) := by
  simp only [State.walkRead, State.walkEntry_of_alone h, h0]
  exact ⟨_, rfl, rfl⟩

theorem State.walkRead_malformed (h : s.Alone va level table) (h0 : (s.entryOf va level table).getLsbD 0 = true)
    (hm : entryMalformed level (s.entryOf va level table) = true) :
    ∃ w, s.walkRead ctx va level table = .done w ∧ w.cause = some .pageNotPresent := by
  simp only [State.walkRead, State.walkEntry_of_alone h, h0, hm]
  exact ⟨_, rfl, rfl⟩

theorem State.walkRead_leaf (h : s.Alone va level table) (h0 : (s.entryOf va level table).getLsbD 0 = true)
    (hm : entryMalformed level (s.entryOf va level table) = false) (h1 : (s.entryOf va level table).getLsbD 1 = true) :
    ∃ w, s.walkRead ctx va level table = .done w ∧ w.cause = none ∧ w.page = leafEntry ctx va level (s.entryOf va level table) := by
  simp only [State.walkRead, State.walkEntry_of_alone h, h0, hm, h1]
  exact ⟨_, rfl, rfl, rfl⟩

theorem State.walkRead_table (h : s.Alone va level table) (h0 : (s.entryOf va level table).getLsbD 0 = true)
    (hm : entryMalformed level (s.entryOf va level table) = false) (h1 : (s.entryOf va level table).getLsbD 1 = false) :
    s.walkRead ctx va level table = .on (frameOfEntry (s.entryOf va level table)) := by
  simp only [State.walkRead, State.walkEntry_of_alone h, h0, hm, h1, ← frameOfEntry_eq]
  rfl

/-- A valid entry that names a table, of a level above 0. -/
def NamesTable (e : Dword) : Prop := e.getLsbD 0 = true ∧ e.getLsbD 1 = false ∧ entryMalformed 4 e = false

theorem NamesTable.wellFormed {e : Dword} (h : NamesTable e) (hl : 0 < level) : entryMalformed level e = false := by
  obtain ⟨-, h1, hm⟩ := h
  rw [entryMalformed, if_neg (ne_true_of_eq_false h1)] at hm ⊢
  rw [decide_eq_false hl.ne']
  exact hm

theorem State.walkFrom_table (h : s.Alone va level table) (hl : 0 < level) (he : NamesTable (s.entryOf va level table)) :
    s.walkFrom ctx va (level + 1) table = s.walkFrom ctx va level (frameOfEntry (s.entryOf va level table)) := by
  rw [State.walkFrom, State.walkRead_table h he.1 (he.wellFormed hl) he.2.1]

theorem State.walkFrom_done {w : Walked} (h : s.walkRead ctx va level table = .done w) : s.walkFrom ctx va (level + 1) table = w := by
  rw [State.walkFrom, h]

theorem State.walkFrom_invalid (h : s.Alone va level table) (h0 : (s.entryOf va level table).getLsbD 0 = false) :
    (s.walkFrom ctx va (level + 1) table).cause =
      some (if (s.entryOf va level table).getLsbD 9 = true then .privateGrow else .pageNotPresent) := by
  obtain ⟨w, hw, hc⟩ := State.walkRead_invalid (ctx := ctx) h h0
  rw [State.walkFrom_done hw, hc]

theorem State.topTable_eq (s : State) (ctx : Nat) : s.topTable ctx =
    field (s.csrAt 4 (0x3000 + 0x10 * ctx + 4)) 13 0 * 2 ^ 32 + (s.csrAt 4 (0x3000 + 0x10 * ctx)).toNat / 4096 * 4096 := by
  rw [State.topTable]
  ring

/-- A walk through four tables comes to the lowest one. -/
theorem State.walk_of_tables {t3 t2 t1 t0 : Nat} (hv : s.ctxValid ctx = true)
    (h4 : NamesTable (s.entryOf va 4 (s.topTable ctx))) (e4 : frameOfEntry (s.entryOf va 4 (s.topTable ctx)) = t3)
    (h3 : NamesTable (s.entryOf va 3 t3)) (e3 : frameOfEntry (s.entryOf va 3 t3) = t2)
    (a2 : s.Alone va 2 t2) (h2 : NamesTable (s.entryOf va 2 t2)) (e2 : frameOfEntry (s.entryOf va 2 t2) = t1)
    (a1 : s.Alone va 1 t1) (h1 : NamesTable (s.entryOf va 1 t1)) (e1 : frameOfEntry (s.entryOf va 1 t1) = t0) :
    s.walk ctx va = s.walkFrom ctx va 1 t0 := by
  rw [State.walk, if_pos hv, State.walkFrom_table (s.alone_of_top va _ (by omega)) (by omega) h4, e4,
    State.walkFrom_table (s.alone_of_top va _ (by omega)) (by omega) h3, e3, State.walkFrom_table a2 (by omega) h2, e2,
    State.walkFrom_table a1 (by omega) h1, e1]

/-- A leaf of one page of 4 KiB (09 R196, R198). -/
structure SmallLeaf (e : Dword) : Prop where
  valid : e.getLsbD 0 = true
  leaf : e.getLsbD 1 = true
  single : e.extractLsb' 10 4 = 0
  spare : e.extractLsb' 56 8 = 0
  attr : (e.extractLsb' 48 8).toNat ≤ 2
  device : e.getLsbD 6 = true → e.extractLsb' 48 8 = 2

theorem SmallLeaf.wellFormed {e : Dword} (h : SmallLeaf e) : entryMalformed 0 e = false := by
  obtain ⟨-, h1, hc, hs, ha, hd⟩ := h
  have hdev : (e.getLsbD 6 && decide ((e.extractLsb' 48 8).toNat ≠ 2)) = false := by
    cases h6 : e.getLsbD 6 with
    | false => rfl
    | true => rw [hd h6]; rfl
  rw [entryMalformed, if_pos h1, hdev, hs, hc, decide_eq_false (Nat.not_lt.2 ha)]
  rfl

theorem SmallLeaf.leafEntry_eq {e : Dword} (h : SmallLeaf e) (ctx va : Nat) : leafEntry ctx va 0 e =
    { ctx := ctx, vbase := va / 4096 * 4096, pbase := frameOfEntry e, size := 4096, attr := (e.extractLsb' 48 8).toNat,
      pin := e.getLsbD 8, wpl := e.getLsbD 7, dev := e.getLsbD 6, np := e.getLsbD 5, x := e.getLsbD 4, w := e.getLsbD 3,
      r := e.getLsbD 2 } := by
  simp [leafEntry, h.single, ← frameOfEntry_eq]
end

theorem checkWalked_order (w : Walked) (va : Dword) (size : Nat) (kind : AccKind) (want : Want) :
    let out := checkWalked w va size kind want
    let stops := fun (c : StopCause) => StopsAccess out c va
    let e := w.page
    let pa := e.pbase + (va.toNat - e.vbase)
    va.toNat < 2 ^ 56 → va.toNat % size = 0 → w.cause = none →
      (Refuses e want → stops .pageProtection) ∧
      (¬ Refuses e want →
        (e.dev = true → want.exec = true → stops .fetchDevice) ∧
        (e.dev = true → want.exec = false → want.plain = false → stops .pageProtection) ∧
        ((e.dev = true → want.exec = false ∧ want.plain = true) →
          (want.write = true → e.wpl = true → stops .leaseWrite) ∧
          ((want.write = true → e.wpl = false) →
            (placeOf pa = .reserved → stops .pageProtection) ∧
            (∀ sp a, placeOf pa = .csr sp a → e.dev = false → stops .pageProtection) ∧
            (placeOf pa ≠ .reserved → (∀ sp a, placeOf pa = .csr sp a → e.dev = true) → out = .ok (pa, e))))) := by
  intro out stops e pa h ha hw
  have fails : ∀ c, pageFault e want = some c → stops c := fun c hc => checkWalked_pageFault h ha hw hc
  refine ⟨fun hr => fails _ (pageFault_of_refuses hr), fun hr => ?_⟩
  have hf := pageFault_of_grants hr
  refine ⟨fun hd hx => fails _ (by simp [hf, hd, hx]), fun hd hx hp => fails _ (by simp [hf, hd, hx, hp]), fun hd => ?_⟩
  have hdev : (e.dev && want.exec) = false ∧ (e.dev && !want.plain) = false := by
    cases hde : e.dev with
    | false => exact ⟨rfl, rfl⟩
    | true => simp [hd hde]
  simp only [hdev.1, hdev.2, Bool.false_eq_true, if_false] at hf
  refine ⟨fun hwr hl => fails _ (by simp [hf, hwr, hl]), fun hl => ?_⟩
  have hok : pageFault e want = none := by
    rw [hf, if_neg]
    rintro hb
    obtain ⟨hwr, hlp⟩ := Bool.and_eq_true_iff.1 hb
    exact absurd hlp (by simp [hl hwr])
  obtain ⟨hyes, hno⟩ := checkWalked_place (size := size) (kind := kind) h ha hw hok
  have hno : ¬ check10 e pa = true → stops .pageProtection := fun hn => hno (Bool.eq_false_of_not_eq_true hn)
  refine ⟨fun hp => hno ?_, fun sp a hp hd0 => hno ?_, fun hp hd1 => hyes (check10_iff.2 ⟨hp, hd1⟩)⟩
  · rw [check10_iff]
    exact fun hc => hc.1 hp
  · rw [check10_iff]
    exact fun hc => absurd (hc.2 sp a hp) (by simp [hd0])

/-- What a walk makes of the entry in the lowest table (09 R196, R198). -/
theorem State.walkFrom_lowest (s : State) (ctx va table : Nat) (h : s.Alone va 0 table) :
    let w := s.walkFrom ctx va 1 table
    let leaf := s.entryOf va 0 table
    (leaf.getLsbD 0 = false → w.cause = some (if leaf.getLsbD 9 = true then .privateGrow else .pageNotPresent)) ∧
    (leaf.getLsbD 0 = true → leaf.getLsbD 1 = false → w.cause = some .pageNotPresent) ∧
    (SmallLeaf leaf → w.cause = none ∧ w.page = leafEntry ctx va 0 leaf) := by
  refine ⟨State.walkFrom_invalid h, fun h0 h1 => ?_, fun hl => ?_⟩
  · have hm : entryMalformed 0 (s.entryOf va 0 table) = true := by
      rw [entryMalformed, if_neg (ne_true_of_eq_false h1)]
      rfl
    obtain ⟨w, hw, hc⟩ := State.walkRead_malformed (ctx := ctx) h h0 hm
    rw [State.walkFrom_done hw, hc]
  · obtain ⟨w, hw, hc, hp⟩ := State.walkRead_leaf (ctx := ctx) h hl.valid hl.wellFormed hl.leaf
    rw [State.walkFrom_done hw]
    exact ⟨hc, hp⟩

/-- Settles O20: the checks one after another, and the walk by what it makes of each entry on its way down. -/
theorem translationAndChecks : Obligations.TranslationAndChecks := by
  refine ⟨fun w va size kind want _ => ⟨checkWalked_range, checkWalked_misaligned, fun h ha c => checkWalked_walk h ha,
    checkWalked_order w va size kind want⟩, fun s ctx va _ => ⟨fun hv => ?_, fun hv => ?_⟩⟩
  · rw [State.walk, if_neg (by simp [hv])]
  · rw [← State.topTable_eq]
    refine ⟨fun h0 => ?_, fun h4 h3 a2 h2 a1 h1 a0 => ?_⟩
    · rw [State.walk, if_pos hv]
      exact State.walkFrom_invalid (s.alone_of_top va _ (by omega)) h0
    · rw [State.walk_of_tables hv h4 rfl h3 rfl a2 h2 rfl a1 h1 rfl]
      obtain ⟨hinvalid, htable, hleaf⟩ := s.walkFrom_lowest ctx va _ a0
      refine ⟨hinvalid, htable, fun h0 h1 hc hs ha hd => ?_⟩
      have hsmall : SmallLeaf _ := ⟨h0, h1, hc, hs, ha, hd⟩
      exact ⟨(hleaf hsmall).1, (hleaf hsmall).2.trans (hsmall.leafEntry_eq ctx va)⟩

end Sys2Proof.Machine

/-! The return of data (O23; 09 R208–R210; 08 R179, R180): how the bytes of a load become words, and what they change in its wave. -/

namespace Sys2Proof.Machine

open Sys2Proof.Claims

/-! ## The bytes of a load as words (09 R208, 08 R179) -/

theorem leNat_lt (l : List Byte) : leNat l < 256 ^ l.length := by
  induction l with
  | nil => simp [leNat]
  | cons b l ih =>
    have hb := b.isLt
    rw [leNat, List.length_cons, pow_succ]
    omega

theorem MemOp.gotBytes_length_le (o : MemOp) (lane off n : Nat) : (o.gotBytes lane off n).length ≤ n := by
  simp [MemOp.gotBytes]

/-- A number below 2ⁿ, sign-extended from n bits to a word. -/
theorem signExtend_ofNat {n x : Nat} (hn : 0 < n) (hx : x < 2 ^ n) : (BitVec.ofNat n x).signExtend 32 =
    if 2 ^ (n - 1) ≤ x then BitVec.ofInt 32 ((x : Int) - 2 ^ n) else BitVec.ofNat 32 x := by
  have htwo : 2 ^ n = 2 * 2 ^ (n - 1) := by rw [← pow_succ', Nat.sub_add_cancel hn]
  rw [BitVec.signExtend, BitVec.toInt_eq_toNat_cond, BitVec.toNat_ofNat, Nat.mod_eq_of_lt hx]
  by_cases h : 2 ^ (n - 1) ≤ x
  · rw [if_neg (by omega), if_pos h]
    push_cast
    rfl
  · rw [if_pos (by omega), if_neg h, BitVec.ofInt_natCast]

/-- The words of a load's bytes, one by one. -/
theorem MemOp.extend_getD {o : MemOp} (hs : o.size ∈ [1, 2, 4, 8, 16]) {l k n : Nat} (hk : k < n) (h1 : o.size < 4 → n = 1) :
    (o.extend (o.gotBytes l 0 (min o.size 16)) n).getD k 0 = loadedWord o l k := by
  have hlt : o.size < 4 → leNat (o.gotBytes l 0 (min o.size 16)) < 2 ^ (8 * o.size) := fun h => by
    refine (leNat_lt _).trans_le ?_
    rw [pow_mul]
    exact Nat.pow_le_pow_right (by omega) ((o.gotBytes_length_le ..).trans (min_le_left ..))
  simp only [MemOp.extend, loadedWord, number_eq_leNat]
  by_cases hsize : o.size < 4
  · obtain rfl : k = 0 := by have := h1 hsize; omega
    rw [if_pos hsize, if_pos hsize]
    have hx := hlt hsize
    cases hsig : o.signed with
    | false => simp
    | true =>
      obtain h | h : o.size = 1 ∨ o.size = 2 := by
        simp only [List.mem_cons, List.not_mem_nil, or_false] at hs
        omega
      all_goals
        rw [h] at hx
        simp only [h, if_true, true_and, List.getD_cons_zero]
      · exact signExtend_ofNat (by decide) hx
      · exact signExtend_ofNat (by decide) hx
  · rw [if_neg hsize, if_neg hsize]
    simp [hk]

/-- What an operation that is no texture read returns to a lane. -/
theorem MemOp.laneWords_of_not_texture {o : MemOp} (h : ∀ y, o.kind ≠ .texture y) (free i n : Nat) :
    o.laneWords free i n = o.extend (o.gotBytes i 0 (min o.size 16)) n := by
  unfold MemOp.laneWords
  split
  · next op hk => exact absurd hk (h op)
  · rfl

theorem MemOp.laneWords_of_texture {o : MemOp} {y : FOp} {xs : List Word} {i : Nat} (h : o.kind = .texture y)
    (hx : texelResult y o.desc (Table.get nilAt o.coords i) (fun k => o.gotBytes i (16 * k) 16) = some xs) (free n : Nat) :
    o.laneWords free i n = xs := by
  simp only [MemOp.laneWords, h, hx, Option.getD_some]

theorem MemOp.extend_length {o : MemOp} (h : 4 ≤ o.size) (bs : List Byte) (n : Nat) : (o.extend bs n).length = n := by
  rw [MemOp.extend, if_neg (Nat.not_lt.2 h)]
  simp

/-! ## The return (09 R209) -/

/-- The wave once an operation has left it, with its data in the destination. -/
def Wave.returned (w : Wave) (o : MemOp) (free : Nat) : Wave :=
  let w := { w with ops := w.ops.filter (fun p => decide (p.id ≠ o.id)) }
  match o.dst with
  | .none => w
  | .vec d n => w.writeVs (quadsOf o.run) o.run d n (fun i => o.laneWords free i n)
  | .scal d n => w.writeSs o.split d (o.laneWords free 0 n)

theorem Wave.returned_sansRegs (w : Wave) (o : MemOp) (free : Nat) :
    (w.returned o free).sansRegs = ({ w with ops := w.ops.filter (fun p => decide (p.id ≠ o.id)) } : Wave).sansRegs := by
  unfold Wave.returned
  split
  · rfl
  · exact Wave.writeVs_sansRegs ..
  · exact (Wave.writeSs_ok ..).1

theorem Wave.returned_vec {w : Wave} {o : MemOp} {free d n : Nat} (h : o.dst = .vec d n) :
    (∀ k, (w.returned o free).s k = w.s k) ∧ ∀ r l, l < 64 → (w.returned o free).v r l =
      if d ≤ r ∧ r < d + n ∧ o.run.getLsbD l = true then (o.laneWords free l n).getD (r - d) 0 else w.v r l := by
  simp only [Wave.returned, h]
  exact ⟨fun k => Wave.writeVs_s .., fun r l hl => Wave.writeVs_v _ _ _ _ _ _ hl⟩

theorem Wave.returned_scal {w : Wave} {o : MemOp} {free d n : Nat} (h : o.dst = .scal d n) :
    (∀ r l, (w.returned o free).v r l = w.v r l) ∧ ∀ k, (w.returned o free).s k =
      if d ≤ k ∧ k < d + (o.laneWords free 0 n).length then (o.laneWords free 0 n).getD (k - d) 0 else w.s k := by
  simp only [Wave.returned, h]
  obtain ⟨-, hv, hs, -⟩ := Wave.writeSs_ok ({ w with ops := w.ops.filter (fun p => decide (p.id ≠ o.id)) } : Wave) o.split d
    (o.laneWords free 0 n)
  exact ⟨hv, hs⟩

theorem execLoadDataReturn_next {s : State} {core wave : Nat} {w : Wave} {o : MemOp} (ha : s.arg = .at3 core wave o.id)
    (hw : s.wave core wave = some w) (ho : w.op o.id = some o) (hp : o.passed = true) (hf : o.fault = none) (hr : o.reads = true)
    (hd : ∀ u ∈ o.units, u.done = true) : ∃ n, exec .loadDataReturn s =
      .next { s.setWave core wave (some (w.returned o s.free)) with free := n } := by
  have hdone : o.units.any (fun u => !u.done) = false := List.any_eq_false.2 fun u hu => by simp [hd u hu]
  have hret : exec .loadDataReturn s = .next (match o.kind with
      | .texture _ => { s.setWave core wave (some (w.returned o s.free)) with free := s.free + 256 }
      | _ => s.setWave core wave (some (w.returned o s.free))) := by
    refine congrArg Host.Outcome.next ?_
    simp only [ha, hw, ho, hp, hf, hr, hdone, Bool.not_true, Option.isSome_none, Bool.or_false, Bool.false_eq_true, if_false,
      State.onWave]
    rfl
  rw [hret]
  split
  · exact ⟨s.free + 256, rfl⟩
  · exact ⟨s.free, rfl⟩

/-- Settles O23: the operation leaves its wave, and its destination takes the words that its bytes extend to. -/
theorem loadsReturn : Obligations.LoadsReturn := by
  intro s core wave w o ha hw ho hp hf hs hk hd
  have hr : o.reads = true := by
    obtain h | ⟨x, h⟩ | ⟨x, h⟩ | ⟨x, h⟩ := hk <;> simp [MemOp.reads, h]
  obtain ⟨m, he⟩ := execLoadDataReturn_next ha hw ho hp hf hr hd
  refine ⟨_, w.returned o s.free, he, rfl, Wave.returned_sansRegs .., fun d n hdst => ?_, fun d n hdst hsize ht => ?_⟩
  · obtain ⟨hscal, hvec⟩ := Wave.returned_vec (w := w) (free := s.free) hdst
    refine ⟨hscal, fun r l hl => ⟨fun hin => ⟨fun ht h1 => ?_, fun y xs hy hx => ?_⟩, fun hout => ?_⟩⟩
    · rw [hvec r l hl, if_pos hin, MemOp.laneWords_of_not_texture ht, MemOp.extend_getD hs (by omega) h1]
    · rw [hvec r l hl, if_pos hin, MemOp.laneWords_of_texture hy hx]
    · rw [hvec r l hl, if_neg hout]
  · obtain ⟨hvec, hscal⟩ := Wave.returned_scal (w := w) (free := s.free) hdst
    refine ⟨hvec, fun k => ?_⟩
    rw [hscal, MemOp.laneWords_of_not_texture ht, MemOp.extend_length hsize]
    split
    · rw [MemOp.extend_getD hs (by omega) (fun h => by omega)]
    · rfl

end Sys2Proof.Machine

/-! The issue of a memory operation (09 R209, R210; 14 R303), and SLD and SST (O17). -/

namespace Sys2Proof.Machine

open Sys2Proof.Claims

/-! ## The operation that an instruction leaves in its wave (14 R303) -/

/-- An operation as the issuing split leaves it behind the others of wave `w`. -/
def MemOp.placedIn (o : MemOp) (s : State) (w : Wave) : MemOp :=
  { o with id := w.nextOp, split := s.cur.split, pc := s.cur.iaddr, words := s.cur.words
           rep := ((w.split s.cur.split).map (fun x => x.rep)).getD 0, count := w.issued
           skipBp := ((w.split s.cur.split).map (fun x => x.skipBp)).getD false }

/-- A wave with one more operation, its last. -/
def Wave.pushed (w : Wave) (o : MemOp) : Wave := { w with ops := w.ops ++ [o], nextOp := w.nextOp + 1 }

theorem Wave.pushed_sansRegs {v w : Wave} (h : v.sansRegs = w.sansRegs) (o : MemOp) : (v.pushed o).sansRegs = (w.pushed o).sansRegs := by
  have hops : v.ops = w.ops := (congrArg Wave.ops h :)
  have hnext : v.nextOp = w.nextOp := (congrArg Wave.nextOp h :)
  have hpush : ∀ x : Wave, (x.pushed o).sansRegs = { x.sansRegs with ops := x.ops ++ [o], nextOp := x.nextOp + 1 } := fun _ => rfl
  rw [hpush, hpush, h, hops, hnext]

theorem State.reissued_pushOp {s : State} (hc : s.cur.svc = none) (b : Wave) (gs : Table (Option Group)) (n : Nat) (o : MemOp) :
    (s.reissued b gs n).pushOp o = s.reissued ((b.pushed (o.placedIn s b)).onSplit s.cur.split
      (fun x => x.retire s.cur.aux s.cur.caddr s.cur.next)) gs n := by
  rw [State.pushOp, State.reissued_onIssuer, State.reissued_advance _ _ _ _ hc]
  rfl

/-! ## The registers that an operation's destination binds (05 R118) -/

/-- Binds the registers of a destination in quads. -/
def Wave.bindDest (w : Wave) (quads : List Nat) : Dest → Wave
  | .vec d n => (regs d n).foldl (fun x r => x.bind quads r) w
  | _ => w

theorem Wave.bindDest_sansRegs (w : Wave) (qs : List Nat) (dst : Dest) : (w.bindDest qs dst).sansRegs = w.sansRegs := by
  cases dst with
  | vec d n => exact foldl_keeps Wave.sansRegs _ (fun _ _ => Wave.bind_sansRegs ..) _ _
  | _ => rfl

theorem Wave.bindDest_v (w : Wave) (qs : List Nat) (dst : Dest) (r i : Nat) : (w.bindDest qs dst).v r i = w.v r i := by
  cases dst with
  | vec d n => exact foldl_keeps (fun x => Wave.v x r i) _ (fun _ _ => Wave.bind_v ..) _ _
  | _ => rfl

theorem Wave.bindDest_s (w : Wave) (qs : List Nat) (dst : Dest) (n : Nat) : (w.bindDest qs dst).s n = w.s n := by
  cases dst with
  | vec d m => exact foldl_keeps (fun x => Wave.s x n) _ (fun _ _ => Wave.bind_s ..) _ _
  | _ => rfl

theorem Wave.foldl_bind_bound {w : Wave} {qs rs : List Nat} (hqs : ∀ x ∈ qs, x < 16) {r q : Nat} (hq : q ∈ qs)
    (h : r ∈ rs ∨ w.bound r q = true) : (rs.foldl (fun x r => x.bind qs r) w).bound r q = true := by
  induction rs generalizing w with
  | nil => exact h.resolve_left List.not_mem_nil
  | cons a rs ih =>
    refine ih ?_
    rw [Wave.bind_bound _ _ _ (hqs q hq) hqs]
    rcases h with h | h
    · rcases List.mem_cons.1 h with rfl | h
      · exact .inr (by simp [hq])
      · exact .inl h
    · exact .inr (by simp [h])

theorem Wave.bindDest_bound {w : Wave} {m : Dword} {d n r q : Nat} (hd : d ≤ r) (hn : r < d + n) (hq : q ∈ quadsOf m) :
    (w.bindDest (quadsOf m) (.vec d n)).bound r q = true :=
  Wave.foldl_bind_bound (fun _ hx => mem_quadsOf hx) hq (.inl (List.mem_map.2 ⟨r - d, List.mem_range.2 (by omega), by omega⟩))

/-! ## The issue of an operation (09 R209) -/

section
variable {s : State} {u : Uses} {dst : Dest} {lanes : Wave → Split → Dword} {want : Wave → Split → MemOp → Prop} {mk : Wave → Split → MemOp}

/-- What an instruction makes is an operation that has still to be checked, with a destination and lanes. -/
structure MakesOp (mk : Wave → Split → MemOp) (dst : Dest) (lanes : Wave → Split → Dword) : Prop where
  passed : ∀ w sp, (mk w sp).passed = false
  fault : ∀ w sp, (mk w sp).fault = none
  units : ∀ w sp, (mk w sp).units = []
  dst : ∀ w sp, (mk w sp).dst = dst
  run : ∀ w sp, (mk w sp).run = lanes w sp

/-- The checks of an operation that has just issued are made, or its walks asked for (09 R199, R200). -/
def State.checkOrWalk (s : State) (core wave : Nat) (w : Wave) (o : MemOp) : State :=
  if s.opKnown core wave w o then s.checkOp core wave o.id else s.requestWalks core wave w o

/-- The checks of the issuing wave's last operation, `o` where it has none. -/
def State.checkLast (s : State) (o : MemOp) : State :=
  match s.wave s.cur.core s.cur.wave with
  | none => s
  | some x =>
    let o := (x.ops.getLast?).getD o
    if o.passed then s else s.checkOrWalk s.cur.core s.cur.wave x o

theorem State.checkLast_reissued {v : Wave} {o : MemOp} (hv : v.ops.getLast? = some o) (hp : o.passed = false) (gs : Table (Option Group))
    (n : Nat) (o' : MemOp) : (s.reissued v gs n).checkLast o' = (s.reissued v gs n).checkOrWalk s.cur.core s.cur.wave v o := by
  simp only [State.checkLast, State.reissued_cur, State.reissued_wave, hv, Option.getD_some, hp, Bool.false_eq_true, if_false]

/-- What an instruction does with the operation it makes. -/
def opAction (mk : Wave → Split → MemOp) (w : Wave) (sp : Split) (s : State) : State :=
  let t := s.onIssuer (fun x => x.bindDest (quadsOf sp.lanes) (mk w sp).dst)
  if (mk w sp).run = 0 then t.advance else (t.pushOp (mk w sp)).checkLast (mk w sp)

theorem State.issueOp_eq {w : Wave} {sp : Split} (h : s.issuing = some (w, sp)) (hroom : w.ops.length < 16) :
    s.issueOp u mk = s.issueWith u (opAction mk) := by
  rw [State.issueOp, h]
  exact if_neg (Nat.not_le.2 hroom)

/-- An instruction that nothing holds back leaves its operation in the wave as its marks have left it, or goes on where no lane acts. -/
theorem State.issueOp_acts {w : Wave} {sp : Split} (hmk : MakesOp mk dst lanes) (hi : Issues s u w sp) (hroom : w.ops.length < 16) :
    ∃ b x gs n, w.Marked b sp u ∧ x.sansSeen = sp.sansSeen ∧
      (∀ k, (Table.get noneAt gs k).map Group.sansAcc = (s.group k).map Group.sansAcc) ∧
      (∀ d m, dst = .vec d m → ∀ r q, d ≤ r → r < d + m → q ∈ quadsOf sp.lanes → b.bound r q = true) ∧
      let op := (mk (w.seen sp s.free) sp).placedIn s b
      let v := (b.pushed op).setSplit s.cur.split (some (past s x))
      s.issueOp u mk =
        if lanes (w.seen sp s.free) sp = 0 then s.reissued (b.setSplit s.cur.split (some (past s x))) gs n
        else (s.reissued v gs n).checkOrWalk s.cur.core s.cur.wave v op := by
  obtain ⟨hc, hiss, hb, w', hp⟩ := hi
  obtain ⟨a, gs, n, ha, hgs, he⟩ := State.issueWith_acts (opAction mk) hiss hb hp
  have hrest : (a.bindDest (quadsOf sp.lanes) dst).sansRegs = w.sansRegs := (Wave.bindDest_sansRegs ..).trans ha.rest
  obtain ⟨x, hx, hxs⟩ := Wave.sansRegs_splitSome hrest (State.issuing_split hiss).2
  refine ⟨a.bindDest (quadsOf sp.lanes) dst, x, gs, n, ⟨hrest, fun r k hk => (Wave.bindDest_v ..).trans (ha.v r k hk),
    fun k => (Wave.bindDest_s ..).trans (ha.s k)⟩, hxs, hgs, ?_, ?_⟩
  · rintro d m rfl r q hd hm hq
    exact Wave.bindDest_bound hd hm hq
  · rw [State.issueOp_eq hiss hroom, he, opAction, State.reissued_onIssuer, hmk.dst, hmk.run]
    generalize a.bindDest (quadsOf sp.lanes) dst = b at hx
    split
    · rw [State.reissued_advance _ _ _ _ hc, Wave.onSplit, hx]
      rfl
    · have hsplit : (b.pushed ((mk (w.seen sp s.free) sp).placedIn s b)).split s.cur.split = some x := hx
      rw [State.reissued_pushOp hc, Wave.onSplit, hsplit]
      exact State.checkLast_reissued (o := (mk (w.seen sp s.free) sp).placedIn s b) List.getLast?_concat (hmk.passed ..) gs n _

/-- An instruction whose operation is as `want` says completes as the statements say. -/
theorem issuesOp_of_issueOp (hmk : MakesOp mk dst lanes) (hwant : ∀ w sp v, want w sp ((mk w sp).placedIn s v)) :
    IssuesOp (.next (s.issueOp u mk)) s u dst lanes want := by
  intro w sp hi hroom
  obtain ⟨b, x, gs, n, hb, hxs, hgs, hbound, he⟩ := State.issueOp_acts hmk hi hroom
  have hpast : (past s x).sansSeen = (past s sp).sansSeen := Split.retire_congr hxs ..
  have hnext : b.nextOp = w.nextOp := (congrArg Wave.nextOp hb.rest :)
  constructor
  · intro hrun
    rw [he, if_pos hrun]
    exact ⟨_, _, rfl, ⟨gs, n, rfl, hgs⟩, Wave.setSplit_sansRegs hb.rest _ hpast, hbound, hb.v, hb.s⟩
  · intro hrun
    rw [he, if_neg hrun]
    exact ⟨s.reissued _ gs n, _, (mk (w.seen sp s.free) sp).placedIn s b, 0, ⟨gs, n, rfl, hgs⟩,
      Wave.pushed_sansRegs (Wave.setSplit_sansRegs hb.rest s.cur.split hpast) _, hb.v, hb.s, hbound, hnext, rfl, rfl, rfl, hmk.passed ..,
      hmk.fault .., hmk.units .., hmk.run .., hmk.dst .., hwant .., _, rfl, rfl⟩
end

/-! ## Addresses and data (09 R210) -/

theorem signExtend_mul_eq_ofInt {n : Nat} (x : BitVec n) (m k : Nat) :
    x.signExtend m * BitVec.ofNat m k = BitVec.ofInt m (x.toInt * k) := by
  rw [BitVec.signExtend, ← BitVec.ofInt_natCast, ← BitVec.ofInt_mul]

/-- The words of a lane's data. -/
theorem quadOfWords_word (l : List Word) {k : Nat} (hk : k < 4) : (quadOfWords l).extractLsb' (32 * k) 32 = l.getD k 0 := by
  unfold quadOfWords
  refine BitVec.eq_of_getLsbD_eq fun i hi => ?_
  simp only [BitVec.getLsbD_extractLsb', hi, BitVec.getLsbD_append]
  interval_cases k
  all_goals grind

theorem regs_map_getD {w : Nat → Word} (r : Nat) {k n : Nat} (hk : k < n) : ((regs r n).map w).getD k 0 = w (r + k) := by
  simp [regs, hk]

/-! ## SLD and SST (09 R210) -/

/-- What an SLD of a wave loads: `n` words for its split. -/
def sldOp (s : State) (a : SmArgs) (n : Nat) (w : Wave) (sp : Split) : MemOp :=
  { kind := .load, access := .scalarLoad, space := .global, size := 4 * n, run := 1, live := w.liveOf sp,
    addrs := Table.set (fun _ => (0 : Dword)) [] 0
      (if a.a = 0x3FF then s.cur.iaddr + a.imm.signExtend 64 * BitVec.ofNat 64 (4 * n) else w.s2 a.a.toNat + a.imm.signExtend 64),
    scope := a.scope, ord := a.ord, dst := .scal a.d.toNat n }

/-- What an SST of a wave stores: `n` words of its split. -/
def sstOp (a : SmArgs) (n : Nat) (w : Wave) (sp : Split) : MemOp :=
  { kind := .store, access := .scalarStore, space := .global, size := 4 * n, run := 1, live := w.liveOf sp,
    addrs := Table.set (fun _ => (0 : Dword)) [] 0 (w.s2 a.a.toNat + a.imm.signExtend 64),
    data := Table.set zeroQuad [] 0 (quadOfWords ((regs a.d.toNat n).map w.s)), scope := a.scope, ord := a.ord }

theorem exec_sld {s : State} (hc : s.cur.svc = none) (sz : ScalarSize) (a : SmArgs) :
    let ar := if a.a = 0x3FF then [] else regs a.a.toNat 2
    exec (.sld sz a) s = .next (s.issueOp { sr := ar, sw := regs a.d.toNat (scalarWords sz), sfree := if a.la then ar else [] }
      (sldOp s a (scalarWords sz))) := by
  refine congrArg Host.Outcome.next ?_
  simp only [hc]
  rfl

theorem exec_sst {s : State} (hc : s.cur.svc = none) {sz : ScalarSize} (hsz : sz ≠ .b128) (a : SmArgs) :
    let ar := regs a.a.toNat 2
    let dr := regs a.d.toNat (scalarWords sz)
    exec (.sst sz a) s = .next (s.issueOp
      { sr := ar ++ dr, sfree := (if a.la then ar else []) ++ (if a.lb then dr else []) } (sstOp a (scalarWords sz))) := by
  refine congrArg Host.Outcome.next ?_
  simp only [hc]
  cases sz with
  | b128 => exact absurd rfl hsz
  | b32 => rfl
  | b64 => rfl

/-- The address that an operation formed for lane 0. -/
theorem MemOp.addr_zero_of_set {o : MemOp} {x : Dword} (h : o.addrs = Table.set (fun _ => (0 : Dword)) [] 0 x) : o.addr 0 = x := by
  rw [MemOp.addr, h, Table.get_set_self]

/-- Settles O17: each is the issue of its one access. -/
theorem scalarMemory : Obligations.ScalarMemory := by
  refine ⟨fun sz a s hc => ?_, fun sz a s hsz hc => ?_⟩
  · rw [exec_sld hc]
    refine issuesOp_of_issueOp ⟨fun _ _ => rfl, fun _ _ => rfl, fun _ _ => rfl, fun _ _ => rfl, fun _ _ => rfl⟩ fun w sp v =>
      ⟨rfl, rfl, rfl, rfl, rfl, rfl, rfl, (MemOp.addr_zero_of_set rfl).trans ?_⟩
    rw [signExtend_mul_eq_ofInt, BitVec.signExtend]
    rfl
  · rw [exec_sst hc hsz]
    refine issuesOp_of_issueOp ⟨fun _ _ => rfl, fun _ _ => rfl, fun _ _ => rfl, fun _ _ => rfl, fun _ _ => rfl⟩ fun w sp v =>
      ⟨rfl, rfl, rfl, rfl, rfl, rfl, rfl, MemOp.addr_zero_of_set rfl, fun k hk => ?_⟩
    have hn : k < 4 := hk.trans_le (by cases sz <;> decide)
    refine Eq.trans (congrArg (BitVec.extractLsb' (32 * k) 32) (Table.get_set_self ..)) ?_
    rw [quadOfWords_word _ hn, regs_map_getD _ hk]

end Sys2Proof.Machine

/-! The miss split of a load (O16), at a split whose repeat index is not 0 though the word that issues is no REP. -/

namespace Sys2Proof.Machine

open Sys2Proof.Claims

/-- A split of eight lanes that stands at repeat 1, with lane 0 as the lanes of repeat 0. -/
def midRepeatSplit : Split := { pc := 0x1000, lanes := 0xFF, rep := 1, repRun := 1 }

/-- The wave of that split. -/
def midRepeatWave : Wave := { width := 8, vres := 8, vmax := 8, splits := [(0, some midRepeatSplit)] }

/-- The wave issues a word that is no REP, in a context that is valid; nothing stands in TLBs and caches. -/
def midRepeat : State :=
  { State.reset with
      waves := [(0, some midRepeatWave)], csr := [(0x43008, 0x80000010)], cur := { iaddr := 0x1000, caddr := 0x1000, next := 0x1008 } }

/-- A load of a word from address 0, with MS. -/
def missingLoad : MArgs :=
  { d := 0, a := 0xFF, b := 0, s := 0x3FF, off := 0, scope := 0, ord := 0, g := 0, la := false, ms := true, ef := false }

/-- The state after the load's issue, before its miss split. -/
def loadIssued : State := midRepeat.vecLoad .global .load .b32 missingLoad

/-- The wave in it. -/
def loadedWave : Wave := (loadIssued.wave 0 0).getD {}

/-- The split in it. -/
def loadedSplit : Split := (loadedWave.split 0).getD {}

/-- The load in it. -/
def waitingLoad : MemOp := loadedWave.ops.headD {}

/-- A split that issues at a later repeat does not divide (04 R100). -/
theorem State.missSplit_of_rep {s : State} {w : Wave} {sp : Split} (h : s.issuing = some (w, sp)) (hr : sp.rep ≠ 0) (t : State) :
    s.missSplit t = t := by
  unfold State.missSplit
  split
  · next w0 sp0 w1 sp1 h0 h1 =>
    obtain ⟨rfl, rfl⟩ : w = w0 ∧ sp = sp0 := by simpa using h.symm.trans h0
    split
    · rfl
    · split
      · rfl
      · exact if_pos (by simp only [Bool.or_eq_true, decide_eq_true_eq]; exact .inr hr)
  · rfl

/-- Refutes O16: the model asks whether the split stood at repeat 0 before the load issued, the statement whether it does so after. A split that
stands at repeat 1 while its word is no REP leaves that repeat at the load's issue: the model does not divide it, where the statement has a part
of it in entry 1. The statement's hypotheses do not say that only a REP stands at a later repeat. The issue of the rows plays no part in this. -/
theorem not_memoryInstructions : ¬ Obligations.MemoryInstructions := by
  rintro ⟨-, h⟩
  have hbefore : midRepeat.issuing = some (midRepeatWave, midRepeatSplit) := by decide +kernel
  have hafter : loadIssued.issuing = some (loadedWave, loadedSplit) := by decide +kernel
  have hlast : loadedWave.ops.getLast? = some waitingLoad := by decide +kernel
  obtain ⟨-, hdivides⟩ := h midRepeat loadIssued midRepeatWave loadedWave midRepeatSplit loadedSplit waitingLoad hbefore hafter hlast
    (by decide +kernel) (by decide +kernel) (by decide +kernel) (by decide +kernel)
  obtain ⟨v, part, -, -, -, hdivided, -, hpart, -⟩ := hdivides rfl (by decide +kernel) ⟨0, by decide, by decide +kernel⟩
    ⟨4, by decide, by decide +kernel, by decide +kernel⟩ 1 (by decide) (by decide +kernel) (by decide +kernel)
  rw [State.missSplit_of_rep hbefore (by decide)] at hdivided
  have hwave : loadIssued.wave 0 0 = some v := by
    rw [hdivided]
    exact State.wave_setWave_self ..
  have hv : v = loadedWave := by rw [loadedWave, hwave, Option.getD_some]
  rw [hv] at hpart
  have hnone : loadedWave.split 1 = none := by decide +kernel
  rw [hnone] at hpart
  cases hpart

end Sys2Proof.Machine

/-! The checks of a memory operation and the walks that it awaits (09 R196, R199–R201, R209) (O21). -/

namespace Sys2Proof.Machine

open Sys2Proof.Claims

/-! ## What the TLBs and the walkers leave unchanged -/

/-- The state without the cores' and dies' own units. -/
def State.sansUnits (s : State) : State := { s with cores := [], dies := [] }

/-- The state without the dies' shared units. -/
def State.sansDies (s : State) : State := { s with dies := [] }

theorem State.eq_of_sansUnits {s t : State} (h : t.sansUnits = s.sansUnits) : t = { s with cores := t.cores, dies := t.dies } :=
  congrArg (fun x : State => { x with cores := t.cores, dies := t.dies }) h

theorem State.eq_of_sansDies {s t : State} (h : t.sansDies = s.sansDies) : t = { s with dies := t.dies } :=
  congrArg (fun x : State => { x with dies := t.dies }) h

@[simp] theorem State.tlbTouch_sansUnits (s : State) (core ctx va : Nat) : (s.tlbTouch core ctx va).sansUnits = s.sansUnits := by
  unfold State.tlbTouch
  split
  · rfl
  · split <;> rfl

@[simp] theorem State.requestWalk_sansDies (s : State) (x : PageWalk) : (s.requestWalk x).sansDies = s.sansDies := by
  unfold State.requestWalk
  extract_lets d
  split
  · rfl
  · split <;> rfl

theorem State.takeWalks_sansDies (s : State) (die : Nat) : (s.takeWalks die).sansDies = s.sansDies :=
  foldl_keeps State.sansDies _ (fun _ _ => State.requestWalk_sansDies ..) _ _

theorem State.requestWalks_sansDies (s : State) (core wave : Nat) (w : Wave) (o : MemOp) :
    (s.requestWalks core wave w o).sansDies = s.sansDies :=
  foldl_keeps State.sansDies _ (fun _ _ => by split <;> simp) _ _

/-! ## The checks of an operation (09 R209) -/

section
variable {s t : State} {core wave : Nat} {w : Wave} {o : MemOp}

/-- The state with the translations that an operation's checks use most recently used (09 R200). -/
def State.touched (s : State) (core wave : Nat) (w : Wave) (o : MemOp) : State :=
  (s.opNeeds core wave w o).foldl (fun s a => s.tlbTouch core w.ctx a) s

theorem State.touched_sansUnits : (s.touched core wave w o).sansUnits = s.sansUnits :=
  foldl_keeps State.sansUnits _ (fun _ _ => State.tlbTouch_sansUnits ..) _ _

theorem State.touched_eq : s.touched core wave w o =
    { s with cores := (s.touched core wave w o).cores, dies := (s.touched core wave w o).dies } :=
  State.eq_of_sansUnits State.touched_sansUnits

/-- A part that trespasses bears a free draw, and no other part changes. -/
theorem State.markTrespass_marked (us : List AccUnit) : Marked s core wave w o us (s.markTrespass core wave w o us) := by
  unfold State.markTrespass
  split
  · refine ⟨rfl, fun k u u' hu hu' => ?_⟩
    obtain rfl : u = u' := by simpa using hu.symm.trans hu'
    exact ⟨rfl, fun h => absurd rfl h⟩
  · next hspace =>
    refine ⟨by simp, fun k u u' hu hu' => ?_⟩
    obtain ⟨x, hx, rfl⟩ := List.getElem?_map .. ▸ hu' |> Option.map_eq_some_iff.1
    obtain rfl : (u, k) = x := by simpa [List.getElem?_zipIdx, hu] using hx
    extract_lets lanes
    split
    · next h => exact ⟨rfl, fun _ => ⟨not_not.1 hspace, h⟩⟩
    · exact ⟨rfl, fun h => absurd rfl h⟩

/-- The state with the draws of an operation's parts taken. -/
def State.drawn (s : State) (us : List AccUnit) : State :=
  if us.any (fun u => u.undef.isSome) then { s with free := s.free + 4 * us.length } else s

theorem State.drawn_eq (us : List AccUnit) : s.drawn us = { s with free := (s.drawn us).free } := by
  unfold State.drawn
  split <;> rfl

/-- The wave with its operation's checks passed. -/
def Wave.passing (w : Wave) (o : MemOp) (us : List AccUnit) : Wave := w.onOp o.id (fun p => { p with passed := true, units := us })

/-- An operation whose lanes pass their checks may be performed. -/
theorem State.checkOp_ok {us : List AccUnit} (hw : s.wave core wave = some w) (ho : w.op o.id = some o) (hp : o.passed = false)
    (hf : o.fault = none) (hs : s.shadowOf w.group = false) (h : s.opCheck core wave w o = .ok us) :
    s.checkOp core wave o.id = ((s.touched core wave w o).drawn (s.markTrespass core wave w o us)).setWave core wave
      (some (w.passing o (s.markTrespass core wave w o us))) := by
  simp only [State.checkOp, hw, ho, hp, hf, h, hs, Bool.false_or, Option.isSome_none, Bool.false_eq_true, if_false, Bool.false_and]
  rfl

/-- The wave with a fault in its operation. -/
def Wave.failed (w : Wave) (o : MemOp) (e : FaultInfo) : Wave := w.onOp o.id (fun p => { p with fault := some e })

/-- An operation with a lane that fails stops its wave. -/
theorem State.checkOp_error {e : FaultInfo} (hw : s.wave core wave = some w) (ho : w.op o.id = some o) (hp : o.passed = false)
    (hf : o.fault = none) (h : s.opCheck core wave w o = .error e) (hb : e.cause ≠ .breakpoint) :
    s.checkOp core wave o.id = ((s.touched core wave w o).setWave core wave
      (some (w.failed o e))).takeStop core wave o.split e o.pc := by
  simp only [State.checkOp, hw, ho, hp, hf, h, hb, Bool.false_or, Option.isSome_none, Bool.false_eq_true, if_false]
  rfl

/-- A running wave that is no replay drains for a cause that does not kill. -/
theorem State.takeStop_drains {split : Nat} {e : FaultInfo} {pc : Dword} (hw : s.wave core wave = some w) (hr : w.run = .running)
    (hs : s.shadowOf w.group = false) (hk : fateOf e.cause e.kind ≠ .kill) :
    s.takeStop core wave split e pc =
      s.setWave core wave (some { w with run := .draining, halt := some { info := e, pc := pc, split := split } }) := by
  simp only [State.takeStop, hw, hs, hr, Bool.false_eq_true, if_false]

theorem State.setWave_setWave (core wave : Nat) (x y : Option Wave) : (s.setWave core wave x).setWave core wave y = s.setWave core wave y := by
  simp only [State.setWave, Table.set_set]

/-- The state of a wave that an operation's fault halts. -/
theorem State.checkOp_stops {e : FaultInfo} (hw : s.wave core wave = some w) (ho : w.op o.id = some o) (hp : o.passed = false)
    (hf : o.fault = none) (hs : s.shadowOf w.group = false) (hr : w.run = .running) (h : s.opCheck core wave w o = .error e)
    (hb : e.cause ≠ .breakpoint) (hk : fateOf e.cause e.kind ≠ .kill) :
    s.checkOp core wave o.id = (s.touched core wave w o).setWave core wave (some { w.failed o e with
      run := .draining, halt := some { info := e, pc := o.pc, split := o.split } }) := by
  have hgroups : (s.touched core wave w o).groups = s.groups := (congrArg State.groups State.touched_sansUnits :)
  have hshadow : ((s.touched core wave w o).setWave core wave (some (w.failed o e))).shadowOf w.group = false := by
    rwa [State.shadowOf, State.group, State.setWave_groups, hgroups]
  rw [State.checkOp_error hw ho hp hf h hb, State.takeStop_drains (w := w.failed o e) (State.wave_setWave_self ..) hr hshadow hk,
    State.setWave_setWave]

/-! ## The lowest lane that fails -/

/-- The lanes of a mask rise. -/
theorem lanesOf_pairwise (m : Dword) : (lanesOf m).Pairwise (· < ·) := List.pairwise_lt_range.filter _

/-- The scan of the lanes' checks after lane `i`. -/
def State.scanLane (s : State) (core wave : Nat) (w : Wave) (o : MemOp) (acc : Except FaultInfo (List AccUnit)) (i : Nat) :
    Except FaultInfo (List AccUnit) :=
  match acc with
  | .error e => .error e
  | .ok us => match s.laneCheck core wave w o i with
    | .error e => .error e
    | .ok vs => .ok (us ++ vs)

theorem State.foldl_scanLane_error (e : FaultInfo) (l : List Nat) : l.foldl (s.scanLane core wave w o) (.error e) = .error e := by
  induction l with
  | nil => rfl
  | cons i l ih => exact ih

/-- The fault of the first lane of a rising list that fails. -/
theorem State.foldl_scanLane_lowest {l : List Nat} {i : Nat} {e : FaultInfo} (hl : l.Pairwise (· < ·)) (hi : i ∈ l)
    (hlow : ∀ j ∈ l, j < i → ∃ us, s.laneCheck core wave w o j = .ok us) (he : s.laneCheck core wave w o i = .error e) (us : List AccUnit) :
    l.foldl (s.scanLane core wave w o) (.ok us) = .error e := by
  induction l generalizing us with
  | nil => cases hi
  | cons j l ih =>
    rw [List.pairwise_cons] at hl
    rcases List.mem_cons.1 hi with rfl | hmem
    · rw [List.foldl_cons, State.scanLane, he]
      exact State.foldl_scanLane_error e l
    · obtain ⟨vs, hv⟩ := hlow j (List.mem_cons_self ..) (hl.1 i hmem)
      rw [List.foldl_cons, State.scanLane, hv]
      exact ih hl.2 hmem (fun k hk => hlow k (List.mem_cons_of_mem _ hk)) _

theorem State.opCheck_lowest {i : Nat} {e : FaultInfo} (hi : i ∈ lanesOf (o.run &&& ~~~o.doneMask))
    (hlow : ∀ j ∈ lanesOf (o.run &&& ~~~o.doneMask), j < i → ∃ us, s.laneCheck core wave w o j = .ok us)
    (he : s.laneCheck core wave w o i = .error e) : s.opCheck core wave w o = .error e := by
  have hscan : (lanesOf (o.run &&& ~~~o.doneMask)).foldl (s.scanLane core wave w o) (.ok []) = .error e :=
    State.foldl_scanLane_lowest (lanesOf_pairwise _) hi hlow he []
  unfold State.opCheck
  extract_lets todo scan
  have : scan = .error e := hscan
  rw [this]
end

/-! ## Walkers (09 R196, R200, R201) -/

section
variable {s : State} {die n : Nat} {x : PageWalk}

theorem State.walkEnded_gone {r : Walked} (h : (s.wave x.core x.wave).bind (fun w => w.op x.op) = none) : s.walkEnded x r = s := by
  unfold State.walkEnded
  split
  · rfl
  · next w hw =>
    rw [hw, Option.bind_some] at h
    rw [h]

/-- The state in which a walk has ended: its walker is free, the walk is counted and the oldest requests have been taken. -/
def State.walkerFreed (s : State) (die n : Nat) (x : PageWalk) : State :=
  ((s.onDie die (fun d => { d with walks := d.walks.eraseIdx n })).countWalk die x.ctx).takeWalks die

/-- The state with the page of a walk that gave a translation in the TLBs. -/
def State.walkFilled (s : State) (x : PageWalk) (r : Walked) : State := if r.cause.isNone then s.tlbFill x.core r.page else s

theorem State.walkStep_done {r : Walked} (hx : (s.die die).walks[n]? = some x)
    (h : ({ s with free := s.free + 1 } : State).walkRead x.ctx x.va (x.left - 1) x.table = .done r) :
    s.walkStep die n = ((({ s with free := s.free + 1 } : State).walkerFreed die n x).walkFilled x r).walkEnded x r := by
  simp only [State.walkStep, hx, h]
  rfl

theorem State.walkStep_on {next : Nat} (hx : (s.die die).walks[n]? = some x)
    (h : ({ s with free := s.free + 1 } : State).walkRead x.ctx x.va (x.left - 1) x.table = .on next) :
    s.walkStep die n = ({ s with free := s.free + 1 } : State).onDie die
      (fun d => { d with walks := d.walks.set n { x with left := x.left - 1, table := next } }) := by
  simp only [State.walkStep, hx, h]

theorem State.walkerFreed_sansDies : (s.walkerFreed die n x).sansDies =
    { s.sansDies with csr := (s.countWalk die x.ctx).csr } :=
  (State.takeWalks_sansDies ..).trans rfl

theorem State.walkFilled_sansUnits (r : Walked) : (s.walkFilled x r).sansUnits = s.sansUnits := by
  unfold State.walkFilled
  split <;> rfl

theorem mem_walkFilled {r : Walked} (h : r.cause = none) : r.page ∈ ((s.walkFilled x r).core x.core).tlb := by
  rw [State.walkFilled, h]
  simp [State.tlbFill, l1Fill]
end

/-- Settles O21, by the scan of the lanes in rising order and one step of a walker. -/
theorem operationChecks : Obligations.OperationChecks := by
  refine ⟨fun s core wave w o us hw ho hp hf hs h => ?_, fun s core wave w o e hw ho hp hf hs hr h hb hk => ?_,
    fun s core wave w o i e _ hi hlow he => State.opCheck_lowest hi hlow he,
    fun s core wave w o harg hw ho hp hf hr => ⟨fun hk => ?_, fun hk => ?_⟩,
    fun s die n x harg hx => ?_⟩
  · refine ⟨_, _, State.checkOp_ok hw ho hp hf hs h, State.markTrespass_marked us, ?_⟩
    rw [State.drawn_eq, State.touched_eq]
    rfl
  · refine ⟨_, State.checkOp_stops hw ho hp hf hs hr h hb hk, ?_⟩
    rw [State.touched_eq]
    rfl
  · refine congrArg Host.Outcome.next ?_
    simp only [harg, hw, ho, hp, hf, hr, hk]
    rfl
  · refine ⟨s.requestWalks core wave w o, congrArg Host.Outcome.next ?_, State.eq_of_sansDies (State.requestWalks_sansDies ..)⟩
    simp only [harg, hw, ho, hp, hf, hr, hk]
    rfl
  · intro s₁
    refine ⟨fun next h => ?_, fun r h hgone => ?_⟩
    · refine ⟨s₁.onDie die (fun d => { d with walks := d.walks.set n { x with left := x.left - 1, table := next } }),
        congrArg Host.Outcome.next ?_, rfl, fun d hd => State.die_onDie_ne s₁ _ hd, State.die_onDie_self s₁ ..⟩
      simp only [harg]
      exact State.walkStep_on hx h
    · have hrest : ((s₁.walkerFreed die n x).walkFilled x r).sansUnits = { s₁.sansUnits with csr := (s₁.countWalk die x.ctx).csr } :=
        (State.walkFilled_sansUnits r).trans (congrArg (fun y : State => { y with cores := [] }) State.walkerFreed_sansDies)
      have hwaves : ((s₁.walkerFreed die n x).walkFilled x r).waves = s.waves := (congrArg State.waves hrest :)
      have hcsr : ((s₁.walkerFreed die n x).walkFilled x r).csr = (s₁.countWalk die x.ctx).csr := (congrArg State.csr hrest :)
      refine ⟨(s₁.walkerFreed die n x).walkFilled x r, congrArg Host.Outcome.next ?_, ?_, ?_, mem_walkFilled⟩
      · simp only [harg]
        rw [State.walkStep_done hx h, State.walkEnded_gone (by rwa [State.wave, hwaves])]
      · rw [hcsr]
        exact State.eq_of_sansUnits (s := { s₁ with csr := (s₁.countWalk die x.ctx).csr }) hrest
      · rw [State.csrAt, hcsr]
        exact State.csrAt_onCsr_self ..

end Sys2Proof.Machine

/-! What a part of an operation does where it is performed (O22; 09 R203–R205, R209, R211; 08 R180–R183). -/

namespace Sys2Proof.Machine

open Sys2Proof.Claims

/-! ## What an atomic leaves (09 R211, 08 R182) -/

theorem atomInt_eq {n : Nat} (op : AtomOp) (old b new : BitVec n) : atomInt op old b new = atomicInt op old b new := by
  cases op with
  | add => simp only [atomInt, atomicInt, BitVec.ofNat_add, BitVec.ofNat_toNat, BitVec.setWidth_eq]
  | min => simp only [atomInt, atomicInt, BitVec.slt_iff_toInt_lt]
  | max => simp only [atomInt, atomicInt, BitVec.slt_iff_toInt_lt]
  | minn => rfl
  | maxn => rfl
  | _ => rfl

theorem atomNew32_eq (op : AtomOp) (old b new : Word) : atomNew32 op old b new =
    if op = .fadd then toF32 .rne (Val.add false (f32 old) (f32 b))
    else if op = .fadd2b then
      eachHalf .bf16 .rne (fun j => Val.add false (Fmt.bf16.decode (half old j)) (Fmt.bf16.decode (half b j)))
    else atomicInt op old b new := by
  cases op with
  | fadd => rfl
  | fadd2b =>
    rw [if_neg nofun, if_pos rfl]
    simp only [atomNew32, packedAdd, packed_eq_eachHalf]
    rfl
  | _ =>
    rw [if_neg nofun, if_neg nofun]
    simp only [atomNew32, atomInt_eq]

theorem atomNew64_eq (op : AtomOp) (old b new : Dword) : atomNew64 op old b new =
    if op = .fadd then toF64 .rne (Val.add false (f64 old) (f64 b)) else atomicInt op old b new := by
  cases op with
  | fadd => rfl
  | _ =>
    rw [if_neg nofun]
    simp only [atomNew64, atomInt_eq]

theorem ofNat_toNat_div {w : Nat} (q : BitVec w) (i n : Nat) : BitVec.ofNat n (q.toNat / 2 ^ i) = q.extractLsb' i n := by
  apply BitVec.eq_of_toNat_eq
  rw [BitVec.toNat_ofNat, BitVec.extractLsb'_toNat, Nat.shiftRight_eq_div_pow]

theorem ofNat_toNat_low {w : Nat} (q : BitVec w) (n : Nat) : BitVec.ofNat n q.toNat = q.extractLsb' 0 n := by
  rw [← ofNat_toNat_div, pow_zero, Nat.div_one]

/-- What an atomic leaves, as the statements give it. -/
theorem atomNew_eq {len : Nat} (hlen : len = 4 ∨ len = 8) (op : AtomOp) (old : Nat) (data : Quad) :
    atomNew op (decide (len = 8)) old data.toNat = atomicOf op len old data := by
  rcases hlen with rfl | rfl
  · simp only [atomNew, atomicOf, atomNew32_eq, ofNat_toNat_low, ofNat_toNat_div]
    cases op <;> rfl
  · simp only [atomNew, atomicOf, atomNew64_eq, ofNat_toNat_low, ofNat_toNat_div]
    cases op <;> rfl

theorem atomNew_lt (op : AtomOp) {len : Nat} (hlen : len = 4 ∨ len = 8) (old data : Nat) :
    atomNew op (decide (len = 8)) old data < 256 ^ len := by
  rcases hlen with rfl | rfl
  · exact (atomNew32 ..).isLt
  · exact (atomNew64 ..).isLt

/-! ## Bytes -/

theorem leBytes_getD {n i : Nat} (h : i < n) (x : Nat) : (leBytes n x).getD i 0 = BitVec.ofNat 8 (x / 256 ^ i) := by
  induction n generalizing i x with
  | zero => omega
  | succ n ih =>
    cases i with
    | zero => simp [leBytes]
    | succ i => rw [leBytes, List.getD_cons_succ, ih (by omega), Nat.div_div_eq_div_mul, pow_succ']

/-- The bytes of a number's bytes. -/
theorem leBytes_leNat (l : List Byte) : leBytes l.length (leNat l) = l := by
  induction l with
  | nil => rfl
  | cons b l ih =>
    have hdiv : (b.toNat + 256 * leNat l) / 256 = leNat l := by have := b.isLt; omega
    rw [List.length_cons, leBytes, leNat, hdiv, ih]
    congr 1
    apply BitVec.eq_of_toNat_eq
    have := b.isLt
    simp
    omega

/-- The bytes that a part stores. -/
theorem MemOp.bytesOf_getD {o : MemOp} {u : AccUnit} (hu : u.undef = none) (hlen : u.off + u.len ≤ 16) {j : Nat} (hj : j < u.len) :
    (o.bytesOf u).getD j 0 = dataByte o u.lane (u.off + j) := by
  have hget : (((leBytes 16 (Table.get zeroQuad o.data u.lane).toNat).drop u.off).take u.len).getD j 0 =
      (leBytes 16 (Table.get zeroQuad o.data u.lane).toNat).getD (u.off + j) 0 := by
    simp only [List.getD_eq_getElem?_getD, List.getElem?_take, hj, if_true, List.getElem?_drop]
  rw [MemOp.bytesOf, hu]
  refine hget.trans ?_
  rw [leBytes_getD (by omega), show (256 : Nat) ^ (u.off + j) = 2 ^ (8 * (u.off + j)) by rw [pow_mul]; rfl, ofNat_toNat_div, dataByte]

theorem MemOp.bytesOf_length {o : MemOp} {u : AccUnit} (hu : u.undef = none) (hlen : u.off + u.len ≤ 16) : (o.bytesOf u).length = u.len := by
  simp only [MemOp.bytesOf, hu, List.length_take, List.length_drop, leBytes_length]
  omega

/-! ## A part that is done (09 R209) -/

/-- Operation `o` with part k done, and with the bytes that it read where it reads. -/
def MemOp.doneWith (k : Nat) (bs : List Byte) (o : MemOp) : MemOp :=
  (match o.units[k]? with
    | some u => if o.reads then o.keep u (match u.undef with
        | some k => (freeBytes (k + 2)).take u.len
        | none => bs) else o
    | none => o).onUnit k (fun u => { u with done := true, sent := false })

section
variable {o : MemOp} {k : Nat} {u : AccUnit} {bs : List Byte}

/-- The parts with part k changed. -/
def partsWith (k : Nat) (f : AccUnit → AccUnit) (us : List AccUnit) : List AccUnit := us.zipIdx.map (fun x => if x.2 = k then f x.1 else x.1)

theorem partsWith_self {us : List AccUnit} (hu : us[k]? = some u) (f : AccUnit → AccUnit) : (partsWith k f us)[k]? = some (f u) := by
  simp [partsWith, hu]

/-- `onUnit` changes the parts and the lanes that are done. -/
theorem MemOp.onUnit_frame (o : MemOp) (k : Nat) (f : AccUnit → AccUnit) :
    ∃ m, o.onUnit k f = { o with units := partsWith k f o.units, doneMask := m } := by
  unfold MemOp.onUnit
  extract_lets p
  split
  · split <;> exact ⟨_, rfl⟩
  · exact ⟨_, rfl⟩

/-- The mark of a part that is done. -/
def AccUnit.finished (u : AccUnit) : AccUnit := { u with done := true, sent := false }

/-- A part that is done changes what has been read, the parts and the lanes that are done. -/
theorem MemOp.doneWith_frame (hu : o.units[k]? = some u) (hdef : u.undef = none) :
    ∃ m, o.doneWith k bs = { o with units := partsWith k AccUnit.finished o.units, doneMask := m,
                                    got := (if o.reads then o.keep u bs else o).got } := by
  have heq : o.doneWith k bs = (if o.reads then o.keep u bs else o).onUnit k AccUnit.finished := by
    simp only [MemOp.doneWith, hu, hdef]
    rfl
  rw [heq]
  split
  · exact MemOp.onUnit_frame ..
  · exact MemOp.onUnit_frame ..

theorem MemOp.onUnit_id (o : MemOp) (k : Nat) (f : AccUnit → AccUnit) : (o.onUnit k f).id = o.id := by
  obtain ⟨m, h⟩ := o.onUnit_frame k f
  rw [h]

theorem MemOp.doneWith_id (k : Nat) (bs : List Byte) (o : MemOp) : (o.doneWith k bs).id = o.id := by
  rw [MemOp.doneWith, MemOp.onUnit_id]
  split
  · split <;> rfl
  · rfl

theorem MemOp.keep_gotBytes (hlen : bs.length = u.len) (hfit : u.off % 16 + u.len ≤ 16) : (o.keep u bs).gotBytes u.lane u.off u.len = bs := by
  have hold := leBytes_length 16 (Table.get zeroQuad o.got (gotKey u.lane u.off)).toNat
  simp only [MemOp.gotBytes, MemOp.keep, Table.update, Table.get_set_self]
  generalize leBytes 16 (Table.get zeroQuad o.got (gotKey u.lane u.off)).toNat = old at hold
  have hall : (old.take (u.off % 16) ++ bs ++ old.drop (u.off % 16 + bs.length)).length = 16 := by
    simp only [List.length_append, List.length_take, List.length_drop, hold, hlen]
    omega
  have hnat : (BitVec.ofNat 128 (leNat (old.take (u.off % 16) ++ bs ++ old.drop (u.off % 16 + bs.length)))).toNat =
      leNat (old.take (u.off % 16) ++ bs ++ old.drop (u.off % 16 + bs.length)) :=
    Nat.mod_eq_of_lt ((leNat_lt _).trans_le (by rw [hall]; decide))
  have hback := leBytes_leNat (old.take (u.off % 16) ++ bs ++ old.drop (u.off % 16 + bs.length))
  rw [hall] at hback
  have hpre : (old.take (u.off % 16)).length = u.off % 16 := by rw [List.length_take, hold]; omega
  rw [hnat, hback, List.append_assoc, List.drop_left' hpre, List.take_left' hlen]

end

/-! ## The steps after a part's own (09 R209; 10 R219, R224) -/

section
variable {s t : State} {core wave : Nat} {w v : Wave} {o : MemOp} {k : Nat} {u : AccUnit} {bs : List Byte}

theorem Wave.op_onOp {id : Nat} {f : MemOp → MemOp} (hf : ∀ o, (f o).id = o.id) (w : Wave) : (w.onOp id f).op id = (w.op id).map f := by
  unfold Wave.op Wave.onOp
  induction w.ops with
  | nil => rfl
  | cons o l ih =>
    by_cases h : o.id = id
    · simp [h, hf]
    · simpa [h] using ih

theorem State.markDone_eq (hw : s.wave core wave = some w) (id k : Nat) (bs : List Byte) :
    s.markDone core wave id k bs = s.setWave core wave (some (w.onOp id (MemOp.doneWith k bs))) := by
  rw [State.markDone, State.onWave, hw]
  rfl

theorem State.acquired_sansUnits (s : State) (core wave id k : Nat) : (s.acquired core wave id k).sansUnits = s.sansUnits := by
  unfold State.acquired State.acquireAt
  split
  · rfl
  · split
    · split <;> rfl
    · rfl

/-- The wave without its digest. -/
def Wave.sansDigest (w : Wave) : Wave := { w with digest := 0 }

/-- The memory, the CSRs and, but for its digest, a wave. -/
def State.view (core wave : Nat) (s : State) : Table Byte × Table Word × Option Wave := (s.mem, s.csr, (s.wave core wave).map Wave.sansDigest)

theorem State.wave_of_sansUnits {x : Option Wave} (h : t.sansUnits = (s.setWave core wave x).sansUnits) : t.wave core wave = x :=
  (congrArg (fun y : State => y.wave core wave) h :).trans (State.wave_setWave_self s core wave x)

theorem State.countStore_view (s : State) (core wave : Nat) (w : Wave) (o : MemOp) :
    (s.countStore core wave w o).view core wave = s.view core wave := by
  unfold State.countStore
  split
  · refine foldl_keeps (State.view core wave) _ (fun t e => ?_) _ _
    extract_lets word mask
    split
    · simp only [State.view, State.onWave_mem, State.onWave_csr, State.onGroup_mem, State.onGroup_csr, State.wave_onWave_self, Option.map_map,
        State.onGroup_wave_same]
      rfl
    · rfl
  · rfl

theorem State.countStore_scratch (s : State) (core wave : Nat) (w : Wave) (h : o.space = .scratch) : s.countStore core wave w o = s := by
  simp [State.countStore, h]

/-- The wave without the words that its MMAs may still read and their windows. -/
def Wave.sansNotes (w : Wave) : Wave := { w with bhist := [], windows := [] }

/-- The wave without what the end of a part may change in it. -/
def Wave.sansPart (w : Wave) : Wave := { w.sansNotes with ops := [], digest := 0 }

/-- The state in which part k of an operation has been performed, once state `s` holds what it wrote. -/
def State.afterPart (s : State) (core wave id k : Nat) (bs : List Byte) : State :=
  ((s.markDone core wave id k bs).acquired core wave id k).finishStore core wave id

/-- What the end of a part needs to know: the operation in its wave, its part, and no trespass. -/
structure PartAt (s : State) (core wave : Nat) (w : Wave) (o : MemOp) (k : Nat) (u : AccUnit) : Prop where
  wave : s.wave core wave = some w
  op : w.op o.id = some o
  unit : o.units[k]? = some u
  defined : u.undef = none

/-- The wave with part k of an operation done. -/
def Wave.partDone (w : Wave) (id k : Nat) (bs : List Byte) : Wave := w.onOp id (MemOp.doneWith k bs)

theorem Wave.partDone_op (h : w.op o.id = some o) : (w.partDone o.id k bs).op o.id = some (o.doneWith k bs) := by
  rw [Wave.partDone, Wave.op_onOp (MemOp.doneWith_id k bs), h]
  rfl

namespace PartAt
variable (h : PartAt s core wave w o k u)
include h

theorem marked (bs : List Byte) : ((s.markDone core wave o.id k bs).acquired core wave o.id k).sansUnits =
    (s.setWave core wave (some (w.partDone o.id k bs))).sansUnits := by
  rw [State.acquired_sansUnits, State.markDone_eq h.wave]
  rfl

/-- A part of an operation that is no store, once performed. -/
theorem read (hk : o.kind ≠ .store) (bs : List Byte) : (s.afterPart core wave o.id k bs).sansUnits =
    (s.setWave core wave (some (w.partDone o.id k bs))).sansUnits := by
  have hm := h.marked bs
  unfold State.afterPart
  generalize (s.markDone core wave o.id k bs).acquired core wave o.id k = y at hm
  have hwave : y.wave core wave = some (w.partDone o.id k bs) := State.wave_of_sansUnits hm
  obtain ⟨m, hd⟩ := MemOp.doneWith_frame (bs := bs) h.unit h.defined
  simp only [State.finishStore, hwave, Wave.partDone_op h.op, hd, hk]
  exact hm

/-- A part of a store, once performed: the store leaves with its last part. -/
theorem wrote (hk : o.kind = .store) : ∃ v, (s.afterPart core wave o.id k []).wave core wave = some v ∧
    (s.afterPart core wave o.id k []).mem = s.mem ∧ (s.afterPart core wave o.id k []).csr = s.csr ∧
    (o.space = .scratch → (s.afterPart core wave o.id k []).groups = s.groups) ∧
    v.sansDigest = (if (o.doneWith k []).units.all (fun u => u.done) then
      { w.partDone o.id k [] with ops := (w.partDone o.id k []).ops.filter (fun p => decide (p.id ≠ o.id)) }
      else w.partDone o.id k []).sansDigest := by
  have hm := h.marked []
  unfold State.afterPart
  generalize (s.markDone core wave o.id k []).acquired core wave o.id k = y at hm
  have hwave : y.wave core wave = some (w.partDone o.id k []) := State.wave_of_sansUnits hm
  have hmem : y.mem = s.mem := (congrArg State.mem hm :)
  have hcsr : y.csr = s.csr := (congrArg State.csr hm :)
  have hgroups : y.groups = s.groups := (congrArg State.groups hm :)
  obtain ⟨m, hd⟩ := MemOp.doneWith_frame (bs := []) h.unit h.defined
  have hkind : (o.doneWith k []).kind = .store := by rw [hd]; exact hk
  have hspace : (o.doneWith k []).space = o.space := by rw [hd]
  simp only [State.finishStore, hwave, Wave.partDone_op h.op, hkind, decide_true, Bool.true_and]
  split
  · have hview := State.countStore_view y core wave (w.partDone o.id k []) (o.doneWith k [])
    have hcount : y.countStore core wave (w.partDone o.id k []) (o.doneWith k []) = y ∨ o.space ≠ .scratch := by
      by_cases hs : o.space = .scratch
      · exact .inl (State.countStore_scratch y core wave _ (hspace.trans hs))
      · exact .inr hs
    generalize y.countStore core wave (w.partDone o.id k []) (o.doneWith k []) = z at hview hcount
    simp only [State.view, Prod.mk.injEq, hwave, Option.map_some] at hview
    obtain ⟨hzm, hzc, hzw⟩ := hview
    obtain ⟨x, hx, hxd⟩ := Option.map_eq_some_iff.1 hzw
    refine ⟨_, by rw [State.wave_onWave_self, hx]; rfl, by rw [State.onWave_mem, hzm, hmem], by rw [State.onWave_csr, hzc, hcsr],
      fun hs => ?_, ?_⟩
    · rw [State.onWave_groups, hcount.resolve_right (not_not.2 hs), hgroups]
    · exact congrArg (fun x : Wave => { x with ops := x.ops.filter (fun p => decide (p.id ≠ o.id)) }) hxd
  · exact ⟨_, hwave, hmem, hcsr, fun _ => hgroups, rfl⟩

theorem done (bs : List Byte) : ∀ u', (o.doneWith k bs).units[k]? = some u' → u'.done = true := by
  obtain ⟨m, hd⟩ := MemOp.doneWith_frame (bs := bs) h.unit h.defined
  intro u' hu'
  rw [hd] at hu'
  obtain rfl : u.finished = u' := Option.some.inj ((partsWith_self h.unit _).symm.trans hu')
  rfl

theorem gotBytes (hr : o.reads = true) (hlen : bs.length = u.len) (hfit : u.off % 16 + u.len ≤ 16) :
    (o.doneWith k bs).gotBytes u.lane u.off u.len = bs := by
  obtain ⟨m, hd⟩ := MemOp.doneWith_frame (bs := bs) h.unit h.defined
  rw [hd, hr]
  exact MemOp.keep_gotBytes hlen hfit

theorem all_done (hone : o.units.length = 1) (bs : List Byte) : (o.doneWith k bs).units.all (fun u => u.done) = true := by
  have hdone := h.done bs
  obtain ⟨m, hd⟩ := MemOp.doneWith_frame (bs := bs) h.unit h.defined
  have hk : k = 0 := by have := (List.getElem?_eq_some_iff.1 h.unit).1; omega
  subst hk
  have hlen : (o.doneWith 0 bs).units.length = 1 := by rw [hd]; simpa [partsWith] using hone
  obtain ⟨x, hx⟩ := List.length_eq_one_iff.1 hlen
  rw [hx] at hdone ⊢
  simpa using hdone x rfl

/-- What a part of an operation that is no store leaves in its wave, which another wave `w₀` had but for notes of MMAs. -/
theorem partDone_read {w₀ : Wave} (hw : w.sansNotes = w₀.sansNotes) (hk : o.kind ≠ .store) (hr : o.reads = true) (hlen : bs.length = u.len)
    (hfit : u.off % 16 + u.len ≤ 16) : PartDone (s.afterPart core wave o.id k bs) core wave w₀ o k u bs := by
  refine ⟨_, State.wave_of_sansUnits (h.read hk bs), fun r l => (congrArg (fun x : Wave => x.v r l) hw :),
    fun n => (congrArg (fun x : Wave => x.s n) hw :), (congrArg Wave.splits hw :), fun _ => ⟨_, Wave.partDone_op h.op, h.done bs, h.gotBytes hr hlen hfit⟩, fun hs => absurd hs hk⟩

/-- What a part of a store leaves in its wave. -/
theorem partDone_wrote {w₀ : Wave} (hw : w.sansNotes = w₀.sansNotes) (hk : o.kind = .store) :
    PartDone (s.afterPart core wave o.id k []) core wave w₀ o k u [] := by
  obtain ⟨v, hv, -, -, -, hd⟩ := h.wrote hk
  have hops : v.op o.id = if (o.doneWith k []).units.all (fun u => u.done) then none else some (o.doneWith k []) := by
    refine (congrArg (fun x : Wave => x.op o.id) hd :).trans ?_
    split
    · rw [Wave.op]
      simp [Wave.sansDigest]
    · exact Wave.partDone_op h.op
  have hrest : v.sansPart = w₀.sansPart := by
    refine (congrArg Wave.sansPart hd :).trans (Eq.trans ?_ (congrArg Wave.sansPart hw :))
    split <;> rfl
  refine ⟨v, hv, fun r l => (congrArg (fun x : Wave => x.v r l) hrest :), fun n => (congrArg (fun x : Wave => x.s n) hrest :),
    (congrArg Wave.splits hrest :), fun hs => absurd hk hs, fun _ => ⟨fun o' ho' => ?_, fun hone => ?_⟩⟩
  · rw [hops] at ho'
    split at ho'
    · cases ho'
    · cases ho'
      exact h.done []
  · rw [hops, if_pos (h.all_done hone [])]
end PartAt

/-! ## The part itself, at its home (09 R203–R205, R211) -/

theorem State.fillL1_sansUnits (s : State) (core ctx pa : Nat) (ef : Bool) : (s.fillL1 core ctx pa ef).sansUnits = s.sansUnits := by
  unfold State.fillL1
  split <;> rfl

theorem State.fillL2_sansUnits (s : State) (die ctx pa : Nat) (ef : Bool) : (s.fillL2 die ctx pa ef).sansUnits = s.sansUnits := by
  unfold State.fillL2
  split
  · rfl
  · extract_lets home t
    split <;> rfl

theorem State.writeHome_sansUnits (s : State) (who : Post) (near : List Nat) (pa : Nat) (bs : List Byte) :
    (s.writeHome who near pa bs).sansUnits = (s.putMem pa bs).sansUnits := by
  unfold State.writeHome
  refine foldl_keeps State.sansUnits _ (fun t e => ?_) _ _
  split
  · rfl
  · split <;> rfl

/-- The state of module memory that part `u` of operation `o` finds when it ends. -/
def State.broughtIn (s : State) (core ctx : Nat) (o : MemOp) (u : AccUnit) : State :=
  if cacheAttr u.attr u.dev u.pa = 2 then s else s.fillL2 (dieOf core) ctx u.pa o.ef

theorem State.broughtIn_sansUnits (s : State) (core ctx : Nat) (o : MemOp) (u : AccUnit) : (s.broughtIn core ctx o u).sansUnits = s.sansUnits := by
  unfold State.broughtIn
  split
  · rfl
  · exact State.fillL2_sansUnits ..

/-- The state once a load of module memory has brought its bytes to its core. -/
def State.loaded (s : State) (core ctx : Nat) (o : MemOp) (u : AccUnit) : State :=
  let t := (s.dropSectors core u.pa u.len).broughtIn core ctx o u
  if cacheAttr u.attr u.dev u.pa = 0 then t.fillL1 core ctx u.pa o.ef else t

theorem State.loaded_sansUnits (s : State) (core ctx : Nat) (o : MemOp) (u : AccUnit) : (s.loaded core ctx o u).sansUnits = s.sansUnits := by
  unfold State.loaded
  extract_lets t
  have ht : t.sansUnits = s.sansUnits := State.broughtIn_sansUnits ..
  split
  · exact (State.fillL1_sansUnits ..).trans ht
  · exact ht

/-- The state once a write of a lane has been performed at its home. -/
def State.written (s : State) (core wave : Nat) (u : AccUnit) (bs : List Byte) : State :=
  s.writeHome (.lane core wave) (core :: u.reached) u.pa bs

theorem MemOp.reads_of_load (h : o.kind = .load) : o.reads = true := by rw [MemOp.reads, h]

theorem MemOp.reads_of_atomic {op : AtomOp} (h : o.kind = .atomic op) : o.reads = true := by rw [MemOp.reads, h]

theorem State.doMemory_load {ctx : Nat} (hk : o.kind = .load) (hp : s.poisoned u.pa u.len = false) :
    s.doMemory core wave ctx o k u = (s.loaded core ctx o u).markDone core wave o.id k (s.bytes u.pa u.len) := by
  simp only [State.doMemory, hk, hp, Bool.and_false, Bool.false_eq_true, if_false]
  rfl

theorem State.doMemory_store {ctx : Nat} (hk : o.kind = .store) (hp : s.poisoned u.pa u.len = false) :
    s.doMemory core wave ctx o k u = (s.written core wave u (o.bytesOf u)).markDone core wave o.id k [] := by
  simp only [State.doMemory, hk, hp, Bool.and_false, Bool.false_eq_true, if_false]
  rfl

theorem State.doMemory_atomic {ctx : Nat} {op : AtomOp} (hk : o.kind = .atomic op) (hp : s.poisoned u.pa u.len = false)
    (hu : u.undef = none) : s.doMemory core wave ctx o k u =
      ((s.written core wave u (leBytes u.len (atomNew op (decide (u.len = 8)) (leNat (s.bytes u.pa u.len))
        (Table.get zeroQuad o.data u.lane).toNat))).broughtIn core ctx o u).markDone core wave o.id k (s.bytes u.pa u.len) := by
  simp only [State.doMemory, hk, hp, hu, Bool.and_false, Bool.false_eq_true, if_false, Option.isSome_none]
  rfl

theorem State.performUnit_memory (hw : s.wave core wave = some w) (hs : o.space ≠ .scratch) (hsh : s.shadowOf w.group = false)
    (hp : placeOf u.pa = .memory) : s.performUnit core wave o k u =
      ((s.doMemory core wave w.ctx o k u).acquired core wave o.id k).finishStore core wave o.id := by
  simp only [State.performUnit, hw, hs, hsh, hp, Bool.and_false, Bool.false_eq_true, if_false]

theorem State.performUnit_scratch (hw : s.wave core wave = some w) (hs : o.space = .scratch) : s.performUnit core wave o k u =
      ((s.doScratch core wave o k u).acquired core wave o.id k).finishStore core wave o.id := by
  simp only [State.performUnit, hw, hs, if_true]

/-! ## MEMORY_ACCESS_PERFORM of one part (10 R216, R219) -/

theorem atomRun_one {us : List AccUnit} (h : ∀ v ∈ us, v.pa ≠ u.pa) (n : Nat) : atomRun (n + 1) [] (u :: us) = [u] := by
  have hfree : us.any (fun v => [u].any (fun x => x.pa = v.pa && x.grp = v.grp)) = false := by
    simp only [List.any_eq_false, List.any_cons, List.any_nil, Bool.or_false, Bool.and_eq_true, decide_eq_true_eq, not_and]
    exact fun v hv he => absurd he.symm (h v hv)
  rw [atomRun, List.nil_append]
  exact if_neg (ne_true_of_eq_false hfree)

theorem MemOp.together_alone (hu : o.units[k]? = some u)
    (h : ∀ j, o.units[j]? ≠ none → j ≠ k → (o.units[j]?).map (fun v => v.pa) ≠ some u.pa) : o.together k = [k] := by
  unfold MemOp.together
  split
  · obtain ⟨hk, he⟩ := List.getElem?_eq_some_iff.1 hu
    have hrest : ∀ v ∈ o.units.drop (k + 1), v.pa ≠ u.pa := fun v hv he => by
      obtain ⟨i, hi⟩ := List.getElem?_of_mem hv
      rw [List.getElem?_drop] at hi
      exact h (k + 1 + i) (by simp [hi]) (by omega) (by simp [hi, he])
    rw [List.drop_eq_getElem_cons hk, he, atomRun_one hrest]
    rfl
  · rfl

theorem State.mayPerform_not_done (hu : o.units[k]? = some u) (h : s.mayPerform core wave w o k false = true) : u.done = false := by
  rw [State.mayPerform, hu] at h
  simp only [Bool.and_eq_true, Bool.not_eq_true'] at h
  exact h.1

/-- A part that may be performed at its home, alone, is performed there. -/
theorem exec_performs (h : Performs s core wave w o k u) (hk : o.kind = .load ∨ o.kind = .store ∨ ∃ op, o.kind = .atomic op) :
    exec .memoryAccessPerform s = .next (s.performUnit core wave o k u) := by
  obtain ⟨harg, hw, ho, hu, hf, halone, hmay, -⟩ := h
  have hnot := State.mayPerform_not_done hu hmay
  have hunits : s.performUnits core wave o.id [k] = s.performUnit core wave o k u := by
    simp only [State.performUnits, List.foldl_cons, List.foldl_nil, hw, Option.bind_some, ho, hu, hf, Option.isSome_none, Bool.false_eq_true,
      if_false]
  refine congrArg Host.Outcome.next ?_
  rcases hk with hk | hk | ⟨op, hk⟩ <;>
    simp only [harg, hw, ho, hu, hk, hnot, hmay, MemOp.together_alone hu halone, hunits] <;> rfl

theorem partAt_of_performs (h : Performs s core wave w o k u) : PartAt s core wave w o k u :=
  ⟨h.2.1, h.2.2.1, h.2.2.2.1, h.2.2.2.2.2.2.2.1⟩

/-! ## Scratchpad (08 R180–R183; 10 R230) -/

/-- A byte of a group's scratchpad. -/
def State.scratchAt (s : State) (g a : Nat) : Byte := ((s.group g).map (fun y => Table.get memDefault y.scratch a)).getD 0

/-- Memory, CSRs, a wave but for notes of MMAs, and every group's scratchpad. -/
def State.scratchView (core wave : Nat) (s : State) : Table Byte × Table Word × Option Wave × (Nat → Option (Table Byte)) :=
  (s.mem, s.csr, (s.wave core wave).map Wave.sansNotes, fun g => (s.group g).map Group.scratch)

theorem State.onWave_scratchView {c i : Nat} {f : Wave → Wave} (hf : ∀ w, (f w).sansNotes = w.sansNotes) :
    (s.onWave c i f).scratchView core wave = s.scratchView core wave := by
  have hwave : ((s.onWave c i f).wave core wave).map Wave.sansNotes = (s.wave core wave).map Wave.sansNotes := by
    by_cases hkey : waveKey core wave = waveKey c i
    · have hsame : ∀ x : State, x.wave core wave = x.wave c i := fun x => by rw [State.wave, State.wave, hkey]
      rw [hsame, hsame, State.wave_onWave_self, Option.map_map]
      exact congrFun (congrArg Option.map (funext hf)) _
    · rw [State.wave_onWave_ne s f hkey]
  simp only [State.scratchView, hwave, State.onWave_mem, State.onWave_csr, State.onWave_group_same]

theorem State.loseAcc_scratchView (g lo hi : Nat) : (s.loseAcc g lo hi).scratchView core wave = s.scratchView core wave := by
  have hgroups : ∀ j, ((s.loseAcc g lo hi).group j).map Group.scratch = (s.group j).map Group.scratch := fun j => by
    have h := congrArg (Option.map Group.scratch) (loseAcc_groups s g lo hi j)
    rw [Option.map_map, Option.map_map] at h
    exact h
  obtain ⟨gs, n, he⟩ := State.loseAcc_frame s g lo hi
  rw [he] at hgroups ⊢
  simp only [State.scratchView, hgroups]
  rfl

theorem State.breakWindows_scratchView (c i : Nat) (p : MmaWindow → Bool) :
    (s.breakWindows c i p).scratchView core wave = s.scratchView core wave := by
  unfold State.breakWindows
  split
  · rfl
  · extract_lets late t
    exact (foldl_keeps (State.scratchView core wave) _ (fun _ _ => State.loseAcc_scratchView ..) _ _).trans (State.onWave_scratchView fun _ => rfl)

theorem State.noteScratch_scratchView (c i : Nat) : (s.noteScratch c i o u).scratchView core wave = s.scratchView core wave := by
  unfold State.noteScratch State.breakB
  extract_lets first t hit
  refine (foldl_keeps (State.scratchView core wave) _ (fun _ _ => ?_) _ _).trans (State.onWave_scratchView fun x => ?_)
  · split
    · exact State.breakWindows_scratchView ..
    · rfl
  · unfold Wave.keepB
    split <;> rfl

/-- The bytes of a table after bytes have been written one by one. -/
theorem get_foldl_set (l : List Byte) (t : Table Byte) (off i a : Nat) :
    Table.get memDefault ((l.zipIdx i).foldl (fun t e => Table.set memDefault t (off + e.2) e.1) t) a =
      if off + i ≤ a ∧ a < off + i + l.length then l.getD (a - (off + i)) 0 else Table.get memDefault t a := by
  induction l generalizing t i with
  | nil => simp
  | cons b l ih =>
    rw [List.zipIdx_cons, List.foldl_cons, ih, Table.get_set, List.length_cons]
    by_cases ha : a = off + i
    · subst ha
      simp
    · by_cases hin : off + i ≤ a ∧ a < off + i + (l.length + 1)
      · obtain ⟨j, hj⟩ : ∃ j, a - (off + i) = j + 1 := ⟨a - (off + i) - 1, by omega⟩
        rw [if_pos hin, if_pos (by omega), hj, show a - (off + (i + 1)) = j by omega, List.getD_cons_succ]
      · rw [if_neg hin, if_neg (by omega), if_neg ha]

theorem State.scratchAt_putScratch {g : Nat} {x : Group} (hg : s.group g = some x) (off : Nat) (bs : List Byte) (a : Nat) :
    (s.putScratch g off bs).scratchAt g a = if off ≤ a ∧ a < off + bs.length then bs.getD (a - off) 0 else s.scratchAt g a := by
  rw [State.scratchAt, State.putScratch, State.group_onGroup_self, State.scratchAt, hg]
  exact get_foldl_set bs x.scratch off 0 a

/-- The state once a lane has written scratchpad. -/
def State.scratched (s : State) (core wave : Nat) (o : MemOp) (u : AccUnit) (bs : List Byte) : State :=
  (s.noteScratch core wave o u).putScratch u.grp u.pa bs

theorem State.doScratch_load (hk : o.kind = .load) (hp : s.scratchBad u.grp u.pa u.len = false) :
    s.doScratch core wave o k u = s.markDone core wave o.id k (s.scratchBytes u.grp u.pa u.len) := by
  simp only [State.doScratch, hk, hp, Bool.and_false, Bool.false_eq_true, if_false]

theorem State.doScratch_store (hk : o.kind = .store) (hp : s.scratchBad u.grp u.pa u.len = false) :
    s.doScratch core wave o k u = (s.scratched core wave o u (o.bytesOf u)).markDone core wave o.id k [] := by
  simp only [State.doScratch, hk, hp, Bool.and_false, Bool.false_eq_true, if_false]
  rfl

theorem State.doScratch_atomic {op : AtomOp} (hk : o.kind = .atomic op) (hp : s.scratchBad u.grp u.pa u.len = false) :
    s.doScratch core wave o k u = (s.scratched core wave o u (leBytes 4 (atomNew op false (leNat (s.scratchBytes u.grp u.pa u.len))
      (Table.get zeroQuad o.data u.lane).toNat))).markDone core wave o.id k (s.scratchBytes u.grp u.pa u.len) := by
  simp only [State.doScratch, hk, hp, Bool.and_false, Bool.false_eq_true, if_false]
  rfl

theorem State.scratchBytes_eq {g : Nat} {x : Group} (hg : s.group g = some x) (off n : Nat) :
    s.scratchBytes g off n = (List.range n).map (fun j => s.scratchAt g (off + j)) := by
  simp only [State.scratchBytes, State.scratchAt, hg, Option.map_some, Option.getD_some]

/-- What a write of scratchpad leaves. -/
theorem PartAt.scratched {x : Group} (h : PartAt s core wave w o k u) (hg : s.group u.grp = some x) (bs : List Byte) :
    (s.scratched core wave o u bs).mem = s.mem ∧ (s.scratched core wave o u bs).csr = s.csr ∧
    (∀ a, (s.scratched core wave o u bs).scratchAt u.grp a =
      if u.pa ≤ a ∧ a < u.pa + bs.length then bs.getD (a - u.pa) 0 else s.scratchAt u.grp a) ∧
    ∃ v, PartAt (s.scratched core wave o u bs) core wave v o k u ∧ v.sansNotes = w.sansNotes := by
  have hview := State.noteScratch_scratchView (s := s) (core := core) (wave := wave) (o := o) (u := u) core wave
  unfold State.scratched
  generalize s.noteScratch core wave o u = t at hview
  simp only [State.scratchView, Prod.mk.injEq, h.wave, Option.map_some] at hview
  obtain ⟨hmem, hcsr, hwave, hgroup⟩ := hview
  obtain ⟨v, hv, hvw⟩ := Option.map_eq_some_iff.1 hwave
  have hgrp := congrFun hgroup u.grp
  rw [hg, Option.map_some] at hgrp
  obtain ⟨y, hy, hyx⟩ := Option.map_eq_some_iff.1 hgrp
  refine ⟨(State.onGroup_mem ..).trans hmem, (State.onGroup_csr ..).trans hcsr, fun a => ?_, v,
    ⟨(State.onGroup_wave_same ..).trans hv, (congrArg (fun x : Wave => x.op o.id) hvw :).trans h.op, h.unit, h.defined⟩, hvw⟩
  rw [State.scratchAt_putScratch hy]
  simp only [State.scratchAt, hy, hg, Option.map_some, hyx]

/-! ## Module memory -/

/-- The state without module memory and its poison. -/
def State.sansMemory (s : State) : State := { s with mem := [], memPoison := [] }

theorem State.setBytes_sansMemory (s : State) (a : Nat) (l : List Byte) : (s.setBytes a l).sansMemory = s.sansMemory := by
  induction l generalizing s a with
  | nil => rfl
  | cons b l ih => exact (ih ..).trans rfl

theorem State.putMem_sansMemory (s : State) (pa : Nat) (bs : List Byte) : (s.putMem pa bs).sansMemory = s.sansMemory :=
  Eq.trans rfl (State.setBytes_sansMemory s pa bs)

theorem State.written_byte (core wave : Nat) (u : AccUnit) (bs : List Byte) (a : Nat) :
    (s.written core wave u bs).byte a = if u.pa ≤ a ∧ a < u.pa + bs.length then bs.getD (a - u.pa) 0 else s.byte a :=
  (congrArg (fun x : State => x.byte a) (State.writeHome_sansUnits ..) :).trans (State.byte_putMem ..)

theorem State.written_waves (core wave : Nat) (u : AccUnit) (bs : List Byte) : (s.written core wave u bs).waves = s.waves :=
  (congrArg State.waves (State.writeHome_sansUnits ..) :).trans (congrArg State.waves (State.putMem_sansMemory ..) :)

theorem State.written_csr (core wave : Nat) (u : AccUnit) (bs : List Byte) : (s.written core wave u bs).csr = s.csr :=
  (congrArg State.csr (State.writeHome_sansUnits ..) :).trans (congrArg State.csr (State.putMem_sansMemory ..) :)

theorem PartAt.of_waves (h : PartAt s core wave w o k u) (ht : t.waves = s.waves) : PartAt t core wave w o k u :=
  ⟨by rw [State.wave, ht]; exact h.wave, h.op, h.unit, h.defined⟩

/-- The bytes that stand where a list of bytes was written. -/
theorem range_map_of_written {f g : Nat → Byte} {pa : Nat} {bs : List Byte}
    (h : ∀ a, f a = if pa ≤ a ∧ a < pa + bs.length then bs.getD (a - pa) 0 else g a) :
    (List.range bs.length).map (fun j => f (pa + j)) = bs := by
  refine List.ext_getElem (by simp) fun i hi _ => ?_
  rw [List.length_map, List.length_range] at hi
  rw [List.getElem_map, List.getElem_range, h, if_pos (by omega), Nat.add_sub_cancel_left, List.getD_eq_getElem _ _ hi]

/-- The number that an atomic has written. -/
theorem number_written {f g : Nat → Byte} {pa len old : Nat} {op : AtomOp} {data : Quad} (hlen : len = 4 ∨ len = 8)
    (h : ∀ a, f a = if pa ≤ a ∧ a < pa + (leBytes len (atomNew op (decide (len = 8)) old data.toNat)).length
      then (leBytes len (atomNew op (decide (len = 8)) old data.toNat)).getD (a - pa) 0 else g a) :
    number ((List.range len).map (fun j => f (pa + j))) = atomicOf op len old data := by
  have hall := range_map_of_written h
  rw [leBytes_length] at hall
  rw [hall, number_eq_leNat, leNat_leBytes, Nat.mod_eq_of_lt (atomNew_lt op hlen ..), atomNew_eq hlen]

/-- The bytes that a store has written. -/
theorem stored_bytes {f g : Nat → Byte} (hu : u.undef = none) (hfit : u.off + u.len ≤ 16)
    (h : ∀ a, f a = if u.pa ≤ a ∧ a < u.pa + (o.bytesOf u).length then (o.bytesOf u).getD (a - u.pa) 0 else g a) (a : Nat) :
    f a = if u.pa ≤ a ∧ a < u.pa + u.len then dataByte o u.lane (u.off + (a - u.pa)) else g a := by
  rw [h, MemOp.bytesOf_length hu hfit]
  split
  · exact MemOp.bytesOf_getD hu hfit (by omega)
  · rfl

/-- The memory, the CSRs and the groups after a part of an operation that is no store. -/
theorem PartAt.read_same (h : PartAt s core wave w o k u) (hk : o.kind ≠ .store) (bs : List Byte) :
    (s.afterPart core wave o.id k bs).mem = s.mem ∧ (s.afterPart core wave o.id k bs).csr = s.csr ∧
    (s.afterPart core wave o.id k bs).groups = s.groups :=
  ⟨(congrArg State.mem (h.read hk bs) :), (congrArg State.csr (h.read hk bs) :), (congrArg State.groups (h.read hk bs) :)⟩

theorem State.bytes_length (s : State) (a n : Nat) : (s.bytes a n).length = n := by simp [State.bytes]

theorem State.byte_of_mem (h : t.mem = s.mem) (a : Nat) : t.byte a = s.byte a := by rw [State.byte, h, State.byte]

theorem State.scratchAt_of_groups (h : t.groups = s.groups) (g a : Nat) : t.scratchAt g a = s.scratchAt g a := by
  rw [State.scratchAt, State.group, h, State.scratchAt, State.group]
end

/-- Settles O22: each part is its own step, at module memory or at a group's scratchpad, and then the end of the part. -/
theorem accessesPerform : Obligations.AccessesPerform := by
  refine ⟨fun s core wave w o k u h hs hplace hsh hp => ?_, fun s core wave w o k u g h hs hg hp => ?_⟩
  · have hat := partAt_of_performs h
    obtain ⟨-, hw, -, -, -, -, -, hdef, -, hfit⟩ := id h
    have hrun := fun hk => (exec_performs h hk).trans (congrArg Host.Outcome.next (State.performUnit_memory hw hs hsh hplace))
    refine ⟨fun hk => ?_, fun hk hoff => ?_, fun op hk hlen => ?_⟩
    · have hload : PartAt (s.loaded core w.ctx o u) core wave w o k u := hat.of_waves (congrArg State.waves (s.loaded_sansUnits core w.ctx o u) :)
      have hsame := hload.read_same (by rw [hk]; nofun) (s.bytes u.pa u.len)
      refine ⟨_, (hrun (.inl hk)).trans (by rw [State.doMemory_load hk hp]; rfl), fun a => State.byte_of_mem ?_ a, ?_, ?_,
        hload.partDone_read rfl (by rw [hk]; nofun) (MemOp.reads_of_load hk) (s.bytes_length ..) hfit⟩
      · exact hsame.1.trans (congrArg State.mem (s.loaded_sansUnits core w.ctx o u) :)
      · exact hsame.2.1.trans (congrArg State.csr (s.loaded_sansUnits core w.ctx o u) :)
      · exact hsame.2.2.trans (congrArg State.groups (s.loaded_sansUnits core w.ctx o u) :)
    · have hstore := hat.of_waves (s.written_waves core wave u (o.bytesOf u))
      obtain ⟨-, -, hmem, hcsr, -, -⟩ := hstore.wrote hk
      refine ⟨_, (hrun (.inr (.inl hk))).trans (by rw [State.doMemory_store hk hp]; rfl), fun a => ?_,
        hcsr.trans (s.written_csr ..), hstore.partDone_wrote rfl hk⟩
      rw [State.byte_of_mem hmem]
      exact stored_bytes hdef hoff (s.written_byte core wave u _) a
    · let bs := leBytes u.len (atomNew op (decide (u.len = 8)) (leNat (s.bytes u.pa u.len)) (Table.get zeroQuad o.data u.lane).toNat)
      let m := (s.written core wave u bs).broughtIn core w.ctx o u
      have hm : m.sansUnits = (s.written core wave u bs).sansUnits := State.broughtIn_sansUnits ..
      have hbyte : ∀ a, m.byte a = _ := fun a => (congrArg (fun x : State => x.byte a) hm :).trans (s.written_byte core wave u bs a)
      have hatom : PartAt m core wave w o k u := hat.of_waves ((congrArg State.waves hm :).trans (s.written_waves core wave u bs))
      have hsame := hatom.read_same (by rw [hk]; nofun) (s.bytes u.pa u.len)
      refine ⟨_, (hrun (.inr (.inr ⟨op, hk⟩))).trans (by rw [State.doMemory_atomic hk hp hdef]; rfl), ?_, fun a ha => ?_, ?_,
        hatom.partDone_read rfl (by rw [hk]; nofun) (MemOp.reads_of_atomic hk) (s.bytes_length ..) hfit⟩
      · rw [number_eq_leNat (s.bytes u.pa u.len)]
        exact number_written hlen fun a => (State.byte_of_mem hsame.1 a).trans (hbyte a)
      · rw [State.byte_of_mem hsame.1, hbyte, if_neg (by rwa [leBytes_length])]
      · exact hsame.2.1.trans ((congrArg State.csr hm :).trans (s.written_csr core wave u bs))
  · have hat := partAt_of_performs h
    obtain ⟨-, hw, -, -, -, -, -, hdef, -, hfit⟩ := id h
    have hrun := fun hk => (exec_performs h hk).trans (congrArg Host.Outcome.next (State.performUnit_scratch hw hs))
    have hbytes := State.scratchBytes_eq hg u.pa u.len
    refine ⟨fun hk => ?_, fun hk hoff => ?_, fun op hk hlen => ?_⟩
    · have hsame := hat.read_same (by rw [hk]; nofun) (s.scratchBytes u.grp u.pa u.len)
      refine ⟨_, (hrun (.inl hk)).trans (by rw [State.doScratch_load hk hp]; rfl), hsame.1, hsame.2.1, hsame.2.2, ?_⟩
      have hdone := hat.partDone_read rfl (by rw [hk]; nofun) (MemOp.reads_of_load hk) (bs := s.scratchBytes u.grp u.pa u.len)
        (by simp [hbytes]) hfit
      exact (congrArg (PartDone _ core wave w o k u) hbytes).mp hdone
    · obtain ⟨hmem, hcsr, hbyte, v, hv, hvw⟩ := hat.scratched hg (o.bytesOf u)
      obtain ⟨-, -, hmem', hcsr', hgroups, -⟩ := hv.wrote hk
      refine ⟨_, (hrun (.inr (.inl hk))).trans (by rw [State.doScratch_store hk hp]; rfl), hmem'.trans hmem, hcsr'.trans hcsr, ?_,
        hv.partDone_wrote hvw hk⟩
      exact stored_bytes hdef hoff fun a => (State.scratchAt_of_groups (hgroups hs) u.grp a).trans (hbyte a)
    · let bs := leBytes 4 (atomNew op false (leNat (s.scratchBytes u.grp u.pa u.len)) (Table.get zeroQuad o.data u.lane).toNat)
      obtain ⟨hmem, hcsr, hbyte, v, hv, hvw⟩ := hat.scratched hg bs
      have hsame := hv.read_same (by rw [hk]; nofun) (s.scratchBytes u.grp u.pa u.len)
      have hbytes4 : s.scratchBytes u.grp u.pa u.len = (List.range 4).map (fun j => s.scratchAt u.grp (u.pa + j)) := by rw [hbytes, hlen]
      have hbyte' := fun a => (State.scratchAt_of_groups hsame.2.2 u.grp a).trans (hbyte a)
      refine ⟨_, (hrun (.inr (.inr ⟨op, hk⟩))).trans (by rw [State.doScratch_atomic hk hp]; rfl), hsame.1.trans hmem, hsame.2.1.trans hcsr,
        ?_, fun a ha => ?_, ?_⟩
      · exact (number_written (.inl rfl) hbyte').trans
          (congrArg (fun x => atomicOf op 4 x _) ((number_eq_leNat _).symm.trans (congrArg number hbytes4)))
      · exact (hbyte' a).trans (if_neg (by rwa [leBytes_length]))
      · have hdone := hv.partDone_read hvw (by rw [hk]; nofun) (MemOp.reads_of_atomic hk) (bs := s.scratchBytes u.grp u.pa u.len)
          (by simp [hbytes]) hfit
        exact (congrArg (PartDone _ core wave w o k u) hbytes4).mp hdone

end Sys2Proof.Machine

/-! The hub's registers of translation, enabling and stages, and opcodes that are no instruction (O53; 09 R202; 19 R415, R416; 04 R96; 02 R28). -/

namespace Sys2Proof.Machine

open Sys2Proof.Claims

/-! ## Fields of words -/

section
variable {v : Word} {h l x : Nat}

theorem field_eq_fld (hl : l ≤ h) (hh : h < 32) (v : Word) : field v h l = fld v h l := by
  have hn : h - l + 1 = h + 1 - l := by omega
  have hlt : v.toNat / 2 ^ l % 2 ^ (h + 1 - l) < 2 ^ 32 :=
    (Nat.mod_lt _ (by positivity)).trans_le (Nat.pow_le_pow_right (by omega) (by omega))
  rw [field, bits, fld, BitVec.toNat_setWidth, BitVec.extractLsb'_toNat, Nat.shiftRight_eq_div_pow, hn, Nat.mod_eq_of_lt hlt]

theorem setField_getLsbD (hl : l ≤ h) (v : Word) {k : Nat} (hk : k < 32) :
    (setField v h l x).getLsbD k = if l ≤ k ∧ k ≤ h then x.testBit (k - l) else v.getLsbD k := by
  have hmask : (BitVec.ofNat 32 ((2 ^ (h - l + 1) - 1) * 2 ^ l)).getLsbD k = decide (l ≤ k ∧ k ≤ h) := by
    rw [BitVec.getLsbD_ofNat, Nat.testBit_mul_two_pow, Nat.testBit_two_pow_sub_one]
    by_cases h1 : l ≤ k <;> by_cases h2 : k ≤ h <;> simp [h1, h2, hk] <;> omega
  have hval : (BitVec.ofNat 32 (x * 2 ^ l)).getLsbD k = (decide (l ≤ k) && x.testBit (k - l)) := by
    rw [BitVec.getLsbD_ofNat, Nat.testBit_mul_two_pow, decide_eq_true hk, Bool.true_and]
  simp only [setField, BitVec.getLsbD_or, BitVec.getLsbD_and, BitVec.getLsbD_not, hmask, hval, hk]
  by_cases hin : l ≤ k ∧ k ≤ h
  · simp [hin]
  · simp [hin]

theorem fld_testBit (v : Word) (h l k : Nat) : (fld v h l).testBit k = (decide (k < h + 1 - l) && v.getLsbD (l + k)) := by
  rw [fld, Nat.testBit_mod_two_pow, Nat.testBit_div_two_pow, BitVec.testBit_toNat, Nat.add_comm k l]

/-- A field that is replaced, and the other bits. -/
theorem fieldSet_setField (hl : l ≤ h) (hh : h < 32) (hx : x < 2 ^ (h + 1 - l)) (v : Word) : FieldSet v (setField v h l x) h l x := by
  refine ⟨Nat.eq_of_testBit_eq fun k => ?_, fun k hk hout => ?_⟩
  · rw [fld_testBit]
    by_cases hk : k < h + 1 - l
    · rw [setField_getLsbD hl v (by omega), if_pos (by omega), Nat.add_sub_cancel_left]
      simp [hk]
    · rw [Nat.testBit_lt_two_pow (hx.trans_le (Nat.pow_le_pow_right (by omega) (by omega)))]
      simp [hk]
  · rw [setField_getLsbD hl v hk, if_neg (by omega)]

/-- A field apart from the one replaced. -/
theorem fld_setField_apart {h' l' : Nat} (hl : l ≤ h) (hh : h' < 32) (hapart : h' < l ∨ h < l') (v : Word) :
    fld (setField v h l x) h' l' = fld v h' l' := by
  refine Nat.eq_of_testBit_eq fun k => ?_
  rw [fld_testBit, fld_testBit]
  by_cases hk : k < h' + 1 - l'
  · rw [setField_getLsbD hl v (by omega), if_neg (by omega)]
  · simp [hk]
end

/-! ## The setting in force of each core (16 R358) -/

/-- CLKSET of a core. -/
def State.clkset (s : State) (c : Nat) : Word := s.csrAt (c / 16) (0x900 + 4 * (c % 16))

theorem csrKey_clkset_ne {c d : Nat} (h : c ≠ d) : csrKey (c / 16) (0x900 + 4 * (c % 16)) ≠ csrKey (d / 16) (0x900 + 4 * (d % 16)) := by
  unfold csrKey
  omega

theorem csrKey_clkset_ne_hub {c a : Nat} (hc : c < 64) : csrKey 4 a ≠ csrKey (c / 16) (0x900 + 4 * (c % 16)) := by
  unfold csrKey
  omega

/-- The setting in force as it rests on the hub's words, the core's flow and the low bits of CLKSET. -/
theorem State.effective_congr {s t : State} {c : Nat} (hcores : t.cores = s.cores) (hhub : ∀ a, t.csrAt 4 a = s.csrAt 4 a)
    (hclk : fld (t.clkset c) 5 0 = fld (s.clkset c) 5 0) : t.effective c = s.effective c := by
  have hcore : t.core c = s.core c := by rw [State.core, hcores, State.core]
  have hstage : t.stage = s.stage := by rw [State.stage, hhub, State.stage]
  have hfeature : t.feature 1 = s.feature 1 := by rw [State.feature, State.enable, State.feat, hhub, hstage]; rfl
  have hcap : ∀ k, t.capSetting k = s.capSetting k := fun k => by simp only [State.capSetting, hfeature]
  have hfield : field (t.clkset c) 5 0 = field (s.clkset c) 5 0 := by
    rw [field_eq_fld (by decide) (by decide), field_eq_fld (by decide) (by decide), hclk]
  simp only [State.clkset] at hfield
  simp only [State.effective, dieOf, hcore, hstage, hcap, hfield]

theorem State.effective_lt (s : State) (c : Nat) : s.effective c < 2 ^ 6 := by
  have hfield : field (s.csrAt (c / 16) (0x900 + 4 * (c % 16))) 5 0 < 2 ^ 6 := by
    rw [field_eq_fld (by decide) (by decide)]
    exact Nat.mod_lt _ (by decide)
  unfold State.effective
  extract_lets f target
  split
  · decide
  · exact (min_le_left ..).trans_lt hfield

/-- CLKSET of a core shows the setting in force. -/
def State.showsClock (s : State) (c : Nat) : Prop := fld (s.clkset c) 13 8 = s.effective c

/-- The state without CSRs. -/
def State.sansCsr (s : State) : State := { s with csr := [] }

theorem State.eq_of_sansCsr {s t : State} (h : t.sansCsr = s.sansCsr) : t = { s with csr := t.csr } :=
  congrArg (fun x : State => { x with csr := t.csr }) h

/-- What showing the settings in force keeps. -/
structure ClockKeeps (s t : State) : Prop where
  rest : t.sansCsr = s.sansCsr
  hub : ∀ a, t.csrAt 4 a = s.csrAt 4 a
  effective : ∀ c, t.effective c = s.effective c

theorem State.refreshClock_eq {s : State} {c : Nat} : s.refreshClock c = s ∧ s.showsClock c ∨
    s.refreshClock c = s.onCsr (c / 16) (0x900 + 4 * (c % 16)) (fun v => setField v 13 8 (s.effective c)) := by
  unfold State.refreshClock
  extract_lets e
  split
  · next h =>
    rw [field_eq_fld (by decide) (by decide)] at h
    exact .inl ⟨rfl, h⟩
  · exact .inr rfl

theorem State.refreshClock_clkset_ne {s : State} {c d : Nat} (h : d ≠ c) : (s.refreshClock c).clkset d = s.clkset d := by
  rcases State.refreshClock_eq (s := s) (c := c) with ⟨he, -⟩ | he
  · rw [he]
  · rw [he]
    exact State.csrAt_onCsr_ne s _ (csrKey_clkset_ne h)

theorem State.refreshClock_keeps {s : State} {c : Nat} (hc : c < 64) : ClockKeeps s (s.refreshClock c) := by
  rcases State.refreshClock_eq (s := s) (c := c) with ⟨he, -⟩ | he
  · rw [he]
    exact ⟨rfl, fun _ => rfl, fun _ => rfl⟩
  · have hhub : ∀ a, (s.refreshClock c).csrAt 4 a = s.csrAt 4 a := fun a => by
      rw [he]
      exact State.csrAt_onCsr_ne s _ (csrKey_clkset_ne_hub hc)
    refine ⟨by rw [he]; rfl, hhub, fun d => State.effective_congr (by rw [he]; rfl) hhub ?_⟩
    by_cases hd : d = c
    · subst hd
      rw [he, State.clkset, State.csrAt_onCsr_self]
      exact fld_setField_apart (by decide) (by decide) (.inl (by decide)) _
    · rw [State.refreshClock_clkset_ne hd]

theorem State.refreshClock_shows {s : State} {c : Nat} (hc : c < 64) : (s.refreshClock c).showsClock c := by
  rw [State.showsClock, (State.refreshClock_keeps hc).effective]
  rcases State.refreshClock_eq (s := s) (c := c) with ⟨he, h⟩ | he
  · rw [he]
    exact h
  · rw [he, State.clkset, State.csrAt_onCsr_self]
    exact (fieldSet_setField (by decide) (by decide) (s.effective_lt c) _).1

/-- The settings in force of a list of cores are shown. -/
theorem State.foldl_refreshClock (l : List Nat) (hl : ∀ c ∈ l, c < 64) (s : State) :
    ClockKeeps s (l.foldl State.refreshClock s) ∧ ∀ c, (c ∈ l ∨ s.showsClock c) → (l.foldl State.refreshClock s).showsClock c := by
  induction l generalizing s with
  | nil => exact ⟨⟨rfl, fun _ => rfl, fun _ => rfl⟩, fun c hc => hc.resolve_left List.not_mem_nil⟩
  | cons d l ih =>
    have hd := hl d (List.mem_cons_self ..)
    have hkeep := State.refreshClock_keeps (s := s) hd
    obtain ⟨hrest, hshow⟩ := ih (fun c hc => hl c (List.mem_cons_of_mem _ hc)) (s.refreshClock d)
    refine ⟨⟨hrest.rest.trans hkeep.rest, fun a => (hrest.hub a).trans (hkeep.hub a), fun c => (hrest.effective c).trans (hkeep.effective c)⟩,
      fun c hc => hshow c ?_⟩
    by_cases hcd : c = d
    · subst hcd
      exact .inr (State.refreshClock_shows hd)
    · refine hc.imp (fun h => (List.mem_cons.1 h).resolve_left hcd) fun h => ?_
      rw [State.showsClock, State.refreshClock_clkset_ne hcd, hkeep.effective]
      exact h

end Sys2Proof.Machine

namespace Sys2Proof.Machine

open Sys2Proof.Claims

/-! ## Every core and every die at once -/

theorem Table.get_of_no_key {α : Type} {d : Nat → α} {t : Table α} {k : Nat} (h : ∀ e ∈ t, e.1 ≠ k) : Table.get d t k = d k := by
  induction t with
  | nil => rfl
  | cons e t ih =>
    obtain ⟨j, v⟩ := e
    have hj : j ≠ k := h (j, v) (List.mem_cons_self ..)
    rw [Table.get, Table.look, if_neg hj]
    exact ih fun e he => h e (List.mem_cons_of_mem _ he)

section
variable {s t : State}

theorem State.foldl_onCore_core {f : Core → Core} (hf : ∀ x, f (f x) = f x) (l : Table Core) (s : State) (c : Nat)
    (h : (∃ e ∈ l, e.1 = c) ∨ f (s.core c) = s.core c) : (l.foldl (fun s e => s.onCore e.1 f) s).core c = f (s.core c) := by
  induction l generalizing s with
  | nil => simpa [eq_comm] using h
  | cons e l ih =>
    rw [List.foldl_cons]
    by_cases he : e.1 = c
    · subst he
      rw [ih _ (.inr (by rw [State.core_onCore_self, hf])), State.core_onCore_self, hf]
    · have hsame := State.core_onCore_ne s f (Ne.symm he)
      refine (ih _ ?_).trans (congrArg f hsame)
      rw [hsame]
      refine h.imp_left fun ⟨x, hx, hxe⟩ => ⟨x, (List.mem_cons.1 hx).resolve_left ?_, hxe⟩
      rintro rfl
      exact he hxe

/-- A change of every core, made twice as made once, that leaves one never used as it is. -/
theorem State.core_onCores {f : Core → Core} (hf : ∀ x, f (f x) = f x) (hd : f {} = {}) (s : State) (c : Nat) :
    (s.onCores f).core c = f (s.core c) := by
  refine State.foldl_onCore_core hf _ _ _ ?_
  by_cases h : ∃ e ∈ s.cores, e.1 = c
  · exact .inl h
  · have hcore : s.core c = {} := Table.get_of_no_key fun e he hc => h ⟨e, he, hc⟩
    exact .inr (by rw [hcore, hd])

theorem State.foldl_onDie_die {f : Die → Die} (hf : ∀ x, f (f x) = f x) (l : Table Die) (s : State) (d : Nat)
    (h : (∃ e ∈ l, e.1 = d) ∨ f (s.die d) = s.die d) : (l.foldl (fun s e => s.onDie e.1 f) s).die d = f (s.die d) := by
  induction l generalizing s with
  | nil => simpa [eq_comm] using h
  | cons e l ih =>
    rw [List.foldl_cons]
    by_cases he : e.1 = d
    · subst he
      rw [ih _ (.inr (by rw [State.die_onDie_self, hf])), State.die_onDie_self, hf]
    · have hsame := State.die_onDie_ne s f (Ne.symm he)
      refine (ih _ ?_).trans (congrArg f hsame)
      rw [hsame]
      refine h.imp_left fun ⟨x, hx, hxe⟩ => ⟨x, (List.mem_cons.1 hx).resolve_left ?_, hxe⟩
      rintro rfl
      exact he hxe

/-- A change of every die, made twice as made once, that leaves one never used as it is. -/
theorem State.die_onDies {f : Die → Die} (hf : ∀ x, f (f x) = f x) (hd : f {} = {}) (s : State) (d : Nat) :
    (s.onDies f).die d = f (s.die d) := by
  refine State.foldl_onDie_die hf _ _ _ ?_
  by_cases h : ∃ e ∈ s.dies, e.1 = d
  · exact .inl h
  · have hdie : s.die d = {} := Table.get_of_no_key fun e he hc => h ⟨e, he, hc⟩
    exact .inr (by rw [hdie, hd])

/-- The state without the cores' own units. -/
def State.sansCores (s : State) : State := { s with cores := [] }

theorem State.onCores_sansCores (f : Core → Core) (s : State) : (s.onCores f).sansCores = s.sansCores :=
  foldl_keeps State.sansCores (fun (s : State) (e : Nat × Core) => s.onCore e.1 f) (fun _ _ => rfl) _ _

theorem State.onDies_sansDies (f : Die → Die) (s : State) : (s.onDies f).sansDies = s.sansDies :=
  foldl_keeps State.sansDies (fun (s : State) (e : Nat × Die) => s.onDie e.1 f) (fun _ _ => rfl) _ _

/-! ## The lines that leave an L1 data cache (09 R202) -/

theorem Core.mem_dropCtx {c : Core} {p : Nat → Bool} {e : Nat × List L1Line} :
    e ∈ (c.dropCtx p).l1 ↔ ∃ f ∈ c.l1, f.2.filter (fun x => !p x.ctx) ≠ [] ∧ e = (f.1, f.2.filter (fun x => !p x.ctx)) := by
  simp only [Core.dropCtx, List.mem_filterMap]
  refine exists_congr fun f => and_congr_right fun _ => ?_
  split
  · next h => simp [List.isEmpty_iff.1 h]
  · next h => simp [List.isEmpty_iff.not.1 h, eq_comm]

theorem Core.dropCtx_dropCtx (p : Nat → Bool) (c : Core) : (c.dropCtx p).dropCtx p = c.dropCtx p := by
  have htwice : ∀ l : List (Nat × List L1Line), (l.filterMap (fun e => if (e.2.filter (fun x => !p x.ctx)).isEmpty then none
      else some (e.1, e.2.filter (fun x => !p x.ctx)))).filterMap (fun e => if (e.2.filter (fun x => !p x.ctx)).isEmpty then none
      else some (e.1, e.2.filter (fun x => !p x.ctx))) = l.filterMap (fun e => if (e.2.filter (fun x => !p x.ctx)).isEmpty then none
      else some (e.1, e.2.filter (fun x => !p x.ctx))) := fun l => by
    rw [List.filterMap_filterMap]
    refine List.filterMap_congr fun e _ => ?_
    split
    · rfl
    · next h => simp only [Option.bind_some, List.filter_filter, Bool.and_self]; exact if_neg h
  exact congrArg (fun l => { c with l1 := l }) (htwice c.l1)

/-- The lines of other contexts stay, and no others. -/
theorem Core.dropCtx_lines (c : Core) (p : Nat → Bool) :
    (∀ e ∈ (c.dropCtx p).l1, ∀ x ∈ e.2, p x.ctx = false ∧ ∃ f ∈ c.l1, f.1 = e.1 ∧ x ∈ f.2) ∧
    ∀ f ∈ c.l1, ∀ x ∈ f.2, p x.ctx = false → ∃ e ∈ (c.dropCtx p).l1, e.1 = f.1 ∧ x ∈ e.2 := by
  refine ⟨fun e he x hx => ?_, fun f hf x hx hp => ?_⟩
  · obtain ⟨f, hf, -, rfl⟩ := Core.mem_dropCtx.1 he
    have hx' := List.mem_filter.1 hx
    exact ⟨by simpa using hx'.2, f, hf, rfl, hx'.1⟩
  · have hx' : x ∈ f.2.filter (fun x => !p x.ctx) := List.mem_filter.2 ⟨hx, by simp [hp]⟩
    exact ⟨_, Core.mem_dropCtx.2 ⟨f, hf, List.ne_nil_of_mem hx', rfl⟩, rfl, hx'⟩

/-! ## The invalidation of translations (09 R202) -/

/-- A core without the translations that a test names. -/
def Core.sansEntries (p : TlbEntry → Bool) (c : Core) : Core := { c with tlb := c.tlb.filter (fun e => !p e) }

/-- A walk that starts again at a table of its context, if that is one that a test names. -/
def PageWalk.restart (hits : Nat → Bool) (top : Nat → Nat) (x : PageWalk) : PageWalk :=
  if hits x.ctx = true then { x with left := 5, table := top x.ctx } else x

/-- A die whose walks start again. -/
def Die.rewalked (hits : Nat → Bool) (top : Nat → Nat) (d : Die) : Die := { d with walks := d.walks.map (PageWalk.restart hits top) }

/-- A die without the translations that a test names. -/
def Die.sansEntries (p : TlbEntry → Bool) (d : Die) : Die := { d with tlb := d.tlb.filter (fun e => !p e) }

/-- A wave whose outstanding checks begin afresh, if its context is one that a test names. -/
def Wave.rechecked (hits : Nat → Bool) (w : Wave) : Wave :=
  if hits w.ctx = true then { w with ops := w.ops.map (fun o => if o.passed = true then o else { o with walked := [] }) } else w

/-- The state without what an invalidation of translations changes. -/
def State.sansTranslations (s : State) : State := { s with cores := [], dies := [], waves := [] }

theorem Core.sansEntries_twice (p : TlbEntry → Bool) (c : Core) : (c.sansEntries p).sansEntries p = c.sansEntries p := by
  simp [Core.sansEntries]

theorem Die.sansEntries_twice (p : TlbEntry → Bool) (d : Die) : (d.sansEntries p).sansEntries p = d.sansEntries p := by
  simp [Die.sansEntries]

theorem PageWalk.restart_twice (hits : Nat → Bool) (top : Nat → Nat) (x : PageWalk) :
    (x.restart hits top).restart hits top = x.restart hits top := by
  unfold PageWalk.restart
  by_cases h : hits x.ctx = true <;> simp [h]

theorem Die.rewalked_twice (hits : Nat → Bool) (top : Nat → Nat) (d : Die) : (d.rewalked hits top).rewalked hits top = d.rewalked hits top := by
  simp only [Die.rewalked, List.map_map]
  exact congrArg (fun l => { d with walks := l }) (List.map_congr_left fun x _ => PageWalk.restart_twice hits top x)

section
variable (s) (p : TlbEntry → Bool) (hits : Nat → Bool)

theorem State.tlbDrop_core (c : Nat) : (s.tlbDrop p).core c = (s.core c).sansEntries p := by
  have hcores : (s.tlbDrop p).cores = (s.onCores (Core.sansEntries p)).cores := (congrArg State.cores (State.onDies_sansDies ..) :)
  rw [State.core, hcores]
  exact State.core_onCores (Core.sansEntries_twice p) rfl s c

theorem State.tlbDrop_die (d : Nat) : (s.tlbDrop p).die d = (s.die d).sansEntries p := by
  refine (State.die_onDies (Die.sansEntries_twice p) rfl _ d).trans ?_
  have hdies : (s.onCores (Core.sansEntries p)).dies = s.dies := (congrArg State.dies (State.onCores_sansCores ..) :)
  rw [State.die]
  exact congrArg (fun t => Die.sansEntries p (Table.get (fun _ => {}) t d)) hdies

theorem State.tlbDrop_sansUnits : (s.tlbDrop p).sansUnits = s.sansUnits :=
  (congrArg (fun x : State => { x with cores := [] }) (State.onDies_sansDies ..)).trans
    (congrArg (fun x : State => { x with dies := [] }) (State.onCores_sansCores ..))

theorem State.tlbDrop_topTable : (s.tlbDrop p).topTable = s.topTable :=
  (congrArg State.topTable (s.tlbDrop_sansUnits p) :)

theorem State.forget_core (c : Nat) : (s.forget p hits).core c = (s.core c).sansEntries p :=
  (congrArg (fun x : State => x.core c) (State.onDies_sansDies ..) :).trans (s.tlbDrop_core p c)

theorem State.forget_die (d : Nat) : (s.forget p hits).die d = ((s.die d).sansEntries p).rewalked hits s.topTable := by
  refine (State.die_onDies (Die.rewalked_twice hits (s.tlbDrop p).topTable) rfl _ d).trans ?_
  rw [State.tlbDrop_die, State.tlbDrop_topTable]

theorem State.forget_rest : (s.forget p hits).sansTranslations = s.sansTranslations :=
  (congrArg State.sansTranslations (State.onDies_sansDies ..) :).trans (congrArg State.sansTranslations (s.tlbDrop_sansUnits p) :)

theorem State.forget_waves : (s.forget p hits).waves = s.waves.map (fun e => (e.1, e.2.map (Wave.rechecked hits))) := by
  have hwaves : ((s.tlbDrop p).restartWalks (fun x => hits x.ctx)).waves = s.waves :=
    (congrArg State.waves (State.onDies_sansDies ..) :).trans (congrArg State.waves (s.tlbDrop_sansUnits p) :)
  exact congrArg (List.map fun e => (e.1, e.2.map (Wave.rechecked hits))) hwaves

theorem State.forget_wave (c k : Nat) : (s.forget p hits).wave c k = (s.wave c k).map (Wave.rechecked hits) := by
  rw [State.wave, State.forget_waves, State.wave, Table.get, Table.get, Table.look_map]
  cases s.waves.look (waveKey c k) <;> rfl
end

/-- The contexts whose translations the invalidation that is awaited drops. -/
def State.tlbinvHits (s : State) (c : Nat) : Bool := s.tlbinvOf.1 = 2 || c = s.tlbinvOf.2.1

/-- The translations that it drops. -/
def State.tlbinvGoes (s : State) (e : TlbEntry) : Bool :=
  if s.tlbinvOf.1 = 0 then e.serves s.tlbinvOf.2.1 s.tlbinvOf.2.2 else s.tlbinvHits e.ctx

/-- The state without those translations, and without the L1 data lines that go with them. -/
def State.invalidated (s : State) : State :=
  if s.tlbinvOf.1 = 0 then s.forget s.tlbinvGoes s.tlbinvHits
  else (s.forget s.tlbinvGoes s.tlbinvHits).onCores (fun c => c.dropCtx s.tlbinvHits)

/-- The state once the invalidation has been made and counted. -/
def State.tlbinvEnded (s : State) : State :=
  { s.invalidated.onCsr 4 0x380C (fun w => setField w 31 16 ((field w 31 16 + 1) % 2 ^ 16)) with tlbinvPending := false }

/-- A wave that has translated accesses which are not performed yet. -/
def Wave.translating (hits : Nat → Bool) (w : Wave) : Bool :=
  hits w.ctx && w.ops.any (fun o => o.passed && o.space ≠ .scratch && o.units.any (fun u => !u.done))

theorem unperformed_iff (hits : Nat → Bool) :
    s.waves.any (fun e => (e.2.map (Wave.translating hits)).getD false) = true ↔ unperformed s hits := by
  rw [List.any_eq_true]
  refine exists_congr fun e => and_congr_right fun _ => ?_
  cases e.2 with
  | none => simp
  | some w => simp [Wave.translating, List.any_eq_true, and_assoc]

theorem exec_tlbinvDone (s : State) : exec .tlbinvDone s = .next (
    if !s.tlbinvPending || s.waves.any (fun e => (e.2.map (Wave.translating s.tlbinvHits)).getD false) then s
    else s.tlbinvEnded) := rfl

/-- The contexts and the translations as the statement names them. -/
theorem State.tlbinvHits_eq (s : State) : s.tlbinvHits = fun c => decide (s.tlbinvOf.1 = 2 ∨ c = s.tlbinvOf.2.1) :=
  funext fun _ => (Bool.decide_or ..).symm

theorem State.tlbinvGoes_eq (s : State) : s.tlbinvGoes = fun e =>
    if s.tlbinvOf.1 = 0 then decide (e.ctx = s.tlbinvOf.2.1 ∧ e.vbase ≤ s.tlbinvOf.2.2 ∧ s.tlbinvOf.2.2 < e.vbase + e.size)
    else s.tlbinvHits e.ctx :=
  funext fun e => by simp only [State.tlbinvGoes, TlbEntry.serves, Bool.decide_and, Bool.and_assoc]

/-! ## An unassigned opcode (02 R28, 14 R299, 16 R367) -/

theorem fateOf_fetch {c : StopCause} (h : c ∉ [StopCause.poisonRegister, .kill, .discard]) : fateOf c .fetch ≠ .kill := by
  cases c <;> simp_all [fateOf]

/-- The state without CSRs and the dies' shared units. -/
def State.sansRings (s : State) : State := { s with csr := [], dies := [] }

theorem State.pend_sansRings (s : State) (space i : Nat) : (s.pend space i).sansRings = s.sansRings := rfl

theorem State.ringRecord_sansRings (s : State) (die : Nat) (r : List Dword) : (s.ringRecord die r).sansRings = s.sansRings := by
  unfold State.ringRecord
  extract_lets seq base t
  have ht : t.sansRings = s.sansRings := by
    refine foldl_keeps State.sansRings _ (fun x k => ?_) _ _
    rfl
  exact ht

theorem State.send_sentOn (h : t.out = s.out) (port : Nat) (m : Msg) : SentOn s (t.send port m) port m := by
  refine ⟨?_, fun k hk => ?_⟩
  · rw [State.send, h]
    exact Table.get_set_self ..
  · rw [State.send, h]
    exact Table.get_set_ne hk

/-- The halt of a service core: its fault record leaves in an EVENT. -/
theorem State.svcHalt_halts (s : State) (n : Nat) (info : FaultInfo) (pc : Dword) : ∃ m, (s.svcHalt n info pc).mem = s.mem ∧
    (s.svcHalt n info pc).waves = s.waves ∧ (s.svcHalt n info pc).svc n = { s.svc n with halted := true, waiting := none } ∧
    SentOn s (s.svcHalt n info pc) 0 m ∧ m.type = 0x0D ∧ m.args.toNat % 16 = 6 := by
  unfold State.svcHalt State.event
  extract_lets record t y
  have hy : y.sansRings = t.sansRings := by
    simp only [y]
    split
    · rw [State.pend_sansRings, State.ringRecord_sansRings]
    · rfl
  have hmem : y.mem = s.mem := (congrArg State.mem hy :)
  have hwaves : y.waves = s.waves := (congrArg State.waves hy :)
  have hout : y.out = s.out := (congrArg State.out hy :)
  have hsvc : y.svc n = t.svc n := (congrArg (fun x : State => x.svc n) hy :)
  refine ⟨_, hmem, hwaves, ?_, State.send_sentOn hout .., rfl, ?_⟩
  · rw [State.send_svc_same, hsvc]
    exact State.svc_onSvc_self ..
  · simp only [mkMsg, BitVec.toNat_ofNat]
    omega

/-! ## Single registers -/

theorem State.oneCsr_setCsr (s : State) (space a : Nat) (v : Word) : OneCsr s (s.setCsr space a v) space a v :=
  ⟨State.csrAt_setCsr_self .., fun _ _ h => State.csrAt_setCsr_ne s v h⟩

theorem stageOf_eq (s : State) : stageOf s = s.stage := (field_eq_fld (by decide) (by decide) _).symm

theorem coreDark_iff (s : State) (c : Nat) : s.coreDark c = true ↔ dark s c := by
  have hfield : ∀ w : Word, field w 11 8 = fld w 11 8 := field_eq_fld (by decide) (by decide)
  have hsts : s.csrAt (dieOf c) (cpcSts (c % 16 / 4)) = stsOf s (c / 16) (c % 16 / 4) := rfl
  simp only [State.coreDark, dark, hsts, hfield]
  cases (stsOf s (c / 16) (c % 16 / 4)).getLsbD 1 <;> simp

theorem noGroup_iff (s : State) : (s.groups.any (fun e => e.2.isSome)) = true ↔ ∃ e ∈ s.groups, e.2 ≠ none := by
  simp [List.any_eq_true, Option.isSome_iff_ne_none]
end

/-- A GO that is taken, and one that is not. -/
theorem State.tlbinvGo_eq (s : State) (v : Word) : s.tlbinvGo v =
    if v.getLsbD 31 = true ∧ s.tlbinvPending = false ∧ fld v 1 0 ≠ 3 then
      { s.setCsr 4 0x3808 (v &&& 0x3F03) with
          tlbinvPending := true
          tlbinvOf := (fld v 1 0, fld v 13 8, (s.csrAt 4 0x3800).toNat + 2 ^ 32 * (s.csrAt 4 0x3804).toNat) }
    else s.setCsr 4 0x3808 (v &&& 0x3F03) := by
  have hlow : (s.setCsr 4 0x3808 (v &&& 0x3F03)).csrAt 4 0x3800 = s.csrAt 4 0x3800 := State.csrAt_setCsr_ne s _ (by decide)
  have hhigh : (s.setCsr 4 0x3808 (v &&& 0x3F03)).csrAt 4 0x3804 = s.csrAt 4 0x3804 := State.csrAt_setCsr_ne s _ (by decide)
  have hkind : field v 1 0 = fld v 1 0 := field_eq_fld (by decide) (by decide) v
  have hctx : field v 13 8 = fld v 13 8 := field_eq_fld (by decide) (by decide) v
  simp only [State.tlbinvGo, hlow, hhigh, hkind, hctx, State.setCsr_tlbinvPending, Bool.and_eq_true, Bool.not_eq_true', decide_eq_true_eq,
    and_assoc]

theorem State.foldl_clocks (s : State) : ClockKeeps s ((List.range 64).foldl (fun s c => s.refreshClock c) s) ∧
    ∀ c < 64, fld (((List.range 64).foldl (fun s c => s.refreshClock c) s).csrAt (c / 16) (0x900 + 4 * (c % 16))) 13 8 =
      ((List.range 64).foldl (fun s c => s.refreshClock c) s).effective c := by
  obtain ⟨hkeep, hshow⟩ := State.foldl_refreshClock (List.range 64) (fun _ => List.mem_range.1) s
  exact ⟨hkeep, fun c hc => hshow c (.inl (List.mem_range.2 hc))⟩

section
variable (s : State)

theorem State.invalidated_rest : s.invalidated.sansTranslations = s.sansTranslations := by
  unfold State.invalidated
  split
  · exact State.forget_rest ..
  · exact (congrArg State.sansTranslations (State.onCores_sansCores ..) :).trans (State.forget_rest ..)

/-- What the invalidation counts. -/
theorem State.tlbinvEnded_oneCsr :
    OneCsr s s.tlbinvEnded 4 0x380C (setField (s.csrAt 4 0x380C) 31 16 ((fld (s.csrAt 4 0x380C) 31 16 + 1) % 2 ^ 16)) := by
  have hcsr : ∀ p a, s.invalidated.csrAt p a = s.csrAt p a := fun p a => (congrArg (fun x : State => x.csrAt p a) s.invalidated_rest :)
  have hended : ∀ p a, s.tlbinvEnded.csrAt p a =
      (s.invalidated.onCsr 4 0x380C (fun w => setField w 31 16 ((field w 31 16 + 1) % 2 ^ 16))).csrAt p a := fun _ _ => rfl
  refine ⟨?_, fun p a h => ?_⟩
  · rw [hended, State.csrAt_onCsr_self, hcsr, field_eq_fld (by decide) (by decide)]
  · rw [hended, State.csrAt_onCsr_ne _ _ h, hcsr]

theorem State.tlbinvEnded_eq : s.tlbinvEnded =
    { s with
        cores := s.tlbinvEnded.cores, dies := s.tlbinvEnded.dies, waves := s.tlbinvEnded.waves, csr := s.tlbinvEnded.csr
        tlbinvPending := false } :=
  (congrArg (fun x : State =>
    { x with
        cores := s.tlbinvEnded.cores, dies := s.tlbinvEnded.dies, waves := s.tlbinvEnded.waves, csr := s.tlbinvEnded.csr
        tlbinvPending := false }) s.invalidated_rest :)

theorem State.invalidated_die (d : Nat) : s.invalidated.die d = ((s.die d).sansEntries s.tlbinvGoes).rewalked s.tlbinvHits s.topTable := by
  unfold State.invalidated
  split
  · exact State.forget_die ..
  · exact (congrArg (fun x : State => x.die d) (State.onCores_sansCores ..) :).trans (State.forget_die ..)

theorem State.invalidated_wave (c k : Nat) : s.invalidated.wave c k = (s.wave c k).map (Wave.rechecked s.tlbinvHits) := by
  unfold State.invalidated
  split
  · exact State.forget_wave ..
  · exact (congrArg (fun x : State => x.wave c k) (State.onCores_sansCores ..) :).trans (State.forget_wave ..)

theorem State.invalidated_core (c : Nat) : s.invalidated.core c = { (s.core c).sansEntries s.tlbinvGoes with l1 := (s.invalidated.core c).l1 } ∧
    (s.tlbinvOf.1 = 0 → (s.invalidated.core c).l1 = (s.core c).l1) ∧
    (s.tlbinvOf.1 ≠ 0 → (s.invalidated.core c).l1 = ((s.core c).dropCtx s.tlbinvHits).l1) := by
  have hforget := s.forget_core s.tlbinvGoes s.tlbinvHits c
  by_cases h : s.tlbinvOf.1 = 0
  · have hcore : s.invalidated.core c = (s.core c).sansEntries s.tlbinvGoes := by rw [State.invalidated, if_pos h, hforget]
    rw [hcore]
    exact ⟨rfl, fun _ => rfl, fun hk => absurd h hk⟩
  · have hcore : s.invalidated.core c = ((s.core c).sansEntries s.tlbinvGoes).dropCtx s.tlbinvHits := by
      rw [State.invalidated, if_neg h, State.core_onCores (Core.dropCtx_dropCtx s.tlbinvHits) rfl, hforget]
    rw [hcore]
    exact ⟨rfl, fun hk => absurd hk h, fun _ => rfl⟩
end

/-- Settles O53: single registers, the settings in force, the invalidation of translations, and the stop of a wave or a service core. -/
theorem hubAndUnassigned : Obligations.HubAndUnassigned := by
  refine ⟨⟨fun s k v harg => ⟨?_, fun hk => ?_, fun hk hg => ?_, fun hk hg => ?_, fun hd => ?_, fun hd => ?_⟩,
    fun s => ⟨fun h => ?_, fun hp hn => ?_, fun h => ?_, fun h => ?_, rfl⟩,
    fun s k pass harg => ⟨fun h => ?_, fun h hpass => ?_, fun h hpass => ?_⟩⟩,
    fun s cause addr level malformed entry harg => ⟨fun w hc hw hr hs hcause => ?_, fun n hc => ?_⟩⟩
  · refine ⟨s.tlbinvGo v, congrArg Host.Outcome.next (by simp only [harg]), ?_⟩
    rw [State.tlbinvGo_eq]
    split
    · next hgo =>
      refine ⟨rfl, s.oneCsr_setCsr .., fun h => ?_, fun _ _ _ => ⟨rfl, rfl⟩⟩
      rcases h with h | h | h
      · exact absurd (hgo.2.1.symm.trans h) nofun
      · exact absurd (h.symm.trans hgo.1) nofun
      · exact absurd h hgo.2.2
    · next hno => exact ⟨rfl, s.oneCsr_setCsr .., fun _ => ⟨rfl, rfl⟩, fun hp h31 hk => absurd ⟨h31, hp, hk⟩ hno⟩
  · refine congrArg Host.Outcome.next ?_
    simp only [harg, if_neg (Nat.not_lt.2 hk)]
  · refine ⟨s.linkErr, congrArg Host.Outcome.next ?_, rfl, State.oneCsr_setCsr ..⟩
    simp only [harg, if_pos hk, State.enableWrite, (noGroup_iff s).2 hg, if_true]
  · obtain ⟨hkeep, hshow⟩ := State.foldl_clocks (s.setCsr 4 (0x7A10 + 4 * k) (v &&& s.feat k))
    refine ⟨_, congrArg Host.Outcome.next ?_, State.eq_of_sansCsr hkeep.rest, ?_, hshow⟩
    · have hnone : s.groups.any (fun e => e.2.isSome) = false := by
        rw [List.any_eq_false]
        exact fun e he => by simp [hg e he]
      simp only [harg, if_pos hk, State.enableWrite, hnone, Bool.false_eq_true, if_false]
    · rw [hkeep.hub, State.csrAt_setCsr_self, State.feat, ← stageOf_eq]
      split
      · rw [BitVec.ofNat_toNat]
      · exact BitVec.and_zero
  · refine congrArg Host.Outcome.next ?_
    simp only [harg, State.fusetimeWrite, (coreDark_iff s k).2 hd, if_true]
  · refine ⟨s.setCsr (k / 16) (0x1018 + 64 * (k % 16)) (v &&& 0xFFFFF), congrArg Host.Outcome.next ?_, rfl, State.oneCsr_setCsr ..⟩
    simp only [harg, State.fusetimeWrite, mt (coreDark_iff s k).1 hd, Bool.false_eq_true, if_false]
    rfl
  · rw [← State.tlbinvHits_eq] at h
    rw [exec_tlbinvDone, if_pos]
    rw [Bool.or_eq_true, unperformed_iff]
    exact h.imp_left fun h => by simp [h]
  · rw [← State.tlbinvHits_eq] at hn
    have hgo : (!s.tlbinvPending || s.waves.any (fun e => (e.2.map (Wave.translating s.tlbinvHits)).getD false)) = false := by
      rw [hp, Bool.not_true, Bool.false_or]
      exact eq_false_of_ne_true (mt (unperformed_iff s.tlbinvHits).1 hn)
    refine ⟨s.tlbinvEnded, _, (exec_tlbinvDone s).trans (congrArg Host.Outcome.next (if_neg (ne_true_of_eq_false hgo))), s.tlbinvEnded_eq,
      s.tlbinvEnded_oneCsr, fieldSet_setField (by decide) (by decide) (Nat.mod_lt _ (by decide)) _, fun c => ?_, fun d => ?_, fun c k => ?_⟩
    · obtain ⟨hcore, hkeep, hdrop⟩ := s.invalidated_core c
      refine ⟨?_, hkeep, fun hk => ?_⟩
      · rw [← State.tlbinvHits_eq, ← State.tlbinvGoes_eq]
        exact hcore
      · have hlines := (s.core c).dropCtx_lines s.tlbinvHits
        rw [← hdrop hk, State.tlbinvHits_eq] at hlines
        exact hlines
    · rw [← State.tlbinvHits_eq, ← State.tlbinvGoes_eq]
      exact s.invalidated_die d
    · rw [← State.tlbinvHits_eq]
      exact s.invalidated_wave c k
  · refine congrArg Host.Outcome.next (if_pos ?_)
    rwa [← stageOf_eq]
  · refine congrArg Host.Outcome.next (if_neg ?_)
    rw [← stageOf_eq, h]
    decide
  · refine congrArg Host.Outcome.next ?_
    simp only [harg, h, Bool.not_false, if_true]
  · obtain ⟨hkeep, -⟩ := State.foldl_clocks (({ s with stageTest := false } : State).setCsr 4 0x7B00 (word (s.stage + 1)))
    refine ⟨_, congrArg Host.Outcome.next ?_, State.eq_of_sansCsr (s := { s with stageTest := false }) hkeep.rest, ?_⟩
    · simp only [harg, h, hpass, Bool.not_true, Bool.false_eq_true, if_false, if_true]
    · rw [hkeep.hub, State.csrAt_setCsr_self, stageOf_eq, word]
  · refine ⟨({ s with stageTest := false } : State).event 10 4 0x7F 0 [], congrArg Host.Outcome.next ?_, rfl, State.send_sentOn rfl ..⟩
    simp only [harg, h, hpass, Bool.not_true, Bool.false_eq_true, if_false]
  · refine congrArg Host.Outcome.next ?_
    simp only [harg, State.stopWith, hc]
    exact State.takeStop_drains hw hr hs (fateOf_fetch hcause)
  · obtain ⟨m, h⟩ := s.svcHalt_halts n { cause := cause, kind := .fetch, addr := addr, level := level, malformed := malformed, entry := entry }
      s.cur.iaddr
    refine ⟨_, m, congrArg Host.Outcome.next ?_, h⟩
    simp only [harg, State.stopWith, hc]

end Sys2Proof.Machine

/-! Fences and the prefetch of lines (O19; 09 R203–R205, R212; 10 R226, R228). -/

namespace Sys2Proof.Machine

open Sys2Proof.Claims

/-! ## FENCE and FENCE.OR (10 R226, R228) -/

section
variable {s s' : State} {w : Wave} {sp : Split}

/-- A repeat of a REP that begins keeps what issues but for its split. -/
theorem State.captureRep_cur (s : State) : s.captureRep.cur = s.cur := by
  unfold State.captureRep
  split
  · split
    · exact State.onIssuer_cur ..
    · rfl
  · rfl

/-- A fuse leaves what kind of core issues. -/
theorem svc_of_fuses (h : Fuses s s') : s'.cur.svc = s.cur.svc := by
  obtain ⟨w, sp, -, ⟨-, rfl⟩ | ⟨-, -, -, rfl⟩⟩ := h
  · rfl
  · rw [State.captureRep_cur]
    rfl

/-- An instruction that changes its wave, but not its split, and goes on. -/
theorem State.advance_onIssuer (hc : s.cur.svc = none) (h : s.issuing = some (w, sp)) {f : Wave → Wave} (hf : (f w).splits = w.splits) :
    (s.onIssuer f).advance = s.setWave s.cur.core s.cur.wave (some ((f w).setSplit s.cur.split (some (past s sp)))) := by
  obtain ⟨hw, hs⟩ := State.issuing_split h
  have hput : s.onIssuer f = s.setWave s.cur.core s.cur.wave (some (f w)) := by rw [State.onIssuer, State.onWave, hw]
  have hsplit : (f w).split s.cur.split = some sp := (congrArg (fun t => Table.get noneAt t s.cur.split) hf).trans hs
  have hissuing : (s.setWave s.cur.core s.cur.wave (some (f w))).issuing = some (f w, sp) := by
    rw [State.issuing_setWave, hsplit, Option.map_some]
  rw [hput, State.advance_eq (s := s.setWave s.cur.core s.cur.wave (some (f w))) hc hissuing]
  exact State.setWave_again ..

/-- An operation that stands behind the others of its wave, whose split has gone on. -/
theorem State.pushOp_eq (hc : s.cur.svc = none) (h : s.issuing = some (w, sp)) (o : MemOp) :
    s.pushOp o = s.setWave s.cur.core s.cur.wave (some ((w.pushed (o.placedIn s w)).setSplit s.cur.split (some (past s sp)))) :=
  State.advance_onIssuer hc h rfl

/-- The ordering that a fence acts with: at wave scope none (10 R226). -/
def fenceOrd (a : MArgs) : BitVec 2 := if a.scope = 1 then 0 else a.ord

/-- The operation of a FENCE: for ORD 3 an acquire part and a release part. -/
def fenceOp (a : MArgs) (w : Wave) (sp : Split) : MemOp :=
  { kind := .fence (fenceOrd a), scope := a.scope, ord := fenceOrd a, run := runM a w sp, live := runM a w sp, passed := true,
    units := if fenceOrd a = 3 then [{ off := 0 }, { off := 1 }] else [{ off := 0 }] }

theorem fenceOp_units_length (a : MArgs) (w : Wave) (sp : Split) :
    (fenceOp a w sp).units.length = if fenceOrd a = 3 then 2 else 1 := by
  unfold fenceOp
  split <;> rfl

theorem fenceOp_units_undone (a : MArgs) (w : Wave) (sp : Split) : ∀ u ∈ (fenceOp a w sp).units, u.done = false := by
  unfold fenceOp
  split <;> simp

/-- A FENCE acts from the state that its scope asks for. -/
theorem exec_fence {a : MArgs} (hs : if a.scope = 1 then Fuses s s' else s' = s) (h : s'.issuing = some (w, sp)) (hroom : w.ops.length < 16) :
    exec (.fence a) s = .next (if runM a w sp = 0 then s'.advance else s'.pushOp (fenceOp a w sp)) := by
  have hacts : ∀ act : State → State, (if a.scope = 1 then s.forceFuse act else act s) = act s' := fun act => by
    split
    · next hscope => exact State.forceFuse_of_fuses (by rwa [if_pos hscope] at hs) act
    · next hscope => rw [if_neg hscope] at hs; rw [hs]
  refine congrArg Host.Outcome.next ((hacts _).trans ?_)
  simp only [h]
  exact if_neg (Nat.not_le.2 hroom)

theorem State.opsDone_iff (h : s.issuing = some (w, sp)) :
    s.opsDone = true ↔ ∀ o ∈ w.ops, o.passed = true ∧ ∀ u ∈ o.units, u.done = true := by
  simp only [State.opsDone, h, List.all_eq_true, Bool.and_eq_true, and_comm]

theorem exec_fenceOr_done (hc : s.cur.svc = none) (h : s.issuing = some (w, sp)) (hd : s.opsDone = true) :
    exec .fenceOr s =
      .next (s.setWave s.cur.core s.cur.wave (some ({ w with bhist := [] }.setSplit s.cur.split (some (past s sp))))) := by
  refine congrArg Host.Outcome.next ((if_pos hd).trans ?_)
  exact State.advance_onIssuer hc h (f := fun w => { w with bhist := [] }) rfl

theorem exec_fenceOr_waits (hd : s.opsDone ≠ true) : exec .fenceOr s = .next s :=
  congrArg Host.Outcome.next (if_neg hd)

end

/-! ## The sectors of a line (09 R194) -/

/-- The first byte of a line of a die: whole lines fill the die's range as far as they go. -/
theorem lineBase_lineOf {pa : Nat} (h : noLine pa = false) :
    lineBase (lineOf pa) = pa / 2 ^ 37 * 2 ^ 37 + pa % 2 ^ 37 / 192 * 192 ∧ pa % 2 ^ 37 / 192 < 715827882 := by
  have hq : pa % 2 ^ 37 / 192 < 715827882 := by
    simp only [noLine, decide_eq_false_iff_not] at h
    omega
  refine ⟨?_, hq⟩
  rw [lineBase, lineOf]
  generalize pa % 2 ^ 37 / 192 = q at hq
  omega

/-- Address `b` is the first byte of sector `k` of the line of `pa`. -/
structure PlacedSector (pa k b : Nat) : Prop where
  lt : k < 4
  inLine : noLine b = false
  line : lineOf b = lineOf pa
  number : sectorOf b = pa / 2 ^ 37 * 2 ^ 32 + 4 * (pa % 2 ^ 37 / 192) + k
  base : sectorBase (sectorOf b) = b

theorem placedSector {pa k : Nat} (h : noLine pa = false) (hk : k < 4) : PlacedSector pa k (lineBase (lineOf pa) + 48 * k) := by
  obtain ⟨hbase, hq⟩ := lineBase_lineOf h
  have hline : lineOf pa = pa / 2 ^ 37 * 2 ^ 32 + pa % 2 ^ 37 / 192 := rfl
  have hdie : (lineBase (lineOf pa) + 48 * k) / 2 ^ 37 = pa / 2 ^ 37 := by omega
  have hoff : (lineBase (lineOf pa) + 48 * k) % 2 ^ 37 = pa % 2 ^ 37 / 192 * 192 + 48 * k := by omega
  have hnumber : sectorOf (lineBase (lineOf pa) + 48 * k) = pa / 2 ^ 37 * 2 ^ 32 + 4 * (pa % 2 ^ 37 / 192) + k := by
    rw [sectorOf, hdie, hoff]
    omega
  refine ⟨hk, ?_, ?_, hnumber, ?_⟩
  · rw [noLine, hoff, decide_eq_false_iff_not]
    omega
  · rw [lineOf, hdie, hoff, hline]
    omega
  · rw [hnumber, sectorBase, hbase]
    omega

/-- Of the sectors of a line no two have the same place in it. -/
theorem PlacedSector.eq_of_place {pa j k b c : Nat} (hb : PlacedSector pa k b) (hc : PlacedSector pa j c)
    (he : sectorOf b % 4 = sectorOf c % 4) : b = c := by
  have hsame : sectorOf b = sectorOf c := by
    have hkb := hb.lt
    have hjc := hc.lt
    rw [hb.number, hc.number] at he ⊢
    omega
  rw [← hb.base, hsame, hc.base]

theorem mem_lineSectors {pa b : Nat} : b ∈ lineSectors pa ↔ ∃ k < 4, b = lineBase (lineOf pa) + 48 * k := by
  simp [lineSectors, eq_comm]

theorem placedSector_of_mem {pa b : Nat} (h : noLine pa = false) (hb : b ∈ lineSectors pa) : ∃ k, PlacedSector pa k b := by
  obtain ⟨k, hk, rfl⟩ := mem_lineSectors.1 hb
  exact ⟨k, placedSector h hk⟩

/-! ## What a line that comes in leaves in a cache (09 R203–R205) -/

theorem mem_placeLine {α : Type} {ways : Nat} (h : 0 < ways) (low : Bool) (x : α) (rest : List α) : x ∈ placeLine ways low x rest := by
  obtain ⟨n, rfl⟩ := Nat.exists_eq_add_of_lt h
  unfold placeLine
  split
  · exact List.mem_append_right _ (List.mem_singleton.2 rfl)
  · rw [Nat.zero_add, List.take_succ_cons]
    exact List.mem_cons_self ..

theorem State.l2Ways_pos (s : State) (die : Nat) : 0 < s.l2Ways die := by
  unfold State.l2Ways
  split <;> decide

/-- Whether a die's L2 holds a line. -/
def State.InL2 (s : State) (die line : Nat) : Prop := ∃ x ∈ Table.get nilAt (s.die die).l2 (l2Set line), x.line = line

theorem State.InL2.of_dies {s t : State} {die line : Nat} (hs : s.InL2 die line) (h : t.dies = s.dies) : t.InL2 die line := by
  unfold State.InL2 State.die at hs ⊢
  rwa [h]

theorem State.fillL2Die_inL2 (s : State) (die ctx line : Nat) (ef : Bool) : (s.fillL2Die die ctx line ef).InL2 die line := by
  unfold State.InL2
  simp only [State.fillL2Die, State.die_onDie_self, Table.update, Table.get_set_self]
  refine ⟨_, mem_placeLine (s.l2Ways_pos die) .., ?_⟩
  cases hf : (Table.get nilAt (s.die die).l2 (l2Set line)).find? (fun x => decide (x.line = line)) with
  | none => rfl
  | some x => simpa using List.find?_some hf

/-- A line that comes in stands in the L2 of its home die. -/
theorem State.fillL2_inL2 (s : State) (die ctx : Nat) {pa : Nat} (h : noLine pa = false) (ef : Bool) :
    (s.fillL2 die ctx pa ef).InL2 (pa / 2 ^ 37) (lineOf pa) := by
  have hhome : (s.fillL2Die (pa / 2 ^ 37) ctx (lineOf pa) ef).InL2 (pa / 2 ^ 37) (lineOf pa) := State.fillL2Die_inL2 ..
  simp only [State.fillL2, h, Bool.false_eq_true, if_false]
  split
  · exact hhome
  · next hne =>
    unfold State.InL2 at hhome ⊢
    rwa [State.fillL2Die, State.die_onDie_ne _ _ (Ne.symm hne)]

theorem State.fillL1_dies (s : State) (core ctx pa : Nat) (ef : Bool) : (s.fillL1 core ctx pa ef).dies = s.dies := by
  unfold State.fillL1
  split <;> rfl

theorem State.fillL2_cores (s : State) (die ctx pa : Nat) (ef : Bool) : (s.fillL2 die ctx pa ef).cores = s.cores := by
  unfold State.fillL2
  split
  · rfl
  · extract_lets home t
    split <;> rfl

/-- The sector of an address as it stands at its home (09 R205). -/
def State.homeSector (s : State) (pa : Nat) : L1Sector := { bytes := s.bytes pa 48, poison := Table.get falseAt s.memPoison (sectorOf pa) }

theorem State.cur_of_sansUnits {s t : State} (h : t.sansUnits = s.sansUnits) : t.cur = s.cur := (congrArg State.cur h :)

theorem State.poisoned_congr {s t : State} (h : t.sansUnits = s.sansUnits) (pa n : Nat) : t.poisoned pa n = s.poisoned pa n :=
  (congrArg (fun x : State => x.poisoned pa n) h :)

theorem State.homeSector_congr {s t : State} (h : t.sansUnits = s.sansUnits) (pa : Nat) : t.homeSector pa = s.homeSector pa :=
  (congrArg (fun x : State => x.homeSector pa) h :)

theorem State.l1Ways_congr {s t : State} (h : t.sansUnits = s.sansUnits) (core : Nat) : t.l1Ways core = s.l1Ways core :=
  (congrArg (fun x : State => x.l1Ways core) h :)

section
variable {s : State} {core ctx pa b : Nat}

/-- The line of a context to which a core adds a sector: the one it holds, or one without sectors. -/
def State.lineToFill (s : State) (core ctx line : Nat) : L1Line := (s.l1Line core ctx line).getD { line := line, ctx := ctx }

theorem State.lineToFill_tags (s : State) (core ctx line : Nat) :
    (s.lineToFill core ctx line).line = line ∧ (s.lineToFill core ctx line).ctx = ctx := by
  unfold State.lineToFill
  cases hf : s.l1Line core ctx line with
  | none => exact ⟨rfl, rfl⟩
  | some x => simpa using List.find?_some hf

/-- The line that a fill leaves in its core's L1. -/
theorem State.fillL1_l1Line (hn : noLine pa = false) (hw : 0 < s.l1Ways core) (hb : sectorBase (sectorOf pa) = pa) :
    (s.fillL1 core ctx pa false).l1Line core ctx (lineOf pa) = some { s.lineToFill core ctx (lineOf pa) with
      sectors := Table.set noneAt (s.lineToFill core ctx (lineOf pa)).sectors (sectorOf pa % 4) (some (s.homeSector pa)) } := by
  obtain ⟨n, hways⟩ := Nat.exists_eq_add_of_lt hw
  rw [State.fillL1, if_neg (ne_true_of_eq_false hn), State.l1Line, State.onL1Set, State.core_onCore_self]
  simp only [Table.update, Table.get_set_self, hb, placeLine, hways, Nat.zero_add, List.take_succ_cons, Bool.false_and,
    Bool.false_eq_true, if_false]
  exact List.find?_cons_of_pos (by simpa [State.lineToFill] using s.lineToFill_tags core ctx (lineOf pa))

/-- A fill brings its sector as it stands at its home, and leaves the line's others. -/
theorem State.fillL1_l1Sector (hn : noLine pa = false) (hw : 0 < s.l1Ways core) (hb : sectorBase (sectorOf pa) = pa)
    (hl : lineOf b = lineOf pa) : (s.fillL1 core ctx pa false).l1Sector core ctx b =
      if sectorOf b % 4 = sectorOf pa % 4 then some (s.homeSector pa) else s.l1Sector core ctx b := by
  simp only [State.l1Sector, hl, State.fillL1_l1Line hn hw hb, Table.get_set, State.lineToFill]
  split
  · rfl
  · cases s.l1Line core ctx (lineOf pa) <;> rfl

/-- Fills of sectors of one line leave each of them as it stands at its home, and those that stood so already. -/
theorem State.foldl_fillL1_l1Sector (hn : noLine pa = false) {l : List Nat} (hsub : ∀ c ∈ l, c ∈ lineSectors pa) (hw : 0 < s.l1Ways core)
    (hb : b ∈ lineSectors pa) (hin : b ∈ l ∨ s.l1Sector core ctx b = some (s.homeSector b)) :
    (l.foldl (fun s c => s.fillL1 core ctx c false) s).l1Sector core ctx b = some (s.homeSector b) := by
  induction l generalizing s with
  | nil => exact hin.resolve_left List.not_mem_nil
  | cons c l ih =>
    obtain ⟨k, hpb⟩ := placedSector_of_mem hn hb
    obtain ⟨j, hpc⟩ := placedSector_of_mem hn (hsub c (List.mem_cons_self ..))
    have hsame := State.fillL1_sansUnits s core ctx c false
    have hfill : (s.fillL1 core ctx c false).l1Sector core ctx b =
        if sectorOf b % 4 = sectorOf c % 4 then some (s.homeSector c) else s.l1Sector core ctx b :=
      State.fillL1_l1Sector hpc.inLine hw hpc.base (hpb.line.trans hpc.line.symm)
    rw [List.foldl_cons, ← State.homeSector_congr hsame]
    refine ih (fun c hc => hsub c (List.mem_cons_of_mem _ hc)) (by rwa [State.l1Ways_congr hsame]) ?_
    rw [State.homeSector_congr hsame, hfill]
    by_cases hbc : b = c
    · exact .inr (by rw [hbc, if_pos rfl])
    · rw [if_neg fun he => hbc (hpb.eq_of_place hpc he)]
      exact hin.imp_left fun hmem => (List.mem_cons.1 hmem).resolve_left hbc

end

/-! ## The prefetch of one lane (09 R212) -/

/-- The line of an address comes into L2, and with neither EF nor ATTR 1 its sectors into the issuing core's L1. -/
def State.bringLine (s : State) (ctx pa attr : Nat) (ef : Bool) : State :=
  let t := s.fillL2 (dieOf s.cur.core) ctx pa ef
  if ef || attr = 1 then t else (lineSectors pa).foldl (fun u b => u.fillL1 u.cur.core ctx b false) t

section
variable {s : State} {ctx pa attr b : Nat} {ef : Bool}

theorem State.bringLine_sansUnits : (s.bringLine ctx pa attr ef).sansUnits = s.sansUnits := by
  unfold State.bringLine
  extract_lets t
  have ht : t.sansUnits = s.sansUnits := State.fillL2_sansUnits ..
  split
  · exact ht
  · exact (foldl_keeps State.sansUnits _ (fun _ _ => State.fillL1_sansUnits ..) _ _).trans ht

/-- With EF set the line comes into L2 alone. -/
theorem State.bringLine_cores (h : ef = true) : (s.bringLine ctx pa attr ef).cores = s.cores := by
  have hbring : s.bringLine ctx pa attr ef = s.fillL2 (dieOf s.cur.core) ctx pa ef := if_pos (by rw [h, Bool.true_or])
  rw [hbring, State.fillL2_cores]

theorem State.bringLine_dies (s : State) (ctx pa attr : Nat) (ef : Bool) :
    (s.bringLine ctx pa attr ef).dies = (s.fillL2 (dieOf s.cur.core) ctx pa ef).dies := by
  unfold State.bringLine
  extract_lets t
  split
  · rfl
  · exact foldl_keeps State.dies _ (fun _ _ => State.fillL1_dies ..) _ _

theorem State.bringLine_inL2 (h : noLine pa = false) : (s.bringLine ctx pa attr ef).InL2 (pa / 2 ^ 37) (lineOf pa) :=
  (s.fillL2_inL2 (dieOf s.cur.core) ctx h ef).of_dies (s.bringLine_dies ctx pa attr ef)

theorem State.foldl_fillL1_cur (l : List Nat) (s : State) :
    l.foldl (fun u b => u.fillL1 u.cur.core ctx b false) s = l.foldl (fun u b => u.fillL1 s.cur.core ctx b false) s := by
  induction l generalizing s with
  | nil => rw [List.foldl_nil, List.foldl_nil]
  | cons c l ih =>
    have hcur : (s.fillL1 s.cur.core ctx c false).cur = s.cur := State.cur_of_sansUnits (State.fillL1_sansUnits ..)
    rw [List.foldl_cons, ih, hcur, List.foldl_cons]

theorem State.bringLine_l1Sector (h : noLine pa = false) (hw : 0 < s.l1Ways s.cur.core) (hb : b ∈ lineSectors pa) (ha : attr = 0)
    (hef : ef = false) : (s.bringLine ctx pa attr ef).l1Sector s.cur.core ctx b = some (s.homeSector b) := by
  have hL2 : (s.fillL2 (dieOf s.cur.core) ctx pa ef).sansUnits = s.sansUnits := State.fillL2_sansUnits ..
  have hcur : (s.fillL2 (dieOf s.cur.core) ctx pa ef).cur = s.cur := State.cur_of_sansUnits hL2
  rw [← State.homeSector_congr hL2, State.bringLine, if_neg (by simp [ha, hef]), State.foldl_fillL1_cur, hcur]
  exact State.foldl_fillL1_l1Sector h (fun _ hc => hc) (by rwa [State.l1Ways_congr hL2]) hb (.inl hb)
end

/-- The state without what a prefetch changes: the cores' and dies' units, the counts of walks and the count of draws. -/
def State.sansCaches (s : State) : State := { s with cores := [], dies := [], csr := [], free := 0 }

theorem State.sansCaches_congr {s t : State} (h : t.sansUnits = s.sansUnits) : t.sansCaches = s.sansCaches :=
  (congrArg State.sansCaches h :)

theorem State.eq_of_sansCaches {s t : State} (h : t.sansCaches = s.sansCaches) :
    t = { s with cores := t.cores, dies := t.dies, csr := t.csr, free := t.free } :=
  congrArg (fun x : State => { x with cores := t.cores, dies := t.dies, csr := t.csr, free := t.free }) h

theorem State.onCore_l1 (s : State) (c k : Nat) {f : Core → Core} (hf : ∀ x, (f x).l1 = x.l1) :
    ((s.onCore c f).core k).l1 = (s.core k).l1 := by
  by_cases h : k = c
  · rw [h, State.core_onCore_self, hf]
  · rw [State.core_onCore_ne _ _ h]

section
variable {s : State} {core ctx size : Nat} {va : Dword} {kind : AccKind} {want : Want}

theorem State.tlbTouch_l1 (s : State) (core ctx va c : Nat) : ((s.tlbTouch core ctx va).core c).l1 = (s.core c).l1 := by
  unfold State.tlbTouch
  split
  · exact State.onCore_l1 _ _ _ fun _ => rfl
  · split
    · exact (congrArg Core.l1 (State.onDie_core_same ..)).trans (State.onCore_l1 _ _ _ fun _ => rfl)
    · rfl

/-- The state once a walk for an address has been made in one step and counted. -/
def State.walkCounted (s : State) (core ctx : Nat) : State :=
  let t : State := { s with free := s.free + 1 }
  if t.ctxValid ctx then t.countWalk (dieOf core) ctx else t

/-- The state once a walk for an address has been made in one step, with its page in the TLBs. -/
def State.walkedFor (s : State) (core ctx va : Nat) : State :=
  if (s.walk ctx va).cause.isNone then (s.walkCounted core ctx).tlbFill core (s.walk ctx va).page else s.walkCounted core ctx

theorem State.checkFill_snd : (s.checkFill core ctx va size kind want).2 =
    if 2 ^ 56 ≤ va.toNat ∨ va.toNat % size ≠ 0 then s
    else if (s.tlbLook core ctx va.toNat).isSome then s.tlbTouch core ctx va.toNat
    else s.walkedFor core ctx va.toNat := rfl

theorem State.walkCounted_eq (s : State) (core ctx : Nat) :
    s.walkCounted core ctx = { s with csr := (s.walkCounted core ctx).csr, free := s.free + 1 } := by
  unfold State.walkCounted
  extract_lets t
  split <;> rfl

theorem State.tlbFill_sansUnits (s : State) (core : Nat) (e : TlbEntry) : (s.tlbFill core e).sansUnits = s.sansUnits := rfl

theorem State.tlbFill_l1 (s : State) (core : Nat) (e : TlbEntry) (c : Nat) : ((s.tlbFill core e).core c).l1 = (s.core c).l1 :=
  (congrArg Core.l1 (State.onDie_core_same ..)).trans (State.onCore_l1 _ _ _ fun _ => rfl)

theorem State.walkedFor_sansCaches (s : State) (core ctx va : Nat) : (s.walkedFor core ctx va).sansCaches = s.sansCaches := by
  have hcount : (s.walkCounted core ctx).sansCaches = s.sansCaches := (congrArg State.sansCaches (s.walkCounted_eq core ctx) :)
  unfold State.walkedFor
  split
  · exact (State.sansCaches_congr (State.tlbFill_sansUnits ..)).trans hcount
  · exact hcount

theorem State.walkedFor_l1 (s : State) (core ctx va c : Nat) : ((s.walkedFor core ctx va).core c).l1 = (s.core c).l1 := by
  have hcount : ((s.walkCounted core ctx).core c).l1 = (s.core c).l1 := (congrArg (fun x : State => (x.core c).l1) (s.walkCounted_eq core ctx) :)
  unfold State.walkedFor
  split
  · exact (State.tlbFill_l1 ..).trans hcount
  · exact hcount

theorem State.checkFill_sansCaches : (s.checkFill core ctx va size kind want).2.sansCaches = s.sansCaches := by
  rw [State.checkFill_snd]
  split
  · rfl
  · split
    · exact State.sansCaches_congr (State.tlbTouch_sansUnits ..)
    · exact State.walkedFor_sansCaches ..

theorem State.checkFill_l1 (c : Nat) : ((s.checkFill core ctx va size kind want).2.core c).l1 = (s.core c).l1 := by
  rw [State.checkFill_snd]
  split
  · rfl
  · split
    · exact State.tlbTouch_l1 ..
    · exact State.walkedFor_l1 ..

/-- Checks that pass on a translation at hand (09 R199, R200). -/
theorem State.checkFill_hit {e : TlbEntry} {pa : Nat} (hva : va.toNat < 2 ^ 56) (hsize : va.toNat % size = 0)
    (he : s.tlbLook core ctx va.toNat = some e) (hp : pageCheck e va.toNat want = .ok pa) :
    s.checkFill core ctx va size kind want = (.ok (pa, e), s.tlbTouch core ctx va.toNat) := by
  have hcheck : s.check core ctx va size kind want = .ok (pa, e) := by
    rw [State.check, State.resolve, he]
    unfold pageCheck at hp
    simp only [checkWalked, checkTo8, Nat.not_le.2 hva, hsize, ne_eq, not_true_eq_false, if_false]
    cases hf : pageFault e want with
    | some c => simp [hf] at hp
    | none =>
      simp only [hf] at hp ⊢
      split at hp
      · next h10 =>
        obtain rfl : _ = pa := Except.ok.inj hp
        rw [if_pos h10]
      · cases hp
  refine Prod.ext hcheck ?_
  rw [State.checkFill_snd, if_neg (by omega), he]
  rfl
end

/-- Module memory lies below 2³⁹ (09 R193). -/
theorem lt_of_placeOf_memory {pa : Nat} (h : placeOf pa = .memory) : pa < 2 ^ 39 := by
  by_contra hge
  rw [placeOf, if_neg (by omega)] at h
  split_ifs at h

/-- The prefetch of the line of an address: an address that would fail a check, or whose page takes no part in the L2, does nothing, and neither
does one for which no walker is free. -/
def State.prefetchAt (s : State) (ctx : Nat) (va : Dword) (ef : Bool) : State :=
  if !s.mayTranslate s.cur.core ctx va.toNat then s
  else
    let (r, t) := s.checkFill s.cur.core ctx va 1 .load { read := true, plain := true }
    match r with
    | .error _ => t
    | .ok (pa, e) =>
      if placeOf pa = .memory ∧ e.np = false ∧ cacheAttr e.attr e.dev pa ≠ 2 ∧ t.poisoned pa 1 = false then t.bringLine ctx pa e.attr ef
      else t

/-- The prefetches of some lanes of a wave. -/
def State.prefetchLanes (s : State) (a : MArgs) (w : Wave) (m : Dword) : State :=
  (lanesOf m).foldl (fun t i => t.prefetchAt w.ctx (wideAddr a w 1 i) a.ef) s

section
variable {s : State} {a : MArgs} {w : Wave} {sp : Split} {ctx : Nat} {va : Dword} {ef : Bool}

/-- A prefetch translates its address, and may then bring its line. -/
theorem State.prefetchAt_cases (s : State) (ctx : Nat) (va : Dword) (ef : Bool) :
    s.prefetchAt ctx va ef = s ∨
    (let t := (s.checkFill s.cur.core ctx va 1 .load { read := true, plain := true }).2
     s.prefetchAt ctx va ef = t ∨ ∃ pa attr, s.prefetchAt ctx va ef = t.bringLine ctx pa attr ef) := by
  unfold State.prefetchAt
  split
  · exact .inl rfl
  · generalize s.checkFill s.cur.core ctx va 1 .load { read := true, plain := true } = x
    obtain ⟨r, t⟩ := x
    refine .inr ?_
    cases r with
    | error e => exact .inl rfl
    | ok p =>
      dsimp only
      split
      · exact .inr ⟨_, _, rfl⟩
      · exact .inl rfl

theorem State.prefetchAt_sansCaches : (s.prefetchAt ctx va ef).sansCaches = s.sansCaches := by
  obtain h | h | ⟨pa, attr, h⟩ := s.prefetchAt_cases ctx va ef
  · rw [h]
  · rw [h, State.checkFill_sansCaches]
  · rw [h, State.sansCaches_congr State.bringLine_sansUnits, State.checkFill_sansCaches]

theorem State.prefetchAt_l1 (hef : ef = true) (c : Nat) : ((s.prefetchAt ctx va ef).core c).l1 = (s.core c).l1 := by
  obtain h | h | ⟨pa, attr, h⟩ := s.prefetchAt_cases ctx va ef
  · rw [h]
  · rw [h, State.checkFill_l1]
  · rw [h, State.core, State.bringLine_cores hef]
    exact State.checkFill_l1 c

/-- The prefetch of an address whose translation is at hand and whose checks pass. -/
theorem State.prefetchAt_hit {e : TlbEntry} {pa : Nat} (hva : va.toNat < 2 ^ 56) (he : s.tlbLook s.cur.core ctx va.toNat = some e)
    (hp : pageCheck e va.toNat { read := true, plain := true } = .ok pa) (hplace : placeOf pa = .memory) (hline : noLine pa = false)
    (hnp : e.np = false) (hdev : e.dev = false) (hattr : e.attr < 2) (hpoison : s.poisoned pa 1 = false) :
    s.prefetchAt ctx va ef = (s.tlbTouch s.cur.core ctx va.toNat).bringLine ctx pa e.attr ef := by
  have hmay : s.mayTranslate s.cur.core ctx va.toNat = true := by simp [State.mayTranslate, he]
  have hlow : pa < 2 ^ 39 := lt_of_placeOf_memory hplace
  have hcached : cacheAttr e.attr e.dev pa ≠ 2 := by
    simp only [cacheAttr, hdev, hline, decide_eq_false (Nat.not_le.2 hlow), Bool.or_false, Bool.false_eq_true, if_false]
    omega
  have hclean : (s.tlbTouch s.cur.core ctx va.toNat).poisoned pa 1 = false :=
    (State.poisoned_congr (State.tlbTouch_sansUnits ..) pa 1).trans hpoison
  simp only [State.prefetchAt, hmay, Bool.not_true, Bool.false_eq_true, if_false,
    State.checkFill_hit (kind := .load) hva (Nat.mod_one _) he hp]
  exact if_pos ⟨hplace, hnp, hcached, hclean⟩

/-- Where its checks pass on a translation at hand, a prefetch brings the line of its address into the L2 of its home, and its sectors into L1. -/
theorem State.prefetchAt_brings {e : TlbEntry} {pa : Nat} (hva : va.toNat < 2 ^ 56) (he : s.tlbLook s.cur.core ctx va.toNat = some e)
    (hp : pageCheck e va.toNat { read := true, plain := true } = .ok pa) (hplace : placeOf pa = .memory) (hline : noLine pa = false)
    (hnp : e.np = false) (hdev : e.dev = false) (hattr : e.attr < 2) (hpoison : s.poisoned pa 1 = false) :
    (s.prefetchAt ctx va ef).InL2 (pa / 2 ^ 37) (lineOf pa) ∧
    (ef = false → e.attr = 0 → 0 < s.l1Ways s.cur.core → ∀ b ∈ lineSectors pa,
      (s.prefetchAt ctx va ef).l1Sector s.cur.core ctx b = some (s.homeSector b)) := by
  rw [State.prefetchAt_hit hva he hp hplace hline hnp hdev hattr hpoison]
  refine ⟨State.bringLine_inL2 hline, fun hef ha hways b hb => ?_⟩
  have htouch := State.tlbTouch_sansUnits s s.cur.core ctx va.toNat
  generalize s.tlbTouch s.cur.core ctx va.toNat = t at htouch ⊢
  rw [← State.homeSector_congr htouch, ← State.cur_of_sansUnits htouch]
  rw [← State.l1Ways_congr htouch, ← State.cur_of_sansUnits htouch] at hways
  exact State.bringLine_l1Sector hline hways hb ha hef

theorem State.prefetchLanes_sansCaches (s : State) (a : MArgs) (w : Wave) (m : Dword) : (s.prefetchLanes a w m).sansCaches = s.sansCaches :=
  foldl_keeps State.sansCaches _ (fun _ _ => State.prefetchAt_sansCaches) _ _

theorem State.prefetchLanes_l1 (hef : a.ef = true) (m : Dword) (c : Nat) : ((s.prefetchLanes a w m).core c).l1 = (s.core c).l1 :=
  foldl_keeps (fun t : State => (t.core c).l1) _ (fun _ _ => State.prefetchAt_l1 hef c) _ _

theorem lanesOf_laneBit {l : Nat} (hl : l < 64) : lanesOf (laneBit l) = [l] := by
  have hfilter : lanesOf (laneBit l) = (List.range 64).filter (fun i => decide (i = l)) :=
    List.filter_congr fun i hi => laneBit_getLsbD (List.mem_range.1 hi)
  rw [hfilter, List.filter_eq, List.count_eq_one_of_mem List.nodup_range (List.mem_range.2 hl)]
  rfl

theorem State.prefetchLanes_laneBit {l : Nat} (hl : l < 64) :
    s.prefetchLanes a w (laneBit l) = s.prefetchAt w.ctx (wideAddr a w 1 l) a.ef := by
  rw [State.prefetchLanes, lanesOf_laneBit hl]
  rfl

/-! ## PREF (09 R212) -/

theorem exec_pref (a : MArgs) (s : State) : exec (.pref a) s =
    .next (s.issueWith (baseUses a 2) (fun w sp t => (t.prefetchLanes a w (runM a w sp)).advance)) := rfl

/-- What a PREF names is the address of a load. -/
theorem loadRow_address_uses (a : MArgs) : ({ (loadRow a .global .load .b32).uses with vw := [] } : Uses) = baseUses a 2 := by
  simp [MemRow.uses, loadRow, baseUses, regs]

theorem loadRow_address_eq_wideAddr (a : MArgs) (w : Wave) (l : Nat) : (loadRow a .global .load .n8).address w l = wideAddr a w 1 l := by
  simp only [MemRow.address, loadRow, wideAddr, signExtend_mul_eq_ofInt]
  rfl

/-- A PREF that nothing holds back leaves its split past it, in the wave as its marks have left it, and the caches and TLBs as the prefetches of
its lanes do. -/
theorem exec_pref_acts (hi : Issues s (baseUses a 2) w sp) :
    ∃ b x gs n, w.Marked b sp (baseUses a 2) ∧ x.sansSeen = sp.sansSeen ∧
      exec (.pref a) s = .next (((s.reissued b gs n).prefetchLanes a (w.seen sp s.free) (runM a (w.seen sp s.free) sp)).setWave
        s.cur.core s.cur.wave (some (b.setSplit s.cur.split (some (past s x))))) := by
  obtain ⟨hc, hissuing, hbusy, w', hp⟩ := hi
  obtain ⟨b, gs, n, hb, -, he⟩ := State.issueWith_acts
    (fun w sp t => (t.prefetchLanes a w (runM a w sp)).advance) hissuing hbusy hp
  obtain ⟨x, hx, hxs⟩ := Wave.sansRegs_splitSome hb.rest (State.issuing_split hissuing).2
  refine ⟨b, x, gs, n, hb, hxs, ?_⟩
  rw [exec_pref, he]
  have hrest := (s.reissued b gs n).prefetchLanes_sansCaches a (w.seen sp s.free) (runM a (w.seen sp s.free) sp)
  generalize (s.reissued b gs n).prefetchLanes a (w.seen sp s.free) (runM a (w.seen sp s.free) sp) = t at hrest ⊢
  have hcur : t.cur = s.cur := (congrArg State.cur hrest :)
  have hready : t.issuing = some (b, x) := by
    have : t.issuing = (s.reissued b gs n).issuing := (congrArg State.issuing hrest :)
    rw [this, State.reissued_issuing, hx, Option.map_some]
  rw [State.advance_eq (by rw [hcur]; exact hc) hready, past, past, hcur]
end

/-- Settles O19: a fence is one operation behind the others of its wave, FENCE.OR waits for those, and a PREF changes the caches and TLBs alone. -/
theorem fencesAndPrefetch : Obligations.FencesAndPrefetch := by
  refine ⟨⟨fun a s s' w sp hc hs h hroom => ?_, fun s w sp hc h hd => exec_fenceOr_done hc h ((State.opsDone_iff h).2 hd),
    fun s w sp o h ho hleft => exec_fenceOr_waits fun hd => ?_⟩, ?_⟩
  · have hc' : s'.cur.svc = none := by
      split at hs
      · exact (svc_of_fuses hs).trans hc
      · exact hs ▸ hc
    refine ⟨fun hrun => ⟨(fenceOp a w sp).placedIn s' w, ?_, rfl, rfl, rfl, rfl, rfl, rfl, fenceOp_units_length a w sp,
      fenceOp_units_undone a w sp⟩, fun hrun => ?_⟩
    · rw [exec_fence hs h hroom, if_neg hrun, State.pushOp_eq hc' h]
      rfl
    · rw [exec_fence hs h hroom, if_pos hrun, State.advance_eq hc' h]
  · obtain ⟨hpassed, hdone⟩ := (State.opsDone_iff h).1 hd o ho
    obtain hleft | ⟨u, hu, hleft⟩ := hleft
    · exact Bool.false_ne_true (hleft.symm.trans hpassed)
    · exact Bool.false_ne_true (hleft.symm.trans (hdone u hu))
  · intro a s w sp u hi
    have hu : u = baseUses a 2 := loadRow_address_uses a
    rw [hu] at hi ⊢
    obtain ⟨b, x, gs, n, hb, hx, he⟩ := exec_pref_acts hi
    have hrest := (s.reissued b gs n).prefetchLanes_sansCaches a (w.seen sp s.free) (runM a (w.seen sp s.free) sp)
    refine ⟨_, _, he, State.wave_setWave_self .., Wave.setSplit_sansRegs hb.rest _ (Split.retire_congr hx ..), ?_, hb.v, fun k => ?_, fun c => ?_,
      fun hef c => ?_, fun l pa e hrun hl => ?_⟩
    · generalize (s.reissued b gs n).prefetchLanes a (w.seen sp s.free) (runM a (w.seen sp s.free) sp) = t at hrest ⊢
      rw [State.eq_of_sansCaches hrest]
      rfl
    · exact (hb.s k).trans (if_neg List.not_mem_nil)
    · rw [State.setWave_byte_same]
      exact (congrArg (fun t : State => t.byte c) hrest :)
    · rw [State.setWave_core_same, State.prefetchLanes_l1 hef]
      rfl
    · intro va hva htlb hcheck hplace hline hnp hdev hattr hpoison
      have hva' : va = wideAddr a (w.seen sp s.free) 1 l := loadRow_address_eq_wideAddr ..
      rw [hva'] at hva htlb hcheck
      rw [hrun, State.prefetchLanes_laneBit hl]
      obtain ⟨hL2, hL1⟩ := State.prefetchAt_brings (s := s.reissued b gs n) (ef := a.ef) hva htlb hcheck hplace hline hnp hdev hattr hpoison
      refine ⟨?_, fun hef ha hways k hk => ?_⟩
      · rw [State.setWave_die_same]
        exact hL2
      · exact hL1 hef ha hways _ (mem_lineSectors.2 ⟨k, hk, rfl⟩)

end Sys2Proof.Machine

/-! What an instruction that hands the matrix array an operation does (O24; 11 R239, R241; 12 R250, R253): it is admitted, its operation
stands last in the array's queue, and its split goes on. -/

namespace Sys2Proof.Machine

open Sys2Proof.Claims

/-! ## Admission (12 R250, R253) -/

/-- The state in which the issuing instruction has been admitted, where no other waited. -/
def State.letGo (s : State) : State := s.onCore s.cur.core (fun c => { c with waitq := [] })

section
variable {s s' : State} {w : Wave} {sp : Split} {n : Nat}

/-- An MX instruction of a whole wave acts from the state in which its split stands alone. -/
theorem State.mx_of_whole (h : Whole s s' w sp) (act : Wave → Split → State → State) : s.mx act = act w sp s' := by
  obtain ⟨hg, hi, -, w₀, sp₀, hi₀, hwide⟩ := h
  simp only [State.mx, hi₀, hwide, ne_eq, not_true_eq_false, if_false, State.forced_of_gathers hg, hi]

theorem State.letGo_core (h : (s.core s.cur.core).waitq = []) (c : Nat) : s.letGo.core c = s.core c := by
  by_cases hc : c = s.cur.core
  · rw [hc, State.letGo, State.core_onCore_self, ← h]
  · exact State.core_onCore_ne s _ hc

/-- An array operation for whose ranges there is room goes first where nothing waits. -/
theorem State.admitted_of_free (hq : (s.core s.cur.core).waitq = []) (hroom : (s.core s.cur.core).held.length + n ≤ 32) (act : State → State) :
    s.admitted n false act = act s.letGo := by
  simp [State.admitted, State.letIn, hq, State.yieldsTo, hroom, State.letGo]

theorem arrayRoom_of_arrayFree (h : ArrayFree s n) : s.arrayRoom = true := by
  obtain ⟨-, hlen, -, hmma, -⟩ := h
  have hcopy : s.copyPending = false := by
    simp only [State.copyPending, List.any_eq_false, Bool.and_eq_true, decide_eq_true_eq, not_and]
    exact fun c hc hsome => (hmma c hc).resolve_left (Option.isSome_iff_ne_none.1 hsome)
  simp [State.arrayRoom, hlen, hcopy]

theorem admitted_of_arrayFree (h : ArrayFree s n) (act : State → State) : s.admitted n false act = act s.letGo :=
  State.admitted_of_free h.1 h.2.2.1 act

theorem State.letGo_prepare (c i : Nat) (w : Wave) (sp : Split) (u : Uses) : s.letGo.prepare c i w sp u = s.prepare c i w sp u := by
  have hv : s.letGo.roomV = s.roomV := rfl
  have hs : s.letGo.roomS = s.roomS := rfl
  have hcur : s.letGo.cur = s.cur := rfl
  simp only [State.prepare, State.reload, State.makeRoom, hv, hs, hcur]

/-- An instruction that issues still does once it is admitted. -/
theorem issues_letGo {u : Uses} (h : Issues s u w sp) : Issues s.letGo u w sp := by
  obtain ⟨hc, hi, hb, w', hp⟩ := h
  exact ⟨hc, hi, hb, w', (State.letGo_prepare ..).trans hp⟩

/-! ## The operation in the queue (11 R239) -/

/-- An operation as the issuing split of a state hands it to its core's array. -/
def ArrayOp.issuedBy (o : ArrayOp) (s : State) : ArrayOp :=
  { o with id := (s.core s.cur.core).nextArray, seq := (s.core s.cur.core).nextSeq, pc := s.cur.iaddr, split := s.cur.split }

/-- An operation of the issuing wave of a state that nothing has happened to yet. -/
structure ArrayOp.Fresh (o : ArrayOp) (s : State) : Prop where
  wave : o.wave = some s.cur.wave
  begun : o.begun = false
  lost : o.lost = false
  cmd : o.cmd = none
  arrive : o.arrive = []

/-- The youngest operation stands last. -/
theorem Core.insertOp_of_youngest {c : Core} {o : ArrayOp} (h : ∀ y ∈ c.array, y.seq < o.seq) :
    c.insertOp o = { c with array := c.array ++ [{ o with id := c.nextArray }], nextArray := c.nextArray + 1 } := by
  have hall : ∀ y ∈ c.array, (y.begun || decide (y.seq < o.seq)) = true := fun y hy => by simp [h y hy]
  rw [Core.insertOp, List.takeWhile_eq_self_iff.2 hall, List.dropWhile_eq_nil_iff.2 hall, List.append_nil]

/-- An operation is handed over and its split goes on. -/
theorem enqueued_enqueue_advance {b : Wave} {x : Split} {gs : Table (Option Group)} {m : Nat} {o : ArrayOp} (hc : s.cur.svc = none)
    (hfree : ArrayFree s n) (hgs : ∀ k, (Table.get noneAt gs k).map Group.sansAcc = (s.group k).map Group.sansAcc)
    (hx : b.split s.cur.split = some x) (ho : o.Fresh s) :
    Enqueued s ((s.letGo.reissued b gs m).enqueue s.cur.core o).advance (b.setSplit s.cur.split (some (past s x))) (o.issuedBy s) := by
  obtain ⟨hq, -, -, -, hyoung⟩ := hfree
  generalize ht : (s.letGo.reissued b gs m).enqueue s.cur.core o = t
  have hcur : t.cur = s.cur := ht ▸ rfl
  have hi : t.issuing = some (b, x) := by
    have hsame : t.issuing = (s.letGo.reissued b gs m).issuing := ht ▸ rfl
    rw [hsame, State.reissued_issuing]
    exact congrArg (Option.map _) hx
  have hcores : ∀ c, t.core c = (s.letGo.onCore s.cur.core (fun c =>
      { c.insertOp { o with pc := s.cur.iaddr, split := s.cur.split, seq := c.nextSeq } with nextSeq := c.nextSeq + 1 })).core c :=
    fun c => ht ▸ rfl
  rw [State.advance_eq (by rw [hcur, hc]) hi, hcur]
  refine ⟨s.reissued (b.setSplit s.cur.split (some (past s x))) gs m, ⟨gs, m, rfl, hgs⟩, ?_, fun c hne => ?_, ?_, ho.wave, ho.begun, ho.lost, ho.cmd,
    ho.arrive, rfl, rfl⟩
  · have hpast : past t x = past s x := by rw [past, hcur, past]
    rw [hpast, ← ht]
    simp only [State.setWave, State.enqueue, State.onCore, State.setCore, State.reissued, State.letGo, Table.set_set]
  · rw [State.setWave_core_same, hcores, State.core_onCore_ne _ _ hne, State.letGo_core hq]
  · rw [State.setWave_core_same, hcores, State.core_onCore_self, State.letGo_core hq, Core.insertOp_of_youngest hyoung]
    rfl

/-- An instruction whose action changes its wave by `f` and hands the operation `o` over: what it leaves. `w'` is its wave as `f` leaves it,
beside registers and windows. -/
theorem issueWith_enqueues {u : Uses} {act : Wave → Split → State → State} {f : Wave → Wave} {o : ArrayOp} {w' : Wave}
    (hi : Issues s u w sp) (hfree : ArrayFree s n) (ho : o.Fresh s)
    (hact : ∀ a gs m, act (w.seen sp s.free) sp (s.letGo.reissued a gs m) = ((s.letGo.reissued (f a) gs m).enqueue s.cur.core o).advance)
    (hsplits : ∀ a : Wave, (f a).splits = a.splits) (hv : ∀ (a : Wave) r l, (f a).v r l = a.v r l) (hs : ∀ (a : Wave) k, (f a).s k = a.s k)
    (hrest : ∀ a : Wave, a.sansRegs = w.sansRegs → (f a).sansRegs = w'.sansRegs) :
    ∃ t a x, s.letGo.issueWith u act = t ∧ Enqueued s t ((f a).setSplit s.cur.split (some x)) (o.issuedBy s) ∧
      RegsKept w ((f a).setSplit s.cur.split (some x)) sp u ∧ a.sansRegs = w.sansRegs ∧
      ((f a).setSplit s.cur.split (some x)).sansRegs = (w'.setSplit s.cur.split (some (past s sp))).sansRegs := by
  obtain ⟨hc, hissuing, hb, wp, hp⟩ := issues_letGo hi
  obtain ⟨a, gs, m, ha, hgs, he⟩ := State.issueWith_acts act hissuing hb hp
  obtain ⟨x, hx, hxs⟩ := Wave.sansRegs_splitSome ha.rest (State.issuing_split hissuing).2
  have hfx : (f a).split s.cur.split = some x := (congrArg (fun t => Table.get noneAt t s.cur.split) (hsplits a)).trans hx
  refine ⟨_, a, past s x, he.trans (hact a gs m), enqueued_enqueue_advance hc hfree hgs hfx ho, ⟨fun r l hl => ?_, fun k => ?_⟩, ha.rest,
    Wave.setSplit_sansRegs (hrest a ha.rest) _ (Split.retire_congr hxs ..)⟩
  · rw [Wave.setSplit_v, hv, ha.v r l hl]
    rfl
  · rw [Wave.setSplit_s, hs, ha.s]
end

end Sys2Proof.Machine

/-! The MMAs and the accumulator instructions at issue (O24; 11 R239–R249). -/

namespace Sys2Proof.Machine

open Sys2Proof.Claims

/-! ## Tables written at many keys -/

section
variable {α β : Type} [DecidableEq α] {d : Nat → α} {idx : β → Nat} {val : β → α} {l : List β} {t : Table α} {k : Nat}

/-- A key that none of many writes names reads as before. -/
theorem Table.get_foldl_set_of_ne (h : ∀ b ∈ l, idx b ≠ k) :
    Table.get d (l.foldl (fun t b => Table.set d t (idx b) (val b)) t) k = Table.get d t k := by
  induction l generalizing t with
  | nil => rfl
  | cons b l ih =>
    rw [List.foldl_cons, ih fun c hc => h c (List.mem_cons_of_mem _ hc), Table.get_set_ne (h b (List.mem_cons_self ..)).symm]

/-- A key that one of many writes names, and no other, reads as that one wrote it. -/
theorem Table.get_foldl_set_of_mem {b : β} (hb : b ∈ l) (hinj : ∀ c ∈ l, idx c = idx b → c = b) :
    Table.get d (l.foldl (fun t b => Table.set d t (idx b) (val b)) t) (idx b) = val b := by
  induction l generalizing t with
  | nil => exact absurd hb List.not_mem_nil
  | cons c l ih =>
    rw [List.foldl_cons]
    by_cases hl : b ∈ l
    · exact ih hl fun e he => hinj e (List.mem_cons_of_mem _ he)
    · obtain rfl := (List.mem_cons.1 hb).resolve_right hl
      rw [Table.get_foldl_set_of_ne fun e he heq => hl (hinj e (List.mem_cons_of_mem _ he) heq ▸ he), Table.get_set_self]
end

/-- Two loops, one in the other, as one over the pairs. -/
theorem foldl_foldl_eq_product {α β γ : Type} (f : γ → α → β → γ) (as : List α) (bs : List β) (c : γ) :
    as.foldl (fun c a => bs.foldl (fun c b => f c a b) c) c = (as ×ˢ bs).foldl (fun c p => f c p.1 p.2) c := by
  induction as generalizing c with
  | nil => rfl
  | cons a as ih => rw [List.foldl_cons, ih, List.product_cons, List.foldl_append, List.foldl_map]

/-! ## The operands of the array -/

/-- The rows of A as lanes hold them; those of lanes that do not live are 0 (11 R243). -/
theorem Wave.rowsA_get (w : Wave) (a : Nat) {r k : Nat} (hr : r < 64) (hk : k < 8) :
    Table.get zeroWord (w.rowsA a) (8 * r + k) = if w.liveLanes.getLsbD r = true then w.v (a + k) r else 0 := by
  rw [Wave.rowsA, foldl_foldl_eq_product (fun t i k => Table.set zeroWord t (8 * i + k) (w.v (a + k) i))]
  split
  · next hlive =>
    refine Table.get_foldl_set_of_mem (idx := fun p : Nat × Nat => 8 * p.1 + p.2) (val := fun p => w.v (a + p.2) p.1) (b := (r, k)) ?_ ?_
    · simp [List.mem_product, mem_lanesOf, hr, hk, hlive]
    · rintro ⟨i, j⟩ hp heq
      have hj := List.mem_range.1 (List.mem_product.1 hp).2
      simp only [Prod.mk.injEq] at heq hj ⊢
      omega
  · next hlive =>
    refine (Table.get_foldl_set_of_ne (idx := fun p : Nat × Nat => 8 * p.1 + p.2) ?_).trans (Table.get_nil _)
    rintro ⟨i, j⟩ hp heq
    obtain ⟨hi, hj⟩ := List.mem_product.1 hp
    have hj := List.mem_range.1 hj
    obtain rfl : i = r := by simp only at heq hj; omega
    exact hlive (mem_lanesOf.1 hi).2

/-- A region of the own scratchpad passes the checks (11 R244). -/
theorem State.arrayRegion_of_own {s : State} {g n : Nat} {a : Word} (h : OwnRegion s g a n) : s.arrayRegion g a n 32 = .ok a.toNat := by
  obtain ⟨hlt, halign, hsize⟩ := h
  have hrank : field a 31 28 = 0 := by rw [field_eq_fld (by decide) (by decide), fld]; omega
  have hhigh : field a 27 21 = 0 := by rw [field_eq_fld (by decide) (by decide), fld]; omega
  have hoff : field a 20 0 = a.toNat := by rw [field_eq_fld (by decide) (by decide), fld]; omega
  have hplace : s.scratchPlace g a n = some (g, a.toNat) := by
    simp [State.scratchPlace, State.rankGroup, hrank, hhigh, hoff, hsize]
  simp [State.arrayRegion, hrank, hplace, halign]

section
variable {s s' : State} {w : Wave} {sp : Split} {x : XArgs}

theorem not_lt_tileHi {n : Nat} (h : x.acc12.toNat * 1024 + 256 * x.n ≤ n) : ¬ n < tileHi x := Nat.not_lt.2 h

/-- Changing the issuing wave. -/
theorem State.onIssuer_of_issuing (h : s.issuing = some (w, sp)) (f : Wave → Wave) : s.onIssuer f = s.reissued (f w) s.groups s.free := by
  rw [State.onIssuer, State.onWave, (State.issuing_split h).1]
  rfl

/-! ## A ticket (11 R241) -/

/-- A wave that has taken a ticket and whose latch is `l`. -/
def Wave.ticketed (w : Wave) (l : Latch) : Wave := { w with mticket := w.mticket + 1, latch := l }

theorem Wave.ticketed_sansRegs {a w : Wave} (h : a.sansRegs = w.sansRegs) (l : Latch) : (a.ticketed l).sansRegs = (w.ticketed l).sansRegs := by
  have hticket : a.mticket = w.mticket := (congrArg Wave.mticket h :)
  have hpush : ∀ v : Wave, (v.ticketed l).sansRegs = { v.sansRegs with mticket := v.mticket + 1, latch := l } := fun _ => rfl
  rw [hpush, hpush, h, hticket]

/-! ## The MMAs (11 R239–R246) -/

section
variable (kind : Nat) (x : XArgs) (l : Latch) (b : Nat) (w : Wave)

/-- What the latch `l` of a wave holds after an MMA that keeps it (11 R245). -/
def mmaLatch : Latch :=
  if l.held then l
  else { a := x.a, sc := x.sc, fmt := mmaAFormat kind, held := true, regs := w.rowsA x.a.toNat,
         scales := if decide (mmaScales kind ≠ 0) then w.rowScales x.sc.toNat else [] }

/-- The window of an MMA whose B stands at `b`. -/
def mmaWindow : MmaWindow :=
  { ticket := w.nextTicket, a := x.a.toNat, sc := if decide (mmaScales kind ≠ 0) then some x.sc.toNat else none, latched := l.held || x.ru,
    grp := w.group, blo := b, bhi := b + mmaBBytes kind x.n, dlo := tileLo x, dhi := tileHi x, count := w.issued }

/-- What an MMA does to its wave `y`, which was `w` when it issued. -/
def mmaTakes (y : Wave) : Wave :=
  { y.ticketed (if x.ru then mmaLatch kind x l w else {}) with windows := y.windows ++ [mmaWindow kind x l b w] }

/-- The operation that an MMA hands over in a state. -/
def mmaOp (s : State) : ArrayOp :=
  { wave := some s.cur.wave, group := w.group, kind := kind, x := x, ticket := some w.nextTicket, bAddr := b, latched := l.held || x.ru,
    aRegs := if l.held || x.ru then (mmaLatch kind x l w).regs else [], scRegs := if l.held || x.ru then (mmaLatch kind x l w).scales else [],
    ranges := mmaRanges w.group kind x b }

/-- The MMA's action once it is admitted. -/
def mmaAction (_ : Split) (s : State) : State :=
  let t := s.takeTicket.onIssuer (fun y => { y with
    latch := if x.ru then mmaLatch kind x l w else {}, windows := y.windows ++ [mmaWindow kind x l b w] })
  (t.enqueue t.cur.core (mmaOp kind x l b w t)).advance
end

/-- The registers that an MMA names. -/
def mmaUses (kind : Nat) (x : XArgs) (w : Wave) : Uses :=
  { vr := if w.latch.held = false then (List.range 8).map (x.a.toNat + ·) ++ (if kind = 0x285 ∨ kind = 0x286 then [x.sc.toNat] else []) else [],
    sr := [x.s.toNat],
    vfree := if x.la = true ∧ (w.latch.held = true ∨ x.ru = true) then (List.range 8).map (x.a.toNat + ·) else [] }

theorem exec_of_mmaRow {i : Instr} {kind : Nat} (h : mmaRow i = some (kind, x)) (s : State) : exec i s = .next (s.mma kind x) := by
  unfold mmaRow at h
  split at h
  all_goals cases h
  all_goals rfl

theorem mmaScales_ne_zero_iff (kind : Nat) : mmaScales kind ≠ 0 ↔ kind = 0x285 ∨ kind = 0x286 := by
  unfold mmaScales
  split
  · simp [*]
  · split <;> simp [*]

theorem mmaBBytes_eq_bytesOfB (kind : Nat) (x : XArgs) : mmaBBytes kind x.n = bytesOfB kind x := by
  unfold mmaBBytes bytesOfB mmaScales
  split
  · rfl
  · split <;> rfl

theorem mmaUses_eq (kind : Nat) (x : XArgs) (w : Wave) : mmaUses kind x w =
    { vr := if w.latch.held then [] else regs x.a.toNat 8 ++ (if decide (mmaScales kind ≠ 0) then [x.sc.toNat] else []), sr := [x.s.toNat],
      vfree := if x.la && (w.latch.held || x.ru) then regs x.a.toNat 8 else [] } := by
  simp only [mmaUses, decide_eq_true_eq, mmaScales_ne_zero_iff, Bool.and_eq_true, Bool.or_eq_true]
  cases w.latch.held <;> rfl

/-- An MMA that nothing holds back is admitted and acts. -/
theorem State.mma_eq {kind : Nat} (h : Whole s s' w sp) (hacc : x.acc12.toNat * 1024 + 256 * x.n ≤ s'.accSize w.group)
    (hb : OwnRegion s' w.group ((w.seen sp s'.free).s x.s.toNat) (bytesOfB kind x)) (hlatch : w.latch.differs kind x = false)
    (hfree : ArrayFree s' 2) (htickets : w.tickets < 64) (hi : Issues s' (mmaUses kind x w) w sp) :
    s.mma kind x = s'.letGo.issueWith (mmaUses kind x w) (mmaAction kind x w.latch ((w.seen sp s'.free).s x.s.toNat).toNat) := by
  rw [← mmaBBytes_eq_bytesOfB] at hb
  rw [State.mma, State.mx_of_whole h]
  simp only [← mmaUses_eq, State.whenIssuable_of_issues hi, if_neg (not_lt_tileHi hacc), State.arrayRegion_of_own hb, hlatch,
    arrayRoom_of_arrayFree hfree, Nat.not_le.2 htickets, admitted_of_arrayFree hfree]
  rfl

/-- An MMA at issue. -/
theorem exec_mma_enqueues {i : Instr} {kind : Nat} (hrow : mmaRow i = some (kind, x)) (h : Whole s s' w sp)
    (hacc : x.acc12.toNat * 1024 + 256 * x.n ≤ s'.accSize w.group)
    (hb : OwnRegion s' w.group ((w.seen sp s'.free).s x.s.toNat) (bytesOfB kind x)) (hlatch : w.latch.differs kind x = false)
    (hfree : ArrayFree s' 2) (htickets : w.tickets < 64) (hi : Issues s' (mmaUses kind x w) w sp) :
    ∃ t v, exec i s = .next t ∧
      Enqueued s' t v ((mmaOp kind x w.latch ((w.seen sp s'.free).s x.s.toNat).toNat (w.seen sp s'.free) s').issuedBy s') ∧
      RegsKept w v sp (mmaUses kind x w) ∧ v.latch = (if x.ru then mmaLatch kind x w.latch (w.seen sp s'.free) else {}) ∧
      v.sansRegs = ((w.ticketed v.latch).setSplit s'.cur.split (some (past s' sp))).sansRegs := by
  obtain ⟨t, a, y, he, hput, hregs, ha, hrest⟩ := issueWith_enqueues
    (act := mmaAction kind x w.latch ((w.seen sp s'.free).s x.s.toNat).toNat)
    (f := mmaTakes kind x w.latch ((w.seen sp s'.free).s x.s.toNat).toNat (w.seen sp s'.free))
    (o := mmaOp kind x w.latch ((w.seen sp s'.free).s x.s.toNat).toNat (w.seen sp s'.free) s')
    (w' := w.ticketed (if x.ru then mmaLatch kind x w.latch (w.seen sp s'.free) else {})) hi hfree ⟨rfl, rfl, rfl, rfl, rfl⟩
    (fun a gs m => by rw [mmaAction, State.takeTicket, State.reissued_onIssuer, State.reissued_onIssuer]; rfl)
    (fun _ => rfl) (fun _ _ _ => rfl) (fun _ _ => rfl) (fun a ha => Wave.ticketed_sansRegs ha _)
  exact ⟨t, _, by rw [exec_of_mmaRow hrow, State.mma_eq h hacc hb hlatch hfree htickets hi, he], hput, hregs, rfl, hrest⟩

/-! ## ACCLD (11 R247) -/

/-- An instruction whose action writes registers and draws. -/
theorem writes_of_writeVs {o : Out} {u : Uses} {d n : Nat} {run : Wave → Split → Dword} {res : Wave → Split → Nat → Nat → List Word}
    {act : Wave → Split → State → State} (hs : u.sfree = []) (ho : o = .next (s.issueWith u act))
    (hact : ∀ w sp, s.issuing = some (w, sp) → ∀ a gs m, act (w.seen sp s.free) sp (s.reissued a gs m) =
      (s.reissued (a.writeVs (quadsOf sp.lanes) (run (w.seen sp s.free) sp) d n (res (w.seen sp s.free) sp m)) gs (m + 512)).advance) :
    Writes o s u d n run noMask res := by
  rintro w sp ⟨hc, hi, hb, w', hp⟩ -
  obtain ⟨a, gs, m, ha, hgs, he⟩ := State.issueWith_acts act hi hb hp
  generalize hb' : a.writeVs (quadsOf sp.lanes) (run (w.seen sp s.free) sp) d n (res (w.seen sp s.free) sp m) = b at *
  have hrest : b.sansRegs = w.sansRegs := by rw [← hb', Wave.writeVs_sansRegs, ha.rest]
  obtain ⟨y, hy, hys⟩ := Wave.sansRegs_splitSome hrest (State.issuing_split hi).2
  have hend : s.issueWith u act = s.reissued (b.setSplit s.cur.split (some (past s y))) gs (m + 512) := by
    rw [he, hact w sp hi, hb', State.reissued_advance _ _ _ _ hc, Wave.onSplit, hy]
    rfl
  refine ⟨_, _, m, sp, ho.trans (congrArg _ hend), ⟨gs, m + 512, rfl, hgs⟩, rfl, Wave.setSplit_sansRegs hrest _ (Split.retire_congr hys ..),
    fun k => ?_, fun r l hl => ?_, fun r q h₁ h₂ hq => ?_⟩
  · rw [Wave.setSplit_s, ← hb', Wave.writeVs_s, ha.s, hs]
    simp
  · rw [Wave.setSplit_v, ← hb', Wave.writeVs_v _ _ _ _ _ _ hl, ha.v _ _ hl]
    rfl
  · rw [Wave.setSplit_bound, ← hb', Wave.writeVs_bound _ _ _ _ _ _ (fun _ => mem_quadsOf) (mem_quadsOf hq)]
    simp [h₁, h₂, hq]

/-- ACCLD's action: eight columns of a group's accumulator storage to registers, where no window of the wave is open. -/
theorem exec_accld_writes {g : Group} (h : Whole s s' w sp) (hacc : x.acc12.toNat * 1024 + 256 * x.n ≤ s'.accSize w.group)
    (hg : s'.group w.group = some g) (hq : ∀ o ∈ (s'.core s'.cur.core).array, o.wave ≠ some s'.cur.wave) (hpoison : g.accPoison = [])
    (hwindows : w.windows = []) :
    Writes (exec (.accld x) s) s' { vw := regs x.a.toNat 8 } x.a.toNat 8 (fun w sp => w.liveOf sp) noMask
      (fun _ _ _ l => (List.range 8).map (fun j => Table.get zeroWord g.acc (tileIndex x l (8 * x.sc.toNat + j)))) := by
  have hidle : (s'.core s'.cur.core).array.any (fun o => o.wave = some s'.cur.wave && (o.kind = 0x289 || o.kind = 0x28A)) = false := by
    simp only [List.any_eq_false, Bool.and_eq_true, decide_eq_true_eq, not_and]
    exact fun o ho hw => absurd hw (hq o ho)
  have hclean : (lanesOf w.liveLanes).findSome? (fun i => (List.range 8).findSome? (fun j =>
      let e := tileIndex x i (8 * x.sc.toNat + j)
      if Table.get falseAt ([] : Table Bool) e then some e else none)) = none := by
    simp [falseAt]
  refine writes_of_writeVs (act := fun w sp s =>
    let lost := fun (e : Nat) => w.windows.any (fun y => decide (y.grp = w.group) && y.dlo ≤ 4 * e && 4 * e < y.dhi)
    let n := s.free
    let s := s.onIssuer (fun y => y.writeVs (quadsOf sp.lanes) (w.liveOf sp) x.a.toNat 8 (fun i =>
      (List.range 8).map (fun j =>
        let e := tileIndex x i (8 * x.sc.toNat + j)
        if lost e then loWord (Config.freeDword (n + 8 * i + j)) else Table.get zeroWord g.acc e)))
    { s with free := n + 512 }.advance) rfl ?_ ?_
  · change execAccld x s = _
    rw [execAccld, State.mx_of_whole h]
    simp only [if_neg (not_lt_tileHi hacc), hidle, hg, Option.getD_some, hpoison, hclean]
    rfl
  · intro w₁ sp₁ hi a gs m
    cases h.2.1.symm.trans hi
    have hopen : (w.seen sp s'.free).windows = [] := hwindows
    simp only [hopen, List.any_nil, State.reissued_onIssuer, State.reissued_free, State.reissued_setFree]
    rfl

/-! ## ACCST, ACCZ and ACCCVT (11 R247, R248) -/

/-- The operation of an ACCST. -/
def accstOp (x : XArgs) (w : Wave) (sp : Split) (s : State) : ArrayOp :=
  { wave := some s.cur.wave, group := w.group, kind := 0x289, x := x, aRegs := w.rowsA x.a.toNat, rows := w.liveOf sp,
    ranges := [{ space := 2, grp := w.group, lo := tileLo x, hi := tileHi x, kind := 1 }] }

/-- The action of an ACCST once it is admitted. -/
def accstAction (x : XArgs) (w : Wave) (sp : Split) (s : State) : State := (s.enqueue s.cur.core (accstOp x w sp s)).advance

/-- The operation of an ACCZ. -/
def acczOp (x : XArgs) (w : Wave) (s : State) : ArrayOp :=
  { wave := some s.cur.wave, group := w.group, kind := 0x28A, x := x, ticket := some w.nextTicket,
    ranges := [{ space := 2, grp := w.group, lo := tileLo x, hi := tileHi x, kind := 1 }] }

/-- The operation of an ACCCVT that writes its results from `b` on. -/
def acccvtOp (x : XArgs) (b : Nat) (w : Wave) (s : State) : ArrayOp :=
  { wave := some s.cur.wave, group := w.group, kind := 0x28B, x := x, ticket := some w.nextTicket, bAddr := b, sScale := w.s (x.s.toNat + 1),
    ranges := [{ space := 1, grp := w.group, lo := b, hi := b + cvtBytes x, kind := 1 },
               { space := 2, grp := w.group, lo := tileLo x, hi := tileHi x, kind := 0 }] }

/-- The action of an ACCCVT once it is admitted. -/
def acccvtAction (x : XArgs) (b : Nat) (w : Wave) (_ : Split) (s : State) : State :=
  (s.takeTicket.enqueue s.cur.core (acccvtOp x b w s)).advance

theorem exec_accst (h : Whole s s' w sp) (hacc : x.acc12.toNat * 1024 + 256 * x.n ≤ s'.accSize w.group) (hfree : ArrayFree s' 1) :
    exec (.accst x) s = .next (s'.letGo.issueWith { vr := regs x.a.toNat 8, vfree := if x.la then regs x.a.toNat 8 else [] }
      (accstAction x)) := by
  change execAccst x s = _
  rw [execAccst, State.mx_of_whole h]
  simp only [if_neg (not_lt_tileHi hacc), arrayRoom_of_arrayFree hfree, admitted_of_arrayFree hfree]
  rfl

theorem exec_accz (h : Whole s s' w sp) (hacc : x.acc12.toNat * 1024 + 256 * x.n ≤ s'.accSize w.group) (hfree : ArrayFree s' 1)
    (htickets : w.tickets < 64) :
    exec (.accz x) s = .next (s'.letGo.takeTicket.enqueue s'.cur.core (acczOp x w s')).advance := by
  have hcur : s'.letGo.takeTicket.cur = s'.cur := State.onIssuer_cur ..
  change execAccz x s = _
  rw [execAccz, State.mx_of_whole h]
  simp only [if_neg (not_lt_tileHi hacc), arrayRoom_of_arrayFree hfree, Nat.not_le.2 htickets, admitted_of_arrayFree hfree]
  rfl

theorem cvtBytes_eq (x : XArgs) : cvtBytes x = 64 * x.n * (if x.tb = false ∧ x.ru = false then 2 else 1) := by
  have hdiv : ∀ k, 64 * x.n * (k * 8) / 8 = 64 * x.n * k := fun k => by rw [← mul_assoc, Nat.mul_div_cancel _ (by decide)]
  unfold cvtBytes cvtTarget
  cases x.tb <;> cases x.ru
  · exact hdiv 2
  all_goals exact hdiv 1

theorem exec_acccvt (h : Whole s s' w sp) (hacc : x.acc12.toNat * 1024 + 256 * x.n ≤ s'.accSize w.group)
    (hb : OwnRegion s' w.group ((w.seen sp s'.free).s x.s.toNat) (cvtBytes x)) (hfree : ArrayFree s' 2) (htickets : w.tickets < 64)
    (hi : Issues s' { sr := regs x.s.toNat 2 } w sp) :
    exec (.acccvt x) s = .next (s'.letGo.issueWith { sr := regs x.s.toNat 2 }
      (acccvtAction x ((w.seen sp s'.free).s x.s.toNat).toNat)) := by
  change execAcccvt x s = _
  rw [execAcccvt, State.mx_of_whole h]
  simp only [State.whenIssuable_of_issues hi, if_neg (not_lt_tileHi hacc), State.arrayRegion_of_own hb,
    arrayRoom_of_arrayFree hfree, Nat.not_le.2 htickets, admitted_of_arrayFree hfree]
  rfl

/-! ## MWAIT (11 R249) -/

theorem Wave.tickets_ne_zero_iff (w : Wave) : w.tickets ≠ 0 ↔ w.mticket ≠ w.mdone := by
  rw [Wave.tickets, ne_eq, ne_eq, ← sub_eq_zero (a := w.mticket), ← BitVec.toNat_inj]
  rfl

/-- What an MWAIT waits for: its ticket, or with bit 8 every ticket. -/
def mwaitPending (x : XArgs) (w : Wave) : Prop :=
  if x.acc12.getLsbD 8 = true then w.mticket ≠ w.mdone
  else (w.mticket - x.acc12.extractLsb' 0 8).toNat < (w.mticket - w.mdone).toNat

theorem mwaitPending_iff (x : XArgs) (w : Wave) : mwaitPending x w ↔
    if x.acc12.getLsbD 8 then w.tickets ≠ 0 else w.outstanding (x.acc12.extractLsb' 0 8) = true := by
  simp only [mwaitPending, Wave.tickets_ne_zero_iff, Wave.outstanding, decide_eq_true_eq]
  rfl

theorem exec_mwait_waits (h : Whole s s' w sp) (hp : mwaitPending x w) : exec (.mwait x) s = .next s' := by
  change execMwait x s = _
  rw [execMwait, State.mx_of_whole h]
  exact congrArg _ (if_pos ((mwaitPending_iff x w).1 hp))

theorem exec_mwait_goes (h : Whole s s' w sp) (hc : s'.cur.svc = none) (hp : ¬ mwaitPending x w) :
    ∃ ws, exec (.mwait x) s = .next (s'.setWave s'.cur.core s'.cur.wave
        (some { w.setSplit s'.cur.split (some (past s' sp)) with windows := ws })) ∧
      ∀ y ∈ ws, y ∈ w.windows ∧ x.acc12.getLsbD 8 = false ∧ y.ticket ≠ (x.acc12.extractLsb' 0 8).toNat := by
  refine ⟨w.windows.filter (fun y => !x.acc12.getLsbD 8 && y.ticket ≠ (x.acc12.extractLsb' 0 8).toNat &&
    (w.outstanding (BitVec.ofNat 8 y.ticket) || decide ((x.acc12.extractLsb' 0 8 - BitVec.ofNat 8 y.ticket).toNat ≥ 128))), ?_, ?_⟩
  · change execMwait x s = _
    rw [execMwait, State.mx_of_whole h]
    refine congrArg _ ((if_neg (fun hq => hp ((mwaitPending_iff x w).2 hq))).trans ?_)
    exact State.advance_onIssuer hc h.2.1 rfl
  · intro y hy
    obtain ⟨hy, hkeep⟩ := List.mem_filter.1 hy
    simp only [Bool.and_eq_true, Bool.not_eq_true', decide_eq_true_eq] at hkeep
    exact ⟨hy, hkeep.1.1, hkeep.1.2⟩

end

/-- Settles O24: each instruction is admitted and hands its operation over, ACCLD reads the tile, and MWAIT waits for its ticket. -/
theorem matrixInstructions : Obligations.MatrixInstructions := by
  refine ⟨fun i kind x s s' w sp hrow h hacc => ?_, fun x s s' w sp g h hacc hg hq hpoison hwindows => ?_, fun x s s' w sp h hacc hfree => ?_,
    fun x s s' w sp h hc hacc hfree htickets => ?_, fun x s s' w sp h hacc => ?_, fun x s s' w sp h hc => ?_⟩
  · intro b scaled ar hb hlatch hfree htickets u hi
    obtain ⟨t, v, he, hput, hregs, hv, hrest⟩ := exec_mma_enqueues hrow h hacc hb hlatch hfree htickets hi
    refine ⟨t, v, _, he, hput, hregs, hrest, fun hru => ?_, fun hru hheld => ?_, fun hru hheld => ?_, rfl, rfl, rfl, rfl, rfl, fun hheld => ?_,
      fun hheld hru r hr k hk => ?_⟩
    · simp [hv, hru]
    · simp [hv, hru, mmaLatch, hheld]
    · simp [hv, hru, mmaLatch, Wave.seen, hheld]
    · simp [mmaOp, ArrayOp.issuedBy, mmaLatch, Wave.seen, hheld]
    · refine Eq.trans ?_ ((w.seen sp s'.free).rowsA_get x.a.toNat hr hk)
      simp [mmaOp, ArrayOp.issuedBy, mmaLatch, Wave.seen, hheld, hru]
  · have hwrites := exec_accld_writes h hacc hg hq hpoison hwindows
    simp only [tileIndex, ← Nat.add_assoc] at hwrites
    exact hwrites
  · intro ar u hi
    obtain ⟨t, a, y, he, hput, hregs, -, hrest⟩ := issueWith_enqueues (act := accstAction x) (o := accstOp x (w.seen sp s'.free) sp s')
      (f := id) (w' := w) hi hfree ⟨rfl, rfl, rfl, rfl, rfl⟩ (fun _ _ _ => rfl) (fun _ => rfl) (fun _ _ _ => rfl) (fun _ _ => rfl) (fun _ ha => ha)
    refine ⟨t, _, _, (exec_accst h hacc hfree).trans (congrArg _ he), hput, hregs, hrest, rfl, rfl, rfl, rfl, rfl, fun r hr k hk hlive => ?_⟩
    exact ((w.seen sp s'.free).rowsA_get x.a.toNat hr hk).trans (if_pos hlive)
  · have hi : s'.letGo.issuing = some (w, sp) := h.2.1
    have hput := enqueued_enqueue_advance (b := w.ticketed w.latch) (gs := s'.groups) (m := s'.free) (o := acczOp x w s') hc hfree (fun _ => rfl)
      (State.issuing_split hi).2 ⟨rfl, rfl, rfl, rfl, rfl⟩
    refine ⟨_, _, _, ?_, hput, rfl, rfl, rfl, rfl, rfl⟩
    rw [exec_accz h hacc hfree htickets, State.takeTicket, State.onIssuer_of_issuing hi]
    rfl
  · intro b bytes hb hfree htickets hi
    have hticket : ∀ a : Wave, a.sansRegs = w.sansRegs → (a.ticketed a.latch).sansRegs = (w.ticketed w.latch).sansRegs := fun a ha => by
      rw [show a.latch = w.latch from (congrArg Wave.latch ha :), Wave.ticketed_sansRegs ha]
    obtain ⟨t, a, y, he, hput, hregs, -, hrest⟩ := issueWith_enqueues (act := acccvtAction x b.toNat)
      (o := acccvtOp x b.toNat (w.seen sp s'.free) s') (f := fun a => a.ticketed a.latch) (w' := w.ticketed w.latch) hi hfree
      ⟨rfl, rfl, rfl, rfl, rfl⟩ (fun a gs m => by rw [acccvtAction, State.takeTicket, State.reissued_onIssuer]; rfl) (fun _ => rfl)
      (fun _ _ _ => rfl) (fun _ _ => rfl) hticket
    exact ⟨t, _, _, (exec_acccvt h hacc (cvtBytes_eq x ▸ hb) hfree htickets hi).trans (congrArg _ he), hput, hregs, hrest, rfl, rfl, rfl, rfl,
      rfl, rfl⟩
  · exact ⟨exec_mwait_waits h, exec_mwait_goes h hc⟩

end Sys2Proof.Machine

/-! The elements that an MMA writes (O25; 11 R243, R244, R246; 03 R75, R76). -/

namespace Sys2Proof.Machine

open Sys2Proof.Claims

/-! ## Elements of packed operands (03 R61; 11 R243, R244) -/

/-- A field of a digit is a field of the number. -/
theorem ofDigits_field {n : Nat} (l : List Nat) (hl : ∀ d ∈ l, d < 2 ^ n) {m a b k : Nat} (hk : b + k ≤ n * m) :
    Nat.ofDigits (2 ^ n) l / 2 ^ (n * a + b) % 2 ^ k = Nat.ofDigits (2 ^ n) ((l.drop a).take m) / 2 ^ b % 2 ^ k := by
  have hdrop : Nat.ofDigits (2 ^ n) (l.drop a) = Nat.ofDigits (2 ^ n) l / 2 ^ (n * a) := by
    rw [Nat.pow_mul, Nat.ofDigits_div_pow_eq_ofDigits_drop a (Nat.two_pow_pos n) l hl]
  have htake : Nat.ofDigits (2 ^ n) ((l.drop a).take m) = Nat.ofDigits (2 ^ n) (l.drop a) % 2 ^ (n * m) := by
    rw [Nat.pow_mul, Nat.ofDigits_mod_pow_eq_ofDigits_take m (Nat.two_pow_pos n) _ fun d hd => hl d (List.mem_of_mem_drop hd)]
  rw [htake, hdrop, Nat.pow_add, ← Nat.div_div_eq_div_mul]
  generalize Nat.ofDigits (2 ^ n) l / 2 ^ (n * a) = y
  obtain ⟨r, hr⟩ := Nat.exists_eq_add_of_le hk
  rw [hr, Nat.pow_add, Nat.pow_add, Nat.mul_assoc, Nat.mod_mul_right_div_self, Nat.mod_mod_of_dvd _ (Nat.dvd_mul_right ..)]

theorem leNat_eq_ofDigits (bs : List Byte) : leNat bs = Nat.ofDigits (2 ^ 8) (bs.map BitVec.toNat) := by
  induction bs with
  | nil => rfl
  | cons b bs ih => rw [leNat, ih, List.map_cons, Nat.ofDigits_cons, show (2 : Nat) ^ 8 = 256 from rfl]

/-- An element of whole bytes, of a number of bytes. -/
theorem packedElement_eq (m : Nat) (bs : List Byte) (j : Nat) : packedElement (8 * m) bs j = number bs / 2 ^ (8 * m * j) % 2 ^ (8 * m) := by
  have hplace : j * (8 * m) / 8 = m * j := by rw [Nat.mul_left_comm, Nat.mul_div_cancel_left _ (by decide), Nat.mul_comm]
  have hlen : (8 * m + 7) / 8 = m := by omega
  have hrest : j * (8 * m) % 8 = 0 := by rw [Nat.mul_left_comm, Nat.mul_mod_right]
  have hfield := ofDigits_field (n := 8) (bs.map BitVec.toNat) (fun d hd => by obtain ⟨b, -, rfl⟩ := List.mem_map.1 hd; exact b.isLt)
    (m := m) (a := m * j) (b := 0) (k := 8 * m) (by omega)
  rw [packedElement, hplace, hlen, hrest, number_eq_leNat, leNat_eq_ofDigits, leNat_eq_ofDigits, List.map_take, List.map_drop, ← hfield,
    Nat.add_zero, Nat.mul_assoc]

/-- The words of row i of A. -/
def wordsOfA (o : ArrayOp) (i : Nat) : List Word := (List.range 8).map (fun k => Table.get zeroWord o.aRegs (8 * i + k))

theorem rowOfA_eq_ofDigits (o : ArrayOp) (i : Nat) : rowOfA o i = Nat.ofDigits (2 ^ 32) ((wordsOfA o i).map BitVec.toNat) := by
  rw [Nat.ofDigits_eq_sum_mapIdx, rowOfA]
  refine congrArg List.sum (List.ext_getElem (by simp [wordsOfA]) fun k _ _ => ?_)
  simp only [wordsOfA, List.getElem_map, List.getElem_mapIdx, List.getElem_range, Nat.pow_mul]

/-- An element of a row, `p` of which make a word. -/
theorem rowElement_eq {width p : Nat} (hw : 32 = width * p) (o : ArrayOp) {i k : Nat} (hk : k < 8 * p) :
    rowElement width (wordsOfA o i) k = elementOfA o width i k := by
  have hp : 0 < p := by omega
  have hwidth : 0 < width := Nat.pos_of_ne_zero fun h => by simp [h] at hw
  have hword : k * width / 32 = k / p := by rw [hw, Nat.mul_comm width, Nat.mul_div_mul_right _ _ hwidth]
  have hper : 32 / width = p := by rw [hw, Nat.mul_div_cancel_left _ hwidth]
  have hlt : k / p < 8 := Nat.div_lt_of_lt_mul (by rwa [Nat.mul_comm] at hk)
  have hplace : width * k = 32 * (k / p) + k % p * width := by
    rw [hw, Nat.mul_assoc, Nat.mul_comm _ width, ← Nat.mul_add, Nat.div_add_mod]
  have hfits : k % p * width + width ≤ 32 * 1 := by
    have hmod := Nat.mod_lt k hp
    calc k % p * width + width = (k % p + 1) * width := by ring
      _ ≤ p * width := Nat.mul_le_mul_right _ hmod
      _ = 32 * 1 := by rw [hw]; ring
  have hget : (((wordsOfA o i).map BitVec.toNat).drop (k / p)).take 1 = [((wordsOfA o i).getD (k / p) 0).toNat] := by
    have hlen : k / p < (wordsOfA o i).length := by simpa [wordsOfA] using hlt
    rw [← List.map_drop, ← List.map_take, List.drop_eq_getElem_cons hlen, List.getD_eq_getElem _ _ hlen]
    rfl
  rw [elementOfA, rowOfA_eq_ofDigits, hplace, ofDigits_field _ (fun d hd => by obtain ⟨b, -, rfl⟩ := List.mem_map.1 hd; exact b.isLt) hfits, hget,
    Nat.ofDigits_singleton, rowElement, hword, hper, element]

theorem elementOfB_eq (o : ArrayOp) (m k n : Nat) : elementOfB o (8 * m) k n =
    packedElement (8 * m) o.bBytes (if o.x.tb then k * o.x.n + n else n * (256 / (8 * m)) + k) := by
  rw [packedElement_eq, elementOfB]

/-! ## The element that an MMA writes -/

theorem byteInt_eq_byteValue (unsigned : Bool) (x : Nat) : byteInt unsigned x = byteValue unsigned x := by
  simp only [byteInt, byteValue, Bool.or_eq_true, decide_eq_true_eq]

/-- The element of an MMA of bytes: the exact sum of products, modulo 2³². -/
theorem ArrayOp.element_bytes {o : ArrayOp} (h : o.kind = 0x287) (c : Word) (i n : Nat) : o.element c i n =
    BitVec.ofInt 32 ((if o.x.acc = true then c.toInt else 0) + ((List.range 32).map (fun k =>
      byteValue (o.x.sc.getLsbD 0) (elementOfA o 8 i k) * byteValue (o.x.sc.getLsbD 1) (elementOfB o 8 k n))).sum) := by
  have hterms : ∀ k ∈ List.range 32, byteInt (o.x.sc.getLsbD 0) (rowElement 8 (wordsOfA o i) k) *
      byteInt (o.x.sc.getLsbD 1) (packedElement 8 o.bBytes (if o.x.tb then k * o.x.n + n else n * 32 + k)) =
      byteValue (o.x.sc.getLsbD 0) (elementOfA o 8 i k) * byteValue (o.x.sc.getLsbD 1) (elementOfB o 8 k n) := fun k hk => by
    rw [byteInt_eq_byteValue, byteInt_eq_byteValue, rowElement_eq (p := 4) rfl o (List.mem_range.1 hk), elementOfB_eq o 1]
  rw [← List.map_congr_left hterms]
  unfold ArrayOp.element
  rw [h]
  rfl

/-- The formats of a form without scales, and its width of one or two bytes. -/
theorem plainForm_cases {kind width : Nat} {fa fb : Fmt} (h : plainForm kind = some (fa, fb, width)) :
    mmaFormats kind = some (fa, fb) ∧ mmaWidth kind = width ∧ mmaScales kind = 0 ∧
      ∃ m p, width = 8 * m ∧ 32 = width * p ∧ 256 / width = 8 * p := by
  unfold plainForm at h
  split at h
  case h_6 => cases h
  case h_4 | h_5 => cases h; exact ⟨rfl, rfl, rfl, 2, 2, rfl, rfl, rfl⟩
  all_goals cases h; exact ⟨rfl, rfl, rfl, 1, 4, rfl, rfl, rfl⟩

/-- The element of a floating-point MMA without scales: one rounding of the exact sum. -/
theorem ArrayOp.element_plain {o : ArrayOp} {fa fb : Fmt} {width : Nat} (h : plainForm o.kind = some (fa, fb, width)) (c : Word) (i n : Nat) :
    o.element c i n = exactSum (if o.x.acc = true then c else 0x80000000) ((List.range (256 / width)).map (fun k =>
      { a := fa.decode (elementOfA o width i k), b := fb.decode (elementOfB o width k n), e := 0 })) false := by
  obtain ⟨hformats, hwidth, hscales, m, p, rfl, hp, hcount⟩ := plainForm_cases h
  have hterms : ∀ k ∈ List.range (256 / (8 * m)), (⟨fa.decode (rowElement (8 * m) (wordsOfA o i) k),
      fb.decode (packedElement (8 * m) o.bBytes (if o.x.tb then k * o.x.n + n else n * (256 / (8 * m)) + k)), 0⟩ : Term) =
      { a := fa.decode (elementOfA o (8 * m) i k), b := fb.decode (elementOfB o (8 * m) k n), e := 0 } := fun k hk => by
    rw [rowElement_eq hp o (hcount ▸ List.mem_range.1 hk), elementOfB_eq]
  rw [← List.map_congr_left hterms]
  have hscale : ∀ l : List Nat, l.any (fun _ => false) = false := fun l => List.any_eq_false.2 fun _ _ => Bool.false_ne_true
  unfold ArrayOp.element
  simp [hformats, hwidth, hscales, scaleExp, wordsOfA, hscale]

end Sys2Proof.Machine

/-! The events of the matrix array (O25; 11 R239–R248). -/

namespace Sys2Proof.Machine

open Sys2Proof.Claims

/-! ## ARRAY_OP_BEGIN (11 R239) -/

section
variable {s : State} {core : Nat} {o : ArrayOp} {rest : List ArrayOp}

/-- Where A stands makes no difference to the bytes of B. -/
theorem State.arrayBytes_operands (ra rs : Table Word) (off n : Nat) :
    s.arrayBytes core { o with aRegs := ra, scRegs := rs } off n = s.arrayBytes core o off n := rfl

/-- The operands that an MMA reads: B and, where A is latched, nothing for A. -/
theorem State.fetchOperands_of_mma (h : o.kind < 0x288) : ∃ ra rs bp, (o.latched = true → ra = o.aRegs) ∧ s.fetchOperands core o =
    { o with aRegs := ra, scRegs := rs, bBytes := s.arrayBytes core o o.bAddr (mmaBBytes o.kind o.x.n), bPoison := bp } := by
  unfold State.fetchOperands
  rw [if_neg (Nat.not_le.2 h)]
  by_cases hl : o.latched = true
  · simp only [if_pos hl]
    exact ⟨_, _, _, fun _ => rfl, rfl⟩
  by_cases hsa : o.x.sa = true
  · simp only [if_neg hl, if_pos hsa, State.arrayBytes_operands]
    exact ⟨_, _, _, fun h => absurd h hl, rfl⟩
  simp only [if_neg hl, if_neg hsa]
  split
  · split <;> exact ⟨_, _, _, fun h => absurd h hl, rfl⟩
  · exact ⟨_, _, _, fun h => absurd h hl, rfl⟩

theorem State.fetchOperands_of_accumulator (h : 0x288 ≤ o.kind) : s.fetchOperands core o = o := if_pos h

theorem State.fetchOperands_kind : (s.fetchOperands core o).kind = o.kind ∧ (s.fetchOperands core o).x = o.x := by
  obtain h | h := Nat.lt_or_ge o.kind 0x288
  · obtain ⟨ra, rs, bp, -, he⟩ := State.fetchOperands_of_mma (s := s) (core := core) h
    rw [he]
    exact ⟨rfl, rfl⟩
  · rw [State.fetchOperands_of_accumulator h]
    exact ⟨rfl, rfl⟩

theorem State.fetchOperands_aRegs (h : o.latched = true ∨ 0x288 ≤ o.kind) : (s.fetchOperands core o).aRegs = o.aRegs := by
  obtain hk | hk := Nat.lt_or_ge o.kind 0x288
  · obtain ⟨ra, rs, bp, hra, he⟩ := State.fetchOperands_of_mma (s := s) (core := core) hk
    rw [he]
    exact hra (h.resolve_right (Nat.not_le.2 hk))
  · rw [State.fetchOperands_of_accumulator hk]

/-- B as its scratchpad holds it, for a wave that has written none of it since its last FENCE.OR. -/
theorem State.arrayBytes_of_fenced {off n : Nat} (h : ∀ k w, o.wave = some k → s.wave core k = some w → w.bhist = []) :
    s.arrayBytes core o off n = s.scratchBytes o.group off n := by
  unfold State.arrayBytes
  cases hk : o.wave with
  | none => rfl
  | some k =>
    cases ht : o.ticket with
    | none => rfl
    | some tk =>
      refine if_pos ?_
      change ((s.wave core k).map (fun w => w.bhist)).getD [] = []
      cases hw : s.wave core k with
      | none => rfl
      | some w => exact h k w hk hw

theorem State.fetchOperands_bBytes {g : Group} (h : o.kind < 0x288) (hg : s.group o.group = some g)
    (hb : ∀ k w, o.wave = some k → s.wave core k = some w → w.bhist = []) : (s.fetchOperands core o).bBytes =
      (List.range (bytesOfB o.kind o.x)).map (fun k => Table.get memDefault g.scratch (o.bAddr + k)) := by
  obtain ⟨ra, rs, bp, -, he⟩ := State.fetchOperands_of_mma (s := s) (core := core) h
  rw [he, ← mmaBBytes_eq_bytesOfB]
  change s.arrayBytes core o o.bAddr (mmaBBytes o.kind o.x.n) = _
  rw [State.arrayBytes_of_fenced hb, State.scratchBytes, hg]

/-- The array, idle, takes an operation whose A is at hand. -/
theorem exec_arrayOpBegin_takes (harg : s.arg = .at1 core) (harray : (s.core core).array = o :: rest) (hbegun : o.begun = false)
    (hclear : (s.core core).clear o.seq o.ranges = true) (ha : o.latched = true ∨ o.x.sa = true ∨ 0x288 ≤ o.kind) :
    exec .arrayOpBegin s = .next (({ s.onArray core o.id (fun _ => { s.fetchOperands core o with begun := true }) with
      free := s.free + 4096 + 8192 } : State).onCsr (dieOf core)
        (0xC000 + 0x100 * (core % 16) + 4 * ((s.group o.group).map (fun g => g.ctx)).getD 0)
        (· + BitVec.ofNat 32 (o.cycles (s.core core).flow.capNow))) := by
  have hlate : (decide (o.kind < 0x288) && !o.latched && !o.x.sa) = false := by
    rcases ha with h | h | h
    · simp [h]
    · simp [h]
    · simp [Nat.not_lt.2 h]
  change execArrayOpBegin s = _
  simp only [execArrayOpBegin, harg, harray, hbegun, hclear, hlate, Bool.false_and, Bool.not_true, Bool.or_false, Bool.false_eq_true, if_false]
  cases o.wave with
  | none => rfl
  | some k =>
    dsimp only
    cases s.wave core k <;> rfl

theorem State.onArray_array {f : ArrayOp → ArrayOp} (harray : (s.core core).array = o :: rest) (hids : ∀ y ∈ rest, y.id ≠ o.id) :
    ((s.onArray core o.id f).core core).array = f o :: rest := by
  rw [State.onArray, State.core_onCore_self]
  simp only [harray, List.map_cons, if_true, List.cons.injEq, true_and]
  exact (List.map_congr_left fun y hy => if_neg (hids y hy)).trans (List.map_id _)

/-! ## What an operation leaves in accumulator storage (11 R246–R248) -/

/-- The elements of accumulator storage once cells of a tile are written: cell (i, k) lies in row i and column `c + k`. -/
def tilePut (x : XArgs) (c : Nat) (val : Nat × Nat → Word) (cells : List (Nat × Nat)) (t : Table Word) : Table Word :=
  cells.foldl (fun t p => Table.set zeroWord t (tileIndex x p.1 (c + p.2)) (val p)) t

theorem tileIndex_inj {x : XArgs} {i j k l : Nat} (hk : k < x.n) (hl : l < x.n) (h : tileIndex x i k = tileIndex x j l) : i = j ∧ k = l := by
  have h : i * x.n + k = j * x.n + l := by unfold tileIndex at h; omega
  have hn : 0 < x.n := Nat.zero_lt_of_lt hk
  have hrow : i = j := by
    have hdiv := congrArg (· / x.n) h
    simpa only [Nat.mul_comm _ x.n, Nat.mul_add_div hn, Nat.div_eq_of_lt hk, Nat.div_eq_of_lt hl, Nat.add_zero] using hdiv
  exact ⟨hrow, Nat.add_left_cancel (hrow ▸ h)⟩

theorem tileIndex_bounds {x : XArgs} {i k : Nat} (hi : i < 64) (hk : k < x.n) :
    x.acc12.toNat * 256 ≤ tileIndex x i k ∧ tileIndex x i k < x.acc12.toNat * 256 + 64 * x.n := by
  have hrow : (i + 1) * x.n ≤ 64 * x.n := Nat.mul_le_mul_right _ hi
  rw [Nat.succ_mul] at hrow
  unfold tileIndex
  omega

theorem tilePut_get {x : XArgs} {c : Nat} {val : Nat × Nat → Word} {cells : List (Nat × Nat)} (hcells : ∀ p ∈ cells, c + p.2 < x.n)
    {t : Table Word} {i k : Nat} (h : (i, k) ∈ cells) : Table.get zeroWord (tilePut x c val cells t) (tileIndex x i (c + k)) = val (i, k) := by
  refine Table.get_foldl_set_of_mem (idx := fun p : Nat × Nat => tileIndex x p.1 (c + p.2)) h fun p hp heq => ?_
  obtain ⟨hrow, hcol⟩ := tileIndex_inj (hcells p hp) (hcells _ h) heq
  exact Prod.ext hrow (Nat.add_left_cancel hcol)

theorem tilePut_get_of_outside {x : XArgs} {c : Nat} {val : Nat × Nat → Word} {cells : List (Nat × Nat)}
    (hcells : ∀ p ∈ cells, p.1 < 64 ∧ c + p.2 < x.n) {t : Table Word} {e : Nat}
    (he : e < x.acc12.toNat * 256 ∨ x.acc12.toNat * 256 + 64 * x.n ≤ e) : Table.get zeroWord (tilePut x c val cells t) e = Table.get zeroWord t e := by
  refine Table.get_foldl_set_of_ne (idx := fun p : Nat × Nat => tileIndex x p.1 (c + p.2)) fun p hp heq => ?_
  obtain ⟨hi, hk⟩ := hcells p hp
  have hbounds := tileIndex_bounds hi hk
  omega

/-- What an ACCST leaves: eight words in each row of its rows. -/
theorem acc_afterArray_accst (h : o.kind = 0x289) (g : Group) : (g.afterArray o).acc =
    tilePut o.x (8 * o.x.sc.toNat) (fun p => Table.get zeroWord o.aRegs (8 * p.1 + p.2)) (lanesOf o.rows ×ˢ List.range 8) g.acc := by
  unfold Group.afterArray
  simp only [h]
  rw [foldl_foldl_eq_product]
  exact (List.foldl_hom Group.acc fun _ _ => rfl).symm

/-- The cells of a whole tile. -/
def tileCells (x : XArgs) : List (Nat × Nat) := List.range 64 ×ˢ List.range x.n

theorem acc_afterArray_accz (h : o.kind = 0x28A) (g : Group) : (g.afterArray o).acc = tilePut o.x 0 (fun _ => 0) (tileCells o.x) g.acc := by
  unfold Group.afterArray
  simp only [h, tilePut, Nat.zero_add]
  rw [foldl_foldl_eq_product]
  exact (List.foldl_hom Group.acc fun _ _ => rfl).symm

/-- What any other operation but an ACCCVT leaves: an MMA's elements, on those that it finds. -/
theorem acc_afterArray_mma (h₁ : o.kind ≠ 0x289) (h₂ : o.kind ≠ 0x28A) (h₃ : o.kind ≠ 0x28B) (g : Group) : (g.afterArray o).acc =
    tilePut o.x 0 (fun p => o.element (Table.get zeroWord g.acc (tileIndex o.x p.1 p.2)) p.1 p.2) (tileCells o.x) g.acc := by
  unfold Group.afterArray
  simp only [tilePut, Nat.zero_add]
  rw [foldl_foldl_eq_product]
  exact (List.foldl_hom Group.acc fun _ _ => rfl).symm

/-- An ACCCVT reads accumulator storage alone. -/
theorem acc_afterArray_acccvt (h : o.kind = 0x28B) (g : Group) : (g.afterArray o).acc = g.acc := by
  unfold Group.afterArray
  rw [h]
  refine foldl_keeps Group.acc _ (fun g' i => foldl_keeps Group.acc _ (fun g' k => ?_) _ _) _ _
  dsimp only
  split <;> rfl

theorem mem_tileCells {x : XArgs} {i k : Nat} (hi : i < 64) (hk : k < x.n) : (i, k) ∈ tileCells x :=
  List.mem_product.2 ⟨List.mem_range.2 hi, List.mem_range.2 hk⟩

theorem lt_of_mem_tileCells {x : XArgs} {p : Nat × Nat} (h : p ∈ tileCells x) : p.1 < 64 ∧ 0 + p.2 < x.n := by
  obtain ⟨hi, hk⟩ := List.mem_product.1 h
  exact ⟨List.mem_range.1 hi, (Nat.zero_add _).trans_lt (List.mem_range.1 hk)⟩

theorem tileCells_get {x : XArgs} {val : Nat × Nat → Word} {t : Table Word} {i k : Nat} (hi : i < 64) (hk : k < x.n) :
    Table.get zeroWord (tilePut x 0 val (tileCells x) t) (tileIndex x i k) = val (i, k) := by
  have hget := tilePut_get (val := val) (t := t) (fun p hp => (lt_of_mem_tileCells hp).2) (mem_tileCells hi hk)
  rwa [Nat.zero_add] at hget

theorem lt_of_mem_accstCells {x : XArgs} {rows : Dword} (hn : 8 * x.sc.toNat + 8 ≤ x.n) {p : Nat × Nat} (h : p ∈ lanesOf rows ×ˢ List.range 8) :
    p.1 < 64 ∧ 8 * x.sc.toNat + p.2 < x.n := by
  obtain ⟨hi, hj⟩ := List.mem_product.1 h
  have hj := List.mem_range.1 hj
  exact ⟨(mem_lanesOf.1 hi).1, by omega⟩

theorem accst_get (h : o.kind = 0x289) (g : Group) (hn : 8 * o.x.sc.toNat + 8 ≤ o.x.n) {i j : Nat} (hi : i < 64) (hrow : o.rows.getLsbD i = true)
    (hj : j < 8) : Table.get zeroWord (g.afterArray o).acc (tileIndex o.x i (8 * o.x.sc.toNat + j)) = Table.get zeroWord o.aRegs (8 * i + j) := by
  rw [acc_afterArray_accst h, tilePut_get (fun p hp => (lt_of_mem_accstCells hn hp).2)
    (List.mem_product.2 ⟨mem_lanesOf.2 ⟨hi, hrow⟩, List.mem_range.2 hj⟩)]

/-- No operation changes an element outside its tile. -/
theorem afterArray_get_of_outside (g : Group) (hn : o.kind = 0x289 → 8 * o.x.sc.toNat + 8 ≤ o.x.n) {e : Nat}
    (he : e < o.x.acc12.toNat * 256 ∨ o.x.acc12.toNat * 256 + 64 * o.x.n ≤ e) :
    Table.get zeroWord (g.afterArray o).acc e = Table.get zeroWord g.acc e := by
  by_cases h₁ : o.kind = 0x289
  · rw [acc_afterArray_accst h₁]
    exact tilePut_get_of_outside (fun p hp => lt_of_mem_accstCells (hn h₁) hp) he
  by_cases h₂ : o.kind = 0x28A
  · rw [acc_afterArray_accz h₂]
    exact tilePut_get_of_outside (fun p hp => lt_of_mem_tileCells hp) he
  by_cases h₃ : o.kind = 0x28B
  · rw [acc_afterArray_acccvt h₃]
  · rw [acc_afterArray_mma h₁ h₂ h₃]
    exact tilePut_get_of_outside (fun p hp => lt_of_mem_tileCells hp) he

/-! ## The completion of a ticket (11 R241) -/

/-- A wave whose ticket `t` is done, before %mdone moves. -/
def Wave.completed (w : Wave) (t : Nat) : Wave :=
  { w with mdoneSet := t :: w.mdoneSet, windows := w.windows.map (fun x => if x.ticket = t then { x with done := true } else x) }

/-- %mdone moves by no more than the fuel, and nothing else but the tickets done changes. -/
theorem Wave.finishTicket_eq (n : Nat) (w : Wave) :
    ∃ j ds, j ≤ n ∧ Wave.finishTicket n w = { w with mdone := w.mdone + BitVec.ofNat 8 j, mdoneSet := ds } := by
  induction n generalizing w with
  | zero => exact ⟨0, w.mdoneSet, le_rfl, by simp [Wave.finishTicket]⟩
  | succ n ih =>
    rw [Wave.finishTicket]
    split
    · obtain ⟨j, ds, hj, he⟩ := ih { w with mdone := w.mdone + 1, mdoneSet := w.mdoneSet.filter (fun t => decide (t ≠ (w.mdone + 1).toNat)) }
      refine ⟨j + 1, ds, Nat.succ_le_succ hj, he.trans ?_⟩
      have hsum : w.mdone + 1 + BitVec.ofNat 8 j = w.mdone + BitVec.ofNat 8 (j + 1) := by
        rw [BitVec.add_assoc, Nat.add_comm j, BitVec.ofNat_add]
        rfl
      simp only [hsum]
    · exact ⟨0, w.mdoneSet, Nat.zero_le _, by simp⟩

/-- %mdone moves over the next ticket once it is done. -/
theorem Wave.finishTicket_moves {w : Wave} (hopen : w.mdone ≠ w.mticket) (hnext : (w.mdone + 1).toNat ∈ w.mdoneSet) :
    (Wave.finishTicket 64 w).mdone ≠ w.mdone := by
  rw [Wave.finishTicket, if_pos ⟨w.tickets_ne_zero_iff.2 hopen.symm, List.contains_iff_mem.2 hnext⟩]
  obtain ⟨j, ds, hj, he⟩ := Wave.finishTicket_eq 63
    { w with mdone := w.mdone + 1, mdoneSet := w.mdoneSet.filter (fun t => decide (t ≠ (w.mdone + 1).toNat)) }
  rw [he]
  change w.mdone + 1 + BitVec.ofNat 8 j ≠ w.mdone
  bv_omega

/-! ## ARRAY_OP_COMPLETE (11 R241, R246–R248) -/

theorem State.group_onGroup_ne (s : State) {g k : Nat} (f : Group → Group) (h : k ≠ g) : (s.onGroup g f).group k = s.group k := by
  unfold State.onGroup
  split
  · simp only [State.group, Table.get_set_ne h]
  · rfl

/-- The state in which an operation that heads its core's array has left it and its results stand. -/
def State.arrayLeft (s : State) (core : Nat) (o : ArrayOp) (rest : List ArrayOp) : State :=
  (s.onCore core (fun c => { c with array := rest })).onGroup o.group (fun g => g.afterArray o)

/-- The ticket of an operation whose results stand is done; a broken window loses the results. -/
def State.ticketDone (s : State) (core : Nat) (o : ArrayOp) : State :=
  match o.wave, o.ticket with
  | some k, some t =>
    match s.wave core k with
    | none => s
    | some w =>
      if w.group ≠ o.group then s
      else
        let t' := s.setWave core k (some (Wave.finishTicket 64 (w.completed t)))
        if w.windows.any (fun x => decide (x.ticket = t) && !x.done && x.undef) then t'.loseAcc o.group (tileLo o.x) (tileHi o.x) else t'
  | _, _ => s

/-- An operation that has begun leaves the array, and its ticket is done. -/
theorem exec_arrayOpComplete_leaves (harg : s.arg = .at1 core) (harray : (s.core core).array = o :: rest) (hbegun : o.begun = true)
    (harrive : o.arrive = []) (hlost : o.lost = false) :
    exec .arrayOpComplete s = .next ((s.arrayLeft core o rest).ticketDone core o) := by
  change execArrayOpComplete s = _
  simp only [execArrayOpComplete, harg, harray, hbegun, hlost, harrive, Bool.not_true, Bool.false_eq_true, if_false, List.foldl_nil]
  rfl

/-- Where no window of the wave is broken, a ticket's completion changes the wave alone. -/
theorem State.ticketDone_eq (hwindows : ∀ k w, o.wave = some k → s.wave core k = some w → ∀ y ∈ w.windows, y.undef = false) :
    ∃ ws, s.ticketDone core o = { s with waves := ws } ∧
      ∀ k w t, o.wave = some k → s.wave core k = some w → w.group = o.group → o.ticket = some t →
        Table.get noneAt ws (waveKey core k) = some (Wave.finishTicket 64 (w.completed t)) := by
  unfold State.ticketDone
  split
  case h_2 _ _ hnone => exact ⟨_, rfl, fun k _ t hk _ _ ht => absurd ht (hnone k t hk)⟩
  case h_1 k t hk ht =>
    split
    case h_1 hw =>
      refine ⟨_, rfl, fun k' w _ hk' hw' => ?_⟩
      cases hk.symm.trans hk'
      cases hw.symm.trans hw'
    case h_2 w hw =>
      have hwhole : w.windows.any (fun x => decide (x.ticket = t) && !x.done && x.undef) = false :=
        List.any_eq_false.2 fun y hy => by simp [hwindows k w hk hw y hy]
      rw [hwhole]
      split
      · next hne =>
        refine ⟨_, rfl, fun k' w' _ hk' hw' hg => ?_⟩
        cases hk.symm.trans hk'
        cases hw.symm.trans hw'
        exact absurd hg hne
      · refine ⟨_, rfl, fun k' w' t' hk' hw' _ ht' => ?_⟩
        cases hk.symm.trans hk'
        cases hw.symm.trans hw'
        cases ht.symm.trans ht'
        exact Table.get_set_self ..

theorem State.arrayLeft_wave (k : Nat) : (s.arrayLeft core o rest).wave core k = s.wave core k := by
  rw [State.arrayLeft, State.onGroup_wave_same, State.onCore_wave_same]

end

/-- Settles O25: the array takes the operation at the head of its queue and, when it completes, writes its tile; the elements are sums of
products of the elements of A and B. -/
theorem matrixArray : Obligations.MatrixArray := by
  refine ⟨⟨fun s core o rest harg harray hbegun hclear ha hids hb => ?_, fun s core o rest g harg harray hbegun hg harrive hlost hwindows _ => ?_⟩,
    fun o c i n h _ _ => ArrayOp.element_bytes h c i n, fun o c i n fa fb width h _ _ => ArrayOp.element_plain h c i n⟩
  · refine ⟨_, _, exec_arrayOpBegin_takes harg harray hbegun hclear ha, State.onArray_array harray hids, rfl, State.fetchOperands_kind.1,
      State.fetchOperands_kind.2, fun hk g hg => State.fetchOperands_bBytes hk hg hb, State.fetchOperands_aRegs, rfl⟩
  · obtain ⟨ws, he, hws⟩ := State.ticketDone_eq (s := s.arrayLeft core o rest) (core := core) (o := o) fun k w hk hw =>
      hwindows k w hk ((State.arrayLeft_wave k).symm.trans hw)
    refine ⟨_, g.afterArray o, (exec_arrayOpComplete_leaves harg harray hbegun harrive hlost).trans (congrArg _ he), ?_, ?_, ?_, ?_, fun k
      hk => ?_, fun hlo hhi i hi n hn => ?_, fun hk i hi n hn => ?_, fun hk hn i hi hrow j hj => ?_, fun hk => acc_afterArray_acccvt hk g,
      fun e he hn => afterArray_get_of_outside g hn he, fun k w tk hk hw hgroup ht => ?_⟩
    · exact (State.onGroup_mem ..).trans (State.onCore_mem ..)
    · exact (State.onGroup_csr ..).trans (State.onCore_csr ..)
    · exact (congrArg Core.array ((State.onGroup_core_same ..).trans (State.core_onCore_self ..)) :)
    · refine (State.group_onGroup_self ..).trans ?_
      rw [State.onCore_group_same, hg, Option.map_some]
    · exact (State.group_onGroup_ne _ _ hk).trans (State.onCore_group_same ..)
    · rw [acc_afterArray_mma (by omega) (by omega) (by omega)]
      exact tileCells_get hi hn
    · rw [acc_afterArray_accz hk]
      exact tileCells_get hi hn
    · have hget := accst_get hk g hn hi hrow hj
      rwa [tileIndex, ← Nat.add_assoc] at hget
    · refine ⟨_, hws k w tk hk ((State.arrayLeft_wave k).trans hw) hgroup ht, ?_, fun htk hopen => ?_⟩
      · obtain ⟨j, ds, -, hfin⟩ := Wave.finishTicket_eq 64 (w.completed tk)
        rw [hfin]
        rfl
      · exact Wave.finishTicket_moves (w := w.completed tk) hopen (List.mem_cons.2 (.inl htk.symm))

end Sys2Proof.Machine

/-! The commands of a copy engine (O27, O28; 12 R250, R251, R267): one command of a core changed, and a command that leaves the queue. -/

namespace Sys2Proof.Machine

open Sys2Proof.Claims

section
variable {s : State} {core id : Nat} {c : Cmd}

/-! ## One command of a core -/

theorem State.cmd_id (h : s.cmd core id = some c) : c.id = id := by
  simpa using List.find?_some h

theorem State.cmd_congr {t : State} (h : (t.core core).cmds = (s.core core).cmds) (id : Nat) : t.cmd core id = s.cmd core id := by
  rw [State.cmd, h, State.cmd]

theorem State.onCmd_cmds (s : State) (core id : Nat) (f : Cmd → Cmd) :
    ((s.onCmd core id f).core core).cmds = (s.core core).cmds.map (fun x => if x.id = id then f x else x) := by
  rw [State.onCmd, State.core_onCore_self]

/-- A command reads as it was changed. -/
theorem State.cmd_onCmd (h : s.cmd core id = some c) {f : Cmd → Cmd} (hf : ∀ x, x.id = id → (f x).id = id) :
    (s.onCmd core id f).cmd core id = some (f c) := by
  have hid : ∀ x, (if x.id = id then f x else x).id = x.id := fun x => by
    split
    · next hx => rw [hf x hx, hx]
    · rfl
  rw [State.cmd, State.onCmd_cmds, List.find?_map]
  simp only [Function.comp_def, hid]
  change ((s.cmd core id).map _) = _
  rw [h, Option.map_some, if_pos (State.cmd_id h)]

/-- A command that is the only one of its number, changed. -/
theorem State.onCmd_cmds_of_unique (hone : ∀ x ∈ (s.core core).cmds, x.id = c.id → x = c) (f : Cmd → Cmd) :
    (s.core core).cmds.map (fun x => if x.id = c.id then f x else x) = (s.core core).cmds.map (fun x => if x.id = c.id then f c else x) :=
  List.map_congr_left fun x hx => by
    split
    · next h => rw [hone x hx h]
    · rfl

theorem onlyCmd_onCmd (hone : ∀ x ∈ (s.core core).cmds, x.id = c.id → x = c) (f : Cmd → Cmd) :
    OnlyCmd s (s.onCmd core c.id f) core c.id (f c) := by
  refine ⟨rfl, fun k hk => State.core_onCore_ne _ _ hk, ?_⟩
  rw [State.onCmd, State.core_onCore_self, State.onCmd_cmds_of_unique hone]

/-! ## A command that leaves (12 R250, R262, R267) -/

theorem State.batchDone_frame (core wave n : Nat) (s : State) : ∃ ws, s.batchDone core wave n = { s with waves := ws } := by
  induction n generalizing s with
  | zero => exact ⟨s.waves, rfl⟩
  | succ n ih =>
    unfold State.batchDone
    split
    · exact ⟨s.waves, rfl⟩
    · next w hw =>
      dsimp only
      split
      · exact ⟨s.waves, rfl⟩
      · obtain ⟨ws, he⟩ := ih (s.onWave core wave (fun w => { w with cbdone := w.cbdone + 1 }))
        refine ⟨ws, he.trans ?_⟩
        rw [State.onWave, hw]
        rfl

/-- A pending RFENCE that completes changes its wave, and the records that its core holds. -/
theorem State.tryRfence_keeps (s : State) (core wave : Nat) : (s.tryRfence core wave).mem = s.mem ∧
    (s.tryRfence core wave).groups = s.groups ∧ ((s.tryRfence core wave).core core).cmds = (s.core core).cmds := by
  unfold State.tryRfence
  split
  · exact ⟨rfl, rfl, rfl⟩
  · split
    · simp
    · exact ⟨rfl, rfl, rfl⟩

/-- A command that leaves takes nothing with it but its entry: besides, only its wave and the core's records may change. -/
theorem State.retireCmd_keeps (s : State) (core : Nat) (c : Cmd) : (s.retireCmd core c).mem = s.mem ∧
    (s.retireCmd core c).groups = s.groups ∧
    ((s.retireCmd core c).core core).cmds = (s.core core).cmds.filter (fun x => decide (x.id ≠ c.id)) := by
  have hcmds := congrArg Core.cmds
    (State.core_onCore_self s core (fun k => { k with cmds := k.cmds.filter (fun x => decide (x.id ≠ c.id)) }))
  unfold State.retireCmd
  cases c.wave with
  | none => exact ⟨rfl, rfl, hcmds⟩
  | some k =>
    obtain ⟨ws, he⟩ := State.batchDone_frame core k 256
      (s.onCore core (fun k => { k with cmds := k.cmds.filter (fun x => decide (x.id ≠ c.id)) }))
    obtain ⟨hmem, hgroups, hkept⟩ := State.tryRfence_keeps { s.onCore core (fun k =>
      { k with cmds := k.cmds.filter (fun x => decide (x.id ≠ c.id)) }) with waves := ws } core k
    dsimp only
    rw [he]
    exact ⟨hmem, hgroups, hkept.trans hcmds⟩

theorem State.cmd_retireCmd (s : State) (core : Nat) (c : Cmd) : (s.retireCmd core c).cmd core c.id = none := by
  rw [State.cmd, (s.retireCmd_keeps core c).2.2, List.find?_eq_none]
  simp
end

end Sys2Proof.Machine

/-! The events of the copy engine (O27; 12 R251, R260, R264, R273): the words of a chunk, what one of its accesses reads or writes, and the start
and the end of a command. -/

namespace Sys2Proof.Machine

open Sys2Proof.Claims

/-! ## The bytes of a chunk of one part (12 R264) -/

theorem chunkBytes_singleton (p : Chunk) : chunkBytes [p] = (List.range p.len).map (fun j => (p, j)) := by
  simp [chunkBytes]

theorem getD_chunkBytes {p : Chunk} {k : Nat} (h : k < p.len) : (chunkBytes [p]).getD k ({}, 0) = (p, k) := by
  simp [chunkBytes_singleton, h]

theorem placesOf_map_range {α : Type} (n : Nat) (f : Nat → α) (q : α → Bool) :
    placesOf ((List.range n).map f) q = (List.range n).filter (fun j => q (f j)) := by
  have hzip : ((List.range n).map f).zipIdx = (List.range n).map (fun j => (f j, j)) :=
    List.ext_getElem (by simp) fun i _ _ => by simp
  simp [placesOf, hzip, List.filter_map, Function.comp_def]

theorem mem_placesOf {α : Type} {l : List α} {q : α → Bool} {k : Nat} : k ∈ placesOf l q ↔ ∃ x, l[k]? = some x ∧ q x = true := by
  simp [placesOf, List.mem_zipIdx_iff_getElem?]

/-- The places of a chunk whose bytes lie in one word of 4 bytes with place `k`, where the chunk's first byte lies at `a`. -/
def wordPlaces (a n k : Nat) : List Nat := (List.range n).filter (fun j => decide ((a + j) / 4 = (a + k) / 4))

theorem mem_wordPlaces {a n k j : Nat} : j ∈ wordPlaces a n k ↔ j < n ∧ (a + j) / 4 = (a + k) / 4 := by
  simp [wordPlaces]

/-- The places of one word follow one another from the first of them on. -/
theorem wordPlaces_eq_range' {a n k : Nat} (hfirst : ∀ j ∈ wordPlaces a n k, k ≤ j) :
    wordPlaces a n k = List.range' k (wordPlaces a n k).length := by
  have hmem : ∀ j, j ∈ wordPlaces a n k ↔ j ∈ List.range' k (min n (k + 4 - (a + k) % 4) - k) := fun j => by
    have hge : j < n → (a + j) / 4 = (a + k) / 4 → k ≤ j := fun h₁ h₂ => hfirst j (mem_wordPlaces.2 ⟨h₁, h₂⟩)
    rw [mem_wordPlaces, List.mem_range'_1]
    omega
  have heq : wordPlaces a n k = List.range' k (min n (k + 4 - (a + k) % 4) - k) :=
    (List.pairwise_lt_range.filter _).eq_of_mem_iff List.pairwise_lt_range' hmem
  exact heq.trans (by rw [heq, List.length_range'])

/-- The bytes those places stand for: the chunk's bytes in the word of place `k`. -/
theorem wordPlaces_interval {a n k : Nat} (hfirst : ∀ j ∈ wordPlaces a n k, k ≤ j) (b : Nat) :
    a + k ≤ b ∧ b < a + k + (wordPlaces a n k).length ↔ a ≤ b ∧ b < a + n ∧ b / 4 = (a + k) / 4 := by
  by_cases hb : a ≤ b
  · obtain ⟨j, rfl⟩ := Nat.exists_eq_add_of_le hb
    have hmem : j ∈ wordPlaces a n k ↔ k ≤ j ∧ j < k + (wordPlaces a n k).length := by
      rw [← List.mem_range'_1, ← wordPlaces_eq_range' hfirst]
    rw [mem_wordPlaces] at hmem
    omega
  · omega

/-! ## What has been read and written of a chunk -/

theorem fillMoves_get (ms : List (Option Byte × Bool)) (ks : List Nat) (f : Nat → Byte) (j : Nat) :
    (fillMoves ms (ks.map (fun k => (k, f k))))[j]? = if j ∈ ks then ms[j]?.map (fun m => (some (f j), m.2)) else ms[j]? := by
  induction ks generalizing ms with
  | nil => simp [fillMoves]
  | cons k ks ih =>
    refine (ih _).trans ?_
    rw [List.getElem?_modify]
    by_cases hk : k = j
    · subst hk
      cases ms[k]? <;> simp
    · simp [hk, Ne.symm hk]

theorem endMoves_get (ms : List (Option Byte × Bool)) (ks : List Nat) (j : Nat) :
    (endMoves ms ks)[j]? = if j ∈ ks then ms[j]?.map (fun m => (m.1, true)) else ms[j]? := by
  induction ks generalizing ms with
  | nil => simp [endMoves]
  | cons k ks ih =>
    refine (ih _).trans ?_
    rw [List.getElem?_modify]
    by_cases hk : k = j
    · subst hk
      cases ms[k]? <;> simp
    · simp [hk, Ne.symm hk]

theorem fillMoves_length (ms : List (Option Byte × Bool)) (l : List (Nat × Byte)) : (fillMoves ms l).length = ms.length :=
  foldl_keeps List.length _ (fun _ _ => List.length_modify ..) _ _

theorem endMoves_length (ms : List (Option Byte × Bool)) (ks : List Nat) : (endMoves ms ks).length = ms.length :=
  foldl_keeps List.length _ (fun _ _ => List.length_modify ..) _ _

theorem getElem?_eq_some_getD {α : Type} {l : List α} {j : Nat} (h : j < l.length) (d : α) : l[j]? = some (l.getD j d) := by
  rw [List.getElem?_eq_getElem h, List.getD_eq_getElem _ _ h]

/-! ## Writes of scratchpad by the engine (08 R177; 10 R230) -/

theorem State.scratchAt_eq (s : State) (g a : Nat) :
    s.scratchAt g a = (((s.group g).map Group.scratch).map (fun t => Table.get memDefault t a)).getD 0 := by
  rw [Option.map_map]
  rfl

/-- Broken windows of MMAs change neither memory nor scratchpad nor what the cores hold. -/
theorem State.breakB_keeps (s : State) (g off n : Nat) (p : Nat → Nat → MmaWindow → Bool) : (s.breakB g off n p).mem = s.mem ∧
    (s.breakB g off n p).cores = s.cores ∧
    ∀ h, ((s.breakB g off n p).group h).map Group.scratch = (s.group h).map Group.scratch := by
  have hview : (s.breakB g off n p).scratchView 0 0 = s.scratchView 0 0 :=
    foldl_keeps (State.scratchView 0 0) _ (fun _ _ => by split <;> simp only [State.breakWindows_scratchView]) _ _
  simp only [State.scratchView, Prod.mk.injEq] at hview
  obtain ⟨hmem, -, -, hscratch⟩ := hview
  refine ⟨hmem, foldl_keeps State.cores _ (fun t e => ?_) _ _, congrFun hscratch⟩
  split
  · unfold State.breakWindows
    split
    · rfl
    · exact (foldl_keeps State.cores _ (fun t x => by simp [State.loseAcc]) _ _).trans (State.onWave_cores ..)
  · rfl

theorem State.storeScratch_keeps (s : State) (g off : Nat) (bs : List Byte) : (s.storeScratch g off bs).mem = s.mem ∧
    (s.storeScratch g off bs).cores = s.cores ∧ ∀ h, ((s.storeScratch g off bs).group h).isSome = (s.group h).isSome ∧
    ∀ a, (s.storeScratch g off bs).scratchAt h a =
      if h = g ∧ (s.group h).isSome = true ∧ off ≤ a ∧ a < off + bs.length then bs.getD (a - off) 0 else s.scratchAt h a := by
  obtain ⟨hmem, hcores, hscratch⟩ := s.breakB_keeps g off bs.length (fun _ _ _ => true)
  rw [State.storeScratch]
  generalize s.breakB g off bs.length (fun _ _ _ => true) = t at hmem hcores hscratch
  have hat : ∀ h a, t.scratchAt h a = s.scratchAt h a := fun h a => by rw [State.scratchAt_eq, hscratch, ← State.scratchAt_eq]
  have hsome : ∀ h, (t.group h).isSome = (s.group h).isSome := fun h => by
    simpa only [Option.isSome_map] using congrArg Option.isSome (hscratch h)
  refine ⟨(State.onGroup_mem ..).trans hmem, (State.onGroup_cores ..).trans hcores, fun h => ?_⟩
  by_cases hg : h = g
  · subst hg
    refine ⟨by rw [State.putScratch, State.group_onGroup_self, Option.isSome_map, hsome], fun a => ?_⟩
    cases hx : t.group h with
    | none =>
      have hput : t.putScratch h off bs = t := by rw [State.putScratch, State.onGroup, hx]
      rw [hput, hat, ← hsome, hx]
      simp
    | some x =>
      rw [State.scratchAt_putScratch hx, hat, ← hsome, hx]
      simp
  · rw [State.putScratch, State.group_onGroup_ne _ _ hg]
    refine ⟨hsome h, fun a => ?_⟩
    rw [if_neg (fun hc => hg hc.1), ← hat, State.scratchAt, State.group_onGroup_ne _ _ hg, State.scratchAt]

/-- A write of the same bytes to the scratchpads of several groups. -/
theorem State.storeScratches_keeps (gs : List Nat) (s : State) (off : Nat) (bs : List Byte) :
    let t := gs.foldl (fun s g => s.storeScratch g off bs) s
    t.mem = s.mem ∧ t.cores = s.cores ∧ ∀ h a, t.scratchAt h a =
      if h ∈ gs ∧ (s.group h).isSome = true ∧ off ≤ a ∧ a < off + bs.length then bs.getD (a - off) 0 else s.scratchAt h a := by
  induction gs generalizing s with
  | nil => simp
  | cons g gs ih =>
    obtain ⟨hmem, hcores, hat⟩ := s.storeScratch_keeps g off bs
    obtain ⟨hmem', hcores', hat'⟩ := ih (s.storeScratch g off bs)
    refine ⟨hmem'.trans hmem, hcores'.trans hcores, fun h a => ?_⟩
    rw [List.foldl_cons, hat', (hat h).1, (hat h).2]
    by_cases hin : h ∈ gs
    · by_cases hw : (s.group h).isSome = true ∧ off ≤ a ∧ a < off + bs.length
      · rw [if_pos ⟨hin, hw⟩, if_pos ⟨List.mem_cons_of_mem _ hin, hw⟩]
      · rw [if_neg (fun hc => hw hc.2), if_neg (fun hc => hw hc.2), if_neg (fun hc => hw hc.2)]
    · simp [hin]

/-- Sound bytes of scratchpad as the engine reads them. -/
theorem State.engineScratch_of_sound {s : State} {g off n : Nat} (hbad : s.scratchBad g off n = false) :
    s.engineScratch g off n = (List.range n).map (fun j => s.scratchAt g (off + j)) := by
  rw [State.engineScratch, if_neg (by simp [hbad])]
  cases hg : s.group g with
  | some x => exact State.scratchBytes_eq hg off n
  | none => simp [State.scratchBytes, State.scratchAt, hg]

theorem State.engineScratch_get {s : State} {g off n j : Nat} (hbad : s.scratchBad g off n = false) (hj : j < n) :
    (s.engineScratch g off n).getD j 0 = s.scratchAt g (off + j) := by
  simp [State.engineScratch_of_sound hbad, hj]

/-- A part of a sound range is sound. -/
theorem State.scratchBad_of_within {s : State} {g a n b m : Nat} (h : s.scratchBad g a n = false) (hlo : a / 4 ≤ b / 4)
    (hhi : (b + m + 3) / 4 ≤ (a + n + 3) / 4) : s.scratchBad g b m = false := by
  unfold State.scratchBad at h ⊢
  split at h
  · simp only [List.any_eq_false, List.mem_range] at h ⊢
    intro k hk
    have := h (b / 4 - a / 4 + k) (by omega)
    rwa [show a / 4 + (b / 4 - a / 4 + k) = b / 4 + k by omega] at this
  · rfl

/-! ## COPY_CHUNK of a copy within scratchpad (12 R264) -/

section
variable {s : State} {core k : Nat} {c : Cmd} {p : Chunk}

theorem moving_at (h : Moving s core c) : s.cmd core c.id = some c ∧ c.askAt = none ∧ ∀ x ∈ (s.core core).cmds, x.id = c.id → x = c := by
  obtain ⟨-, hcmd, -, -, -, -, -, -, -, -, hask, hone⟩ := h
  exact ⟨hcmd, hask, hone⟩

theorem exec_copyChunk (h : Moving s core c) : exec .copyChunk s = .next (s.moveChunk core c) := by
  obtain ⟨harg, hcmd, hstarted, hkind, hsuspended, hawaiting, hrecord, hreduce, hsignal, hrow, -⟩ := h
  change execCopyChunk s = _
  simp [execCopyChunk, harg, hcmd, Cmd.active, hstarted, hkind, hsuspended, hawaiting, hrecord, Nat.not_le.2 hrow, hreduce, hsignal]

/-- Ends in scratchpad meet no check when a chunk is opened. -/
theorem State.openChunk_of_scratch {ps : List Chunk} (h : ∀ p ∈ ps, p.sspace = 1 ∧ p.dspace = 1) : s.openChunk core c ps = (none, s) := by
  induction ps with
  | nil => rfl
  | cons p ps ih =>
    obtain ⟨hsrc, hdst⟩ := h p (List.mem_cons_self ..)
    rw [State.openChunk]
    simp [hsrc, hdst, ih fun q hq => h q (List.mem_cons_of_mem _ hq)]

/-- Nothing of a chunk that goes to scratchpad counts in a digest. -/
theorem State.countChunk_of_scratch {ps : List Chunk} (h : ∀ p ∈ ps, p.dspace = 1) : s.countChunk core c (chunkBytes ps) = s := by
  have hnone : placesOf (chunkBytes ps) (fun x => x.1.dspace = 0) = [] := by
    refine List.eq_nil_iff_forall_not_mem.2 fun k hk => ?_
    obtain ⟨x, hx, hspace⟩ := mem_placesOf.1 hk
    obtain ⟨q, hq, hin⟩ := List.mem_flatMap.1 (List.mem_of_getElem? hx)
    obtain ⟨j, -, rfl⟩ := List.mem_map.1 hin
    simp [h q hq] at hspace
  simp [State.countChunk, hnone]

theorem moveChunk_opens (h : ∀ p ∈ c.parts, p.sspace = 1 ∧ p.dspace = 1) (hmoves : c.moves = []) : s.moveChunk core c =
    s.onCmd core c.id (fun x => { x with moves := (chunkBytes c.parts).map (fun x => (x.1.fill.map (fun l => l.getD x.2 0), false)) }) := by
  simp only [State.moveChunk, hmoves, if_true, State.openChunk_of_scratch h]

theorem moveChunk_ends (h : ∀ p ∈ c.parts, p.sspace = 1 ∧ p.dspace = 1) (hmoves : c.moves ≠ []) (hask : c.askAt = none)
    (hnext : nextMoves (chunkBytes c.parts) c.moves = []) :
    s.moveChunk core c = s.onCmd core c.id (fun x => x.pastParts c.parts) := by
  simp only [State.moveChunk, if_neg hmoves, hask, hnext, List.getElem?_nil, State.countChunk_of_scratch fun p hp => (h p hp).2]

/-- An open chunk makes one of its next moves. -/
theorem moveChunk_moves (hparts : c.parts = [p]) (hmoves : c.moves ≠ []) (hask : c.askAt = none)
    (hnext : nextMoves (chunkBytes [p]) c.moves ≠ []) : ∃ k write, (k, write) ∈ nextMoves (chunkBytes [p]) c.moves ∧
      s.moveChunk core c = if write then ({ s with free := s.free + 1 } : State).writeMove core c (chunkBytes [p]) k
        else ({ s with free := s.free + 1 } : State).readMove core c (chunkBytes [p]) k := by
  have hlt := Nat.mod_lt (Config.freeChoice s.free) (List.length_pos_iff.2 hnext)
  obtain ⟨⟨k, write⟩, hm⟩ : ∃ m, (nextMoves (chunkBytes [p]) c.moves)[Config.freeChoice s.free %
      (nextMoves (chunkBytes [p]) c.moves).length]? = some m := ⟨_, List.getElem?_eq_getElem hlt⟩
  refine ⟨k, write, List.mem_of_getElem? hm, ?_⟩
  simp only [State.moveChunk, if_neg hmoves, hask, hparts, hm]

/-- A move is of a byte of the chunk. -/
theorem lt_of_mem_nextMoves {write : Bool} (h : (k, write) ∈ nextMoves (chunkBytes [p]) c.moves) : k < p.len := by
  have hplace : ∀ q : (Chunk × Nat) × Option Byte × Bool → Bool, k ∈ placesOf ((chunkBytes [p]).zip c.moves) q → k < p.len :=
      fun q hk => by
    obtain ⟨x, hx, -⟩ := mem_placesOf.1 hk
    have := (List.getElem?_eq_some_iff.1 hx).1
    simp only [chunkBytes_singleton, List.length_zip, List.length_map, List.length_range] at this
    omega
  unfold nextMoves at h
  simp only [List.mem_append, List.mem_map, List.mem_filter, Prod.mk.injEq] at h
  obtain ⟨j, ⟨hj, -⟩, rfl, -⟩ | ⟨j, ⟨hj, -⟩, rfl, -⟩ := h
  · exact hplace _ hj
  · exact hplace _ hj

/-- The word that a write moves stands at its first byte that is still to be written. -/
theorem first_of_mem_nextMoves (hlen : c.moves.length = p.len) (h : (k, true) ∈ nextMoves (chunkBytes [p]) c.moves)
    (hsame : ∀ i j, (p.dst + i) / 4 = (p.dst + j) / 4 → i < p.len → j < p.len →
      (c.moves.getD i (none, false)).2 = (c.moves.getD j (none, false)).2) :
    ∀ j ∈ wordPlaces p.dst p.len k, k ≤ j := by
  have hk := lt_of_mem_nextMoves h
  have hunwritten : ∀ j, j ∈ placesOf ((chunkBytes [p]).zip c.moves) (fun e => !e.2.2) ↔
      j < p.len ∧ (c.moves.getD j (none, false)).2 = false := by
    intro j
    rw [mem_placesOf]
    by_cases hj : j < p.len
    · have hjm : j < c.moves.length := hlen ▸ hj
      simp [List.zip, chunkBytes_singleton, hj, hjm]
    · have hjm : c.moves.length ≤ j := by omega
      simp [List.zip, chunkBytes_singleton, hj, hjm]
  unfold nextMoves at h
  simp only [List.mem_append, List.mem_map, List.mem_filter, Prod.mk.injEq, and_false, exists_false, false_or, and_true,
    exists_eq_right, Bool.false_eq_true, hunwritten, List.all_eq_true] at h
  obtain ⟨⟨-, hfalse⟩, hall⟩ := h
  intro j hj
  obtain ⟨hjlt, hword⟩ := mem_wordPlaces.1 hj
  have hfirst := hall j ⟨hjlt, (hsame j k hword hjlt hk).trans hfalse⟩
  simp only [getD_chunkBytes hjlt, getD_chunkBytes hk] at hfirst
  simp [dstWord, hword] at hfirst
  exact hfirst.1

/-- The read of a word within scratchpad. -/
theorem readMove_of_scratch (hk : k < p.len) (hsrc : p.sspace = 1) (hfill : p.fill = none)
    (hbad : s.scratchBad p.sgrp (p.src / 4 * 4) (p.len + 8) = false) : s.readMove core c (chunkBytes [p]) k =
      ({ s with free := s.free + 4 } : State).onCmd core c.id (fun x => { x with
        moves := fillMoves x.moves ((wordPlaces p.src p.len k).map (fun j => (j, s.scratchAt p.sgrp (p.src + j)))) }) := by
  have hks : placesOf (chunkBytes [p]) (fun y => srcWord y = srcWord (p, k)) = wordPlaces p.src p.len k := by
    rw [chunkBytes_singleton, placesOf_map_range, wordPlaces]
    simp [srcWord, hfill, hsrc]
  have hbytes : (wordPlaces p.src p.len k).map (fun j => (j, (s.engineScratch p.sgrp ((p.src + k) / 4 * 4) 4).getD
      (((chunkBytes [p]).getD j ({}, 0)).1.src + ((chunkBytes [p]).getD j ({}, 0)).2 - (p.src + k) / 4 * 4) 0)) =
      (wordPlaces p.src p.len k).map (fun j => (j, s.scratchAt p.sgrp (p.src + j))) := by
    refine List.map_congr_left fun j hj => ?_
    obtain ⟨hjlt, hword⟩ := mem_wordPlaces.1 hj
    have hat : (p.src + k) / 4 * 4 + (p.src + j - (p.src + k) / 4 * 4) = p.src + j := by omega
    rw [getD_chunkBytes hjlt, State.engineScratch_get (State.scratchBad_of_within hbad (by omega) (by omega)) (by dsimp only; omega), hat]
  simp only [State.readMove, getD_chunkBytes hk, hks, hsrc, if_true, hbytes]

/-- The write of a word within scratchpad. -/
theorem writeMove_of_scratch (hk : k < p.len) (hdst : p.dspace = 1) : s.writeMove core c (chunkBytes [p]) k =
    ((p.dgrps.foldl (fun s g => s.storeScratch g (p.dst + k)
        ((wordPlaces p.dst p.len k).map (fun j => ((c.moves.getD j (none, false)).1).getD 0))) s).countEngine core c.ctx
      ((wordPlaces p.dst p.len k).length * p.dgrps.length)).onCmd core c.id
        (fun x => { x with moves := endMoves x.moves (wordPlaces p.dst p.len k) }) := by
  have hks : placesOf (chunkBytes [p]) (fun y => dstWord y = dstWord (p, k)) = wordPlaces p.dst p.len k := by
    rw [chunkBytes_singleton, placesOf_map_range, wordPlaces]
    simp [dstWord]
  simp only [State.writeMove, getD_chunkBytes hk, hks, hdst, if_true, List.length_map]

/-! ## The events -/

theorem exec_copyCommandStart (harg : s.arg = .at2 core c.id) (hcmd : s.cmd core c.id = some c) (hstarted : c.started = false)
    (hfew : ((s.core core).cmds.filter (fun x => x.started && decide (x.kind ≠ .chain))).length < 8) (hrecord : c.recordWait = false)
    (hclear : (s.core core).clear c.seq c.ranges = true)
    (hfirst : ∀ x ∈ (s.core core).cmds, x.started = false → c.seq ≤ x.seq) :
    exec .copyCommandStart s = .next (s.onCmd core c.id (fun x => { x with started := true })) := by
  change execCopyCommandStart s = _
  have hactive : ¬ 8 ≤ ((s.core core).cmds.filter Cmd.active).length := Nat.not_le.2 hfew
  have hearlier : (s.core core).cmds.any (fun x => !x.started && decide (x.seq < c.seq) && (s.core core).clear x.seq x.ranges) = false := by
    simp only [List.any_eq_false, Bool.and_eq_true, Bool.not_eq_true', decide_eq_true_eq]
    exact fun x hx ⟨⟨hs, hlt⟩, _⟩ => absurd hlt (Nat.not_lt.2 (hfirst x hx hs))
  simp only [execCopyCommandStart, harg, hcmd, Core.mayStart, hstarted, hactive, hrecord, hclear, hearlier, decide_false, Bool.not_false,
    Bool.not_true, Bool.and_self, Bool.or_self, Bool.false_eq_true, if_false]

/-- The read of a word changes no byte of any scratchpad, and the chunk's bytes in that word are at hand (12 R264). -/
theorem readMove_effect (hcmd : s.cmd core c.id = some c) (hk : k < p.len) (hsrc : p.sspace = 1) (hfill : p.fill = none)
    (hbad : s.scratchBad p.sgrp (p.src / 4 * 4) (p.len + 8) = false) (hlen : c.moves.length = p.len) :
    (s.readMove core c (chunkBytes [p]) k).mem = s.mem ∧ (s.readMove core c (chunkBytes [p]) k).groups = s.groups ∧
    ∃ c', (s.readMove core c (chunkBytes [p]) k).cmd core c.id = some c' ∧ c' = { c with moves := c'.moves } ∧ c'.moves.length = p.len ∧
      ∀ j < p.len, c'.moves[j]? = if (p.src + j) / 4 = (p.src + k) / 4
        then some (some (s.scratchAt p.sgrp (p.src + j)), (c.moves.getD j (none, false)).2) else c.moves[j]? := by
  rw [readMove_of_scratch hk hsrc hfill hbad]
  refine ⟨rfl, rfl, _, State.cmd_onCmd hcmd fun _ h => h, rfl, (fillMoves_length ..).trans hlen, fun j hj => ?_⟩
  rw [fillMoves_get, getElem?_eq_some_getD (hlen ▸ hj) (none, false)]
  simp only [mem_wordPlaces, hj, true_and, Option.map_some]

/-- The write of a word puts its bytes in the scratchpads the chunk goes to, and nothing else (10 R216; 12 R264). -/
theorem writeMove_effect (hcmd : s.cmd core c.id = some c) (hk : k < p.len) (hdst : p.dspace = 1) (hlen : c.moves.length = p.len)
    (hfirst : ∀ j ∈ wordPlaces p.dst p.len k, k ≤ j) :
    (s.writeMove core c (chunkBytes [p]) k).mem = s.mem ∧
    (∀ h a, (s.writeMove core c (chunkBytes [p]) k).scratchAt h a =
      if h ∈ p.dgrps ∧ (s.group h).isSome = true ∧ p.dst ≤ a ∧ a < p.dst + p.len ∧ a / 4 = (p.dst + k) / 4
      then ((c.moves.getD (a - p.dst) (none, false)).1).getD 0 else s.scratchAt h a) ∧
    ∃ c', (s.writeMove core c (chunkBytes [p]) k).cmd core c.id = some c' ∧ c' = { c with moves := c'.moves } ∧ c'.moves.length = p.len ∧
      ∀ j < p.len, c'.moves[j]? = if (p.dst + j) / 4 = (p.dst + k) / 4 then some ((c.moves.getD j (none, false)).1, true) else c.moves[j]? := by
  rw [writeMove_of_scratch hk hdst]
  obtain ⟨hmem, hcores, hscratch⟩ := State.storeScratches_keeps p.dgrps s (p.dst + k)
    ((wordPlaces p.dst p.len k).map (fun j => ((c.moves.getD j (none, false)).1).getD 0))
  rw [List.length_map] at hscratch
  refine ⟨hmem, fun h a => (hscratch h a).trans ?_, _, State.cmd_onCmd ((State.cmd_congr ?_ _).trans hcmd) fun _ h => h, rfl,
    (endMoves_length ..).trans hlen, fun j hj => ?_⟩
  · simp only [wordPlaces_interval hfirst]
    refine ite_congr rfl (fun hc => ?_) fun _ => rfl
    obtain ⟨hlo, hhi⟩ := (wordPlaces_interval hfirst a).2 hc.2.2
    rw [wordPlaces_eq_range' hfirst, List.getD_eq_getElem _ _ (by simp; omega), List.getElem_map, List.getElem_range',
      show k + 1 * (a - (p.dst + k)) = a - p.dst by omega]
  · simp only [State.countEngine, State.core, State.onCsr_cores, hcores]
  · rw [endMoves_get, getElem?_eq_some_getD (hlen ▸ hj) (none, false)]
    simp only [mem_wordPlaces, hj, true_and, Option.map_some]

/-- A record that parses, of a box that lies well: the command of a chain runs, and the core caches the record (12 R260, R261). -/
theorem State.recordArrived_of_placed {bs : List Byte} {f : Tensor} {q : Nat × Nat} (hparse : Tensor.parse bs = some f)
    (hplace : s.tensorPlace c.group f (BitVec.ofNat 32 c.spBase) = .ok q) (hwave : c.wave = none) :
    ∃ r, s.recordArrived core c bs = (s.onCore core (fun k => k.cacheRecord r)).onCmd core c.id (fun _ => c.withTensor f q) := by
  have hplace' : ∀ g, (s.onCore core g).tensorPlace c.group f (BitVec.ofNat 32 c.spBase) = .ok q := fun _ => hplace
  refine ⟨{ ctx := c.ctx, addr := c.recAddr, words := (List.range 48).map (fun k => BitVec.ofNat 32 (leNat ((bs.drop (4 * k)).take 4))) }, ?_⟩
  unfold State.recordArrived
  rw [hparse]
  dsimp only
  rw [hplace', hwave]

theorem exec_tensorRecordArrive (harg : s.arg = .at2 core c.id) (hcmd : s.cmd core c.id = some c) (hwait : c.recordWait = true)
    (hsuspended : c.suspended = false) (hawaiting : c.awaiting = false) (hrecord : c.record ≠ []) :
    exec .tensorRecordArrive s = .next (s.recordArrived core c (c.record.flatMap (fun x => leBytes 4 x.toNat))) := by
  change execTensorRecordArrive s = _
  simp [execTensorRecordArrive, harg, hcmd, hwait, hsuspended, hawaiting, hrecord]

theorem exec_copyCommandComplete (harg : s.arg = .at2 core c.id) (hcmd : s.cmd core c.id = some c) (hstarted : c.started = true)
    (hsuspended : c.suspended = false) (hawaiting : c.awaiting = false) (hkind : c.kind ≠ .chain) (hrow : c.rows.length ≤ c.row)
    (hmma : c.mma = none) (harrive : c.arrive = []) : exec .copyCommandComplete s = .next (s.retireCmd core c) := by
  change execCopyCommandComplete s = _
  simp [execCopyCommandComplete, harg, hcmd, hstarted, hsuspended, hawaiting, hkind, Nat.not_lt.2 hrow, hmma, harrive, State.arriveAll]

theorem exec_semwaitRetry_early {q : SemTest} (harg : s.arg = .at2 core c.id) (hcmd : s.cmd core c.id = some c)
    (hwaiting : c.chain.waiting = some q) (hearly : (s.core core).cycle.toNat < c.chain.retryAt) : exec .semwaitRetry s = .next s := by
  change execSemwaitRetry s = _
  simp [execSemwaitRetry, harg, hcmd, hwaiting, hearly]
end

/-- Settles O27: a chunk is opened, its words move one after another in any order, and it ends when none is left. -/
theorem copyEvents : Obligations.CopyEvents := by
  refine ⟨fun s core c harg hcmd hstarted hfew hrecord hclear hfirst hone => ?_,
    fun s core c hm hspaces => ⟨fun hmoves => ?_, fun hmoves hnext => ?_⟩,
    fun s core c p hm hparts hsrc hdst hfill hlen hmoves hbad hsame hnext => ?_,
    fun s core c f p harg hcmd hwait hsuspended hawaiting hrecord hparse hplace hwave => ?_,
    fun s core c harg hcmd hstarted hsuspended hawaiting hkind hrow hmma harrive => ?_,
    fun s core c q harg hcmd hwaiting hearly => exec_semwaitRetry_early harg hcmd hwaiting hearly⟩
  · exact ⟨_, exec_copyCommandStart harg hcmd hstarted hfew hrecord hclear hfirst, onlyCmd_onCmd hone _⟩
  · exact ⟨_, (exec_copyChunk hm).trans (congrArg _ (moveChunk_opens hspaces hmoves)), onlyCmd_onCmd (moving_at hm).2.2 _⟩
  · obtain ⟨-, hask, hone⟩ := moving_at hm
    exact ⟨_, (exec_copyChunk hm).trans (congrArg _ (moveChunk_ends hspaces hmoves hask hnext)), onlyCmd_onCmd hone _⟩
  · obtain ⟨hcmd, hask, -⟩ := moving_at hm
    obtain ⟨k, write, hk, hmove⟩ := moveChunk_moves (s := s) (core := core) hparts hmoves hask hnext
    cases write with
    | false =>
      obtain ⟨hmem, hgroups, c', hc, hkeep, hlen', hat⟩ := readMove_effect (s := { s with free := s.free + 1 }) hcmd
        (lt_of_mem_nextMoves hk) hsrc hfill hbad hlen
      refine ⟨_, c', k, false, (exec_copyChunk hm).trans (congrArg _ hmove), hk, hmem, hc, hkeep, hlen', fun _ => ⟨?_, hat⟩, nofun⟩
      exact State.scratchAt_of_groups hgroups
    | true =>
      obtain ⟨hmem, hscratch, c', hc, hkeep, hlen', hat⟩ := writeMove_effect (s := { s with free := s.free + 1 }) hcmd
        (lt_of_mem_nextMoves hk) hdst hlen (first_of_mem_nextMoves hlen hk hsame)
      exact ⟨_, c', k, true, (exec_copyChunk hm).trans (congrArg _ hmove), hk, hmem, hc, hkeep, hlen', nofun, fun _ => ⟨hscratch, hat⟩⟩
  · obtain ⟨r, hstate⟩ := State.recordArrived_of_placed (core := core) hparse hplace hwave
    have hread : (s.onCore core (fun k => k.cacheRecord r)).cmd core c.id = some c :=
      (State.cmd_congr (by rw [State.core_onCore_self]; rfl) _).trans hcmd
    exact ⟨_, _, (exec_tensorRecordArrive harg hcmd hwait hsuspended hawaiting hrecord).trans (congrArg _ hstate), rfl,
      State.cmd_onCmd hread fun _ _ => rfl, rfl, rfl⟩
  · obtain ⟨hmem, hgroups, hcmds⟩ := s.retireCmd_keeps core c
    exact ⟨_, exec_copyCommandComplete harg hcmd hstarted hsuspended hawaiting hkind hrow hmma harrive, hmem, hgroups, hcmds,
      s.cmd_retireCmd core c⟩

end Sys2Proof.Machine

/-! The block commands that hand the engine or the array a command (O28; 12 R253, R270–R275): a block that is carried out, the command it
hands over, and the fields of its bytes. -/

namespace Sys2Proof.Machine

open Sys2Proof.Claims

/-! ## The fields of a block (12 R270) -/

theorem blockField_lt (bs : List Byte) (o n : Nat) : blockField bs o n < 256 ^ n :=
  (leNat_lt _).trans_le (Nat.pow_le_pow_right (by decide) (List.length_take_le ..))

theorem dwordField_toNat (bs : List Byte) (o : Nat) : (BitVec.ofNat 64 (blockField bs o 8)).toNat = blockField bs o 8 :=
  (BitVec.toNat_ofNat ..).trans (Nat.mod_eq_of_lt (blockField_lt bs o 8))

theorem wordField_toNat (bs : List Byte) (o : Nat) : (BitVec.ofNat 32 (blockField bs o 4)).toNat = blockField bs o 4 :=
  (BitVec.toNat_ofNat ..).trans (Nat.mod_eq_of_lt (blockField_lt bs o 4))

/-- The arrival word of a multicast as a sum (12 R271). -/
theorem arrivalWord_eq (arv : Bool) (b : BitVec 16) :
    ((if arv then 0x10000 else 0) ||| b.setWidth 32 : Word) = BitVec.ofNat 32 ((if arv then 0x10000 else 0) + b.toNat) := by
  cases arv with
  | false => simp [BitVec.ofNat_toNat]
  | true =>
    have hor : 0x10000 + b.toNat = 0x10000 ||| b.toNat := Nat.two_pow_add_eq_or_of_lt (i := 16) b.isLt 1
    simp [hor, BitVec.ofNat_or, BitVec.ofNat_toNat]

theorem alwaysWaits_iff {code : Nat} : alwaysWaits code = true ↔ code ∈ [6, 7, 10] := by simp [alwaysWaits, or_assoc]

section
variable {s : State} {core code : Nat} {c k : Cmd} {bs : List Byte} {h : BlockHeader}

/-! ## A block that is carried out -/

/-- A block command acts where its checks pass. -/
theorem State.onBlock_acts {act : Nat → Cmd → List Byte → BlockHeader → Option State} {t : State} (hb : Block s core c code bs h)
    (hact : act core c bs h = some t) : s.onBlock code act = t := by
  obtain ⟨harg, hcmd, htakes, hcode, hheader, hwaits, -⟩ := hb
  have hidle : ((h.waitPrev || alwaysWaits code) && !(s.core core).chainIdle c.id) = false := by
    by_cases hw : h.waitPrev = true ∨ code ∈ [6, 7, 10]
    · rw [hwaits hw, Bool.not_true, Bool.and_false]
    · rw [not_or, ← alwaysWaits_iff, Bool.not_eq_true, Bool.not_eq_true] at hw
      rw [hw.1, hw.2]
      rfl
  simp only [State.onBlock, harg, hcmd, htakes, hcode, hheader, hidle, hact, ne_eq, not_true_eq_false, decide_false, Bool.not_true,
    Bool.or_self, Bool.false_eq_true, if_false, Option.getD_some]

theorem block_cmd (hb : Block s core c code bs h) : s.cmd core c.id = some c ∧ c.id < (s.core core).nextCmd ∧
    ∀ x ∈ (s.core core).cmds, x.id = c.id → x = c := by
  obtain ⟨-, hcmd, -, -, -, -, hid, hone⟩ := hb
  exact ⟨hcmd, hid, hone⟩

/-- The chain goes on at a block. -/
theorem chainTo_onlyCmd (hb : Block s core c code bs h) (next : Dword) : OnlyCmd s (s.chainTo core c.id next) core c.id (chainNext c next) :=
  onlyCmd_onCmd (block_cmd hb).2.2 (fun x => { x with chain := { x.chain with next := next, waiting := none } })

/-- A command handed to the engine stands last in the queue for its chain. -/
theorem pushBlock_pushes (hb : Block s core c code bs h) (hroom : (s.core core).held.length + k.ranges.length ≤ 32) :
    ∃ t, s.pushBlock core c (.ok k) = some t ∧ Pushed s t core c k := by
  obtain ⟨-, hid, hone⟩ := block_cmd hb
  rw [State.pushBlock, if_neg (Nat.not_lt.2 hroom)]
  refine ⟨_, rfl, rfl, fun n hn => ?_, ?_⟩
  · rw [State.chainOn, State.onCmd, State.core_onCore_ne _ _ hn, State.pushCmd, State.core_onCore_ne _ _ hn]
  · rw [State.chainOn, State.onCmd, State.core_onCore_self, State.pushCmd, State.core_onCore_self]
    dsimp only
    rw [List.map_append, State.onCmd_cmds_of_unique hone, List.map_singleton, if_neg (Nat.ne_of_gt hid)]
    rfl

/-- A record found in the cache changes the record cache of its core alone (12 R261). -/
theorem State.touchRecord_keeps (s : State) (core : Nat) (x : Cmd) : s.touchRecord core x = { s with cores := (s.touchRecord core x).cores } ∧
    (∀ n, n ≠ core → (s.touchRecord core x).core n = s.core n) ∧
    (s.touchRecord core x).core core = { s.core core with records := ((s.touchRecord core x).core core).records } := by
  unfold State.touchRecord
  split
  · exact ⟨rfl, fun _ _ => rfl, rfl⟩
  · refine ⟨rfl, fun n hn => State.core_onCore_ne _ _ hn, ?_⟩
    rw [State.core_onCore_self]
    split <;> rfl

/-- What is pushed leaves the record cache and the count of free draws open. -/
theorem pushed_touchRecord {t : State} (ht : Pushed s t core c k) (n : Nat) (x : Cmd) :
    Pushed s (({ t with free := n } : State).touchRecord core x) core c k := by
  obtain ⟨hrest, hothers, hcore⟩ := ht
  obtain ⟨hrest', hothers', hcore'⟩ := State.touchRecord_keeps { t with free := n } core x
  generalize ({ t with free := n } : State).touchRecord core x = t' at hrest' hothers' hcore' ⊢
  refine ⟨?_, fun m hm => (hothers' m hm).trans (hothers m hm), ?_⟩
  · rw [hrest', hrest]
  · have hsame : ({ t with free := n } : State).core core = t.core core := rfl
    rw [hcore', hsame, hcore]

/-! ## COPY, TCOPY and MCAST (12 R271) -/

theorem exec_chainCopy_pushes (hb : Block s core c 1 bs h) (hf : blockField bs 0x1C 4 < 16) (hsrc : blockField bs 0x1C 4 % 4 < 2)
    (hdst : blockField bs 0x1C 4 / 4 < 2) (hzero : blockZero bs 0x20 64 = true)
    (hk : s.mkLinear c.group c.pc (BitVec.ofNat 64 (blockField bs 8 8)) (BitVec.ofNat 64 (blockField bs 16 8))
      (BitVec.ofNat 32 (blockField bs 24 4)) (s.headerArrivals c.group h) (blockField bs 0x1C 4 % 4) (blockField bs 0x1C 4 / 4) = .ok k)
    (hroom : (s.core core).held.length + k.ranges.length ≤ 32) : ∃ t, exec .chainCopy s = .next t ∧ Pushed s t core c k := by
  obtain ⟨t, hpush, ht⟩ := pushBlock_pushes hb hroom
  refine ⟨t, congrArg _ (State.onBlock_acts hb ?_), ht⟩
  dsimp only
  rw [hk, hpush, if_neg]
  simp only [hzero, Bool.true_eq_false, or_false]
  omega

theorem exec_chainTcopy_pushes {x : Cmd} (hb : Block s core c 2 bs h) (hstore : blockField bs 0x14 4 < 2) (hzero : blockZero bs 0x28 64 = true)
    (hx : s.mkTensor c.group c.pc (BitVec.ofNat 64 (blockField bs 8 8)) (BitVec.ofNat 32 (blockField bs 16 4)) (s.headerArrivals c.group h)
      (blockField bs 0x14 4 = 1) ((List.range 4).map (fun j => BitVec.ofNat 32 (blockField bs (0x18 + 4 * j) 4))) = .ok x)
    (hk : s.tensorAtIssue core c.ctx c.group x = .ok k)
    (hroom : (s.core core).held.length + k.ranges.length ≤ 32) : ∃ t, exec .chainTcopy s = .next t ∧ Pushed s t core c k := by
  obtain ⟨t, hpush, ht⟩ := pushBlock_pushes hb hroom
  refine ⟨({ t with free := t.free + 1 } : State).touchRecord core { k with ctx := c.ctx }, congrArg _ (State.onBlock_acts hb ?_),
    pushed_touchRecord ht _ _⟩
  dsimp only
  rw [hx]
  dsimp only
  rw [hk, hpush, if_neg]
  · rfl
  · simp only [hzero, Bool.true_eq_false, or_false]
    omega

theorem exec_chainMcast_pushes (hb : Block s core c 3 bs h) (hzero : blockZero bs 0x1C 64 = true)
    (hk : s.mkMulticast c.group c.pc (BitVec.ofNat 64 (blockField bs 8 8)) (BitVec.ofNat 32 (blockField bs 0x10 4))
      (BitVec.ofNat 32 (blockField bs 0x14 4)) (BitVec.ofNat 32 (blockField bs 0x18 4))
      (BitVec.ofNat 32 ((if h.arv then 0x10000 else 0) + h.bref.toNat)) = .ok k)
    (hroom : (s.core core).held.length + k.ranges.length ≤ 32) : ∃ t, exec .chainMcast s = .next t ∧ Pushed s t core c k := by
  obtain ⟨t, hpush, ht⟩ := pushBlock_pushes hb hroom
  refine ⟨t, congrArg _ (State.onBlock_acts hb ?_), ht⟩
  dsimp only
  rw [if_neg (by simp [hzero]), arrivalWord_eq, hk, hpush]

/-! ## SEMSIG (12 R274) -/

theorem exec_semsig_pushes {p : Nat × Nat} {arrive : List (Nat × Nat)} (hb : Block s core c 6 bs h) (hf : blockField bs 0x18 1 < 16)
    (hspace : blockField bs 0x18 1 / 4 < 2) (hzero : blockZero bs 0x19 64 = true)
    (halign : blockField bs 8 8 % (if blockField bs 0x18 1 / 2 % 2 = 1 then 8 else 4) = 0)
    (hval : (if blockField bs 0x18 1 / 2 % 2 = 1 then 8 else 4) = 4 → blockField bs 16 8 < 2 ^ 32)
    (haddr : blockField bs 0x18 1 / 4 = 0 → blockField bs 8 8 < 2 ^ 56)
    (hp : s.endPlace c.group (blockField bs 0x18 1 / 4) (BitVec.ofNat 64 (blockField bs 8 8))
      (if blockField bs 0x18 1 / 2 % 2 = 1 then 8 else 4) = .ok p)
    (harrive : s.headerArrivals c.group h = some arrive) (hroom : (s.core core).held.length ≤ 32) :
    ∃ t k, exec .semsig s = .next t ∧ Pushed s t core c k ∧ k.kind = .signal ∧ k.arrive = arrive ∧
      k.signal = some (decide (blockField bs 0x18 1 % 2 = 1), decide (blockField bs 0x18 1 / 2 % 2 = 1),
        BitVec.ofNat 64 (blockField bs 16 8)) ∧
      k.rows = [{ dspace := blockField bs 0x18 1 / 4, dst := p.2, dgrps := [p.1],
                  len := if blockField bs 0x18 1 / 2 % 2 = 1 then 8 else 4 }] := by
  have hdiv : blockField bs 0x18 1 / 4 % 4 = blockField bs 0x18 1 / 4 := Nat.mod_eq_of_lt (by omega)
  obtain ⟨t, hpush, ht⟩ := pushBlock_pushes (k := { kind := .signal, arrive := arrive
                                                    signal := some (decide (blockField bs 0x18 1 % 2 = 1),
                                                      decide (blockField bs 0x18 1 / 2 % 2 = 1), BitVec.ofNat 64 (blockField bs 16 8))
                                                    rows := [{ dspace := blockField bs 0x18 1 / 4, dst := p.2, dgrps := [p.1],
                                                               len := if blockField bs 0x18 1 / 2 % 2 = 1 then 8 else 4 }] }) hb hroom
  refine ⟨t, _, congrArg _ (State.onBlock_acts hb ?_), ht, rfl, rfl, rfl, rfl⟩
  dsimp only
  rw [hdiv, hp, harrive, dwordField_toNat, if_neg]
  · exact (if_neg fun hn => absurd (haddr hn.1) (Nat.not_lt.2 hn.2)).trans hpush
  · by_cases hwide : blockField bs 0x18 1 / 2 % 2 = 1
    · simp only [hwide, if_true] at halign ⊢
      simp [hzero, halign]
      omega
    · simp only [hwide, if_false, true_implies] at halign hval ⊢
      simp [hzero, halign]
      omega

/-! ## REDUCE (12 R275) -/

/-- The fields of a REDUCE block. -/
def reduceArgsOf (bs : List Byte) : ReduceArgs :=
  { src := BitVec.ofNat 64 (blockField bs 8 8), dst := BitVec.ofNat 64 (blockField bs 16 8), count := BitVec.ofNat 32 (blockField bs 24 4)
    type := BitVec.ofNat 4 (blockField bs 0x1C 4), op := BitVec.ofNat 4 (blockField bs 0x1C 4 / 16)
    sspace := BitVec.ofNat 2 (blockField bs 0x1C 4 / 256), dspace := BitVec.ofNat 2 (blockField bs 0x1C 4 / 1024) }

theorem ownRange_length_le (g : Nat) (p : Nat × Nat) (n kind : Nat) : (ownRange g p n kind).length ≤ 1 := by
  unfold ownRange
  split <;> simp

/-- What REDUCE does once its fields are read. -/
theorem exec_reduce_pushes {r : ReduceArgs} {p q : Nat × Nat} {arrive : List (Nat × Nat)} {len : Nat} (hb : Block s core c 8 bs h)
    (hr : reduceArgsOf bs = r) (hlen : len = if r.type = 3 then 2 * r.count.toNat else reduceUnit r * r.count.toNat)
    (hf : blockField bs 0x1C 4 < 4096) (hzero : blockZero bs 0x20 64 = true) (htype : r.type.toNat < 5) (hop : r.op.toNat < 3)
    (hsspace : r.sspace.toNat < 2) (hdspace : r.dspace.toNat < 2) (hpos : 0 < r.count.toNat) (hmax : r.count.toNat ≤ 2 ^ 22)
    (heven : r.type = 3 → r.count.toNat % 2 = 0) (hp : s.endPlace c.group r.sspace.toNat r.src len = .ok p)
    (hq : s.endPlace c.group r.dspace.toNat r.dst len = .ok q)
    (hfault : addressFault (reduceUnit r) [(r.sspace.toNat, false, r.src), (r.dspace.toNat, true, r.dst)] = none)
    (harrive : s.headerArrivals c.group h = some arrive) (hroom : (s.core core).held.length ≤ 30) :
    ∃ t k, exec .reduce s = .next t ∧ Pushed s t core c k ∧ k.kind = .reduce ∧ k.arrive = arrive ∧
      k.rows = [{ sspace := r.sspace.toNat, src := p.2, sgrp := p.1, dspace := r.dspace.toNat, dst := q.2, dgrps := [q.1], len := len }] := by
  have hranges : (s.core core).held.length + ((if r.sspace = 1 then ownRange c.group p len 0 else []) ++
      (if r.dspace = 1 then ownRange c.group q len 2 else [])).length ≤ 32 := by
    have h₁ := ownRange_length_le c.group p len 0
    have h₂ := ownRange_length_le c.group q len 2
    rw [List.length_append]
    split <;> split <;> simp <;> omega
  obtain ⟨t, hpush, ht⟩ := pushBlock_pushes (k := { kind := .reduce, arrive := arrive, reduceArgs := some r
                                                    rows := [{ sspace := r.sspace.toNat, src := p.2, sgrp := p.1, dspace := r.dspace.toNat
                                                               dst := q.2, dgrps := [q.1], len := len }]
                                                    ranges := (if r.sspace = 1 then ownRange c.group p len 0 else []) ++
                                                      (if r.dspace = 1 then ownRange c.group q len 2 else []) }) hb hranges
  refine ⟨t, _, congrArg _ (State.onBlock_acts hb ?_), ht, rfl, rfl, rfl⟩
  extract_lets f r' n unit len'
  obtain rfl : r' = r := hr
  obtain rfl : len' = len := hlen.symm
  clear_value r' len'
  rw [hp, hq, hfault, harrive, if_neg]
  · exact hpush
  · have hodd : ¬ (r'.type = 3 ∧ n % 2 = 1) := fun ⟨h3, h1⟩ => by
      have := heven h3
      omega
    simp only [hzero, hodd, Bool.true_eq_false, false_or, or_false]
    omega

theorem reduceArgsOf_type (bs : List Byte) : (reduceArgsOf bs).type.toNat = blockField bs 0x1C 4 % 16 := BitVec.toNat_ofNat ..

theorem reduceArgsOf_op (bs : List Byte) : (reduceArgsOf bs).op.toNat = blockField bs 0x1C 4 / 16 % 16 := BitVec.toNat_ofNat ..

theorem reduceArgsOf_sspace (bs : List Byte) : (reduceArgsOf bs).sspace.toNat = blockField bs 0x1C 4 / 256 % 4 := BitVec.toNat_ofNat ..

theorem reduceArgsOf_dspace {bs : List Byte} (h : blockField bs 0x1C 4 < 4096) : (reduceArgsOf bs).dspace.toNat = blockField bs 0x1C 4 / 1024 :=
  (BitVec.toNat_ofNat ..).trans (Nat.mod_eq_of_lt (by omega))

theorem reduceArgsOf_count (bs : List Byte) : (reduceArgsOf bs).count.toNat = blockField bs 0x18 4 := wordField_toNat bs 24

theorem reduceArgsOf_type_iff (bs : List Byte) {n : Nat} (hn : n < 16) : (reduceArgsOf bs).type = BitVec.ofNat 4 n ↔ blockField bs 0x1C 4 % 16 = n := by
  rw [← BitVec.toNat_inj, reduceArgsOf_type, BitVec.toNat_ofNat, Nat.mod_eq_of_lt hn]

theorem reduceUnit_reduceArgsOf (bs : List Byte) : reduceUnit (reduceArgsOf bs) = if blockField bs 0x1C 4 % 16 = 4 then 8 else 4 :=
  ite_congr (propext (reduceArgsOf_type_iff bs (n := 4) (by decide))) (fun _ => rfl) fun _ => rfl

/-- REDUCE in the words of the statement. -/
theorem exec_reduceBlock_pushes {p q : Nat × Nat} {arrive : List (Nat × Nat)} (hb : Block s core c 8 bs h)
    (hf : blockField bs 0x1C 4 < 4096) (hzero : blockZero bs 0x20 64 = true) (htype : blockField bs 0x1C 4 % 16 < 5)
    (hop : blockField bs 0x1C 4 / 16 % 16 < 3) (hsspace : blockField bs 0x1C 4 / 256 % 4 < 2) (hdspace : blockField bs 0x1C 4 / 1024 < 2)
    (hpos : 0 < blockField bs 0x18 4) (hmax : blockField bs 0x18 4 ≤ 2 ^ 22)
    (heven : blockField bs 0x1C 4 % 16 = 3 → blockField bs 0x18 4 % 2 = 0) :
    let unit := if blockField bs 0x1C 4 % 16 = 4 then 8 else 4
    let len := if blockField bs 0x1C 4 % 16 = 3 then 2 * blockField bs 0x18 4 else unit * blockField bs 0x18 4
    s.endPlace c.group (blockField bs 0x1C 4 / 256 % 4) (BitVec.ofNat 64 (blockField bs 8 8)) len = .ok p →
    s.endPlace c.group (blockField bs 0x1C 4 / 1024) (BitVec.ofNat 64 (blockField bs 16 8)) len = .ok q →
    addressFault unit [(blockField bs 0x1C 4 / 256 % 4, false, BitVec.ofNat 64 (blockField bs 8 8)),
      (blockField bs 0x1C 4 / 1024, true, BitVec.ofNat 64 (blockField bs 16 8))] = none →
    s.headerArrivals c.group h = some arrive → (s.core core).held.length ≤ 30 →
    ∃ t k, exec .reduce s = .next t ∧ Pushed s t core c k ∧ k.kind = .reduce ∧ k.arrive = arrive ∧
      k.rows = [{ sspace := blockField bs 0x1C 4 / 256 % 4, src := p.2, sgrp := p.1, dspace := blockField bs 0x1C 4 / 1024, dst := q.2
                  dgrps := [q.1], len := len }] := by
  intro unit len hp hq hfault harrive hroom
  have hthree : (reduceArgsOf bs).type = 3 ↔ blockField bs 0x1C 4 % 16 = 3 := reduceArgsOf_type_iff bs (n := 3) (by decide)
  have hpush := exec_reduce_pushes (p := p) (q := q) (arrive := arrive) (len := len) hb (r := reduceArgsOf bs) rfl
  simp only [reduceArgsOf_type, reduceArgsOf_op, reduceArgsOf_sspace, reduceArgsOf_dspace hf, reduceArgsOf_count, reduceUnit_reduceArgsOf,
    hthree] at hpush
  exact hpush rfl hf hzero htype hop hsspace hdspace hpos hmax heven hp hq hfault harrive hroom

/-! ## MMAC (12 R272) -/

/-- An MMA of a block stands last in the array's queue, and the chain goes on. -/
theorem exec_chainMmac_enqueues {bo ao : Nat} {arrive : List (Nat × Nat)} {word : Dword} (hb : Block s core c 4 bs h)
    (hword : BitVec.ofNat 64 (blockField bs 8 8) = word) (hzero : blockZero bs 0x18 64 = true) (hgood : badCopyMma word false = none)
    (hsa : (fieldsX word).sa = true) (hoffers : s.offers (opcOf word) = true) (htile : ¬ s.accSize c.group < tileHi (fieldsX word))
    (hbo : s.arrayRegion c.group (BitVec.ofNat 32 (blockField bs 0x10 4)) (mmaBBytes (opcOf word) (fieldsX word).n) 32 = .ok bo)
    (hao : s.arrayRegion c.group (BitVec.ofNat 32 (blockField bs 0x14 4)) (mmaABytes (opcOf word)) 1 = .ok ao)
    (harrive : s.headerArrivals c.group h = some arrive) (hqueue : (s.core core).array.length < 32)
    (hroom : (s.core core).held.length + 3 ≤ 32) :
    exec .chainMmac s = .next ((s.enqueue core { wave := c.wave, group := c.group, kind := opcOf word, x := fieldsX word, bAddr := bo
                                                 aAddr := ao, cmd := some c.id, arrive := arrive
                                                 ranges := copyMmaRanges c.group (opcOf word) (fieldsX word) bo ao }).chainOn core c.id) := by
  have hlen : (copyMmaRanges c.group (opcOf word) (fieldsX word) bo ao).length = 3 := by
    rw [copyMmaRanges, hsa]
    rfl
  refine congrArg _ (State.onBlock_acts hb ?_)
  dsimp only
  rw [hword, hbo, hao, harrive, hgood, hsa, hoffers, hzero, if_neg (by simp [htile])]
  exact if_neg (by omega)

theorem enqueue_chainOn_core (hone : ∀ x ∈ (s.core core).cmds, x.id = c.id → x = c) {o : ArrayOp}
    (hyoung : ∀ y ∈ (s.core core).array, y.seq < (s.core core).nextSeq) :
    (((s.enqueue core o).chainOn core c.id).core core).array = (s.core core).array ++
      [{ o with pc := s.cur.iaddr, split := s.cur.split, seq := (s.core core).nextSeq, id := (s.core core).nextArray }] ∧
    (((s.enqueue core o).chainOn core c.id).core core).cmds =
      (s.core core).cmds.map (fun y => if y.id = c.id then chainNext c (c.chain.next + 64) else y) := by
  have hins := Core.insertOp_of_youngest (c := s.core core) (o := { o with pc := s.cur.iaddr, split := s.cur.split, seq := (s.core core).nextSeq })
    hyoung
  rw [State.chainOn, State.onCmd, State.core_onCore_self, State.enqueue, State.core_onCore_self, hins]
  exact ⟨rfl, State.onCmd_cmds_of_unique hone _⟩
end

end Sys2Proof.Machine

/-! The block commands that act at once (O28; 12 R270, R273, R274, R276): a chain that ends, one that goes on, and the test of a semaphore in
scratchpad. -/

namespace Sys2Proof.Machine

open Sys2Proof.Claims

section
variable {s : State} {core id code : Nat} {c : Cmd} {bs : List Byte} {h : BlockHeader}

/-! ## The end of a chain (12 R276) -/

/-- A chain without a status to write leaves the engine when it ends. -/
theorem endChain_leaves (hcmd : s.cmd core id = some c) (hat : c.chain.statusAt = none) (st : Nat) :
    (s.endChain core id st).mem = s.mem ∧ (s.endChain core id st).groups = s.groups ∧ (s.endChain core id st).cmd core id = none := by
  obtain rfl := State.cmd_id hcmd
  have hread := State.cmd_onCmd hcmd (f := fun x => { x with chain := { x.chain with waiting := none, status := some st }, phase := 0
                                                             reply := none, awaiting := false }) fun _ hx => hx
  have hfinish : s.endChain core c.id st = (s.onCmd core c.id (fun x => { x with chain := { x.chain with waiting := none, status := some st }
                                                                                 phase := 0, reply := none, awaiting := false })).retireCmd core
      { c with chain := { c.chain with waiting := none, status := some st }, phase := 0, reply := none, awaiting := false } := by
    simp only [State.endChain, hread, State.finishChain, hat]
  rw [hfinish]
  obtain ⟨hmem, hgroups, -⟩ := State.retireCmd_keeps _ core _
  exact ⟨hmem, hgroups, State.cmd_retireCmd ..⟩

/-- A block whose header is malformed ends its chain (12 R270). -/
theorem State.onBlock_malformed (harg : s.arg = .block core c.id bs) (hcmd : s.cmd core c.id = some c)
    (htakes : c.takesBlock (s.core core) = true) (hcode : blockField bs 0 1 = code) (hheader : blockHeader bs (code = 7) = none)
    (act : Nat → Cmd → List Byte → BlockHeader → Option State) : s.onBlock code act = s.endChain core c.id 2 := by
  simp [State.onBlock, harg, hcmd, htakes, hcode, hheader]

/-- Each command byte's instruction acts on blocks of that byte. -/
theorem exec_blockInstr {i : Instr} (hi : blockInstr code = some i) : ∃ act, exec i s = .next (s.onBlock code act) := by
  unfold blockInstr at hi
  split at hi <;> cases hi <;> exact ⟨_, rfl⟩

theorem headerArrivals_of_noArv (hb : h.arv = false) (g : Nat) : s.headerArrivals g h = some [] := by
  rw [State.headerArrivals, hb]
  rfl

theorem exec_chainEnd_ends (hb : Block s core c 10 bs h) (hzero : blockZero bs 8 64 = true) (harv : h.arv = false) :
    exec .chainEnd s = .next (s.endChain core c.id 0) := by
  refine congrArg _ (State.onBlock_acts hb ?_)
  rw [if_neg (by simp [hzero]), headerArrivals_of_noArv harv]
  rfl

/-! ## LINK and BARARR (12 R274, R276) -/

theorem exec_chainLink_goes (hb : Block s core c 9 bs h) (hzero : blockZero bs 16 64 = true) (halign : blockField bs 8 8 % 64 = 0)
    (harv : h.arv = false) : exec .chainLink s = .next (s.chainTo core c.id (BitVec.ofNat 64 (blockField bs 8 8))) := by
  refine congrArg _ (State.onBlock_acts hb ?_)
  dsimp only
  rw [dwordField_toNat, if_neg (by simp [hzero, halign]), headerArrivals_of_noArv harv]
  rfl

theorem exec_bararr_arrives {p : Nat × Nat} (hb : Block s core c 7 bs h) (hzero : blockZero bs 8 64 = true)
    (hp : s.barrierRef c.group (BitVec.ofNat 32 h.bref.toNat) = some p) :
    exec .bararr s = .next ((s.onBarrier p.1 p.2 Barrier.arrive).chainOn core c.id) := by
  refine congrArg _ (State.onBlock_acts hb ?_)
  rw [BitVec.ofNat_toNat] at hp
  rw [if_neg (by simp [hzero]), hp]
  rfl

/-- A barrier changes alone. -/
theorem State.barrier_onBarrier {g k : Nat} {b : Barrier} (h : s.barrier g k = some b) (f : Barrier → Barrier) (g' k' : Nat) :
    (s.onBarrier g k f).barrier g' k' = if g' = g ∧ k' = k then some (f b) else s.barrier g' k' := by
  obtain ⟨z, hz, hb⟩ := State.barrier_eq_some (p := (g, k)) h
  by_cases hg : g' = g
  · subst hg
    simp only [State.barrier, State.onBarrier, State.group_onGroup_self, hz, Option.map_some, List.getElem?_modify, true_and]
    by_cases hk : k' = k
    · subst hk
      simp [hb]
    · simp [hk, Ne.symm hk]
  · rw [if_neg (fun hc => hg hc.1), State.barrier, State.onBarrier, State.group_onGroup_ne _ _ hg, State.barrier]

theorem State.cycle_onCmd (s : State) (core id : Nat) (f : Cmd → Cmd) : ((s.onCmd core id f).core core).cycle = (s.core core).cycle := by
  rw [State.onCmd, State.core_onCore_self]

/-! ## SEMWAIT on scratchpad (12 R273) -/

/-- The fields of a SEMWAIT block. -/
def semTestOf (bs : List Byte) : SemTest :=
  { addr := BitVec.ofNat 64 (blockField bs 8 8), cmp := BitVec.ofNat 64 (blockField bs 16 8), test := BitVec.ofNat 3 (blockField bs 0x18 1)
    wide := blockField bs 0x18 1 / 8 % 2 = 1, onFail := BitVec.ofNat 2 (blockField bs 0x18 1 / 16)
    space := BitVec.ofNat 2 (blockField bs 0x18 1 / 64), alt := BitVec.ofNat 64 (blockField bs 0x20 8) }

theorem loWord_ofNat (n : Nat) : loWord (BitVec.ofNat 64 n) = BitVec.ofNat 32 n := by
  refine BitVec.eq_of_toNat_eq ?_
  simp only [loWord, BitVec.extractLsb'_toNat, BitVec.toNat_ofNat, Nat.shiftRight_zero]
  omega

theorem hiWord_ofNat {n : Nat} (h : n < 2 ^ 32) : hiWord (BitVec.ofNat 64 n) = 0 := by
  refine BitVec.eq_of_toNat_eq ?_
  simp only [hiWord, BitVec.extractLsb'_toNat, BitVec.toNat_ofNat, Nat.shiftRight_eq_div_pow]
  simp
  omega

/-- A semaphore's test in the words of the statement. -/
theorem SemTest.holds_eq_semPasses (q : SemTest) (x : Nat) : q.holds x = semPasses q x := by
  have hlo : (loWord q.cmp).toNat = q.cmp.toNat % 2 ^ 32 := by simp [loWord]
  simp only [SemTest.holds, semPasses, hlo]
  by_cases h0 : q.test = 0
  · simp [h0]
  by_cases h1 : q.test = 1
  · simp [h1]
  by_cases h2 : q.test = 2
  · simp [h2]
  rw [if_neg h0, if_neg h1, if_neg h2]
  split
  · next h => exact absurd (BitVec.eq_of_toNat_eq h) h0
  · next h => exact absurd (BitVec.eq_of_toNat_eq h) h1
  · next h => exact absurd (BitVec.eq_of_toNat_eq h) h2
  · rfl

/-- A chain that waits on a semaphore, as its read leaves it. -/
def testing (c : Cmd) (q : SemTest) : Cmd := { c with reply := none, chain := { c.chain with waiting := some q } }

/-- The state in which a semaphore in scratchpad has been read. -/
def State.semRead (s : State) (core id : Nat) (q : SemTest) : State :=
  ({ s with free := s.free + 8 } : State).onCmd core id (fun x => testing x q)

/-- A command without arrivals keeps what it is where its arrivals are cleared. -/
theorem State.cmd_clearArrive (hcmd : s.cmd core id = some c) (harrive : c.arrive = []) :
    (s.onCmd core id (fun x => { x with arrive := [] })).cmd core id = some c :=
  (State.cmd_onCmd hcmd (f := fun x => { x with arrive := [] }) fun _ hx => hx).trans (by rw [← harrive])

/-- The state in which the chain's wait has made its arrivals. -/
def State.semDone (s : State) (core id : Nat) (q : SemTest) : State :=
  (s.semRead core id q).onCmd core id (fun x => { x with arrive := [] })

theorem State.cmd_semRead (hcmd : s.cmd core id = some c) (q : SemTest) : (s.semRead core id q).cmd core id = some (testing c q) :=
  State.cmd_onCmd (s := { s with free := s.free + 8 }) hcmd fun _ hx => hx

theorem State.cmd_semDone (hcmd : s.cmd core id = some c) (harrive : c.arrive = []) (q : SemTest) :
    (s.semDone core id q).cmd core id = some (testing c q) :=
  State.cmd_clearArrive (State.cmd_semRead hcmd q) harrive

theorem State.cmd_chainOn (hcmd : s.cmd core id = some c) : (s.chainOn core id).cmd core id = some (chainNext c (c.chain.next + 64)) :=
  State.cmd_onCmd hcmd fun _ hx => hx

theorem State.cmd_chainTo (hcmd : s.cmd core id = some c) (next : Dword) : (s.chainTo core id next).cmd core id = some (chainNext c next) :=
  State.cmd_onCmd hcmd fun _ hx => hx

/-- A chain that goes on after the caches of its core have dropped what an acquire drops. -/
theorem acquire_chainOn (hcmd : s.cmd core id = some c) : ((s.acquireAt core 5).chainOn core id).cmd core id =
      some (chainNext c (c.chain.next + 64)) ∧ (((s.acquireAt core 5).chainOn core id).core core).l1 = [] := by
  have hacquire : s.acquireAt core 5 = s.onCore core (fun k => { k with l1 := [] }) := rfl
  rw [hacquire]
  refine ⟨State.cmd_chainOn ((State.cmd_congr (by rw [State.core_onCore_self]) _).trans hcmd), ?_⟩
  rw [State.chainOn, State.onCmd, State.core_onCore_self, State.core_onCore_self]

/-- What follows from the word that a semaphore in scratchpad holds. -/
theorem semTry_of_scratch {q : SemTest} {p : Nat × Nat} (hspace : q.space = 1)
    (hplace : s.scratchPlace c.group (loWord q.addr) q.bytes = some p) (hbad : s.scratchBad p.1 p.2 q.bytes = false) (harrive : c.arrive = []) :
    let x := number ((List.range q.bytes).map (fun j => scratchAt s p.1 (p.2 + j)))
    s.semTry core c q = if x = 2 ^ (8 * q.bytes) - 1 then (s.semRead core c.id q).endChain core c.id 1
      else if semPasses q x = true then ((s.semDone core c.id q).acquireAt core 5).chainOn core c.id
      else match q.onFail.toNat with
        | 0 => (s.semRead core c.id q).onCmd core c.id (fun y => { y with chain := { y.chain with
            retryAt := (s.core core).cycle.toNat + 64 } })
        | 1 => (s.semDone core c.id q).chainOn core c.id
        | _ => (s.semDone core c.id q).chainTo core c.id q.alt := by
  intro x
  have hx : leNat ((s.engineScratch p.1 p.2 q.bytes).take q.bytes) = x := by
    rw [State.engineScratch_of_sound hbad, List.take_of_length_le (by simp), ← number_eq_leNat]
    rfl
  have hcycle : ((s.semRead core c.id q).core core).cycle = (s.core core).cycle :=
    State.cycle_onCmd { s with free := s.free + 8 } core c.id _
  simp only [State.semTry, hspace, if_true, hplace, hx, harrive, State.arriveAll, List.foldl_nil, SemTest.holds_eq_semPasses, ← hcycle] <;> rfl

/-- A comparison value that is not all ones. -/
theorem semTestOf_not_ones (hcmp : (semTestOf bs).wide = false → blockField bs 16 8 < 2 ^ 32 - 1)
    (hones : (semTestOf bs).wide = true → (semTestOf bs).cmp ≠ BitVec.allOnes 64) :
    (if (semTestOf bs).wide = true then decide ((semTestOf bs).cmp = BitVec.allOnes 64)
      else decide (loWord (semTestOf bs).cmp = BitVec.allOnes 32)) = false := by
  split
  · next hwide => exact decide_eq_false (hones hwide)
  · next hwide =>
    refine decide_eq_false fun heq => ?_
    have hlt := hcmp (Bool.eq_false_iff.2 hwide)
    have := congrArg BitVec.toNat ((loWord_ofNat (blockField bs 16 8)).symm.trans heq)
    rw [BitVec.toNat_ofNat, Nat.mod_eq_of_lt (by omega), BitVec.toNat_allOnes] at this
    omega

/-- SEMWAIT on scratchpad tests its semaphore where its checks pass. -/
theorem exec_semwait_tries {p : Nat × Nat} (hb : Block s core c 5 bs h) (hspace : blockField bs 0x18 1 / 64 = 1)
    (htest : blockField bs 0x18 1 % 8 < 4) (hfail : blockField bs 0x18 1 / 16 % 4 < 3) (hz₁ : blockField bs 0x19 7 = 0)
    (hz₂ : blockZero bs 0x28 64 = true) (halt : blockField bs 0x18 1 / 16 % 4 = 2 → (semTestOf bs).alt.toNat % 64 = 0)
    (hnoalt : blockField bs 0x18 1 / 16 % 4 ≠ 2 → (semTestOf bs).alt = 0)
    (hcmp : (semTestOf bs).wide = false → blockField bs 16 8 < 2 ^ 32 - 1)
    (hones : (semTestOf bs).wide = true → (semTestOf bs).cmp ≠ BitVec.allOnes 64) (haddr : blockField bs 8 8 < 2 ^ 32)
    (halign : blockField bs 8 8 % (semTestOf bs).bytes = 0) (harv : h.arv = false) (harrive : c.arrive = [])
    (hplace : s.scratchPlace c.group (loWord (semTestOf bs).addr) (semTestOf bs).bytes = some p) :
    exec .semwait s = .next ((s.onCmd core c.id (fun x => { x with arrive := [] })).semTry core c (semTestOf bs)) := by
  have hcmd := (block_cmd hb).1
  have hread := State.cmd_clearArrive hcmd harrive
  refine congrArg _ (State.onBlock_acts hb ?_)
  extract_lets f q ones place bad
  have hq : q = semTestOf bs := rfl
  have hbad : bad = false := by
    have hscratch : q.space = 1 := congrArg (BitVec.ofNat 2) hspace
    have hones' : ones = false := semTestOf_not_ones hcmp hones
    have hplace' : place = true := by
      have hhi : hiWord q.addr = 0 := hiWord_ofNat haddr
      have hsome : s.scratchPlace c.group (loWord q.addr) q.bytes = some p := hplace
      simp only [place, hscratch, if_true, hhi, hsome, decide_true, Option.isSome_some, Bool.and_self]
    have htest' : ¬ 4 ≤ q.test.toNat := Nat.not_le.2 ((BitVec.toNat_ofNat ..).trans_lt htest)
    have honFail : q.onFail.toNat = blockField bs 0x18 1 / 16 % 4 := BitVec.toNat_ofNat ..
    have hthree : q.onFail ≠ 3 := fun h3 => by
      rw [h3] at honFail
      exact absurd hfail (by rw [← honFail]; decide)
    have halt' : (if q.onFail = 2 then decide (q.alt.toNat % 64 ≠ 0) else decide (q.alt ≠ 0)) = false := by
      have htwo : q.onFail = 2 ↔ blockField bs 0x18 1 / 16 % 4 = 2 := by
        rw [← honFail, ← BitVec.toNat_inj]
        rfl
      split
      · next h2 => exact decide_eq_false (not_not.2 (halt (htwo.1 h2)))
      · next h2 => exact decide_eq_false (not_not.2 (hnoalt (mt htwo.2 h2)))
    have halign' : q.addr.toNat % q.bytes = 0 := (congrArg (· % q.bytes) (dwordField_toNat bs 8)).trans halign
    have hnarrow : (!q.wide && decide (hiWord q.cmp ≠ 0)) = false := by
      cases hwide : q.wide with
      | true => rfl
      | false =>
        have hhi : hiWord q.cmp = 0 := hiWord_ofNat ((hcmp hwide).trans (by decide))
        simp only [hhi, ne_eq, not_true_eq_false, decide_false, Bool.and_false]
    simp only [bad, hz₁, hz₂, htest', hthree, hscratch, halt', hones', hplace', halign', hnarrow]
    decide
  rw [hbad, headerArrivals_of_noArv harv]
  simp only [Bool.false_eq_true, if_false, Option.map_some, hread]
  rfl

/-- What a semaphore in scratchpad does to its chain. -/
theorem semTry_outcomes {q : SemTest} {p : Nat × Nat} (hcmd : s.cmd core c.id = some c) (hspace : q.space = 1)
    (hplace : s.scratchPlace c.group (loWord q.addr) q.bytes = some p) (hbad : s.scratchBad p.1 p.2 q.bytes = false) (harrive : c.arrive = [])
    (hat : c.chain.statusAt = none) (hfail : q.onFail.toNat < 3) :
    let x := number ((List.range q.bytes).map (fun j => scratchAt s p.1 (p.2 + j)))
    let t := s.semTry core c q
    t.mem = s.mem ∧ t.groups = s.groups ∧ (x = 2 ^ (8 * q.bytes) - 1 → t.cmd core c.id = none) ∧
      (x ≠ 2 ^ (8 * q.bytes) - 1 → ∃ c', t.cmd core c.id = some c' ∧
        (semPasses q x = true → c'.chain.next = c.chain.next + 64 ∧ c'.chain.waiting = none ∧ (t.core core).l1 = []) ∧
        (semPasses q x = false →
          (q.onFail = 0 → c'.chain.next = c.chain.next ∧ c'.chain.waiting = some q ∧
            c'.chain.retryAt = (s.core core).cycle.toNat + 64) ∧
          (q.onFail = 1 → c'.chain.next = c.chain.next + 64 ∧ c'.chain.waiting = none) ∧
          (q.onFail = 2 → c'.chain.next = q.alt ∧ c'.chain.waiting = none))) := by
  intro x t
  have ht : t = _ := semTry_of_scratch hspace hplace hbad harrive
  clear_value t
  have hread := State.cmd_semRead hcmd q
  have hdone := State.cmd_semDone hcmd harrive q
  have hmem : (s.semRead core c.id q).mem = s.mem ∧ (s.semRead core c.id q).groups = s.groups := ⟨rfl, rfl⟩
  have hmem' : (s.semDone core c.id q).mem = s.mem ∧ (s.semDone core c.id q).groups = s.groups := ⟨rfl, rfl⟩
  generalize s.semRead core c.id q = r at ht hread hmem
  generalize s.semDone core c.id q = d at ht hdone hmem'
  by_cases hx : x = 2 ^ (8 * q.bytes) - 1
  · rw [if_pos hx] at ht
    obtain ⟨hm, hg, hnone⟩ := endChain_leaves hread hat 1
    rw [ht]
    exact ⟨hm.trans hmem.1, hg.trans hmem.2, fun _ => hnone, fun hne => absurd hx hne⟩
  rw [if_neg hx] at ht
  by_cases hpass : semPasses q x = true
  · rw [if_pos hpass] at ht
    obtain ⟨hnext, hl1⟩ := acquire_chainOn hdone
    rw [ht]
    exact ⟨hmem'.1, hmem'.2, fun heq => absurd heq hx, fun _ => ⟨_, hnext, fun _ => ⟨rfl, rfl, hl1⟩,
      fun hno => absurd hpass (by rw [hno]; decide)⟩⟩
  rw [if_neg hpass] at ht
  suffices hfails : t.mem = s.mem ∧ t.groups = s.groups ∧ ∃ c', t.cmd core c.id = some c' ∧
      (q.onFail = 0 → c'.chain.next = c.chain.next ∧ c'.chain.waiting = some q ∧ c'.chain.retryAt = (s.core core).cycle.toNat + 64) ∧
      (q.onFail = 1 → c'.chain.next = c.chain.next + 64 ∧ c'.chain.waiting = none) ∧
      (q.onFail = 2 → c'.chain.next = q.alt ∧ c'.chain.waiting = none) by
    obtain ⟨hm, hg, c', hc', hafter⟩ := hfails
    exact ⟨hm, hg, fun heq => absurd heq hx, fun _ => ⟨c', hc', fun hp => absurd hp hpass, fun _ => hafter⟩⟩
  have hcases : q.onFail = 0 ∨ q.onFail = 1 ∨ q.onFail = 2 := by
    simp only [← BitVec.toNat_inj]
    change q.onFail.toNat = 0 ∨ q.onFail.toNat = 1 ∨ q.onFail.toNat = 2
    omega
  rcases hcases with h0 | h1 | h2
  · rw [h0] at ht ⊢
    rw [ht]
    exact ⟨hmem.1, hmem.2, _, State.cmd_onCmd hread fun _ hx => hx, fun _ => ⟨rfl, rfl, rfl⟩, fun h => absurd h (by decide),
      fun h => absurd h (by decide)⟩
  · rw [h1] at ht ⊢
    rw [ht]
    exact ⟨hmem'.1, hmem'.2, _, State.cmd_chainOn hdone, fun h => absurd h (by decide), fun _ => ⟨rfl, rfl⟩, fun h => absurd h (by decide)⟩
  · rw [h2] at ht ⊢
    rw [ht]
    exact ⟨hmem'.1, hmem'.2, _, State.cmd_chainTo hdone q.alt, fun h => absurd h (by decide), fun h => absurd h (by decide), fun _ => ⟨rfl, rfl⟩⟩
end

/-- Settles O28: a block command hands over its command, or acts at once, and its chain goes on, waits or ends. -/
theorem commandBlocks : Obligations.CommandBlocks := by
  refine ⟨⟨fun s core c bs h k hb hf hsrc hdst hzero hk hroom => exec_chainCopy_pushes hb hf hsrc hdst hzero hk hroom,
    fun s core c bs h k hb hstore hzero hk hroom => ?_,
    fun s core c bs h k hb hzero hk hroom => exec_chainMcast_pushes hb hzero hk hroom,
    fun s core c bs h p arrive hb hf hspace hzero halign hval haddr _ hp harrive hroom =>
      exec_semsig_pushes hb hf hspace hzero halign hval haddr hp harrive hroom,
    fun s core c bs h p q arrive hb hf hzero htype hop hsspace hdspace hpos hmax heven hp hq hfault harrive hroom =>
      exec_reduceBlock_pushes hb hf hzero htype hop hsspace hdspace hpos hmax heven hp hq hfault harrive hroom,
    fun s core c bs h bo ao arrive hb hzero hgood hsa hoffers htile hbo hao harrive hqueue hroom hyoung => ?_⟩,
    fun s core c bs h p hb hspace htest hfail hz₁ hz₂ halt hnoalt hcmp hones haddr halign harv harrive hat hplace hbad => ?_,
    fun s core c bs h p b hb hzero hp hbar hcount => ?_,
    fun s core c bs h hb hzero halign harv => ⟨_, exec_chainLink_goes hb hzero halign harv, chainTo_onlyCmd hb _⟩,
    fun s core c bs h hb hzero harv hat => ?_,
    fun s core c bs code i harg hcmd htakes hcode hi hheader hat => ?_⟩
  · split at hk
    · cases hk
    · next hx => exact exec_chainTcopy_pushes hb hstore hzero hx hk hroom
  · exact ⟨_, _, exec_chainMmac_enqueues hb rfl hzero hgood hsa hoffers (not_lt_tileHi htile) hbo hao harrive hqueue hroom, rfl,
      (enqueue_chainOn_core (block_cmd hb).2.2 hyoung).1, rfl, rfl, rfl, rfl, rfl, rfl, rfl, rfl, rfl,
      (enqueue_chainOn_core (block_cmd hb).2.2 hyoung).2⟩
  · have hplace' : s.scratchPlace c.group (loWord (semTestOf bs).addr) (semTestOf bs).bytes = some p := by
      rw [semTestOf, loWord_ofNat]
      exact hplace
    obtain ⟨hmem, hgroups, houtcomes⟩ := semTry_outcomes
      (s := s.onCmd core c.id (fun x => { x with arrive := [] })) (q := semTestOf bs) (State.cmd_clearArrive (block_cmd hb).1 harrive)
      (congrArg (BitVec.ofNat 2) hspace) hplace' hbad harrive hat
      ((BitVec.toNat_ofNat ..).trans_lt hfail)
    rw [State.cycle_onCmd] at houtcomes
    exact ⟨_, exec_semwait_tries hb hspace htest hfail hz₁ hz₂ halt hnoalt hcmp hones haddr halign harv harrive hplace', hmem, hgroups, houtcomes⟩
  · have hread : (s.onBarrier p.1 p.2 Barrier.arrive).cmd core c.id = some c :=
      (State.cmd_congr (congrArg Core.cmds (State.onGroup_core_same ..)) _).trans (block_cmd hb).1
    refine ⟨_, exec_bararr_arrives hb hzero hp, State.onGroup_mem .., ?_, fun g k hne => ?_, State.cmd_chainOn hread⟩
    · exact (State.barrier_onBarrier hbar Barrier.arrive p.1 p.2).trans (by rw [if_pos ⟨rfl, rfl⟩, Barrier.arrive_eq_arrived hcount])
    · exact (State.barrier_onBarrier hbar Barrier.arrive g k).trans (if_neg hne)
  · exact ⟨_, exec_chainEnd_ends hb hzero harv, endChain_leaves (block_cmd hb).1 hat 0⟩
  · obtain ⟨act, hact⟩ := exec_blockInstr (s := s) hi
    exact ⟨_, hact.trans (congrArg _ (State.onBlock_malformed harg hcmd htakes hcode hheader act)), endChain_leaves hcmd hat 2⟩

end Sys2Proof.Machine

/-! What an instruction that hands the copy engine a command does (O26; 12 R250–R254; 10 R229): its release, its admission, and the command
that stands last in the queue. -/

namespace Sys2Proof.Machine

open Sys2Proof.Claims

/-! ## The release at group scope (10 R219, R222, R229) -/

theorem staged_of_mem_stagedAll {s : State} {x : Staged} (h : x ∈ s.stagedAll) : x.part.staged = true := by
  obtain ⟨e, -, he⟩ := List.mem_flatMap.1 ((sortBy_perm _ _).mem_iff.1 h)
  split at he
  · cases he
  · obtain ⟨o, -, ho⟩ := List.mem_flatMap.1 he
    split at ho
    · cases ho
    · obtain ⟨u, hu, rfl⟩ := List.mem_map.1 ho
      exact (List.mem_filter.1 hu).2

/-- At group scope a staged store that a core sees is performed as far as the scope goes. -/
theorem State.releaseReady_two (s : State) (core wave : Nat) (less : Option (Nat × Nat)) : s.releaseReady core wave 2 less = true := by
  refine List.all_eq_true.2 fun x hx => ?_
  obtain ⟨hin, hseen⟩ := List.mem_filter.1 hx
  simp [AccUnit.covers, staged_of_mem_stagedAll hin, hseen]

section
variable {s : State} {w : Wave} {sp : Split} {n : Nat}

/-- A wave whose accesses have all been performed may release at group scope. -/
theorem State.mayRelease_two (hi : s.issuing = some (w, sp)) (hdone : ∀ o ∈ w.ops, o.passed = true ∧ ∀ x ∈ o.units, x.done = true) :
    s.mayRelease 2 = true := by
  have hcovered : w.opsCovered s.cur.core 2 = true := by
    simp only [Wave.opsCovered, List.all_eq_true, Bool.and_eq_true]
    intro o ho
    obtain ⟨hpassed, hunits⟩ := hdone o ho
    exact ⟨hpassed, fun u hu => by simp [AccUnit.covers, hunits u hu]⟩
  simp only [State.mayRelease, hi, hcovered, State.releaseReady_two, Bool.and_self]

/-- A copy instruction is admitted where nothing waits and there is room. -/
theorem State.letIn_of_free (hq : (s.core s.cur.core).waitq = []) (hqueue : ((s.core s.cur.core).cmds.filter (fun x => x.chainOf.isNone)).length < 64)
    (hroom : (s.core s.cur.core).held.length + n ≤ 32) : s.letIn n true = (true, s.letGo) := by
  simp [State.letIn, hq, State.yieldsTo, hroom, State.letGo, Core.queueUsed, hqueue]

/-! ## The instruction's own part -/

/-- What an instruction does besides with its command: it changes its wave by `f`, and its core's record cache. -/
def FinishesBy (s : State) (finish : State → State) (f : Wave → Wave) : Prop :=
  ∀ (t : State) a, t.cur = s.cur →
    finish (t.setWave s.cur.core s.cur.wave (some a)) = { t.setWave s.cur.core s.cur.wave (some (f a)) with
      cores := (finish (t.setWave s.cur.core s.cur.wave (some a))).cores } ∧
    (∀ k, k ≠ s.cur.core → (finish (t.setWave s.cur.core s.cur.wave (some a))).core k = t.core k) ∧
    (finish (t.setWave s.cur.core s.cur.wave (some a))).core s.cur.core = { t.core s.cur.core with
      records := ((finish (t.setWave s.cur.core s.cur.wave (some a))).core s.cur.core).records }

/-- Beside registers and windows, that changes the wave `w` by `more`. -/
structure Finishes (s : State) (w : Wave) (finish : State → State) (more f : Wave → Wave) : Prop where
  acts : FinishesBy s finish f
  splits : ∀ a, (f a).splits = a.splits
  v : ∀ a r l, (f a).v r l = a.v r l
  s : ∀ a k, (f a).s k = a.s k
  rest : ∀ a : Wave, a.sansRegs = w.sansRegs → (f a).sansRegs = (more w).sansRegs
  setSplit : ∀ k y, more (w.setSplit k y) = (more w).setSplit k y

theorem finishesBy_id (s : State) : FinishesBy s id id := fun _ _ _ => ⟨rfl, fun _ _ => rfl, rfl⟩

theorem finishes_id (s : State) (w : Wave) : Finishes s w id id id :=
  ⟨finishesBy_id s, fun _ => rfl, fun _ _ _ => rfl, fun _ _ => rfl, fun _ h => h, fun _ _ => rfl⟩

/-- A command of the issuing split of a state. -/
def Cmd.issuedBy (c : Cmd) (s : State) (w : Wave) : Cmd :=
  { c with wave := some s.cur.wave, group := w.group, ctx := w.ctx, pc := s.cur.iaddr, split := s.cur.split }

/-- The state `s` where its groups and its count of draws have become `gs` and `n` and the command `c` stands last in its core's queue. -/
def State.handing (s : State) (gs : Table (Option Group)) (n : Nat) (c : Cmd) : State :=
  (({ s with groups := gs, free := n } : State).onCore s.cur.core (fun x => { x with waitq := [] })).pushCmd s.cur.core c

theorem State.handing_core_ne (gs : Table (Option Group)) (c : Cmd) {k : Nat} (hk : k ≠ s.cur.core) : (s.handing gs n c).core k = s.core k :=
  (State.core_onCore_ne _ _ hk).trans (State.core_onCore_ne _ _ hk)

theorem State.handing_core_self (gs : Table (Option Group)) (c : Cmd) : (s.handing gs n c).core s.cur.core = { s.core s.cur.core with
    waitq := [], cmds := (s.core s.cur.core).cmds ++ [{ c with id := (s.core s.cur.core).nextCmd, seq := (s.core s.cur.core).nextSeq }]
    nextCmd := (s.core s.cur.core).nextCmd + 1, nextSeq := (s.core s.cur.core).nextSeq + 1 } := by
  rw [State.handing, State.pushCmd, State.core_onCore_self, State.core_onCore_self]
  rfl

/-- A command whose checks pass is handed over from the wave with its marks acted (12 R254). -/
theorem issueCmd_acts {u : Uses} {mk : Wave → Split → Except FaultInfo Cmd} {finish : Wave → Split → Cmd → State → State} {c : Cmd}
    (hi : Issues s u w sp) (hc : mk (w.seen sp s.free) sp = .ok c)
    (hdone : ∀ o ∈ w.ops, o.passed = true ∧ ∀ x ∈ o.units, x.done = true) (hq : (s.core s.cur.core).waitq = [])
    (hqueue : ((s.core s.cur.core).cmds.filter (fun x => x.chainOf.isNone)).length < 64)
    (hroom : (s.core s.cur.core).held.length + c.ranges.length ≤ 32) :
    ∃ a gs n, w.Marked a sp u ∧ (∀ k, (Table.get noneAt gs k).map Group.sansAcc = (s.group k).map Group.sansAcc) ∧
      s.issueCmd u mk finish = (finish (w.seen sp s.free) sp c
        ((s.handing gs n (c.issuedBy s w)).setWave s.cur.core s.cur.wave (some a))).advance := by
  obtain ⟨-, hissuing, hbusy, w', hp⟩ := hi
  obtain ⟨a, gs, n, ha, hgs, he⟩ := State.issueWith_acts _ hissuing hbusy hp
  refine ⟨a, gs, n, ha, hgs, he.trans ?_⟩
  have hletGo : (s.letGo.core s.cur.core).waitq = [] := (congrArg Core.waitq (State.letGo_core hq _)).trans hq
  simp only [hc, State.mayRelease_two hissuing hdone, State.letIn_of_free hq hqueue hroom, Bool.not_true, Bool.false_eq_true, if_false, hletGo]
  rfl

/-- A command whose checks fail stops the wave (12 R254). -/
theorem issueCmd_stops {u : Uses} {mk : Wave → Split → Except FaultInfo Cmd} {finish : Wave → Split → Cmd → State → State} {i : FaultInfo}
    (hi : Issues s u w sp) (hc : mk (w.seen sp s.free) sp = .error i) : s.issueCmd u mk finish = s.stopWith i := by
  obtain ⟨-, hissuing, hbusy, w', hp⟩ := hi
  obtain ⟨a, gs, n, -, -, he⟩ := State.issueWith_acts _ hissuing hbusy hp
  refine he.trans ?_
  simp only [hc]

/-- An instruction that hands the engine a command, and finishes as `more` says. -/
theorem issuesCmd_of_issueCmd {o : Out} {u : Uses} {mk : Wave → Split → Except FaultInfo Cmd} {finish : Wave → Split → Cmd → State → State}
    {more : Wave → Wave} {m : Nat} (ho : o = .next { s.issueCmd u mk finish with free := m })
    (hfinish : ∀ w sp c, Issues s u w sp → mk (w.seen sp s.free) sp = .ok c → ∃ f, Finishes s w (finish (w.seen sp s.free) sp c) more f) :
    IssuesCmd o s u mk more := by
  intro w sp hi
  refine ⟨fun i hc => ⟨m, ho.trans (by rw [issueCmd_stops hi hc])⟩, fun c hc hdone hq hqueue hroom => ?_⟩
  obtain ⟨f, hf⟩ := hfinish w sp c hi hc
  obtain ⟨a, gs, n, ha, hgs, he⟩ := issueCmd_acts (finish := finish) hi hc hdone hq hqueue hroom
  obtain ⟨hsvc, hissuing, -⟩ := hi
  obtain ⟨x, hx, hxs⟩ := Wave.sansRegs_splitSome ha.rest (State.issuing_split hissuing).2
  have hfx : (f a).split s.cur.split = some x := (congrArg (fun t => Table.get noneAt t s.cur.split) (hf.splits a)).trans hx
  obtain ⟨hrest, hothers, hcore⟩ := hf.acts (s.handing gs n (c.issuedBy s w)) a rfl
  generalize finish (w.seen sp s.free) sp c ((s.handing gs n (c.issuedBy s w)).setWave s.cur.core s.cur.wave (some a)) = t
    at he hrest hothers hcore
  rw [State.handing_core_self] at hcore
  have hwaitq : (t.core s.cur.core).waitq = [] := (congrArg Core.waitq hcore :)
  rw [← hwaitq] at hcore
  have hcur : t.cur = s.cur := (congrArg State.cur hrest :)
  have hready : t.issuing = some (f a, x) := by
    have hsame : t.issuing = ((s.handing gs n (c.issuedBy s w)).setWave s.cur.core s.cur.wave (some (f a))).issuing :=
      (congrArg State.issuing hrest :)
    exact hsame.trans ((State.issuing_setWave (s.handing gs n (c.issuedBy s w)) (f a)).trans (congrArg (Option.map _) hfx))
  rw [State.advance_eq (by rw [hcur, hsvc]) hready, hcur, past, hcur] at he
  rw [he] at ho
  refine ⟨_, s.reissued ((f a).setSplit s.cur.split (some (past s x))) gs n, _, _, ho, ⟨gs, n, rfl, hgs⟩, ?_, ⟨fun r l hl => ?_, fun k => ?_⟩,
    ?_, fun k hk => ?_, ?_, rfl⟩
  · rw [hf.setSplit]
    exact Wave.setSplit_sansRegs (hf.rest a ha.rest) _ (Split.retire_congr hxs ..)
  · rw [Wave.setSplit_v, hf.v, ha.v r l hl]
    rfl
  · rw [Wave.setSplit_s, hf.s, ha.s]
  · rw [hrest]
    simp only [State.setWave, Table.set_set]
    rfl
  · exact (hothers k hk).trans (State.handing_core_ne gs _ hk)
  · exact hcore
end

end Sys2Proof.Machine

/-! The instructions of the copy engine that hand it a command (O26; 12 R254–R263, R269). -/

namespace Sys2Proof.Machine

open Sys2Proof.Claims

theorem copyUses_scalars (a : MArgs) (n : Nat) : copyUses a n false = { sr := from_ a n } := by
  cases h : a.la <;> simp [copyUses, h, regs, from_]

theorem copyUses_rows (a : MArgs) (n : Nat) : copyUses a n true =
    { vr := [a.a.toNat, a.a.toNat + 1], sr := from_ a n, vfree := if a.la then [a.a.toNat, a.a.toNat + 1] else [] } := by
  rw [copyUses, if_pos rfl, regs_two]
  rfl

section
variable {s : State} {w : Wave} {sp : Split}

theorem State.with_free (t : State) : ({ t with free := t.free } : State) = t := rfl

/-- An instruction that does nothing but hand over its command. -/
theorem issuesCmd_of_issueCmd_alone {o : Out} {u : Uses} {mk : Wave → Split → Except FaultInfo Cmd}
    (ho : o = .next (s.issueCmd u mk (fun _ _ _ t => t))) : IssuesCmd o s u mk id :=
  issuesCmd_of_issueCmd (finish := fun _ _ _ t => t) (ho.trans (congrArg _ (State.with_free _).symm)) fun w _ _ _ _ => ⟨id, finishes_id s w⟩

/-- Where its wave has no RFENCE pending, an instruction acts at once (12 R262). -/
theorem State.afterRfence_of_none (hi : s.issuing = some (w, sp)) (hr : w.rfence = false) (act : State → State) : s.afterRfence act = act s := by
  have htry : s.tryRfence s.cur.core s.cur.wave = s := by simp [State.tryRfence, (State.issuing_split hi).1, hr]
  simp [State.afterRfence, htry, hi, hr]

/-- A record found in the cache is marked as used (12 R261). -/
theorem finishesBy_touchRecord (s : State) (c : Cmd) : FinishesBy s (fun t => t.touchRecord t.cur.core c) id := by
  intro t a hcur
  obtain ⟨hrest, hothers, hcore⟩ := State.touchRecord_keeps (t.setWave s.cur.core s.cur.wave (some a)) s.cur.core c
  have hat : (t.setWave s.cur.core s.cur.wave (some a)).cur.core = s.cur.core := congrArg Issuer.core hcur
  dsimp only
  rw [hat]
  exact ⟨hrest, hothers, hcore⟩

theorem finishes_touchRecord (s : State) (w : Wave) (c : Cmd) : Finishes s w (fun t => t.touchRecord t.cur.core c) id id :=
  ⟨finishesBy_touchRecord s c, fun _ => rfl, fun _ _ _ => rfl, fun _ _ => rfl, fun _ h => h, fun _ _ => rfl⟩

theorem issuesCmd_cpy (a : MArgs) (s : State) : IssuesCmd (exec (.cpy a) s) s { sr := from_ a 6 } (fun w _ =>
    s.mkLinear w.group s.cur.iaddr (pair w.s a.s.toNat) (pair w.s (a.s.toNat + 2)) (w.s (a.s.toNat + 4))
      (s.arrivalOf w.group (w.s (a.s.toNat + 5))) (a.d.toNat % 4) (a.d.toNat / 4)) id := by
  rw [← copyUses_scalars]
  exact issuesCmd_of_issueCmd_alone rfl

theorem issuesCmd_cpym (a : MArgs) (s : State) : IssuesCmd (exec (.cpym a) s) s { sr := from_ a 6 } (fun w _ =>
    s.mkMulticast w.group s.cur.iaddr (pair w.s a.s.toNat) (w.s (a.s.toNat + 2)) (w.s (a.s.toNat + 3)) (w.s (a.s.toNat + 4))
      (w.s (a.s.toNat + 5))) id := by
  rw [← copyUses_scalars]
  exact issuesCmd_of_issueCmd_alone rfl

theorem issuesCmd_rows {i : Instr} {scatter : Bool} {a : MArgs} (h : (i = .cpyg a ∧ scatter = false) ∨ (i = .cpys a ∧ scatter = true)) (s : State) :
    IssuesCmd (exec i s) s { vr := [a.a.toNat, a.a.toNat + 1], sr := from_ a 3, vfree := if a.la then [a.a.toNat, a.a.toNat + 1] else [] }
      (fun w sp => s.mkRows w sp a scatter) id := by
  rw [← copyUses_rows]
  obtain ⟨rfl, rfl⟩ | ⟨rfl, rfl⟩ := h
  · exact issuesCmd_of_issueCmd_alone rfl
  · exact issuesCmd_of_issueCmd_alone rfl

theorem issuesCmd_cpyt (a : MArgs) (hi : s.issuing = some (w, sp)) (hr : w.rfence = false) :
    IssuesCmd (exec (.cpyt a) s) s { sr := from_ a 8 } (fun w _ =>
      match s.mkTensor w.group s.cur.iaddr (pair w.s a.s.toNat) (w.s (a.s.toNat + 2)) (s.arrivalOf w.group (w.s (a.s.toNat + 3)))
          (a.d.getLsbD 0) ((List.range 4).map (fun j => w.s (a.s.toNat + 4 + j))) with
      | .error i => .error i
      | .ok c => s.tensorAtIssue s.cur.core w.ctx w.group c) id := by
  rw [← copyUses_scalars]
  refine issuesCmd_of_issueCmd (m := s.free + 1025) (finish := fun _ _ c t => t.touchRecord t.cur.core c)
    ((congrArg Host.Outcome.next (State.afterRfence_of_none hi hr _)).trans ?_) fun w _ c _ _ => ⟨id, finishes_touchRecord s w c⟩
  rfl

theorem issuesCmd_cblk (a : SArgs) (hi : s.issuing = some (w, sp)) (hr : w.rfence = false) :
    let br := if a.b = 0x3FF then [] else [a.b.toNat, a.b.toNat + 1]
    let ar := [a.a.toNat, a.a.toNat + 1]
    IssuesCmd (exec (.cblk a) s) s { sr := ar ++ br, sfree := (if a.la then ar else []) ++ (if a.lb then br else []) } (fun w _ =>
      let block := pair w.s a.a.toNat
      let status := pair w.s a.b.toNat
      if block.toNat % 64 ≠ 0 then .error { cause := .misaligned, kind := .engineRead, addr := block }
      else if a.b ≠ 0x3FF ∧ status.toNat % 8 ≠ 0 then .error { cause := .misaligned, kind := .engineWrite, addr := status }
      else .ok { kind := .chain, started := true,
                 chain := { next := block, statusAt := if a.b = 0x3FF then none else some status } }) id :=
  issuesCmd_of_issueCmd_alone (congrArg Host.Outcome.next (State.afterRfence_of_none hi hr _))

/-! ## CPYMMA (12 R263) -/

/-- The MMA of a copy has the fields of its MX word. -/
theorem mkCopyMma_mma {k : Nat} {c : Cmd} (h : s.mkCopyMma w k = .ok c) : ∃ m, c.mma = some m ∧ m.x = fieldsX (w.s2 (k + 4)) := by
  unfold State.mkCopyMma at h
  dsimp only at h
  repeat' split at h
  all_goals cases h
  all_goals exact ⟨_, rfl, rfl⟩

/-- The window of a copy's MMA. -/
def copyMmaWindow (m : CmdMma) (w : Wave) : MmaWindow :=
  { ticket := m.ticket, a := m.x.a.toNat, latched := true, grp := w.group, blo := m.bAddr, bhi := m.bAddr + mmaBBytes m.kind m.x.n
    dlo := tileLo m.x, dhi := tileHi m.x, count := w.issued }

/-- What a CPYMMA does to its wave `y`, which was `w` when it issued. -/
def copyMmaTakes (m : CmdMma) (w y : Wave) : Wave :=
  { y.ticketed (if m.x.sa || m.x.ru then y.latch else {}) with windows := y.windows ++ [copyMmaWindow m w] }

theorem State.onIssuer_setWave {t : State} (hcur : t.cur = s.cur) (v : Wave) (f : Wave → Wave) :
    (t.setWave s.cur.core s.cur.wave (some v)).onIssuer f = t.setWave s.cur.core s.cur.wave (some (f v)) := by
  have hat : (t.setWave s.cur.core s.cur.wave (some v)).cur = s.cur := hcur
  rw [State.onIssuer, hat, State.onWave, State.wave_setWave_self]
  exact State.setWave_again ..

/-- What a CPYMMA does with its command. -/
def copyMmaFinish (w : Wave) (c : Cmd) (t : State) : State :=
  match c.mma with
  | none => t
  | some m => t.takeTicket.onIssuer (fun y => { y with
      latch := if m.x.sa || m.x.ru then y.latch else {}, windows := y.windows ++ [copyMmaWindow m w] })

/-- A CPYMMA takes a ticket, and the latch goes where the MMA takes A from it and does not keep it. -/
theorem finishes_copyMma (s : State) (v w : Wave) {c : Cmd} {m : CmdMma} (hm : c.mma = some m) : Finishes s w (copyMmaFinish v c)
    (fun y => y.ticketed (if m.x.sa = true ∨ m.x.ru = true then y.latch else {})) (copyMmaTakes m v) := by
  refine ⟨fun t a hcur => ?_, fun _ => rfl, fun _ _ _ => rfl, fun _ _ => rfl, fun a ha => ?_, fun _ _ => rfl⟩
  · simp only [copyMmaFinish, hm, State.takeTicket, State.onIssuer_setWave hcur]
    exact ⟨rfl, fun _ _ => rfl, rfl⟩
  · have hlatch : a.latch = w.latch := (congrArg Wave.latch ha :)
    have hsame : (copyMmaTakes m v a).sansRegs = (a.ticketed (if m.x.sa || m.x.ru then a.latch else {})).sansRegs := rfl
    rw [hsame, hlatch]
    simp only [Bool.or_eq_true]
    exact Wave.ticketed_sansRegs ha _

theorem State.copyPending_eq_false (h : ∀ c ∈ (s.core s.cur.core).cmds, c.mma = none ∨ c.wave ≠ some s.cur.wave) : s.copyPending = false := by
  simp only [State.copyPending, List.any_eq_false, Bool.and_eq_true, decide_eq_true_eq, not_and]
  exact fun c hc hsome => (h c hc).resolve_left (Option.isSome_iff_ne_none.1 hsome)

theorem copyMmaUses (a : MArgs) (x : XArgs) : ({ copyUses a 7 false with
      sr := (copyUses a 7 false).sr ++ [x.s.toNat], vfree := if x.la && !x.sa then regs x.a.toNat 8 else [] } : Uses) =
    { sr := from_ a 7 ++ [x.s.toNat], vfree := if x.la = true ∧ x.sa = false then (List.range 8).map (x.a.toNat + ·) else [] } := by
  rw [copyUses_scalars]
  simp [regs]

theorem exec_cpymma_issues {s' : State} {x : XArgs} (a : MArgs) (h : Whole s s' w sp)
    (hx : x = fieldsX (pair (w.seen sp s'.free).s (a.s.toNat + 4)))
    (hcopies : ∀ c ∈ (s'.core s'.cur.core).cmds, c.mma = none ∨ c.wave ≠ some s'.cur.wave) (htickets : w.tickets < 64) :
    exec (.cpymma a) s = .next (s'.issueCmd { copyUses a 7 false with
        sr := (copyUses a 7 false).sr ++ [x.s.toNat], vfree := if x.la && !x.sa then regs x.a.toNat 8 else [] }
      (fun w _ => s'.mkCopyMma w a.s.toNat) (fun w _ => copyMmaFinish w)) := by
  refine congrArg _ ((State.mx_of_whole h _).trans ?_)
  dsimp only
  rw [if_neg (by simp [State.copyPending_eq_false hcopies, htickets]), hx]
  rfl

theorem issuesCmd_cpymma {s' : State} {x : XArgs} (a : MArgs) (h : Whole s s' w sp)
    (hx : x = fieldsX (pair (w.seen sp s'.free).s (a.s.toNat + 4)))
    (hcopies : ∀ c ∈ (s'.core s'.cur.core).cmds, c.mma = none ∨ c.wave ≠ some s'.cur.wave) (htickets : w.tickets < 64) :
    IssuesCmd (exec (.cpymma a) s) s' { sr := from_ a 7 ++ [x.s.toNat]
                                        vfree := if x.la = true ∧ x.sa = false then (List.range 8).map (x.a.toNat + ·) else [] }
      (fun w _ => s'.mkCopyMma w a.s.toNat)
      (fun v => { v with mticket := v.mticket + 1, latch := if x.sa = true ∨ x.ru = true then v.latch else {} }) := by
  rw [← copyMmaUses]
  refine issuesCmd_of_issueCmd (finish := fun w _ => copyMmaFinish w)
    ((exec_cpymma_issues a h hx hcopies htickets).trans (congrArg _ (State.with_free _).symm)) fun w₁ sp₁ c hi hc => ?_
  obtain ⟨-, hissuing, -⟩ := hi
  obtain ⟨-, hissuing', -⟩ := h
  obtain ⟨rfl, rfl⟩ := Prod.mk.injEq .. ▸ Option.some.inj (hissuing.symm.trans hissuing')
  obtain ⟨m, hm, hmx⟩ := mkCopyMma_mma hc
  rw [hx.trans (Eq.symm hmx)]
  exact ⟨_, finishes_copyMma s' _ _ hm⟩
end

end Sys2Proof.Machine

/-! What the commands of CPY and CPYG hold (O26; 12 R254, R256, R258). -/

namespace Sys2Proof.Machine

open Sys2Proof.Claims

section
variable {s : State} {g ss ds : Nat} {iaddr src dst : Dword} {len : Word} {arrive : Option (List (Nat × Nat))}

/-! ## Linear copies (12 R254, R256) -/

/-- A length that is no multiple of 4, or too long. -/
theorem mkLinear_length (h : len.toNat % 4 ≠ 0 ∨ 2 ^ 24 < len.toNat) :
    s.mkLinear g iaddr src dst len arrive ss ds = .error { cause := .illegalOperand, addr := iaddr } := by
  cases arrive with
  | none => rfl
  | some l => simp only [State.mkLinear, if_pos h, operandFault]

/-- A copy within global memory, its length sound. -/
theorem mkLinear_global (h₁ : len.toNat % 4 = 0) (h₂ : len.toNat ≤ 2 ^ 24) : s.mkLinear g iaddr src dst len (some []) 0 0 =
    match addressFault 4 [(0, false, src), (0, true, dst)] with
    | some i => .error i
    | none => .ok { kind := .linear, rows := if len.toNat = 0 then [] else
        [{ src := src.toNat, sgrp := g, dst := dst.toNat, dgrps := [g], len := len.toNat }] } := by
  have hlen : ¬ (len.toNat % 4 ≠ 0 ∨ 2 ^ 24 < len.toNat) := by omega
  simp only [State.mkLinear, if_neg hlen, State.endPlace, if_true] <;> rfl

theorem mkLinear_aligned (h₁ : len.toNat % 4 = 0) (h₂ : len.toNat ≤ 2 ^ 24) (hsrc : src.toNat % 4 = 0) (hdst : dst.toNat % 4 = 0)
    (hsrc' : src.toNat < 2 ^ 56) (hdst' : dst.toNat < 2 ^ 56) :
    ∃ c, s.mkLinear g iaddr src dst len (some []) 0 0 = .ok c ∧ c.kind = .linear ∧ c.arrive = [] ∧ c.ranges = [] ∧
      c.rows = if len = 0 then [] else [{ src := src.toNat, sgrp := g, dst := dst.toNat, dgrps := [g], len := len.toNat }] := by
  have hnone : addressFault 4 [(0, false, src), (0, true, dst)] = none := by
    have hlow : [(0, false, src), (0, true, dst)].find? (fun x => x.1 = 0 && decide (2 ^ 56 ≤ x.2.2.toNat)) = none :=
      List.find?_eq_none.2 (by simp; omega)
    simp only [addressFault, hlow]
    simp [hsrc, hdst]
  have hzero : len.toNat = 0 ↔ len = 0 := BitVec.toNat_inj (y := 0)
  rw [mkLinear_global h₁ h₂, hnone]
  refine ⟨_, rfl, rfl, rfl, rfl, ?_⟩
  simp only [hzero]

theorem mkLinear_misaligned (h₁ : len.toNat % 4 = 0) (h₂ : len.toNat ≤ 2 ^ 24) (hsrc : src.toNat % 4 ≠ 0) :
    s.mkLinear g iaddr src dst len (some []) 0 0 = .error { cause := .misaligned, kind := .engineRead, addr := src } := by
  have hfault : addressFault 4 [(0, false, src), (0, true, dst)] = some { cause := .misaligned, kind := .engineRead, addr := src } := by
    simp [addressFault, hsrc, engineFault, endKind]
  rw [mkLinear_global h₁ h₂, hfault]
end

/-! ## Gathers (12 R258) -/

theorem lanesOf_and_not (x y : Dword) : lanesOf (x &&& ~~~y) = (List.range 64).filter (fun l => x.getLsbD l && !y.getLsbD l) :=
  List.filter_congr fun l hl => by simp [List.mem_range.1 hl]

/-- Where each of a list has a place, what is made at the places is made for each. -/
theorem map_filterMap_of_places {α β γ δ : Type} {l : List α} {place : α → Option β} {make : α → β → γ} {f : γ → δ} {r : α → δ}
    (h : ∀ i ∈ l, ∃ p, place i = some p ∧ f (make i p) = r i) : (l.filterMap (fun i => (place i).map (make i))).map f = l.map r := by
  rw [List.map_filterMap, ← List.filterMap_eq_map]
  refine List.filterMap_congr fun i hi => ?_
  obtain ⟨p, hp, hr⟩ := h i hi
  rw [hp, Option.map_some, Option.map_some, hr]
  rfl

/-- A place in scratchpad lies at the offset of its address (08 R178). -/
theorem scratchPlace_offset {s : State} {g n : Nat} {a : Word} {p : Nat × Nat} (h : s.scratchPlace g a n = some p) : p.2 = a.toNat % 2 ^ 21 := by
  have hfield : field a 20 0 = a.toNat % 2 ^ 21 := by rw [field_eq_fld (by decide) (by decide), fld]; omega
  unfold State.scratchPlace at h
  split at h
  · cases h
  · split at h
    · cases h
    · split at h
      · cases h
        exact hfield
      · cases h

/-- A gather's runs are those of its lanes, in order. -/
theorem mkRows_gather {s : State} {w : Wave} {sp : Split} {a : MArgs} {c : Cmd} (h : s.mkRows w sp a false = .ok c) :
    let lanes := (List.range 64).filter (fun l => (runM a w sp).getLsbD l && !w.helper.getLsbD l)
    c.kind = .gather ∧ c.rows.map (fun r => (r.src, r.len, r.sspace, r.dspace)) =
      lanes.map (fun l => ((w.v (a.a.toNat + 1) l ++ w.v a.a.toNat l).toNat, (w.s (a.s.toNat + 1)).toNat, 0, 1)) ∧
    c.rows.map (fun r => r.dst) = lanes.map (fun l => (w.s a.s.toNat + BitVec.ofNat 32 (l * (w.s (a.s.toNat + 1)).toNat)).toNat % 2 ^ 21) := by
  intro lanes
  have hlanes : lanesOf (w.runOf sp a.g &&& ~~~w.helper) = lanes := lanesOf_and_not _ _
  unfold State.mkRows at h
  rw [hlanes] at h
  dsimp only at h
  split at h
  · cases h
  split at h
  · cases h
  split at h
  · cases h
  next hplaces =>
  split at h
  · cases h
  cases h
  have hall : ∀ i ∈ lanes, ∃ p, s.scratchPlace w.group (w.s a.s.toNat + BitVec.ofNat 32 (i * (w.s (a.s.toNat + 1)).toNat))
      (w.s (a.s.toNat + 1)).toNat = some p := fun i hi => by
    exact Option.ne_none_iff_exists'.1 (by simpa using List.find?_eq_none.1 hplaces i hi)
  refine ⟨rfl, map_filterMap_of_places fun i hi => ?_, map_filterMap_of_places fun i hi => ?_⟩
  · obtain ⟨p, hp⟩ := hall i hi
    exact ⟨p, hp, rfl⟩
  · obtain ⟨p, hp⟩ := hall i hi
    exact ⟨p, hp, scratchPlace_offset hp⟩

end Sys2Proof.Machine

/-! Batches, their waits, the fence of records and the digest (O26; 12 R262, R267, R268; 15 R335). -/

namespace Sys2Proof.Machine

open Sys2Proof.Claims

section
variable {s : State} {w : Wave} {sp : Split}

/-! ## CBATCH (12 R267) -/

/-- %cbdone passes completed batches: of the wave nothing else changes, and without commands every batch is passed. -/
theorem State.batchDone_setWave (n : Nat) (t : State) (core k : Nat) (v : Wave) :
    ∃ b, (t.setWave core k (some v)).batchDone core k n = t.setWave core k (some { v with cbdone := b }) ∧
      ((t.core core).cmds = [] → v.openBatches ≤ n → b = v.batch) := by
  induction n generalizing v with
  | zero =>
    refine ⟨v.cbdone, rfl, fun _ hopen => ?_⟩
    have : v.batch - v.cbdone = 0 := BitVec.eq_of_toNat_eq (Nat.le_zero.1 hopen)
    bv_omega
  | succ n ih =>
    have hstep : (t.setWave core k (some v)).batchDone core k (n + 1) =
        if v.openBatches = 0 ∨ (t.core core).cmds.any (fun c => c.wave = some k && c.batch = some (v.cbdone + 1).toNat) = true then
          t.setWave core k (some v)
        else (t.setWave core k (some { v with cbdone := v.cbdone + 1 })).batchDone core k n := by
      rw [State.batchDone, State.wave_setWave_self]
      dsimp only
      rw [State.onWave, State.wave_setWave_self]
      dsimp only
      rw [State.setWave_again, State.setWave_core_same]
    rw [hstep]
    by_cases hstop : v.openBatches = 0 ∨ (t.core core).cmds.any (fun c => c.wave = some k && c.batch = some (v.cbdone + 1).toNat) = true
    · refine ⟨v.cbdone, if_pos hstop, fun hnone _ => ?_⟩
      rw [hnone] at hstop
      have : v.batch - v.cbdone = 0 := BitVec.eq_of_toNat_eq (hstop.resolve_right (by simp))
      bv_omega
    · rw [if_neg hstop]
      obtain ⟨b, hb, hall⟩ := ih { v with cbdone := v.cbdone + 1 }
      refine ⟨b, hb, fun hnone hopen => hall hnone ?_⟩
      have hne : v.openBatches ≠ 0 := fun h0 => hstop (.inl h0)
      simp only [Wave.openBatches] at hne hopen ⊢
      bv_omega

/-- Where the batches of a wave have room, its commands without a batch take the next. -/
theorem exec_cbatch (hsvc : s.cur.svc = none) (hi : s.issuing = some (w, sp)) (hroom : (w.batch - w.cbdone).toNat < 255) :
    ∃ t v, exec .cbatch s = .next t ∧ t = { s.setWave s.cur.core s.cur.wave (some v) with cores := t.cores } ∧
      v = { w.setSplit s.cur.split (some (past s sp)) with batch := w.batch + 1, cbdone := v.cbdone } ∧
      (∀ c, c ≠ s.cur.core → t.core c = s.core c) ∧
      t.core s.cur.core = { s.core s.cur.core with cmds := (s.core s.cur.core).cmds.map (fun x =>
        if x.wave = some s.cur.wave ∧ x.chainOf = none ∧ x.batch = none then { x with batch := some (w.batch + 1).toNat } else x) } ∧
      ((s.core s.cur.core).cmds = [] → v.cbdone = w.batch + 1) := by
  obtain ⟨hw, hs⟩ := State.issuing_split hi
  generalize hr : s.onCore s.cur.core (fun c => { c with cmds := c.cmds.map (fun x =>
    if x.wave = some s.cur.wave && x.chainOf.isNone && x.batch.isNone then { x with batch := some (w.batch + 1).toNat } else x) }) = r
  have hwave : r.wave s.cur.core s.cur.wave = some w := by rw [← hr]; exact hw
  have hcur : r.cur = s.cur := by rw [← hr]; rfl
  have hput : r.onIssuer (fun w => { w with batch := w.batch + 1 }) =
      r.setWave s.cur.core s.cur.wave (some { w with batch := w.batch + 1 }) := by rw [State.onIssuer, hcur, State.onWave, hwave]
  obtain ⟨b, hb, hall⟩ := State.batchDone_setWave 256 r s.cur.core s.cur.wave { w with batch := w.batch + 1 }
  have hready : (r.setWave s.cur.core s.cur.wave (some { w with batch := w.batch + 1, cbdone := b })).issuing =
      some ({ w with batch := w.batch + 1, cbdone := b }, sp) := by
    rw [← hcur, State.issuing_setWave, hcur]
    exact congrArg (Option.map _) hs
  have hexec : exec .cbatch s = .next (r.setWave s.cur.core s.cur.wave
      (some ({ w with batch := w.batch + 1, cbdone := b }.setSplit s.cur.split (some (past s sp))))) := by
    change execCbatch s = _
    have hopen : w.openBatches ≠ 255 := by rw [Wave.openBatches]; omega
    simp only [execCbatch, hi, if_neg hopen, hr, hcur, hput, hb]
    rw [State.advance_eq (by rw [State.setWave_cur, hcur, hsvc]) hready, past, State.setWave_cur, hcur, State.setWave_again, past]
  have hcore : r.core s.cur.core = { s.core s.cur.core with cmds := (s.core s.cur.core).cmds.map (fun x =>
      if x.wave = some s.cur.wave ∧ x.chainOf = none ∧ x.batch = none then { x with batch := some (w.batch + 1).toNat } else x) } := by
    rw [← hr, State.core_onCore_self]
    simp only [Bool.and_eq_true, decide_eq_true_eq, Option.isNone_iff_eq_none, and_assoc]
  refine ⟨_, _, hexec, by rw [← hr]; rfl, rfl, fun c hc => ?_, ?_, fun hnone => ?_⟩
  · rw [State.setWave_core_same, ← hr, State.core_onCore_ne _ _ hc]
  · rw [State.setWave_core_same, hcore]
  · refine hall (by rw [hcore, hnone]; rfl) ?_
    rw [Wave.openBatches]
    bv_omega

/-! ## CWAIT (12 R268) -/

theorem exec_cwait_writes (a : SArgs) (hi : s.issuing = some (w, sp))
    (hdone : ¬ (w.batch - (if a.a = 0x3FF then a.imm else ((w.seen sp s.free).s a.a.toNat).extractLsb' 0 16)).toNat < (w.batch - w.cbdone).toNat) :
    WritesScalars (exec (.cwait a) s) s { sr := if a.a = 0x3FF then [] else [a.a.toNat]
                                          sfree := if a.la then (if a.a = 0x3FF then [] else [a.a.toNat]) else [] }
      0 (fun _ sp => sp) (fun _ _ _ => []) := by
  refine writesScalars_of_issueWith (fun _ _ t => t.advance) rfl (fun _ _ _ h => h) (fun _ _ _ _ => ?_) fun hc w sp v gs n _ => ?_
  · change execCwait a s = _
    have hdone' : ¬ (w.batch - (if a.a = 0x3FF then a.imm else ((w.seen sp s.free).s a.a.toNat).extractLsb' 0 16)).toNat < w.openBatches := hdone
    simp only [execCwait, hi, if_neg hdone']
    rfl
  · rw [Wave.writeSs_nil]
    exact State.reissued_advance _ _ _ _ hc

/-! ## DGRD (15 R335) -/

theorem exec_dgrd_writes (a : SArgs) (hstores : ∀ w sp, s.issuing = some (w, sp) → (∀ o ∈ w.ops, o.kind = .store → o.space ≠ .global))
    (hcmds : ∀ c ∈ (s.core s.cur.core).cmds, c.wave ≠ some s.cur.wave) :
    WritesScalars (exec (.dgrd a) s) s { sw := [a.d.toNat, a.d.toNat + 1] } a.d.toNat (fun _ sp => sp) (fun w _ _ =>
      low (if ((s.launchOf w.group).map (fun l => l.flag 2)).getD false = true then w.digest else 0)) := by
  refine writesScalars_of_put rfl fun _ w sp hi => ?_
  have hnone : (w.ops.any (fun o => o.kind = .store && o.space = .global) || (s.core s.cur.core).cmds.any (fun c => c.wave = some s.cur.wave)) =
      false := by
    simp only [Bool.or_eq_false_iff, List.any_eq_false, Bool.and_eq_true, decide_eq_true_eq, not_and]
    exact ⟨fun o ho hk => hstores w sp hi o ho hk, hcmds⟩
  change execDgrd a s = _
  simp only [execDgrd, State.issueWith, hi, hnone]
  rfl

/-! ## RFENCE (12 R262) -/

/-- A command of a wave that a fence of records waits for. -/
def HoldsFence (s : State) (core k : Nat) : Prop := ∃ c ∈ (s.core core).cmds, c.wave = some k ∧ (c.recordWait = true ∨ c.kind = .chain)

theorem any_eq_true_iff_holdsFence (s : State) (core k : Nat) :
    (s.core core).cmds.any (fun c => c.wave = some k && (c.recordWait || c.kind = .chain)) = true ↔ HoldsFence s core k := by
  simp only [HoldsFence, List.any_eq_true, Bool.and_eq_true, Bool.or_eq_true, decide_eq_true_eq]

/-- A fence that waits stays pending. -/
theorem State.tryRfence_waits (t : State) {core k : Nat} (v : Wave) (h : HoldsFence t core k) :
    (t.setWave core k (some v)).tryRfence core k = t.setWave core k (some v) := by
  have hany := (any_eq_true_iff_holdsFence t core k).2 h
  simp only [State.tryRfence, State.wave_setWave_self, State.setWave_core_same, hany, Bool.not_true, Bool.and_false, Bool.false_eq_true, if_false]

/-- One that does not wait lets the records of its context go. -/
theorem State.tryRfence_completes (t : State) {core k : Nat} (v : Wave) (h : ¬ HoldsFence t core k) :
    (t.setWave core k (some { v with rfence := true })).tryRfence core k = (t.onCore core (fun c =>
      { c with records := c.records.filter (fun r => decide (r.ctx ≠ v.ctx)) })).setWave core k (some { v with rfence := false }) := by
  have hany := Bool.eq_false_iff.2 (mt (any_eq_true_iff_holdsFence t core k).1 h)
  simp only [State.tryRfence, State.wave_setWave_self, State.setWave_core_same, hany, Bool.not_false, Bool.and_self, if_true, State.onWave,
    State.setWave_again]
  rfl

theorem exec_rfence (hsvc : s.cur.svc = none) (hi : s.issuing = some (w, sp)) :
    ∃ t v, exec .rfence s = .next t ∧ t = { s.setWave s.cur.core s.cur.wave (some v) with cores := t.cores } ∧
      v = { w.setSplit s.cur.split (some (past s sp)) with rfence := v.rfence } ∧
      (HoldsFence s s.cur.core s.cur.wave → v.rfence = true ∧ t.cores = s.cores) ∧
      (¬ HoldsFence s s.cur.core s.cur.wave → v.rfence = false ∧ t.core s.cur.core =
        { s.core s.cur.core with records := (s.core s.cur.core).records.filter (fun r => decide (r.ctx ≠ w.ctx)) }) := by
  obtain ⟨hw, hs⟩ := State.issuing_split hi
  have hput : s.onIssuer (fun w => { w with rfence := true }) = s.setWave s.cur.core s.cur.wave (some { w with rfence := true }) := by
    rw [State.onIssuer, State.onWave, hw]
  have hexec : exec .rfence s = .next ((s.setWave s.cur.core s.cur.wave (some { w with rfence := true })).tryRfence s.cur.core s.cur.wave).advance := by
    change execRfence s = _
    rw [execRfence, hput]
  have hready : ∀ (r : State) b, r.cur = s.cur → (r.setWave s.cur.core s.cur.wave (some { w with rfence := b })).advance =
      r.setWave s.cur.core s.cur.wave (some { w.setSplit s.cur.split (some (past s sp)) with rfence := b }) := fun r b hcur => by
    have hissuing : (r.setWave s.cur.core s.cur.wave (some { w with rfence := b })).issuing = some ({ w with rfence := b }, sp) := by
      rw [← hcur, State.issuing_setWave, hcur]
      exact congrArg (Option.map _) hs
    rw [State.advance_eq (by rw [State.setWave_cur, hcur, hsvc]) hissuing, past, State.setWave_cur, hcur, State.setWave_again, past]
    rfl
  by_cases hp : HoldsFence s s.cur.core s.cur.wave
  · rw [State.tryRfence_waits s _ hp, hready s true rfl] at hexec
    exact ⟨_, _, hexec, rfl, rfl, fun _ => ⟨rfl, rfl⟩, fun hn => absurd hp hn⟩
  · rw [State.tryRfence_completes s w hp, hready (s.onCore s.cur.core _) false rfl] at hexec
    refine ⟨_, _, hexec, rfl, rfl, fun h => absurd h hp, fun _ => ⟨rfl, ?_⟩⟩
    rw [State.setWave_core_same, State.core_onCore_self]
end

/-- Settles O26: a copy instruction hands over the command that its operands make, last in the queue; batches, waits and fences of a wave. -/
theorem copyInstructions : Obligations.CopyInstructions := by
  refine ⟨⟨issuesCmd_cpy, issuesCmd_cpym, fun i scatter a s h => issuesCmd_rows h s, fun a s w₀ sp₀ hi hr => issuesCmd_cpyt a hi hr,
    fun a s w₀ sp₀ hi hr => issuesCmd_cblk a hi hr, fun a s s' w sp x h hx hcopies htickets => issuesCmd_cpymma a h hx hcopies htickets⟩,
    ⟨fun s g iaddr src dst len => mkLinear_aligned, fun s g iaddr src dst len arrive ss ds => mkLinear_length,
    fun s g iaddr src dst len => mkLinear_misaligned, fun s w sp a c => mkRows_gather⟩,
    fun s w sp => exec_cbatch, fun a s w sp => exec_cwait_writes a, fun s w sp => exec_rfence, fun a s => exec_dgrd_writes a⟩

end Sys2Proof.Machine
